-- ==== Sys2Proof/Word.lean ====
section
/-! DEFINITION. Words and addresses of the device (R10, R11): bytes, 32-bit register and record words, 64-bit
counters and 48-bit fabric addresses. -/

namespace Sys2Proof

/-- One byte. -/
abbrev Byte := BitVec 8

/-- A register word or record word (R28, R182). -/
abbrev Word := BitVec 32

/-- A counter or a bell count (R341, R534). -/
abbrev Long := BitVec 64

/-- A fabric address (R190). -/
abbrev Addr := BitVec 48

end Sys2Proof
end

