-- ==== Sys2Proof/Syntax.lean ====
section
/-! DEFINITION. The commands of the block: one constructor per row of the table of operations and events, with what
comes from outside as operands. Numbers of cores, dies, rings, ports, contexts and positions are plain numbers; what
the manual treats as bits is a bit vector. -/

namespace Sys2Proof

/-- The three issue queues of a core (R180). -/
inductive QueueId where
  | aq | vq | mq
  deriving DecidableEq, Repr

/-- Why the bell reference has failed (R346). -/
inductive RefFault where
  | stopped | stuck | frequency
  deriving DecidableEq, Repr

/-- What a MSG_NAK says: the MSEQ expected next (R434), a message refused (R440), or one whose bytes could not be written
(R410; log 48). -/
inductive NakKind where
  | resend | refused | unwritten
  deriving DecidableEq, Repr

/-- A message that has arrived whole from a peer (R428). `port` counts half-ports: LPn or LPn.A is 2n, LPn.B is
2n + 1 (R436). `tagOk` is false when the message's GCM tag fails (R439); in an open context it is not used. -/
structure LinkMsg where
  port    : Nat
  ctx     : Nat
  mseq    : BitVec 24
  level   : BitVec 4
  subop   : BitVec 8
  address : Addr
  operand : Long
  operand2 : Long
  reqTag  : Long
  data    : List Byte
  tagOk   : Bool
  deriving DecidableEq, Repr

/-- One flit of a FABRIC frame: the context and virtual channel it names (R425, R427). -/
structure FrameFlit where
  ctx : Nat
  vc  : Nat
  deriving DecidableEq, Repr

/-- An Ethernet frame arriving at a link port (R425). -/
structure LinkFrame where
  port      : Nat
  dest      : Addr
  etherType : BitVec 16
  fcsOk     : Bool
  flits     : List FrameFlit
  deriving DecidableEq, Repr

/-- One access entry of a management-port frame (R557). -/
structure AccessEntry where
  address : Word
  data    : Word
  write   : Bool
  deriving DecidableEq, Repr

/-- Who sends a register write: the initiator, and whether the write stands behind stream writes of its host core that
are still outstanding (R31). -/
structure Sender where
  id     : Nat
  behind : Bool
  deriving DecidableEq, Repr

/-- Who sends a register read: the initiator, and the bytes the access asks for (R28). -/
structure Reader where
  id    : Nat
  bytes : Nat
  deriving DecidableEq, Repr

/-- A register-access frame of the management port (R557). `lengthOk` says that the payload is 16 + 12 × COUNT bytes
and `reservedOk` that no header field has a reserved value. -/
structure MgmtFrame where
  dest       : Addr
  source     : Addr
  etherType  : BitVec 16
  fcsOk      : Bool
  seq        : BitVec 16
  lengthOk   : Bool
  reservedOk : Bool
  entries    : List AccessEntry
  deriving DecidableEq, Repr

/-- The header of a Raevo request and the requester's MAC address (R518). -/
structure RaevoReq where
  source : Addr
  seq    : BitVec 16
  length : Nat
  offset : Long
  deriving DecidableEq, Repr

/-- What stage 2 of start-up meets outside the logic: which links, stacks and ports come up, and whether the images
verify (R514). -/
structure Stage2Report where
  /-- the eight die-to-die links: the four ring links CDd to CDd+1, then the four hub links (R39) -/
  d2dTrained   : List Bool
  /-- the stacks whose identification and initialisation succeed, S0 to S7 (R396) -/
  stacksOk     : List Bool
  /-- hard and soft repair resources left per stack (R411, R418) -/
  pprHard      : List (BitVec 16)
  pprSoft      : List (BitVec 16)
  /-- per half-port: the training succeeded (R423) -/
  portsTrained : List Bool
  /-- per half-port: the one-way delay measured at training, in 0.1 ns (R446) -/
  portDelay    : List Word
  /-- per half-port: the flits of the partner's receive pools, by partition × 4 + virtual channel (R431, R432) -/
  portCredits  : List (List Nat)
  /-- the operating system and Britis images verify (R478) -/
  imagesOk     : Bool
  /-- SHA-512 of each image measured into M2, in load order (R478) -/
  imageHashes  : List (BitVec 512)
  deriving DecidableEq, Repr

/-- What a port meets when it is trained (R423): per half-port, whether training succeeds and the delay measured. -/
structure TrainReport where
  okA    : Bool
  okB    : Bool
  delay  : Word
  /-- the flits of the partner's receive pools, by partition × 4 + virtual channel (R431, R432) -/
  credits : List Nat
  deriving DecidableEq, Repr

/-- The commands. `init` is the initiator of a control access: 0 the management port, 1–16 host cores 0–15, 17–24 the
die controllers (R531), with what else the access says (`Sender`, `Reader`). -/
inductive Instr where
  /-- DOORBELL (R179): a write of `SEQ.RING_TAILx`; `behind` when stream writes of the issuing host core before it are
  not acknowledged (R31) -/
  | doorbell (init core ctx : Nat) (value : Word) (behind : Bool)
  /-- HELD_WRITE_RELEASE (R31): every earlier stream write of the host core has been acknowledged -/
  | heldWriteRelease (host : Nat)
  /-- RECORD_FETCH (R180) -/
  | recordFetch (core ctx : Nat)
  /-- NOP (R185) -/
  | nop (core ctx : Nat)
  /-- MATMUL (R186): the command at the front of the core's array queue issues -/
  | matmul (core : Nat)
  /-- GATHER_HOLD_EXPIRY (R108) -/
  | gatherHoldExpiry (core : Nat)
  /-- MATMUL_T (R102) -/
  | matmulT (core : Nat)
  /-- ACC_READ (R135) -/
  | accRead (core : Nat)
  /-- REDUCE_X (R148) -/
  | reduceX (core : Nat)
  /-- ATTN_FWD (R214) -/
  | attnFwd (core : Nat)
  /-- ATTN_BWD (R225) -/
  | attnBwd (core : Nat)
  /-- ATTN_DECODE (R266) -/
  | attnDecode (core : Nat)
  /-- COUCH (R256) -/
  | couch (core : Nat)
  /-- CONV (R276) -/
  | conv (core : Nat)
  /-- VEC (R169) -/
  | vec (core : Nat)
  /-- VEC_PROG (R173) -/
  | vecProg (core : Nat)
  /-- UPDATE_P1 (R324) -/
  | updateP1 (core : Nat)
  /-- UPDATE_P2 (R326) -/
  | updateP2 (core : Nat)
  /-- MOVE (R378) -/
  | move (core : Nat)
  /-- GATHER (R379) -/
  | gather (core : Nat)
  /-- SCATTER (R379) -/
  | scatter (core : Nat)
  /-- SIGNAL (R198) -/
  | signal (core ctx : Nat)
  /-- WAIT (R198) -/
  | wait (core ctx : Nat)
  /-- WAIT_TIMEOUT (R198) -/
  | waitTimeout (core ctx : Nat)
  /-- FENCE (R200) -/
  | fence (core ctx : Nat)
  /-- BOUNDARY (R200) -/
  | boundary (core ctx : Nat)
  /-- PARTITION_BOUNDARY (R16) -/
  | partitionBoundary (part : Nat)
  /-- TILE_RESIDENT (R374): the oldest landing tile of the core becomes resident -/
  | tileResident (core : Nat)
  /-- WRITEBACK_ACK (R202): the last write-back of the queue's oldest committed command is acknowledged -/
  | writebackAck (core : Nat) (queue : QueueId)
  /-- TRAP_RECORD (R205): the crier writes the next arriving trap -/
  | trapRecord
  /-- ALMANAC_TAIL_WRITE (R350) -/
  | almanacTailWrite (init : Sender) (die ring : Nat) (value : Word)
  /-- PREFETCH (R353) -/
  | prefetch (die ring : Nat)
  /-- SEND (R353) -/
  | send (die ring : Nat)
  /-- RECV_EXPECT (R353) -/
  | recvExpect (die ring : Nat)
  /-- BOUNDARY_ARM (R361) -/
  | boundaryArm (die ring : Nat)
  /-- STEP_BOUNDARY (R360) -/
  | stepBoundary
  /-- TOLL (R331) -/
  | toll (die ring : Nat)
  /-- TOLL_LEVEL_DEADLINE (R332): t_T + level × h -/
  | tollLevelDeadline (level : Nat)
  /-- EVAL_WINDOW (R364) -/
  | evalWindow (die ring : Nat)
  /-- EVAL_WINDOW_CLOSE (R364) -/
  | evalWindowClose (die ring : Nat)
  /-- RETRAIN_WINDOW (R365) -/
  | retrainWindow (die ring : Nat)
  /-- RETRAIN_WINDOW_CLOSE (R413) -/
  | retrainWindowClose (die ring : Nat)
  /-- CHECKPOINT (R353) -/
  | checkpoint (die ring : Nat)
  /-- WAKE (R353) -/
  | wake (die ring : Nat)
  /-- ENTRY_COMPLETE (R357): the transfer of the entry at ring count `pos` completes or fails -/
  | entryComplete (die ring pos : Nat) (ok : Bool)
  /-- DEADLINE_MISS (R358) -/
  | deadlineMiss (die ring pos : Nat)
  /-- WAIT_LIMIT_EXPIRY (R358) -/
  | waitLimitExpiry (die ring pos : Nat)
  /-- BELL_TICK (R341) -/
  | bellTick
  /-- EPOCH_MARK (R343): a mark arrives, or is missing where one was due -/
  | epochMark (arrived : Bool)
  /-- MEASUREMENT_WINDOW (R346): a window of 2^16 bt ends with this measured offset in ppm -/
  | measurementWindow (ppm : Int)
  /-- BELL_UNLOCK (R346) -/
  | bellUnlock (cause : RefFault) (ppm : Int)
  /-- GLITCH (R346) -/
  | glitch
  /-- WRITE (R440) -/
  | write (m : LinkMsg)
  /-- READ (R440): `operand` is the length requested (R428) -/
  | read (m : LinkMsg)
  /-- READ_RESP (R440) -/
  | readResp (m : LinkMsg)
  /-- ATOMIC (R440): `operand` is the value, `operand2` the value a CAS stores on a match -/
  | atomic (m : LinkMsg)
  /-- ATOMIC_RESP (R440): `operand` is the old value -/
  | atomicResp (m : LinkMsg)
  /-- TILE_RTS (R441) -/
  | tileRts (m : LinkMsg)
  /-- TILE_DATA (R440) -/
  | tileData (m : LinkMsg)
  /-- COLLECTIVE (R444): `operand` [31:0] is the collective number and [63:32] the segment number -/
  | collective (m : LinkMsg)
  /-- VOTE (R332): the 16 bytes of R331 in `data` -/
  | vote (m : LinkMsg)
  /-- RESULT (R332): the result in `data` -/
  | result (m : LinkMsg)
  /-- OPEN (R437): the key exchange of R486 in `data` -/
  | openMsg (m : LinkMsg)
  /-- MSG_ACK (R434) -/
  | msgAck (ctx : Nat) (mseq : BitVec 24)
  /-- MSG_NAK (R434), with what it says -/
  | msgNak (ctx : Nat) (mseq : BitVec 24) (kind : NakKind)
  /-- BELL (R446) -/
  | bell (port : Nat) (count : Long) (locked : Bool)
  /-- NEGOTIATE (R449): the partner's lowest and highest level -/
  | negotiate (port low high : Nat)
  /-- LINK_CTL (R427) -/
  | linkCtl (port : Nat) (lack : BitVec 12) (lnak : Bool)
  /-- IDLE (R429) -/
  | idle (port : Nat) (lack : BitVec 12) (lnak : Bool) (crVc crPart crCount : Nat)
  /-- LINK_REPLAY (R433) -/
  | linkReplay (port : Nat)
  /-- FEC_UNCORRECTABLE (R451) -/
  | fecUncorrectable (port : Nat)
  /-- FRAME (R425) -/
  | frame (f : LinkFrame)
  /-- PRIORITY_PAUSE (R425) -/
  | priorityPause (port priority : Nat)
  /-- PRIORITY_PAUSE_EXPIRY (R425) -/
  | priorityPauseExpiry (port priority : Nat)
  /-- RETRANSMIT (R434) -/
  | retransmit (ctx : Nat) (mseq : BitVec 24)
  /-- CONTEXT_TIMEOUT (R438) -/
  | contextTimeout (ctx : Nat)
  /-- LINK_RETRAIN (R452) -/
  | linkRetrain (port : Nat)
  /-- LINK_RETRAIN_DONE (R452) -/
  | linkRetrainDone (port : Nat) (ok : Bool)
  /-- PORT_TRAINING (R423): a write of `LINK.CTL` that sets an enable -/
  | portTraining (init : Sender) (port : Nat) (value : Word) (report : TrainReport)
  /-- CTX_OPEN (R437): a write of OPEN to `LINKCTX.CMD` -/
  | ctxOpen (init : Sender) (ctx : Nat)
  /-- CTX_CLOSE (R437) -/
  | ctxClose (init : Sender) (ctx : Nat)
  /-- LINK_REQ_TAIL_WRITE (R442) -/
  | linkReqTailWrite (init : Sender) (part : Nat) (value : Word)
  /-- LINK_REQ_WRITE (R440): the next record of the partition's ring starts -/
  | linkReqWrite (part : Nat)
  /-- LINK_REQ_READ (R440) -/
  | linkReqRead (part : Nat)
  /-- LINK_REQ_ATOMIC (R440) -/
  | linkReqAtomic (part : Nat)
  /-- REDUCE_SCATTER (R444) -/
  | reduceScatter (part : Nat)
  /-- ALL_GATHER (R444) -/
  | allGather (part : Nat)
  /-- ALL_REDUCE (R444) -/
  | allReduce (part : Nat)
  /-- LINK_REQ_COMPLETE (R442): the record at ring count `pos` has finished -/
  | linkReqComplete (part pos : Nat)
  /-- D2D_REPLAY (R38): port 0–11 is CDd.D2Dk as 3d + k, 12–15 the hub's ports; `ok` when the replayed flit passes -/
  | d2dReplay (port : Nat) (ok : Bool)
  /-- HBM_RETRAIN_TRIGGER (R414) -/
  | hbmRetrainTrigger (die ctl channel : Nat)
  /-- HBM_RETRAIN_END (R413): pins failed per pseudo-channel found by the retraining (R408); `inTime` when it completes
  within 20 µs -/
  | hbmRetrainEnd (die ctl : Nat) (inTime : Bool) (pins0 pins1 : List Nat)
  /-- RETRAIN_DUE (R413) -/
  | retrainDue (die ctl channel : Nat)
  /-- ADMIT (R460) -/
  | admitJob (init : Sender) (part : Nat)
  /-- ADMIT_DIGEST_DONE (R460): every peer's digest has arrived; `allMatch` when none differs -/
  | admitDigestDone (part : Nat) (allMatch : Bool)
  /-- ADMIT_TIMEOUT (R460) -/
  | admitTimeout (part : Nat)
  /-- END (R463) -/
  | endJob (init : Sender) (part : Nat) (ctxMask : BitVec 8)
  /-- JOB_CMD_BOUNDARY (R474) -/
  | jobCmdBoundary (init : Sender) (part : Nat)
  /-- SUSPEND (R465) -/
  | suspend (init : Sender) (part ctx : Nat)
  /-- RESUME (R204) -/
  | resume (init : Sender) (part ctx : Nat)
  /-- DISCARD (R204) -/
  | discard (init : Sender) (part ctx : Nat)
  /-- SLICE_START (R466) -/
  | sliceStart (part : Nat)
  /-- TILE_KILL (R466) -/
  | tileKill (core : Nat) (queue : QueueId)
  /-- SAVE_RESTORE (R467): `checkOk` when the restore's GMAC agrees -/
  | saveRestore (core : Nat) (checkOk : Bool)
  /-- DRAIN_CUT (R468): the message of this context has not sent LAST in time -/
  | drainCut (ctx : Nat)
  /-- SEAL (R482) -/
  | seal (init : Sender) (part : Nat)
  /-- UNSEAL (R493) -/
  | unseal (init : Sender) (part : Nat)
  /-- LOAD (R484) -/
  | load (init : Sender) (part : Nat)
  /-- ATTEST (R479) -/
  | attest (init : Sender) (part : Nat)
  /-- PWR_EN_ASSERT (R552): seen asserted for 10 ms, with the input voltage in 10 mV units -/
  | pwrEnAssert (centivolts : Nat)
  /-- PWR_EN_DEASSERT (R497) -/
  | pwrEnDeassert
  /-- UNDERVOLTAGE (R497) -/
  | undervoltage
  /-- OVERVOLTAGE (R497) -/
  | overvoltage
  /-- DOMAIN_REGULATION (R499): every domain of the ramping rank is in regulation -/
  | domainRegulation
  /-- MOD_RST_N_ASSERT (R508) -/
  | modRstNAssert
  /-- MOD_RST_N_RELEASE (R509) -/
  | modRstNRelease
  /-- THROTTLE_N_ASSERT (R503); `fast` when the edge before it was less than 5 µs ago (R552) -/
  | throttleNAssert (fast : Bool)
  /-- THROTTLE_N_DEASSERT (R552): seen deasserted, `fast` as above; `quiet` when 1 ms has passed without an edge -/
  | throttleNDeassert (fast quiet : Bool)
  /-- THROTTLE_LONG (R552) -/
  | throttleLong
  /-- DROOP_SAG (R502) -/
  | droopSag (die quad : Nat)
  /-- DROOP_DEEP (R502) -/
  | droopDeep (die quad : Nat)
  /-- DROOP_RECOVER (R502) -/
  | droopRecover (die quad : Nat)
  /-- DROOP_HOLD_END (R502) -/
  | droopHoldEnd (die quad : Nat)
  /-- CAP_PERIOD (R504): average input power in W, input voltage in 10 mV units, and the temperatures in °C of the 16
  quadrants, 4 hub sensors, 8 stacks and the regulators -/
  | capPeriod (watts centivolts : Nat) (quadT hubT stackT regT : List Int)
  /-- FAST_LIMIT (R505) -/
  | fastLimit
  /-- THERMAL_SHUTDOWN (R507) -/
  | thermalShutdown
  /-- SUPPLY_WARN (R554) -/
  | supplyWarn
  /-- HELD_RESET_RELEASE (R507) -/
  | heldResetRelease
  /-- WARM_RESET (R508) -/
  | warmReset (init : Sender) (value : Word)
  /-- DIE_RESET (R512) -/
  | dieReset (init : Sender) (value : Word)
  /-- CORE_RESET (R512) -/
  | coreReset (init : Sender) (value : Word)
  /-- RESET_COMPLETE (R512) -/
  | resetComplete
  /-- BOOT_ROM (R514): whether the chosen stage-1 image verifies, and its SHA-512 (R478) -/
  | bootRom (verified : Bool) (imageHash : BitVec 512) (strap : BitVec 3)
  /-- STAGE_1 (R514): certificate matches, stage 2 verifies, its SHA-512, and the SHA-512 of each item of M3 -/
  | stage1 (certOk verified : Bool) (imageHash : BitVec 512) (configHashes : List (BitVec 512))
  /-- STAGE_2 (R514) -/
  | stage2 (report : Stage2Report)
  /-- BOOT_OK (R514) -/
  | bootOk (init : Sender) (value : Word)
  /-- START_WATCHDOG_EXPIRY (R514) -/
  | startWatchdogExpiry
  /-- INFO (R518) -/
  | info (r : RaevoReq)
  /-- READ_FLASH (R518) -/
  | readFlash (r : RaevoReq)
  /-- WRITE_SLOT (R518): `flashOk` when the flash takes the data -/
  | writeSlot (r : RaevoReq) (data : List Byte) (flashOk : Bool)
  /-- COMMIT_SLOT (R518): `verified` when every image of the slot verifies -/
  | commitSlot (r : RaevoReq) (verified : Bool)
  /-- CLEAR_COUNTER (R518) -/
  | clearCounter (r : RaevoReq)
  /-- RESET (R518) -/
  | raevoReset (r : RaevoReq)
  /-- REGISTER_ACCESS_FRAME (R557) -/
  | registerAccessFrame (f : MgmtFrame)
  /-- DEVICE_ID (R556); `pecOk` is false when the host's packet error code fails (R555) -/
  | deviceId (pecOk : Bool)
  /-- STATE (R556) -/
  | state (pecOk : Bool)
  /-- SUPPLY (R556) -/
  | supply (pecOk : Bool)
  /-- TEMPS (R556) -/
  | temps (pecOk : Bool)
  /-- ALERT_CAUSE (R556) -/
  | alertCause (pecOk : Bool)
  /-- ALERT_CLEAR (R554) -/
  | alertClear (mask : Byte) (pecOk : Bool)
  /-- CLOCKS (R556) -/
  | clocks (pecOk : Bool)
  /-- FAIL (R556) -/
  | fail (pecOk : Bool)
  /-- CAP (R556): a read, or a write of the value -/
  | cap (value : Option (BitVec 16)) (pecOk : Bool)
  /-- ALERT_RESPONSE (R555) -/
  | alertResponse
  /-- SMBUS_TIMEOUT (R555) -/
  | smbusTimeout
  /-- EXPERT_KEY (R528): a write of EXPERT_KEY on the page at this address -/
  | expertKey (init : Sender) (page value : Word)
  /-- EXPERT_LOCK (R526): a write of PAGE_MODE -/
  | expertLock (init : Sender) (page value : Word)
  /-- EVT_STATUS_WRITE (R532) -/
  | evtStatusWrite (init : Sender) (page value : Word)
  /-- EVT_FORCE (R530) -/
  | evtForce (init : Sender) (page value : Word)
  /-- SHADOW_DISCARD (R535) -/
  | shadowDiscard (init : Sender) (page value : Word)
  /-- RC_READ (R12): a read of the register at this address -/
  | rcRead (init : Reader) (address : Word)
  /-- COUNTER_LOW_READ (R534) -/
  | counterLowRead (init : Reader) (address : Word)
  /-- OPKEY_BURN (R537) -/
  | opkeyBurn (init : Sender) (value : Word)
  /-- REGISTER_WRITE (R12): `bytes` is the access width, `behind` as for DOORBELL -/
  | registerWrite (init bytes : Nat) (address value : Word) (behind : Bool)
  /-- SUPPLY_VALID (R508): the input voltage, in 10 mV units, is back while PWR_EN is asserted -/
  | supplyValid (centivolts : Nat)
  deriving DecidableEq, Repr

end Sys2Proof
end

