-- ==== Sys2Proof/Config.lean ====
section
/-! DEFINITION. What the manual leaves open. Every constant here is opaque: nothing can be proved of its value, so a
claim that holds of the model holds whatever the value is. -/

namespace Sys2Proof.Config

/-- A free 64-bit value, fresh for each counter value it is applied to (log 1). -/
opaque freeLong : Nat → Long

/-- A free byte, by counter value. -/
opaque freeByte : Nat → Byte

/-- Which of the FP32 values next to the exact result a special function gives, as an offset from the one below it, by
opcode and input bits (R165, R166; log 5). -/
opaque sfuPick : Nat → BitVec 32 → Nat

/-- The same for the two elementary functions of the schedule engine in FP64: 0 cosine, 1 power, by input bits and
exponent (R322; log 6). -/
opaque schedPick : Nat → BitVec 64 → Nat → Bool

/-- How far the FP64 evaluation of w[j] ends from the exact value, in units of 2^-64, by base bits, pair count and pair
(R230; log 7). -/
opaque rotTurns : Nat → Nat → Nat → Nat

/-- Which FP32 cosine and sine within the bound the rotary unit uses, by phase (R230; log 7). -/
opaque rotCos : Nat → Nat
opaque rotSin : Nat → Nat

/-- The INT8 code of a rotated element that no INT8 code is nearest to, by the element's FP32 bits (R230; log 7). -/
opaque rotInt8 : Nat → BitVec 8

/-- A byte of an HBM burst whose contents are lost: the loss that counts for it, its burst number, offset (R402, R482;
log 8). -/
opaque lostByte : Nat → Nat → Nat → Byte

/-- A byte that the on-die entropy source gives, by number of the draw and place (R416, R467, R482, R486, R491; log 9). -/
opaque entropyByte : Nat → Nat → Byte

/-- The two 53-bit uniforms that 16 bytes of the release generator make, and the FP64 values of ln u and cos 2πu that the
gate takes of a uniform (R491; log 9). -/
opaque uniforms : BitVec 128 → BitVec 53 × BitVec 53
opaque gateLn : BitVec 53 → BitVec 64
opaque gateCos : BitVec 53 → BitVec 64

/-- Whether an Ed25519 check multiplies both sides by the cofactor, which RFC 8032 leaves to the verifier (R480, R486;
log 10). -/
opaque edCofactor : Bool

/-- Whether a die controller cannot service a trap, by its record (R21; log 95). -/
opaque cannotService : BitVec 512 → Bool

/-- The step number of a stochastic-rounding draw in a SERVICE context, by partition and context: no rule states it
(R65; log 18). -/
opaque serviceStep : Nat → Nat → Nat

/-- The bank group of its stack that a row lies in, by row number, and the soft repair resources that a bank group came with,
by stack and group (R412; log 143). -/
opaque bankGroup : Nat → Nat
opaque groupSoft : Nat → Nat → Nat

/-- A byte of the V block that a rescale gives: its scale at place 0 and then its codes, by format, rounding mode, random bits
of each element, the scale and codes it had, and the new element's bits (R309; log 27). -/
opaque vRescale : List Nat → Nat → Byte

/-- Stage 1 of an image, by image number: its place within the image, its length, and the hub SRAM offset to which boot ROM
copies it (R514; log 89). -/
opaque stageOne : Nat → Nat × Nat × Nat

/-- A byte of the firmware flash as it left the factory, by offset (R513; log 63). -/
opaque flashContent : Nat → Byte

/-- A byte of the failure log region of flash, by the records it holds and the offset: no rule places them (R513, R516;
log 63). -/
opaque logRegion : List (List Byte) → Nat → Byte

/-- A byte of the repair record region of flash, by its row maps, disabled cores and rows, and the offset (R80, R411, R513;
log 63). -/
opaque repairRegion : List (Nat × Nat) → List Nat → List Nat → Nat → Byte

end Sys2Proof.Config
end

