-- ==== Sys2Proof/Machine/State.lean ====
section
/-! DEFINITION. The state of the block: everything the manual gives the machine, as plain data, with the queue of
waiting commands. A field's initial value is its value after a power-on, module or warm reset. -/

namespace Sys2Proof.Machine

/-- A sorted association list. Keys rise strictly and no value equals the one an unlisted key reads as (see
`SMap.get` and `SMap.set`), so that equal maps are equal data. -/
abbrev SMap (α : Type) := List (Nat × α)

/-! ### Register pages (R525) -/

/-- What every register page holds (R525). `regs` holds the stored register words by page offset where they differ
from the reset word, `shadow` the pending values of /B words (R13), `counters` the counter block from 0x080 by number
(R534), `latches` the high words latched per initiator and offset (R534). -/
structure Page where
  regs      : SMap Word := []
  shadow    : SMap Word := []
  evtStatus : Word := 0
  evtEnable : Word := 0
  keyArmed  : Option Nat := none
  expertEn  : Bool := false
  capture   : Option (BitVec 512) := none
  counters  : SMap Long := []
  latches   : SMap Word := []
  deriving DecidableEq, Repr

/-- A page as it is after the reset that reaches it. -/
def Page.init : Page := {}

/-! ### Commands in a core (R180, R182) -/

/-- A record that the die controller has checked (R184): its context, its ring count, its sixteen words and every
descriptor, list and program read for it, by pointer. `deps` are the ring counts of the uncompleted records that its
DEP0 and DEP1 name, `depFailed` that one they name has failed (R189, R196), `after` the cycle of the last commit among
those that have completed since, counted from 1, before which no pass of the record enters (R96, R196). `recompute` names
the almanac entry whose fallback dispatched the record (R359). `latched` holds the descriptors that it named
at its doorbell, by memory key (R184; log 114). -/
structure CmdRec where
  ctx       : Nat
  idx       : Nat
  words     : List Word
  descs     : List (Nat × List Word) := []
  deps      : List Nat := []
  depFailed : Bool := false
  after     : Nat := 0
  recompute : Option (Nat × Nat × Nat) := none
  latched   : List (Nat × List Word) := []
  deriving DecidableEq, Repr

/-- A command whose tiles have committed and whose write-backs are under way (R202), with what its completion entry
will say (R187). -/
structure InFlight where
  queue    : QueueId
  cmd      : CmdRec
  status   : Byte
  summary  : BitVec 6 := 0
  rowEmpty : Bool := false
  detail   : BitVec 16 := 0
  tiles    : Nat := 0
  /-- write-back space it holds until its write-backs are acknowledged (R375) -/
  reserved : Nat := 0
  /-- messages on peer contexts that still have to be acknowledged (tier-4 operands, R385) -/
  linkWait : Nat := 0
  /-- the ACLK cycle in which its last result committed (R93, R196) -/
  endAt    : Nat := 0
  deriving DecidableEq, Repr

/-- An accumulator slot that is HELD (R121, R122, R124). `x` is the exact value in units of 2^-400: the six lanes,
their pending carries and the guard together. Its readout multiplies a finite value by the product of the INT8 scales of
the command that deposits into it, scaleM × 2^scaleE (R54, R136; log 21). -/
structure Slot where
  x         : Int := 0
  nan       : Bool := false
  pinf      : Bool := false
  ninf      : Bool := false
  ovf       : Bool := false
  ovfNeg    : Bool := false
  shiftLoss : Bool := false
  long      : Bool := false
  biased    : Bool := false
  scaleM    : Int := 1
  scaleE    : Int := 0
  deriving DecidableEq, Repr

/-- A chain that has not committed: the HELD slots that pass along it and its commands (R203). -/
structure Chain where
  slots : List Nat
  cmds  : List CmdRec
  deriving DecidableEq, Repr

/-- One accumulator edge: its HELD slots by bank × 128 + index (R124), the deposit count of its tile (R127) and the chains
open on it (R203). -/
structure Edge where
  slots  : SMap Slot := []
  depcnt : Long := 0
  chains : List Chain := []
  deriving DecidableEq, Repr

/-- The name of a stationary load: the tensor and how its elements are read, the first output column and the count of
columns, the shape, and the row sets in order as block, band and whether it is the low half of a split FP32 band (R84,
R90). -/
structure LoadId where
  base  : Nat
  sbase : Nat
  fmt   : Nat
  form  : Nat
  shape : Nat
  n0    : Nat
  cols  : Nat
  sets  : List (Nat × Nat × Bool)
  deriving DecidableEq, Repr

/-- A segment register: the block exponent E and the band offset o of the row set loaded into a 32-row segment for a column
(R77). -/
structure SegReg where
  e : BitVec 8 := 0
  o : BitVec 6 := 0
  deriving DecidableEq, Repr

/-- One weight plane of the cells (R76, R77, R90): the load it holds, the stationary weight word of each cell by logical row
× 256 + column, and the segment registers by segment × 256 + column. A word not listed is 0, as at reset: LIVE is 0. -/
structure Plane where
  load  : Option LoadId := none
  words : SMap (BitVec 24) := []
  segs  : SMap SegReg := []
  deriving DecidableEq, Repr

/-- The array's pipeline as the next pass meets it (R90, R96–R98): the two weight planes, the first cycle at which a load
into each may start, the cycle from which the loader is free (R268), the plane of the last pass (the first load goes into
plane A), and of the previous pass its entry limit, last deposit, direction and shape. -/
structure Pipe where
  planeA      : Plane := {}
  planeB      : Plane := {}
  freeA       : Nat := 0
  freeB       : Nat := 0
  loaderFree  : Nat := 0
  inB         : Bool := true
  entryLimit  : Nat := 0
  lastDeposit : Nat := 0
  transposed  : Bool := false
  shape       : Nat := 0
  deriving DecidableEq, Repr

/-- An open gather group (R107, R108): its requests in arrival order, its rows, the bell count from which its oldest request
has been held, and `due` once an event has called for its issue while it could not issue (R89). -/
structure GatherGroup where
  reqs  : List CmdRec
  rows  : Nat
  since : Long
  due   : Bool := false
  deriving DecidableEq, Repr

/-- Where a tag of a ring stands (R189, R196). -/
inductive TagState where
  | waiting | met | failed
  deriving DecidableEq, Repr

/-- A command ring of one context on one core (R179). `fetched` is the count of records fetched, `hold` the record that
stops dispatch (WAIT, FENCE or BOUNDARY), `acting` the NOP and SIGNAL records at dispatch, `done` the completed records
not yet passed, `tags` the ring count and state of the latest record of each tag, `stopped` a WAIT that timed out or a
context halted, `waited` the bell ticks a WAIT has run (R198), `holdAt` the bell count at which the holding record was dispatched,
`boundaryAt` the time of the boundary that a BOUNDARY waits for and `released` that it has passed (R200, R363),
`outstanding` the records dispatched and not completed, `latched` the descriptors of records that a doorbell has covered
and that are not fetched, by ring count (R184; log 114). -/
structure Ring where
  head        : BitVec 16 := 0
  tail        : BitVec 16 := 0
  fetched     : BitVec 16 := 0
  hold        : Option CmdRec := none
  acting      : List CmdRec := []
  done        : List Nat := []
  tags        : SMap (Nat × TagState) := []
  stopped     : Bool := false
  waited      : Nat := 0
  holdAt      : Long := 0
  boundaryAt  : Option Long := none
  released    : Bool := false
  outstanding : List Nat := []
  latched     : SMap (List (Nat × List Word)) := []
  deriving DecidableEq, Repr

/-- What a core holds of a context that is switched out (R467). `check` is the GMAC of its save area with the switch count
that is its nonce, none where it has no save area. -/
structure SavedCtx where
  bottom : Edge := {}
  side   : Edge := {}
  aq     : List CmdRec := []
  vq     : List CmdRec := []
  mq     : List CmdRec := []
  check  : Option (BitVec 128 × Nat) := none
  deriving DecidableEq, Repr

/-- The rotary unit's table in force (R230, R242): pairs, pairing, enable, base. -/
structure RotTable where
  pairs   : Nat
  split   : Bool
  enabled : Bool
  base    : Word
  deriving DecidableEq, Repr

/-- One query row's partial of a decode member: its stream's row, the maximum, and its O and l slots (R266). -/
structure RowPartial where
  row   : Nat
  m     : Option Int
  slots : List Slot
  deriving DecidableEq, Repr

/-- What a decode member has sent to its lead: the list's pointer key, the member number, its rows or a failure mark, the
deposit count of its tile, and the summary of its scores (R138, R149, R266, R267). -/
structure DecodePartial where
  listKey : List Word
  member  : Nat
  failed  : Bool
  rows    : List RowPartial
  depcnt  : Nat
  seen    : Nat := 0
  deriving DecidableEq, Repr

/-- One core (R23). -/
structure Core where
  aq          : List CmdRec := []
  vq          : List CmdRec := []
  mq          : List CmdRec := []
  inflight    : List InFlight := []
  bottom      : Edge := {}
  side        : Edge := {}
  pipe        : Pipe := {}
  gather      : Option GatherGroup := none
  rings       : SMap Ring := []
  saved       : SMap SavedCtx := []
  /-- the context whose work the core runs (R464) -/
  cur         : Option Nat := none
  /-- a switch under way: the context to restore (R466, R467) -/
  incoming    : Option (Option Nat) := none
  /-- the queues that have reached a tile boundary in the switch under way (R466) -/
  atBoundary  : List QueueId := []
  switches    : Nat := 0
  /-- tiles that have landed in operand staging and are not yet resident: first address and length (R374) -/
  landing     : List (Nat × Nat) := []
  rot         : Option RotTable := none
  rotRejected : Bool := false
  /-- the active row map, bit i for physical row i (R114); `none` is the map of a core without repairs, rows 0–255 -/
  rowMap      : Option (BitVec 260) := none
  disabled    : Bool := false
  partials    : List DecodePartial := []
  /-- READ_RESPs that the front movement command still waits for (R385, R440) -/
  reads       : Option Nat := none
  /-- the ACLK cycle of the last commit, and the cycle from which the array queue's next command issues (R90, R96) -/
  aclk        : Nat := 0
  issueAt     : Nat := 0
  deriving DecidableEq, Repr

/-- A core after core reset (R512). -/
def Core.init : Core := {}

/-! ### The almanac (R350–R365) -/

/-- Where an almanac entry stands. -/
inductive EntryPhase where
  | waiting | inFlight | done
  deriving DecidableEq, Repr

/-- An almanac entry that has been read: its ring count, words and phase; `missed` once its deadline passed with a
miss counted, `gate` of a window entry whether its gate was met at its time (R364, R365), `unslotted` once it has fallen back
without having fired, `copying` the source address of
the LOCAL_COPY that runs in place of its transfer, `moved` once its bytes have been sent to a lender, `list` the next record of its RECOMPUTE, the core that runs it and the records left to
dispatch, `recompute` the commands it still waits for, `failed` when one of them failed. -/
structure Entry where
  pos       : Nat
  words     : List Word
  phase     : EntryPhase := .waiting
  missed    : Bool := false
  gate      : Option Bool := none
  unslotted : Bool := false
  copying   : Option Nat := none
  moved     : Bool := false
  list      : Option (Nat × Nat × Nat) := none
  recompute : Nat := 0
  failed    : Bool := false
  deriving DecidableEq, Repr

/-- One almanac ring (R350): counts modulo 2^17, and the entries read and not passed. -/
structure AlmRing where
  head     : BitVec 17 := 0
  tail     : BitVec 17 := 0
  fetched  : BitVec 17 := 0
  entries  : List Entry := []
  lastTime : Long := 0
  deriving DecidableEq, Repr

/-- A die controller (R20, R542) with its free lists' heads and tails by partition (R270) and its RELEASED_LOG
(R271). -/
structure DieController where
  running  : Bool := false
  halted   : Bool := false
  haltCode : Byte := 0
  freeHead : SMap (BitVec 18) := []
  freeTail : SMap (BitVec 18) := []
  released : List Addr := []
  deriving DecidableEq, Repr

/-- An HBM controller with its stack (R395, R411–R418). `repairQ` holds rows queued, true for hard repair, `queueFulls` counts
the rows that found it full; `ceRows` the corrected errors of each row; `pins` the marked pins of each pseudo-channel;
`lastRetrain` the tick at which each channel was last retrained; `softUsed` the soft repairs made in each bank group;
`errors` the ticks of each channel's interface errors (R414). -/
structure Hbmc where
  ready       : Bool := false
  repairQ     : List (Nat × Bool) := []
  queueFulls  : Nat := 0
  ceRows      : SMap Nat := []
  pins        : SMap (List Nat) := []
  chFailed    : Word := 0
  chExcluded  : Word := 0
  retraining  : Option (Nat × Bool) := none
  trigWait    : List Nat := []
  nextCh      : Nat := 0
  lastRetrain : SMap Nat := []
  pprHard     : BitVec 16 := 0
  pprSoft     : BitVec 16 := 0
  softUsed    : SMap Nat := []
  lastCe      : BitVec 39 := 0
  errors      : SMap (List Nat) := []
  deriving DecidableEq, Repr

/-- One compute die's own parts (R20). -/
structure Die where
  rings       : SMap AlmRing := []
  /-- the time to which a BOUNDARY entry is armed, with the entry (R361) -/
  armed       : Option (Long × Nat × Nat) := none
  /-- the RETRAIN_WINDOW entries that are open, by ring and ring count (R365) -/
  retrainOpen : List (Nat × Nat) := []
  dc0         : DieController := {}
  dc1         : DieController := {}
  hbm0        : Hbmc := {}
  hbm1        : Hbmc := {}
  slabReady   : Bool := false
  deriving DecidableEq, Repr

/-- A compute die after reset. -/
def Die.init : Die := {}

/-- A die-to-die port (R38, R544). -/
structure D2d where
  trained   : Bool := false
  down      : Bool := false
  replaying : Bool := false
  replays   : Nat := 0
  deriving DecidableEq, Repr

/-- A die-to-die port before training. -/
def D2d.init : D2d := {}

/-! ### Bell, schedule and commit -/

/-- The bell unit (R341–R348, R366). `everLocked` tells the first lock from a relock, `goodWindows` counts windows
within ±200 ppm, `pauseLeft` the ticks for which a relock still pauses the count, `relocked` that almanacs wait for a step
boundary to be timed again, `ticks` the ticks since reset, those of a pause among them (R413). -/
structure Bell where
  count       : Long := 0
  locked      : Bool := false
  holdover    : Bool := false
  selfTimed   : Bool := true
  ppm         : BitVec 16 := 0
  cause       : BitVec 2 := 0
  everLocked  : Bool := false
  goodWindows : Nat := 0
  pauseLeft   : Nat := 0
  relocked    : Bool := false
  ticks       : Nat := 0
  deriving DecidableEq, Repr

/-- The outcome of a toll (R332), also a vote. -/
inductive TollResult where
  | commit | fail | split
  deriving DecidableEq, Repr

/-- A vote as it travels (R331). -/
structure Vote where
  result : TollResult
  epoch  : Long
  crc    : Word
  deriving DecidableEq, Repr

/-- The schedule engine and the step commit (R311, R321–R338). `childVotes` are the votes that have arrived by sender
rank; `combined` this device's vote as combined so far, with the level reached; `tollTime` and `tollEntry` the TOLL
entry's time and place while a toll is under way; `held` the result held and `heldAt` the bell count from which it is;
`tollSeen` that a TOLL fired in this step;
`lateFails` the contexts that failed after t_T (R189). -/
structure Sched where
  mapSel      : Bool := false
  epoch       : Long := 0
  lr          : SMap Word := []
  wd          : SMap Word := []
  recRejected : Byte := 0
  tollResult  : BitVec 2 := 0
  resultLate  : Bool := false
  selfTimed   : Bool := false
  childVotes  : SMap Vote := []
  combined    : Option (Vote × Nat) := none
  tollTime    : Option Long := none
  tollEntry   : Option (Nat × Nat × Nat) := none
  held        : Option TollResult := none
  heldAt      : Long := 0
  tollSeen    : Bool := false
  lateFails   : List (Nat × Nat) := []
  deriving DecidableEq, Repr

/-! ### Partitions, contexts and jobs -/

/-- The state of a job context (R474). -/
inductive CtxPhase where
  | free | runnable | suspended
  deriving DecidableEq, Repr

/-- An evaluation window that has opened (R305, R306, R364): its entry, the bank map that was active then, and, once it has
closed, the commands left from it, by core and ring number. -/
structure EvalWin where
  entry : Nat × Nat × Nat
  map   : List Byte
  left  : Option (List (Nat × Nat)) := none
  deriving DecidableEq, Repr

/-- A job context (R460, R461). `evalWins` are its evaluation windows, those that are open and those that commands are left
from (R305, R364);
`killsInRow` the consecutive switches at which a tile of it was killed, `killed` that its latest switch was one
(R472). -/
structure Ctx where
  phase      : CtxPhase := .free
  stepFailed : Bool := false
  seed       : Long := 0
  isEval     : Bool := false
  evalWins   : List EvalWin := []
  saveOffset : Nat := 0
  stageLo    : Nat := 0
  stageHi    : Nat := 0
  vscrLo     : Nat := 0
  vscrHi     : Nat := 0
  sliceBt    : Nat := 0
  killsInRow : Nat := 0
  killed     : Bool := false
  deriving DecidableEq, Repr

/-- An entry of the device list (R292). -/
structure DevEntry where
  deviceId : Long
  node     : Nat
  slot     : Nat
  deriving DecidableEq, Repr

/-- A job (R459): what the device copied at admission and keeps for the job's life (R291, R308, R383). `params` are the
spans, as fabric addresses, of the banks that the job's update commands have named: first address and length (R305;
log 110). -/
structure Job where
  jobId    : Word
  training : Bool
  level    : Nat
  ctxMask  : BitVec 8
  evalMask : BitVec 8
  mapping  : List Word
  devlist  : List DevEntry
  granary  : List (List Word)
  rank     : Nat
  pendingAt : Long
  params   : List (Nat × Nat) := []
  deriving DecidableEq, Repr

/-- ADMIT_STATUS.STATE (R474). -/
inductive AdmitPhase where
  | idle | pending | admitted | refused
  deriving DecidableEq, Repr

/-- A release rule of a manifest (R481). -/
structure ReleaseRule where
  valid        : Bool
  noise        : Bool
  outFmt       : Nat
  window       : Nat
  minContrib   : Nat
  bytesPerStep : Nat
  progMask     : Long
  sigma        : Long
  deriving DecidableEq, Repr

/-- A release that the gate has decided and that waits for room in the log (R492): its rule, the code of a denial, its
declared count, its destination and the bytes of that, and the bytes to write by key. -/
structure HeldRelease where
  rule    : Nat
  denial  : Option Nat := none
  contrib : Nat
  dest    : Nat
  bytes   : Nat
  runs    : List (Nat × List Byte)
  deriving DecidableEq, Repr

/-- The state of a CTR_DRBG with AES-256 (R491): key, V, and requests since it was last seeded. -/
structure Drbg where
  key      : BitVec 256 := 0
  v        : BitVec 128 := 0
  requests : Nat := 0
  deriving DecidableEq, Repr

/-- What the seal unit holds of a sealed partition (R482–R492). `keyId` is the draw of its XTS keys, `released` counts the bytes released and reserved per
rule in this step, `executable` are the ranges of hub SRAM, offset and length, marked executable for its host cores. -/
structure SealedPart where
  manifestHash : BitVec 512
  level        : Nat
  programs     : List (BitVec 512)
  rules        : List ReleaseRule
  peers        : List Long
  programMeas  : BitVec 512 := 0
  loaded       : List Nat := []
  executable   : List (Nat × Nat) := []
  keyId        : Nat
  drbg         : Drbg := {}
  released     : SMap Nat := []
  /-- by core, the releases that wait for room in the log -/
  waiting      : SMap HeldRelease := []
  deriving DecidableEq, Repr

/-- The operations of a message header (R428). -/
inductive MsgOp where
  | write | read | readResp | atomic | atomicResp | tileRts | tileData | collective | vote | result | openMsg
  deriving DecidableEq, Repr

/-- A message parked for a switched-out context (R469). -/
structure Parked where
  ctx : Nat
  op  : MsgOp
  msg : LinkMsg
  deriving DecidableEq, Repr

/-- A partition (R456–R475). `boundaries` are the partition boundaries under way by bell count (R200); `cycle` the slices
of the cycle in force, by context, and `cycleEnds` the bell count from which the admitted contexts' slices make the cycle
(R464); `switchAt` the first tick of a switch under way (R466), `lastSwitch` that of the latest one (R468); `logChain` and `logCount` the chain value and entries of its release log (R492, R493). -/
structure Part where
  ctxs        : SMap Ctx := []
  jobs        : List Job := []
  pendingJob  : Option Job := none
  admission   : AdmitPhase := .idle
  admitReason : Byte := 0
  cur         : Option Nat := none
  switchAt    : Option Long := none
  lastSwitch  : Long := 0
  cycle       : List (Nat × Nat) := []
  cycleEnds   : Option Long := none
  boundaries  : List Long := []
  parked      : List Parked := []
  parkFull    : Bool := false
  sealedPart  : Option SealedPart := none
  sealCount   : Nat := 0
  titheRejected : Bool := false
  logHeadTail : BitVec 17 := 0
  logChain    : BitVec 512 := 0
  logCount    : Long := 0
  deriving DecidableEq, Repr

/-- An open partition with no job. -/
def Part.init : Part := {}

/-! ### The crier -/

/-- A trap raised and not yet recorded (R206). `rings` are the rings it goes to, in order. -/
structure Trap where
  rings  : List Nat
  record : BitVec 512
  deriving DecidableEq, Repr

/-- A trap ring (R539, R540). -/
structure TrapRing where
  head    : BitVec 17 := 0
  tail    : BitVec 17 := 0
  dropped : Word := 0
  events  : List Nat := []
  lost    : Word := 0
  deriving DecidableEq, Repr

/-- The hub crier (R205, R539). -/
structure Crier where
  rings   : SMap TrapRing := []
  pending : List Trap := []
  deriving DecidableEq, Repr

/-! ### Links -/

/-- The state of a port or half-port (R453). -/
inductive PortState where
  | down | training | negotiating | up | retraining | negotiateFailed
  deriving DecidableEq, Repr

/-- A port or half-port (R421, R432, R433, R452). `credits` are the sender's credits by partition × 4 + VC; `txSeq` the LSEQ
of the next flit, `lackRx` the LACK last received and `rxSeq` the last LSEQ received in order, which LACK sends (log 136);
`replayRun` the consecutive replays of one flit, `lnak` the LNAK to send; `codewords` the times of uncorrectable codewords
within 2^16 bt, `retrainDue` that they have reached the threshold; `failedRetrains` the consecutive failed retrainings;
`paused` the paused priorities; `turn` the partition last served on a VC and `share` the flits that VC0–VC2 have sent in this
round of LINK.ARB (R430). `credRejected` of LPn.A is the port's. -/
structure Half where
  state          : PortState := .down
  level          : Nat := 0
  credits        : SMap Nat := []
  txSeq          : BitVec 12 := 1
  lackRx         : BitVec 12 := 0
  rxSeq          : BitVec 12 := 0
  replayRun      : Nat := 0
  lnak           : Bool := false
  codewords      : List Long := []
  retrainDue     : Bool := false
  failedRetrains : Nat := 0
  paused         : List Nat := []
  turn           : SMap Nat := []
  share          : SMap Nat := []
  delay          : Word := 0
  credRejected   : Bool := false
  bellRxValid    : Bool := false
  bellRx         : Option Long := none
  deriving DecidableEq, Repr

/-- Who waits for a message's acknowledgement or response. -/
inductive Waiter where
  | nobody
  | command (core : Nat) (queue : QueueId) (idx : Nat)
  | entry (die ring pos : Nat)
  | request (part pos : Nat)
  deriving DecidableEq, Repr

/-- A message sent on a peer context (R428). -/
structure OutMsg where
  ctx     : Nat
  op      : MsgOp
  mseq    : BitVec 24
  subop   : Nat := 0
  address : Addr := 0
  operand : Long := 0
  operand2 : Long := 0
  reqTag  : Long := 0
  data    : List Byte := []
  deriving DecidableEq, Repr

/-- The header of the Ethernet frames that carry a message (R425): addresses, VLAN ID and priority where tagged, EtherType. -/
structure FrameHeader where
  dest      : Addr
  source    : Addr
  tag       : Option (Nat × Nat)
  etherType : BitVec 16
  deriving DecidableEq, Repr

/-- How a message's flits leave: the half-port, CONTEXT and LEVEL as its peer reads them, the LSEQ of its last flit in DIRECT
mode, the frames' header in FABRIC. -/
structure Way where
  port   : Nat
  remote : Nat
  level  : Nat
  lseq   : BitVec 12
  frame  : Option FrameHeader
  deriving DecidableEq, Repr

/-- A message that is not acknowledged (R434, R438): when its first flit first left, and when its latest flit did. -/
structure Unacked where
  msg    : OutMsg
  sentAt : Option Long := none
  resent : Long := 0
  waiter : Waiter
  /-- flits of the message, and those that have not left (R432, R468) -/
  flits  : Nat
  left   : Nat
  /-- of a READ, the memory key under which its response is stored (R440) -/
  key    : Nat := 0
  deriving DecidableEq, Repr

/-- A flit of a context that is no part of a message of the sequence (R427, R434, R437): an acknowledgement or a refusal with
the REQ_TAG of the message it answers, or an OPEN. -/
inductive CtlFlit where
  | ack (mseq : BitVec 24) (tag : Long)
  | nak (mseq : BitVec 24) (kind : NakKind) (tag : Long)
  | opening (m : OutMsg)
  deriving DecidableEq, Repr

/-- The states of a peer context (R437). -/
inductive PeerPhase where
  | closed | opening | ready | error
  deriving DecidableEq, Repr

/-- The keys and salts of a sealed context (R439, R486), of the direction from the lower DEVICE_ID to the higher and back. -/
structure LinkKeys where
  upKey    : BitVec 256
  downKey  : BitVec 256
  upSalt   : BitVec 32
  downSalt : BitVec 32
  deriving DecidableEq, Repr

/-- A peer context (R436–R439): the record read at OPEN, the next MSEQ to send and the next one expected, the messages
that wait, and the control flits; `hello` the ephemeral private key and the OPEN payload of an exchange under way, `keys` what it gave (R486). -/
structure Peer where
  phase     : PeerPhase := .closed
  words     : List Word := []
  reason    : BitVec 4 := 0
  /-- the peer's OPEN, where it came before this device's -/
  peerOpen  : Option LinkMsg := none
  sendSeq   : BitVec 24 := 0
  recvSeq   : BitVec 24 := 0
  unacked   : List Unacked := []
  ctl       : List CtlFlit := []
  /-- READ and ATOMIC messages whose response has not arrived (R440) -/
  asked     : List Unacked := []
  /-- times of the tag failures (R439) -/
  tagFails  : List Long := []
  hello     : Option (BitVec 256 × List Byte) := none
  keys      : Option LinkKeys := none
  port      : Nat := 0
  deriving DecidableEq, Repr

/-- A closed context. -/
def Peer.init : Peer := {}

/-- A reception armed by RECV_EXPECT (R353, R441): its entry, context, target and size, the bytes landed, the size of the
transfer that matches it, and whether its entry has ended, so that what still comes is discarded. -/
structure Recv where
  die     : Nat
  ring    : Nat
  pos     : Nat
  ctx     : Nat
  target  : Nat
  size    : Nat
  landed  : Nat := 0
  matched : Option Nat := none
  dead    : Bool := false
  deriving DecidableEq, Repr

/-- A TILE_RTS that waits for its RECV_EXPECT (R441), with its REQ_TAG and the transfer's size. -/
structure RtsWait where
  ctx  : Nat
  mseq : BitVec 24
  tag  : Long
  size : Nat
  deriving DecidableEq, Repr

/-- A link request in flight (R442): its ring count and words, the status and the reason it has failed with, whether it
has finished, and the messages that it still waits for. `sent` counts the segments started. Of a collective: its number in
its group, its own data by segment started, the merged data that has arrived by level, segment and sender's rank, and the
messages sent by level, segment and receiver's rank. -/
structure LinkReq where
  pos      : Nat
  words    : List Word
  status   : Byte := 0
  finished : Bool := false
  waiting  : Nat := 0
  sent     : Nat := 0
  number   : Nat := 0
  own      : List (Nat × List Byte) := []
  arrived  : List (Nat × Nat × Nat × List Byte) := []
  posted   : List (Nat × Nat × Nat) := []
  deriving DecidableEq, Repr

/-- A partition's link request ring (R442, R455). -/
structure ReqRing where
  head     : BitVec 13 := 0
  tail     : BitVec 13 := 0
  started  : BitVec 13 := 0
  inFlight : List LinkReq := []
  done     : List Nat := []
  deriving DecidableEq, Repr

/-- The link engine and the ports (R421–R455). `collCount` counts the collectives posted per partition and group
(R443). -/
structure Links where
  halves    : SMap Half := []
  peers     : SMap Peer := []
  recvs     : List Recv := []
  rtsWaits  : List RtsWait := []
  reqs      : SMap ReqRing := []
  collCount : SMap Nat := []
  early     : List LinkMsg := []
  deriving DecidableEq, Repr

/-! ### Seal, power, boot -/

/-- The seal unit (R476–R495). `privKey` is the private key of the identity, `keysDrawn` the draws made of the entropy
source, `saveKey` the draw of the key of save areas (R467). -/
structure Seal where
  identity  : Bool := false
  privKey   : BitVec 256 := 0
  m0        : BitVec 512 := 0
  m1        : BitVec 512 := 0
  m2        : BitVec 512 := 0
  m3        : BitVec 512 := 0
  cmdStatus : BitVec 16 := 0
  keysDrawn : Nat := 0
  saveKey   : Nat := 0
  deriving DecidableEq, Repr

/-- A quadrant's droop state (R502). -/
inductive DroopRate where
  | full | threeQuarter | half
  deriving DecidableEq, Repr

/-- A quadrant's droop sensor: the rate, whether the rail is below threshold, whether a hold runs (R502). -/
structure Droop where
  rate  : DroopRate := .full
  below : Bool := false
  hold  : Bool := false
  deriving DecidableEq, Repr

/-- A quadrant's droop state after reset. -/
def Droop.init : Droop := {}

/-- Whether the module is powered (R496, R501). -/
inductive PowerPhase where
  | off | on
  deriving DecidableEq, Repr

/-- The power manager and the sideband inputs (R497–R507, R520, R552–R554). `domains` has one bit per domain in the
order of R42, `ramping` the domains that ramp, at most the first four at a time (R499), `upPeriods` and `overPeriods` the consecutive periods of R504,
`coolPeriods` those of R506 per quadrant, `heldReset` a reset held after a thermal shutdown (R507); `temps` the sensors'
last readings: 16 quadrants, 4 of the hub die, 8 stacks and the regulators; `throttleFast` that THROTTLE_N toggles too
fast, `throttleBt` the bell ticks it has been treated as asserted without a break, `strap` the address straps as sampled
(R552); `hot` that some sensor was at 85 °C or above when last measured (R507), `supplyWarn` that the input has been outside
42 to 58 V and has not been measured inside since (R554), `mgmtUp` that a frame has come over the management port's link
(R538; log 98). -/
structure Power where
  phase        : PowerPhase := .on
  domains      : BitVec 47 := 0
  ramping      : List Nat := []
  droop        : SMap Droop := []
  capStep      : Nat := 0
  upPeriods    : Nat := 0
  overPeriods  : Nat := 0
  capUnmet     : Bool := false
  thermStep    : SMap Nat := []
  coolPeriods  : SMap Nat := []
  shutdown     : Bool := false
  heldReset    : Bool := false
  watts        : BitVec 16 := 0
  centivolts   : BitVec 16 := 0
  temps        : SMap Byte := []
  pwrEn        : Bool := true
  modRst       : Bool := false
  throttleSeen : Bool := false
  throttleFast : Bool := false
  throttleBt   : Nat := 0
  alert        : Byte := 0
  strap        : BitVec 3 := 7
  strapDone    : Bool := false
  hot          : Bool := false
  supplyWarn   : Bool := false
  mgmtUp       : Bool := false
  deriving DecidableEq, Repr

/-- The start (R514–R519). `begun` once boot ROM has sensed the fuses and counted the start, `startCount` the boot counter of
this start (R516); `watchdog` counts the ticks of the start watchdog; `resetPages` are the pages that a die or core reset is
clearing (R524); `opKey` the operator key as this start sensed it, and `burnLeft` the ticks for which BURNING still reads 1
(R537). -/
structure Boot where
  stage     : BitVec 2 := 0
  image     : BitVec 2 := 0
  romDone   : Bool := false
  minimal   : Bool := false
  resetBusy : Bool := false
  resetPages : List Nat := []
  bootOk    : Bool := false
  watchdog  : Nat := 0
  hostsOn   : BitVec 16 := 0
  certOk    : Bool := false
  begun     : Bool := false
  startCount : Nat := 0
  opKey     : Option (BitVec 512) := none
  burnLeft  : Nat := 0
  deriving DecidableEq, Repr

/-- A failure record (R516). -/
structure FailRec where
  code      : Byte
  stage     : Nat
  image     : Nat
  die       : Byte
  bootCount : Byte
  detail    : Word
  bell      : Long
  deriving DecidableEq, Repr

/-- A record in flash (R498): its two copies with their sequence numbers, none where the CRC-32 of a copy does not match. -/
structure Copies (α : Type) where
  first  : Option (Nat × α)
  second : Option (Nat × α)
  deriving DecidableEq, Repr

/-- The boot record (R513). -/
structure BootRecord where
  count       : Nat := 0
  prefSlot    : BitVec 2 := 0
  watchdogSec : Nat := 600
  deriving DecidableEq, Repr

/-- The repair record (R513): row maps by core, disabled cores (R80), and rows for hard repair (R411). -/
structure RepairRecord where
  rowMaps  : SMap (BitVec 260) := []
  disabled : List Nat := []
  hardRows : List Nat := []
  deriving DecidableEq, Repr

/-- The configuration (R513): the stored CTL word of each port (R423), settings of the BELL page by offset, fuse options by
number. -/
structure ConfigRecord where
  portCtl : SMap Word := []
  bell    : SMap Word := []
  options : SMap Word := []
  deriving DecidableEq, Repr

/-- The firmware flash (R513), the only state that lasts without power (R501): its records, each in two copies, the failure
log with its newest record last, and the bytes of the slots and of the certificates that have been written. -/
structure Flash where
  boot   : Copies BootRecord := ⟨some (0, {}), none⟩
  log    : Copies (List FailRec) := ⟨some (0, []), none⟩
  repair : Copies RepairRecord := ⟨some (0, {}), none⟩
  config : Copies ConfigRecord := ⟨some (0, {}), none⟩
  bytes  : SMap Byte := []
  deriving DecidableEq, Repr

/-- The fuses (R476, R478, R536–R538, R454). -/
structure Fuses where
  secret    : BitVec 256 := 0
  deviceId  : Long := 0
  identityKey : BitVec 256 := 0
  fwKey     : BitVec 512 := 0
  opKey     : Option (BitVec 512) := none
  mgmtMac   : Addr := 0
  linkMacs  : SMap Addr := []
  deriving DecidableEq, Repr

/-- A control access held at the hub: a write, or a read that follows one (R29, R31). -/
structure HeldAccess where
  bytes   : Nat
  address : Word
  value   : Word
  write   : Bool
  deriving DecidableEq, Repr

/-- A host core as the control network sees it (R31): its held control accesses, oldest first. -/
structure HostCore where
  held : List HeldAccess := []
  deriving DecidableEq, Repr

/-- What the device has sent out or answered. -/
inductive Output where
  /-- a read of a register answered (R28, R30) -/
  | readData (init : Nat) (address value : Word)
  /-- an answer to a register-access frame (R557): header byte 1, entries, per entry byte 9 -/
  | mgmtAnswer (dest : Addr) (seq : BitVec 16) (bad : Bool) (entries : List AccessEntry) (marks : List Bool)
  /-- an answer to a Raevo request (R518) -/
  | raevoAnswer (dest : Addr) (op : Nat) (seq : BitVec 16) (status : Byte) (data : List Byte)
  /-- SMBus: bytes returned, an acknowledgement, or a NACK (R555) -/
  | smbusData (data : List Byte)
  | smbusAck
  | smbusNack
  | smbusRelease
  /-- a message sent on a peer context, and how it leaves (R425, R428) -/
  | linkMsg (m : OutMsg) (way : Way)
  /-- an acknowledgement, or a refusal naming the expected MSEQ, with the REQ_TAG of what it answers (R428, R434, R440) -/
  | linkAck (ctx : Nat) (mseq : BitVec 24) (tag : Long) (way : Way)
  | linkNak (ctx : Nat) (mseq : BitVec 24) (kind : NakKind) (tag : Long) (way : Way)
  /-- an IDLE flit: LACK and returned credits (R429, R432) -/
  | idleFlit (port : Nat) (lack : BitVec 12) (part vc count : Nat)
  /-- the levels that this device supports (R449) -/
  | negotiate (port low high : Nat)
  /-- a replay request or a replay from LACK + 1 (R433) -/
  | linkReplay (port : Nat)
  /-- a BELL flit (R446) -/
  | bellFlit (port : Nat) (count : Long) (locked : Bool)
  /-- an almanac ring's interrupt to the host cores (R353) -/
  | almanacIrq (die ring : Nat)
  deriving DecidableEq, Repr

/-- The whole block. `free` is the model's own counter from which free values are drawn. -/
structure State where
  pending : List Instr := []
  free    : Nat := 0
  out     : List Output := []
  /-- memory: bytes by fabric address; local store and slab with the global core number in [43:36], HBM by device
  address (R190, R352, R397) -/
  mem     : List Host.Cell := []
  /-- 64-bit SRAM words that hold a double-bit error, by first address (R372) -/
  bad     : List Nat := []
  /-- those that hold a single-bit error (R372) -/
  softBad : List Nat := []
  /-- the symbols of each HBM burst that are in error, by physical burst: pseudo-channel × 2^25 + offset ÷ 32; bit i is pin i
  of 32 data and 4 metadata pins (R398, R407) -/
  hbmErr  : SMap (BitVec 36) := []
  /-- the key each HBM burst was last written under, by burst number; 0 is plaintext (R416) -/
  burstKey : SMap Nat := []
  /-- spans of bursts whose contents are lost, newest first: first burst, end, and the loss, which `burstKey` of a burst that
  it does not list counts as (R402, R482) -/
  hbmStale : List (Nat × Nat × Nat) := []
  /-- the provenance tag of each 256-byte unit of hub SRAM: 0 matches no context, else 1 + partition × 8 + context
  (R488) -/
  tags    : SMap Nat := []
  pages   : SMap Page := []
  cores   : SMap Core := []
  dies    : SMap Die := []
  d2d     : SMap D2d := []
  bell    : Bell := {}
  sched   : Sched := {}
  parts   : SMap Part := []
  crier   : Crier := {}
  links   : Links := {}
  sealU   : Seal := {}
  power   : Power := {}
  boot    : Boot := {}
  flash   : Flash := {}
  fuses   : Fuses := {}
  hosts   : SMap HostCore := []
  deriving DecidableEq, Repr

/-- Reasons for which the block stops. -/
inductive Fault where
  /-- Raised by no command of this model: every failure of the device is a status, a trap or a recorded access, and a
  next state. Safe: a stop could only keep true claims from being proved. -/
  | stopped
  deriving DecidableEq, Repr

/-- Reasons for which a command has no meaning. -/
inductive Refusal where
  /-- Raised by the arm of a command that has no meaning yet. Safe: nothing can be proved of such a command. -/
  | notModelled (mnemonic : String)
  deriving DecidableEq, Repr

/-- The domain BOOT in the order of R42: after Q, SLAB, HBM and D2D (16 + 4 + 8 + 4). -/
def bootDomain : Nat := 32

/-- The block right after a power-on reset (R508): the domain BOOT on and boot ROM about to run (R514); nothing else
powered. Register values that the manual takes from fuses, flash, straps or the stack are named in the log. -/
def State.reset : State :=
  { power := { domains := BitVec.ofNat 47 (2 ^ bootDomain) } }

end Sys2Proof.Machine
end

