-- ==== Sys2Proof/Machine/RegTable.lean ====
section
/-! DEFINITION. The register words that software writes, as the register tables give them: by page type and offset, the
bits that a write sets at once, the bits that are boundary-latched (R13), and the word after reset. Read-only fields are
computed where they are read (RegRead.lean); page-layout words (R525) are handled apart. -/

namespace Sys2Proof.Machine

/-- Page type codes (R522). -/
def ptBoot : Nat := 0x01
def ptFuse : Nat := 0x02
def ptSeal : Nat := 0x03
def ptBell : Nat := 0x04
def ptAlmanac : Nat := 0x05
def ptSched : Nat := 0x06
def ptPwr : Nat := 0x07
def ptMgmt : Nat := 0x08
def ptPart : Nat := 0x09
def ptCrier : Nat := 0x0A
def ptLink : Nat := 0x10
def ptLinkCtx : Nat := 0x11
def ptDieCtl : Nat := 0x20
def ptHbmc : Nat := 0x21
def ptSlab : Nat := 0x22
def ptD2d : Nat := 0x23
def ptSeq : Nat := 0x30
def ptArray : Nat := 0x31
def ptAccum : Nat := 0x32
def ptVu : Nat := 0x33
def ptFeed : Nat := 0x34
def ptRot : Nat := 0x35
def ptAg : Nat := 0x36
def ptLs : Nat := 0x37
def ptCnt : Nat := 0x38

/-- One register word that software writes: offset, bits set at once, bits latched to a boundary, reset word. -/
structure RegSpec where
  off   : Nat
  rw    : Nat
  latch : Nat := 0
  reset : Nat := 0

/-- `n` blocks of registers `step` apart, the first at `base` (ring and context registers). -/
def regBlocks (n base step : Nat) (rs : List RegSpec) : List RegSpec :=
  (List.range n).flatMap fun k => rs.map fun r => { r with off := base + k * step + r.off }

/-- A 32-bit register word. -/
def rwWord (off : Nat) (reset : Nat := 0) : RegSpec := { off := off, rw := 0xFFFFFFFF, reset := reset }

/-- The register words of a page type. EVT_ENABLE, EVT_STATUS and PAGE_MODE belong to the common layout (R525). -/
def regTable (ty : Nat) : List RegSpec :=
  if ty = ptFuse then                                            -- R536
    (List.range 16).map fun k => rwWord (0x800 + 4 * k)
  else if ty = ptSeal then                                       -- R494
    [rwWord 0x104, rwWord 0x108, rwWord 0x10C, rwWord 0x110] ++
    regBlocks 4 0x200 0x80
      ([{ off := 0x00, rw := 0xFFFFFF }, { off := 0x04, rw := 0xFFFFFF }, rwWord 0x08, rwWord 0x0C,
        { off := 0x10, rw := 0x1FFFF }] ++
       (List.range 4).map (fun w => rwWord (0x40 + 4 * w)) ++ (List.range 4).map fun w => rwWord (0x60 + 4 * w))
  else if ty = ptBell then                                       -- R366, R367
    [{ off := 0x010, rw := 0x7F }, rwWord 0x108, { off := 0x10C, rw := 0xFF }]
  else if ty = ptAlmanac then                                    -- R368
    [rwWord 0x100 0x0002625A] ++
    regBlocks 32 0x200 0x20
      [rwWord 0x00, { off := 0x04, rw := 0x801FFFFF, reset := 0x60000 }, rwWord 0x10, { off := 0x14, rw := 0xFFFF }]
  else if ty = ptSched then                                      -- R337
    [{ off := 0x100, rw := 0, latch := 0xFFFFFFFF }, { off := 0x104, rw := 0, latch := 0xFFFF },
     { off := 0x108, rw := 0, latch := 0xFFFFFFFF }, { off := 0x10C, rw := 0, latch := 0xFFFF },
     rwWord 0x110, { off := 0x114, rw := 0xFFFF }, { off := 0x118, rw := 0, latch := 0xFFFF, reset := 0x0139 }]
  else if ty = ptPwr then                                        -- R520
    [{ off := 0x100, rw := 0x3FF, reset := 0x3E8 }, { off := 0x104, rw := 0xFF, reset := 0x28 },
     { off := 0x108, rw := 0xFFFF }, { off := 0x10C, rw := 0xFFF }]
  else if ty = ptMgmt then [{ off := 0x010, rw := 1, reset := 1 }]   -- R538
  else if ty = ptPart then                                       -- R245, R392, R420, R474
    [{ off := 0x100, rw := 0xFFFF }, { off := 0x104, rw := 0xFFFF }, { off := 0x108, rw := 0xFFFF },
     { off := 0x10C, rw := 0xFFFF }, rwWord 0x110, { off := 0x114, rw := 0xFFFF }, rwWord 0x118,
     { off := 0x11C, rw := 0xFFFF }, rwWord 0x120, { off := 0x124, rw := 0xFFFF }, rwWord 0x138, rwWord 0x13C,
     { off := 0x140, rw := 0, latch := 0x3F, reset := 0x07 }, rwWord 0x150, { off := 0x154, rw := 0xFFFF },
     { off := 0x158, rw := 0xFF, reset := 0x20 }, { off := 0x160, rw := 0xFFFF }, { off := 0x164, rw := 0xFFFF },
     { off := 0x168, rw := 0, latch := 0x1FF, reset := 0x140 }]
  else if ty = ptCrier then                                      -- R539
    regBlocks 5 0x200 0x20 [rwWord 0x00, { off := 0x04, rw := 0x801FFFFF, reset := 0x60000 }]
  else if ty = ptLink then                                       -- R453, R454
    [{ off := 0x010, rw := 0xFF003F, reset := 0x200000 }, { off := 0x100, rw := 0xFFFF, reset := 0x88B5 },
     { off := 0x10C, rw := 0xFFF, reset := 0xC49 }, { off := 0x110, rw := 0xFFF, reset := 0x0241 },
     rwWord 0x120 0x04100228, rwWord 0x124 0x04100228, rwWord 0x128 0x04100228, rwWord 0x12C 0x04100228,
     { off := 0x130, rw := 0xFF, reset := 0x08 }]
  else if ty = ptLinkCtx then                                    -- R455
    [rwWord 0x100, { off := 0x104, rw := 0xFFFF }, { off := 0x10C, rw := 0xFFF },
     { off := 0x114, rw := 0xFFFF, reset := 0x0C35 }] ++
    regBlocks 4 0x200 0x10 [rwWord 0x00, { off := 0x04, rw := 0xFFFFF, reset := 0x40000 }]
  else if ty = ptDieCtl then                                     -- R270
    regBlocks 4 0x100 0x20 [rwWord 0x00, { off := 0x04, rw := 0x1FFFFF, reset := 0x40000 }]
  else if ty = ptHbmc then                                       -- R417, R418
    [{ off := 0x010, rw := 0xFF0F, reset := 0x1004 }, rwWord 0x108 0x09502F90, rwWord 0x800]
  else if ty = ptSeq then                                        -- R111, R112, R545
    [{ off := 0x010, rw := 0, latch := 1 }, { off := 0x100, rw := 0xFFFF0001, reset := 0x04000000 }] ++
    regBlocks 8 0x200 0x20
      [rwWord 0x00, { off := 0x04, rw := 0xFFFFF, reset := 0x70000 }, rwWord 0x10, { off := 0x14, rw := 0xFFFF }]
  else if ty = ptArray then                                      -- R114
    (List.range 8).map (fun k => rwWord (0x810 + 4 * k) 0xFFFFFFFF) ++ [{ off := 0x830, rw := 0xF }]
  else if ty = ptAccum then [{ off := 0x010, rw := 0, latch := 1 }]  -- R154
  else if ty = ptVu then [{ off := 0x010, rw := 0, latch := 1 }]     -- R176
  else if ty = ptRot then                                        -- R242, R243
    [{ off := 0x010, rw := 0, latch := 0x3FF, reset := 0x100 }, { off := 0x100, rw := 0, latch := 0xFFFFFFFF, reset := 0x461C4000 }]
  else []

/-- The entry of a register word, if the page type has one at this offset. -/
def regSpec? (ty off : Nat) : Option RegSpec := (regTable ty).find? fun r => r.off == off

/-- The word of a register after reset. -/
def regReset (ty off : Nat) : Word :=
  match regSpec? ty off with
  | some r => BitVec.ofNat 32 r.reset
  | none => 0

/-- How many 64-bit counters a page type has from 0x080, PAGE_CAP.COUNTERS (R526). -/
def counterCount (ty : Nat) : Nat :=
  if ty = ptSeal then 5 else if ty = ptBell then 6 else if ty = ptAlmanac then 9 else if ty = ptSched then 7
  else if ty = ptPwr then 6 else if ty = ptMgmt then 4 else if ty = ptPart then 12 else if ty = ptCrier then 2
  else if ty = ptLink then 8 else if ty = ptLinkCtx then 5 else if ty = ptDieCtl then 8 else if ty = ptHbmc then 13
  else if ty = ptSlab then 4 else if ty = ptD2d then 4 else if ty = ptSeq then 4 else if ty = ptArray then 9
  else if ty = ptAccum then 8 else if ty = ptVu then 8 else if ty = ptFeed then 5 else if ty = ptAg then 7
  else if ty = ptLs then 8 else if ty = ptCnt then 7 else 0

/-- A page type has boundary-latched fields, PAGE_CAP.SHADOW (R526). -/
def hasShadow (ty : Nat) : Bool := (regTable ty).any fun r => r.latch != 0

/-- A page type has expert registers, PAGE_CAP.EXPERT (R526). -/
def hasExpert (ty : Nat) : Bool := (regTable ty).any (fun r => 0x800 ≤ r.off) || ty = ptFuse

end Sys2Proof.Machine
end

