-- ==== Sys2Proof/Machine/Ops.lean ====
section
/-! DEFINITION. The named operations over the parts of the state that every meaning shares: sorted maps, bit fields,
memory bytes, pages with their events, captures and counters, partitions, traps, rings and completion. -/

namespace Sys2Proof.Machine

/-- What a meaning answers. Every meaning answers a next state: a command whose occasion is absent leaves the state as
it is (log 2). -/
abbrev Out := Host.Outcome State Fault Refusal

/-! ### Sorted maps -/

/-- What a map holds at a key. -/
def mget? {α : Type} (m : SMap α) (k : Nat) : Option α :=
  match m with
  | [] => none
  | (j, v) :: r => if j = k then some v else mget? r k

/-- What a map reads as at a key, `d` where it lists nothing. -/
def mget {α : Type} (d : α) (m : SMap α) (k : Nat) : α := (mget? m k).getD d

/-- The map without a key. -/
def merase {α : Type} (m : SMap α) (k : Nat) : SMap α := m.filter fun e => e.1 != k

/-- The map with a value at a key, in its place. -/
def mput {α : Type} (m : SMap α) (k : Nat) (v : α) : SMap α :=
  m.filter (fun e => decide (e.1 < k)) ++ (k, v) :: m.filter (fun e => decide (k < e.1))

/-- The map with a value at a key; the value `d` that an unlisted key reads as is not listed. -/
def mset {α : Type} [DecidableEq α] (d : α) (m : SMap α) (k : Nat) (v : α) : SMap α :=
  if v = d then merase m k else mput m k v

/-- Keys rise strictly. -/
def keysRise {α : Type} : SMap α → Bool
  | [] => true
  | [_] => true
  | (j, _) :: (k, v) :: r => decide (j < k) && keysRise ((k, v) :: r)

/-! ### Bit fields and bytes (R11) -/

/-- The field [hi:lo] of a number. -/
def bits (w hi lo : Nat) : Nat := (w >>> lo) % 2 ^ (hi + 1 - lo)

/-- A record as a number: each field's value at its lowest bit. -/
def fields (fs : List (Nat × Nat)) : Nat := fs.foldl (fun a f => a + f.2 <<< f.1) 0

/-- `n` bytes of a number, little-endian. -/
def leBytes : Nat → Nat → List Byte
  | 0, _ => []
  | n + 1, v => BitVec.ofNat 8 v :: leBytes n (v >>> 8)

/-- The number that bytes spell, little-endian. -/
def ofLe : List Byte → Nat
  | [] => 0
  | b :: r => b.toNat + 256 * ofLe r

/-- A two's-complement field of `n` bits as an integer. -/
def signed (n v : Nat) : Int := if v % 2 ^ n < 2 ^ (n - 1) then (v % 2 ^ n : Nat) else (v % 2 ^ n : Nat) - (2 ^ n : Nat)

/-- Word `k` of a record. -/
def wordAt (ws : List Word) (k : Nat) : Nat := (ws.getD k 0).toNat

/-- The 64-bit field whose low half is word `k`. -/
def longAt (ws : List Word) (k : Nat) : Nat := wordAt ws k + 2 ^ 32 * wordAt ws (k + 1)

/-- The 32-bit words that bytes hold. -/
def wordsOf : Nat → List Byte → List Word
  | 0, _ => []
  | n + 1, bs => BitVec.ofNat 32 (ofLe (bs.take 4)) :: wordsOf n (bs.drop 4)

/-- The ceiling of a quotient. -/
def ceilDiv (a b : Nat) : Nat := (a + b - 1) / b

/-- Two ranges, each by first number and end, have a number in common; an empty range has none. -/
def overlap (a b c d : Nat) : Bool := decide (a < d) && decide (c < b) && decide (a < b) && decide (c < d)

/-! ### Free values -/

/-- A fresh free value: the state draws one and moves on (log 1). -/
def drawFree (s : State) : Long × State := (Config.freeLong s.free, { s with free := s.free + 1 })

/-! ### Parts of the state -/

def State.core (s : State) (g : Nat) : Core := mget Core.init s.cores g
def State.setCore (s : State) (g : Nat) (c : Core) : State := { s with cores := mset Core.init s.cores g c }
def State.modCore (s : State) (g : Nat) (f : Core → Core) : State := s.setCore g (f (s.core g))
def State.page (s : State) (pn : Nat) : Page := mget Page.init s.pages pn
def State.setPage (s : State) (pn : Nat) (p : Page) : State := { s with pages := mset Page.init s.pages pn p }
def State.modPage (s : State) (pn : Nat) (f : Page → Page) : State := s.setPage pn (f (s.page pn))
def State.die (s : State) (d : Nat) : Die := mget Die.init s.dies d
def State.setDie (s : State) (d : Nat) (v : Die) : State := { s with dies := mset Die.init s.dies d v }
def State.modDie (s : State) (d : Nat) (f : Die → Die) : State := s.setDie d (f (s.die d))
def State.part (s : State) (p : Nat) : Part := mget Part.init s.parts p
def State.setPart (s : State) (p : Nat) (v : Part) : State := { s with parts := mset Part.init s.parts p v }
def State.modPart (s : State) (p : Nat) (f : Part → Part) : State := s.setPart p (f (s.part p))
def State.half (s : State) (h : Nat) : Half := mget {} s.links.halves h
def State.setHalf (s : State) (h : Nat) (v : Half) : State :=
  { s with links := { s.links with halves := mset {} s.links.halves h v } }
def State.modHalf (s : State) (h : Nat) (f : Half → Half) : State := s.setHalf h (f (s.half h))
def State.peer (s : State) (c : Nat) : Peer := mget Peer.init s.links.peers c
def State.setPeer (s : State) (c : Nat) (v : Peer) : State :=
  { s with links := { s.links with peers := mset Peer.init s.links.peers c v } }
def State.modPeer (s : State) (c : Nat) (f : Peer → Peer) : State := s.setPeer c (f (s.peer c))
def State.host (s : State) (h : Nat) : HostCore := mget {} s.hosts h
def State.setHost (s : State) (h : Nat) (v : HostCore) : State := { s with hosts := mset {} s.hosts h v }
def State.emit (s : State) (o : Output) : State := { s with out := s.out ++ [o] }

def Die.ring (d : Die) (r : Nat) : AlmRing := mget {} d.rings r
def Die.setRing (d : Die) (r : Nat) (v : AlmRing) : Die := { d with rings := mset {} d.rings r v }
def Part.ctx (p : Part) (x : Nat) : Ctx := mget {} p.ctxs x
def Part.setCtx (p : Part) (x : Nat) (c : Ctx) : Part := { p with ctxs := mset {} p.ctxs x c }
def Core.ring (c : Core) (x : Nat) : Ring := mget {} c.rings x
def Core.setRing (c : Core) (x : Nat) (r : Ring) : Core := { c with rings := mset {} c.rings x r }
def State.modCtx (s : State) (p x : Nat) (f : Ctx → Ctx) : State :=
  s.modPart p fun v => v.setCtx x (f (v.ctx x))
def State.modRing (s : State) (g x : Nat) (f : Ring → Ring) : State :=
  s.modCore g fun c => c.setRing x (f (c.ring x))
def State.crierRing (s : State) (k : Nat) : TrapRing := mget {} s.crier.rings k
def State.setCrierRing (s : State) (k : Nat) (v : TrapRing) : State :=
  { s with crier := { s.crier with rings := mset {} s.crier.rings k v } }

/-- The queue of a core. -/
def Core.queue (c : Core) : QueueId → List CmdRec
  | .aq => c.aq
  | .vq => c.vq
  | .mq => c.mq
/-- The core with a queue replaced. -/
def Core.setQueue (c : Core) (q : QueueId) (l : List CmdRec) : Core :=
  match q with
  | .aq => { c with aq := l }
  | .vq => { c with vq := l }
  | .mq => { c with mq := l }
/-- An accumulator edge of a core: the side edge, or the bottom edge (R121). -/
def Core.edge (c : Core) (side : Bool) : Edge := if side then c.side else c.bottom
def Core.setEdge (c : Core) (side : Bool) (e : Edge) : Core :=
  if side then { c with side := e } else { c with bottom := e }

/-! ### Records in flash (R498, R513, R516) -/

/-- The copy in force: the valid one with the higher sequence number. -/
def Copies.newest {α : Type} (c : Copies α) : Option (Nat × α) :=
  match c.first, c.second with
  | some a, some b => some (if a.1 < b.1 then b else a)
  | a, b => a.or b

/-- The record as it is read; none where neither copy is valid. -/
def Copies.read {α : Type} (c : Copies α) : Option α := c.newest.map Prod.snd

/-- The record is written to the copy that is not in force, under the next sequence number. -/
def Copies.write {α : Type} (c : Copies α) (v : α) : Copies α :=
  let n := c.newest.elim 0 fun e => e.1 + 1
  if c.first.isSome && c.newest.map Prod.fst == c.first.map Prod.fst then { c with second := some (n, v) }
  else { c with first := some (n, v) }

/-- What the records hold; one without a valid copy counts as R516 says: boot counter 0 with slot A preferred, no repairs,
every port disabled. -/
def Flash.bootRec (f : Flash) : BootRecord := f.boot.read.getD {}
def Flash.bootCount (f : Flash) : Nat := f.bootRec.count
def Flash.prefSlot (f : Flash) : BitVec 2 := f.bootRec.prefSlot
def Flash.watchdogSec (f : Flash) : Nat := f.bootRec.watchdogSec
def Flash.failures (f : Flash) : List FailRec := f.log.read.getD []
def Flash.repairs (f : Flash) : RepairRecord := f.repair.read.getD {}
def Flash.rowMaps (f : Flash) : SMap (BitVec 260) := f.repairs.rowMaps
def Flash.disabled (f : Flash) : List Nat := f.repairs.disabled
def Flash.hardRows (f : Flash) : List Nat := f.repairs.hardRows
def Flash.settings (f : Flash) : ConfigRecord := f.config.read.getD {}
def Flash.portCtl (f : Flash) : SMap Word := f.settings.portCtl

/-- A record written anew. -/
def Flash.setBoot (f : Flash) (g : BootRecord → BootRecord) : Flash := { f with boot := f.boot.write (g f.bootRec) }
def Flash.setFailures (f : Flash) (l : List FailRec) : Flash := { f with log := f.log.write l }
def Flash.setHardRows (f : Flash) (l : List Nat) : Flash := { f with repair := f.repair.write { f.repairs with hardRows := l } }
/-- A row is entered for hard repair at the next start (R411). -/
def Flash.addHardRow (f : Flash) (row : Nat) : Flash :=
  if f.hardRows.contains row then f else f.setHardRows (f.hardRows ++ [row])

/-! ### Memory bytes (R190, R397) -/

/-- The byte at a memory key; a byte that nothing has written reads 0 (log 3). -/
def memByte (s : State) (a : Nat) : Byte := mget 0 s.mem a

/-- `n` bytes from a key. -/
def memRead (s : State) (a n : Nat) : List Byte := (List.range n).map fun k => memByte s (a + k)

/-- Memory with the bytes put from a key on. The form stays canonical: keys rise and no zero is listed. -/
def memSplice (m : SMap Byte) (a : Nat) (bs : List Byte) : SMap Byte :=
  m.filter (fun e => decide (e.1 < a)) ++
    ((bs.zipIdx a).filterMap fun e => if e.1 = 0 then none else some (e.2, e.1)) ++
    m.filter (fun e => decide (a + bs.length ≤ e.1))

/-- The state with bytes stored from a key on. -/
def memWrite (s : State) (a : Nat) (bs : List Byte) : State := { s with mem := memSplice s.mem a bs }

/-- The canonical form of memory: addresses rise strictly and no entry equals what an unlisted address reads as. -/
def memWf (m : SMap Byte) : Bool := keysRise m && m.all fun e => e.2 != 0

/-- The memory of a state has its canonical form. -/
def MemOk (s : State) : Prop := memWf s.mem = true

/-- A 32-bit word and a 64-bit word of memory. -/
def memWord (s : State) (a : Nat) : Nat := ofLe (memRead s a 4)
def memLong (s : State) (a : Nat) : Nat := ofLe (memRead s a 8)
/-- `n` words of memory. -/
def memWords (s : State) (a n : Nat) : List Word := (List.range n).map fun k => BitVec.ofNat 32 (memWord s (a + 4 * k))
def memWriteWord (s : State) (a v : Nat) : State := memWrite s a (leBytes 4 v)

/-- The tier of a fabric address (R190). -/
def tierOf (a : Nat) : Nat := bits a 47 44
/-- The fabric addresses of the tiers. -/
def lsAddr (g off : Nat) : Nat := g <<< 36 + off
def slabAddr (g off : Nat) : Nat := 1 <<< 44 + g <<< 36 + off
def hubAddr (off : Nat) : Nat := 2 <<< 44 + off
def hbmAddr (off : Nat) : Nat := 3 <<< 44 + off
def granaryAddr (h off : Nat) : Nat := 4 <<< 44 + h <<< 32 + off

/-- Sizes of the tiers (R191, R190, R26). -/
def lsSize : Nat := 0x1000000
def slabSize : Nat := 0x5800000
def hubSize : Nat := 0x4000000
def hbmSize : Nat := 0x8000000000

/-- The unit of error protection that holds a byte: a 64-bit word of SRAM, a 32-byte burst of HBM (R372, R404). -/
def eccUnit (a : Nat) : Nat := if tierOf a = 3 then 32 else 8

/-! ### Regions of the granary (R384, R386) -/

/-- The base, size in bytes and rank of the lender of a granary table's entry. -/
def lentBase (ws : List Word) : Nat := wordAt ws 2 + 2 ^ 32 * bits (wordAt ws 3) 15 0
def lentSize (ws : List Word) : Nat := bits (wordAt ws 4) 16 0 * 0x10000
def lentRank (ws : List Word) : Nat := bits (wordAt ws 1) 14 0

/-- A VALID entry of this rank holds a whole range; or meets it. -/
def lentHolds (rank a n : Nat) (ws : List Word) : Bool :=
  (wordAt ws 0).testBit 0 && lentRank ws == rank && decide (lentBase ws ≤ a) && decide (a + n ≤ lentBase ws + lentSize ws)
def lentMeets (rank a n : Nat) (ws : List Word) : Bool :=
  (wordAt ws 0).testBit 0 && lentRank ws == rank && decide (a < lentBase ws + lentSize ws) && decide (lentBase ws < a + n)

/-! ### Page numbers (R521–R523) -/

def pnBoot : Nat := 0
def pnFuse : Nat := 1
def pnSeal : Nat := 2
def pnBell : Nat := 3
def pnSched : Nat := 4
def pnPwr : Nat := 5
def pnMgmt : Nat := 6
def pnCrier : Nat := 7
def pnPart (p : Nat) : Nat := 8 + p
def pnHubD2d (k : Nat) : Nat := 0xC + k
def pnLinkCtx : Nat := 0x10
def pnLink (n : Nat) : Nat := 0x100 + 0x10 * n
def pnDie (d k : Nat) : Nat := (d + 1) * 0x1000 + k
def pnDieCtl (d k : Nat) : Nat := pnDie d k
def pnAlm (d : Nat) : Nat := pnDie d 2
def pnHbmc (d k : Nat) : Nat := pnDie d (3 + k)
def pnSlab (d : Nat) : Nat := pnDie d 5
def pnD2d (d k : Nat) : Nat := pnDie d (6 + k)
/-- Page `k` of global core `g`: 0 SEQ, 1 ARRAY, 2 ACCUM, 3 VU, 4 FEED, 5 ROT, 6 AG, 7 LS, 8 CNT. -/
def pnCore (g k : Nat) : Nat := (g / 40 + 1) * 0x1000 + 0x800 + (g % 40) * 0x10 + k
def pnSeq (g : Nat) : Nat := pnCore g 0
def pnArray (g : Nat) : Nat := pnCore g 1
def pnAccum (g : Nat) : Nat := pnCore g 2
def pnVu (g : Nat) : Nat := pnCore g 3
def pnFeed (g : Nat) : Nat := pnCore g 4
def pnRot (g : Nat) : Nat := pnCore g 5
def pnAg (g : Nat) : Nat := pnCore g 6
def pnLs (g : Nat) : Nat := pnCore g 7
def pnCnt (g : Nat) : Nat := pnCore g 8

/-- What a page number stands for: the page's type, its instance (R523), its die (4 the hub) and the core it belongs
to; nothing where no page is. -/
structure PageId where
  ty   : Nat
  inst : Nat
  die  : Nat := 4
  core : Option Nat := none

/-- The hub pages (R522). -/
def hubPage? (pn : Nat) : Option PageId :=
  if pn = pnBoot then some { ty := ptBoot, inst := 0 }
  else if pn = pnFuse then some { ty := ptFuse, inst := 0 }
  else if pn = pnSeal then some { ty := ptSeal, inst := 0 }
  else if pn = pnBell then some { ty := ptBell, inst := 0 }
  else if pn = pnSched then some { ty := ptSched, inst := 0 }
  else if pn = pnPwr then some { ty := ptPwr, inst := 0 }
  else if pn = pnMgmt then some { ty := ptMgmt, inst := 0 }
  else if pn = pnCrier then some { ty := ptCrier, inst := 0 }
  else if pn < 0xC then some { ty := ptPart, inst := pn - 8 }
  else if pn < 0x10 then some { ty := ptD2d, inst := pn - 0xC }
  else if pn = pnLinkCtx then some { ty := ptLinkCtx, inst := 0 }
  else if 0x100 ≤ pn ∧ pn < 0x1C0 ∧ pn % 0x10 = 0 then some { ty := ptLink, inst := (pn - 0x100) / 0x10 }
  else none

/-- The pages of compute die `d`: `r` is the page number within the die's region. -/
def diePage? (d r : Nat) : Option PageId :=
  if r < 2 then some { ty := ptDieCtl, inst := r, die := d }
  else if r = 2 then some { ty := ptAlmanac, inst := d, die := d }
  else if r < 5 then some { ty := ptHbmc, inst := r - 3, die := d }
  else if r = 5 then some { ty := ptSlab, inst := d, die := d }
  else if r < 9 then some { ty := ptD2d, inst := r - 6, die := d }
  else if 0x800 ≤ r ∧ r < 0xA80 ∧ r % 0x10 ≤ 8 then
    let g := d * 40 + (r - 0x800) / 0x10
    some { ty := 0x30 + r % 0x10, inst := g, die := d, core := some g }
  else none

/-- The page behind a page number, if there is one (R521). -/
def page? (pn : Nat) : Option PageId :=
  if pn < 0x1000 then hubPage? pn
  else if pn < 0x5000 then diePage? (pn / 0x1000 - 1) (pn % 0x1000)
  else none

/-! ### Power domains (R42) -/

def domQ (q : Nat) : Nat := q
def domSlab (d : Nat) : Nat := 16 + d
def domHbm (d k : Nat) : Nat := 20 + 2 * d + k
def domD2d (d : Nat) : Nat := 28 + d
def domCtl : Nat := 33
def domHubfab : Nat := 34
def domLp (n : Nat) : Nat := 35 + n

/-- A domain is on. -/
def domOn (s : State) (k : Nat) : Bool := s.power.domains.getLsbD k

/-- The domains on which a domain depends are on (R43). -/
def supplied (s : State) (k : Nat) : Bool :=
  if k < 16 then domOn s (domSlab (k / 4)) && domOn s (domD2d (k / 4))
  else if k < 20 ∨ (28 ≤ k ∧ k < 32) then domOn s domHubfab
  else true

/-- The domain that holds a page's registers. A PART page belongs to the control network's domain (log 12). -/
def pageDomain (i : PageId) : Nat :=
  match i.core with
  | some g => domQ (g / 10)
  | none =>
    if i.ty = ptDieCtl ∨ i.ty = ptAlmanac then domD2d i.die
    else if i.ty = ptHbmc then domHbm i.die i.inst
    else if i.ty = ptSlab then domSlab i.die
    else if i.ty = ptD2d then (if i.die = 4 then domHubfab else domD2d i.die)
    else if i.ty = ptLink then domLp i.inst
    else if i.ty = ptMgmt ∨ i.ty = ptPart then domCtl
    else if i.ty = ptSched ∨ i.ty = ptCrier ∨ i.ty = ptLinkCtx then domHubfab
    else bootDomain

/-! ### Register words -/

/-- The stored word of a register: the page keeps it by its difference from the reset word. -/
def State.reg (s : State) (pn off : Nat) : Word :=
  mget 0 (s.page pn).regs off ^^^ regReset ((page? pn).elim 0 PageId.ty) off

/-- The page with a stored register word set. -/
def State.setReg (s : State) (pn off : Nat) (w : Word) : State :=
  s.modPage pn fun p =>
    { p with regs := mset 0 p.regs off (w ^^^ regReset ((page? pn).elim 0 PageId.ty) off) }

/-- A register as a number, and a pair of registers as one. -/
def State.regN (s : State) (pn off : Nat) : Nat := (s.reg pn off).toNat
def State.regPair (s : State) (pn off : Nat) : Nat := s.regN pn off + 2 ^ 32 * s.regN pn (off + 4)
/-- A 48-bit address held in a pair of registers (R561). -/
def State.regAddr (s : State) (pn off : Nat) : Nat := s.regN pn off + 2 ^ 32 * bits (s.regN pn (off + 4)) 15 0

/-! ### Counters (R534) -/

/-- Counter `k` of a page. -/
def State.counter (s : State) (pn k : Nat) : Long := mget 0 (s.page pn).counters k

/-- Counter `k` of a page moved on by `n`, modulo 2^64. -/
def State.count (s : State) (pn k n : Nat) : State :=
  s.modPage pn fun p => { p with counters := mset 0 p.counters k (mget 0 p.counters k + BitVec.ofNat 64 n) }

/-- A counter of what time or the wire alone shows moves on by an amount that is open (log 68). -/
def State.countOpen (s : State) (pn k : Nat) : State :=
  let d := drawFree s
  d.2.count pn k d.1.toNat

/-! ### Partitions (R456) -/

/-- Registers of the PART page (R474, R420, R392, R245). -/
def quadsOf (s : State) (p : Nat) : Nat := s.regN (pnPart p) 0x100
def hostsOf (s : State) (p : Nat) : Nat := s.regN (pnPart p) 0x104
/-- The hub SRAM grant as first offset and size (R456). -/
def hubGrant (s : State) (p : Nat) : Nat × Nat :=
  (s.regN (pnPart p) 0x108 * 0x10000, s.regN (pnPart p) 0x10C * 0x10000)

/-- The partition that owns a quadrant, 4d + q. -/
def partOfQuad (s : State) (q : Nat) : Option Nat := (List.range 4).find? fun p => (quadsOf s p).testBit q

/-- The partition that owns a core. -/
def partOfCore (s : State) (g : Nat) : Option Nat := partOfQuad s (g / 10)

/-- The partition a host core acts for. -/
def partOfHost (s : State) (h : Nat) : Option Nat := (List.range 4).find? fun p => (hostsOf s p).testBit h

/-- The cores of a partition, in global core order. -/
def coresOfPart (s : State) (p : Nat) : List Nat := (List.range 160).filter fun g => (quadsOf s p).testBit (g / 10)

/-- The partition that holds the TRAINING job (R458). -/
def trainingPart (s : State) : Option Nat :=
  (List.range 4).find? fun p => (s.part p).jobs.any Job.training

/-- A partition has an admitted job, or one whose admission is pending. -/
def jobAdmitted (s : State) (p : Nat) : Bool := !(s.part p).jobs.isEmpty
def anyJobAdmitted (s : State) : Bool := (List.range 4).any (jobAdmitted s)
def isSealed (s : State) (p : Nat) : Bool := (s.part p).sealedPart.isSome
def anySealed (s : State) : Bool := (List.range 4).any (isSealed s)

/-- The admitted job that uses a context. -/
def jobOf (s : State) (p x : Nat) : Option Job := (s.part p).jobs.find? fun j => j.ctxMask.getLsbD x

/-- The base of a context's page in hub SRAM (R461), as a memory key. -/
def ctxPage (s : State) (p x : Nat) : Nat := s.regAddr (pnPart p) 0x110 + x * 0x1000

/-- A context dispatches and issues on a core: it is switched in there, no switch is under way, and it is runnable (R464,
R465, R466). -/
def ctxRuns (s : State) (g x : Nat) : Bool :=
  match partOfCore s g with
  | none => false
  | some p => (s.core g).cur == some x && (s.core g).incoming.isNone && ((s.part p).ctx x).phase == .runnable

/-- The die controller that serves a core (R20), as its die and number, is not halted (R21). -/
def dieCtlOf (s : State) (g : Nat) : DieController :=
  let d := s.die (g / 40)
  if (g % 40) / 20 = 0 then d.dc0 else d.dc1
def setDieCtlOf (s : State) (g : Nat) (c : DieController) : State :=
  s.modDie (g / 40) fun d => if (g % 40) / 20 = 0 then { d with dc0 := c } else { d with dc1 := c }

/-- A core is powered and in service. -/
def coreOn (s : State) (g : Nat) : Bool := decide (g < 160) && domOn s (domQ (g / 10)) && !(s.core g).disabled

/-! ### Events and captures (R530–R532) -/

/-- The crier ring that owns a page's events (R530). -/
def eventRing (s : State) (pn : Nat) : Nat :=
  match page? pn with
  | none => 4
  | some i =>
    match i.core with
    | some g => (partOfCore s g).getD 4
    | none => if i.ty = ptPart then i.inst else 4

/-- A page's address queued in its crier ring (R540): 64 entries, further ones are counted as lost. -/
def queueEvent (s : State) (pn : Nat) : State :=
  let k := eventRing s pn
  let r := s.crierRing k
  s.setCrierRing k
    (if r.events.length < 64 then { r with events := r.events ++ [pn * 0x1000] }
     else { r with lost := if r.lost = BitVec.allOnes 32 then r.lost else r.lost + 1 })

/-- Event bit `b` of a page is set; if it was 0 and is enabled, the page's address is queued (R530). -/
def setEvent (s : State) (pn b : Nat) : State :=
  let p := s.page pn
  let s' := s.setPage pn { p with evtStatus := p.evtStatus ||| BitVec.ofNat 32 (2 ^ b) }
  if p.evtEnable.getLsbD b && !p.evtStatus.getLsbD b then queueEvent s' pn else s'

/-- A cause of the alert word is set, with the event of the same number in the PWR page (R554). -/
def raiseAlert (s : State) (b : Nat) : State :=
  setEvent { s with power := { s.power with alert := s.power.alert ||| BitVec.ofNat 8 (2 ^ b) } } pnPwr b

/-- A page's first-error capture takes a record if it holds none (R532). -/
def capture (s : State) (pn : Nat) (r : Nat) : State :=
  s.modPage pn fun p => { p with capture := some (p.capture.getD (BitVec.ofNat 512 r)) }

/-- The access record of R531. -/
def accessRecord (s : State) (reason init : Nat) (write : Bool) (address : Nat) (data : Nat) : Nat :=
  let i := page? (address / 0x1000)
  fields [(8, reason), (12, if write then 1 else 0), (16, init),
    (32, if reason = 0 then 0 else i.elim 0 PageId.ty), (40, if reason = 0 then 0 else i.elim 0 PageId.inst),
    (64, s.bell.count.toNat), (128, address), (160, if write then data else 0)]

/-- A write refused by a rule of the page, or a value it does not take: recorded in the page itself (R531). -/
def recordRefusal (s : State) (reason init pn off : Nat) (data : Nat) : State :=
  capture s pn (accessRecord s reason init true (pn * 0x1000 + off) data)

/-- A /B value that the page rejects at a boundary (R535): reason 8, initiator 0xFF. -/
def recordLatchRefusal (s : State) (pn off : Nat) (data : Nat) : State := recordRefusal s 8 0xFF pn off data

/-! ### Traps (R205–R208) -/

/-- A trap as its source states it (R206); `row` to `outCol` name the tile and the output column. -/
structure TrapInfo where
  code     : Nat
  level    : Nat
  part     : Option Nat := none
  ctx      : Option Nat := none
  core     : Option Nat := none
  cmdId    : Nat := 0
  row      : Nat := 0
  col      : Nat := 0
  outCol   : Nat := 0
  redBlock : Nat := 0xFFFFFFFF
  /-- R207, from bit 320 -/
  detail   : Nat := 0

def trapFirstNan : Nat := 0x01
def trapFormatFloor : Nat := 0x02
def trapStepSkew : Nat := 0x03
def trapPageExhausted : Nat := 0x04
def trapDeadlineMiss : Nat := 0x05
def trapUncorrectable : Nat := 0x06
def trapLinkTimeout : Nat := 0x07
def trapDescriptor : Nat := 0x08
def trapBellUnlock : Nat := 0x09
def trapLength : Nat := 0x0A
def trapOverflow : Nat := 0x0B
def trapPosition : Nat := 0x0C
def trapRelease : Nat := 0x0D

/-- The trap record of R206 for a trap whose source is page `pn`. Its SEQNO is the crier's count of records before it:
those formed and those raised before (R205). -/
def trapRecordBits (s : State) (pn : Nat) (t : TrapInfo) : Nat :=
  let i := (page? pn).getD { ty := 0, inst := 0 }
  let die := match t.core with | some g => g / 40 | none => i.die
  let seq := ((s.counter pnCrier 0).toNat + s.crier.pending.length) % 2 ^ 32
  fields [(0, t.code), (8, t.level), (10, t.part.getD 0), (12, t.ctx.getD 0),
    (15, if t.part.isSome && t.ctx.isSome then 1 else 0), (16, die), (24, t.core.getD 0xFF), (32, i.ty), (40, i.inst),
    (64, s.bell.count.toNat), (128, t.cmdId), (160, t.row), (192, t.col), (224, t.outCol), (256, t.redBlock),
    (288, seq), (320, t.detail)]

/-- A trap is raised at page `pn`: the page's capture takes the record if it is empty (R208), the crier will record it
(R205), and a core that is its source counts it (R547). -/
def raiseTrap (s : State) (pn : Nat) (t : TrapInfo) : State :=
  let r := trapRecordBits s pn t
  let rings := if t.code = trapBellUnlock then [4, 0, 1, 2, 3] else [t.part.getD 4]
  let s1 := capture s pn r
  let s2 : State := { s1 with crier :=
    { s1.crier with pending := s1.crier.pending ++ [{ rings := rings, record := BitVec.ofNat 512 r }] } }
  match t.core with
  | some g => s2.count (pnCnt g) 6 1
  | none => s2

/-! ### Steps that fail (R189) -/

/-- The context's step-failed state is set. In the TRAINING job a failure after the TOLL's time counts for the next
step as well. -/
def failStep (s : State) (p x : Nat) : State :=
  let s1 := s.modCtx p x fun c => { c with stepFailed := true }
  let late := match s.sched.tollTime with
    | some t => decide (trainingPart s = some p) && decide (t < s.bell.count)
    | none => false
  if late then { s1 with sched := { s1.sched with lateFails := s1.sched.lateFails ++ [(p, x)] } } else s1

/-! ### Command records and completion (R179, R182, R187, R196) -/

def CmdRec.w (r : CmdRec) (k : Nat) : Nat := wordAt r.words k
def CmdRec.opcode (r : CmdRec) : Nat := bits (r.w 0) 5 0
def CmdRec.tag (r : CmdRec) : Nat := bits (r.w 0) 31 16
def CmdRec.cmdId (r : CmdRec) : Nat := r.w 1
def CmdRec.dep0 (r : CmdRec) : Nat := bits (r.w 2) 15 0
def CmdRec.dep1 (r : CmdRec) : Nat := bits (r.w 2) 31 16
def CmdRec.shape (r : CmdRec) : Nat := bits (r.w 3) 1 0
def CmdRec.accBegin (r : CmdRec) : Nat := bits (r.w 3) 3 2
def CmdRec.accEnd (r : CmdRec) : Nat := bits (r.w 3) 5 4
def CmdRec.rmode (r : CmdRec) : Nat := bits (r.w 3) 8 6
def CmdRec.edge (r : CmdRec) : Bool := (r.w 3).testBit 9
def CmdRec.xcOut (r : CmdRec) : Bool := (r.w 3).testBit 10
def CmdRec.gatherFlag (r : CmdRec) : Bool := (r.w 3).testBit 11
def CmdRec.slotBase (r : CmdRec) : Nat := bits (r.w 3) 18 12

/-- The status codes of R188. -/
def stOk : Nat := 0x00
def stEmptyOutput : Nat := 0x01
def stFrozenSkip : Nat := 0x02
def stPageExhausted : Nat := 0x03
def stReleaseDenied : Nat := 0x04
def stDescriptor : Nat := 0x10
def stFormatFloor : Nat := 0x11
def stPosition : Nat := 0x12
def stStepSkew : Nat := 0x13
def stUncorrectable : Nat := 0x14
def stLinkTimeout : Nat := 0x15
def stHalted : Nat := 0x17
def stDepFailed : Nat := 0x18
def stTimeout : Nat := 0x19
def stAborted : Nat := 0x1A
/-- A failure status, 0x10–0x1F (R188). -/
def statusFails (st : Nat) : Bool := decide (0x10 ≤ st)

/-- What a completion entry says besides the record's own words (R187). -/
structure Completion where
  status   : Nat := 0
  summary  : Nat := 0
  rowEmpty : Bool := false
  detail   : Nat := 0
  tiles    : Nat := 0
  /-- the cycle after the one in which its last result committed, counted from 1 (R93); 0 where it committed none -/
  endAt    : Nat := 0

/-- The completion entry of R187 as bytes. -/
def completionEntry (s : State) (r : CmdRec) (c : Completion) : List Byte :=
  leBytes 16 (fields [(0, r.cmdId), (32, c.status), (40, c.summary), (46, if c.rowEmpty then 1 else 0),
    (48, c.detail % 2 ^ 16), (64, c.tiles % 2 ^ 32), (96, bits s.bell.count.toNat 31 0)])

/-- A record belongs to a chain that has not committed (R203), switched in or out. -/
def inOpenChain (c : Core) (x idx : Nat) : Bool :=
  let here (e : Edge) : Bool := e.chains.any fun k => k.cmds.any fun r => r.ctx == x && r.idx == idx && r.recompute.isNone
  let sv := mget {} c.saved x
  here c.bottom || here c.side || here sv.bottom || here sv.side

/-- The ring head passes every completed record whose chain has committed (R179). -/
def advanceHead (c : Core) (x : Nat) : Nat → Ring → Ring
  | 0, r => r
  | n + 1, r =>
    let h := r.head.toNat
    if r.done.contains h && !inOpenChain c x h then
      advanceHead c x n { r with head := r.head + 1, done := r.done.erase h }
    else r

/-- Every ring head of a core moves as far as it may. -/
def advanceHeads (s : State) (g : Nat) : State :=
  s.modCore g fun c =>
    { c with rings := c.rings.map fun e => (e.1, advanceHead c e.1 e.2.done.length e.2) }

/-- A record that waits for record `i` of its ring waits no longer (R189, R196): no pass of it enters before the cycle
after that record's last commit, `at_` (R93). -/
def CmdRec.settle (x i : Nat) (fails : Bool) (at_ : Nat) (r : CmdRec) : CmdRec :=
  if r.ctx = x ∧ i ∈ r.deps then
    { r with deps := r.deps.erase i, depFailed := r.depFailed || fails, after := max r.after at_ }
  else r

/-- Every record of a core that waits for record `i` of ring `x` waits no longer. -/
def Core.settleDeps (x i : Nat) (fails : Bool) (at_ : Nat) (c : Core) : Core :=
  let f := List.map (CmdRec.settle x i fails at_)
  { c with
    aq := f c.aq, vq := f c.vq, mq := f c.mq,
    gather := c.gather.map fun q => { q with reqs := f q.reqs },
    rings := c.rings.map fun e =>
      (e.1, { e.2 with hold := e.2.hold.map (CmdRec.settle x i fails at_), acting := f e.2.acting }),
    saved := c.saved.map fun e => (e.1, { e.2 with aq := f e.2.aq, vq := f e.2.vq, mq := f e.2.mq }) }

/-- A command that an entry's RECOMPUTE dispatched has completed; one that failed fails the entry (R359). -/
def AlmRing.settle (pos : Nat) (fails : Bool) (k : AlmRing) : AlmRing :=
  { k with entries := k.entries.map fun e =>
      if e.pos = pos then { e with recompute := e.recompute - 1, failed := e.failed || fails } else e }

end Sys2Proof.Machine
end

