-- ==== Sys2Proof/Machine/Access.lean ====
section
/-! DEFINITION. The control network: who reaches which page, accesses that no page serves, the disarming of a key, and
control writes held behind stream writes (R28–R32, R456, R524, R528, R531). -/

namespace Sys2Proof.Machine

/-! ### Initiators (R29, R531) -/

/-- The host core behind an initiator number: 1–16. -/
def hostOf? (init : Nat) : Option Nat := if 1 ≤ init ∧ init ≤ 16 then some (init - 1) else none

/-- The partition that an initiator acts for (R456): that of a host core. -/
def partOfInit (s : State) (init : Nat) : Option Nat := (hostOf? init).bind (partOfHost s)

/-! ### Reach (R32, R456) -/

/-- A partition owns a quadrant of a compute die. -/
def ownsOnDie (s : State) (p d : Nat) : Bool := (List.range 4).any fun q => (quadsOf s p).testBit (4 * d + q)

/-- A word of a page's blocks of one partition each (first block, size) is none of another partition's (R7; log 145). -/
def ownBlock (p off base size : Nat) : Bool :=
  decide (off < base) || decide (base + 4 * size ≤ off) || (decide (base + p * size ≤ off) && decide (off < base + (p + 1) * size))

/-- An initiator that acts for partition `p` reaches offset `off` of a page: its own quadrants' core and die-controller
pages, what its dies share but for other partitions' almanac rings and free lists, its PART page, its rings of the LINKCTX and CRIER pages, and the SCHED page if it holds the
TRAINING job. -/
def reaches (s : State) (p : Nat) (i : PageId) (off : Nat) : Bool :=
  match i.core with
  | some g => partOfCore s g == some p
  | none =>
    if i.ty = ptDieCtl then
      ((quadsOf s p).testBit (4 * i.die + 2 * i.inst) || (quadsOf s p).testBit (4 * i.die + 2 * i.inst + 1)) &&
        ownBlock p off 0x100 0x20
    else if i.die < 4 then ownsOnDie s p i.die && (i.ty != ptAlmanac || ownBlock p off 0x200 0x100)
    else if i.ty = ptPart then i.inst == p
    else if i.ty = ptLinkCtx then decide (0x200 + p * 0x10 ≤ off) && decide (off < 0x210 + p * 0x10)
    else if i.ty = ptCrier then decide (0x200 + p * 0x20 ≤ off) && decide (off < 0x220 + p * 0x20)
    else if i.ty = ptSched then trainingPart s == some p
    else false

/-! ### Sealed partitions (R483) -/

/-- The partition whose own a page is: that of its core, or the one its PART page stands for. -/
def pagePart (s : State) (pn : Nat) : Option Nat :=
  (page? pn).bind fun i =>
    match i.core with
    | some g => partOfCore s g
    | none => if i.ty = ptPart then some i.inst else none

/-- A page of a partition's own. -/
def pageOf (s : State) (p pn : Nat) : Bool := pagePart s pn == some p

/-- A page of a sealed partition. -/
def sealedPage (s : State) (pn : Nat) : Bool := (pagePart s pn).elim false (isSealed s)

/-- A read from outside a sealed partition of what its core pages hold, but for STATUS, EVT_STATUS and counters. -/
def hiddenRead (s : State) (init pn off : Nat) : Bool :=
  decide (init < 17) && ((page? pn).bind PageId.core).isSome && sealedPage s pn && partOfInit s init != pagePart s pn &&
    !(off == 0x014 || off == 0x020 || (decide (0x080 ≤ off) && decide (off < 0x100)))

/-! ### Accesses that no page serves (R28, R524, R531) -/

/-- An access of `bytes` bytes: no reason if a page serves it, else the reason of the record in the CRIER page's capture:
0 no page, 1 width or alignment, 2 outside the initiator's partition, 5 page unreachable. -/
def accessReason (s : State) (init bytes addr : Nat) (write : Bool) : Option Nat :=
  if bytes ≠ 4 ∨ addr % 4 ≠ 0 then some 1
  else match page? (addr / 0x1000) with
  | none => some 0
  | some i =>
    if !((partOfInit s init).elim true fun p => reaches s p i (addr % 0x1000)) then some 2
    else if !write && hiddenRead s init (addr / 0x1000) (addr % 0x1000) then some 2
    else if !(domOn s (pageDomain i)) || s.boot.resetPages.contains (addr / 0x1000) then some 5
    else none

/-- An access is handled as R28 states: recorded and counted in the CRIER page, while that is powered, without any other
effect. -/
def refuseAccess (s : State) (reason init : Nat) (write : Bool) (addr data : Nat) : State :=
  if domOn s domHubfab then
    (setEvent (capture s pnCrier (accessRecord s reason init write addr data)) pnCrier 0).count pnCrier 1 1
  else s

/-- Any access to a page disarms a key there, but for the write that the key waits for (R528). -/
def disarm (s : State) (pn : Nat) : State := s.modPage pn fun p => { p with keyArmed := none }

/-- An access arrives: it goes on at its page with the key disarmed, or is handled as R28 states. While the control network
is not powered there is no access (R42). -/
def arrive (s : State) (init bytes addr : Nat) (write : Bool) (data : Nat) (served : State → State) : State :=
  if !domOn s domCtl then s
  else match accessReason s init bytes addr write with
  | some reason => refuseAccess s reason init write addr data
  | none => served (disarm s (addr / 0x1000))

/-! ### Held accesses (R29–R31) -/

/-- A host core's control access waits at the hub: a write behind its stream writes, any access behind accesses of its own
that wait. -/
def mustHold (s : State) (init : Nat) (behind : Bool) : Bool :=
  match hostOf? init with
  | none => false
  | some h => behind || !(s.host h).held.isEmpty

/-- The access joins those that wait. -/
def holdAccess (s : State) (init bytes addr value : Nat) (write : Bool) : State :=
  let h := init - 1
  s.setHost h { held := (s.host h).held ++
    [{ bytes := bytes, address := BitVec.ofNat 32 addr, value := BitVec.ofNat 32 value, write := write }] }

/-- A control write of a 32-bit word: it is held, refused, or has its effect at its page. -/
def ctlWrite (s : State) (init addr value : Nat) (behind : Bool) (served : State → State) : State :=
  if mustHold s init behind then holdAccess s init 4 addr value true
  else arrive s init 4 addr true value served

/-- A write ignored by a rule of the page (reason 6), or because of its value (reason 7): recorded in the page (R531). -/
def ignoreWrite (s : State) (reason init addr value : Nat) : State :=
  recordRefusal s reason init (addr / 0x1000) (addr % 0x1000) value

end Sys2Proof.Machine
end

