-- ==== Sys2Proof/Machine/Crypto.lean ====
section
/-! DEFINITION. The ciphers and signatures that the manual names: HKDF-SHA-512 (RFC 5869), Ed25519 (RFC 8032), X25519
(RFC 7748), AES-256 with XTS (IEEE 1619), CTR_DRBG (NIST SP 800-90A) and GMAC (R416, R439, R467, R476–R491). Their constants
are the standards' own (log 31). -/

namespace Sys2Proof.Machine

/-- Two byte strings, bit by bit. -/
def xorBytes (a b : List Byte) : List Byte := List.zipWith (fun x y => x ^^^ y) a b

/-! ### HMAC and HKDF with SHA-512 -/

def hmac (key msg : List Byte) : List Byte :=
  let k := if 128 < key.length then sha512 key else key
  let k := k ++ List.replicate (128 - k.length) 0
  sha512 (k.map (· ^^^ 0x5C) ++ sha512 (k.map (· ^^^ 0x36) ++ msg))

/-- The output blocks of HKDF from the `i`-th on. -/
def hkdfBlocks : Nat → List Byte → List Byte → List Byte → Nat → List Byte
  | 0, _, _, _, _ => []
  | n + 1, prk, info, last, i =>
    let t := hmac prk (last ++ info ++ [BitVec.ofNat 8 i])
    t ++ hkdfBlocks n prk info t (i + 1)

/-- `n` bytes of HKDF: salt, input key, info. -/
def hkdf (salt ikm info : List Byte) (n : Nat) : List Byte := (hkdfBlocks (ceilDiv n 64) (hmac salt ikm) info [] 1).take n

/-! ### The field of 2^255 − 19 -/

def edP : Nat := 2 ^ 255 - 19

/-- `b` to the power `e` modulo `m`, for an exponent of at most `n` bits. -/
def powMod (m : Nat) : Nat → Nat → Nat → Nat
  | 0, _, _ => 1
  | n + 1, b, e =>
    let h := powMod m n (b * b % m) (e / 2)
    if e % 2 = 1 then h * b % m else h

def edInv (a : Nat) : Nat := powMod edP 255 a (edP - 2)
def edSub (a b : Nat) : Nat := (a + edP - b % edP) % edP

/-! ### Ed25519 -/

/-- The order of the base point, the curve's constant, a square root of −1, and the base point. -/
def edL : Nat := 2 ^ 252 + 27742317777372353535851937790883648493
def edD : Nat := 37095705934669439343138083508754565189542113879843219016388785533085940283555
def edRootM1 : Nat := 19681161376707505956807079304988542015446066515923890162744021073123829784752
def edBaseX : Nat := 15112221349535400772501151409588531511454012693041857206046113283949847762202
def edBaseY : Nat := 46316835694926478169428394003475163141307993866256225615783033603165251855960

/-- A point in extended coordinates. -/
structure EdPoint where
  x : Nat
  y : Nat
  z : Nat
  t : Nat
  deriving DecidableEq, Repr

def edZero : EdPoint := ⟨0, 1, 1, 0⟩
def edBase : EdPoint := ⟨edBaseX, edBaseY, 1, edBaseX * edBaseY % edP⟩

/-- The sum of two points. -/
def EdPoint.add (p q : EdPoint) : EdPoint :=
  let a := edSub p.y p.x * edSub q.y q.x % edP
  let b := (p.y + p.x) * (q.y + q.x) % edP
  let c := p.t * 2 * edD % edP * q.t % edP
  let d := p.z * 2 * q.z % edP
  let e := edSub b a
  let f := edSub d c
  let g := (d + c) % edP
  let h := (b + a) % edP
  ⟨e * f % edP, g * h % edP, f * g % edP, e * h % edP⟩

/-- A point times a number of at most `n` bits. -/
def EdPoint.mul : Nat → EdPoint → Nat → EdPoint
  | 0, _, _ => edZero
  | n + 1, p, k =>
    let r := (p.add p).mul n (k / 2)
    if k % 2 = 1 then r.add p else r

/-- Two points are one. -/
def EdPoint.same (p q : EdPoint) : Bool := p.x * q.z % edP == q.x * p.z % edP && p.y * q.z % edP == q.y * p.z % edP

/-- A point as 32 bytes, and back. -/
def EdPoint.encode (p : EdPoint) : List Byte :=
  let i := edInv p.z
  leBytes 32 (p.y * i % edP + p.x * i % edP % 2 * 2 ^ 255)
def edDecode (bs : List Byte) : Option EdPoint :=
  let n := ofLe (bs.take 32)
  let y := n % 2 ^ 255
  let x2 := edSub (y * y) 1 * edInv (edD * y % edP * y + 1) % edP
  let r := powMod edP 255 x2 ((edP + 3) / 8)
  let x := if r * r % edP = x2 then r else r * edRootM1 % edP
  if edP ≤ y ∨ x * x % edP ≠ x2 ∨ (x = 0 ∧ n / 2 ^ 255 = 1) then none
  else
    let x := if x % 2 = n / 2 ^ 255 then x else edP - x
    some ⟨x, y, 1, x * y % edP⟩

/-- The scalar and the prefix of a private key. -/
def edScalar (key : List Byte) : Nat := ofLe ((sha512 key).take 32) % 2 ^ 254 / 8 * 8 + 2 ^ 254
def edPrefix (key : List Byte) : List Byte := (sha512 key).drop 32

/-- The public key of a private key. -/
def edPublic (key : List Byte) : List Byte := (edBase.mul 256 (edScalar key)).encode

/-- The signature of a message, 64 bytes. -/
def edSign (key msg : List Byte) : List Byte :=
  let r := ofLe (sha512 (edPrefix key ++ msg)) % edL
  let point := (edBase.mul 256 r).encode
  let k := ofLe (sha512 (point ++ edPublic key ++ msg)) % edL
  point ++ leBytes 32 ((r + k * edScalar key) % edL)

/-- A signature of a message holds under a public key. RFC 8032 lets a verifier multiply both sides by the cofactor or not
(log 10). -/
def edVerify (pub msg sig : List Byte) : Bool :=
  match edDecode pub, edDecode sig with
  | some a, some r =>
    let k := ofLe (sha512 (sig.take 32 ++ pub ++ msg)) % edL
    let v := ofLe (sig.drop 32)
    let m := if Config.edCofactor then 8 else 1
    sig.length == 64 && pub.length == 32 && decide (v < edL) &&
      ((edBase.mul 256 v).mul 4 m).same ((r.add (a.mul 256 k)).mul 4 m)
  | _, _ => false

/-! ### X25519 -/

/-- One bit of the ladder: x1, the two points as x and z. -/
def ladderStep (x1 : Nat) (s : (Nat × Nat) × Nat × Nat) : (Nat × Nat) × Nat × Nat :=
  let a := (s.1.1 + s.1.2) % edP
  let b := edSub s.1.1 s.1.2
  let aa := a * a % edP
  let bb := b * b % edP
  let e := edSub aa bb
  let da := edSub s.2.1 s.2.2 * a % edP
  let cb := (s.2.1 + s.2.2) * b % edP
  let sum := da + cb
  let dif := edSub da cb
  ((aa * bb % edP, e * (aa + 121665 * e) % edP), sum * sum % edP, x1 * (dif * dif % edP) % edP)

/-- The ladder over the low `n` bits of a scalar, highest first. -/
def ladder (x1 k : Nat) : Nat → (Nat × Nat) × Nat × Nat → (Nat × Nat) × Nat × Nat
  | 0, s => s
  | n + 1, s =>
    if k.testBit n then
      let r := ladderStep x1 (s.2, s.1)
      ladder x1 k n (r.2, r.1)
    else ladder x1 k n (ladderStep x1 s)

/-- X25519 of a scalar and a u coordinate, each 32 bytes. -/
def x25519 (scalar u : List Byte) : List Byte :=
  let k := ofLe scalar % 2 ^ 254 / 8 * 8 + 2 ^ 254
  let x1 := ofLe u % 2 ^ 255 % edP
  let r := ladder x1 k 255 ((1, 0), x1, 1)
  leBytes 32 (r.1.1 * edInv r.1.2 % edP)

/-- The public key of an ephemeral scalar. -/
def x25519Public (scalar : List Byte) : List Byte := x25519 scalar (leBytes 32 9)

/-! ### AES-256 (FIPS 197) -/

/-- Times x, and the product, in the field of AES. -/
def gfDouble (a : Nat) : Nat := if a < 128 then 2 * a else Nat.xor (2 * a) 0x11B
def gfMul : Nat → Nat → Nat → Nat
  | 0, _, _ => 0
  | n + 1, a, b => Nat.xor (if b % 2 = 1 then a else 0) (gfMul n (gfDouble a) (b / 2))
def gf (a b : Nat) : Nat := gfMul 8 a b
/-- The inverse, a^254: the product of the seven squares from a^2 on. -/
def gfInvAux : Nat → Nat → Nat
  | 0, _ => 1
  | n + 1, a => let q := gf a a; gf q (gfInvAux n q)
def gfInv (a : Nat) : Nat := gfInvAux 7 a

def sbox (b : Byte) : Byte :=
  let i := BitVec.ofNat 8 (gfInv b.toNat)
  i ^^^ i.rotateLeft 1 ^^^ i.rotateLeft 2 ^^^ i.rotateLeft 3 ^^^ i.rotateLeft 4 ^^^ 0x63
def sboxInv (b : Byte) : Byte :=
  BitVec.ofNat 8 (gfInv (b.rotateLeft 1 ^^^ b.rotateLeft 3 ^^^ b.rotateLeft 6 ^^^ 0x05).toNat)

/-- The key schedule, newest word first: `n` more words, of which the next is the `i`-th. -/
def aesExpand : Nat → Nat → List (List Byte) → List (List Byte)
  | 0, _, w => w
  | n + 1, i, w =>
    let t := w.headD []
    let t := if i % 8 = 0 then xorBytes ((t.drop 1 ++ t.take 1).map sbox) [BitVec.ofNat 8 (2 ^ (i / 8 - 1)), 0, 0, 0]
      else if i % 8 = 4 then t.map sbox else t
    aesExpand n (i + 1) (xorBytes (w.getD 7 []) t :: w)

/-- The fifteen round keys of a 32-byte key. -/
def aesKeys (key : List Byte) : List (List Byte) :=
  let w := (aesExpand 52 8 ((List.range 8).map fun k => (key.drop (4 * k)).take 4).reverse).reverse
  (List.range 15).map fun r => ((w.drop (4 * r)).take 4).flatten

def shiftRows (s : List Byte) : List Byte := (List.range 16).map fun i => s.getD ((i + 4 * (i % 4)) % 16) 0
def unshiftRows (s : List Byte) : List Byte := (List.range 16).map fun i => s.getD ((i + 12 * (i % 4)) % 16) 0

/-- Every column times a circulant matrix of first row `m`. -/
def mixWith (m : List Nat) (s : List Byte) : List Byte :=
  (List.range 16).map fun i => (List.range 4).foldl (fun (a : Byte) k =>
    a ^^^ BitVec.ofNat 8 (gf (s.getD (i / 4 * 4 + (i + k) % 4) 0).toNat (m.getD k 0))) 0

/-- AES-256 of a 16-byte block, and its inverse. -/
def aesEncrypt (key block : List Byte) : List Byte :=
  let ks := aesKeys key
  let s := ((ks.drop 1).take 13).foldl (fun s k => xorBytes (mixWith [2, 3, 1, 1] (shiftRows (s.map sbox))) k) (xorBytes block (ks.headD []))
  xorBytes (shiftRows (s.map sbox)) (ks.getD 14 [])
def aesDecrypt (key block : List Byte) : List Byte :=
  let ks := (aesKeys key).reverse
  let s := ((ks.drop 1).take 13).foldl (fun s k => mixWith [14, 11, 13, 9] (xorBytes ((unshiftRows s).map sboxInv) k))
    (xorBytes block (ks.headD []))
  xorBytes ((unshiftRows s).map sboxInv) (ks.getD 14 [])

/-! ### XTS-AES-256 (R416) -/

/-- A tweak times α. -/
def xtsNext (t : List Byte) : List Byte :=
  let n := ofLe t
  leBytes 16 (Nat.xor (2 * n % 2 ^ 128) (if n < 2 ^ 127 then 0 else 0x87))

/-- One data unit of two blocks under a 64-byte key, whose second half makes the tweak of the unit's number. -/
def xts (cipher : List Byte → List Byte → List Byte) (key : List Byte) (unit : Nat) (bs : List Byte) : List Byte :=
  let t0 := aesEncrypt (key.drop 32) (leBytes 16 unit)
  let t1 := xtsNext t0
  let one (t b : List Byte) : List Byte := xorBytes (cipher (key.take 32) (xorBytes b t)) t
  one t0 (bs.take 16) ++ one t1 (bs.drop 16)
def xtsEncrypt (key : List Byte) (unit : Nat) (bs : List Byte) : List Byte := xts aesEncrypt key unit bs
def xtsDecrypt (key : List Byte) (unit : Nat) (bs : List Byte) : List Byte := xts aesDecrypt key unit bs

/-! ### CTR_DRBG without derivation function (R491) -/

/-- `n` blocks of output from a counter on. -/
def ctrBlocks (key : List Byte) : Nat → Nat → List Byte
  | 0, _ => []
  | n + 1, v => aesEncrypt key (beBytes 16 ((v + 1) % 2 ^ 128)) ++ ctrBlocks key n (v + 1)

/-- The update by 48 bytes. -/
def Drbg.update (g : Drbg) (data : List Byte) : Drbg :=
  let t := xorBytes (ctrBlocks (leBytes 32 g.key.toNat) 3 g.v.toNat) data
  { g with key := BitVec.ofNat 256 (ofLe (t.take 32)), v := BitVec.ofNat 128 (ofBe (t.drop 32)) }

/-- A generator instantiated from 48 bytes of entropy, and one reseeded. -/
def drbgSeed (entropy : List Byte) : Drbg := (({} : Drbg).update entropy)
def Drbg.reseed (g : Drbg) (entropy : List Byte) : Drbg := { g.update entropy with requests := 0 }

/-- A request for 16 bytes: the bytes, and the generator after them. -/
def Drbg.next (g : Drbg) : List Byte × Drbg :=
  (ctrBlocks (leBytes 32 g.key.toNat) 1 g.v.toNat,
   { ({ g with v := g.v + 1 } : Drbg).update (List.replicate 48 0) with requests := g.requests + 1 })

/-! ### GMAC (R467) -/

/-- The product in the field of GCM, over the bits of `x` from the highest. -/
def gcmMul (x : Nat) : Nat → Nat → Nat → Nat
  | 0, _, z => z
  | n + 1, v, z =>
    gcmMul x n (if v % 2 = 1 then Nat.xor (v / 2) (0xE1 * 2 ^ 120) else v / 2) (if x.testBit n then Nat.xor z v else z)

/-- GHASH of blocks of 16 bytes. -/
def ghash (h : Nat) : Nat → Nat → List Byte → Nat
  | 0, y, _ => y
  | n + 1, y, bs => ghash h n (gcmMul (Nat.xor y (ofBe (bs.take 16))) 128 h 0) (bs.drop 16)

/-- The GMAC of bytes under a key and a 96-bit nonce. -/
def gmac (key : List Byte) (nonce : Nat) (bs : List Byte) : BitVec 128 :=
  let h := ofBe (aesEncrypt key (List.replicate 16 0))
  let pad := List.replicate ((16 - bs.length % 16) % 16) 0
  let m := bs ++ pad ++ beBytes 8 (8 * bs.length) ++ beBytes 8 0
  BitVec.ofNat 128 (Nat.xor (ghash h (m.length / 16) 0 m) (ofBe (aesEncrypt key (beBytes 16 (nonce * 2 ^ 32 + 1)))))

end Sys2Proof.Machine
end

