-- ==== Sys2Proof/Machine/Memory.lean ====
section
/-! DEFINITION. Memory as a requester meets it: the HBM interleave, error protection, encryption, and the outcome of
reads and writes over units with errors (R372, R397–R402, R407–R411, R415, R416). -/

namespace Sys2Proof.Machine

/-! ### The interleave (R398, R401) -/

/-- The HBM controller that drives a physical pseudo-channel's stack (R395). -/
def Die.hbmc (d : Die) (k : Nat) : Hbmc := if k = 0 then d.hbm0 else d.hbm1
def Die.setHbmc (d : Die) (k : Nat) (h : Hbmc) : Die := if k = 0 then { d with hbm0 := h } else { d with hbm1 := h }
def State.hbmc (s : State) (d k : Nat) : Hbmc := (s.die d).hbmc k
def State.modHbmc (s : State) (d k : Nat) (f : Hbmc → Hbmc) : State :=
  s.modDie d fun v => v.setHbmc k (f (v.hbmc k))

/-- Pseudo-channel `n` belongs to an excluded channel. -/
def pcExcluded (s : State) (n : Nat) : Bool :=
  (s.hbmc (n / 128) (n / 64 % 2)).chExcluded.getLsbD (n % 64 / 2)

/-- The slot table: the healthy pseudo-channels in increasing order. -/
def slotTable (s : State) : List Nat := (List.range 512).filter fun n => !pcExcluded s n

/-- Whether any channel is excluded, and the number P of healthy pseudo-channels (R401). -/
def noneExcluded (s : State) : Bool :=
  (List.range 8).all fun k => (s.hbmc (k / 2) (k % 2)).chExcluded == 0
def healthyPcs (s : State) : Nat := if noneExcluded s then 512 else (slotTable s).length

/-- The physical pseudo-channel and the offset in it that a device address maps to (R398). -/
def hbmPlace (s : State) (d : Nat) : Nat × Nat :=
  let p := healthyPcs s
  let g := d >>> 8
  let x := g / p
  let h := Nat.xor (Nat.xor (bits x 8 0) (bits x 17 9)) (bits x 21 18)
  let sl := (g % p + h) % p
  (if noneExcluded s then sl else (slotTable s).getD sl 0, x * 256 + d % 256)

/-- The channel that holds a device address has failed (R415). -/
def hbmChFailed (s : State) (d : Nat) : Bool :=
  let n := (hbmPlace s d).1
  (s.hbmc (n / 128) (n / 64 % 2)).chFailed.getLsbD (n % 64 / 2)

/-- No channel of any stack has failed. -/
def noneFailed (s : State) : Bool :=
  (List.range 8).all fun k => (s.hbmc (k / 2) (k % 2)).chFailed == 0

/-! ### HBM regions and encryption (R397, R416) -/

/-- A partition's HBM region as first device address and size (R397). -/
def hbmRegion (s : State) (p : Nat) : Nat × Nat :=
  (bits (s.regN (pnPart p) 0x160) 15 0 * 2 ^ 30, bits (s.regN (pnPart p) 0x164) 15 0 * 2 ^ 30)

/-- The key in force for a device address: the sealed partition's, or 0 for plaintext. -/
def hbmKey (s : State) (d : Nat) : Nat :=
  match (List.range 4).find? fun p =>
      decide ((hbmRegion s p).1 ≤ d) && decide (d < (hbmRegion s p).1 + (hbmRegion s p).2) with
  | some p => ((s.part p).sealedPart.elim 0 SealedPart.keyId)
  | none => 0

/-- A number from here on stands for a loss of contents, not for a draw of keys. -/
def lossBase : Nat := 2 ^ 64

/-- What a burst that `burstKey` does not list counts as, and what a burst was last written under: 0 plaintext, a draw of
keys, or a loss. -/
def unlistedKey (s : State) (b : Nat) : Nat :=
  ((s.hbmStale.find? fun e => decide (e.1 ≤ b) && decide (b < e.2.1)).map fun e => e.2.2).getD 0
def storedKey (s : State) (b : Nat) : Nat := mget (unlistedKey s b) s.burstKey b
/-- A burst counts as written under a key. -/
def setBurstKey (s : State) (b k : Nat) : State := { s with burstKey := mset (unlistedKey s b) s.burstKey b k }
/-- The contents of bursts `lo` up to `hi` are lost. -/
def loseBursts (s : State) (lo hi : Nat) : State :=
  { s with burstKey := s.burstKey.filter fun e => !(decide (lo ≤ e.1) && decide (e.1 < hi)),
           hbmStale := (lo, hi, lossBase + s.sealU.keysDrawn) :: s.hbmStale }

/-- The entropy source is drawn from: the number of the draw, and the state after it. -/
def drawKey (s : State) : Nat × State :=
  (s.sealU.keysDrawn + 1, { s with sealU := { s.sealU with keysDrawn := s.sealU.keysDrawn + 1 } })

/-- Bytes of a draw. -/
def entropy (draw n : Nat) : List Byte := (List.range n).map (Config.entropyByte draw)
/-- The XTS keys of a draw: 64 bytes (R416). -/
def xtsKeys (draw : Nat) : List Byte := entropy draw 64

/-- The 32 bytes that a burst's cells hold, of a burst written under `stored`. -/
def rawBurst (s : State) (b stored : Nat) : List Byte :=
  if lossBase ≤ stored then (List.range 32).map (Config.lostByte stored b)
  else if stored = 0 then memRead s (hbmAddr (32 * b)) 32
  else xtsEncrypt (xtsKeys stored) b (memRead s (hbmAddr (32 * b)) 32)

/-- The byte that a read of a memory key gives: of HBM, the burst's cells decrypted under the key in force (R416). Memory
holds the bytes as they were written. -/
def viewByte (s : State) (a : Nat) : Byte :=
  if tierOf a = 3 then
    let d := bits a 43 0
    let stored := storedKey s (d / 32)
    let cur := hbmKey s d
    if stored = cur then memByte s a
    else if cur = 0 then (rawBurst s (d / 32) stored).getD (d % 32) 0
    else (xtsDecrypt (xtsKeys cur) (d / 32) (rawBurst s (d / 32) stored)).getD (d % 32) 0
  else memByte s a

/-- `n` bytes as a read gives them. -/
def viewBytes (s : State) (a n : Nat) : List Byte := (List.range n).map fun k => viewByte s (a + k)
def viewNat (s : State) (a n : Nat) : Nat := ofLe (viewBytes s a n)
def viewWords (s : State) (a n : Nat) : List Word := (List.range n).map fun k => BitVec.ofNat 32 (viewNat s (a + 4 * k) 4)

/-! ### The outer code (R407, R408) -/

/-- The device address at an offset of a physical pseudo-channel in service: the mapping of R398 back. -/
def deviceOf (s : State) (n w : Nat) : Nat :=
  let p := healthyPcs s
  let x := w / 256
  let h := Nat.xor (Nat.xor (bits x 8 0) (bits x 17 9)) (bits x 21 18)
  let sl := if noneExcluded s then n else (slotTable s).findIdx (· == n)
  (x * p + (sl + p - h % p) % p) * 256 + w % 256

/-- The physical burst that holds a device address: pseudo-channel × 2^25 + offset ÷ 32. -/
def hbmBurst (s : State) (d : Nat) : Nat := let w := hbmPlace s d; w.1 * 2 ^ 25 + w.2 / 32

/-- How the decoder finds a burst. -/
inductive Decoded where
  | clean | corrected | uncorrectable
  deriving DecidableEq, Repr

/-- A codeword with these symbols in error and these pins marked: the symbols of marked pins are erasures, and one further
symbol is corrected (R407, R408; log 111). -/
def decodeBurst (err : BitVec 36) (marked : List Nat) : Decoded :=
  let wrong := (List.range 36).filter err.getLsbD
  let others := wrong.filter fun i => !marked.contains i
  if wrong.isEmpty then .clean else if others.length ≤ 1 then .corrected else .uncorrectable

/-- How the decoder finds the burst at a device address. -/
def burstState (s : State) (d : Nat) : Decoded :=
  let n := (hbmPlace s d).1
  decodeBurst (mget 0 s.hbmErr (hbmBurst s d)) (mget [] (s.hbmc (n / 128) (n / 64 % 2)).pins (n % 64))

/-- The burst at a device address is rewritten in full, which computes its code anew (R409). -/
def freshBurst (s : State) (d : Nat) : State := { s with hbmErr := mset 0 s.hbmErr (hbmBurst s d) 0 }

/-! ### Units with errors -/

/-- The first address of the unit of error protection that holds a byte. -/
def unitOf (a : Nat) : Nat := a - a % eccUnit a

/-- The units of error protection that a span touches, by first address. -/
def eccUnits (a n : Nat) : List Nat :=
  let u := eccUnit a
  if n = 0 then [] else (List.range ((a % u + n + u - 1) / u)).map fun k => a - a % u + k * u

/-- A unit cannot be read: a word with a double-bit error, a burst that the decoder cannot correct, or one in a failed
channel (R372, R410, R415). -/
def unitBad (s : State) (u : Nat) : Bool :=
  if tierOf u = 3 then hbmChFailed s (bits u 43 0) || burstState s (bits u 43 0) == .uncorrectable else s.bad.contains u

/-- A unit is read with its error corrected (R372, R407). -/
def unitSoft (s : State) (u : Nat) : Bool :=
  if tierOf u = 3 then !hbmChFailed s (bits u 43 0) && burstState s (bits u 43 0) == .corrected
  else s.softBad.contains u && !s.bad.contains u

/-- No unit of a tier has an error: what spares looking at each. -/
def cleanTier (s : State) (t : Nat) : Bool :=
  if t = 3 then s.hbmErr.isEmpty && noneFailed s else s.bad.isEmpty && s.softBad.isEmpty

/-- The first uncorrectable unit that a read of the span meets. -/
def badUnit (s : State) (a n : Nat) : Option Nat :=
  if cleanTier s (tierOf a) then none else (eccUnits a n).find? (unitBad s)

/-- The first uncorrectable unit that reads of several spans meet. -/
def badInSpans (s : State) (spans : List (Nat × Nat)) : Option Nat := spans.findSome? fun e => badUnit s e.1 e.2

/-- The uncorrectable units that reads of several spans meet. -/
def badUnits (s : State) (spans : List (Nat × Nat)) : List Nat :=
  (spans.flatMap fun e => if cleanTier s (tierOf e.1) then [] else (eccUnits e.1 e.2).filter (unitBad s)).dedup

/-- The row of a pseudo-channel that holds a device address: pseudo-channel and 1 KiB row as one number (R411). -/
def hbmRow (s : State) (d : Nat) : Nat := let w := hbmPlace s d; w.1 * 2 ^ 20 + w.2 / 1024

/-- A row is queued for repair, hard or soft; 64 rows at most, and one that finds the queue full is counted (R411). -/
def queueRepair (s : State) (d : Nat) (hard : Bool) : State :=
  let n := (hbmPlace s d).1
  let die := n / 128
  let k := n / 64 % 2
  let h := s.hbmc die k
  let row := hbmRow s d
  let q := h.repairQ.filter fun e => e != (row, false)
  if h.repairQ.contains (row, true) || h.repairQ.contains (row, hard) then s
  else if q.length < 64 then
    let s1 := setEvent (s.modHbmc die k fun v => { v with repairQ := q ++ [(row, hard)] }) (pnHbmc die k) 5
    if hard then
      ({ s1 with flash := s1.flash.addHardRow row } : State).count (pnHbmc die k) 6 1
    else s1
  else setEvent (s.modHbmc die k fun v => { v with queueFulls := v.queueFulls + 1 }) (pnHbmc die k) 6

/-- A correctable unit is read: its error is corrected and counted (R372, R407), and a row of HBM whose corrected errors
have reached the threshold is queued for soft repair (R411). An SRAM word is corrected in place; a burst keeps its symbols
until it is rewritten. -/
def correctUnit (s : State) (u : Nat) : State :=
  let s1 : State := { s with softBad := s.softBad.erase u }
  let t := tierOf u
  if t = 3 then
    let d := bits u 43 0
    let n := (hbmPlace s d).1
    let die := n / 128
    let k := n / 64 % 2
    let row := hbmRow s d
    let ces := mget 0 (s.hbmc die k).ceRows row + 1
    let s2 := (s.modHbmc die k fun h => { h with lastCe := BitVec.ofNat 39 d, ceRows := mset 0 h.ceRows row ces })
    let s3 := setEvent (s2.count (pnHbmc die k) 0 1) (pnHbmc die k) 0
    let th := bits (s.regN (pnHbmc die k) 0x010) 3 0
    if th ≠ 0 ∧ th ≤ ces then queueRepair s3 d false else s3
  else if t = 2 then
    match (List.range 4).find? fun p => decide ((hubGrant s p).1 ≤ bits u 25 0) &&
        decide (bits u 25 0 < (hubGrant s p).1 + (hubGrant s p).2) with
    | some p => s1.count (pnPart p) 11 1
    | none => s1
  else s1.count (pnLs (bits u 43 36)) 6 1

/-- The correctable units that a span touches are corrected. -/
def correctSpan (s : State) (a n : Nat) : State :=
  if cleanTier s (tierOf a) then s else ((eccUnits a n).filter (unitSoft s)).foldl correctUnit s

/-- Traffic at a slab port (R543): bytes and 256-byte flits, vertical or fabric-side. -/
def slabTraffic (s : State) (a n : Nat) (write vertical : Bool) : State :=
  if tierOf a = 1 ∧ n ≠ 0 then
    let pn := pnSlab (bits a 43 36 / 40)
    (s.count pn (if write then 1 else 0) n).count pn (if vertical then 2 else 3) (ceilDiv n 256)
  else s

/-- Reads of several spans are made: errors corrected, slab traffic counted. -/
def readSpans (s : State) (vertical : Bool) (spans : List (Nat × Nat)) : State :=
  spans.foldl (fun t e => slabTraffic (correctSpan t e.1 e.2) e.1 e.2 false vertical) s

/-- An uncorrectable unit was met: for HBM the controller counts it, raises its event and queues the row for hard
repair (R410, R411); for SRAM the LS page counts it (R372). -/
def noteBad (s : State) (u : Nat) : State :=
  if tierOf u = 3 then
    let d := bits u 43 0
    let n := (hbmPlace s d).1
    queueRepair (setEvent (s.count (pnHbmc (n / 128) (n / 64 % 2)) 1 1) (pnHbmc (n / 128) (n / 64 % 2)) 1) d true
  else if tierOf u = 2 then s
  else s.count (pnLs (bits u 43 36)) 7 1

/-- The further uncorrectable units that reads of spans meet beside the one of which the trap is raised: each is counted, and
its row queued (R411). -/
def noteOthers (s : State) (spans : List (Nat × Nat)) (u : Nat) : State :=
  spans.foldl (fun t e => if cleanTier t (tierOf e.1) then t
    else ((eccUnits e.1 e.2).filter fun v => v != u && unitBad t v).foldl noteBad t) s

/-- The page that is the source of UNCORRECTABLE_MEM for a unit, and its level (R40; log 17). -/
def badSource (s : State) (p u : Nat) : Nat × Nat :=
  if tierOf u = 3 then
    let n := (hbmPlace s (bits u 43 0)).1
    (pnHbmc (n / 128) (n / 64 % 2), 1)
  else if tierOf u = 2 then (pnPart p, 2)
  else (pnLs (bits u 43 36), 0)

/-- The fabric address that a memory key has for a consumer of partition `p`: local store is the core's own (R190), HBM
offsets are logical (R397). -/
def logicalOf (s : State) (p u : Nat) : Nat :=
  if tierOf u = 0 then bits u 23 0
  else if tierOf u = 3 then hbmAddr (bits u 43 0 - (hbmRegion s p).1)
  else u

/-- The fabric address that a consumer has used for a memory key. What its job lends on this device is reached by tier-4
addresses alone (R386): the handle is that of the first such entry. -/
def fabricOf (s : State) (p : Nat) (x : Option Nat) (u : Nat) : Nat :=
  let a := logicalOf s p u
  match x.bind (jobOf s p) with
  | none => a
  | some j =>
    if tierOf u = 1 ∨ tierOf u = 3 then
      match j.granary.findIdx? fun ws => lentHolds j.rank a 1 ws with
      | some h => granaryAddr h (a - lentBase (j.granary.getD h []))
      | none => a
    else a

/-- UNCORRECTABLE_MEM is raised for a consumer: DETAIL names the stack in its die, the channel, the pseudo-channel and
the address (R207, R410); 7 for an SRAM source (R372). `tile` is the first output row and column of the tile that met it
(R206). -/
def raiseBad (s : State) (p : Nat) (x : Option Nat) (cmdId u : Nat) (tile : Nat × Nat := (0, 0)) : State :=
  let n := (hbmPlace s (bits u 43 0)).1
  let where_ := if tierOf u = 3 then
      fields [(0, n / 64 % 2), (3, n % 64 / 2), (8, n % 2), (16, fabricOf s p x u)]
    else fields [(0, 7), (16, fabricOf s p x u)]
  let src := badSource s p u
  let core := if tierOf u < 2 then some (bits u 43 36) else none
  raiseTrap (noteBad s u) src.1
    { code := trapUncorrectable, level := src.2, part := some p, ctx := x, core := core, cmdId := cmdId, row := tile.1, col := tile.2,
      detail := where_ }

/-- The same of reads of spans that have met the unit first. -/
def raiseBadIn (s : State) (p : Nat) (x : Option Nat) (cmdId u : Nat) (spans : List (Nat × Nat)) (tile : Nat × Nat := (0, 0)) :
    State :=
  noteOthers (raiseBad s p x cmdId u tile) spans u

/-! ### Writes -/

/-- The pieces of a span by unit: first address, offset and length of each. -/
def unitPieces (a n : Nat) : List (Nat × Nat) :=
  let u := eccUnit a
  (List.range ((a % u + n + u - 1) / u)).map fun k =>
    let lo := max a (a - a % u + k * u)
    (lo, min (a + n) (a - a % u + (k + 1) * u) - lo)

/-- One piece within one unit is written. A part of a unit that is uncorrectable, and any unit in a failed channel, is
left as it is (R372, R409, R415); a burst takes the key in force, its other bytes re-encrypted (R416). -/
def storePiece (s : State) (a : Nat) (bs : List Byte) : State × Option Nat :=
  let u := unitOf a
  let full := bs.length == eccUnit a
  if (tierOf a = 3 ∧ hbmChFailed s (bits a 43 0)) ∨ (unitBad s u ∧ !full) then (s, some u)
  else
    let s1 := if unitSoft s u ∧ !full then correctUnit s u else s
    let s2 : State := if tierOf a = 3 then freshBurst s1 (bits u 43 0)
      else { s1 with bad := s1.bad.erase u, softBad := s1.softBad.erase u }
    if tierOf a = 3 then
      let b := bits u 43 0 / 32
      let cur := hbmKey s (bits u 43 0)
      let s3 := if storedKey s b = cur then s2 else memWrite (setBurstKey s2 b cur) u (viewBytes s u 32)
      (memWrite s3 a bs, none)
    else (memWrite s2 a bs, none)

/-- Nothing about a span needs the unit-by-unit rules: no marked unit, no failed channel, no burst under another key. -/
def plainSpan (s : State) (a : Nat) : Bool :=
  cleanTier s (tierOf a) && (tierOf a != 3 || (s.hbmStale.isEmpty && s.burstKey.isEmpty && !anySealed s))

/-- A unit joins what a write has met: the first is named, of which the trap is raised; every further row of HBM is counted
and queued where it is met (R411). -/
def joinBad (s : State) (first u : Option Nat) : State × Option Nat :=
  match first, u with
  | some f, some v => (if f = v then s else noteBad s v, some f)
  | _, _ => (s, first.or u)

/-- Bytes are stored from a key on: every unit is written except those that cannot be, the first of which is named. -/
def storeUnits (s : State) (a : Nat) (bs : List Byte) : State × Option Nat :=
  if plainSpan s a then (memWrite s a bs, none)
  else (unitPieces a bs.length).foldl (fun acc e =>
    let r := storePiece acc.1 e.1 ((bs.drop (e.1 - a)).take e.2)
    joinBad r.1 acc.2 r.2) (s, none)

/-- A span of hub SRAM, by offset, lies outside every partition's grant. -/
def outsideAll (s : State) (off n : Nat) : Bool :=
  decide (off + n ≤ hubSize) && (List.range 4).all fun p =>
    !(overlap off (off + n) (hubGrant s p).1 ((hubGrant s p).1 + (hubGrant s p).2))

/-- The release (0x40) or intake (0x60) windows of a sealed partition: number, first offset and size of those that lie outside
every grant (R483, R487, R494). -/
def sealWindows (s : State) (p base : Nat) : List (Nat × Nat × Nat) :=
  if isSealed s p then ((List.range 4).map fun k =>
    let v := s.regN pnSeal (0x200 + p * 0x80 + base + 4 * k)
    (k, bits v 15 0 * 0x10000, bits v 31 16 * 0x10000)).filter fun e => e.2.2 != 0 && outsideAll s e.2.1 e.2.2
  else []

/-- A range of hub SRAM, by offset, meets a release window, which only the gate writes (R487). -/
def meetsRelease (s : State) (off n : Nat) : Bool :=
  anySealed s && (List.range 4).any fun p => (sealWindows s p 0x40).any fun e => overlap off (off + n) e.2.1 (e.2.1 + e.2.2)

/-- The control blocks of the admitted contexts in hub SRAM that a span meets, by partition and key (R461). -/
def lockedBlocks (s : State) (a n : Nat) : List (Nat × Nat) :=
  (List.range 4).flatMap fun p => ((List.range 8).filter fun x => ((s.part p).ctx x).phase != .free).filterMap fun x =>
    let key := ctxPage s p x + 0x400
    if key < a + n ∧ a < key + 32 then some (p, key) else none

/-- Bytes are stored from a key on. What meets an admitted context's control block is ignored and recorded in its PART
page (R461; log 51); what meets a release window is ignored and recorded as R28 states (R487; log 132). -/
def memStore (s : State) (a : Nat) (bs : List Byte) : State × Option Nat :=
  let locked := if tierOf a = 2 then lockedBlocks s a bs.length else []
  let shut := tierOf a == 2 && meetsRelease s (bits a 25 0) bs.length
  if locked.isEmpty && !shut then storeUnits s a bs
  else
    let s1 := match locked with
      | [] => s
      | (p, _) :: _ => capture s (pnPart p) (accessRecord s 6 0xFF true (pnPart p * 0x1000) (ofLe (bs.take 4)))
    let s2 := if shut then refuseAccess s1 2 0xFF true (a % 2 ^ 32) (ofLe (bs.take 4)) else s1
    (List.range (ceilDiv (a % 32 + bs.length) 32)).foldl (fun acc k =>
      let lo := max a (a - a % 32 + 32 * k)
      let hi := min (a + bs.length) (a - a % 32 + 32 * (k + 1))
      if (locked.any fun e => e.2 == lo - lo % 32) || (shut && meetsRelease s (bits lo 25 0) 1) then acc
      else
        let r := storeUnits acc.1 lo ((bs.drop (lo - a)).take (hi - lo))
        joinBad r.1 acc.2 r.2) (s2, none)

/-- The release gate writes its window (R487). -/
def gateStores (s : State) (ws : List (Nat × List Byte)) : State × Option Nat :=
  ws.foldl (fun acc e =>
    let r := storeUnits acc.1 e.1 e.2
    joinBad r.1 acc.2 r.2) (s, none)

/-- Several stores in order, with the first unit that could not be written. -/
def memStores (s : State) (vertical : Bool) (ws : List (Nat × List Byte)) : State × Option Nat :=
  ws.foldl (fun acc e =>
    let r := memStore (slabTraffic acc.1 e.1 e.2.length true vertical) e.1 e.2
    joinBad r.1 acc.2 r.2) (s, none)

/-! ### Provenance tags (R488) -/

/-- The tag of a context's writes; 0 matches no context. -/
def ctxTag (p x : Nat) : Nat := 1 + p * 8 + x

/-- A hub SRAM offset lies in the grant of a sealed partition. -/
def inSealedGrant (s : State) (off : Nat) : Bool :=
  (List.range 4).any fun p => isSealed s p && decide ((hubGrant s p).1 ≤ off) &&
    decide (off < (hubGrant s p).1 + (hubGrant s p).2)

/-- The 256-byte units of sealed hub SRAM that stores meet take a tag. -/
def setTags (s : State) (tag : Nat) (ws : List (Nat × List Byte)) : State :=
  if anySealed s then
    ws.foldl (fun (t : State) e =>
      if tierOf e.1 = 2 ∧ e.2 ≠ [] then
        let lo := bits e.1 25 0 / 256
        let hi := (bits e.1 25 0 + e.2.length - 1) / 256
        (List.range' lo (hi + 1 - lo)).foldl (fun (t : State) u =>
          if inSealedGrant t (256 * u) then { t with tags := mset 0 t.tags u tag } else t) t
      else t) s
  else s

/-- A command's write-backs: stored, with the tag of its context on what they meet of sealed hub SRAM. `own` is the core
whose movement engine writes its own slab through the vertical port (R371). -/
def memStoresBy (s : State) (tag : Nat) (own : Option Nat) (ws : List (Nat × List Byte)) : State × Option Nat :=
  let vert (a : Nat) : Bool := tierOf a == 1 && own == some (bits a 43 36)
  let r1 := memStores s true (ws.filter fun e => vert e.1)
  let r2 := memStores r1.1 false (ws.filter fun e => !vert e.1)
  let out := joinBad r2.1 r1.2 r2.2
  (setTags out.1 tag ws, out.2)

end Sys2Proof.Machine
end

