-- ==== Sys2Proof/Machine/Numeric.lean ====
section
/-! DEFINITION. Numbers: the element formats, exact values, the one rounding, stochastic rounding's draws, and the
choice of an MX block's scale (chapter "Number formats"). -/

namespace Sys2Proof.Machine

/-! ### Exact values -/

/-- An element's value: a NaN, an infinity, or the exact number m × 2^e. A zero has no sign (R70). -/
inductive Val where
  | nan
  | inf (neg : Bool)
  | fin (m e : Int)
  deriving DecidableEq, Repr

def Val.zero : Val := .fin 0 0

/-- m × 2^k for k ≥ 0. -/
def shl (m : Int) (k : Int) : Int := m * (2 ^ k.toNat : Nat)

def Val.isNan : Val → Bool
  | .nan => true
  | _ => false
def Val.isInf : Val → Bool
  | .inf _ => true
  | _ => false
def Val.isZero : Val → Bool
  | .fin m _ => m == 0
  | _ => false
/-- The sign of a finite value or an infinity. -/
def Val.isNeg : Val → Bool
  | .fin m _ => decide (m < 0)
  | .inf n => n
  | .nan => false

def Val.neg : Val → Val
  | .nan => .nan
  | .inf n => .inf !n
  | .fin m e => .fin (-m) e
def Val.abs : Val → Val
  | .nan => .nan
  | .inf _ => .inf false
  | .fin m e => .fin m.natAbs e

/-- The exact sum; ∞ − ∞ is NaN (R69). -/
def Val.add : Val → Val → Val
  | .nan, _ => .nan
  | _, .nan => .nan
  | .inf a, .inf b => if a = b then .inf a else .nan
  | .inf a, .fin _ _ => .inf a
  | .fin _ _, .inf b => .inf b
  | .fin m e, .fin n f => let k := min e f; .fin (shl m (e - k) + shl n (f - k)) k
def Val.sub (a b : Val) : Val := a.add b.neg

/-- The exact product; 0 × ∞ is NaN (R69). -/
def Val.mul : Val → Val → Val
  | .nan, _ => .nan
  | _, .nan => .nan
  | .inf a, .inf b => .inf (a != b)
  | .inf a, .fin n _ => if n = 0 then .nan else .inf (a != decide (n < 0))
  | .fin m _, .inf b => if m = 0 then .nan else .inf (b != decide (m < 0))
  | .fin m e, .fin n f => .fin (m * n) (e + f)

/-- a < b; false with a NaN (R72). -/
def Val.lt : Val → Val → Bool
  | .nan, _ => false
  | _, .nan => false
  | .inf a, .inf b => a && !b
  | .inf a, .fin _ _ => a
  | .fin _ _, .inf b => !b
  | .fin m e, .fin n f => let k := min e f; decide (shl m (e - k) < shl n (f - k))
/-- a = b, +0 and −0 being equal; false with a NaN (R72). -/
def Val.eq : Val → Val → Bool
  | .nan, _ => false
  | _, .nan => false
  | a, b => !(a.lt b) && !(b.lt a)
def Val.le (a b : Val) : Bool := a.lt b || a.eq b
/-- Max and min: NaN if either operand is (R72). -/
def Val.max (a b : Val) : Val :=
  if a.isNan || b.isNan then .nan else if a.lt b then b else a
def Val.min (a b : Val) : Val :=
  if a.isNan || b.isNan then .nan else if b.lt a then b else a

/-- The binade of a nonzero finite value: floor(log2 |x|). -/
def binade (m e : Int) : Int := (Nat.log2 m.natAbs : Nat) + e

/-! ### Formats (R47–R53) -/

def fmtFp32 : Nat := 0x00
def fmtFp16 : Nat := 0x01
def fmtBf16 : Nat := 0x02
def fmtE4m3 : Nat := 0x03
def fmtE5m2 : Nat := 0x04
def fmtE3m2 : Nat := 0x05
def fmtE2m3 : Nat := 0x06
def fmtE2m1 : Nat := 0x07
def fmtMxint8 : Nat := 0x08
def fmtInt8 : Nat := 0x09
def fmtFr2 : Nat := 0x0B
def fmtFr4 : Nat := 0x0C
def fmtXc128 : Nat := 0x10

/-- A format code that R47 gives a meaning (R48). -/
def fmtDefined (f : Nat) : Bool := decide (f ≤ 0x09) || f == fmtFr2 || f == fmtFr4 || f == fmtXc128
def isScalarFloat (f : Nat) : Bool := decide (f ≤ 2)
def isMx (f : Nat) : Bool := decide (3 ≤ f) && decide (f ≤ 8)
def isFr (f : Nat) : Bool := f == fmtFr2 || f == fmtFr4

/-- Element bits (R47). -/
def fmtBits (f : Nat) : Nat :=
  if f = fmtFp32 then 32 else if f = fmtFp16 ∨ f = fmtBf16 then 16 else if f = fmtE3m2 ∨ f = fmtE2m3 then 6
  else if f = fmtE2m1 ∨ f = fmtFr4 then 4 else if f = fmtXc128 then 128 else 8

/-- A binary floating-point format: significand bits p with the implicit bit, exponent bits and bias, and the largest
finite value as significand and exponent. -/
structure FloatFmt where
  p    : Nat
  eb   : Nat
  bias : Nat
  maxM : Nat
  maxE : Int

/-- The exponent of the smallest normal value. -/
def FloatFmt.emin (f : FloatFmt) : Int := 1 - (f.bias : Int)

def ffFp32 : FloatFmt := { p := 24, eb := 8, bias := 127, maxM := 2 ^ 24 - 1, maxE := 104 }
def ffFp16 : FloatFmt := { p := 11, eb := 5, bias := 15, maxM := 2 ^ 11 - 1, maxE := 5 }
def ffBf16 : FloatFmt := { p := 8, eb := 8, bias := 127, maxM := 2 ^ 8 - 1, maxE := 120 }
def ffE4m3 : FloatFmt := { p := 4, eb := 4, bias := 7, maxM := 14, maxE := 5 }
def ffE5m2 : FloatFmt := { p := 3, eb := 5, bias := 15, maxM := 7, maxE := 13 }
def ffE3m2 : FloatFmt := { p := 3, eb := 3, bias := 3, maxM := 7, maxE := 2 }
def ffE2m3 : FloatFmt := { p := 4, eb := 2, bias := 1, maxM := 15, maxE := -1 }
def ffE2m1 : FloatFmt := { p := 2, eb := 2, bias := 1, maxM := 3, maxE := 1 }
def ffFp64 : FloatFmt := { p := 53, eb := 11, bias := 1023, maxM := 2 ^ 53 - 1, maxE := 971 }

/-- The floating-point layout of an element of a format (R49, R50); FR2 holds E4M3 and FR4 E2M1 elements (R73). -/
def elemFmt (f : Nat) : FloatFmt :=
  if f = fmtFp32 then ffFp32 else if f = fmtFp16 then ffFp16 else if f = fmtBf16 then ffBf16
  else if f = fmtE4m3 ∨ f = fmtFr2 then ffE4m3 else if f = fmtE5m2 then ffE5m2 else if f = fmtE3m2 then ffE3m2
  else if f = fmtE2m3 then ffE2m3 else ffE2m1

/-- Decodes a floating-point code of a layout, infinities and NaNs apart. -/
def FloatFmt.decodeFinite (f : FloatFmt) (c : Nat) : Val :=
  let fb := f.p - 1
  let frac := c % 2 ^ fb
  let ef := (c >>> fb) % 2 ^ f.eb
  let neg := c.testBit (fb + f.eb)
  let m : Nat := if ef = 0 then frac else 2 ^ fb + frac
  let e : Int := (if ef = 0 then 1 else (ef : Int)) - f.bias - fb
  .fin (if neg then -(m : Int) else m) e

/-- Decodes an IEEE-like code: the top exponent holds the infinities and the NaNs. -/
def FloatFmt.decodeIeee (f : FloatFmt) (c : Nat) : Val :=
  let fb := f.p - 1
  if (c >>> fb) % 2 ^ f.eb = 2 ^ f.eb - 1 then
    (if c % 2 ^ fb = 0 then .inf (c.testBit (fb + f.eb)) else .nan)
  else f.decodeFinite c

/-- An element's value before its block scale (R49, R50, R53, R54). -/
def decodeElem (f c : Nat) : Val :=
  if f = fmtMxint8 then .fin (signed 8 c) (-6)
  else if f = fmtInt8 then .fin (signed 8 c) 0
  else if f = fmtE4m3 ∨ f = fmtFr2 then (if c % 0x80 = 0x7F then .nan else ffE4m3.decodeFinite c)
  else if isScalarFloat f || f == fmtE5m2 then (elemFmt f).decodeIeee c
  else (elemFmt f).decodeFinite c

/-- An element's value with its block's scale byte: 0xFF makes it a NaN (R51). -/
def scaled (x : Nat) (v : Val) : Val :=
  if x = 0xFF then .nan else
  match v with
  | .fin m e => .fin m (e + x - 127)
  | v => v

/-- An element's value in a tensor: MX and FR formats have the block's scale byte. -/
def decodeIn (f c x : Nat) : Val := if isMx f || isFr f then scaled x (decodeElem f c) else decodeElem f c

def decodeFp32 (c : Nat) : Val := ffFp32.decodeIeee c
def decodeFp64 (c : Nat) : Val := ffFp64.decodeIeee c

/-! ### Philox4x32-10 (R65; log 16) -/

/-- One round on the counter with the keys. -/
def philoxRound (k0 k1 : Nat) (c : Nat × Nat × Nat × Nat) : Nat × Nat × Nat × Nat :=
  let p0 := 0xD2511F53 * c.1
  let p1 := 0xCD9E8D57 * c.2.2.1
  (Nat.xor (Nat.xor (p1 >>> 32) c.2.1) k0, p1 % 2 ^ 32, Nat.xor (Nat.xor (p0 >>> 32) c.2.2.2) k1, p0 % 2 ^ 32)

/-- `n` rounds, the keys moving on between them. -/
def philoxRounds : Nat → Nat → Nat → Nat × Nat × Nat × Nat → Nat × Nat × Nat × Nat
  | 0, _, _, c => c
  | n + 1, k0, k1, c =>
    philoxRounds n ((k0 + 0x9E3779B9) % 2 ^ 32) ((k1 + 0xBB67AE85) % 2 ^ 32) (philoxRound k0 k1 c)

/-- The 128-bit output for a key and a counter, x0 lowest. -/
def philox (key : Nat) (c0 c1 c2 c3 : Nat) : Nat :=
  let r := philoxRounds 10 (key % 2 ^ 32) (key / 2 ^ 32 % 2 ^ 32) (c0, c1, c2, c3)
  fields [(0, r.1), (32, r.2.1), (64, r.2.2.1), (96, r.2.2.2)]

/-- How a tensor is rounded: the mode (R61), and the inputs of its draws (R65); `base` is the logical index of the
tensor's first element (R314). -/
structure RoundCtx where
  mode   : Nat
  seed   : Nat := 0
  step   : Nat := 0
  site   : Nat := 0
  tensor : Nat := 0
  base   : Nat := 0

/-- The 16-bit draw of element `k` (R65). -/
def srDraw (rc : RoundCtx) (k : Nat) : Nat :=
  let i := rc.base + k
  let j := i / 8
  let x := philox rc.seed (j % 2 ^ 32) (fields [(0, bits j 36 32), (5, rc.site % 8), (8, rc.tensor % 2 ^ 24)])
    (rc.step % 2 ^ 32) (rc.step / 2 ^ 32 % 2 ^ 32)
  bits x (16 * (i % 8) + 15) (16 * (i % 8))

/-! ### Rounding (R60–R64) -/

def rmRne : Nat := 0
def rmRtz : Nat := 1
def rmRup : Nat := 2
def rmRdn : Nat := 3
def rmSr : Nat := 4

/-- Whether the magnitude lo + rem ÷ 2^k, inexact, is rounded away from zero (R61, R64). -/
def roundsAway (mode : Nat) (neg : Bool) (draw lo rem k : Nat) : Bool :=
  if mode = rmRne then decide (2 ^ k < 2 * rem) || (2 * rem == 2 ^ k && lo % 2 == 1)
  else if mode = rmRup then !neg
  else if mode = rmRdn then neg
  else if mode = rmSr then decide (draw < rem * 2 ^ 16 / 2 ^ k)
  else false

/-- A magnitude m × 2^e rounded to a multiple of 2^q: the multiple, and whether it was rounded away from zero. -/
def roundTo (mode : Nat) (neg : Bool) (draw : Nat) (q : Int) (m : Nat) (e : Int) : Nat × Bool :=
  if q ≤ e then (m * 2 ^ (e - q).toNat, false)
  else
    let k := (q - e).toNat
    let lo := m / 2 ^ k
    let rem := m % 2 ^ k
    if rem = 0 then (lo, false)
    else if roundsAway mode neg draw lo rem k then (lo + 1, true) else (lo, false)

/-- The exponent of the last place of a magnitude in a format with the exponent range unbounded above. -/
def FloatFmt.quantum (f : FloatFmt) (m : Nat) (e : Int) : Int :=
  max ((Nat.log2 m : Nat) + e) f.emin - (f.p - 1 : Nat)

/-- What rounding to a floating-point format gives: a code, or an overflow away from zero. -/
inductive Rounded where
  | code (c : Nat)
  | over

/-- The code of the magnitude sig × 2^q in a format, with its sign; zero is +0 (R70). -/
def FloatFmt.encode (f : FloatFmt) (neg : Bool) (sig : Nat) (q : Int) : Nat :=
  let s := if sig = 2 ^ f.p then 2 ^ (f.p - 1) else sig
  let q' := if sig = 2 ^ f.p then q + 1 else q
  let body := if s < 2 ^ (f.p - 1) then s
    else (q' + (f.p - 1 : Nat) + f.bias).toNat * 2 ^ (f.p - 1) + (s - 2 ^ (f.p - 1))
  if s = 0 then 0 else body + (if neg then 2 ^ (f.p - 1 + f.eb) else 0)

/-- The largest finite code of a format. -/
def FloatFmt.maxCode (f : FloatFmt) (neg : Bool) : Nat := f.encode neg f.maxM f.maxE

/-- Rounds a finite value once to a floating-point format (R60–R62, R64). -/
def FloatFmt.round (f : FloatFmt) (mode draw : Nat) (m e : Int) : Rounded :=
  let neg := decide (m < 0)
  let a := m.natAbs
  let q := f.quantum a e
  let r := roundTo mode neg draw q a e
  let exceeds := (shl r.1 (q - min q f.maxE) > shl f.maxM (f.maxE - min q f.maxE) : Bool)
  if a = 0 then .code 0
  else if exceeds then
    let toInf := if mode = rmRne then true else if mode = rmRup then !neg else if mode = rmRdn then neg
      else if mode = rmSr then r.2 else false
    if toInf then .over else .code (f.maxCode neg)
  else .code (f.encode neg r.1 q)

/-- The code of an infinity in an IEEE-like format. -/
def FloatFmt.infCode (f : FloatFmt) (neg : Bool) : Nat :=
  (2 ^ f.eb - 1) * 2 ^ (f.p - 1) + (if neg then 2 ^ (f.p - 1 + f.eb) else 0)

/-- The canonical NaN of a format with one (R49, R50, R67). -/
def canonicalNan (f : Nat) : Nat :=
  if f = fmtFp32 then 0x7FC00000 else if f = fmtFp16 then 0x7E00 else if f = fmtBf16 then 0x7FC0
  else if f = fmtE4m3 then 0x7F else 0x7E

/-- Rounds a value to an IEEE-like layout: its code and whether rounding carried it to infinity (R60, R62, R67). -/
def roundIeee (f : FloatFmt) (nanCode mode draw : Nat) (v : Val) : Nat × Bool :=
  match v with
  | .nan => (nanCode, false)
  | .inf n => (f.infCode n, false)
  | .fin m e =>
    match f.round mode draw m e with
    | .code c => (c, false)
    | .over => (f.infCode (decide (m < 0)), true)

/-- Rounds to FP32, BF16 or FP16. -/
def roundScalar (fmt mode draw : Nat) (v : Val) : Nat × Bool :=
  roundIeee (elemFmt fmt) (canonicalNan fmt) mode draw v

/-- The FP32 code of a value, and the value back: the vector unit's one rounding per operation. -/
def toFp32 (mode : Nat) (v : Val) : Nat := (roundIeee ffFp32 0x7FC00000 mode 0 v).1
def toFp64 (v : Val) : Nat := (roundIeee ffFp64 0x7FF8000000000000 rmRne 0 v).1

/-! ### MX blocks (R63, R68) -/

/-- The element format's largest binade (R63). -/
def mxEmax (f : Nat) : Int :=
  if f = fmtE4m3 ∨ f = fmtFr2 then 8 else if f = fmtE5m2 then 15 else if f = fmtE3m2 then 4
  else if f = fmtE2m3 ∨ f = fmtE2m1 ∨ f = fmtFr4 then 2 else 0

/-- a ÷ 2^X, rounded away from zero to the element format, exceeds the largest finite element (R63). -/
def mxExceeds (f : Nat) (x : Int) (a : Nat) (e : Int) : Bool :=
  let e' := e - x
  if f = fmtMxint8 then
    decide (127 < (roundTo rmRup false 0 (-6) a e').1)
  else
    let ff := elemFmt f
    let q := ff.quantum a e'
    let r := roundTo rmRup false 0 q a e'
    decide (shl r.1 (q - min q ff.maxE) > shl ff.maxM (ff.maxE - min q ff.maxE))

/-- The larger of two finite magnitudes as (m, e). -/
def maxMag (a : Nat × Int) : List Val → Nat × Int
  | [] => a
  | .fin m e :: r =>
    let k := min a.2 e
    maxMag (if shl a.1 (a.2 - k) < shl m.natAbs (e - k) then (m.natAbs, e) else a) r
  | _ :: r => maxMag a r

/-- The block's scale byte (R63): `none` stands for 0xFF. -/
def mxScale (f : Nat) (vs : List Val) : Option Nat :=
  let a := maxMag (0, 0) vs
  if a.1 = 0 then some 0
  else
    let x0 := (Nat.log2 a.1 : Nat) + a.2 - mxEmax f
    let x1 := if mxExceeds f x0 a.1 a.2 then x0 + 1 else x0
    let x2 := max x1 (-127)
    if 127 < x2 then none else some (x2 + 127).toNat

/-- One element rounded against the chosen scale byte; an infinity of E4M3 is a NaN (R68). -/
def mxElem (f x mode draw : Nat) (v : Val) : Nat :=
  match v with
  | .nan => canonicalNan (if f = fmtFr2 then fmtE4m3 else f)
  | .inf n => if f = fmtE5m2 then ffE5m2.infCode n else canonicalNan fmtE4m3
  | .fin m e =>
    let e' := e - (x : Int) + 127
    if f = fmtMxint8 then
      let r := (roundTo mode (decide (m < 0)) draw (-6) m.natAbs e').1
      let r' := min r 127
      if m < 0 then (256 - r') % 256 else r'
    else
      match (elemFmt f).round mode draw m e' with
      | .code c => c
      | .over => if f = fmtE5m2 then ffE5m2.infCode (decide (m < 0)) else canonicalNan fmtE4m3

/-- A block's scale byte, its codes, and whether its scale overflowed. `vs` are the block's elements within the extent
with their draws (R63, R64, R68). -/
def mxBlock (f mode : Nat) (vs : List (Val × Nat)) : Nat × List Nat × Bool :=
  let hasNanElem := f = fmtE4m3 ∨ f = fmtE5m2 ∨ f = fmtFr2
  let special := vs.any fun v => v.1.isNan || v.1.isInf
  if !hasNanElem && special then (0xFF, vs.map fun _ => 0, false)
  else
    match mxScale f (vs.map Prod.fst) with
    | none => (0xFF, vs.map fun _ => 0, true)
    | some x => (x, vs.map fun v => mxElem f x mode v.2 v.1, false)

/-! ### Bands (R56–R58) -/

/-- The binade that a nonzero element takes in banding: a subnormal sits in the smallest normal binade (R56). -/
def bandBinade (f : Nat) (v : Val) : Option Int :=
  match v with
  | .fin m e => if m = 0 then none else some (max (binade m e) (elemFmt f).emin)
  | _ => none

/-- A format whose blocks may take several bands (R57). -/
def multiBand (f : Nat) : Bool := isScalarFloat f || f == fmtE5m2

/-- What a block of elements (values before the scale) is in bands: the top binade, taken relative to the scale, and
the band count; `none` is an empty band (R57). -/
structure Bands where
  top   : Option Int
  count : Nat

/-- The bands of a block of a format with scale byte `x` (127 for a scalar format). -/
def bandsOf (f x : Nat) (vs : List Val) : Bands :=
  let bs := vs.filterMap (bandBinade f)
  if x = 0xFF ∧ isMx f then { top := none, count := 1 }
  else if multiBand f then
    match bs with
    | [] => { top := none, count := 1 }
    | b :: r =>
      let t := r.foldl max b
      let lo := r.foldl min b
      { top := some t, count := ((t - lo).toNat + 16) / 16 }
  else { top := some 0, count := 1 }

end Sys2Proof.Machine
end

