-- ==== Sys2Proof/Machine/Operands.lean ====
section
/-! DEFINITION. Every operand form: descriptor pointers, tensor descriptors with their checks and addressing, fabric
addresses under a partition's grants and a context's windows, and the reading and writing of elements (R24, R183–R194,
R375, R386, R462, R560). -/

namespace Sys2Proof.Machine

/-! ### Tensor descriptors (R192) -/

/-- A tensor descriptor's fields. -/
structure Tensor where
  fmt   : Nat
  tiled : Bool
  axis  : Nat
  rank  : Nat
  id    : Nat
  base  : Nat
  sbase : Nat
  scale : Nat
  tr    : Nat
  tc    : Nat
  e0    : Nat
  e1    : Nat
  e2    : Nat
  e3    : Nat
  s1    : Nat
  s2    : Nat
  s3    : Nat
  pos   : Nat

/-- The descriptor that sixteen words spell. -/
def tensorOf (ws : List Word) : Tensor :=
  let w := wordAt ws
  { fmt := bits (w 0) 4 0, tiled := (w 0).testBit 5, axis := bits (w 0) 6 6, rank := bits (w 0) 8 7,
    id := bits (w 1) 23 0, base := w 2 + 2 ^ 32 * bits (w 3) 15 0, sbase := w 4 + 2 ^ 32 * bits (w 5) 15 0,
    scale := w 6, tr := bits (w 7) 15 0, tc := bits (w 7) 31 16, e0 := w 8, e1 := w 9, e2 := w 10, e3 := w 11,
    s1 := w 12, s2 := w 13, s3 := w 14, pos := bits (w 15) 23 0 }

/-- A reserved bit of a descriptor is set. -/
def tensorReserved (ws : List Word) : Bool :=
  let w := wordAt ws
  bits (w 0) 31 9 != 0 || bits (w 1) 31 24 != 0 || bits (w 3) 31 16 != 0 || bits (w 5) 31 16 != 0 ||
    bits (w 15) 31 24 != 0

/-- Rows and columns of a tensor as a matrix: dim 0 runs along a row, the other dims count the rows (log 19). -/
def Tensor.cols (t : Tensor) : Nat := t.e0
def Tensor.rows (t : Tensor) : Nat := t.e1 * t.e2 * t.e3
def Tensor.size (t : Tensor) : Nat := t.e0 * t.rows

/-- Element index of R193. -/
def Tensor.index (t : Tensor) (i0 i1 i2 i3 : Nat) : Nat :=
  if t.tiled then
    (i1 / t.tr * ceilDiv t.e0 t.tc + i0 / t.tc) * (t.tr * t.tc) + i1 % t.tr * t.tc + i0 % t.tc + i2 * t.s2 + i3 * t.s3
  else i0 + i1 * t.s1 + i2 * t.s2 + i3 * t.s3

/-- Scale byte index of R193. -/
def Tensor.sindex (t : Tensor) (i0 i1 i2 i3 : Nat) : Nat :=
  let outer := i2 * (t.s2 / 32) + i3 * (t.s3 / 32)
  if t.tiled then
    let tile := i1 / t.tr * ceilDiv t.e0 t.tc + i0 / t.tc
    let within := if t.axis = 0 then i1 % t.tr * (t.tc / 32) + i0 % t.tc / 32
      else i1 % t.tr / 32 * t.tc + i0 % t.tc
    tile * (t.tr * t.tc / 32) + within + outer
  else if t.axis = 0 then i0 / 32 + i1 * (t.s1 / 32) + outer
  else i0 + i1 / 32 * t.s1 + outer

/-- The indices of dims 1 to 3 of a matrix row. -/
def Tensor.rowIdx (t : Tensor) (r : Nat) : Nat × Nat × Nat := (r % t.e1, r / t.e1 % t.e2, r / t.e1 / t.e2)
def Tensor.at (t : Tensor) (c r : Nat) : Nat := let i := t.rowIdx r; t.index c i.1 i.2.1 i.2.2
def Tensor.sat (t : Tensor) (c r : Nat) : Nat := let i := t.rowIdx r; t.sindex c i.1 i.2.1 i.2.2

/-- Frames of an FR tensor, and the bytes of one (R73). -/
def frBytes (f : Nat) : Nat := if f = fmtFr2 then 1056 else 544

/-- Bytes from BASE to the last element's last byte. -/
def Tensor.bytes (t : Tensor) : Nat :=
  if isFr t.fmt then ceilDiv t.size 1024 * frBytes t.fmt
  else ceilDiv ((t.index (t.e0 - 1) (t.e1 - 1) (t.e2 - 1) (t.e3 - 1) + 1) * fmtBits t.fmt) 8
/-- Bytes of the scale plane to the last block's byte. -/
def Tensor.scaleBytes (t : Tensor) : Nat :=
  if isMx t.fmt then t.sindex (t.e0 - 1) (t.e1 - 1) (t.e2 - 1) (t.e3 - 1) + 1 else 0

/-- The extents with the block axis rounded up to whole blocks, and whole tiles where TILED (R193). -/
def Tensor.padded (t : Tensor) : Tensor :=
  let up (n k : Nat) := ceilDiv n k * k
  let a0 := if isMx t.fmt ∧ t.axis = 0 then up t.e0 32 else t.e0
  let a1 := if isMx t.fmt ∧ t.axis = 1 then up t.e1 32 else t.e1
  if t.tiled then { t with e0 := up a0 t.tc, e1 := up a1 t.tr } else { t with e0 := a0, e1 := a1 }

/-- The spans of a tensor's planes, padding included (R378). -/
def Tensor.paddedSpans (t : Tensor) : List (Nat × Nat) :=
  if isFr t.fmt then [(t.base, t.bytes)]
  else
    let p := t.padded
    if isMx t.fmt then [(t.base, p.bytes), (t.sbase, p.scaleBytes)] else [(t.base, p.bytes)]

/-- The spans of a tensor's planes. -/
def Tensor.spans (t : Tensor) : List (Nat × Nat) :=
  if isMx t.fmt then [(t.base, t.bytes), (t.sbase, t.scaleBytes)] else [(t.base, t.bytes)]

/-- Two runs of `width` elements meet: indices d1, d2, d3 within the extents, not all 0, bring their starts closer than
the width. Exact, by the two smaller dims and an interval for the third. -/
def runsMeet (width : Nat) (a b c : Nat × Nat) : Bool :=
  (List.range (2 * a.2 - 1)).any fun i => (List.range (2 * b.2 - 1)).any fun j =>
    let da : Int := (i : Int) - ((a.2 : Int) - 1)
    let db : Int := (j : Int) - ((b.2 : Int) - 1)
    let base : Int := da * a.1 + db * b.1
    -- the best d3 is next to −base ÷ stride, or at an end of its range
    let q := if c.1 = 0 then 0 else (-base) / (c.1 : Int)
    [q - 1, q, q + 1, 1 - (c.2 : Int), (c.2 : Int) - 1].any fun d =>
      decide (d.natAbs < c.2) && decide ((base + d * c.1).natAbs < width) &&
        (decide (da ≠ 0) || decide (db ≠ 0) || decide (d ≠ 0))

/-- Two element positions of the padded extents coincide (R193). -/
def Tensor.coincide (t : Tensor) : Bool :=
  let p := t.padded
  let w := if t.tiled then p.e0 * p.e1 else p.e0
  let d1 := if t.tiled then (0, 1) else (p.s1, p.e1)
  let dims := [d1, (p.s2, p.e2), (p.s3, p.e3)]
  let sorted := (dims.filter fun d => decide (1 < d.2)).insertionSort fun a b => a.1 ≤ b.1
  let nested := (sorted.foldl (fun (acc : Nat × Bool) d => (acc.1 + d.1 * (d.2 - 1), acc.2 && decide (acc.1 ≤ d.1)))
    (w, true)).2
  !nested && runsMeet w d1 (p.s2, p.e2) (p.s3, p.e3)

/-- The checks that hold of a descriptor in every role: 0, or the reason of R194. -/
def checkTensor (ws : List Word) : Nat :=
  let t := tensorOf ws
  let strides := if t.tiled then [t.s2, t.s3] else [t.s1, t.s2, t.s3]
  let align := if t.tiled then 256 else 32
  if tensorReserved ws then 0x01
  else if !fmtDefined t.fmt then 0x02
  else if (!isMx t.fmt && t.sbase != 0) || (t.fmt != fmtInt8 && t.scale != 0) then 0x01
  else if isFr t.fmt && t.tiled then 0x01
  else if t.tiled && !([32, 64, 128, 256].contains t.tr && [256, 512, 1024].contains t.tc && decide (t.tr * t.tc ≤ 65536))
    then 0x01
  else if t.fmt == fmtInt8 && (match decodeFp32 t.scale with | .fin m _ => m == 0 | _ => true) then 0x0B
  else if t.e0 == 0 || t.e1 == 0 || t.e2 == 0 || t.e3 == 0 then 0x04
  else if (decide (t.rank < 1) && t.e1 != 1) || (decide (t.rank < 2) && t.e2 != 1) || (decide (t.rank < 3) && t.e3 != 1)
    then 0x04
  else if t.base % align != 0 || (isMx t.fmt && t.sbase % align != 0) then 0x03
  else if strides.any fun e => e * fmtBits t.fmt % 256 != 0 then 0x03
  else if !isFr t.fmt && t.fmt != fmtXc128 && t.coincide then 0x04
  else 0

/-- The form of R560: an exact-compact tile's descriptor has every other field 0. -/
def checkXcTensor (t : Tensor) : Nat :=
  if t.fmt ≠ fmtXc128 then 0x02
  else if t.tiled || t.axis != 0 || t.sbase != 0 || t.scale != 0 || t.tr != 0 || t.tc != 0 || t.s1 != 0 || t.s2 != 0 ||
    t.s3 != 0 || t.pos != 0 then 0x01
  else 0

/-- Bytes of the largest form of an exact-compact tile of `n` elements (R560). -/
def xcBitmap (n : Nat) : Nat := ceilDiv (ceilDiv n 8) 16 * 16
def xcLargest (n : Nat) : Nat := 16 + xcBitmap n + 104 * n

/-! ### Fabric addresses under grants (R190, R386, R462) -/

/-- Whose access it is: the core, partition and context. -/
structure Who where
  core : Nat
  part : Nat
  ctx  : Nat
  latched : List (Nat × List Word) := []

/-- The issuer of a command on a core. -/
def whoOf (s : State) (g x : Nat) : Who := { core := g, part := (partOfCore s g).getD 4, ctx := x }

/-- Operand staging, the sequencer pool in it, and vector scratch (R191, R375). -/
def stageLo : Nat := 0x680000
def poolLo : Nat := 0xC80000
def scratchLo : Nat := 0xD80000

/-- A local-store range lies in the context's staging window; in its vector scratch window (R461, R462). -/
def inStage (s : State) (w : Who) (off n : Nat) : Bool :=
  let c := (s.part w.part).ctx w.ctx
  decide (c.stageLo ≤ off) && decide (off + n ≤ c.stageHi) && decide (stageLo ≤ off) && decide (off + n ≤ poolLo)
def inScratch (s : State) (w : Who) (off n : Nat) : Bool :=
  let c := (s.part w.part).ctx w.ctx
  decide (c.vscrLo ≤ off) && decide (off + n ≤ c.vscrHi) && decide (scratchLo ≤ off) && decide (off + n ≤ lsSize)

/-- The granary entry behind a handle, if VALID in the job's table: lender rank, base, size in bytes (R384). -/
def granaryEntry (s : State) (p x h : Nat) : Option (Nat × Nat × Nat) :=
  match jobOf s p x with
  | none => none
  | some j =>
    match j.granary[h]? with
    | none => none
    | some ws =>
      if (wordAt ws 0).testBit 0 then
        some (lentRank ws, lentBase ws, lentSize ws)
      else none

/-- A range of slab or HBM meets a region that this device lends in a job of the partition (R386). -/
def inOwnLent (s : State) (p a n : Nat) : Bool :=
  (s.part p).jobs.any fun j => j.granary.any (lentMeets j.rank a n)

/-- A hub SRAM range lies in the partition's grant (R456). -/
def inHubGrant (s : State) (p off n : Nat) : Bool :=
  decide ((hubGrant s p).1 ≤ off) && decide (off + n ≤ (hubGrant s p).1 + (hubGrant s p).2) && decide (off + n ≤ hubSize)
/-- A hub SRAM range lies in one of the windows. -/
def inWindow (ws : List (Nat × Nat × Nat)) (off n : Nat) : Bool :=
  ws.any fun e => decide (e.2.1 ≤ off) && decide (off + n ≤ e.2.1 + e.2.2)
/-- It lies in an intake window of the partition, which that partition alone reads (R483). -/
def inIntake (s : State) (p off n : Nat) : Bool := inWindow (sealWindows s p 0x60) off n
/-- It lies in a release window of some partition, which any initiator may read (R487). -/
def inRelease (s : State) (off n : Nat) : Bool := (List.range 4).any fun p => inWindow (sealWindows s p 0x40) off n
/-- The release windows of a partition that hold a hub SRAM range (R487, R489). -/
def releaseWindows (s : State) (p off n : Nat) : List Nat :=
  ((sealWindows s p 0x40).filter fun e => decide (e.2.1 ≤ off) && decide (off + n ≤ e.2.1 + e.2.2)).map Prod.fst

/-- A range of a fabric address lies in what the issuer's partition holds; `write` for a destination (R190). A release
window of its sealed partition is checked apart. -/
def inGrants (s : State) (w : Who) (write : Bool) (a n : Nat) : Bool :=
  let t := tierOf a
  if t = 0 then bits a 43 24 == 0 && (inStage s w (bits a 23 0) n || inScratch s w (bits a 23 0) n)
  else if t = 1 then
    bits a 35 27 == 0 && decide (bits a 43 36 < 160) && partOfCore s (bits a 43 36) == some w.part &&
      decide (bits a 26 0 + n ≤ slabSize) && !inOwnLent s w.part a n
  else if t = 2 then
    bits a 43 26 == 0 && (inHubGrant s w.part (bits a 25 0) n || (!write && (inIntake s w.part (bits a 25 0) n || inRelease s (bits a 25 0) n)))
  else if t = 3 then
    bits a 43 39 == 0 && decide (bits a 38 0 + n ≤ (hbmRegion s w.part).2) && !inOwnLent s w.part a n
  else if t = 4 then
    match granaryEntry s w.part w.ctx (bits a 43 32) with
    | some e => decide (bits a 31 0 + n ≤ e.2.2)
    | none => false
  else false

/-- A range lies within the footprint that the issuer's job declares: its offset in the tier ends there (R304; log 50).
What a sealed partition's intake windows hold is no part of it. -/
def inFootprint (s : State) (w : Who) (a n : Nat) : Bool :=
  match jobOf s w.part w.ctx with
  | none => true
  | some j =>
    let t := tierOf a
    if t = 1 then decide (bits a 26 0 + n ≤ bits (wordAt j.mapping 6) 16 0 * 2 ^ 10)
    else if t = 2 then
      !(inHubGrant s w.part (bits a 25 0) n) ||
        decide (bits a 25 0 + n ≤ (hubGrant s w.part).1 + bits (wordAt j.mapping 7) 16 0 * 2 ^ 10)
    else if t = 3 then decide (bits a 38 0 + n ≤ bits (wordAt j.mapping 5) 23 0 * 2 ^ 20)
    else true

/-- A range that an evaluation context may not write: it meets a bank that the job's update commands have named (R305;
log 110). -/
def inFrozenBank (s : State) (w : Who) (a n : Nat) : Bool :=
  ((s.part w.part).ctx w.ctx).isEval && (jobOf s w.part w.ctx).elim false fun j =>
    j.params.any fun e => decide (e.1 < a + n) && decide (a < e.1 + e.2)

/-- A range of a fabric address is one that the issuer may name (R190, R304, R305). -/
def granted (s : State) (w : Who) (write : Bool) (a n : Nat) : Bool :=
  inGrants s w write a n && inFootprint s w a n && !(write && inFrozenBank s w a n)

/-- The memory key of a fabric address. A granary address is the lender's own memory where the borrower is itself the
lender (R385); of a region that another device lends, the address itself stands for the bytes on their way. -/
def keyOf (s : State) (w : Who) (a : Nat) : Nat :=
  let local_ (w : Who) (a : Nat) : Nat :=
    if tierOf a = 0 then lsAddr w.core (bits a 23 0)
    else if tierOf a = 3 then hbmAddr ((hbmRegion s w.part).1 + bits a 38 0)
    else a
  if tierOf a = 4 then
    match granaryEntry s w.part w.ctx (bits a 43 32), jobOf s w.part w.ctx with
    | some e, some j => if e.1 = j.rank then local_ w (e.2.1 + bits a 31 0) else a
    | _, _ => a
  else local_ w a

/-- A memory key stands for a byte that another device lends. -/
def keyRemote (k : Nat) : Bool := tierOf k == 4
/-- A fabric address names a region lent by another device. -/
def isRemote (s : State) (w : Who) (a : Nat) : Bool := keyRemote (keyOf s w a)

/-! ### Descriptor pointers (R183, R184) -/

/-- The fabric address that a descriptor pointer names on its core. -/
def ptrAddr (g p : Nat) : Nat := if p.testBit 31 then slabAddr g (bits p 26 0) else bits p 26 0

/-- A pointer to `n` bytes: 0, or the reason it is refused with. Reserved bits give 0x01; alignment, range, the
accumulator banks, the sequencer pool and the context's windows give 0x03. -/
def checkPtr (s : State) (w : Who) (p n align : Nat) : Nat :=
  if bits p 30 27 ≠ 0 then 0x01
  else if bits p 26 0 % align ≠ 0 then 0x03
  else if granted s w false (ptrAddr w.core p) n then 0 else 0x03

/-- The memory key behind a pointer. -/
def ptrKey (s : State) (w : Who) (p : Nat) : Nat := keyOf s w (ptrAddr w.core p)

/-! ### A record's descriptors -/

/-- The words read for a record under a key: descriptors under their operand word's number. -/
def CmdRec.read? (r : CmdRec) (k : Nat) : Option (List Word) := (r.descs.find? fun e => e.1 == k).map Prod.snd
def CmdRec.tensor? (r : CmdRec) (k : Nat) : Option Tensor := (r.read? k).map tensorOf
def CmdRec.words? (r : CmdRec) (k : Nat) : List Word := (r.read? k).getD []

/-! ### Elements -/

/-- The code of element index `i` of a plane at a key, `b` bits wide. -/
def codeAt (s : State) (key b i : Nat) : Nat :=
  let bit := i * b
  (viewNat s (key + bit / 8) ((bit % 8 + b + 7) / 8) >>> (bit % 8)) % 2 ^ b

/-- A tensor with the memory keys of its planes. -/
structure Planes where
  t    : Tensor
  key  : Nat
  skey : Nat

def planesOf (s : State) (w : Who) (t : Tensor) : Planes := { t := t, key := keyOf s w t.base, skey := keyOf s w t.sbase }

/-- The code and the scale byte of the element in column `c` of row `r`. -/
def Planes.code (p : Planes) (s : State) (c r : Nat) : Nat := codeAt s p.key (fmtBits p.t.fmt) (p.t.at c r)
def Planes.scaleByte (p : Planes) (s : State) (c r : Nat) : Nat :=
  if isMx p.t.fmt then (viewByte s (p.skey + p.t.sat c r)).toNat else 127

/-- The value of an element as the array takes it: an INT8 element is its integer (R54). -/
def Planes.val (p : Planes) (s : State) (c r : Nat) : Val :=
  decodeIn p.t.fmt (p.code s c r) (p.scaleByte s c r)

/-- A matrix read whole, row by row: values, with the codes' values before the scale and the scale bytes for banding, and
the elements whose sign bit is set. -/
structure Mat where
  fmt  : Nat
  axis : Nat
  /-- per row and column -/
  vals : List (List Val)
  raw  : List (List Val)
  sc   : List (List Nat)
  neg  : List (List Bool)

def Mat.val (m : Mat) (r c : Nat) : Val := (m.vals.getD r []).getD c Val.zero

def readMat (s : State) (p : Planes) : Mat :=
  let rows := List.range p.t.rows
  let cols := List.range p.t.cols
  { fmt := p.t.fmt, axis := p.t.axis,
    vals := rows.map fun r => cols.map fun c => p.val s c r,
    raw := rows.map fun r => cols.map fun c => decodeElem p.t.fmt (p.code s c r),
    sc := rows.map fun r => cols.map fun c => p.scaleByte s c r,
    neg := rows.map fun r => cols.map fun c => (p.code s c r).testBit (fmtBits p.t.fmt - 1) }

/-- The factor that makes an INT8 integer its value (R54). -/
def tensorScale (t : Tensor) : Val := if t.fmt = fmtInt8 then decodeFp32 t.scale else .fin 1 0

/-- A preload read whole, each element with its own value: an INT8 element is i × S (R54, R131, R132). -/
def readPreload (s : State) (p : Planes) : Mat :=
  let m := readMat s p
  { m with vals := m.vals.map fun r => r.map fun v => v.mul (tensorScale p.t) }

/-- Writes gathered before they are stored: bytes by key. -/
abbrev Overlay := SMap Byte

/-- A code of `b` bits put at element index `i` of a plane; the other bits of its bytes keep what they hold. -/
def putCode (s : State) (o : Overlay) (key b i code : Nat) : Overlay :=
  let bit := i * b
  let a := key + bit / 8
  let n := (bit % 8 + b + 7) / 8
  let old := ofLe ((List.range n).map fun k => (mget? o (a + k)).getD (viewByte s (a + k)))
  let new := old - ((old >>> (bit % 8)) % 2 ^ b) <<< (bit % 8) + (code % 2 ^ b) <<< (bit % 8)
  ((leBytes n new).zipIdx a).foldl (fun m e => mput m e.2 e.1) o

/-- The runs of consecutive keys of an overlay. -/
def runsOf : Overlay → List (Nat × List Byte)
  | [] => []
  | (a, b) :: r =>
    match runsOf r with
    | [] => [(a, [b])]
    | (k, bs) :: rest => if k = a + 1 then (a, b :: bs) :: rest else (a, [b]) :: (k, bs) :: rest

/-- An element of an output: its row and column, its value, and its index for a draw (R65). -/
structure OutElem where
  r : Nat
  c : Nat
  v : Val

/-- The elements of an output are rounded once and put into its planes: scalar elements one by one, MX elements by
blocks along the block axis (R60, R63). The second part is true if rounding carried an element past its format. Every
position of a block that is written is in `es`. -/
def putTensor (s : State) (p : Planes) (rc : RoundCtx) (es : List OutElem) (o : Overlay) : Overlay × Bool :=
  let t := p.t
  let idx (e : OutElem) : Nat := e.r * t.cols + e.c
  if isMx t.fmt then
    let blockOf (e : OutElem) : Nat := t.sat e.c e.r
    let blocks := (es.map blockOf).dedup
    blocks.foldl (fun acc b =>
      let mine := es.filter fun e => blockOf e == b
      let r := mxBlock t.fmt rc.mode (mine.map fun e => (e.v, if rc.mode = rmSr then srDraw rc (idx e) else 0))
      let o1 := mput acc.1 (p.skey + b) (BitVec.ofNat 8 r.1)
      ((mine.zip r.2.1).foldl (fun m ec => putCode s m p.key (fmtBits t.fmt) (t.at ec.1.c ec.1.r) ec.2) o1,
        acc.2 || r.2.2)) (o, false)
  else
    es.foldl (fun acc e =>
      let r := roundScalar t.fmt rc.mode (if rc.mode = rmSr then srDraw rc (idx e) else 0) e.v
      (putCode s acc.1 p.key (fmtBits t.fmt) (t.at e.c e.r) r.1, acc.2 || r.2)) (o, false)

/-- The inputs of a context's stochastic rounding: the job's seed; the step is the epoch for the TRAINING job (R65,
chapter "Parameter update"). -/
def roundCtx (s : State) (w : Who) (mode site tensor : Nat) : RoundCtx :=
  let training := match jobOf s w.part w.ctx with | some j => j.training | none => false
  { mode := mode, seed := ((s.part w.part).ctx w.ctx).seed.toNat,
    step := if training then s.sched.epoch.toNat else Config.serviceStep w.part w.ctx, site := site, tensor := tensor }

end Sys2Proof.Machine
end

