-- ==== Sys2Proof/Machine/Finish.lean ====
section
/-! DEFINITION. Command rings' places and the completion of records: the entry of R187, the tag, the counters and the step
(R179, R187, R189, R194, R196, R561). -/

namespace Sys2Proof.Machine

/-! ### Where a ring lies (R179, R545, R561) -/

/-- Base address and size exponent of a context's command ring on a core (R545). -/
def ringBase (s : State) (g x : Nat) : Nat := s.regAddr (pnSeq g) (0x200 + x * 0x20)
def ringLog2 (s : State) (g x : Nat) : Nat :=
  let n := bits (s.regN (pnSeq g) (0x204 + x * 0x20)) 19 16
  if 7 ≤ n ∧ n ≤ 12 then n else 7

/-- An area of a partition lies where a command ring may: in its hub SRAM, or in the slab of the ring's own core, aligned to
its size (R179, R545). -/
def ringArea (s : State) (g a n : Nat) : Bool :=
  a % n == 0 &&
    (if tierOf a = 2 then bits a 43 26 == 0 && inHubGrant s ((partOfCore s g).getD 4) (bits a 25 0) n
     else tierOf a == 1 && bits a 43 36 == g && bits a 35 27 == 0 && decide (bits a 26 0 + n ≤ slabSize))

/-- A context's command ring lies where it may; no record is fetched from one that does not (log 112). -/
def ringPlaced (s : State) (g x : Nat) : Bool := ringArea s g (ringBase s g x) (64 * 2 ^ ringLog2 s g x)

/-- Base address of a context's completion area. -/
def cplBase (s : State) (g x : Nat) : Nat := s.regAddr (pnSeq g) (0x210 + x * 0x20)

/-! ### Completion -/

/-- A completion entry is stored in its area; where that does not lie in hub SRAM or the own slab, nothing is written
(R545; log 112). -/
def writeEntry (s : State) (g : Nat) (r : CmdRec) (bs : List Byte) : State :=
  let n := 2 ^ ringLog2 s g r.ctx
  if ringArea s g (cplBase s g r.ctx) (16 * n) then
    (memStores s false [(cplBase s g r.ctx + 16 * (r.idx % n), bs)]).1
  else s

/-- A record completes: its entry is written at CPL_BASE + 16 × its ring index (R187), its tag stands met or failed
(R196, R189), the counters of R545 and R547 count it, and a failure fails the step (R189). A record that an almanac
fallback dispatched has no place in the ring and writes no entry (log 13). `q` is the queue it ran in, if any. -/
def completeCmd (s : State) (g : Nat) (q : Option QueueId) (r : CmdRec) (c : Completion) : State :=
  let fails := statusFails c.status
  let s1 := match r.recompute with
    | some _ => s
    | none => writeEntry s g r (completionEntry s r c)
  let own := r.recompute.isNone
  let s2 := (s1.modCore g (Core.settleDeps r.ctx r.idx fails c.endAt)).modRing g r.ctx fun v =>
    { v with done := if own then v.done ++ [r.idx] else v.done, outstanding := v.outstanding.erase r.idx,
             tags := if (mget? v.tags r.tag).map Prod.fst = some r.idx
               then mput v.tags r.tag (r.idx, if fails then .failed else .met) else v.tags }
  let s3 := match q with
    | some .aq => s2.count (pnSeq g) 0 1
    | some .vq => s2.count (pnSeq g) 1 1
    | some .mq => s2.count (pnSeq g) 2 1
    | none => s2
  let s4 := s3.count (pnCnt g) 2 1
  let s5 := if fails then s4.count (pnCnt g) 3 1 else s4
  let s6 := match fails, partOfCore s g with
    | true, some p => failStep s5 p r.ctx
    | _, _ => s5
  let s7 := match r.recompute with
    | some (d, k, pos) => s6.modDie d fun v => v.setRing k (AlmRing.settle pos fails (v.ring k))
    | none => s6
  advanceHeads s7 g

/-- The page of the die controller that serves a core (R20). -/
def pnDieCtlOf (g : Nat) : Nat := pnDieCtl (g / 40) ((g % 40) / 20)

/-- A record fails its check: DESCRIPTOR_INVALID with its reason, and the trap (R194, R207). At dispatch the die
controller detects it, at issue (`q` given) the core sequencer (R40; log 14). -/
def refuseCmd (s : State) (g : Nat) (q : Option QueueId) (r : CmdRec) (reason pointer : Nat) : State :=
  let t : TrapInfo :=
    { code := trapDescriptor, level := if q.isSome then 0 else 1, part := partOfCore s g, ctx := some r.ctx,
      core := if q.isSome then some g else none, cmdId := r.cmdId, detail := fields [(0, reason), (8, pointer)] }
  let s1 := raiseTrap s (if q.isSome then pnSeq g else pnDieCtlOf g) t
  completeCmd s1 g q r { status := stDescriptor, detail := reason }

end Sys2Proof.Machine
end

