-- ==== Sys2Proof/Machine/Flags.lean ====
section
/-! DEFINITION. The accumulator slot and every flag computation: deposits, sweeps, rescales, merges, readout and its
summary, the exact-compact forms, and the traps of the ACCUM page (chapter "Long accumulation"). -/

namespace Sys2Proof.Machine

/-! ### Deposits (R121–R129, R139, R140) -/

/-- Class flags carried with a deposit (R125). -/
structure Cls where
  nan  : Bool := false
  pinf : Bool := false
  ninf : Bool := false
  deriving DecidableEq, Repr

/-- A product's or preload's value in slot units of 2^-400, and its class flags (R69, R141). -/
def clsOf : Val → Cls
  | .nan => { nan := true }
  | .inf false => { pinf := true }
  | .inf true => { ninf := true }
  | .fin _ _ => {}
def unitsOf : Val → Int
  | .fin m e => if 0 ≤ e + 400 then shl m (e + 400) else m / (2 ^ (-(e + 400)).toNat : Nat)
  | _ => 0

/-- The guard's limit in units (R125): 2^812. -/
def guardLimit : Int := ((2 ^ 812 : Nat) : Int)
/-- The VALUE range in units (R123): 2^767. -/
def valueLimit : Int := ((2 ^ 767 : Nat) : Int)

/-- The overflowed form takes the sign of the value (R123, R125). -/
def Slot.overflow (q : Slot) (neg : Bool) : Slot := { q with ovf := true, ovfNeg := neg, x := 0 }

/-- A deposit of R125. -/
def Slot.deposit (q : Slot) (v : Int) (c : Cls) : Slot :=
  let q1 : Slot := { q with nan := q.nan || c.nan, pinf := q.pinf || c.pinf, ninf := q.ninf || c.ninf }
  if q1.ovf then q1
  else
    let x := q1.x + v
    if x < -guardLimit ∨ guardLimit ≤ x then q1.overflow (decide (x < 0)) else { q1 with x := x }

/-- A rescale by 2^-Δ (R139, R140): floor, with SHIFT_LOSS if a nonzero bit is shifted out; an OVF slot stays. -/
def Slot.rescale (q : Slot) (delta : Nat) : Slot :=
  if q.ovf then q
  else
    let d : Int := ((2 ^ delta : Nat) : Int)
    { q with x := q.x / d, shiftLoss := q.shiftLoss || q.x % d != 0 }

/-- The slot reads as a NaN: NAN, or both infinities (R136, R141). -/
def Slot.nanLike (q : Slot) : Bool := q.nan || (q.pinf && q.ninf)

/-- What a sweep shows (R123): whether the slot overflows, and the sign. -/
def Slot.swept (q : Slot) : Slot :=
  if q.ovf then q
  else if -valueLimit ≤ q.x ∧ q.x < valueLimit then q else q.overflow (decide (q.x < 0))

/-- The exact value that a readout rounds: a class, or the finite value times the INT8 scales (R136). -/
def Slot.value (q : Slot) : Val :=
  let w := q.swept
  if w.nanLike then .nan else if w.pinf then .inf false else if w.ninf then .inf true
  else if w.ovf then .inf w.ovfNeg else .fin (w.x * w.scaleM) (w.scaleE - 400)

/-- The slot reads out under a product of INT8 scales (R54). -/
def Slot.withScale (q : Slot) (sc : Val) : Slot :=
  match sc with
  | .fin m e => { q with scaleM := m, scaleE := e }
  | _ => q

/-- The readout summary's bits for one slot (R138): [0] NAN_SEEN, [1] INF_SEEN, [2] OVF, [3] SHIFT_LOSS, [4] LONG,
[5] BIASED (OVF and NaN slots: log 108). -/
def Slot.summary (q : Slot) : Nat :=
  let v := q.value
  fields [(0, if v.isNan then 1 else 0), (1, if v.isInf then 1 else 0), (2, if q.swept.ovf then 1 else 0),
    (3, if q.shiftLoss then 1 else 0), (4, if q.long then 1 else 0), (5, if q.biased then 1 else 0)]

/-- The slot image of R121, after a sweep. -/
def Slot.image (q : Slot) : List Byte :=
  let w := q.swept
  let v : Int := if w.ovf then (if w.ovfNeg then -valueLimit else 0) else w.x
  let b (x : Bool) (k : Nat) : Nat := if x then 2 ^ k else 0
  leBytes 96 ((v % ((2 ^ 768 : Nat) : Int)).toNat) ++
    leBytes 8 (b w.nan 0 + b w.pinf 1 + b w.ninf 2 + b w.ovf 3 + b w.shiftLoss 4 + b w.long 5 + b w.biased 6)

/-- The slot that an image spells. -/
def slotOfImage (bs : List Byte) : Slot :=
  let n := ofLe (bs.take 96)
  let f := ofLe ((bs.drop 96).take 1)
  let ovf := f.testBit 3
  { x := if ovf then 0 else signed 768 n, nan := f.testBit 0, pinf := f.testBit 1, ninf := f.testBit 2,
    ovf := ovf, ovfNeg := ovf && n.testBit 767, shiftLoss := f.testBit 4, long := f.testBit 5, biased := f.testBit 6 }

/-! ### Exact-compact elements (R144–R147) -/

/-- The lowest set bit of a magnitude, at most `n`. -/
def lowBit : Nat → Nat → Nat
  | 0, _ => 0
  | n + 1, v => if v % 2 = 1 then 0 else lowBit n (v / 2) + 1

/-- A swept slot as XC128, if it fits (R145). -/
def Slot.xc128 (q : Slot) : Option Nat :=
  let w := q.swept
  let b (x : Bool) (k : Nat) : Nat := if x then 2 ^ k else 0
  let fl := b w.shiftLoss 109 + b w.long 110 + b w.biased 111
  let cls := if w.nanLike then some 0 else if w.pinf then some 1 else if w.ninf then some 2
    else if w.ovf then some (if w.ovfNeg then 7 else 3) else none
  match cls with
  | some c => some (c + 2 ^ 108 + fl)
  | none =>
    if w.x = 0 then some fl
    else
      let pos := lowBit 672 w.x.natAbs
      let v := w.x / ((2 ^ pos : Nat) : Int)
      if -((2 ^ 95 : Nat) : Int) ≤ v ∧ v < ((2 ^ 95 : Nat) : Int) then
        some ((v % ((2 ^ 96 : Nat) : Int)).toNat + pos * 2 ^ 96 + fl)
      else none

/-- An element as it is sent: its bytes and whether it takes XCW form (R146). -/
def Slot.exchange (q : Slot) : List Byte × Bool :=
  match q.xc128 with
  | some v => (leBytes 16 v, false)
  | none => (q.image, true)

/-- The slot that a received XC128 element stands for, and whether the element was malformed (R145). -/
def slotOfXc128 (v : Nat) : Slot × Bool :=
  let w := bits v 95 0
  let pos := bits v 107 96
  let sp := v.testBit 108
  let cls := bits w 2 0
  let bad := bits v 127 112 != 0 || (sp && (pos != 0 || bits w 95 3 != 0 || (decide (4 ≤ cls) && decide (cls ≤ 6)))) ||
    (!sp && decide (672 < pos))
  let fl : Slot := { shiftLoss := v.testBit 109, long := v.testBit 110, biased := v.testBit 111 }
  if bad then ({ nan := true }, true)
  else if sp then
    (if cls = 0 then { fl with nan := true } else if cls = 1 then { fl with pinf := true }
     else if cls = 2 then { fl with ninf := true } else fl.overflow (cls == 7), false)
  else ({ fl with x := shl (signed 96 w) pos }, false)

/-- A merge of a received element into a slot (R147), and whether opposite overflows cancelled and whether both were
BIASED. -/
def Slot.merge (q e : Slot) : Slot × Bool × Bool :=
  let cancel := q.ovf && e.ovf && q.ovfNeg != e.ovfNeg
  let q1 := q.deposit (if e.ovf then 0 else e.x) { nan := e.nan || cancel, pinf := e.pinf, ninf := e.ninf }
  let q2 := if e.ovf && !q1.ovf then q1.overflow e.ovfNeg else q1
  ({ q2 with shiftLoss := q2.shiftLoss || e.shiftLoss, long := q2.long || e.long, biased := q2.biased || e.biased },
    cancel, q.biased && e.biased)

/-! ### Slots of an edge (R88, R124) -/

/-- The key of a slot: its bank and index. -/
def slotKey (bank index : Nat) : Nat := bank * 128 + index % 128

/-- The slot of output column `c` (of its tile) and row `r` in a shape with fold factor `f` (R88). -/
def tileSlot (base f r c : Nat) : Nat := slotKey (c % 256) (base + c / 256 * (128 / f) + r % (128 / f))

def Edge.slot? (e : Edge) (k : Nat) : Option Slot := mget? e.slots k
def Edge.setSlot (e : Edge) (k : Nat) (q : Slot) : Edge := { e with slots := mput e.slots k q }
def Edge.free (e : Edge) (k : Nat) : Edge := { e with slots := merase e.slots k }
/-- Every listed slot freed. -/
def Edge.freeAll (e : Edge) (ks : List Nat) : Edge := { e with slots := e.slots.filter fun v => !ks.contains v.1 }

/-- A chain keeps the slots that are still HELD, and is closed when none is (R203). -/
def Edge.settle (e : Edge) : Edge :=
  let live := e.chains.map fun c => { c with slots := c.slots.filter fun k => (e.slot? k).isSome }
  { e with chains := live.filter fun c => !c.slots.isEmpty }
/-- The listed HELD slots take the scales of the command that deposits into them (R54, R136; log 21). -/
def Edge.setScale (e : Edge) (ks : List Nat) (sc : Val) : Edge :=
  { e with slots := e.slots.map fun v => if ks.contains v.1 then (v.1, v.2.withScale sc) else v }
/-- The listed slots HELD at zero under a product of scales (R131). -/
def Edge.zeroAll (e : Edge) (ks : List Nat) (sc : Val) : Edge :=
  ks.foldl (fun a k => a.setSlot k (({} : Slot).withScale sc)) e

/-- The deposit count with `n` added, saturating (R127), and whether it now passes 2^56 for the first time (R129). -/
def Edge.addCount (e : Edge) (n : Nat) : Edge × Bool :=
  let v := min (e.depcnt.toNat + n) (2 ^ 64 - 1)
  let past := decide (2 ^ 56 < v) && decide (e.depcnt.toNat ≤ 2 ^ 56)
  let e1 : Edge := { e with depcnt := BitVec.ofNat 64 v }
  (if 2 ^ 56 < v then { e1 with slots := e1.slots.map fun s => (s.1, { s.2 with long := true }) } else e1, past)

/-! ### Traps of a command in the ACCUM page -/

/-- The trap of a command on its core with the ACCUM page as its source. -/
def raiseAccum (s : State) (w : Who) (r : CmdRec) (t : TrapInfo) : State :=
  raiseTrap s (pnAccum w.core)
    { t with level := 0, part := some w.part, ctx := some w.ctx, core := some w.core, cmdId := r.cmdId }

/-- The deposit count of a tile grew; past 2^56 LENGTH_BEYOND_GUARANTEE is raised (R129). `tile` is the tile's first output
row and column (R206). -/
def addDeposits (s : State) (w : Who) (r : CmdRec) (side : Bool) (tile : Nat × Nat) (n : Nat) : State :=
  let e := ((s.core w.core).edge side).addCount n
  let s1 := s.modCore w.core fun c => c.setEdge side e.1
  if e.2 then
    raiseAccum s1 w r { code := trapLength, level := 0, row := tile.1, col := tile.2, detail := (if side then 1 else 0) + e.1.depcnt.toNat <<< 64 }
  else s1

/-- FIRST_NAN of a command (R142): where it arose, if the command set a NaN. `vu` marks a vector-unit deposit. -/
structure NanAt where
  cycle : Nat
  row   : Nat
  col   : Nat
  out   : Nat
  block : Nat
  vu    : Bool := false

/-- The earliest, then the lowest column, then the lowest block (R142). -/
def NanAt.before (a b : NanAt) : Bool :=
  decide (a.cycle < b.cycle) || (a.cycle == b.cycle && (decide (a.out < b.out) || (a.out == b.out && decide (a.block < b.block))))
def firstNan (l : List NanAt) : Option NanAt :=
  l.foldl (fun acc n => match acc with | none => some n | some m => if n.before m then some n else some m) none

/-- NaN deposits are counted, and the first of the command raises FIRST_NAN unless it has already (R142). -/
def noteNans (s : State) (w : Who) (r : CmdRec) (side already : Bool) (l : List NanAt) : State :=
  match firstNan l with
  | none => s
  | some n =>
    let s1 := s.count (pnAccum w.core) 1 l.length
    if already then s1
    else raiseAccum s1 w r
      { code := trapFirstNan, level := 0, row := n.row, col := n.col, outCol := n.out, redBlock := n.block,
        detail := (if side then 1 else 0) + (if n.vu then 2 else 0) }

/-- NaN deposits of one command on both edges: the earlier first one raises the trap (R142). `own` are those on `side`. -/
def noteNansBoth (s : State) (w : Who) (r : CmdRec) (side already : Bool) (own other : List NanAt) : State :=
  let ownFirst := match firstNan own, firstNan other with
    | some a, some b => !b.before a
    | _, _ => true
  if ownFirst then noteNans (noteNans s w r side already own) w r (!side) (already || !own.isEmpty) other
  else noteNans (noteNans s w r (!side) already other) w r side true own

/-- ACCUM.CTL.NAN_ACTION is HALT_AT_TILE on a core (R143). -/
def haltsAtTile (s : State) (g : Nat) : Bool := (s.reg (pnAccum g) 0x010).getLsbD 0

/-- Readouts or exchanges of OVF slots are counted, and the first of a command raises ACC_OVERFLOW with its tile, its slot
index and its column (R130, R206). -/
def noteOverflows (s : State) (w : Who) (r : CmdRec) (side already : Bool) (tile : Nat × Nat) (l : List (Nat × Nat)) : State :=
  match l with
  | [] => s
  | (col, slot) :: _ =>
    let s1 := s.count (pnAccum w.core) 2 l.length
    if already then s1
    else raiseAccum s1 w r
      { code := trapOverflow, level := 0, row := tile.1, col := tile.2, outCol := col, detail := fields [(0, if side then 1 else 0), (8, slot % 128)] }

/-! ### Exact-compact tiles in memory (R560) -/

/-- The bytes of an exact-compact tile: deposit count, elements, XCW count, marker bitmap, elements packed. -/
def xcTile (depcnt : Nat) (qs : List Slot) : List Byte × Nat :=
  let es := qs.map Slot.exchange
  let marks := (es.zipIdx.foldl (fun (a : Nat) e => if e.1.2 then a + 2 ^ e.2 else a) 0)
  let xcw := (es.filter fun e => e.2).length
  (leBytes 8 depcnt ++ leBytes 4 es.length ++ leBytes 4 xcw ++ leBytes (xcBitmap es.length) marks ++
    es.flatMap Prod.fst, xcw)

/-- The elements packed from a key on, by their marks: slots, and how many XC128 elements were malformed. -/
def xcElems (s : State) (marks : Nat) : Nat → Nat → Nat → List Slot × Nat
  | 0, _, _ => ([], 0)
  | n + 1, i, key =>
    if marks.testBit i then
      let r := xcElems s marks n (i + 1) (key + 104)
      (slotOfImage (viewBytes s key 104) :: r.1, r.2)
    else
      let e := slotOfXc128 (viewNat s key 16)
      let r := xcElems s marks n (i + 1) (key + 16)
      (e.1 :: r.1, r.2 + if e.2 then 1 else 0)

/-- A tile read back from a key: deposit count, element count, elements, malformed count, and which elements have the XCW
form. -/
structure XcRead where
  depcnt : Nat
  count  : Nat
  elems  : List Slot
  bad    : Nat
  isXcw  : Nat → Bool

def readXcTile (s : State) (key n : Nat) : XcRead :=
  let marks := viewNat s (key + 16) (xcBitmap n)
  let r := xcElems s marks n 0 (key + 16 + xcBitmap n)
  { depcnt := viewNat s key 8, count := viewNat s (key + 8) 4, elems := r.1, bad := r.2, isXcw := marks.testBit }

end Sys2Proof.Machine
end

