-- ==== Sys2Proof/Machine/LinkOps.lean ====
section
/-! DEFINITION. Peer contexts and the sending of messages: the record, the port, flits, credits and windows (R421–R441).
Bytes of a lent region travel as WRITE and READ messages (R385). -/

namespace Sys2Proof.Machine

/-! ### The context record (R436) -/

/-- The record of a context in the table, as memory holds it. -/
def ctxTableKey (s : State) (c : Nat) : Nat := s.regAddr pnLinkCtx 0x100 + 64 * c
def ctxRecord (s : State) (c : Nat) : List Word := memWords s (ctxTableKey s c) 16

def Peer.w (p : Peer) (k : Nat) : Nat := wordAt p.words k
def Peer.fabric (p : Peer) : Bool := (p.w 0).testBit 1
def Peer.part (p : Peer) : Nat := bits (p.w 0) 3 2
def Peer.jobCtx (p : Peer) : Nat := bits (p.w 0) 6 4
def Peer.sealedCtx (p : Peer) : Bool := (p.w 0).testBit 7
def Peer.level (p : Peer) : Nat := bits (p.w 0) 11 8
def Peer.remote (p : Peer) : Nat := bits (p.w 0) 23 12
def Peer.ports (p : Peer) : Nat := bits (p.w 1) 23 0
def Peer.peerId (p : Peer) : Nat := longAt p.words 2
def Peer.rank (p : Peer) : Nat := bits (p.w 4) 14 0
def Peer.rankValid (p : Peer) : Bool := (p.w 4).testBit 15
def Peer.timeout (p : Peer) : Nat := if p.w 7 = 0 then 156250 else p.w 7
def Peer.window (p : Peer) : Nat := if bits (p.w 8) 15 0 = 0 then 1024 else bits (p.w 8) 15 0

/-- A reserved bit of a context record is set. -/
def ctxReserved (ws : List Word) : Bool :=
  let w := wordAt ws
  bits (w 0) 31 24 != 0 || bits (w 1) 31 24 != 0 || bits (w 4) 31 16 != 0 || bits (w 6) 30 28 != 0 ||
    bits (w 8) 31 16 != 0 || (List.range 7).any fun k => w (9 + k) != 0

/-- The partition that a context belongs to (R436): while it is CLOSED, by its record in the table, if that is valid. -/
def ctxOwner (s : State) (c : Nat) : Option Nat :=
  let p := s.peer c
  if p.phase ≠ .closed then some p.part
  else
    let w0 := wordAt (ctxRecord s c) 0
    if w0.testBit 0 then some (bits w0 3 2) else none

/-! ### Ports (R421, R434) -/

/-- The LINK page of a half-port, and whether it is the LPn.B half. -/
def halfPage (h : Nat) : Nat := pnLink (h / 2)
/-- The half-ports of a mask that are up, in order (R436, R453). -/
def upPorts (s : State) (mask : Nat) : List Nat :=
  (List.range 24).filter fun h => mask.testBit h && (s.half h).state == .up && domOn s (domLp (h / 2))

/-- Those that serve a context: up at a level of at least its own (R437, R449). -/
def servingPorts (s : State) (p : Peer) : List Nat := (upPorts s p.ports).filter fun h => decide (p.level ≤ (s.half h).level)

/-- The port that a context sends on: it keeps its port while that serves it, or retrains with its replay buffer; else it
takes port number (context mod m) of the m ports of its mask that serve it (R434, R449, R452). -/
def ctxPort? (s : State) (c : Nat) : Option Nat :=
  let p := s.peer c
  let ups := servingPorts s p
  let v := s.half p.port
  if p.ports.testBit p.port && decide (p.level ≤ v.level) && (v.state == .up || (!p.fabric && v.state == .retraining)) then some p.port
  else ups[c % ups.length]?

/-! ### Messages (R428, R430) -/

/-- The virtual channel that carries an operation. -/
def MsgOp.vc : MsgOp → Nat
  | .write => 1
  | .read => 0
  | .readResp => 1
  | .atomic => 0
  | .atomicResp => 0
  | .tileRts => 0
  | .tileData => 1
  | .collective => 2
  | .vote => 3
  | .result => 3
  | .openMsg => 3

/-- Flits of a message with `n` payload bytes. -/
def msgFlits (p : Peer) (n : Nat) : Nat := ceilDiv (32 + n + if p.sealedCtx then 16 else 0) 240

/-- The first flit of a message has left (R468). -/
def Unacked.started (u : Unacked) : Bool := decide (u.left < u.flits)

/-- The peer context's job context is switched out, or on its way in and not yet restored (R465, R468, R469). -/
def peerOut (s : State) (p : Peer) : Bool :=
  match (s.part p.part).cur with
  | some x => x != p.jobCtx || (s.part p.part).switchAt.isSome
  | none => false

/-- A message may send flits: one that its switched-out context has not begun waits (R468), but for the toll's and for
answers to reads (log 45). -/
def Unacked.goes (out : Bool) (u : Unacked) : Bool := !out || u.started || u.msg.op.vc == 3 || u.msg.op == .readResp

/-- The virtual channel of a control flit (R430). -/
def CtlFlit.vc : CtlFlit → Nat
  | .ack _ _ => 0
  | .nak _ _ _ => 0
  | .opening _ => 3

/-- The MAC address of a half-port (R454). -/
def halfMac (s : State) (h : Nat) : Addr := mget 0 s.fuses.linkMacs (h / 2) + BitVec.ofNat 48 (h % 2)

/-- The header of the frames by which a context sends at a half-port on a virtual channel (R425, R436). -/
def frameHeader (s : State) (h : Nat) (p : Peer) (vc : Nat) : FrameHeader :=
  { dest := BitVec.ofNat 48 (p.w 5 + 2 ^ 32 * bits (p.w 6) 15 0), source := halfMac s h,
    tag := if (p.w 6).testBit 31 then some (bits (p.w 6) 27 16, bits (s.regN (halfPage h) 0x10C) (3 * vc + 2) (3 * vc)) else none,
    etherType := BitVec.ofNat 16 (s.regN (halfPage h) 0x100) }

/-- How the flits of a context leave by a half-port on a virtual channel, the last under an LSEQ. -/
def wayOf (s : State) (h : Nat) (p : Peer) (vc : Nat) (lseq : BitVec 12) : Way :=
  { port := h, remote := p.remote, level := p.level, lseq := if p.fabric then 0 else lseq,
    frame := if p.fabric then some (frameHeader s h p vc) else none }

/-! ### What leaves next (R425, R430, R432, R433) -/

/-- Flits in the replay buffer: those that LACK does not cover yet. -/
def Half.replaying (v : Half) : Nat := (v.txSeq - v.lackRx - 1).toNat

/-- The message of which a context sends a flit next on a virtual channel: the one begun, else the first that may go. -/
def Peer.nextMsg (out : Bool) (vc : Nat) (p : Peer) : Option Unacked :=
  let ok (u : Unacked) : Bool := u.msg.op.vc == vc && u.left != 0 && u.goes out
  (p.unacked.find? fun u => ok u && u.started).or (p.unacked.find? ok)

/-- A half-port takes a flit of a context on a virtual channel: it is up; in DIRECT it holds a credit and the replay buffer of
2,048 flits has room, in FABRIC the priority is not paused. -/
def portTakes (s : State) (h : Nat) (p : Peer) (vc : Nat) : Bool :=
  let v := s.half h
  v.state == .up &&
    (if p.fabric then !(v.paused.contains (bits (s.regN (halfPage h) 0x10C) (3 * vc + 2) (3 * vc)))
     else decide (0 < mget 0 v.credits (p.part * 4 + vc)) && decide (v.replaying < 2048))

/-- A context has a flit to send: a control flit, or one of a message, in FABRIC within its window. -/
def hasFlit (s : State) (h c vc : Nat) : Bool :=
  let p := s.peer c
  let room := !p.fabric ||
    decide (((p.unacked.filter fun u => u.msg.op.vc == vc).map fun u => u.flits - u.left).sum < p.window)
  portTakes s h p vc && ((p.ctl.any fun f => f.vc == vc) || (room && (p.nextMsg (peerOut s p) vc).isSome))

/-- The contexts that send at a half-port. -/
def portCtxs (s : State) (h : Nat) : List Nat := (s.links.peers.map Prod.fst).filter fun c => ctxPort? s c == some h

/-- The context that sends the next flit on a virtual channel: a message begun is sent to its end, then partitions take turns;
within a partition the lowest context (log 137). -/
def pickCtx (s : State) (h vc : Nat) : Option Nat :=
  let ready := (portCtxs s h).filter fun c => hasFlit s h c vc
  let going := ready.filter fun c => ((s.peer c).nextMsg (peerOut s (s.peer c)) vc).any Unacked.started
  let last := mget 0 (s.half h).turn vc
  let of_ (l : List Nat) (q : Nat) : Option Nat := l.find? fun c => (s.peer c).part == q
  (of_ going last).or ((List.range 4).findSome? fun k => (of_ going ((last + 1 + k) % 4)).or (of_ ready ((last + 1 + k) % 4)))

/-- The virtual channel that sends next, and the flits that VC0–VC2 have then sent in the round: VC3 before all, the others in
the ratio of LINK.ARB. -/
def pickVc (s : State) (h : Nat) : Option (Nat × SMap Nat) :=
  let v := s.half h
  let weight (vc : Nat) : Nat := max 1 (bits (s.regN (halfPage h) 0x110) (4 * vc + 3) (4 * vc))
  if (pickCtx s h 3).isSome then some (3, v.share)
  else
    let ready := [0, 1, 2].filter fun vc => (pickCtx s h vc).isSome
    match ready.find? fun vc => decide (mget 0 v.share vc < weight vc) with
    | some vc => some (vc, mset 0 v.share vc (mget 0 v.share vc + 1))
    | none => ready.head?.map fun vc => (vc, [(vc, 1)])

/-- What a control flit of a context is on the wire. -/
def CtlFlit.output (c : Nat) (way : Way) : CtlFlit → Output
  | .ack m t => .linkAck c m t way
  | .nak m k t => .linkNak c m k t way
  | .opening m => .linkMsg m way

/-- A flit of a message leaves at a time. -/
def Unacked.sendOne (now : Long) (u : Unacked) : Unacked :=
  { u with left := u.left - 1, sentAt := u.sentAt.or (some now), resent := now }

/-- A context sends a flit at a half-port: a control flit first, else one of its next message, which is out when its last has
left. -/
def sendFlit (s : State) (h c vc : Nat) : State :=
  let p := s.peer c
  let v := s.half h
  let way := wayOf s h p vc v.txSeq
  let s1 := (s.count (halfPage h) 0 1).setHalf h { v with
    turn := mset 0 v.turn vc p.part, txSeq := if p.fabric then v.txSeq else v.txSeq + 1,
    credits := if p.fabric then v.credits else mset 0 v.credits (p.part * 4 + vc) (mget 0 v.credits (p.part * 4 + vc) - 1) }
  match p.ctl.find? fun f => f.vc == vc with
  | some f => (s1.setPeer c { p with ctl := p.ctl.erase f, port := h }).emit (f.output c way)
  | none =>
    match p.nextMsg (peerOut s p) vc with
    | none => s
    | some u =>
      let s2 := s1.setPeer c { p with
        port := h, unacked := p.unacked.map fun w => if w.msg.mseq = u.msg.mseq then w.sendOne s.bell.count else w }
      if u.left ≤ 1 then s2.emit (.linkMsg u.msg way) else s2

/-- A half-port sends up to so many flits. -/
def pumpFlits (h : Nat) : Nat → State → State
  | 0, s => s
  | n + 1, s =>
    match pickVc s h with
    | none => s
    | some (vc, share) =>
      match pickCtx s h vc with
      | none => s
      | some c => pumpFlits h n (sendFlit (s.modHalf h fun v => { v with share := share }) h c vc)

/-- A half-port sends all that may leave. -/
def pumpPort (s : State) (h : Nat) : State :=
  pumpFlits h ((portCtxs s h).map fun c => (s.peer c).ctl.length + ((s.peer c).unacked.map Unacked.left).sum).sum s

/-- The half-port of a context sends all that may leave. -/
def pumpCtx (s : State) (c : Nat) : State := match ctxPort? s c with | none => s | some h => pumpPort s h

/-- Every half-port sends all that may leave. -/
def pumpAll (s : State) : State := (List.range 24).foldl pumpPort s

/-- A context sends a control flit as soon as it may. -/
def sendCtl (s : State) (c : Nat) (f : CtlFlit) : State := pumpCtx (s.modPeer c fun p => { p with ctl := p.ctl ++ [f] }) c

/-- Flits of one VC leave the receive buffer of a half-port in DIRECT mode: they are counted, LACK covers them, and their
credits go back, in an IDLE flit (R432, R433; log 138). In FABRIC there are no credits, and a frame is counted as it comes. -/
def takeFlits (s : State) (h : Nat) (p : Peer) (vc n : Nat) : State :=
  if p.fabric then s
  else
    let s1 := (s.count (halfPage h) 1 n).modHalf h fun v => { v with rxSeq := v.rxSeq + BitVec.ofNat 12 n }
    s1.emit (.idleFlit h (s1.half h).rxSeq p.part vc n)

/-- A message is handed to a context: it takes the next MSEQ and leaves as its channel allows (R434, R436). A context
that is not READY takes none. -/
def sendMsg (s : State) (c : Nat) (m : OutMsg) (key : Nat) (wt : Waiter) : Option State :=
  let p := s.peer c
  let asks := m.op == .read || m.op == .atomic
  let tag : Long := if asks then BitVec.ofNat 64 p.sendSeq.toNat else m.reqTag
  let n := msgFlits p m.data.length
  let u : Unacked :=
    { msg := { m with ctx := c, mseq := p.sendSeq, reqTag := tag }, waiter := wt, flits := n, left := n, key := key }
  if p.phase = .ready then
    some (pumpCtx (s.setPeer c { p with sendSeq := p.sendSeq + 1, unacked := p.unacked ++ [u],
                                        asked := if asks then p.asked ++ [u] else p.asked }) c)
  else none

/-- The READY contexts of a job context to a rank (R385, R443). -/
def rankCtxs (s : State) (p x rank : Nat) : List Nat :=
  (s.links.peers.filter fun e => e.2.phase == .ready && e.2.part == p && e.2.jobCtx == x && e.2.rankValid &&
    e.2.rank == rank).map Prod.fst

/-- 64 KiB pieces of a length: offset and size of each (R428). -/
def msgPieces (n : Nat) : List (Nat × Nat) :=
  (List.range (ceilDiv n 65536)).map fun k => (65536 * k, min 65536 (n - 65536 * k))

/-- The peer contexts to the lender of a tier-4 address (R384, R385). -/
def lenderCtxs (s : State) (w : Who) (a : Nat) : List Nat :=
  match granaryEntry s w.part w.ctx (bits a 43 32) with
  | some e => rankCtxs s w.part w.ctx e.1
  | none => []

/-- LINK_TIMEOUT is raised for a command, with the port and number of the peer context, if there is one (R189, R207; log
117). -/
def timeoutTrap (s : State) (w : Who) (cmdId : Nat) (peer : Option Nat) : State :=
  raiseTrap s pnLinkCtx
    { code := trapLinkTimeout, level := 2, part := some w.part, ctx := some w.ctx, cmdId := cmdId,
      detail := peer.elim 0 fun c => fields [(0, (s.peer c).port / 2), (8, c)] }

/-- The first of some tier-4 addresses whose lender has no READY context. -/
def firstLost (s : State) (w : Who) (as : List Nat) : Option Nat := as.find? fun a => (lenderCtxs s w a).isEmpty

/-- A command fails because a lender has no READY context: the trap is raised once, but for a context in ERROR, which has
raised it (R189, R438). -/
def lostTrap (s : State) (w : Who) (cmdId : Nat) (as : List Nat) : State :=
  match firstLost s w as with
  | none => s
  | some a =>
    let rank := (granaryEntry s w.part w.ctx (bits a 43 32)).map Prod.fst
    match s.links.peers.find? fun e => e.2.part == w.part && e.2.jobCtx == w.ctx && e.2.rankValid && some e.2.rank == rank with
    | some e => if e.2.phase = .error then s else timeoutTrap s w cmdId (some e.1)
    | none => timeoutTrap s w cmdId none

/-- Messages are sent one after the other: how many have been, and whether all were taken (R438). -/
def sendAll (c : Nat) (wt : Waiter) (ms : List (OutMsg × Nat)) (s : State) : State × Nat × Bool :=
  ms.foldl (fun acc m =>
    if acc.2.2 then
      match sendMsg acc.1 c m.1 m.2 wt with
      | some t => (t, acc.2.1 + 1, true)
      | none => (acc.1, acc.2.1, false)
    else acc) (s, 0, true)

/-- Bytes go to regions that other devices lend: WRITE messages over the peer context of each lender (R385), under their
tier-4 addresses: the table is the same on every device of the job (R383, R386; log 121). The count of messages, and false
where a lender has no READY context. -/
def sendWrites (s : State) (w : Who) (wt : Waiter) (runs : List (Nat × List Byte)) : State × Nat × Bool :=
  runs.foldl (fun acc e =>
    match (lenderCtxs acc.1 w e.1).head? with
    | none => (acc.1, acc.2.1, false)
    | some c =>
      let ms := (msgPieces e.2.length).map fun k =>
        (({ ctx := c, op := .write, mseq := 0, address := BitVec.ofNat 48 (e.1 + k.1),
            data := (e.2.drop k.1).take k.2 } : OutMsg), 0)
      let r := sendAll c wt ms acc.1
      (r.1, acc.2.1 + r.2.1, acc.2.2 && r.2.2)) (s, 0, true)

/-- Bytes are asked of regions that other devices lend: READ messages, by address, length and the key under which the
response is stored. -/
def sendReads (s : State) (w : Who) (wt : Waiter) (spans : List (Nat × Nat × Nat)) : State × Nat × Bool :=
  spans.foldl (fun acc e =>
    match (lenderCtxs acc.1 w e.1).head? with
    | none => (acc.1, acc.2.1, false)
    | some c =>
      let ms := (msgPieces e.2.1).map fun k =>
        (({ ctx := c, op := .read, mseq := 0, address := BitVec.ofNat 48 (e.1 + k.1),
            operand := BitVec.ofNat 64 k.2 } : OutMsg), e.2.2 + k.1)
      let r := sendAll c wt ms acc.1
      (r.1, acc.2.1 + r.2.1, acc.2.2 && r.2.2)) (s, 0, true)

end Sys2Proof.Machine
end

