-- ==== Sys2Proof/Machine/Passes.lean ====
section
/-! DEFINITION. The matrix array: bands of a block, time per row slot, tails, stationary loads, the entry of a pass under
the latency modes, exact products of a row and a column, and the write-back of an output tile (chapters "The matrix
array" and "Long accumulation"). -/

namespace Sys2Proof.Machine

/-! ### Band exponents (R56–R58, R82, R84) -/

/-- The digit count of a streaming format: half its significand bits, rounded up (R82, R47). -/
def digitCount (f : Nat) : Nat :=
  if f = fmtFp32 then 12 else if f = fmtFp16 then 6 else if f = fmtBf16 ∨ f = fmtMxint8 ∨ f = fmtInt8 then 4
  else if f = fmtE2m1 then 1 else 2

/-- A band of a block: its exponent E and its offset o (R55, R56). -/
structure Band where
  e : Nat
  o : Int
  deriving DecidableEq, Repr

/-- The binade weight E + o that exponents are compared by (R102, R116). -/
def Band.exp (b : Band) : Int := b.e + b.o
/-- The band of the low row set of a split FP32 element (R58, R77). -/
def Band.low (b : Band) : Band := { b with o := b.o - 12 }

/-- The bands of a block (R56): `none` is an empty band. `vs` are the values before the scale `x`. -/
def blockBands (f x : Nat) (vs : List Val) : List (Option Band) :=
  let b := bandsOf f x vs
  match b.top with
  | none => [none]
  | some t =>
    (List.range b.count).map fun k =>
      let k16 : Int := 16 * k
      if isScalarFloat f then some ⟨(127 + t - k16).toNat, -15⟩
      else if f = fmtE5m2 then some ⟨x, t - 15 - k16⟩
      else if f = fmtE4m3 then some ⟨x, -6⟩
      else if f = fmtE3m2 then some ⟨x, -2⟩
      else if f = fmtMxint8 then some ⟨x, 1⟩
      else if f = fmtInt8 then some ⟨127, 7⟩
      else some ⟨x, 0⟩

/-- Blocks of 32 of a list. -/
def blocks32 {α : Type} (l : List α) : List (List α) :=
  (List.range (ceilDiv l.length 32)).map fun k => (l.drop (32 * k)).take 32

/-- The bands of every block along a vector of elements: values before the scale, values, scale bytes. A vector across its
blocks is banded from its exact values as FP32 is (R212). -/
def vecBands (f : Nat) (cross : Bool) (raw vals : List Val) (sc : List Nat) : List (List (Option Band)) :=
  if cross then (blocks32 vals).map fun b => blockBands fmtFp32 127 b
  else ((blocks32 raw).zip (blocks32 sc)).map fun e => blockBands f (e.2.headD 127) e.1

/-- The band that a row slot meets: band `k` of a block, empty beyond the block's own count (R57). -/
def bandOr (l : List (Option Band)) (k : Nat) : Option Band := (l[k]?).join

/-! ### Row slots and tails (R82, R102, R116–R118) -/

/-- The tails among products or segments with these exponents: those more than 56 below the frame exponent, which is
the largest plus `grow`. -/
def tailCount (grow : Int) (es : List Int) : Nat :=
  match es with
  | [] => 0
  | e :: r => let top := r.foldl max e + grow; (es.filter fun x => decide (56 < top - x)).length

/-- The tails of a row slot at one edge position: a column's segments (R118), or a row's products per fold of 256 (R102).
`xs` are the streaming bands along the reduction and `ws` the stationary ones, in folds of `fold`. -/
def positionTails (grow : Int) (fold : Nat) (xs ws : List (Option Band)) : Nat :=
  let es := (xs.zip ws).map fun e => match e.1, e.2 with | some a, some b => some (a.exp + b.exp) | _, _ => none
  let folds := if fold = 0 then [es] else (List.range (ceilDiv es.length fold)).map fun k => (es.drop (fold * k)).take fold
  (folds.map fun l => tailCount grow (l.filterMap id)).sum

/-- A pass's time (R82, R85): the length of every row slot, by row; slots beyond the first band, cycles added for
tails, and the tail deposits written, which leaves out those of masked columns (R99, R119). -/
structure Feed where
  rows    : List (List Nat)
  extra   : Nat
  spacing : Nat
  tails   : Nat

def Feed.slots (f : Feed) : List Nat := f.rows.flatten
def Feed.total (f : Feed) : Nat := f.slots.sum
def Feed.last (f : Feed) : Nat := f.slots.getLastD 0
/-- The largest number of frame deposits a slot receives from the pass: the largest band count of a row (R127; log 101). -/
def Feed.deposits (f : Feed) : Nat := (f.rows.map List.length).foldl max 0
/-- The cycle, from the pass's entry, at which each row's first row slot enters. -/
def Feed.starts (f : Feed) : List Nat :=
  (f.rows.foldl (fun (acc : List Nat × Nat) r => (acc.1 ++ [acc.2], acc.2 + r.sum)) ([], 0)).1

/-- The feed of rows given each row's bands per position along the reduction, and the stationary bands of each edge
position. `masked row position` is true where the row's command masks the position's column (R99). -/
def feedOf (d f : Nat) (grow : Int) (fold : Nat) (rows : List (List (List (Option Band))))
    (stat : List (List (Option Band))) (masked : Nat → Nat → Bool := fun _ _ => false) : Feed :=
  let base := max d f
  let per := rows.zipIdx.map fun r =>
    let k := (r.1.map List.length).foldl max 1
    (List.range k).map fun b =>
      let ts := stat.zipIdx.map fun ws => (positionTails grow fold (r.1.map fun l => bandOr l b) ws.1, masked r.2 ws.2)
      ((ts.map Prod.fst).sum, (ts.map fun t => if t.2 then 0 else t.1).sum)
  { rows := per.map fun r => r.map fun n => max base n.1,
    extra := (per.map fun r => r.length - 1).sum,
    spacing := (per.flatten.map fun n => max base n.1 - base).sum,
    tails := (per.flatten.map Prod.snd).sum }

/-! ### Stationary loads (R58, R84) -/

/-- One row set of a load: a K block, one of its bands, and whether it is the low half of a split FP32 band. -/
structure RowSet where
  block : Nat
  band  : Nat
  low   : Bool
  deriving DecidableEq, Repr

/-- The loads that K blocks with these band counts take, `segs` row sets each, in K order (R84). -/
def loadsOf (segs : Nat) (split : Bool) (counts : List Nat) : List (List RowSet) :=
  let rs := counts.zipIdx.flatMap fun e => (List.range e.1).flatMap fun b =>
    if split then [{ block := e.2, band := b, low := false }, { block := e.2, band := b, low := true }]
    else [{ block := e.2, band := b, low := false }]
  (List.range (ceilDiv rs.length segs)).map fun k => (rs.drop (segs * k)).take segs

/-- The K blocks whose products a load is taken to deposit: those whose first row set it holds. The sums are exact, so
how a block's bands are split over loads changes no value (R84). -/
def loadBlocks (l : List RowSet) : List Nat := (l.filter fun r => r.band == 0 && !r.low).map RowSet.block

/-- Its low row sets (R58). -/
def lowSets (l : List RowSet) : Nat := (l.filter RowSet.low).length

/-- The number that R142 gives a block of the reduction: its load's first block plus the segment of its top band. -/
def loadBlock (loads : List (List RowSet)) (b : Nat) : Nat :=
  (loads.findSome? fun l => (l.findIdx? fun rs => rs.block == b && rs.band == 0 && !rs.low).map fun i =>
    (l.headD { block := 0, band := 0, low := false }).block + i).getD b

/-- The positions of K blocks within an extent. -/
def blockSpan (n k : Nat) : List Nat := (List.range 32).filterMap fun i => if 32 * k + i < n then some (32 * k + i) else none

/-- A row set as the name of a load spells it. -/
def RowSet.key (r : RowSet) : Nat × Nat × Bool := (r.block, r.band, r.low)

/-! ### Stationary weight words (R55, R59, R76–R78) -/

/-- An element as the loader bands it: its value, its sign, and the lowest binade of its format with its scale (R56). -/
structure Elem where
  v     : Val
  neg   : Bool
  floor : Int

/-- The element of a matrix in a row and column; `cross` where it is banded from its exact value (R212). -/
def Mat.elem (m : Mat) (cross : Bool) (r c : Nat) : Elem :=
  { v := m.val r c, neg := (m.neg.getD r []).getD c false,
    floor := if cross then -126 else if m.fmt = fmtInt8 then 7 else
      (if m.fmt = fmtMxint8 then 1 else (elemFmt m.fmt).emin) +
        (if isMx m.fmt then ((m.sc.getD r []).getD c 127 : Int) - 127 else 0) }

/-- The parts of a weight word packed: sign, s + o as eight bits, significand, class, and LIVE set (R76, R78). -/
def packWord (neg : Bool) (expOff : Int) (sig cls : Nat) : BitVec 24 :=
  BitVec.ofNat 24 ((if neg then 2 ^ 23 else 0) + (expOff % 256).toNat * 2 ^ 15 + sig * 8 + cls * 2 + 1)

/-- The word of an element in a row set (R55, R59, R77). A finite element has its significand in the row set whose band
holds its binade, and m = 0 in every other; the low row set of a split element holds its lower 12 bits. The class of an
INF or NAN element stands in the top band, in the high row set where it is split (log 102). Where m is 0, s is 0. -/
def weightWord (b : Option Band) (rs : RowSet) (x : Elem) : BitVec 24 :=
  let o := (b.elim 0 fun b => if rs.low then b.o - 12 else b.o)
  let top := rs.band == 0 && !rs.low
  match x.v with
  | .nan => packWord x.neg o 0 (if top then 2 else 0)
  | .inf n => packWord n o 0 (if top then 1 else 0)
  | .fin m e =>
    match b with
    | none => packWord x.neg o 0 0
    | some b =>
      let t := max (binade m e) x.floor
      let s := t - (b.exp - 127)
      if m = 0 ∨ s < 0 ∨ 15 < s then packWord x.neg o 0 0
      else
        -- the 24-bit significand, whose top bit has the weight of the element's binade
        let sh := e - (t - 23)
        let sig := if 0 ≤ sh then m.natAbs <<< sh.toNat else m.natAbs >>> (-sh).toNat
        packWord x.neg (s + o) (if rs.low then sig % 4096 else sig / 4096 % 4096) 0

/-- The plane that a load fills: logical row 32 × segment + position of each fold, and physical column (R76, R86). `cell`
gives the word of row set `k`, position `i` and column `c` of the load, none where LIVE is 0; `seg` the band of row set
`k` in column `c`. -/
def planeOf (id : LoadId) (cell : Nat → Nat → Nat → Option (BitVec 24)) (seg : Nat → Nat → Option Band) : Plane :=
  let f := 2 ^ id.shape
  let sets := List.range id.sets.length
  { load := some id,
    words := (List.range f).flatMap fun j => sets.flatMap fun k => (List.range 32).flatMap fun i =>
      (List.range (min 256 (id.cols - 256 * j))).filterMap fun c =>
        (cell k i (256 * j + c)).map fun w => ((j * (256 / f) + 32 * k + i) * 256 + c, w),
    segs := (List.range f).flatMap fun j => sets.flatMap fun k =>
      (List.range 256).filterMap fun c =>
        match seg k (256 * j + c) with
        | some b => some ((j * (8 / f) + k) * 256 + c, { e := BitVec.ofNat 8 b.e, o := BitVec.ofInt 6 b.o })
        | none => none }

/-! ### The entry of a pass (R90, R92, R96–R98) -/

/-- The latency L of a row slot (R92). -/
def passLatency (d : Nat) : Nat := 256 + 256 + 4 + d

/-- What a pass needs: its feed, digit count, the plane that its load fills, direction and shape, and the rows that masks
keep out of it (R99, R101). -/
structure PassReq where
  feed   : Feed
  d      : Nat
  plane  : Plane
  trans  : Bool
  shape  : Nat
  masked : Nat := 0
  /-- its load comes, its streamed tile comes, from slab through staging (R377) -/
  statSlab   : Bool := false
  streamSlab : Bool := false
  /-- low row sets of its load, and whether the load is banded across its block axis (R58, R212) -/
  lows   : Nat := 0
  cross  : Bool := false

/-- A pass enters (R90, R96–R98): the pipeline after it, its entry cycle, its last deposit, whether it made a load, and
the cycles it waited on it. `issue` is the cycle at which its command issues and `dep` the first cycle that a tagged
dependence, or the groups of an attention command, allow. A load is the one already in its plane when the plane holds a
load of the same name and the same words (log 103). -/
def enterPass (p : Pipe) (serial : Bool) (issue dep : Nat) (q : PassReq) : Pipe × Nat × Nat × Bool × Nat :=
  let turn := p.lastDeposit ≠ 0 ∧ (serial ∨ q.trans ≠ p.transposed ∨ q.shape ≠ p.shape)
  let limit0 := max issue (max dep p.entryLimit)
  let limit := if turn then max limit0 (p.lastDeposit + 1) else limit0
  let inA := p.planeA == q.plane
  let held := inA || p.planeB == q.plane
  let useB := if held then !inA else !p.inB
  let loadStart := max issue (max p.loaderFree (if useB then p.freeB else p.freeA))
  let entry := if held then limit else max limit (loadStart + 256)
  let lastRow := entry + q.feed.total - q.feed.last
  let lastDep := lastRow + passLatency q.d
  let p1 : Pipe := if useB then { p with planeB := q.plane, freeB := lastRow + 1 }
    else { p with planeA := q.plane, freeA := lastRow + 1 }
  ({ p1 with inB := useB, loaderFree := if held then p.loaderFree else loadStart + 256, entryLimit := entry + q.feed.total, lastDeposit := max p.lastDeposit lastDep,
             transposed := q.trans, shape := q.shape }, entry, lastDep, !held, entry - limit)

/-- The counters of R115 and R119 for a pass. `busy` is the cycles it adds with a pass in the array. -/
def countPass (s : State) (g : Nat) (q : PassReq) (load : Bool) (exposed busy : Nat) : State :=
  let pn := pnArray g
  let f := q.feed
  let s1 := ((s.count pn 0 1).count pn 1 f.slots.length).count pn 2 f.extra
  let s2 := ((s1.count pn 3 f.spacing).count pn 4 q.masked).count pn 5 (if load then 1 else 0)
  ((s2.count pn 6 exposed).count pn 7 busy).count (pnAccum g) 0 f.tails

/-- Tiles that the sequencer stages itself are counted as staged and as resident (R374, R377; log 22); how long a pass waits
on them is open (R394; log 68). -/
def countStaged (s : State) (g n : Nat) : State :=
  let s1 := (s.count (pnLs g) 1 n).count (pnLs g) 0 n
  if n = 0 then s1 else s1.countOpen (pnLs g) 2

/-- The counters of R546 for the feed and the load of a pass, and of R394 for the tiles staged from slab for it. In which form
the bytes of R546 are counted is open: each feed and each load moves them on by a free amount (log 68). -/
def countLoad (s : State) (g : Nat) (q : PassReq) (load : Bool) : State :=
  let s1 := (countStaged s g ((if load && q.statSlab then 1 else 0) + if q.streamSlab then 1 else 0)).countOpen (pnFeed g) 0
  if load then ((s1.countOpen (pnFeed g) 1).count (pnFeed g) 3 (if q.cross then 1 else 0)).count (pnFeed g) 4 q.lows else s1

/-- Passes whose loads are banded across the block axis, or not (R212). -/
def crossBy (b : Bool) (l : List PassReq) : List PassReq := l.map fun q => { q with cross := b }

/-- LATENCY_MODE is SERIAL on a core (R111). -/
def serialMode (s : State) (g : Nat) : Bool := (s.reg (pnSeq g) 0x010).getLsbD 0

/-! ### Products (R69, R141, R142) -/

/-- The exact sum of the products of a row and a column, its class flags, and where flags arose: for each product with
a class, its class and position. -/
structure Dot where
  v    : Int
  cls  : Cls
  seen : List (Cls × Nat)

def dotOf (xs ws : List Val) : Dot :=
  (xs.zip ws).zipIdx.foldl (fun acc e =>
    let p := e.1.1.mul e.1.2
    let c := clsOf p
    if c = {} then { acc with v := acc.v + unitsOf p }
    else { acc with cls := { nan := acc.cls.nan || c.nan, pinf := acc.cls.pinf || c.pinf, ninf := acc.cls.ninf || c.ninf },
                    seen := acc.seen ++ [(c, e.2)] }) { v := 0, cls := {}, seen := [] }

/-- The position at which a deposit makes a slot NaN: its first NaN product, or the infinity opposite to one already
there or before it (R142). -/
def Dot.nanPos (d : Dot) (q : Slot) : Nat :=
  let step (acc : (Bool × Bool) × Option Nat) (e : Cls × Nat) : (Bool × Bool) × Option Nat :=
    match acc.2 with
    | some _ => acc
    | none =>
      let p := acc.1.1 || e.1.pinf
      let n := acc.1.2 || e.1.ninf
      ((p, n), if e.1.nan || (p && n) then some e.2 else none)
  ((d.seen.foldl step ((q.pinf, q.ninf), none)).2).getD 0

/-! ### Output tiles -/

/-- What a command has gathered while it runs: the state, its readout summary, its NaN and overflow traps already
raised, tiles committed, and the writes of its outputs. -/
structure Run where
  s       : State
  summary : Nat := 0
  nanDone : Bool := false
  ovfDone : Bool := false
  tiles   : Nat := 0
  rowEmpty : Bool := false
  out     : Overlay := []
  /-- tiles of operand staging that `out` writes into (R374) -/
  land    : List (Nat × Nat) := []
  halted  : Bool := false
  /-- slots it has deposited into, for a halt (R143) -/
  touched : List Nat := []
  bad     : Option Nat := none
  /-- the failure status it has met in place of OK -/
  status  : Nat := 0
  /-- the completion entry's DETAIL (R187) -/
  detail  : Nat := 0

/-- A tensor lies in operand staging (R389). -/
def inStaging (t : Tensor) : Bool := tierOf t.base == 0 && decide (bits t.base 23 0 < scratchLo)

/-- What rows of a destination in operand staging land as: the tiles of a TILED one that they meet, of a ROW_MAJOR
one the span of the rows, which may be tiles of another tensor, by offset and length (R374; log 22). -/
def landedTiles (y : Tensor) (rows : List Nat) : List (Nat × Nat) :=
  if !inStaging y then []
  else if y.tiled then
    let bytes := y.tr * y.tc * fmtBits y.fmt / 8
    let firsts := (rows.dedup.flatMap fun r => (List.range (ceilDiv y.e0 y.tc)).map fun k =>
      let i := y.rowIdx r
      y.index (k * y.tc) (i.1 / y.tr * y.tr) i.2.1 i.2.2).dedup
    firsts.map fun i => (bits y.base 23 0 + i * fmtBits y.fmt / 8, bytes)
  else match rows.map (y.at 0) with
    | [] => []
    | r :: rest =>
      let lo := rest.foldl min r * fmtBits y.fmt / 8
      [(bits y.base 23 0 + lo, ceilDiv ((rest.foldl max r + y.e0) * fmtBits y.fmt) 8 - lo)]

/-- Slots are read out in row order into the elements of an output (R136): the summary, overflows noted; under READOUT they
become FREE (R134). `tile` is the tile's first output row and column; `ks` are (row, column, slot key). -/
def readSlots (r : Run) (w : Who) (cmd : CmdRec) (side keep : Bool) (tile : Nat × Nat) (ks : List (Nat × Nat × Nat)) :
    Run × List OutElem :=
  let e := (r.s.core w.core).edge side
  let qs := ks.map fun k => (k, (e.slot? k.2.2).getD {})
  let ovfs := (qs.filter fun q => q.2.swept.ovf).map fun q => (q.1.2.1, q.1.2.2)
  let s1 := noteOverflows r.s w cmd side r.ovfDone tile ovfs
  let s2 := if keep then s1
    else s1.modCore w.core fun c => c.setEdge side ((c.edge side).freeAll (ks.map fun k => k.2.2))
  ({ r with s := s2, ovfDone := r.ovfDone || !ovfs.isEmpty,
            summary := qs.foldl (fun (a : Nat) (q : (Nat × Nat × Nat) × Slot) => Nat.lor a q.2.summary) r.summary },
   qs.map fun q => { r := q.1.1, c := q.1.2.1, v := q.2.value })

/-- Elements go to an output tensor, rounded once (R60); rounding past the format sets the summary's OVF bit (R138). -/
def Run.put (r : Run) (p : Planes) (rc : RoundCtx) (es : List OutElem) : Run :=
  let o := putTensor r.s p rc es r.out
  { r with out := o.1, land := r.land ++ landedTiles p.t (es.map OutElem.r), summary := if o.2 then Nat.lor r.summary 4 else r.summary }

/-- The bytes of an exact-compact tile go out at a key; XCW elements are counted (R146). -/
def Run.putXc (r : Run) (w : Who) (key depcnt : Nat) (qs : List Slot) : Run :=
  let t := xcTile depcnt qs
  { r with s := r.s.count (pnAccum w.core) 4 t.2,
           land := if tierOf key = 0 ∧ bits key 23 0 < scratchLo then r.land ++ [(bits key 23 0, t.1.length)] else r.land,
           out := (t.1.zipIdx key).foldl (fun m e => mput m e.2 e.1) r.out }

/-- The slots of an edge in row-major order, as an exact-compact readout takes them: a FREE or masked position is a zero
element (R560). -/
def xcSlots (e : Edge) (ks : List (Nat × Nat × Option Nat)) : List ((Nat × Nat × Option Nat) × Slot) :=
  ks.map fun k => (k, ((k.2.2.bind fun i => e.slot? i)).getD {})

/-- Slots are taken for an exact-compact readout: overflows noted, the summary, and under READOUT they become FREE. -/
def takeSlotsXc (r : Run) (w : Who) (cmd : CmdRec) (side keep : Bool) (tile : Nat × Nat)
    (ks : List (Nat × Nat × Option Nat)) : Run × List Slot :=
  let qs := xcSlots ((r.s.core w.core).edge side) ks
  let ovfs := (qs.filter fun q => q.2.swept.ovf).map fun q => (q.1.2.1, q.1.2.2.getD 0)
  let s1 := noteOverflows r.s w cmd side r.ovfDone tile ovfs
  let s2 := if keep then s1
    else s1.modCore w.core fun c => c.setEdge side ((c.edge side).freeAll (ks.filterMap fun k => k.2.2))
  ({ r with s := s2, ovfDone := r.ovfDone || !ovfs.isEmpty,
            summary := qs.foldl (fun (a : Nat) (q : (Nat × Nat × Option Nat) × Slot) => Nat.lor a q.2.summary) r.summary }, qs.map Prod.snd)

/-- The exact-compact readout of a tile: its slots go out at a key with the edge's deposit count (R149, R560). -/
def readSlotsXc (r : Run) (w : Who) (cmd : CmdRec) (side keep : Bool) (tile : Nat × Nat) (key : Nat)
    (ks : List (Nat × Nat × Option Nat)) : Run :=
  let z := takeSlotsXc r w cmd side keep tile ks
  z.1.putXc w key ((r.s.core w.core).edge side).depcnt.toNat z.2

/-! ### Issue and commit (R89, R91, R202–R204) -/

/-- A queue of the context that is being switched out has not come to its boundary: until 3,125 bt after the switch its front
command may still commit (R466; log 140). -/
def queueFinishes (s : State) (g : Nat) (q : QueueId) (x : Nat) : Bool :=
  let c := s.core g
  c.incoming.isSome && c.cur == some x && !c.atBoundary.contains q &&
    (partOfCore s g).any fun p => ((s.part p).ctx x).phase == .runnable &&
      (s.part p).switchAt.any fun t => decide (s.bell.count.toNat ≤ t.toNat + 3125)

/-- The front command of a queue, if it may issue on its core: the core is on, its context is switched in and runnable, or
finishes its tile, and its die controller is in service (R21, R180, R464–R466). -/
def frontCmd (s : State) (g : Nat) (q : QueueId) : Option CmdRec :=
  match (s.core g).queue q with
  | [] => none
  | r :: _ =>
    if coreOn s g && (ctxRuns s g r.ctx || queueFinishes s g q r.ctx) && !(dieCtlOf s g).halted then some r else none

/-- The front command leaves its queue, which in a switch has then come to its boundary. -/
def popQueue (s : State) (g : Nat) (q : QueueId) : State :=
  s.modCore g fun c =>
    { c.setQueue q ((c.queue q).drop 1) with atBoundary := if c.incoming.isSome then q :: c.atBoundary else c.atBoundary }

/-- A command's dependences are met (R196), or one of them failed (R189), or it waits. -/
inductive Deps where
  | met | failed | waiting
  deriving DecidableEq, Repr

def depsOf (r : CmdRec) : Deps := if r.deps ≠ [] then .waiting else if r.depFailed then .failed else .met

/-- A tile that is landing in operand staging meets a span (R89, R374). -/
def landingMeets (s : State) (g : Nat) (spans : List (Nat × Nat)) : Bool :=
  (s.core g).landing.any fun l => spans.any fun e => decide (l.1 < e.1 + e.2) && decide (e.1 < l.1 + l.2)

/-- An output of a record needs write-back space: the bytes bound outside local store, at most the whole area (R375). -/
def wbBytes (t : Option Tensor) : Nat :=
  match t with
  | some y => if tierOf y.base != 0 then min y.bytes 0x80000 else 0
  | none => 0

/-- Bytes of the write-back area that commands in flight, and the requests of an open gather group, hold (R89, R375). -/
def wbReserved (s : State) (g : Nat) : Nat :=
  ((s.core g).inflight.map InFlight.reserved).sum +
    ((s.core g).gather.elim 0 fun q => (q.reqs.map fun r => wbBytes (r.tensor? 6)).sum)

/-- An output tile of `n` bytes bound outside local store can be reserved in the write-back area (R375). A tile larger
than the whole area waits until the area is empty (log 20). -/
def wbFits (s : State) (g n : Nat) : Bool := decide (wbReserved s g + n ≤ 0x80000) || wbReserved s g == 0

/-- The output runs of a command that lie in this device's memory, and those bound for regions that others lend. -/
def localRuns (o : Overlay) : List (Nat × List Byte) := runsOf (o.filter fun e => !keyRemote e.1)
def remoteRuns (o : Overlay) : List (Nat × List Byte) := runsOf (o.filter fun e => keyRemote e.1)

/-- A command has run: it leaves its queue, its writes are made, and it is in flight until its write-backs are
acknowledged (R202). A write that could not be made fails it with UNCORRECTABLE_MEM, a halted one too (R202, R372, R409); a
lender that cannot be reached, with LINK_TIMEOUT (R438). How long its tiles wait on the write-back area is open (R394; log
68). `end_` is the ACLK cycle of its last commit and `reserved` the write-back space it holds. The tiles of operand staging
that it wrote into are resident again once they have landed (R374). -/
def commitRun (g : Nat) (q : QueueId) (cmd : CmdRec) (w : Who) (r : Run) (end_ reserved : Nat) : State :=
  let st := memStoresBy r.s (ctxTag w.part w.ctx) (if q = .mq then some g else none) (localRuns r.out)
  let s1 := popQueue (st.1.count (pnCnt g) 4 r.tiles) g q
  let s2 := match st.2 with
    | some u => if r.status = stUncorrectable then s1 else raiseBad s1 w.part (some w.ctx) cmd.cmdId u
    | none => s1
  let sent := sendWrites s2 w (.command g q cmd.idx) (remoteRuns r.out)
  let status := if r.status ≠ 0 ∧ ¬ (r.status = stHalted ∧ st.2.isSome) then r.status else if st.2.isSome then stUncorrectable
    else if sent.2.2 then stOk else stLinkTimeout
  let s3 := if status = stLinkTimeout then lostTrap sent.1 w cmd.cmdId ((remoteRuns r.out).map Prod.fst) else sent.1
  let s4 := if reserved = 0 then s3 else s3.countOpen (pnLs g) 3
  s4.modCore g fun c =>
    { c with inflight := c.inflight ++ [{ queue := q, cmd := cmd, status := BitVec.ofNat 8 status,
                                          summary := BitVec.ofNat 6 r.summary, rowEmpty := r.rowEmpty,
                                          detail := BitVec.ofNat 16 r.detail,
                                          tiles := r.tiles, reserved := reserved, linkWait := sent.2.1, endAt := end_ }],
             landing := c.landing ++ r.land.dedup, aclk := max c.aclk end_ }

/-- A command that completes at issue without running: its entry is written at once. -/
def completeFront (s : State) (g : Nat) (q : QueueId) (cmd : CmdRec) (c : Completion) : State :=
  completeCmd (popQueue s g q) g (some q) cmd c

/-- A command refused at issue (R194). -/
def refuseFront (s : State) (g : Nat) (q : QueueId) (cmd : CmdRec) (reason : Nat) : State :=
  refuseCmd (popQueue s g q) g (some q) cmd reason 0

/-- A command whose reads of spans met an uncorrectable unit: it fails before its tile commits, nothing of it is kept (R410). -/
def failBad (s : State) (g : Nat) (q : QueueId) (cmd : CmdRec) (u : Nat) (spans : List (Nat × Nat)) : State :=
  let s1 := raiseBadIn s ((partOfCore s g).getD 4) (some cmd.ctx) cmd.cmdId u spans
  completeFront s1 g q cmd { status := stUncorrectable }

/-- A command that fails with DEP_FAILED: nothing of it runs (R189). -/
def failDep (s : State) (g : Nat) (q : QueueId) (cmd : CmdRec) : State :=
  completeFront s g q cmd { status := stDepFailed }

/-- A halt at a tile boundary (R143, R204): the slots the command deposited into become FREE, its context is suspended on
every core of the partition, and it completes with HALTED once the write-backs of its committed tiles are acknowledged
(R202). -/
def haltCmd (g : Nat) (q : QueueId) (cmd : CmdRec) (w : Who) (r : Run) (side : Bool) (end_ reserved : Nat) : State :=
  let s1 := r.s.modCore g fun c => c.setEdge side ((c.edge side).freeAll r.touched).settle
  let s2 := s1.modCtx w.part w.ctx fun c => { c with phase := .suspended }
  commitRun g q cmd w { r with s := s2, status := stHalted } end_ reserved

/-! ### Issue checks on slots (R133, R203) -/

/-- Slot keys of a command against an edge: KEEP needs every slot HELD, another begin mode every slot FREE. -/
def slotsRefused (e : Edge) (keep : Bool) (ks : List Nat) : Bool :=
  if keep then ks.any fun k => (e.slot? k).isNone else ks.any fun k => (e.slot? k).isSome

/-- A command would extend a chain past 66 commands (R203, reason 0x09). -/
def chainTooLong (e : Edge) (keep : Bool) (ks : List Nat) : Bool :=
  keep && e.chains.any fun c => decide (66 ≤ c.cmds.length) && c.slots.any fun k => ks.contains k

/-- The chains after a command has joined: one that it begins, or those whose slots it continues (R203). -/
def Edge.join (e : Edge) (cmd : CmdRec) (keep : Bool) (ks : List Nat) : Edge :=
  if keep then
    { e with chains := e.chains.map fun c => if c.slots.any ks.contains then { c with cmds := c.cmds ++ [cmd] } else c }
  else { e with chains := e.chains ++ [{ slots := ks, cmds := [cmd] }] }

/-! ### Times of a command -/

/-- A pass as it has entered: its entry cycle, its last deposit and its feed. -/
structure Entered where
  entry : Nat
  last  : Nat
  feed  : Feed

/-- Passes enter one after the other; the counters of R115 and R119 follow, and the array queue's next command issues with
the last of them (R96; log 34). -/
def enterPasses (g issue dep : Nat) (qs : List PassReq) (s : State) : State × List Entered :=
  qs.foldl (fun acc q =>
    let c := acc.1.core g
    let r := enterPass c.pipe (serialMode acc.1 g) issue dep q
    let busy := r.1.lastDeposit - max c.pipe.lastDeposit r.2.1
    let s1 := countPass (acc.1.setCore g { c with pipe := r.1, issueAt := max c.issueAt r.2.1 }) g q r.2.2.2.1 r.2.2.2.2 busy
    (countLoad s1 g q r.2.2.2.1, acc.2 ++ [{ entry := r.2.1, last := r.2.2.1, feed := q.feed }])) (s, [])

/-- The cycle at which a command of the array queue issues: not before its predecessor's last pass has entered, nor before
the commits of the commands that it names (R89, R96, R196). -/
def issueCycle (s : State) (g : Nat) (r : CmdRec) : Nat := max (s.core g).issueAt r.after

/-- The passes of a group enter after the last deposit before them (R217). -/
def enterGroup (g issue dep : Nat) (qs : List PassReq) (s : State) : State × List Entered :=
  let last := (s.core g).pipe.lastDeposit
  enterPasses g issue (if last = 0 then dep else max dep (last + 1)) qs s

/-- What the groups of an attention command have come to: the state, when the sweeps of the vector unit end, by round when
the second group may enter, the last deposit, and the deposits of the second groups. -/
structure Rounds where
  s        : State
  swept    : Nat
  ready    : SMap Nat := []
  last     : Nat
  deposits : Nat := 0

/-- The two groups of each round in the order 1(0), 1(1), 2(0), 1(2), 2(1), …, 2(n − 1) (R217, R226). The sweeps of a round
take `sweep` cycles from its first group's last deposit and the end of the sweeps before it (R218); its second group
enters once they have ended. -/
def runRounds (g issue dep n : Nat) (g1 g2 : Nat → List PassReq) (sweep : Nat → Nat) (s : State) : Rounds :=
  let order : List (Bool × Nat) := if n = 0 then [] else
    (true, 0) :: (List.range n).flatMap fun j => (if j + 1 < n then [(true, j + 1)] else []) ++ [(false, j)]
  order.foldl (fun (acc : Rounds) o =>
    if o.1 then
      let e := enterGroup g issue dep (g1 o.2) acc.s
      let last := (e.2.map Entered.last).foldl max 0
      let t := max acc.swept (last + 1) + sweep o.2
      { acc with s := e.1, swept := t, ready := mput acc.ready o.2 t, last := max acc.last last }
    else
      let e := enterGroup g issue (max dep (mget 0 acc.ready o.2)) (g2 o.2) acc.s
      { acc with s := e.1, last := max acc.last ((e.2.map Entered.last).foldl max 0),
                 deposits := acc.deposits + (e.2.map fun x => x.feed.deposits).sum })
    { s := s, swept := issue, last := issue }

end Sys2Proof.Machine
end

