-- ==== Sys2Proof/Machine/Checks.lean ====
section
/-! DEFINITION. The checks of a record that every opcode shares: the header, the words it lists, the reading of what its
pointers name, and the roles of tensors (R182–R186, R192, R194, R376, R385, R390). -/

namespace Sys2Proof.Machine

/-! ### Opcodes (R180, R185) -/

def opNop : Nat := 0x00
def opMatmul : Nat := 0x01
def opMatmulT : Nat := 0x02
def opAccRead : Nat := 0x03
def opReduceX : Nat := 0x04
def opAttnFwd : Nat := 0x10
def opAttnBwd : Nat := 0x11
def opAttnDecode : Nat := 0x12
def opCouch : Nat := 0x13
def opConv : Nat := 0x18
def opVec : Nat := 0x20
def opVecProg : Nat := 0x21
def opUpdateP1 : Nat := 0x28
def opUpdateP2 : Nat := 0x29
def opMove : Nat := 0x30
def opGather : Nat := 0x31
def opScatter : Nat := 0x32
def opSignal : Nat := 0x38
def opWait : Nat := 0x39
def opFence : Nat := 0x3A
def opBoundary : Nat := 0x3F

/-- An opcode, with its queue, the operand words it lists and those of them that point to tensor descriptors. -/
structure OpRow where
  op    : Nat
  queue : Option QueueId
  words : List Nat
  descs : List Nat := []
  xc    : Bool := false

/-- The opcode table (R180, R185). -/
def opTable : List OpRow :=
  [{ op := opNop, queue := none, words := [] },
   { op := opMatmul, queue := some .aq, words := [4, 5, 6, 7, 8], descs := [4, 5, 6, 7], xc := true },
   { op := opMatmulT, queue := some .aq, words := [4, 5, 6, 8], descs := [4, 5, 6], xc := true },
   { op := opAccRead, queue := some .aq, words := [6], descs := [6], xc := true },
   { op := opReduceX, queue := some .aq, words := [4, 5, 6], descs := [6], xc := true },
   { op := opAttnFwd, queue := some .aq, words := [4, 5, 6, 7, 8, 9, 14], descs := [4, 5, 6, 7] },
   { op := opAttnBwd, queue := some .aq, words := [4, 5, 6, 7, 8, 9, 10, 11, 12, 13, 14],
     descs := [4, 5, 6, 7, 8, 11, 12, 13], xc := true },
   { op := opAttnDecode, queue := some .aq, words := [4, 5, 6, 7, 9, 14], descs := [4, 6] },
   { op := opCouch, queue := some .mq, words := [4, 5, 6], descs := [4, 5] },
   { op := opConv, queue := some .aq, words := [4, 5, 6, 7, 8], descs := [4, 5, 6, 7], xc := true },
   { op := opVec, queue := some .vq, words := [4, 5, 6, 7, 8, 10, 11], descs := [4, 5, 6, 7, 8] },
   { op := opVecProg, queue := some .vq, words := [4, 5, 6, 7, 8, 9, 10], descs := [4, 5, 6, 7, 8, 9] },
   { op := opUpdateP1, queue := some .vq, words := [4, 5] },
   { op := opUpdateP2, queue := some .vq, words := [4, 5] },
   { op := opMove, queue := some .mq, words := [4, 5], descs := [4, 5] },
   { op := opGather, queue := some .mq, words := [4, 5, 6, 7], descs := [4, 6] },
   { op := opScatter, queue := some .mq, words := [4, 5, 6, 7], descs := [4, 6] },
   { op := opSignal, queue := none, words := [4, 5] },
   { op := opWait, queue := none, words := [4, 5, 6] },
   { op := opFence, queue := none, words := [] },
   { op := opBoundary, queue := none, words := [] }]

def opRow? (op : Nat) : Option OpRow := opTable.find? fun r => r.op == op

/-- The queue that a record goes to; none for an opcode that acts at dispatch or is reserved. -/
def CmdRec.queue? (r : CmdRec) : Option QueueId := (opRow? r.opcode).bind OpRow.queue

/-! ### The header (R182) -/

/-- The check of a record's header and of the words it does not list: 0, or the reason. -/
def checkHeader (r : CmdRec) : Nat :=
  match opRow? r.opcode with
  | none => 0x01
  | some o =>
    if bits (r.w 0) 15 6 ≠ 0 ∨ bits (r.w 3) 31 19 ≠ 0 then 0x01
    else if r.shape = 3 ∨ (r.accEnd = 3 ∧ r.opcode ≠ opAttnFwd ∧ r.opcode ≠ opAttnBwd) then 0x01
    else if 4 < r.rmode then 0x07
    else if r.xcOut ∧ !o.xc then 0x01
    else if r.gatherFlag ∧ r.opcode ≠ opMatmul then 0x01
    else if (List.range 12).any fun k => !o.words.contains (4 + k) && r.w (4 + k) != 0 then 0x01
    else 0

/-! ### Reading what pointers name (R183, R184) -/

/-- What a check gives: the words read for the record, a refusal with its reason and pointer, an uncorrectable unit that a
read met, or a status that the check decides. -/
inductive Fetch where
  | ok (ds : List (Nat × List Word))
  | refuse (reason pointer : Nat)
  | bad (unit : Nat) (spans : List (Nat × Nat))
  /-- the command completes with a failure status and its trap's code and DETAIL (R228, R241) -/
  | fails (status code detail : Nat)

/-- Two steps of a check, one after the other. -/
def Fetch.bind (a : Fetch) (f : List (Nat × List Word) → Fetch) : Fetch :=
  match a with
  | .ok ds => f ds
  | a => a

/-- Words as they stood at the record's doorbell, where that has latched them (R184; log 114), else as they stand now. -/
def Who.asLatched (w : Who) (key n : Nat) (now : List Word) : List Word :=
  match w.latched.find? fun e => e.1 == key && decide (n ≤ e.2.length) with
  | some e => e.2.take n
  | none => now

/-- The words of `n` bytes behind a pointer, read under operand number `k` after what is already there. -/
def fetchAt (s : State) (w : Who) (ds : List (Nat × List Word)) (k ptr n align : Nat) : Fetch :=
  let reason := checkPtr s w ptr n align
  let key := ptrKey s w ptr
  if reason ≠ 0 then .refuse reason ptr
  else match badUnit s key n with
  | some u => .bad u [(key, n)]
  | none => .ok (ds ++ [(k, w.asLatched key (ceilDiv n 4) (viewWords s key (ceilDiv n 4)))])

/-- A tensor descriptor is read and checked in itself; 0 stands for none. -/
def fetchDesc (s : State) (w : Who) (r : CmdRec) (ds : List (Nat × List Word)) (k : Nat) : Fetch :=
  if r.w k = 0 then .ok ds
  else (fetchAt s w [] k (r.w k) 64 64).bind fun out =>
    let ws := (out.head?.map Prod.snd).getD []
    let reason := checkTensor ws
    if reason ≠ 0 then .refuse reason (r.w k) else .ok (ds ++ [(k, ws)])

/-- Every tensor descriptor of a record. -/
def fetchDescs (s : State) (w : Who) (r : CmdRec) (ks : List Nat) : Fetch :=
  ks.foldl (fun acc k => acc.bind fun ds => fetchDesc s w r ds k) (.ok [])

/-- A record with what has been read for it. -/
def CmdRec.withDescs (r : CmdRec) (ds : List (Nat × List Word)) : CmdRec := { r with descs := ds }

/-- The first reason of a list of checks that is not 0, each with the pointer it concerns (the order: log 126). -/
def firstReason (cs : List (Nat × Nat)) (ds : List (Nat × List Word)) : Fetch :=
  match cs.find? fun c => c.1 != 0 with
  | some c => .refuse c.1 c.2
  | none => .ok ds

/-- A condition that must not hold, with its reason. -/
def refuseIf (b : Bool) (reason : Nat) : Nat := if b then reason else 0

/-- A command completes with a failure status that its check decides, and raises the trap of the same name (R188, R189).
FORMAT_FLOOR is found by the die controller's descriptor check, POSITION_RANGE is recorded at the core (R40; log 23). -/
def failCmd (s : State) (g : Nat) (q : Option QueueId) (r : CmdRec) (status code detail : Nat) : State :=
  let core := code == trapPosition
  let t : TrapInfo := { code := code, level := if core then 0 else 1, part := partOfCore s g, ctx := some r.ctx,
                        core := if core then some g else none, cmdId := r.cmdId, detail := detail }
  completeCmd (raiseTrap s (if core then pnSeq g else pnDieCtlOf g) t) g q r { status := status }

/-! ### Roles of tensors -/

/-- Spans that an issuer may name. -/
def spansGranted (s : State) (w : Who) (write : Bool) (sp : List (Nat × Nat)) : Bool :=
  sp.all fun e => granted s w write e.1 e.2

/-- A span lies in software's part of operand staging, or in the issuing core's own slab (R376). -/
def stagedOrSlab (s : State) (w : Who) (e : Nat × Nat) : Bool :=
  (tierOf e.1 == 0 && bits e.1 43 24 == 0 && inStage s w (bits e.1 23 0) e.2) ||
    (tierOf e.1 == 1 && bits e.1 43 36 == w.core && granted s w false e.1 e.2)

/-- An operand or preload of the array: a format of R48, TILED, in operand staging or the own slab (R376). -/
def checkArrayOperand (s : State) (w : Who) (t : Tensor) : Nat :=
  if 0x09 < t.fmt then 0x02
  else if !t.tiled then 0x03
  else if !(t.spans.all (stagedOrSlab s w)) then 0x03
  else 0

/-- An output of a readout: a format of R48 with its blocks along dim 0, those of R104 at the side edge, or the form of
R560 under XC_OUT, whose whole length is granted; `xcBytes` is the largest form of its tiles. -/
def checkOutput (s : State) (w : Who) (side xc : Bool) (xcBytes : Nat) (t : Tensor) : Nat :=
  if xc then
    (if checkXcTensor t ≠ 0 then checkXcTensor t
     else if !(granted s w true t.base xcBytes) then 0x03 else 0)
  else if 0x08 < t.fmt then 0x02
  else if side && !([fmtFp32, fmtBf16, fmtE4m3, fmtE5m2].contains t.fmt) then 0x02
  else if isMx t.fmt && t.axis != 0 then 0x02
  else if !(spansGranted s w true t.spans) then 0x03
  else 0

/-- SR on a tensor with 2^40 elements or more (R65). -/
def checkSr (r : CmdRec) (t : Tensor) : Nat := refuseIf (r.rmode == rmSr && decide (2 ^ 40 ≤ t.size)) 0x07

/-- A pointer that the opcode needs is absent. -/
def checkPresent (r : CmdRec) (k : Nat) : Nat := refuseIf (r.w k == 0) 0x03

/-! ### What an issue needs of memory -/

/-- The keys of a tensor's spans. -/
def keySpans (s : State) (w : Who) (t : Tensor) : List (Nat × Nat) := t.spans.map fun e => (keyOf s w e.1, e.2)

/-- Offsets in operand staging that spans name, for the tiles that are landing (R374). -/
def stageSpans (t : Tensor) : List (Nat × Nat) :=
  (t.spans.filter fun e => tierOf e.1 == 0).map fun e => (bits e.1 23 0, e.2)

/-- A tensor's planes lie in a tier. -/
def inSlab (t : Tensor) : Bool := tierOf t.base == 1

/-- An output of `n` bytes needs the write-back area: its destination lies outside local store (R375). -/
def needsWb (t : Tensor) : Bool := tierOf t.base != 0

/-- Why slots refuse a command at issue, or 0 (R133, R203). -/
def slotsRefusal (e : Edge) (keep : Bool) (ks : List Nat) : Nat :=
  if slotsRefused e keep ks then 0x06 else refuseIf (chainTooLong e keep ks) 0x09

end Sys2Proof.Machine
end

