-- ==== Sys2Proof/Machine/Matrix.lean ====
section
/-! DEFINITION. MATMUL, MATMUL_T, gather groups, ACC_READ and REDUCE_X (chapters "The matrix array" and "Long
accumulation"). -/

namespace Sys2Proof.Machine

/-! ### Checks of MATMUL and MATMUL_T (R186, R194) -/

/-- Fold factor and columns of a shape (R86). -/
def foldOf (shape : Nat) : Nat := 2 ^ shape
def shapeCols (shape : Nat) : Nat := 256 * foldOf shape
/-- Held rows of a shape (R86). -/
def heldRows (shape : Nat) : Nat := 128 / foldOf shape

/-- The K and N extents of a stationary tensor, and what a command reduces over and puts out. -/
def redLen (isT : Bool) (w : Tensor) : Nat := if isT then w.e0 else w.e1
def outLen (isT : Bool) (w : Tensor) : Nat := if isT then w.e1 else w.e0

/-- Bytes of the exact-compact tiles of an output of `rows` × `cols` (R560). -/
def xcBytesOf (rows cols rlim clim : Nat) : Nat :=
  ((List.range (ceilDiv rows rlim)).flatMap fun i => (List.range (ceilDiv cols clim)).map fun j =>
    xcLargest (min rlim (rows - i * rlim) * min clim (cols - j * clim))).sum

/-- The reasons of a MATMUL or MATMUL_T whose descriptors have been read. -/
def matReasons (s : State) (w : Who) (r : CmdRec) (isT : Bool) : List (Nat × Nat) :=
  let x := (r.tensor? 4).getD (tensorOf [])
  let wt := (r.tensor? 5).getD (tensorOf [])
  let hold := r.accEnd = 1
  let pre := r.accBegin = 1 ∨ r.accBegin = 2
  let head := [(refuseIf (hold != (r.w 6 == 0)) 0x06, 0), (refuseIf (isT && r.shape == 2) 0x05, 0),
    (refuseIf (isT && pre) 0x06, 0), (checkPresent r 4, 0), (checkPresent r 5, 0), (refuseIf (pre && r.w 7 == 0) 0x03, 0),
    (checkArrayOperand s w x, r.w 4), (checkArrayOperand s w wt, r.w 5),
    (refuseIf (isMx x.fmt && x.axis != 0) 0x02, r.w 4),
    (refuseIf (wt.e2 * wt.e3 != 1 || x.e0 != redLen isT wt) 0x04, 0)]
  let outs := match r.tensor? 6 with
    | none => []
    | some y =>
      [(refuseIf (y.e0 != outLen isT wt || y.rows != x.rows) 0x04, r.w 6),
       (checkOutput s w isT r.xcOut (xcBytesOf y.rows y.cols (heldRows r.shape) (shapeCols r.shape)) y, r.w 6),
       (checkSr r y, r.w 6)]
  let pres := match r.tensor? 7 with
    | none => []
    | some p =>
      if pre then
        [(checkArrayOperand s w p, r.w 7), (refuseIf (isMx p.fmt && p.axis != 0) 0x02, r.w 7),
         (refuseIf (p.e0 != wt.e0 || p.rows != (if r.accBegin = 1 then 1 else x.rows)) 0x04, r.w 7)]
      else []
  let oneTile := refuseIf (r.accEnd == 1 && (decide (heldRows r.shape < x.rows) ||
    decide ((if isT then 256 / foldOf r.shape else shapeCols r.shape) < outLen isT wt))) 0x05
  head ++ outs ++ pres ++ [(oneTile, 0)]

/-- The check of a MATMUL or MATMUL_T: descriptors, then the column mask, ceil(N ÷ 8) bytes (R101, R184). -/
def fetchMatmul (s : State) (w : Who) (r : CmdRec) (isT : Bool) : Fetch :=
  (fetchDescs s w r (if isT then [4, 5, 6] else [4, 5, 6, 7])).bind fun ds =>
    (firstReason (matReasons s w (r.withDescs ds) isT) ds).bind fun ds =>
      if r.w 8 = 0 then .ok ds
      else
        let n := outLen isT (((r.withDescs ds).tensor? 5).getD (tensorOf []))
        fetchAt s w ds 8 (r.w 8) (ceilDiv n 8) 64

/-- A column of the output is masked (R101). -/
def colMasked (r : CmdRec) (c : Nat) : Bool :=
  match r.read? 8 with
  | none => false
  | some ws => (wordAt ws (c / 32)).testBit (c % 32)

/-! ### The plan of passes (R84, R86, R186) -/

/-- A pass: the plane its load fills, the reduction positions it covers, the bands at the edge positions with the output
column of each, the streaming block of each position, and its load's first K block with the block positions its segments
stand for. -/
structure PassPlan where
  plane  : Plane
  red    : List Nat
  stat   : List (List (Option Band))
  outs   : List Nat
  blocks : List Nat
  first  : Nat
  segs   : List Nat
  lows   : Nat := 0

/-- A group of output columns and its passes in K order; `shared` where the loads of another group deposit into its slots
too, because a block-row is split between them (R84). -/
structure PassGroup where
  cols   : List Nat
  passes : List PassPlan
  shared : Bool := false

/-- The name of the load that a list of row sets makes; `form` says how the tensor's elements are read. -/
def loadIdOf (w : Tensor) (form shape n0 cols : Nat) (l : List RowSet) : LoadId :=
  { base := w.base, sbase := w.sbase, fmt := w.fmt, form := form, shape := shape, n0 := n0, cols := cols, sets := l.map RowSet.key }

/-- The band of a row set in a column: the low half of a split FP32 element has its offset 12 lower (R58, R77). -/
def rowSetBand (bs : List (List (Option Band))) (rs : RowSet) : Option Band :=
  (bandOr (bs.getD rs.block []) rs.band).map fun b => if rs.low then b.low else b

/-- The plane of a load reduced along its rows (R76–R78): `wb` gives the bands of a column, `x` the element at a reduction
position and a column, none beyond the tile. -/
def columnPlane (id : LoadId) (cols : List Nat) (l : List RowSet) (wb : Nat → List (List (Option Band)))
    (x : Nat → Nat → Option Elem) : Plane :=
  let at_ (k : Nat) : RowSet := l.getD k { block := 0, band := 0, low := false }
  planeOf id
    (fun k i c => (x (32 * (at_ k).block + i) (cols.getD c 0)).map
      (weightWord (bandOr ((wb (cols.getD c 0)).getD (at_ k).block []) (at_ k).band) (at_ k)))
    (fun k c => if c < cols.length then rowSetBand (wb (cols.getD c 0)) (at_ k) else none)

/-- The element of a stationary matrix at a reduction position within its K extent and a column (R78). -/
def statElem (w : Tensor) (m : Mat) (k n : Nat) : Option Elem :=
  if k < w.e1 then some (m.elem (isMx m.fmt && m.axis != 1) k n) else none

/-- Ranges of `k` positions of an extent. -/
def rangesOf (n k : Nat) : List (List Nat) := (List.range (ceilDiv n k)).map fun j => List.range' (k * j) (min k (n - k * j))

/-- The passes of a MATMUL (R84): each N range counts its own bands. `wb` are the bands of each stationary column. -/
def forwardGroups (w : Tensor) (shape : Nat) (m : Mat) (wb : List (List (List (Option Band)))) : List PassGroup :=
  (rangesOf w.e0 (shapeCols shape)).map fun cols =>
    let counts := (List.range (ceilDiv w.e1 32)).map fun b => (cols.map fun n => ((wb.getD n []).getD b []).length).foldl max 1
    { cols := cols,
      passes := (loadsOf (8 / foldOf shape) (w.fmt == fmtFp32) counts).map fun l =>
        { plane := columnPlane (loadIdOf w 0 shape (cols.headD 0) cols.length l) cols l (fun n => wb.getD n []) (statElem w m),
          red := (loadBlocks l).flatMap (blockSpan w.e1),
          stat := cols.map fun n => l.map (rowSetBand (wb.getD n [])), outs := cols, blocks := l.map RowSet.block,
          first := (l.headD { block := 0, band := 0, low := false }).block, segs := l.map RowSet.block, lows := lowSets l } }

/-- The passes of a MATMUL_T (R84, R102): bands counted over every column; each load's K range is a group of output
columns, its N ranges the passes. -/
def backwardGroups (w : Tensor) (shape : Nat) (m : Mat) (wb : List (List (List (Option Band)))) : List PassGroup :=
  let counts := (List.range (ceilDiv w.e1 32)).map fun b => (wb.map fun c => (c.getD b []).length).foldl max 1
  let loads := loadsOf (8 / foldOf shape) (w.fmt == fmtFp32) counts
  loads.zipIdx.map fun lk =>
    let l := lk.1
    let pos := l.flatMap fun rs => (blockSpan w.e1 rs.block).map fun k => (rs, k)
    { cols := (loadBlocks l).flatMap (blockSpan w.e1),
      shared := loads.zipIdx.any fun o => o.2 != lk.2 && o.1.any fun rs => l.any fun q => q.block == rs.block,
      passes := (rangesOf w.e0 (shapeCols shape)).map fun ns =>
        { plane := columnPlane (loadIdOf w 0 shape (ns.headD 0) ns.length l) ns l (fun n => wb.getD n []) (statElem w m),
          red := ns, stat := pos.map fun p => ns.map fun n => rowSetBand (wb.getD n []) p.1, outs := pos.map Prod.snd,
          blocks := ns.map (· / 32), first := ns.headD 0 / 32, segs := (rangesOf ns.length 32).map fun g => ns.headD 0 / 32 + g.headD 0 / 32, lows := lowSets l } }

/-- The columns of a matrix as lists: values before the scale, values, scale bytes. -/
def Mat.col {α : Type} (rows : List (List α)) (d : α) (n : Nat) : List α := rows.map fun r => r.getD n d

/-- The bands of each stationary column along K (R84, R212). -/
def statBands (m : Mat) (cols : Nat) : List (List (List (Option Band))) :=
  (List.range cols).map fun n =>
    vecBands m.fmt (isMx m.fmt && m.axis != 1) (Mat.col m.raw Val.zero n) (Mat.col m.vals Val.zero n) (Mat.col m.sc 127 n)

/-- The bands of each streaming row. -/
def rowBands (m : Mat) : List (List (List (Option Band))) :=
  (m.raw.zip (m.vals.zip m.sc)).map fun e => vecBands m.fmt false e.1 e.2.1 e.2.2

/-! ### Tiles -/

/-- An output tile: its column group, its rows as (command, row) pairs, and whether it runs in streamed readout (R88). -/
structure MatTile where
  group    : PassGroup
  rows     : List (Nat × Nat)
  streamed : Bool

/-- A command of a gather group, or a command alone, with what it streams. -/
structure MatCmd where
  cmd : CmdRec
  who : Who
  x   : Mat
  xb  : List (List (List (Option Band)))
  p   : Option Mat

/-- Streamed readout of a group's tile (R88): READOUT, and this pass alone deposits into its slots. -/
def isStreamed (r : CmdRec) (g : PassGroup) : Bool := r.accEnd == 0 && r.accBegin != 3 && g.passes.length == 1 && !g.shared

/-- The tiles of a command or gather group, N then M (R186). -/
def matTiles (r : CmdRec) (groups : List PassGroup) (rows : List (Nat × Nat)) : List MatTile :=
  groups.flatMap fun g =>
    let st := isStreamed r g
    let lim := if st then 128 else heldRows r.shape
    (List.range (ceilDiv rows.length lim)).map fun k => { group := g, rows := (rows.drop (k * lim)).take lim, streamed := st }

/-- The pass request of a tile's pass (R82, R102); `unfilled` rows of a gathered tile are masked (R101, R108). -/
def passReq (cs : List MatCmd) (isT : Bool) (x w : Tensor) (shape unfilled : Nat) (rows : List (Nat × Nat)) (p : PassPlan) : PassReq :=
  let bands := rows.map fun e => p.blocks.map fun b => ((cs[e.1]?).elim [] fun c => (c.xb.getD e.2 []).getD b [])
  { feed := feedOf (digitCount x.fmt) (foldOf shape) (if isT then 8 else 3) (if isT then 256 else 0) bands p.stat
      (fun row pos => (cs[(rows.getD row (0, 0)).1]?).any fun c => colMasked c.cmd (p.outs.getD pos 0)),
    d := digitCount x.fmt, plane := p.plane, trans := isT, shape := shape, masked := unfilled, statSlab := inSlab w,
    streamSlab := inSlab x, lows := p.lows }

/-! ### Deposits of a pass -/

/-- A slot that begins with a preload (R131, R132). -/
def preloaded (sc v : Val) : Slot := (({ biased := true } : Slot).withScale sc).deposit (unitsOf v) (clsOf v)

/-- The deposits of one command's row into its slots (R125, R131, R132): the edge after them, and the NaN deposits. The
products are those of the elements, which the words and segment registers spell exactly (R55; log 102). -/
def depositRow (c : MatCmd) (w : Mat) (sc : Val) (isT : Bool) (g : PassGroup) (p : PassPlan) (firstPass : Bool) (r0 m start d : Nat)
    (e : Edge) : Edge × List NanAt :=
  let f := foldOf c.cmd.shape
  let xs := p.red.map fun k => c.x.val m k
  (g.cols.zipIdx).foldl (fun acc cc =>
    if colMasked c.cmd cc.1 then acc
    else
      let key := tileSlot c.cmd.slotBase f (m - r0) cc.2
      let at_ (blk : Nat) : NanAt :=
        { cycle := start + 260 + d + cc.2 % 256 + cc.2 / 256, row := r0, col := g.cols.headD 0, out := cc.1, block := blk }
      let begun : Slot × List NanAt :=
        if !firstPass || c.cmd.accBegin == 3 then ((acc.1.slot? key).getD {}, [])
        else match c.p with
          | some pm =>
            let v := pm.val (if c.cmd.accBegin = 1 then 0 else m) cc.1
            (preloaded sc v, if v.isNan then [at_ 0xFFFFFFFF] else [])
          | none => (({} : Slot).withScale sc, [])
      let ws := p.red.map fun k => if isT then w.val cc.1 k else w.val k cc.1
      let dot := dotOf xs ws
      let q := begun.1.deposit dot.v dot.cls
      let pos := p.red.getD (dot.nanPos begun.1) 0
      let seg := p.segs.findIdx fun b => b == pos / 32
      let nans := if !begun.1.nanLike && q.nanLike then [at_ (p.first + seg)] else []
      (acc.1.setSlot key q, acc.2 ++ begun.2 ++ nans)) (e, [])

/-- The slot keys of a tile's rows of one command: (row, column, key), masked columns left out. -/
def tileKeys (r : CmdRec) (g : PassGroup) (r0 : Nat) (ms : List Nat) : List (Nat × Nat × Nat) :=
  ms.flatMap fun m => (g.cols.zipIdx.filter fun cc => !colMasked r cc.1).map fun cc =>
    (m, cc.1, tileSlot r.slotBase (foldOf r.shape) (m - r0) cc.2)

/-- The same with every column, for an exact-compact tile. -/
def tileKeysXc (r : CmdRec) (g : PassGroup) (r0 : Nat) (ms : List Nat) : List (Nat × Nat × Option Nat) :=
  ms.flatMap fun m => g.cols.zipIdx.map fun cc =>
    (m, cc.1, if colMasked r cc.1 then none else some (tileSlot r.slotBase (foldOf r.shape) (m - r0) cc.2))

/-- A command's part of one tile has run: deposits of every pass, then its readouts (R134). `es` are the passes as they
entered and `starts` the start of each of the command's rows in each pass; `sc` is the product of its INT8 scales. The passes
of a gather group are counted once, with the first command of the tile (`first`; R109, R127). -/
def runTile (w : Mat) (isT : Bool) (c : MatCmd) (sc : Val) (y : Option Planes) (ms : List Nat) (t : MatTile) (first : Bool)
    (es : List Entered) (starts : List (List Nat)) (d xcKey : Nat) (run : Run) : Run :=
  let side := isT
  let g := t.group
  let core := c.who.core
  let r0 := ms.headD 0
  let tile := (r0, g.cols.headD 0)
  let begun := if c.cmd.accBegin = 3 ∨ !first then run.s
    else run.s.modCore core fun k => k.setEdge side { k.edge side with depcnt := if c.p.isSome then 1 else 0 }
  -- in streamed readout each row is read out before the next one deposits
  let rowStep (acc : (Run × List OutElem × List Slot × List NanAt)) (e : Nat × Nat) :
      Run × List OutElem × List Slot × List NanAt :=
    let dep := depositRow c w sc isT g (g.passes.headD ⟨{}, [], [], [], [], 0, [], 0⟩) true r0 e.1 e.2 d
      ((acc.1.s.core core).edge side)
    let r1 : Run := { acc.1 with s := acc.1.s.modCore core fun k => k.setEdge side dep.1 }
    if c.cmd.xcOut then
      let rd := takeSlotsXc r1 c.who c.cmd side false tile (tileKeysXc c.cmd g r0 [e.1])
      (rd.1, acc.2.1, acc.2.2.1 ++ rd.2, acc.2.2.2 ++ dep.2)
    else
      let rd := readSlots r1 c.who c.cmd side false tile (tileKeys c.cmd g r0 [e.1])
      (rd.1, acc.2.1 ++ rd.2, acc.2.2.1, acc.2.2.2 ++ dep.2)
  let passStep (acc : Run × List NanAt) (pp : (PassPlan × List Nat) × Nat) : Run × List NanAt :=
    let dep := (ms.zip pp.1.2).foldl (fun (a : Edge × List NanAt) e =>
      let q := depositRow c w sc isT g pp.1.1 (pp.2 == 0) r0 e.1 e.2 d a.1
      (q.1, a.2 ++ q.2)) ((acc.1.s.core core).edge side, [])
    ({ acc.1 with s := acc.1.s.modCore core fun k => k.setEdge side dep.1 }, acc.2 ++ dep.2)
  let keys := (tileKeys c.cmd g r0 ms).map fun k => k.2.2
  let start : Run := { run with s := begun, touched := run.touched ++ keys }
  let mid : Run × List OutElem × List Slot × List NanAt :=
    if t.streamed then (ms.zip (starts.headD [])).foldl rowStep (start, [], [], [])
    else let r := ((g.passes.zip starts).zipIdx).foldl passStep (start, []); (r.1, [], [], r.2)
  let nans := mid.2.2.2
  let counted := if first then es.foldl (fun s e => addDeposits s c.who c.cmd side tile e.feed.deposits) mid.1.s else mid.1.s
  let s2 := noteNans counted c.who c.cmd side mid.1.nanDone nans
  let r2 : Run := { mid.1 with s := s2, nanDone := mid.1.nanDone || !nans.isEmpty }
  if !nans.isEmpty && haltsAtTile s2 core then { r2 with halted := true }
  else
    let keep := c.cmd.accEnd == 2
    let done : Run :=
      match y with
      | none => r2
      | some p =>
        let rc := roundCtx s2 c.who c.cmd.rmode (if side then 1 else 0) p.t.id
        if c.cmd.xcOut then
          if t.streamed then r2.putXc c.who xcKey ((s2.core core).edge side).depcnt.toNat mid.2.2.1
          else readSlotsXc r2 c.who c.cmd side keep tile xcKey (tileKeysXc c.cmd g r0 ms)
        else if t.streamed then r2.put p rc mid.2.1
        else
          let rd := readSlots r2 c.who c.cmd side keep tile (tileKeys c.cmd g r0 ms)
          rd.1.put p rc rd.2
    { done with tiles := done.tiles + 1 }

/-! ### Issue -/

/-- Every slot key that a command deposits into. -/
def matKeys (r : CmdRec) (tiles : List MatTile) (i : Nat) : List Nat :=
  (tiles.flatMap fun t =>
    let ms := (t.rows.filter fun e => e.1 == i).map Prod.snd
    (tileKeys r t.group (ms.headD 0) ms).map fun k => k.2.2).dedup

/-- More than one of a command's tiles uses the same slots: with HOLD a command covers one tile only; with KEEP and READOUT
the second tile would find its slots FREE, and with another begin mode and READOUT_KEEP it would find them HELD (R133,
R186). The reason, or 0. -/
def tilesClash (r : CmdRec) (tiles : List MatTile) (i : Nat) : Nat :=
  if (tiles.filter fun t => t.rows.any fun e => e.1 == i).length ≤ 1 then 0
  else if r.accEnd = 1 then 0x05
  else refuseIf ((r.accBegin == 3) == (r.accEnd == 0)) 0x06

/-- The rows of a command, as its group numbers it. -/
def cmdRows (i n : Nat) : List (Nat × Nat) := (List.range n).map fun m => (i, m)

/-- The product of the INT8 scales of a command's operands (R54). -/
def scaleOf (ts : List Tensor) : Val := ts.foldl (fun a t => a.mul (tensorScale t)) (.fin 1 0)

/-- The plan of a command or gather group: its stationary matrix, its column groups, what each of its commands streams, and
its tiles. -/
structure MatPlan where
  wm    : Mat
  cs    : List MatCmd
  tiles : List MatTile

def matPlan (s : State) (g : Nat) (isT : Bool) (cmds : List CmdRec) : MatPlan :=
  let lead := cmds.headD { ctx := 0, idx := 0, words := [] }
  let wt := (lead.tensor? 5).getD (tensorOf [])
  let wm := readMat s (planesOf s (whoOf s g lead.ctx) wt)
  let cs : List MatCmd := cmds.map fun r =>
    let w := whoOf s g r.ctx
    let x := readMat s (planesOf s w ((r.tensor? 4).getD (tensorOf [])))
    { cmd := r, who := w, x := x, xb := rowBands x,
      p := if r.accBegin = 1 ∨ r.accBegin = 2 then (r.tensor? 7).map fun t => readPreload s (planesOf s w t) else none }
  let wb := statBands wm wt.e0
  let groups := if isT then backwardGroups wt lead.shape wm wb else forwardGroups wt lead.shape wm wb
  { wm := wm, cs := cs, tiles := matTiles lead groups (cs.zipIdx.flatMap fun c => cmdRows c.2 c.1.x.vals.length) }

/-- Why a command of a plan is refused at issue, or 0 (R133, R186, R203). -/
def matRefusal (e : Edge) (tiles : List MatTile) (i : Nat) (r : CmdRec) : Nat :=
  let keep := r.accBegin == 3
  let keys := matKeys r tiles i
  if slotsRefused e keep keys then 0x06
  else if tilesClash r tiles i ≠ 0 then tilesClash r tiles i
  else refuseIf (chainTooLong e keep keys) 0x09

/-- A unit of a plane's memory holds a bit of an element in the rows and columns listed, or its scale byte. -/
def planesMeet (p : Planes) (rows cols : List Nat) (u : Nat) : Bool :=
  let b := fmtBits p.t.fmt
  rows.any fun r => cols.any fun c =>
    let i := p.t.at c r * b
    (decide (p.key + i / 8 < u + eccUnit u) && decide (u ≤ p.key + (i + b - 1) / 8)) ||
      (isMx p.t.fmt && decide (unitOf (p.skey + p.t.sat c r) = u))

/-- The uncorrectable units that the operands of one command of a tile meet (R202, R372). -/
def tileBads (s : State) (w : Who) (r : CmdRec) (isT : Bool) (i : Nat) (t : MatTile) : List Nat :=
  let rows := (t.rows.filter fun e => e.1 == i).map Prod.snd
  let pl (k : Nat) : Planes := planesOf s w ((r.tensor? k).getD (tensorOf []))
  let red := (t.group.passes.flatMap PassPlan.red).dedup
  if rows.isEmpty then [] else s.bad.filter fun u => planesMeet (pl 4) rows red u ||
    (if isT then planesMeet (pl 5) t.group.cols red u else planesMeet (pl 5) red t.group.cols u) ||
    ((r.accBegin == 1 || r.accBegin == 2) && planesMeet (pl 7) (if r.accBegin = 1 then [0] else rows) t.group.cols u)

/-- Where a command of a plan stops: its first tile that meets uncorrectable units, those units, and the tile's first output
row and column (R202, R206). -/
structure MatStop where
  tile  : Nat
  units : List Nat
  at_   : Nat × Nat

def matStop (s : State) (isT : Bool) (tiles : List MatTile) (i : Nat) (c : MatCmd) : Option MatStop :=
  if s.bad.isEmpty then none
  else (tiles.zipIdx.map fun t => (t, tileBads s c.who c.cmd isT i t.1)).findSome? fun e =>
    if e.2.isEmpty then none
    else some { tile := e.1.2, units := e.2,
                at_ := (((e.1.1.rows.filter fun x => x.1 == i).map Prod.snd).headD 0, e.1.1.group.cols.headD 0) }

/-- The tiles of a plan without the rows of each command from the tile on at which it stops; a tile without rows falls away. -/
def tilesBefore (stops : List (Option MatStop)) (tiles : List MatTile) : List MatTile :=
  (tiles.zipIdx.map fun t => { t.1 with rows := t.1.rows.filter fun e => (stops.getD e.1 none).all fun x => decide (t.2 < x.tile) }).filter
    fun t => !t.rows.isEmpty

/-- One command of a plan runs over the tiles that have entered (R109): what it leaves, with the number of tiles up to the one
at which it halts. `slot` is the edge with the command joined to its chains. -/
def runMatTiles (g : Nat) (isT : Bool) (wm : Mat) (d : Nat) (tes : List (MatTile × List Entered)) (i : Nat) (c : MatCmd)
    (st : State) : Run × Nat :=
  let r := c.cmd
  let keep := r.accBegin == 3
  let keys := matKeys r (tes.map Prod.fst) i
  let sc := scaleOf ([4, 5].filterMap r.tensor?)
  let e1 := ((st.core g).edge isT).join r keep keys
  let e2 := if keep then e1.setScale keys sc else e1
  let y := (r.tensor? 6).map fun t => planesOf st c.who t
  let init : Run := { s := st.modCore g fun k => k.setEdge isT e2 }
  let out := tes.foldl (fun (acc : Run × Nat × Nat) te =>
    let mine := (te.1.rows.zipIdx.filter fun x => x.1.1 == i)
    let ms := mine.map fun x => x.1.2
    if acc.1.halted then acc
    else if ms.isEmpty then (acc.1, acc.2.1, acc.2.2 + 1)
    else
      let starts := te.2.map fun p => mine.map fun x => p.entry + p.feed.starts.getD x.2 0
      (runTile wm isT c sc y ms te.1 ((te.1.rows.headD (0, 0)).1 == i) te.2 starts d (acc.2.1 + (y.elim 0 Planes.key)) acc.1,
        acc.2.1 + xcLargest (ms.length * te.1.group.cols.length), acc.2.2 + 1)) (init, 0, 0)
  (out.1, out.2.2)

/-- One command of a plan runs and commits (R109, R202). -/
def runMatCmd (g : Nat) (isT : Bool) (wm : Mat) (d end_ : Nat) (tes : List (MatTile × List Entered)) (stop : Option MatStop) (i : Nat)
    (c : MatCmd) (st : State) : State :=
  let r := c.cmd
  let run := (runMatTiles g isT wm d tes i c st).1
  if run.halted then haltCmd g .aq r c.who run isT end_ (wbBytes (r.tensor? 6))
  else
    let s1 := run.s.modCore g fun k => k.setEdge isT (k.edge isT).settle
    match stop with
    | none => commitRun g .aq r c.who { run with s := s1 } end_ (wbBytes (r.tensor? 6))
    | some x =>
      let s2 := raiseBadIn s1 c.who.part (some c.who.ctx) r.cmdId (x.units.headD 0) (x.units.map fun u => (u, 1)) x.at_
      commitRun g .aq r c.who { run with s := s2, status := stUncorrectable } end_ (wbBytes (r.tensor? 6))

/-- The passes of tiles enter one tile after the other. -/
def enterTiles (g issue dep : Nat) (reqs : List (List PassReq)) (s : State) : State × List (List Entered) :=
  reqs.foldl (fun acc qs => let r := enterPasses g issue dep qs acc.1; (r.1, acc.2 ++ [r.2])) (s, [])

/-- A command issues alone or as a gather group's pass (R89, R109): passes enter for the commands that their slots do not
refuse, and each command in turn is refused, or deposits and is read out (R133). `target` is the row target of a gather
group, whose unfilled rows are masked (R108). The tiles of a command before the first that meets an uncorrectable unit stand
(R202). Where every command halts at a tile, no pass of a later tile enters (R143). -/
def runMatmul (s : State) (g : Nat) (isT : Bool) (target : Option Nat) (cmds : List CmdRec) : State :=
  let e := (s.core g).edge isT
  let all := (matPlan s g isT cmds).tiles
  let why := cmds.zipIdx.map fun c => (c.1, matRefusal e all c.2 c.1)
  let good := (why.filter fun c => c.2 == 0).map Prod.fst
  let lead := good.headD { ctx := 0, idx := 0, words := [] }
  let plan := matPlan s g isT good
  let stops := plan.cs.zipIdx.map fun c => matStop s isT plan.tiles c.2 c.1
  let tiles := tilesBefore stops plan.tiles
  let xt := (lead.tensor? 4).getD (tensorOf [])
  let wt := (lead.tensor? 5).getD (tensorOf [])
  let d := digitCount xt.fmt
  let reqs := tiles.map fun t => crossBy (isMx plan.wm.fmt && plan.wm.axis != 1)
    (t.group.passes.map fun p => passReq plan.cs isT xt wt lead.shape (target.elim 0 fun n => n - t.rows.length) t.rows p)
  let issue := (good.map (issueCycle s g)).foldl max 0
  let dep := (good.map CmdRec.after).foldl max 0
  let dry := enterTiles g issue dep reqs s
  let ran := if haltsAtTile s g then
      (plan.cs.zipIdx.map fun c => (runMatTiles g isT plan.wm d (tiles.zip dry.2) c.2 c.1 dry.1).2).foldl max 0
    else tiles.length
  let ent := enterTiles g issue dep (reqs.take ran) s
  let s1 := countStaged ent.1 g
    (good.map fun r => if (r.accBegin == 1 || r.accBegin == 2) && (r.tensor? 7).any inSlab then ran else 0).sum
  let end_ := ((ent.2.flatten.map Entered.last).foldl max issue) + 1
  (why.foldl (fun (acc : State × List (MatCmd × Nat)) c =>
    if c.2 ≠ 0 then (refuseFront acc.1 g .aq c.1 c.2, acc.2)
    else match acc.2 with
      | [] => acc
      | m :: rest =>
        ((match stops.getD m.2 none with
          | some x => if x.tile = 0 then failBad acc.1 g .aq c.1 (x.units.headD 0) (x.units.map fun u => (u, 1))
            else runMatCmd g isT plan.wm d end_ (tiles.zip ent.2) (some x) m.2 m.1 acc.1
          | none => runMatCmd g isT plan.wm d end_ (tiles.zip ent.2) none m.2 m.1 acc.1), rest)) (s1, plan.cs.zipIdx)).1

/-- The spans that a MATMUL reads. -/
def matSpans (s : State) (w : Who) (r : CmdRec) : List (Nat × Nat) :=
  ((if r.accBegin = 1 ∨ r.accBegin = 2 then [4, 5, 7] else [4, 5]).filterMap r.tensor?).flatMap (keySpans s w)

/-- An operand tile of a command is landing (R89, R374). -/
def tilesLanding (s : State) (g : Nat) (r : CmdRec) : Bool :=
  landingMeets s g (([4, 5, 7].filterMap r.tensor?).flatMap stageSpans)

/-- The command waits at issue: an operand tile is landing, or the write-back area has no room (R89, R374, R375). -/
def matWaits (s : State) (g : Nat) (r : CmdRec) : Bool :=
  tilesLanding s g r ||
    (match r.tensor? 6 with
     | some t => needsWb t && !wbFits s g (wbBytes (some t))
     | none => false)

/-! ### Gather groups (R106–R109) -/

/-- A MATMUL is a gather request on a gather core (R107). -/
def isGatherReq (s : State) (g : Nat) (r : CmdRec) : Bool :=
  (s.reg (pnSeq g) 0x100).getLsbD 0 && r.opcode == opMatmul && r.gatherFlag && decide ((r.tensor? 4).elim 0 Tensor.rows ≤ 64)

/-- The row target of a group (R86, R88, R107): the shape's row limit for its ACC_END, which is that of streamed readout
where each column group of the stationary tensor takes one load. -/
def gatherTarget (s : State) (g : Nat) (r : CmdRec) : Nat :=
  let wt := (r.tensor? 5).getD (tensorOf [])
  let wm := readMat s (planesOf s (whoOf s g r.ctx) wt)
  if (forwardGroups wt r.shape wm (statBands wm wt.e0)).all (isStreamed r) then 128 else heldRows r.shape

/-- Two requests join one group (R107). -/
def gatherMatch (a b : CmdRec) : Bool :=
  a.shape == b.shape && a.accBegin == b.accBegin && a.accEnd == b.accEnd && a.rmode == b.rmode && a.xcOut == b.xcOut &&
    (match a.tensor? 5, b.tensor? 5 with
     | some p, some q => p.base == q.base && p.sbase == q.sbase && p.fmt == q.fmt && p.e0 == q.e0 && p.e1 == q.e1 &&
         p.tr == q.tr && p.tc == q.tc && p.axis == q.axis && p.scale == q.scale
     | _, _ => false) &&
    (a.tensor? 4).map Tensor.fmt == (b.tensor? 4).map Tensor.fmt &&
    (a.tensor? 6).map Tensor.fmt == (b.tensor? 6).map Tensor.fmt

/-- The open group of a core is called to issue (R108), its unfilled rows masked (R99). While an operand tile of it is
landing it cannot issue (R89), and issues when the tile is resident; nor can it while the die controller is halted (R21). The requests are at the queue's front in the group's
own list; each leaves it as it commits. -/
def issueGather (s : State) (g : Nat) : State :=
  match (s.core g).gather with
  | none => s
  | some grp =>
    if grp.reqs.any (tilesLanding s g) || (dieCtlOf s g).halted then s.modCore g fun c => { c with gather := some { grp with due := true } }
    else
      let s1 := s.modCore g fun c => { c with gather := none, aq := grp.reqs ++ c.aq }
      runMatmul s1 g false (some (gatherTarget s g (grp.reqs.headD { ctx := 0, idx := 0, words := [] }))) grp.reqs

/-- A request matches the open group of its core, if there is one. -/
def matchesOpen (s : State) (g : Nat) (r : CmdRec) : Bool :=
  (s.core g).gather.all fun grp => grp.reqs.all fun q => gatherMatch q r

/-- Slot indices of a request's rows. -/
def gatherRows (q : CmdRec) : List Nat :=
  (List.range (min ((q.tensor? 4).elim 0 Tensor.rows) (heldRows q.shape))).map fun m => (q.slotBase + m) % 128

/-- A gather request joins the open group, or starts one; a group whose rows reach the target issues (R107, R108). A
request that would overflow the target, or whose slots another request of the group holds, starts a new group; while a
group that must issue first cannot, the request waits. -/
def joinGather (s : State) (g : Nat) (r : CmdRec) : State :=
  let rows := (r.tensor? 4).elim 0 Tensor.rows
  let target := gatherTarget s g r
  let fits : Bool := (s.core g).gather.all fun grp => !grp.due && decide (grp.rows + rows ≤ target) &&
    !(grp.reqs.any fun q => (gatherRows q).any (gatherRows r).contains)
  let s1 := if fits && matchesOpen s g r then s else issueGather s g
  match (s1.core g).gather with
  | some grp =>
    if grp.due then s1
    else
      let s2 := (popQueue s1 g .aq).modCore g fun c =>
        { c with gather := some { grp with reqs := grp.reqs ++ [r], rows := grp.rows + rows } }
      if target ≤ grp.rows + rows then issueGather s2 g else s2
  | none =>
    let s2 := (popQueue s1 g .aq).modCore g fun c => { c with gather := some { reqs := [r], rows := rows, since := s1.bell.count } }
    if target ≤ rows then issueGather s2 g else s2

/-! ### Meanings -/

/-- The front command of AQ, if it is this opcode and it may issue. -/
def frontOf (s : State) (g : Nat) (q : QueueId) (op : Nat) : Option CmdRec :=
  (frontCmd s g q).bind fun r => if r.opcode = op then some r else none

/-- A front command whose dependences are met goes on with `f`; one with a failed dependence fails; else it waits
(R189, R196). -/
def withDeps (s : State) (g : Nat) (q : QueueId) (r : CmdRec) (f : State) : State :=
  match depsOf r with
  | .met => f
  | .failed => failDep s g q r
  | .waiting => s

/-- A command of the array that does not match closes the open group first (R108). A group that cannot issue yet holds the
queue (R89): the answer is then none. -/
def closeGather (s : State) (g : Nat) : State := issueGather s g
def gatherOpen (s : State) (g : Nat) : Bool := (s.core g).gather.isSome

/-- The front command of the array queue, once the open group is closed (R108), goes on with `f`; while the group cannot
issue it waits behind it. -/
def afterGather (s : State) (g : Nat) (f : State → State) : State :=
  let s1 := closeGather s g
  if gatherOpen s1 g then s1 else f s1

/-- MATMUL and MATMUL_T at issue. A request that does not match the open group closes it on arrival, whatever it waits on
itself (R108). -/
def issueMatmul (s0 : State) (g : Nat) (isT : Bool) (r : CmdRec) : State :=
  if !isT && isGatherReq s0 g r then
    let s := if matchesOpen s0 g r then s0 else closeGather s0 g
    withDeps s g .aq r (if matWaits s g r then s
      else joinGather (readSpans s true (matSpans s (whoOf s g r.ctx) r)) g r)
  else afterGather s0 g fun s =>
    withDeps s g .aq r (if matWaits s g r then s else
      runMatmul (readSpans s true (matSpans s (whoOf s g r.ctx) r)) g isT none [r])

/-- MATMUL (R186): the front command of the core's array queue issues. -/
def execMatmul (core : Nat) (s : State) : Out :=
  .next (match frontOf s core .aq opMatmul with
    | none => s
    | some r => issueMatmul s core false r)

/-- MATMUL_T (R102). -/
def execMatmulT (core : Nat) (s : State) : Out :=
  .next (match frontOf s core .aq opMatmulT with
    | none => s
    | some r => issueMatmul s core true r)

/-- GATHER_HOLD_EXPIRY (R108): the oldest request of the core's open group has been held for HOLD_BT bell ticks. -/
def execGatherHoldExpiry (core : Nat) (s : State) : Out :=
  .next (match (s.core core).gather with
    | none => s
    | some grp =>
      let hold := max 1 (bits (s.regN (pnSeq core) 0x100) 31 16)
      if s.bell.count.toNat < grp.since.toNat + hold ∨ grp.due = true then s
      else (issueGather s core).count (pnArray core) 8 1)

/-! ### ACC_READ (R135) -/

/-- Rows and columns fit the tile of a shape at an edge (R86, R88, R103). -/
def fitsTile (shape : Nat) (side : Bool) (rows cols : Nat) : Bool :=
  !(side && shape == 2) && decide (rows ≤ heldRows shape) && decide (cols ≤ if side then 256 / foldOf shape else shapeCols shape)

def accReadReasons (s : State) (w : Who) (r : CmdRec) : List (Nat × Nat) :=
  let y := (r.tensor? 6).getD (tensorOf [])
  [(refuseIf (r.accEnd == 1) 0x06, 0), (checkPresent r 6, 0),
   (checkOutput s w r.edge r.xcOut (xcLargest y.size) y, r.w 6),
   (refuseIf (!fitsTile r.shape r.edge y.rows y.cols) 0x05, r.w 6), (checkSr r y, r.w 6)]

def fetchAccRead (s : State) (w : Who) (r : CmdRec) : Fetch :=
  (fetchDescs s w r [6]).bind fun ds => firstReason (accReadReasons s w (r.withDescs ds)) ds

/-- The slots that an output covers on an edge. -/
def outKeys (r : CmdRec) (y : Tensor) : List (Nat × Nat × Nat) :=
  (List.range y.rows).flatMap fun m => (List.range y.cols).map fun c => (m, c, tileSlot r.slotBase (foldOf r.shape) m c)

/-- A slot belongs to a chain of an ATTN_FWD. -/
def inAttnChain (e : Edge) (k : Nat) : Bool :=
  e.chains.any fun c => c.slots.contains k && c.cmds.any fun r => r.opcode == opAttnFwd

/-- The slots that a readout of an edge takes: the last column of a saved attention partial is the row sum, which an
ATTN_FWD holds in bank 255 (R213, R223; log 25). -/
def readKeys (e : Edge) (r : CmdRec) (y : Tensor) : List (Nat × Nat × Nat) :=
  (outKeys r y).map fun k =>
    let l := tileSlot r.slotBase (foldOf r.shape) k.1 255
    if r.edge && k.2.1 + 1 == y.cols && (e.slot? k.2.2).isNone && inAttnChain e l then (k.1, k.2.1, l) else k

/-- Slots go out to W6 of a command, with its own edge and end mode. -/
def readOutAll (run : Run) (w : Who) (r : CmdRec) (y : Tensor) : Run :=
  let keep := r.accEnd == 2
  let p := planesOf run.s w y
  let e := (run.s.core w.core).edge r.edge
  let out : Run := if r.xcOut then readSlotsXc run w r r.edge keep (0, 0) p.key ((readKeys e r y).map fun k => (k.1, k.2.1, some k.2.2))
    else
      let rd := readSlots run w r r.edge keep (0, 0) (readKeys e r y)
      rd.1.put p (roundCtx run.s w r.rmode (if r.edge then 1 else 0) y.id) rd.2
  { out with tiles := out.tiles + 1 }

/-- The cycles a readout of an edge takes: its slots per bank, three for an XCW element (R135). -/
def drainCycles (e : Edge) (xc : Bool) (ks : List (Nat × Nat × Nat)) : Nat :=
  let per := (List.range 256).map fun b => ((ks.filter fun k => k.2.2 / 128 == b).map fun k =>
    if xc && ((e.slot? k.2.2).elim false fun q => q.exchange.2) then 3 else 1).sum
  per.foldl max 0

/-- The front command waits for room in the write-back area (R375). -/
def wbWaits (s : State) (g : Nat) (t : Option Tensor) : Bool :=
  match t with
  | some y => needsWb y && !wbFits s g (wbBytes (some y))
  | none => false

/-- ACC_READ and REDUCE_X use an edge from the cycle after the last deposit, in cycles reserved at issue; a pass enters after
them, while later commands issue and load (R135, R148; log 34). -/
def edgeStart (s : State) (g : Nat) (r : CmdRec) : Nat :=
  max (issueCycle s g r) (max (s.core g).pipe.entryLimit ((s.core g).pipe.lastDeposit + 1))
def holdArray (s : State) (g until_ : Nat) : State :=
  s.modCore g fun c => { c with pipe := { c.pipe with entryLimit := max c.pipe.entryLimit until_ } }

/-- Why an ACC_READ is refused at issue, or 0: the chain that it would make too long (R203). -/
def accReadRefusal (e : Edge) (r : CmdRec) : Nat :=
  refuseIf (chainTooLong e true ((readKeys e r ((r.tensor? 6).getD (tensorOf []))).map fun k => k.2.2)) 0x09

/-- ACC_READ (R135): a readout of an edge's slots; a FREE slot gives +0 and no flag. -/
def execAccRead (core : Nat) (s : State) : Out :=
  .next (match frontOf s core .aq opAccRead with
    | none => s
    | some r => afterGather s core fun s1 =>
      let w := whoOf s1 core r.ctx
      let y := (r.tensor? 6).getD (tensorOf [])
      let e := (s1.core core).edge r.edge
      let keys := (readKeys e r y).map fun k => k.2.2
      let start := edgeStart s1 core r
      let n := drainCycles e r.xcOut (readKeys e r y)
      withDeps s1 core .aq r (if wbWaits s1 core (some y) then s1
        else if accReadRefusal e r ≠ 0 then refuseFront s1 core .aq r (accReadRefusal e r)
        else
          let s2 := (holdArray s1 core (start + n)).modCore core fun k => k.setEdge r.edge (e.join r true keys)
          let run := readOutAll { s := s2 } w r y
          let run' : Run := { run with s := run.s.modCore core fun k => k.setEdge r.edge (k.edge r.edge).settle }
          commitRun core .aq r w run' (start + n - 1) (wbBytes (some y))))

/-! ### REDUCE_X (R148, R149) -/

/-- The partial tile descriptors of a REDUCE_X, read under key 4 (R185). -/
def partialsOf (r : CmdRec) : List Tensor :=
  let ws := r.words? 4
  (List.range (bits (r.w 5) 7 0)).map fun k => tensorOf ((ws.drop (16 * k)).take 16)

def reduceReasons (s : State) (w : Who) (r : CmdRec) : List (Nat × Nat) :=
  let ws := r.words? 4
  let readout := r.accEnd != 1
  [(refuseIf (readout != (r.w 6 != 0)) 0x06, 0), (refuseIf (r.accBegin == 1 || r.accBegin == 2) 0x06, 0)] ++
  ((partialsOf r).zipIdx.map fun t =>
    (let d := (ws.drop (16 * t.2)).take 16
     if checkTensor d ≠ 0 then checkTensor d
     else if checkXcTensor t.1 ≠ 0 then checkXcTensor t.1
     else if tierOf t.1.base == 4 || !(granted s w false t.1.base (xcLargest t.1.size)) then 0x03
     else refuseIf (!fitsTile r.shape r.edge t.1.rows t.1.cols) 0x05, r.w 4)) ++
  (match r.tensor? 6 with
   | none => []
   | some y => [(checkOutput s w r.edge r.xcOut (xcLargest y.size) y, r.w 6),
                (refuseIf (!fitsTile r.shape r.edge y.rows y.cols) 0x05, r.w 6), (checkSr r y, r.w 6)])

def fetchReduceX (s : State) (w : Who) (r : CmdRec) : Fetch :=
  let n := bits (r.w 5) 7 0
  if n = 0 ∨ bits (r.w 5) 31 8 ≠ 0 then .refuse 0x01 0
  else (fetchDescs s w r [6]).bind fun ds => (fetchAt s w ds 4 (r.w 4) (64 * n) 64).bind fun ds =>
    firstReason (reduceReasons s w (r.withDescs ds)) ds

/-- Bytes of an exact-compact tile as it stands in memory: its header, its bitmap and its packed elements. -/
def xcActual (s : State) (key n : Nat) : Nat :=
  let marks := viewNat s (key + 16) (xcBitmap n) % 2 ^ n
  let k := ((List.range n).filter fun i => marks.testBit i).length
  16 + xcBitmap n + 16 * (n - k) + 104 * k

/-- The cycles after a merge's start at which each element reaches its bank: one per earlier element of the bank, three
per XCW element (R125, R147). -/
def mergeCycles (ks : List (Nat × Nat × Nat)) (xcw : Nat → Bool) : List Nat :=
  (ks.zipIdx.foldl (fun (acc : List Nat × SMap Nat) k =>
    let b := k.1.2.2 / 128
    let t := mget 0 acc.2 b
    (acc.1 ++ [t], mset 0 acc.2 b (t + if xcw k.2 then 3 else 1))) ([], [])).1

/-- One partial is merged (R147): opposite overflows, both BIASED and malformed elements are counted, and the first deposit
that sets a NaN is found by its cycle (R142). `from_` is the cycle at which the partial's elements begin to arrive. -/
def mergePartial (run : Run) (w : Who) (r : CmdRec) (t : Tensor) (x : XcRead) (from_ : Nat) : Run :=
  let ks := outKeys r t
  let pn := pnAccum w.core
  let e := (run.s.core w.core).edge r.edge
  let cyc := mergeCycles ks x.isXcw
  let m := ((ks.zip x.elems).zip cyc).foldl (fun (acc : Edge × Nat × Nat × List NanAt) kc =>
    let ke := kc.1
    let q := (acc.1.slot? ke.1.2.2).getD {}
    let g := q.merge ke.2
    let nans : List NanAt := if !q.nanLike && g.1.nanLike then
      [{ cycle := from_ + kc.2, row := 0, col := 0, out := ke.1.2.1, block := 0xFFFFFFFF }] else []
    (acc.1.setSlot ke.1.2.2 g.1, acc.2.1 + (if g.2.1 then 1 else 0), acc.2.2.1 + (if g.2.2 then 1 else 0),
      acc.2.2.2 ++ nans)) (e, 0, 0, [])
  let s1 := run.s.modCore w.core fun k => k.setEdge r.edge m.1
  let s2 := ((s1.count pn 5 x.bad).count pn 6 m.2.1).count pn 7 m.2.2.1
  let s3 := addDeposits s2 w r r.edge (0, 0) x.depcnt
  let s4 := noteNans s3 w r r.edge run.nanDone m.2.2.2
  { run with s := s4, nanDone := run.nanDone || !m.2.2.2.isEmpty, touched := run.touched ++ ks.map fun k => k.2.2 }

/-- The cycles that a partial's elements take: the most of any bank. -/
def mergeLength (r : CmdRec) (t : Tensor) (x : XcRead) : Nat :=
  ((outKeys r t).zip (mergeCycles (outKeys r t) x.isXcw)).zipIdx.foldl (fun a e => max a (e.1.2 + if x.isXcw e.2 then 3 else 1)) 0

/-- The slots of a REDUCE_X before its merges: HELD as they are, or HELD at zero with a count of 0 (R127, R148). -/
def reduceBegin (e : Edge) (r : CmdRec) (keys : List Nat) : Edge :=
  let e1 := e.join r (r.accBegin == 3) keys
  if r.accBegin == 3 then e1 else { e1.zeroAll keys (.fin 1 0) with depcnt := 0 }

/-- The slots that a REDUCE_X merges into. -/
def reduceKeys (r : CmdRec) : List Nat := ((partialsOf r).flatMap fun t => (outKeys r t).map fun k => k.2.2).dedup

/-- REDUCE_X (R148). -/
def execReduceX (core : Nat) (s : State) : Out :=
  .next (match frontOf s core .aq opReduceX with
    | none => s
    | some r => afterGather s core fun s1 =>
      let w := whoOf s1 core r.ctx
      let ts := partialsOf r
      let at_ := ts.map fun t => (keyOf s1 w t.base, t.size)
      let heads := at_.map fun a => (a.1, 16 + xcBitmap a.2)
      let spans := at_.map fun a => (a.1, xcActual s1 a.1 a.2)
      let keep := r.accBegin == 3
      let keys := reduceKeys r
      let e := (s1.core core).edge r.edge
      withDeps s1 core .aq r (if wbWaits s1 core (r.tensor? 6) then s1
        else match badInSpans s1 (heads ++ spans) with
        | some u => failBad s1 core .aq r u (heads ++ spans)
        | none =>
          if at_.any fun a => viewNat s1 (a.1 + 8) 4 != a.2 then refuseFront s1 core .aq r 0x04
          else if slotsRefusal e keep keys ≠ 0 then refuseFront s1 core .aq r (slotsRefusal e keep keys)
          else
            let s2 := readSpans s1 false spans
            let start := edgeStart s2 core r
            let e2 := reduceBegin e r keys
            let run0 : Run := { s := s2.modCore core fun k => k.setEdge r.edge e2 }
            let run1 := (ts.zip at_).foldl (fun (acc : Run × Nat) ta =>
              let x := readXcTile s2 ta.2.1 ta.2.2
              (mergePartial acc.1 w r ta.1 x acc.2, acc.2 + mergeLength r ta.1 x)) (run0, start)
            let out := (r.tensor? 6).elim 0 fun y => drainCycles ((run1.1.s.core core).edge r.edge) r.xcOut (readKeys ((run1.1.s.core core).edge r.edge) r y)
            let until_ := run1.2 + out
            let held : Run := { run1.1 with s := holdArray run1.1.s core until_ }
            if held.nanDone && haltsAtTile held.s core then haltCmd core .aq r w held r.edge (until_ - 1) (wbBytes (r.tensor? 6))
            else
              let run2 : Run := match r.tensor? 6 with
                | some y => readOutAll held w r y
                | none => { held with tiles := 1 }
              let run3 : Run := { run2 with s := run2.s.modCore core fun k => k.setEdge r.edge (k.edge r.edge).settle }
              commitRun core .aq r w run3 (until_ - 1) (wbBytes (r.tensor? 6))))

end Sys2Proof.Machine
end

