-- ==== Sys2Proof/Machine/Movement.lean ====
section
/-! DEFINITION. The movement engine: MOVE, GATHER and SCATTER with their conversions, FR frames, transfers from lent
regions, and the release gate of a sealed partition (R73–R75, R378–R380, R385, R487–R492). -/

namespace Sys2Proof.Machine

/-! ### FR frames (R73–R75) -/

/-- The index of an element of an FR tensor in the order in which its frames hold the elements: the dimension along which
blocks run is innermost (R73, R192); with BLOCK_AXIS 1 dim 1 comes first, then dim 0, then the outer dims (DESIGN CHOICE,
log 118). And the column and row at such an index. -/
def Tensor.linear (t : Tensor) (c r : Nat) : Nat :=
  if t.axis = 0 then r * t.e0 + c else r % t.e1 + t.e1 * (c + t.e0 * (r / t.e1))
def Tensor.unlinear (t : Tensor) (i : Nat) : Nat × Nat :=
  if t.axis = 0 then (i % t.e0, i / t.e0) else (i / t.e1 % t.e0, i % t.e1 + t.e1 * (i / t.e1 / t.e0))

/-- The key of the scale byte and of the first code byte of the frame that holds element `i`. -/
def frScaleKey (key f i : Nat) : Nat := key + i / 1024 * frBytes f + i % 1024 / 32
def frCodeKey (key f i : Nat) : Nat := key + i / 1024 * frBytes f + 32

def frCode (s : State) (key f i : Nat) : Nat := codeAt s (frCodeKey key f i) (fmtBits f) (i % 1024)
def frScale (s : State) (key f i : Nat) : Nat := (viewByte s (frScaleKey key f i)).toNat

/-- A block of 32 elements is put into its frame: scale byte, then codes; a position beyond the tensor is zero. -/
def putFrBlock (s : State) (key f b : Nat) (x : Nat) (cs : List Nat) (o : Overlay) : Overlay :=
  let o1 := mput o (frScaleKey key f (32 * b)) (BitVec.ofNat 8 x)
  (List.range 32).foldl (fun (m : Overlay) k =>
    putCode s m (frCodeKey key f (32 * b)) (fmtBits f) (32 * b % 1024 + k) (cs.getD k 0)) o1

/-- The blocks beyond the last element in a tensor's last frame are zero (R73). -/
def padFr (s : State) (key : Nat) (t : Tensor) (o : Overlay) : Overlay :=
  let last := ceilDiv t.size 32
  (List.range' last (32 * ceilDiv t.size 1024 - last)).foldl (fun (m : Overlay) b => putFrBlock s key t.fmt b 0 [] m) o

/-- Elements by their index go to an FR tensor: every block that one of them meets gets its scale and its codes again
(R63, R73, R74). -/
def putFr (s : State) (key : Nat) (t : Tensor) (rc : RoundCtx) (es : SMap Val) (o : Overlay) : Overlay :=
  let f := t.fmt
  let blocks := (es.map fun e => e.1 / 32).dedup
  let o1 := blocks.foldl (fun (m : Overlay) b =>
    let mine := (List.range' (32 * b) (min 32 (t.size - 32 * b))).map fun i =>
      let at_ := t.unlinear i
      ((mget? es i).getD (decodeIn f (frCode s key f i) (frScale s key f i)),
        if rc.mode = rmSr then srDraw rc (at_.2 * t.e0 + at_.1) else 0)
    let r := mxBlock f rc.mode mine
    putFrBlock s key f b r.1 r.2.1 m) o
  if blocks.contains (ceilDiv t.size 32 - 1) then padFr s key t o1 else o1

/-! ### What a movement command names -/

/-- The operand word of the destination. -/
def dstWord (r : CmdRec) : Nat := if r.opcode = opMove then 5 else 6
def moverSrc (r : CmdRec) : Tensor := (r.tensor? 4).getD (tensorOf [])
def moverDst (r : CmdRec) : Tensor := (r.tensor? (dstWord r)).getD (tensorOf [])

/-- The pairs of formats that R378 lists, or equal formats: 0, or the reason. FR stands with BF16 alone (R48). -/
def checkPair (x y : Tensor) : Nat :=
  if x.fmt = fmtXc128 ∨ y.fmt = fmtXc128 then 0x02
  else if isFr x.fmt then refuseIf (y.fmt != fmtBf16) 0x02
  else if isFr y.fmt then refuseIf (x.fmt != fmtBf16) 0x02
  else if x.fmt = y.fmt then refuseIf (x.fmt == fmtInt8 && x.scale != y.scale) 0x02
  else refuseIf (y.fmt == fmtInt8) 0x02

/-- The bits are copied unchanged (R378). -/
def copiesBits (x y : Tensor) : Bool := x.fmt == y.fmt && (!isMx x.fmt || x.axis == y.axis)

/-- Two spans of fabric addresses meet. -/
def spansMeet (a b : List (Nat × Nat)) : Bool :=
  a.any fun p => b.any fun q => decide (p.1 < q.1 + q.2) && decide (q.1 < p.1 + p.2) && p.2 != 0 && q.2 != 0

/-- Bytes that the elements of a scalar tensor take. -/
def elemBytes (t : Tensor) : Nat := t.size * fmtBits t.fmt / 8

/-- The partition's release windows that hold a destination (R487). -/
def releaseDst (s : State) (w : Who) (y : Tensor) : List Nat :=
  if tierOf y.base = 2 ∧ bits y.base 43 26 = 0 then releaseWindows s w.part (bits y.base 25 0) y.bytes else []

/-- What a release MOVE must meet besides R378 (R489), as far as its descriptors say. -/
def releaseReasons (s : State) (w : Who) (x y : Tensor) : List Nat :=
  let scalar (t : Tensor) : Bool := t.fmt == fmtFp32 || t.fmt == fmtBf16
  [refuseIf (!scalar x || !scalar y) 0x02,
   refuseIf (tierOf x.base != 2 || bits x.base 43 26 != 0 || decide (bits x.base 25 0 < 64) ||
     !(inHubGrant s w.part (bits x.base 25 0 - 64) (x.bytes + 64))) 0x03,
   refuseIf (decide (2 ^ 20 < y.bytes)) 0x04]

/-- The checks of R378 and R379, each with the pointer it concerns. -/
def moverReasons (s : State) (w : Who) (r : CmdRec) : List (Nat × Nat) :=
  let k := dstWord r
  let x := moverSrc r
  let y := moverDst r
  let move := r.opcode == opMove
  let pair := checkPair x y
  let crosses (t : Tensor) : Bool := (isMx t.fmt || t.fmt == fmtInt8) && t.axis != 0
  let axes := !move && (crosses x || crosses y)
  let shapes := if move then x.rank != y.rank || x.e0 != y.e0 || x.e1 != y.e1 || x.e2 != y.e2 || x.e3 != y.e3
    else x.e0 != y.e0 || x.e2 != 1 || x.e3 != 1 || y.e2 != 1 || y.e3 != 1 ||
      decide ((if r.opcode = opGather then y.rows else x.rows) < r.w 7)
  let list := if move then [] else [(ptrAddr w.core (r.w 5), 4 * r.w 7)]
  let toGate := move && !(releaseDst s w y).isEmpty
  [(checkPresent r 4, 0), (checkPresent r k, 0),
   (pair, r.w k), (refuseIf axes 0x02, r.w k), (refuseIf shapes 0x04, r.w k),
   (refuseIf (isFr x.fmt && inStaging x) 0x03, r.w 4), (refuseIf (isFr y.fmt && inStaging y) 0x03, r.w k),
   (refuseIf (!(spansGranted s w false x.spans)) 0x03, r.w 4)] ++
  (if toGate then (releaseReasons s w x y).map fun a => (a, r.w k)
   else [(refuseIf (!(spansGranted s w true y.spans)) 0x03, r.w k)]) ++
  [(refuseIf (spansMeet (x.paddedSpans ++ list) y.paddedSpans) 0x0A, r.w k),
   (if copiesBits x y then 0 else checkSr r y, r.w k)]

/-- The check of MOVE, GATHER and SCATTER. The list itself is read at issue (R379). -/
def fetchMover (s : State) (w : Who) (r : CmdRec) : Fetch :=
  let list (ds : List (Nat × List Word)) : Fetch :=
    if r.opcode = opMove then .ok ds
    else if r.w 7 = 0 ∨ 1048576 < r.w 7 then .refuse 0x04 0
    else if r.w 5 = 0 then .refuse 0x03 0
    else if checkPtr s w (r.w 5) (4 * r.w 7) 64 ≠ 0 then .refuse (checkPtr s w (r.w 5) (4 * r.w 7) 64) (r.w 5)
    else .ok ds
  (fetchDescs s w r [4, dstWord r]).bind fun ds => (list ds).bind fun ds =>
    firstReason (moverReasons s w (r.withDescs ds)) ds

/-! ### The elements that move -/

/-- The index list, read whole at issue. -/
def moverList (s : State) (w : Who) (r : CmdRec) : List Nat :=
  if r.opcode = opMove then [] else (viewWords s (ptrKey s w (r.w 5)) (r.w 7)).map BitVec.toNat

/-- Each destination row with its source row. A row that a later entry writes again takes that entry's alone (R379). -/
def moverRows (r : CmdRec) (y : Tensor) (idx : List Nat) : List (Nat × Nat) :=
  if r.opcode = opMove then (List.range y.rows).map fun i => (i, i)
  else if r.opcode = opGather then idx.zipIdx.map fun e => (e.2, e.1)
  else (idx.zipIdx.filter fun e => !((idx.drop (e.2 + 1)).contains e.1)).map fun e => (e.1, e.2)

/-- The value of a source element: an INT8 element is i × S (R54, R378). -/
def moverVal (s : State) (p : Planes) (c r : Nat) : Val :=
  if isFr p.t.fmt then
    decodeIn p.t.fmt (frCode s p.key p.t.fmt (p.t.linear c r)) (frScale s p.key p.t.fmt (p.t.linear c r))
  else if p.t.fmt = fmtInt8 then (p.val s c r).mul (decodeFp32 p.t.scale)
  else p.val s c r

/-- First byte, from a plane's key, of an element, and the bytes it takes part in. -/
def elemSpan (t : Tensor) (c r : Nat) : Nat × Nat :=
  if isFr t.fmt then
    let i := t.linear c r
    (i / 1024 * frBytes t.fmt + 32 + i % 1024 * fmtBits t.fmt / 8, 1)
  else
    let bit := t.at c r * fmtBits t.fmt
    (bit / 8, (bit % 8 + fmtBits t.fmt + 7) / 8)

/-- The tile of 64 KiB of destination in which an element commits: that of its block's last element (R201). -/
def tileOf (t : Tensor) (c r : Nat) : Nat :=
  let c1 := if (isMx t.fmt ∧ t.axis = 0) ∨ isFr t.fmt then min (t.e0 - 1) (c / 32 * 32 + 31) else c
  let r1 := if isMx t.fmt ∧ t.axis = 1 then min (t.rows - 1) (r / 32 * 32 + 31) else r
  max (elemSpan t c r).1 (elemSpan t c1 r1).1 / 65536

/-- The unit with an uncorrectable error that the read of an element meets. -/
def elemBad (s : State) (p : Planes) (c r : Nat) : Option Nat :=
  let e := elemSpan p.t c r
  let sc := if isMx p.t.fmt then some (p.skey + p.t.sat c r)
    else if isFr p.t.fmt then some (frScaleKey p.key p.t.fmt (p.t.linear c r)) else none
  (badUnit s (p.key + e.1) e.2).or (sc.bind fun k => badUnit s k 1)

/-- One element to move: its column, its destination row and its source row. -/
structure Moved where
  c  : Nat
  dr : Nat
  sr : Nat

/-- The bytes that the elements leave in the destination (R378). -/
def moverBytes (s : State) (w : Who) (mode : Nat) (x y : Tensor) (ms : List Moved) : Overlay :=
  let p := planesOf s w x
  let q := planesOf s w y
  if copiesBits x y then
    ms.foldl (fun (o : Overlay) m =>
      let o1 := if isMx x.fmt then mput o (q.skey + y.sat m.c m.dr) (viewByte s (p.skey + x.sat m.c m.sr)) else o
      putCode s o1 q.key (fmtBits y.fmt) (y.at m.c m.dr) (p.code s m.c m.sr)) []
  else
    let rc := roundCtx s w (if isFr x.fmt then rmRne else mode) 0 y.id
    if isFr y.fmt then
      putFr s q.key y rc (ms.foldl (fun (a : SMap Val) m =>
        mput a (y.linear m.c m.dr) (moverVal s p m.c m.sr)) []) []
    else (putTensor s q rc (ms.map fun m => { r := m.dr, c := m.c, v := moverVal s p m.c m.sr }) []).1

/-- Spans in order, those that meet or adjoin joined. -/
def mergeSpans (l : List (Nat × Nat)) : List (Nat × Nat) :=
  l.foldr (fun a acc => match acc with
    | b :: rest => if a.1 ≤ b.1 ∧ b.1 ≤ a.1 + a.2 then (a.1, max a.2 (b.1 + b.2 - a.1)) :: rest else a :: acc
    | [] => [a]) []

/-- The spans of a source that a movement command reads: all of it, or the rows that its list names (R379). -/
def moverSpans (s : State) (w : Who) (r : CmdRec) (idx : List Nat) : List (Nat × Nat) :=
  let x := moverSrc r
  let p := planesOf s w x
  if r.opcode = opMove then keySpans s w x
  else (if r.opcode = opGather then idx else List.range idx.length).flatMap fun m =>
    mergeSpans ((List.range x.e0).map fun c => let e := elemSpan x c m; (p.key + e.1, e.2)) ++
      if isMx x.fmt then mergeSpans ((List.range x.e0).map fun c => (p.skey + x.sat c m, 1))
      else if isFr x.fmt then mergeSpans ((List.range x.e0).map fun c => (frScaleKey p.key x.fmt (x.linear c m), 1)) else []

/-- Reads of spans by the movement engine: those of its own slab through the vertical port (R371). -/
def moverReads (s : State) (g : Nat) (spans : List (Nat × Nat)) : State :=
  let own (e : Nat × Nat) : Bool := tierOf e.1 == 1 && bits e.1 43 36 == g
  readSpans (readSpans s true (spans.filter own)) false (spans.filter fun e => !own e)

/-- A movement command runs tile by tile. A tile whose source meets an uncorrectable unit does not commit, and ends the
command (R410). -/
def runMover (s : State) (g : Nat) (r : CmdRec) : State :=
  let w := whoOf s g r.ctx
  let x := moverSrc r
  let y := moverDst r
  let p := planesOf s w x
  let idx := moverList s w r
  let rows := moverRows r y idx
  let spans := moverSpans s w r idx
  let all := rows.flatMap fun e => (List.range y.e0).map fun c => ({ c := c, dr := e.1, sr := e.2 } : Moved)
  let bads := if (badInSpans s spans).isNone then []
    else all.filterMap fun m => (elemBad s p m.c m.sr).map fun u => (tileOf y m.c m.dr, u)
  let stop := bads.foldl (fun (a : Option (Nat × Nat)) e => match a with
    | none => some e
    | some b => if e.1 < b.1 then some e else some b) none
  let ms := match stop with
    | none => all
    | some b => all.filter fun m => decide (tileOf y m.c m.dr < b.1)
  let out := moverBytes s w r.rmode x y ms
  let tiles := (ms.map fun m => tileOf y m.c m.dr).dedup.length
  let s1 := (moverReads s g spans).count (pnLs g) 4 out.length
  let s2 := if copiesBits x y then s1 else s1.count (pnLs g) 5 ms.length
  let s3 := match stop with
    | some b => raiseBadIn s2 w.part (some r.ctx) r.cmdId b.2 ((bads.filter fun e => e.1 == b.1).map fun e => (e.2, 1))
        (((all.find? fun m => tileOf y m.c m.dr == b.1).map fun m => (m.dr, m.c)).getD (0, 0))
    | none => s2
  commitRun g .mq r w { s := s3, out := out, land := landedTiles y (ms.map Moved.dr), tiles := tiles, status := if stop.isSome then stUncorrectable else 0 }
    (s.core g).aclk 0

/-! ### Sources in lent regions (R385) -/

/-- The key under which a core keeps the bytes of a lent region that it has asked for. -/
def privKey (g a : Nat) : Nat := (g + 1) <<< 48 + a

/-- The bytes that have arrived stand at the keys that their tier-4 addresses name; and they are gone again. -/
def mountReads (g : Nat) (spans : List (Nat × Nat)) (s : State) : State :=
  spans.foldl (fun (t : State) e => memWrite t e.1 (memRead t (privKey g e.1) e.2)) s
def dropReads (g : Nat) (spans : List (Nat × Nat)) (s : State) : State :=
  spans.foldl (fun (t : State) e =>
    memWrite (memWrite t e.1 (List.replicate e.2 0)) (privKey g e.1) (List.replicate e.2 0)) s

/-- The spans of a movement command's source that other devices lend. -/
def remoteSpans (s : State) (w : Who) (r : CmdRec) : List (Nat × Nat) :=
  (keySpans s w (moverSrc r)).filter fun e => keyRemote e.1

/-- A command whose READs have all been answered runs. -/
def finishReads (s : State) (g : Nat) (r : CmdRec) : State :=
  let spans := remoteSpans s (whoOf s g r.ctx) r
  dropReads g spans (runMover (mountReads g spans (s.modCore g fun c => { c with reads := none })) g r)

/-- A command asks for the bytes that lent regions hold; a lender that cannot be reached fails it (R438). -/
def startReads (s : State) (g : Nat) (r : CmdRec) : State :=
  let w := whoOf s g r.ctx
  let spans := remoteSpans s w r
  if (firstLost s w (spans.map Prod.fst)).isSome then
    completeFront (lostTrap s w r.cmdId (spans.map Prod.fst)) g .mq r { status := stLinkTimeout }
  else
    let sent := sendReads s w (.command g .mq r.idx) (spans.map fun e => (e.1, e.2, privKey g e.1))
    sent.1.modCore g fun c => { c with reads := some sent.2.1 }

/-! ### The release gate (R487–R492) -/

/-- The seal unit's state of a partition. -/
def modSealed (s : State) (p : Nat) (f : SealedPart → SealedPart) : State :=
  s.modPart p fun v => { v with sealedPart := v.sealedPart.map f }

/-- The program index to which a context is bound (R484, R494). -/
def ctxProg (s : State) (p x : Nat) : Nat :=
  bits (s.regN pnSeal (0x200 + p * 0x80 + x / 4 * 4)) (6 * (x % 4) + 5) (6 * (x % 4))

/-- Every tag over a range of hub SRAM names a context of the partition whose program the mask lists (R488, R489). -/
def tagsAllow (s : State) (p mask off n : Nat) : Bool :=
  (List.range' (off / 256) ((off + n - 1) / 256 + 1 - off / 256)).all fun u =>
    let t := mget 0 s.tags u
    t != 0 && (t - 1) / 8 == p && mask.testBit (ctxProg s p ((t - 1) % 8))

/-- The first check of the gate that fails (R489): 0 program, 1 contributors, 2 bytes per step. -/
def gateDenies (s : State) (p : Nat) (v : SealedPart) (rule : ReleaseRule) (ri contrib off n bytes : Nat) : Option Nat :=
  if !rule.valid || !(tagsAllow s p rule.progMask.toNat off n) then some 0
  else if contrib < rule.minContrib then some 1
  else if rule.bytesPerStep < mget 0 v.released ri + bytes then some 2
  else none

/-- The release log ring of a partition: entries as a power of two, first key, and whether it is full (R492, R494). -/
def logLog2 (s : State) (p : Nat) : Nat :=
  let n := bits (s.regN pnSeal (0x20C + p * 0x80)) 20 16
  if 6 ≤ n ∧ n ≤ 16 then n else 6
def logFull (s : State) (p : Nat) : Bool :=
  ((s.part p).logHeadTail - BitVec.ofNat 17 (s.regN pnSeal (0x210 + p * 0x80))).toNat == 2 ^ logLog2 s p

/-- The epoch that log entries and reports of a partition name: that of the TRAINING job, or 0 (R479, R492). -/
def partEpoch (s : State) (p : Nat) : Nat := if trainingPart s = some p then s.sched.epoch.toNat else 0

/-- The log entry of a decision (R492). -/
def logEntry (s : State) (p : Nat) (h : HeldRelease) (hash : List Byte) : List Byte :=
  leBytes 8 (s.part p).logCount.toNat ++ leBytes 8 s.bell.count.toNat ++ leBytes 8 (partEpoch s p) ++ leBytes 2 h.rule ++
    leBytes 1 (if h.denial.isSome then 1 else 0) ++ leBytes 1 (h.denial.getD 0) ++ leBytes 4 h.contrib ++ leBytes 8 h.bytes ++
    leBytes 8 h.dest ++ hash ++ List.replicate 16 0

/-- An entry is appended at the ring's tail, and the chain value extended by it (R492). The ring lies outside all grants: what
of it does not is not written (log 133). -/
def appendLog (s : State) (p : Nat) (entry : List Byte) : State :=
  let slot := (s.part p).logHeadTail.toNat % 2 ^ logLog2 s p
  let at_ := s.regAddr pnSeal (0x208 + p * 0x80) + 128 * slot
  let s1 := if tierOf at_ = 2 ∧ bits at_ 43 26 = 0 ∧ outsideAll s (bits at_ 25 0) 128 then (memStore s at_ entry).1 else s
  s1.modPart p fun q =>
    { q with logHeadTail := q.logHeadTail + 1, logCount := q.logCount + 1, logChain := shaOf [hashBytes q.logChain, entry] }

/-- Two FP64 numbers multiplied, and the root of one, each rounded to nearest even (R491). -/
def mulFp64 (a b : Val) : Val := decodeFp64 (toFp64 (a.mul b))
/-- The root of m × 2^e, from the integer root of m with 2 × 64 further bits, a sticky bit below it. -/
def rootFp64 (v : Val) : Val :=
  match v with
  | .fin m e =>
    if m ≤ 0 then v
    else
      let k : Int := if e % 2 = 0 then 128 else 129
      let n := (shl m k).toNat
      let r := Nat.sqrt n
      decodeFp64 (toFp64 (.fin (2 * r + (if r * r = n then 0 else 1) : Nat) ((e - k) / 2 - 1)))
  | _ => v

/-- A standard normal by Box–Muller from two uniforms (R491): the root of −2 ln u times cos 2πv, in FP64. -/
def boxMuller (u v : BitVec 53) : Val :=
  mulFp64 (rootFp64 (mulFp64 (.fin (-2) 0) (decodeFp64 (Config.gateLn u).toNat))) (decodeFp64 (Config.gateCos v).toNat)

/-- The elements that a release writes, noise added (R491), and the partition's generator after them. -/
def releaseElems (s : State) (w : Who) (draw : Nat) (gen : Drbg) (rule : ReleaseRule) (x : Tensor) (ms : List Moved) :
    List OutElem × Drbg × Nat :=
  let p := planesOf s w x
  let sigma := decodeFp64 rule.sigma.toNat
  ms.foldl (fun (acc : List OutElem × Drbg × Nat) m =>
    let v := p.val s m.c m.sr
    let due := 2 ^ 16 ≤ acc.2.1.requests
    let g := if due then acc.2.1.reseed (entropy (acc.2.2 + 1) 48) else acc.2.1
    let r := g.next
    let u := Config.uniforms (BitVec.ofNat 128 (ofLe r.1))
    let q := if v.isNan || v.isInf then v else v.add (sigma.mul (boxMuller u.1 u.2))
    (acc.1 ++ [{ r := m.dr, c := m.c, v := q }], r.2, acc.2.2 + if due then 1 else 0)) ([], gen, draw)

/-- A decided release is logged, a passed one after its destination is written in one piece, and its MOVE ends (R489,
R492). -/
def endRelease (s : State) (g : Nat) (r : CmdRec) (h : HeldRelease) : State :=
  let w := whoOf s g r.ctx
  let bytes := h.runs.flatMap Prod.snd
  let free (s : State) : State := modSealed s w.part fun v => { v with waiting := merase v.waiting g }
  match h.denial with
  | some code =>
    let s1 := appendLog s w.part (logEntry s w.part h (List.replicate 64 0))
    let s2 := raiseTrap (s1.count pnSeal 1 1) pnSeal
      { code := trapRelease, level := 2, part := some w.part, ctx := some w.ctx, cmdId := r.cmdId,
        detail := fields [(0, h.rule), (8, code)] }
    completeFront (free s2) g .mq r { status := stReleaseDenied }
  | none =>
    let st := gateStores s h.runs
    let s1 := appendLog st.1 w.part (logEntry st.1 w.part h (sha512 bytes))
    let s2 := ((s1.count pnSeal 0 1).count pnSeal 2 bytes.length).count (pnLs g) 4 bytes.length
    commitRun g .mq r w
      { s := free s2, tiles := ceilDiv bytes.length 65536, status := if st.2.isSome then stUncorrectable else 0 } (s.core g).aclk 0

/-- A decided release ends at once, or waits for room in the log, and its MOVE with it (R492). -/
def holdRelease (s : State) (g : Nat) (r : CmdRec) (h : HeldRelease) : State :=
  let p := (whoOf s g r.ctx).part
  if logFull s p then (modSealed s p fun q => { q with waiting := mput q.waiting g h }).count pnSeal 3 1
  else endRelease s g r h

/-- A passed MOVE: its bytes are reserved and read, and are written at once, or when the log has room (R489, R492). -/
def passRelease (s : State) (g : Nat) (r : CmdRec) (v : SealedPart) (rule : ReleaseRule) (ri contrib : Nat) : State :=
  let w := whoOf s g r.ctx
  let x := moverSrc r
  let y := moverDst r
  let ms := (List.range y.rows).flatMap fun i => (List.range y.e0).map fun c => ({ c := c, dr := i, sr := i } : Moved)
  match badInSpans s (keySpans s w x) with
  | some u => failBad s g .mq r u (keySpans s w x)
  | none =>
    let ne := releaseElems s w s.sealU.keysDrawn v.drbg rule x ms
    let out := if rule.noise then (putTensor s (planesOf s w y) (roundCtx s w r.rmode 0 y.id) ne.1 []).1
      else moverBytes s w r.rmode x y ms
    let s1 := moverReads s g (keySpans s w x)
    let s2 := if copiesBits x y && !rule.noise then s1 else s1.count (pnLs g) 5 ms.length
    let s3 : State := if rule.noise then { s2 with sealU := { s2.sealU with keysDrawn := ne.2.2 } } else s2
    let s4 := modSealed s3 w.part fun q =>
      { q with released := mset 0 q.released ri (mget 0 q.released ri + out.length), drbg := if rule.noise then ne.2.1 else q.drbg }
    holdRelease s4 g r { rule := ri, contrib := contrib, dest := y.base, bytes := out.length, runs := runsOf out }

/-- A release MOVE at the gate, whose destination lies in the windows `wins` (R489, R490). It is decided once, when it
issues; a decided one that waits for the log ends when there is room. -/
def issueRelease (s : State) (g : Nat) (r : CmdRec) (wins : List Nat) : State :=
  let w := whoOf s g r.ctx
  let x := moverSrc r
  let y := moverDst r
  match (s.part w.part).sealedPart with
  | none => refuseFront s g .mq r 0x03
  | some v =>
    match mget? v.waiting g with
    | some h => if logFull s w.part then s else endRelease s g r h
    | none =>
      let decl := keyOf s w (x.base - 64)
      match badUnit s decl 64 with
      | some u => failBad s g .mq r u [(decl, 64)]
      | none =>
        let ri := bits (viewNat s decl 4) 3 0
        let contrib := viewNat s (decl + 4) 4
        let rest := viewNat s decl 4 / 16 != 0 || viewNat s (decl + 8) 56 != 0
        let rule := v.rules.getD ri { valid := false, noise := false, outFmt := 0, window := 0, minContrib := 0,
                                      bytesPerStep := 0, progMask := 0, sigma := 0 }
        if y.fmt ≠ rule.outFmt then refuseFront s g .mq r 0x02
        else if rest ∨ !(wins.contains rule.window) then refuseFront s g .mq r 0x03
        else match gateDenies s w.part v rule ri contrib (bits x.base 25 0 - 64) (x.bytes + 64) (elemBytes y) with
        | some code =>
          holdRelease s g r { rule := ri, denial := some code, contrib := contrib, dest := y.base, bytes := elemBytes y, runs := [] }
        | none => passRelease s g r v rule ri contrib

/-! ### Issue -/

/-- A movement command at issue: its list is read and checked, its release decided, the bytes it asks of lent regions
awaited; then it runs. -/
def issueMover (s : State) (g : Nat) (r : CmdRec) : State :=
  let w := whoOf s g r.ctx
  let x := moverSrc r
  let y := moverDst r
  let listSpan := if r.opcode = opMove then [] else [(ptrKey s w (r.w 5), 4 * r.w 7)]
  withDeps s g .mq r (match badInSpans s listSpan with
    | some u => failBad s g .mq r u listSpan
    | none =>
      let idx := moverList s w r
      if idx.any fun i => decide ((if r.opcode = opGather then x.rows else y.rows) ≤ i) then refuseFront s g .mq r 0x04
      else if r.opcode = opMove ∧ releaseDst s w y ≠ [] then issueRelease s g r (releaseDst s w y)
      else match (s.core g).reads with
        | some _ => s
        | none => if (remoteSpans s w r).isEmpty then runMover (moverReads s g listSpan) g r else startReads s g r)

/-- MOVE (R378): the front command of the core's movement queue issues. -/
def execMove (core : Nat) (s : State) : Out :=
  .next (match frontOf s core .mq opMove with
    | none => s
    | some r => issueMover s core r)

/-- GATHER (R379). -/
def execGather (core : Nat) (s : State) : Out :=
  .next (match frontOf s core .mq opGather with
    | none => s
    | some r => issueMover s core r)

/-- SCATTER (R379). -/
def execScatter (core : Nat) (s : State) : Out :=
  .next (match frontOf s core .mq opScatter with
    | none => s
    | some r => issueMover s core r)

end Sys2Proof.Machine
end

