-- ==== Sys2Proof/Machine/AlmOps.lean ====
section
/-! DEFINITION. Almanac rings: semaphores, entries and their fields, reading and checking them, passing, failing, missing
deadlines (R198, R350–R352, R357, R358). -/

namespace Sys2Proof.Machine

/-! ### Semaphores (R198, R199, R461) -/

def semKey (s : State) (p x n : Nat) : Nat := ctxPage s p x + 4 * (n % 256)
def semValue (s : State) (p x n : Nat) : Nat := viewNat s (semKey s p x n) 4

/-- A semaphore is written; the unit that could not be written, if any (R372). -/
def setSem (s : State) (p x n v : Nat) : State × Option Nat := memStore s (semKey s p x n) (leBytes 4 (v % 2 ^ 32))
/-- ADD, modulo 2^32. -/
def addSem (s : State) (p x n v : Nat) : State × Option Nat := setSem s p x n (semValue s p x n + v)

/-! ### Entries (R352) -/

def Entry.w (e : Entry) (k : Nat) : Nat := wordAt e.words k
def Entry.time (e : Entry) : Nat := longAt e.words 0
def Entry.deadline (e : Entry) : Nat := e.time + e.w 2
def Entry.action (e : Entry) : Nat := bits (e.w 3) 3 0
def Entry.fallback (e : Entry) : Nat := bits (e.w 3) 7 4
def Entry.alt (e : Entry) : Nat := bits (e.w 3) 15 8
def Entry.gateValue (e : Entry) : Nat := bits (e.w 3) 31 16
def Entry.gateSem (e : Entry) : Nat := bits (e.w 4) 7 0
def Entry.doneSem (e : Entry) : Nat := bits (e.w 4) 15 8
def Entry.bytes (e : Entry) : Nat := 256 * bits (e.w 4) 31 16
def Entry.target (e : Entry) : Nat := e.w 5 + 2 ^ 32 * bits (e.w 6) 15 0
def Entry.source (e : Entry) : Nat := bits (e.w 6) 31 16 + 2 ^ 16 * e.w 7

def actPrefetch : Nat := 0
def actSend : Nat := 1
def actRecv : Nat := 2
def actBoundary : Nat := 3
def actToll : Nat := 4
def actEval : Nat := 5
def actRetrain : Nat := 6
def actCheckpoint : Nat := 7
def actWake : Nat := 8

def fbWait : Nat := 0
def fbRecompute : Nat := 1
def fbLocalCopy : Nat := 2
def fbSkip : Nat := 3

/-- The fallbacks that R358 allows for an action; for TOLL the field is ignored. -/
def fallbackAllowed (act fb : Nat) : Bool :=
  if act = actPrefetch then decide (fb ≤ 3)
  else if act = actSend then fb == 0
  else if act = actRecv then decide (fb ≤ 2)
  else if act = actCheckpoint then fb == 0 || fb == 3
  else if act = actToll then decide (fb ≤ 3)
  else fb == 0

/-- An action moves data. -/
def movesData (act : Nat) : Bool := [actPrefetch, actSend, actRecv, actCheckpoint].contains act

/-! ### Rings (R350, R368) -/

/-- Partition and context of ring `k`. -/
def ringPart (k : Nat) : Nat := k / 8
def ringCtx (k : Nat) : Nat := k % 8

def almReg (k off : Nat) : Nat := 0x200 + k * 0x20 + off
def almOn (s : State) (d k : Nat) : Bool := (s.regN (pnAlm d) (almReg k 4)).testBit 31
def almLog2 (s : State) (d k : Nat) : Nat :=
  let n := bits (s.regN (pnAlm d) (almReg k 4)) 20 16
  if 6 ≤ n ∧ n ≤ 16 then n else 6

def entryOf (s : State) (d k pos : Nat) : Option Entry := ((s.die d).ring k).entries.find? fun e => e.pos == pos
def modEntry (s : State) (d k pos : Nat) (f : Entry → Entry) : State :=
  s.modDie d fun v => v.setRing k
    { v.ring k with entries := (v.ring k).entries.map fun e => if e.pos = pos then f e else e }

/-- Whose entry it is; addresses in slab, hub SRAM, HBM and granary need no core. -/
def entryWho (d k : Nat) : Who := { core := 40 * d, part := ringPart k, ctx := ringCtx k }

/-- The lowest-numbered compute die that holds a quadrant of a partition (R355). -/
def leadDie (s : State) (p : Nat) : Option Nat := (List.range 4).find? fun d => ownsOnDie s p d

/-- A context of the TRAINING job, evaluation contexts included. -/
def ofTraining (s : State) (p x : Nat) : Bool := match jobOf s p x with | some j => j.training | none => false

/-! ### Where an entry's data lies (R352, R381) -/

/-- A range that an entry may name: a tier-0 address carries its core; a destination in local store lies in vector
scratch. -/
def entryGranted (s : State) (d k : Nat) (write : Bool) (a n : Nat) : Bool :=
  let w := entryWho d k
  if tierOf a = 0 then
    let g := bits a 43 36
    let v : Who := { w with core := g }
    bits a 35 24 == 0 && decide (g < 160) && partOfCore s g == some w.part &&
      (inScratch s v (bits a 23 0) n || (!write && inStage s v (bits a 23 0) n))
  else granted s w write a n

def entryKey (s : State) (d k a : Nat) : Nat := if tierOf a = 0 then a else keyOf s (entryWho d k) a

/-- The check of an entry's addresses. What others lend is no source of a SEND and no target of a reception (R385). -/
def checkPlaces (s : State) (d k : Nat) (e : Entry) : Nat :=
  let n := e.bytes
  let copy := e.action == actPrefetch || e.action == actCheckpoint
  let src := e.action == actSend || copy
  let dst := e.action == actRecv || copy
  if copy && (e.source % 256 != 0 || e.target % 256 != 0) then 0x03
  else if (e.action == actSend && tierOf e.source == 4) || (e.action == actRecv && tierOf e.target == 4) then 0x03
  else if src && !(entryGranted s d k false e.source n) then 0x03
  else if dst && !(entryGranted s d k true e.target n) then 0x03
  else 0

/-- The level of the job whose context a ring serves (R448). -/
def ringLevel (s : State) (k : Nat) : Nat := (jobOf s (ringPart k) (ringCtx k)).elim 3 Job.level

/-- The check of an entry as it is read: reserved codes, CHECKPOINT at level 2 among them (R448), its place, its time after the entry before it, its addresses. -/
def checkEntry (s : State) (d k : Nat) (last : Nat) (e : Entry) : Nat :=
  let act := e.action
  let lead := ofTraining s (ringPart k) (ringCtx k) && leadDie s (ringPart k) == some d
  if 8 < act ∨ !(fallbackAllowed act e.fallback) ∨ (act = actCheckpoint ∧ ringLevel s k = 2) then 0x01
  else if e.time < last then 0x01
  else if (e.bytes != 0) != movesData act then 0x01
  else if (act == actSend && e.target / 2 ^ 12 != 0) || (act == actRecv && e.source / 2 ^ 12 != 0) then 0x01
  else if (act == actBoundary || act == actToll) && !lead then 0x01
  else checkPlaces s d k e

/-! ### Ends of an entry (R357) -/

/-- 1 is added to the entry's DONE_SEM; a semaphore that cannot be written fails the step (R372). -/
def signalDone (s : State) (k : Nat) (e : Entry) : State :=
  let p := ringPart k
  let x := ringCtx k
  let a := addSem s p x e.doneSem 1
  match (badUnit s (semKey s p x e.doneSem) 4).or a.2 with
  | none => a.1
  | some u => failStep (raiseBad s p (some x) 0 u) p x

/-- The entry is done. -/
def closeEntry (s : State) (d k : Nat) (e : Entry) : State :=
  signalDone (modEntry s d k e.pos fun v => { v with phase := .done, list := none }) k e

/-- The entry fails: its context's step fails, it is counted and raises ENTRY_FAIL, and DONE_SEM is signalled. -/
def failedEntry (s : State) (d k : Nat) (e : Entry) : State :=
  let s1 := failStep (modEntry s d k e.pos fun v => { v with failed := true }) (ringPart k) (ringCtx k)
  closeEntry (setEvent (s1.count (pnAlm d) 6 1) (pnAlm d) 1) d k e

/-- The entry is refused with DESCRIPTOR_INVALID. -/
def refusedEntry (s : State) (d k reason : Nat) (e : Entry) : State :=
  failedEntry (raiseTrap s (pnAlm d)
    { code := trapDescriptor, level := 1, part := some (ringPart k), ctx := some (ringCtx k), detail := fields [(0, reason)] })
    d k e

/-- The entry meets an uncorrectable unit. -/
def badEntry (s : State) (d k u : Nat) (e : Entry) : State :=
  failedEntry (raiseBad s (ringPart k) (some (ringCtx k)) 0 u) d k e

/-! ### Reading (R350, R351) -/

def gateMet (s : State) (k : Nat) (e : Entry) : Bool :=
  e.gateValue == 0 || decide (e.gateValue ≤ semValue s (ringPart k) (ringCtx k) e.gateSem)

/-- The almanac rings of a partition are self-timed: after a relock those of a partition with no TRAINING job are timed
at once (R348). -/
def ringSelfTimed (s : State) (k : Nat) : Bool :=
  s.bell.selfTimed && !(s.bell.locked && trainingPart s != some (ringPart k))

/-- The almanac of a die is self-timed: after a relock only where the TRAINING job still waits for its boundary (R348). -/
def dieSelfTimed (s : State) (d : Nat) : Bool :=
  s.bell.selfTimed && (!s.bell.locked || (trainingPart s).elim false fun p => ownsOnDie s p d)

/-- An entry whose window opens at its time: whether its gate is met is settled in that tick (R364, R365); an entry read
later has it settled as it is read (log 115). -/
def sampleGate (s : State) (k : Nat) (e : Entry) : Entry :=
  if (e.action = actEval ∨ e.action = actRetrain) ∧ e.gate = none ∧ e.phase = .waiting ∧ e.time ≤ s.bell.count.toNat ∧
      ringSelfTimed s k = false then
    { e with gate := some (gateMet s k e) }
  else e

/-- A window that does not open: its gate was not met at its time. -/
def isSkipped (e : Entry) : Bool := e.phase == .waiting && e.gate == some false

/-- A window is skipped and counted (R364, R365, R368): it does not fire. -/
def skipWindow (s : State) (d k : Nat) (e : Entry) : State := closeEntry (s.count (pnAlm d) 5 1) d k e

/-- The next entry of the ring is read: an entry that its check refuses, or that cannot be read, fails. -/
def readEntry (s : State) (d k : Nat) : State :=
  let r := (s.die d).ring k
  let i := r.fetched.toNat
  let a := s.regAddr (pnAlm d) (almReg k 0) + 32 * (i % 2 ^ almLog2 s d k)
  let here := tierOf a == 1 && bits a 43 36 / 40 == d && inGrants s (entryWho d k) false a 32
  let e : Entry := sampleGate s k { pos := i, words := if here && (badUnit s a 32).isNone then viewWords s a 8 else [] }
  let s1 := s.modDie d fun v => v.setRing k
    { r with fetched := r.fetched + 1, entries := r.entries ++ [e],
             lastTime := if e.words.isEmpty then r.lastTime else BitVec.ofNat 64 e.time }
  if !here then refusedEntry s1 d k 0x03 e
  else match badUnit s a 32 with
  | some u => badEntry (noteOthers s1 [(a, 32)] u) d k u e
  | none =>
    let reason := checkEntry s d k r.lastTime.toNat e
    let s2 := readSpans s1 false [(a, 32)]
    if reason ≠ 0 then refusedEntry s2 d k reason e else if isSkipped e then skipWindow s2 d k e else s2

/-- HEAD passes the entries that are done. -/
def passEntries (s : State) (d k : Nat) : State :=
  s.modDie d fun v =>
    let r := v.ring k
    let n := (r.entries.takeWhile fun e => e.phase == .done).length
    v.setRing k { r with head := r.head + BitVec.ofNat 17 n, entries := r.entries.drop n }

/-- Another entry may be read: TAIL covers it, the ring is enabled, and it lies at most 64 past HEAD. -/
def readsOn (s : State) (d k : Nat) : Bool :=
  let r := (s.die d).ring k
  almOn s d k && r.fetched != r.tail && decide ((r.tail - r.fetched).toNat ≤ 2 ^ almLog2 s d k) &&
    decide (r.entries.length < 64)

/-- Entries are passed and read as far as they may be. -/
def runRing (d k : Nat) : Nat → State → State
  | 0, s => passEntries s d k
  | n + 1, s =>
    let s1 := passEntries s d k
    if readsOn s1 d k then runRing d k n (readEntry s1 d k) else s1

def settleRing (s : State) (d k : Nat) : State :=
  let r := (s.die d).ring k
  runRing d k ((r.tail - r.fetched).toNat + 1) s

/-- The gates of every window whose time has come are settled, and those that are not met are skipped. -/
def sampleGates (s : State) : State :=
  let s1 : State := { s with dies := s.dies.map fun d => (d.1, { d.2 with rings := d.2.rings.map fun r =>
      (r.1, { r.2 with entries := r.2.entries.map (sampleGate s r.1) }) }) }
  (s1.dies.flatMap fun d => d.2.rings.flatMap fun r => (r.2.entries.filter isSkipped).map fun e => (d.1, r.1, e)).foldl
    (fun (t : State) e => settleRing (skipWindow t e.1 e.2.1 e.2.2) e.1 e.2.1) s1

/-- The entry completes. -/
def finishEntry (s : State) (d k : Nat) (e : Entry) : State := settleRing (closeEntry s d k e) d k
/-- The entry fails, and the ring goes on. -/
def failEntry (s : State) (d k : Nat) (e : Entry) : State := settleRing (failedEntry s d k e) d k

/-! ### Firing (R349, R354, R355) -/

/-- The entry's context is switched in (R354, R465). -/
def ringRuns (s : State) (k : Nat) : Bool := (s.part (ringPart k)).cur == some (ringCtx k)

/-- Entries in flight on a die (R354, R368): a switch has freed the slots of the entries that it stopped (R471), and an entry
that fell back before it could fire holds none (log 142). -/
def inFlightOn (s : State) (d : Nat) : Nat :=
  min 256 ((((s.die d).rings.filter fun r => ringRuns s r.1).map fun r =>
    (r.2.entries.filter fun e => e.phase == .inFlight && !e.unslotted).length)).sum

/-- The entry before this one in the ring has fired, if it has not been passed. -/
def beforeFired (s : State) (d k : Nat) (e : Entry) : Bool :=
  (((s.die d).ring k).entries.takeWhile fun v => v.pos != e.pos).getLast?.all fun v => v.phase != .waiting

/-- A boundary that is due, at or before the entry's time, has not taken effect yet: the entry fires after it (R356). -/
def boundaryAhead (s : State) (k : Nat) (e : Entry) : Bool :=
  ((s.dies.filterMap fun d => d.2.armed.map Prod.fst) ++ (s.part (ringPart k)).boundaries).any fun t =>
    decide (t.toNat ≤ e.time) && decide (t ≤ s.bell.count)

/-- The first entry of the ring that has this action and may fire; without `gated` the gate is the action's own. -/
def firing (s : State) (d k act : Nat) (gated : Bool) : Option Entry :=
  ((s.die d).ring k).entries.find? fun e =>
    e.phase == .waiting && e.action == act && beforeFired s d k e && ringRuns s k && decide (inFlightOn s d < 256) &&
      (ringSelfTimed s k || (decide (e.time ≤ s.bell.count.toNat) && !boundaryAhead s k e)) && (gateMet s k e || !gated)

/-- The entry has fired: it is in flight and counted, with the ticks it waited past its TIME (R354, R368). -/
def fire (s : State) (d k : Nat) (e : Entry) : State :=
  let s1 := (modEntry s d k e.pos fun v => { v with phase := .inFlight }).count (pnAlm d) 0 1
  if ringSelfTimed s k then s1.count (pnAlm d) 8 1 else s1.count (pnAlm d) 7 (s.bell.count.toNat - e.time)

/-- An entry that is not to fire any more has waited past its TIME (R354, R368): its waiting is counted. -/
def countWait (s : State) (d k : Nat) (e : Entry) : State :=
  if e.phase = .waiting ∧ ringSelfTimed s k = false then s.count (pnAlm d) 7 (s.bell.count.toNat - e.time) else s

/-! ### Misses (R358) -/

/-- A miss is counted; DEADLINE_MISS is raised for the first one since software cleared MISS, or where `always` says. -/
def noteMiss (s : State) (d k : Nat) (e : Entry) (deadline : Nat) (always : Bool) : State :=
  let pn := pnAlm d
  let s1 := s.count pn 1 1
  let off := almReg k 0x18
  let s2 := s1.setReg pn off (s1.reg pn off + 1)
  let s3 := if always || !(s.page pn).evtStatus.getLsbD 0 then
      raiseTrap s2 pn { code := trapDeadlineMiss, level := 1, part := some (ringPart k), ctx := some (ringCtx k),
                        detail := fields [(0, k * 2 ^ 16 + e.pos % 2 ^ almLog2 s d k), (32, deadline % 2 ^ 64), (96, e.fallback)] }
    else s2
  setEvent s3 pn 0

end Sys2Proof.Machine
end

