-- ==== Sys2Proof/Machine/Special.lean ====
section
/-! DEFINITION. The special functions of the vector unit: exact cases, and the bound of R165 around a value computed to
some 240 bits. Which value within the bound the hardware gives is left open (log 5). Exponentials of exact fractions for
attention are here too (R214). -/

namespace Sys2Proof.Machine

/-! ### Fixed-point arithmetic -/

/-- The integer square root, by bits from the top: `k` bits remain. -/
def isqrtGo : Nat → Nat → Nat → Nat
  | 0, _, r => r
  | k + 1, n, r => isqrtGo k n (if (r + 2 ^ k) * (r + 2 ^ k) ≤ n then r + 2 ^ k else r)
def isqrt (n : Nat) : Nat := isqrtGo (Nat.log2 n / 2 + 1) n 0

/-- Fraction bits of the fixed-point numbers. -/
def fxBits : Nat := 256
def fxOne : Int := ((2 ^ fxBits : Nat) : Int)
/-- ln 2 and π in fixed point; π has 512 fraction bits. -/
def fxLn2 : Int := 0xb17217f7d1cf79abc9e3b39803f2f6af40f343267298b62d8a0d175b8baafa2b
def fxPi512 : Int :=
  0x3243f6a8885a308d313198a2e03707344a4093822299f31d0082efa98ec4e6c89452821e638d01377be5466cf34e90c6cc0ac29b7c97c50dd3f84d5b5b5470917
def fxMul (a b : Int) : Int := a * b / fxOne

/-- Σ t x^k ÷ k!, from term `t` of index `k` on. -/
def expSeries (x : Int) : Nat → Nat → Int → Int
  | 0, _, _ => 0
  | n + 1, k, t => t + expSeries x n (k + 1) (fxMul t x / ((k : Int) + 1))

/-- Σ z^(2k+1) ÷ (2k+1). -/
def atanhSeries (z2 : Int) : Nat → Nat → Int → Int
  | 0, _, _ => 0
  | n + 1, k, t => t / (2 * (k : Int) + 1) + atanhSeries z2 n (k + 1) (fxMul t z2)

/-- Alternating series of sine (`k` = 1) and cosine (`k` = 0). -/
def trigSeries (x2 : Int) : Nat → Nat → Int → Int
  | 0, _, _ => 0
  | n + 1, k, t => t + trigSeries x2 n (k + 2) (-(fxMul t x2) / (((k : Int) + 1) * ((k : Int) + 2)))

/-- An exact value's floor and the fraction left, in fixed point; bits below the point beyond 256 are dropped. -/
def fxSplit (m e : Int) : Int × Int :=
  let v := if 0 ≤ e + 256 then shl m (e + 256) else m / ((2 ^ (-(e + 256)).toNat : Nat) : Int)
  (v / fxOne, v % fxOne)

/-- 2^a, a = m × 2^e. -/
def exp2Near (m e : Int) : Val :=
  let q := fxSplit m e
  .fin (expSeries (fxMul q.2 fxLn2) 70 0 fxOne) (q.1 - 256)

/-- log2 of a positive value. -/
def log2Near (m : Nat) (e : Int) : Val :=
  let k := Nat.log2 m
  let y : Int := (m : Int) * fxOne / ((2 ^ k : Nat) : Int)
  let z := (y - fxOne) * fxOne / (y + fxOne)
  let ln := 2 * atanhSeries (fxMul z z) 90 0 z
  .fin (((k : Int) + e) * fxOne + ln * fxOne / fxLn2) (-256)

/-- 1 ÷ v and 1 ÷ √v of a positive value. -/
def rcpNear (m : Nat) (e : Int) : Val := .fin (((2 ^ (Nat.log2 m + 256) / m : Nat) : Int)) (-((Nat.log2 m : Nat) : Int) - 256 - e)
def rsqNear (m : Nat) (e : Int) : Val :=
  let m' := if e % 2 = 0 then m else 2 * m
  let h := (if e % 2 = 0 then e else e - 1) / 2
  let k := Nat.log2 m' + 512
  .fin ((isqrt (2 ^ (k + k % 2) / m') : Nat) : Int) (-(((k + k % 2) / 2 : Nat) : Int) - h)

/-- The angle reduced to [−π, π), in fixed point. -/
def reduceAngle (m e : Int) : Int :=
  let v := if 0 ≤ e + 512 then shl m (e + 512) else m / ((2 ^ (-(e + 512)).toNat : Nat) : Int)
  let r := v % (2 * fxPi512)
  (if fxPi512 ≤ r then r - 2 * fxPi512 else r) / fxOne
def sinNear (m e : Int) : Val := let x := reduceAngle m e; .fin (trigSeries (fxMul x x) 80 1 x) (-256)
def cosNear (m e : Int) : Val := let x := reduceAngle m e; .fin (trigSeries (fxMul x x) 80 0 fxOne) (-256)

/-- The square root to some 64 bits and more, with the remainder as a sticky bit; it rounds as the exact root does. -/
def sqrtSticky (m : Nat) (e : Int) : Val :=
  let m' := if e % 2 = 0 then m else 2 * m
  let h := (if e % 2 = 0 then e else e - 1) / 2
  let n := m' * 2 ^ 128
  let r := isqrt n
  .fin ((2 * r + (if r * r = n then 0 else 1) : Nat) : Int) (h - 65)

/-- The square root rounded to nearest even in FP32 (R165). -/
def sqrtRne (m : Nat) (e : Int) : Val := decodeFp32 (toFp32 rmRne (sqrtSticky m e))

/-! ### The bound (R165, R166) -/

/-- The ulp of a value in FP32: 2^-149 for a subnormal. -/
def ulpFp32 (v : Val) : Val :=
  match v with
  | .fin m e => if m = 0 then .fin 1 (-149) else .fin 1 (max (binade m e) (-126) - 23)
  | v => v

/-- An FP32 value at most `d` from `r`: the point r − d + 2d × t, rounded towards r, where t is fixed by the opcode and
the input bits (log 5). -/
def pickNear (op input : Nat) (r d : Val) : Val :=
  let t : Nat := Config.sfuPick op (BitVec.ofNat 32 input) % 2 ^ 200
  let c := (r.sub d).add ((d.mul (.fin 2 0)).mul (.fin t (-200)))
  decodeFp32 (toFp32 (if c.lt r then rmRup else rmRdn) c)

/-- A special function by opcode (R165). `code` is the FP32 code of the operand. A reciprocal of 2^128 and more, beyond FP32,
is an infinity. -/
def special (op code : Nat) (a : Val) : Val :=
  match a with
  | .nan => .nan
  | .inf n =>
    if op = 0x10 then (if n then Val.zero else .inf false)
    else if op = 0x11 then (if n then .nan else .inf false)
    else if op = 0x12 then Val.zero
    else if op = 0x13 then (if n then .nan else Val.zero)
    else if op = 0x14 then (if n then .nan else .inf false)
    else .nan
  | .fin m e =>
    let neg := decide (m < 0)
    let pow2 := m.natAbs == 2 ^ Nat.log2 m.natAbs
    let b := binade m e
    if op = 0x10 then
      let q := fxSplit m e
      let whole := q.2 == 0 && decide (-256 ≤ e ∨ m = 0)
      if 128 ≤ q.1 then .inf false
      else if (a.lt (.fin (-150) 0)) then Val.zero
      else if whole && decide (-149 ≤ q.1) then .fin 1 q.1
      else pickNear op code (exp2Near m e) (ulpFp32 (exp2Near m e))
    else if op = 0x11 then
      if m = 0 then .inf true else if neg then .nan else if pow2 then .fin b 0
      else pickNear op code (log2Near m.natAbs e) (ulpFp32 (log2Near m.natAbs e))
    else if op = 0x12 then
      if m = 0 then .inf false
      else if pow2 && decide (-149 ≤ -b) && decide (-b ≤ 127) then .fin (if neg then -1 else 1) (-b)
      else
        let r := rcpNear m.natAbs e
        let v := if neg then r.neg else r
        if (Val.fin 1 128).le r then .inf neg else pickNear op code v (ulpFp32 v)
    else if op = 0x13 then
      if m = 0 then .inf false else if neg then .nan else if pow2 && b % 2 == 0 then .fin 1 (-(b / 2))
      else pickNear op code (rsqNear m.natAbs e) (ulpFp32 (rsqNear m.natAbs e))
    else if op = 0x14 then (if m = 0 then Val.zero else if neg then .nan else sqrtRne m.natAbs e)
    else
      if m = 0 then (if op = 0x15 then Val.zero else .fin 1 0)
      else
        let r := if op = 0x15 then sinNear m e else cosNear m e
        let d := Val.max ((ulpFp32 r).mul (.fin 2 0)) (.fin 1 (-25))
        pickNear op code r d

end Sys2Proof.Machine
end

