-- ==== Sys2Proof/Machine/Deckles.lean ====
section
/-! DEFINITION. What attention and the paged cache share: deckle lists, positions and the key floor, the rotary unit, and
the exponentials of the score domain (R214, R228–R235, R240, R241). -/

namespace Sys2Proof.Machine

/-! ### Deckle lists (R232–R235) -/

/-- A deckle: its kind, tiles and parameters, and its number in the list, under which its data were read. -/
structure Deckle where
  kind   : Nat
  causal : Bool
  qt     : Nat
  kt     : Nat
  p0     : Nat
  p1     : Nat
  num    : Nat

def deckleOf (ws : List Word) (num : Nat) : Deckle :=
  let w := wordAt ws
  { kind := bits (w 0) 3 0, causal := (w 0).testBit 4, qt := bits (w 0) 31 8, kt := bits (w 1) 23 0, p0 := w 2, p1 := w 3, num := num }

/-- The deckles of a list of words, header left out. -/
def decklesOf (ws : List Word) : List Deckle :=
  (List.range (ws.length / 4 - 1)).map fun i => deckleOf ((ws.drop (4 * (i + 1))).take 4) i

/-- The key under which data of deckle `i` are read: query ids 0, key ids 1, bitmap 2. -/
def deckleKey (i k : Nat) : Nat := 0x1000 + 4 * i + k

/-- Deckles rise strictly by (QT, KT). -/
def decklesRise : List Deckle → Bool
  | a :: b :: r => (decide (a.qt < b.qt) || (a.qt == b.qt && decide (a.kt < b.kt))) && decklesRise (b :: r)
  | _ => true

/-- The header is refused. -/
def headerBad (ws : List Word) : Bool :=
  let w := wordAt ws
  bits (w 0) 3 0 != 15 || bits (w 0) 31 4 != 0 || bits (w 1) 31 24 != 0 || decide (1 < w 2) || w 3 != 0

/-- A deckle is refused with reason 0x01 (R233, R234): a reserved kind or bit, or a parameter its kind does not have. -/
def deckleBad (ws : List Word) (d : Deckle) : Bool :=
  bits (wordAt ws 0) 7 5 != 0 || bits (wordAt ws 1) 31 24 != 0 || decide (6 < d.kind) || (d.causal && d.kind != 3) ||
    (d.p1 != 0 && d.kind != 3) || (d.p0 != 0 && decide (d.kind ≤ 2))

/-- The data that deckles point to: query and key ids of 128 words, bitmaps of 512. -/
def fetchDeckleData (s : State) (w : Who) : List Deckle → List (Nat × List Word) → Fetch
  | [], ds => .ok ds
  | d :: r, ds =>
    let go (ptr n k : Nat) (ds : List (Nat × List Word)) : Fetch :=
      if bits ptr 30 27 ≠ 0 then .refuse 0x03 ptr else fetchAt s w ds (deckleKey d.num k) ptr n 64
    if d.kind = 3 then ((go d.p0 512 0 ds).bind (go d.p1 512 1)).bind (fetchDeckleData s w r)
    else if d.kind = 6 then (go d.p0 2048 2 ds).bind (fetchDeckleData s w r)
    else fetchDeckleData s w r ds

/-- A deckle list is read under key `k` and checked (R234). -/
def fetchDeckles (s : State) (w : Who) (k ptr qtiles ktiles : Nat) (ds : List (Nat × List Word)) : Fetch :=
  if ptr = 0 then .ok ds
  else (fetchAt s w [] k ptr 16 64).bind fun head =>
    let hw := (head.headD (0, [])).2
    let count := bits (wordAt hw 1) 23 0
    if headerBad hw then .refuse 0x01 ptr
    else (fetchAt s w ds k ptr (16 * (count + 1)) 64).bind fun ds1 =>
      let ws := (ds1.getLastD (0, [])).2
      let dk := decklesOf ws
      if dk.any fun d => deckleBad ((ws.drop (4 * (d.num + 1))).take 4) d then .refuse 0x01 ptr
      else if !decklesRise dk then .refuse 0x01 ptr
      else if dk.any fun d => decide (qtiles ≤ d.qt) || decide (ktiles ≤ d.kt) ||
          (d.kind == 4 && (d.p0 == 0 || decide (2 ^ 24 < d.p0))) then .refuse 0x04 ptr
      else fetchDeckleData s w dk ds1

/-- The deckle in force on a tile: its own, or the header's default (R232). -/
def tileDeckle (ws : List Word) (dk : List Deckle) (qt kt : Nat) : Deckle :=
  let dflt := if ws.isEmpty then 0 else bits (wordAt ws 2) 3 0
  (dk.find? fun d => d.qt == qt && d.kt == kt).getD { kind := dflt, causal := false, qt := qt, kt := kt, p0 := 0, p1 := 0, num := 0 }

/-- A key is allowed for a query row (R233): `r` and `c` index them in the command, `q` and `k` are their positions. -/
def Deckle.allows (d : Deckle) (rec : CmdRec) (r c q k : Nat) : Bool :=
  if d.kind = 0 then true
  else if d.kind = 1 then false
  else if d.kind = 2 then decide (k ≤ q)
  else if d.kind = 3 then
    wordAt (rec.words? (deckleKey d.num 0)) (r % 128) == wordAt (rec.words? (deckleKey d.num 1)) (c % 128) &&
      (!d.causal || decide (k ≤ q))
  else if d.kind = 4 then decide (q < k + d.p0) && decide (k ≤ q)
  else if d.kind = 5 then decide (k < d.p0) || decide (k ≤ q)
  else (wordAt (rec.words? (deckleKey d.num 2)) (4 * (r % 128) + c % 128 / 32)).testBit (c % 32)

/-- A list uses positions (R228). -/
def decklesUsePos (dk : List Deckle) : Bool :=
  dk.any fun d => d.kind == 2 || d.kind == 4 || d.kind == 5 || (d.kind == 3 && d.causal)

/-! ### The rotary unit (R228–R231, R242) -/

/-- The table in force on a core, if its rotary unit acts. -/
def rotOf (s : State) (g : Nat) : Option RotTable :=
  (s.core g).rot.bind fun t => if t.enabled && t.pairs != 0 then some t else none

/-- An FP32 value within 2^-22 of an exact cosine or sine. Which one is left open (log 7): a deviation of this size in
both keeps the rotation within the bound of R230. -/
def rotPick (draw : Nat) (r : Val) : Val :=
  let t : Nat := draw % 2 ^ 200
  let c := (r.sub (.fin 1 (-22))).add (.fin t (-221))
  decodeFp32 (toFp32 (if c.lt r then rmRup else rmRdn) c)

/-- The turns per position of pair `j`, in units of 2^-64: base^(−j/p) ÷ 2π rounded to the unit, with the deviation of up
to 2^8 units that its evaluation in FP64 leaves open (R230; log 7). -/
def rotTurn (t : RotTable) (j : Nat) : Nat :=
  let lg : Int := match decodeFp32 t.base.toNat with
    | .fin m e => match log2Near m.natAbs e with
      | .fin a _ => a
      | _ => 0
    | _ => 0
  match exp2Near (-(lg * (j : Int)) / (t.pairs : Int)) (-256) with
  | .fin m e =>
    let x := shl m (e + 2048)
    let d := 2 * fxPi512 * ((2 ^ 1472 : Nat) : Int)
    ((2 * x + d) / (2 * d) + ((Config.rotTurns t.base.toNat t.pairs j % 513 : Nat) : Int) - 256).toNat
  | _ => 0

/-- The angle of a pair at a position, modulo a turn, in units of 2^-64 turns (R230). -/
def rotPhase (t : RotTable) (j pos : Nat) : Nat := pos * rotTurn t j % 2 ^ 64

/-- Cosine and sine of a phase in FP32: exact at whole quarter turns, else within the bound of log 7. -/
def rotAngle (phase : Nat) : Val × Val :=
  if phase % 2 ^ 62 = 0 then
    match phase / 2 ^ 62 with
    | 0 => (.fin 1 0, Val.zero)
    | 1 => (Val.zero, .fin 1 0)
    | 2 => (.fin (-1) 0, Val.zero)
    | _ => (Val.zero, .fin (-1) 0)
  else
    -- 2π × phase, π with 512 fraction bits
    let a := 2 * fxPi512 * (phase : Int)
    (rotPick (Config.rotCos phase) (cosNear a (-576)), rotPick (Config.rotSin phase) (sinNear a (-576)))

/-- A value rounded to FP32 as each operation of the unit rounds. -/
def fp32 (v : Val) : Val := decodeFp32 (toFp32 rmRne v)

/-- The indices of pair `j` (R229). -/
def rotPair (t : RotTable) (j : Nat) : Nat × Nat := if t.split then (j, j + t.pairs) else (2 * j, 2 * j + 1)

/-- A row rotated at a position, by the angle or, for `back`, by its negative, in FP32 (R230, R231). -/
def rotRow (t : RotTable) (back : Bool) (pos : Nat) (row : List Val) : List Val :=
  (List.range t.pairs).foldl (fun acc j =>
    let p := rotPair t j
    let a := rotAngle (rotPhase t j pos)
    let sn := if back then a.2.neg else a.2
    let x0 := row.getD p.1 Val.zero
    let x1 := row.getD p.2 Val.zero
    (acc.set p.1 (fp32 ((x0.mul a.1).add (fp32 (x1.mul sn)).neg))).set p.2 (fp32 ((x0.mul sn).add (fp32 (x1.mul a.1))))) row

/-- An element's own format again after the rotation (R230): its value before the scale. -/
def rotInt8Code (sc : Val) (v : Val) : Val :=
  let q := match v, sc with
    | .fin m e, .fin a b => if a = 0 then (128 : Int) else
      let k := min e b
      let n := shl m (e - k)
      let d := shl a (b - k)
      let n' := if d < 0 then -n else n
      let d' := d.natAbs
      let f := n' / (d' : Int)
      let r := n' % (d' : Int)
      if (d' : Int) < 2 * r ∨ (2 * r = d' ∧ f % 2 = 1) then f + 1 else f
    | _, _ => 128
  if -128 ≤ q ∧ q ≤ 127 then .fin q 0 else .fin (signed 8 (Config.rotInt8 (toFp32 rmRne v)).toNat) 0

/-- Blocks of 32 of a list of values rounded to an MX format: values before the scale, values, scale bytes. -/
def reblock (fmt : Nat) (vs : List Val) : List (Val × Val × Nat) :=
  (blocks32 vs).flatMap fun b =>
    let r := mxBlock fmt rmRne (b.map fun v => (v, 0))
    r.2.1.map fun c => (decodeElem fmt c, scaled r.1 (decodeElem fmt c), r.1)

/-- A matrix whose rows have been rotated, in the tensor's own format again: scalar elements, INT8 codes, or MX blocks along
the block axis. A block that holds no rotated element is as it was (R229). `turned` tells the rotated columns and `vals`
are the values after the rotation. -/
def reformat (t : Tensor) (m : Mat) (turned : Nat → Bool) (vals : List (List Val)) : Mat :=
  if isMx t.fmt then
    let old (r c : Nat) : Val × Val × Nat := ((m.raw.getD r []).getD c Val.zero, m.val r c, (m.sc.getD r []).getD c 127)
    let rows := if t.axis = 0 then
        vals.zipIdx.map fun row =>
          let new := reblock t.fmt row.1
          (List.range t.cols).map fun c =>
            if (List.range' (c - c % 32) 32).any fun k => decide (k < t.cols) && turned k then new.getD c (Val.zero, Val.zero, 127)
            else old row.2 c
      else
        let cols := (List.range t.cols).map fun c => if turned c then reblock t.fmt (vals.map fun r => r.getD c Val.zero)
          else (List.range vals.length).map fun r => old r c
        (List.range vals.length).map fun r => cols.map fun c => c.getD r (Val.zero, Val.zero, 127)
    { fmt := t.fmt, axis := t.axis, vals := rows.map fun r => r.map fun e => e.2.1, raw := rows.map fun r => r.map Prod.fst,
      sc := rows.map fun r => r.map fun e => e.2.2, neg := rows.map fun r => r.map fun e => e.2.1.isNeg }
  else
    let one (v : Val) : Val := if t.fmt = fmtInt8 then rotInt8Code (decodeFp32 t.scale) v
      else decodeElem t.fmt (roundScalar t.fmt rmRne 0 v).1
    let vs := vals.map fun r => r.map one
    { fmt := t.fmt, axis := t.axis, vals := vs, raw := vs, sc := vs.map fun r => r.map fun _ => 127,
      neg := vs.map fun r => r.map Val.isNeg }

/-- A column takes part in a rotation (R229). -/
def RotTable.turns (z : RotTable) (c : Nat) : Bool := (List.range z.pairs).any fun j => (rotPair z j).1 == c || (rotPair z j).2 == c

/-- Rows rotated on a core count their pairs (R229, R546; log 65). -/
def countRot (s : State) (g : Nat) (rot : Option RotTable) (rows : Nat) : State :=
  match rot with
  | none => s
  | some z => s.count (pnFeed g) 2 (z.pairs * rows)

/-- Q or K as the array takes it: read, and rotated where the rotary unit acts; row `r` stands at position `pos r`. -/
def attnMat (t : Tensor) (rot : Option RotTable) (pos : Nat → Nat) (m : Mat) : Mat :=
  match rot with
  | none => m
  | some z => reformat t m z.turns (m.vals.zipIdx.map fun e => rotRow z false (pos e.2) (e.1.map fun v => v.mul (tensorScale t)))

/-! ### The score domain (R214, R216, R225) -/

/-- EMPTY stands below every integer. -/
def maxEmpty : Int := -((2 ^ 31 : Nat) : Int)

/-- The smallest integer not below a finite value. -/
def ceilVal : Val → Int
  | .fin m e => if 0 ≤ e then shl m e else -((-m) / ((2 ^ (-e).toNat : Nat) : Int))
  | _ => 0

/-- A score as a streamed readout to FP32 gives it (R136, R214): its value, where a NaN arose, and the readout summary's bits
for its slot (R138). -/
structure Score where
  v    : Val
  nan  : Option Nat
  seen : Nat

/-- The exact sum of the products, times the scales, read out. -/
def scoreOf (sc : Val) (x k : List Val) : Score :=
  let d := dotOf x k
  let v : Val := if d.cls.nan || (d.cls.pinf && d.cls.ninf) then .nan else if d.cls.pinf then .inf false
    else if d.cls.ninf then .inf true else (Val.fin d.v (-400)).mul sc
  { v := fp32 v, nan := if v.isNan then some (d.nanPos {}) else none,
    seen := if v.isNan then 1 else if v.isInf then 2 else if (fp32 v).isInf then 4 else 0 }

/-- 2^f rounded to `p` significant bits with RNE, f = t − ceil t (R214, R216). -/
def expFrac (p : Nat) (t : Val) : Val :=
  match t.sub (.fin (ceilVal t) 0) with
  | .fin m e =>
    if m = 0 then .fin 1 0
    else match exp2Near m e with
      | .fin a b =>
        let q := binade a b - ((p : Int) - 1)
        .fin ((roundTo rmRne false 0 q a.natAbs b).1 : Nat) q
      | v => v
  | _ => Val.zero

/-- The probability before it is written in F_P (R214): round_P(exp2 f) × 2^(i − m); far outside every format's range the
exponent is held at ±4096. -/
def probOf (p : Nat) (t : Val) (m : Int) : Val :=
  match t with
  | .nan => .nan
  | .inf n => if n then Val.zero else .inf false
  | t => (expFrac p t).mul (.fin 1 (min 4096 (max (-4096) (ceilVal t - m))))

/-- Values written in a scalar or MX format, 32 to a block: values, with values before the scale and scale bytes. -/
def writeIn (fmt : Nat) (vs : List Val) : List (Val × Val × Nat) :=
  if isMx fmt then reblock fmt vs
  else vs.map fun v => let x := decodeElem fmt (roundScalar fmt rmRne 0 v).1; (x, x, 127)

/-- The exact quotient, as a dyadic value of 80 bits with a sticky bit below, and IEEE 754's cases (R222). -/
def divVal (a b : Val) : Val :=
  match a, b with
  | .nan, _ => .nan
  | _, .nan => .nan
  | .inf _, .inf _ => .nan
  | .inf n, .fin m _ => .inf (n != decide (m < 0))
  | .fin _ _, .inf _ => Val.zero
  | .fin m e, .fin n f =>
    if n = 0 then (if m = 0 then .nan else .inf (decide (m < 0)))
    else if m = 0 then Val.zero
    else
      let sh := 80 + (Nat.log2 n.natAbs)
      let x := m.natAbs * 2 ^ sh
      let q := x / n.natAbs
      let st := if x % n.natAbs = 0 then 0 else 1
      let neg := decide (m < 0) != decide (n < 0)
      .fin (if neg then -((2 * q + st : Nat) : Int) else ((2 * q + st : Nat) : Int)) (e - f - sh - 1)

/-! ### Statuses that a check decides (R228, R241) -/

/-- The largest position in use is out of range (R228). -/
def positionCheck (used : Bool) (last : List Nat) (ds : List (Nat × List Word)) : Fetch :=
  match last.find? fun p => decide (2 ^ 24 ≤ p) with
  | some p => if used then .fails stPosition trapPosition p else .ok ds
  | none => .ok ds

/-- The rank of a key format (R241). -/
def keyRank (f : Nat) : Nat :=
  if f = fmtFp32 then 9 else if f = fmtFp16 then 8 else if f = fmtBf16 then 7 else if f = fmtMxint8 ∨ f = fmtInt8 then 6
  else if f = fmtE4m3 then 5 else if f = fmtE5m2 then 4 else if f = fmtE2m3 then 3 else if f = fmtE3m2 then 2
  else 1

/-- The key format is below the partition's floor: the two formats as DETAIL names them (R207, R241, R245). -/
def belowFloor (s : State) (p f : Nat) : Option Nat :=
  let v := s.regN (pnPart p) 0x140
  if v.testBit 5 && decide (keyRank f < keyRank (bits v 4 0)) then some (fields [(0, f), (8, bits v 4 0)]) else none

def floorCheck (s : State) (p f : Nat) (ds : List (Nat × List Word)) : Fetch :=
  match belowFloor s p f with
  | some d => .fails stFormatFloor trapFormatFloor d
  | none => .ok ds

end Sys2Proof.Machine
end

