-- ==== Sys2Proof/Machine/VectorUnit.lean ====
section
/-! DEFINITION. VEC and VEC_PROG (chapter "The vector unit"). -/

namespace Sys2Proof.Machine

/-! ### Operations (R162, R164) -/

/-- A result rounded once with RNE to the FP32 value that a lane holds; a zero is +0. -/
def lane (v : Val) : Val := decodeFp32 (toFp32 rmRne v)

def vOne : Val := .fin 1 0
def vBool (b : Bool) : Val := if b then vOne else Val.zero

/-- An exact value rounded to an integer: up, down, or to nearest with ties to even. -/
def toIntVal (op : Nat) (v : Val) : Val :=
  match v with
  | .fin m e =>
    if 0 ≤ e then v
    else
      let d : Int := ((2 ^ (-e).toNat : Nat) : Int)
      let q := m / d
      let r := m % d
      .fin (if op = 0x09 then (if r = 0 then q else q + 1) else if op = 0x0A then q
            else if d < 2 * r ∨ (2 * r = d ∧ q % 2 = 1) then q + 1 else q) 0
  | v => v

/-- How many sources an opcode reads, and whether it writes DST. -/
def opReads (op : Nat) : Nat :=
  if op = 0x00 then 0 else if op = 0x04 ∨ op = 0x0C then 3
  else if op = 0x18 ∨ (0x01 ≤ op ∧ op ≤ 0x06) ∨ (0x0D ≤ op ∧ op ≤ 0x0F) then 2 else 1
def opWrites (op : Nat) : Bool := op != 0x00 && op != 0x18 && op != 0x19
def opDeposits (op : Nat) : Bool := op == 0x18 || op == 0x19
def opSpecial (op : Nat) : Bool := decide (0x10 ≤ op) && decide (op ≤ 0x16)

/-- The result of an operation on lane values. DEPMUL and DEP give the exact value to deposit. -/
def vecOp (op : Nat) (a b c : Val) : Val :=
  if op = 0x01 then lane (a.add b)
  else if op = 0x02 then lane (a.sub b)
  else if op = 0x03 then lane (a.mul b)
  else if op = 0x04 then lane ((a.mul b).add c)
  else if op = 0x05 then Val.max a b
  else if op = 0x06 then Val.min a b
  else if op = 0x07 then a.abs
  else if op = 0x08 then a.neg
  else if op = 0x09 ∨ op = 0x0A ∨ op = 0x0B then toIntVal op a
  else if op = 0x0C then (if !c.isNan && !c.isZero then a else b)
  else if op = 0x0D then vBool (a.lt b)
  else if op = 0x0E then vBool (a.le b)
  else if op = 0x0F then vBool (a.eq b)
  else if opSpecial op then special op (toFp32 rmRne a) a
  else if op = 0x17 then
    (match a with
     | .nan => .nan
     | v => if v.isZero then Val.zero else if v.isNeg then .fin (-1) 0 else vOne)
  else if op = 0x18 then a.mul b
  else if op = 0x19 then a
  else Val.zero

/-! ### Programs (R169–R173) -/

/-- A program: its header word, its constants and its op words, and whether its reserved bytes are all 0. -/
structure Prog where
  header : Nat
  consts : List Val
  ops    : List Nat
  clean  : Bool

def Prog.n (p : Prog) : Nat := bits p.header 4 0
def Prog.kind (p : Prog) (k : Nat) : Nat := bits p.header (9 + 2 * k) (8 + 2 * k)
def Prog.o0wr (p : Prog) : Nat := bits p.header 17 16
def Prog.o1wr (p : Prog) : Bool := p.header.testBit 18
def Prog.red (p : Prog) : Nat := bits p.header 21 19
def Prog.run (p : Prog) : List Nat := p.ops.take p.n
def Prog.deposits (p : Prog) : Bool := p.run.any fun w => opDeposits (bits w 31 26)

/-- The program of a record of 32 words. -/
def progOf (ws : List Word) : Prog :=
  { header := wordAt ws 0, consts := (List.range 8).map fun k => lane (decodeFp32 (wordAt ws (8 + k))),
    ops := (List.range 16).map fun k => wordAt ws (16 + k), clean := (List.range 7).all fun k => wordAt ws (1 + k) == 0 }

/-- The sources of an op word that its opcode reads. -/
def opSources (w : Nat) : List Nat := [bits w 20 16, bits w 15 11, bits w 10 6].take (opReads (bits w 31 26))

/-- The program is refused (R172). `target` says whether the command has a deposit target; `isVec` that it is a VEC. -/
def progBad (p : Prog) (isVec target : Bool) : Bool :=
  let ops := p.run
  let writes (d : Nat) : Bool := ops.any fun w => opWrites (bits w 31 26) && bits w 25 21 == d
  !p.clean || bits p.header 31 22 != 0 || bits p.header 7 5 != 0 || decide (3 < p.red) || decide (1 < p.o0wr) ||
    p.n == 0 || decide (16 < p.n) || (p.red != 0 && p.o0wr != 0) ||
    (ops.any fun w =>
      decide (0x19 < bits w 31 26) || bits w 5 0 != 0 ||
        (opSources w).any (fun x => decide (0x14 < x) || (decide (8 ≤ x) && decide (x ≤ 11) && p.kind (x - 8) == 0) ||
          (isVec && decide (0x0C ≤ x) && decide (x ≤ 0x13))) ||
        (opWrites (bits w 31 26) && !(decide (bits w 25 21 ≤ 7) || bits w 25 21 == 0x15 || bits w 25 21 == 0x16)) ||
        (!target && opDeposits (bits w 31 26))) ||
    ((p.o0wr != 0 || p.red != 0) && !writes 0x15) || (p.o1wr && !writes 0x16) || (isVec && p.n != 1)

/-- What one element's program leaves: O0, O1, the values it deposits, and how many NaNs it made of other operands. -/
structure ElemOut where
  regs : List Val
  o0   : Val := Val.zero
  o1   : Val := Val.zero
  deps : List Val := []
  inv  : Nat := 0

/-- A program runs on one element with its inputs (R173). A NaN that a deposit makes is no result (log 125). -/
def runProg (p : Prog) (ins : List Val) : ElemOut :=
  p.run.foldl (fun st w =>
    let op := bits w 31 26
    let src (k : Nat) : Val :=
      if k < 8 then st.regs.getD k Val.zero else if k < 0x0C then ins.getD (k - 8) Val.zero
      else if k < 0x14 then p.consts.getD (k - 0x0C) Val.zero else Val.zero
    let a := src (bits w 20 16)
    let b := src (bits w 15 11)
    let c := src (bits w 10 6)
    if op = 0 then st
    else
      let r := vecOp op a b c
      if opDeposits op then { st with deps := st.deps ++ [r] }
      else
        let made := r.isNan && ((opSources w).all fun k => !(src k).isNan)
        let st1 : ElemOut := if made then { st with inv := st.inv + 1 } else st
        let d := bits w 25 21
        if d < 8 then { st1 with regs := st1.regs.set d r } else if d = 0x15 then { st1 with o0 := r }
        else if d = 0x16 then { st1 with o1 := r } else st1) { regs := List.replicate 8 Val.zero }

/-! ### Row reductions (R167) -/

def redIdentity (red : Nat) : Val := if red = 1 then Val.zero else if red = 2 then .inf true else .inf false
def redCombine (red : Nat) (a b : Val) : Val :=
  if red = 1 then lane (a.add b) else if red = 2 then Val.max a b else Val.min a b

/-- One level combines neighbours (2i, 2i + 1). -/
def pairUp {α : Type} (f : α → α → α) : List α → List α
  | [] => []
  | [a] => [a]
  | a :: b :: r => f a b :: pairUp f r

/-- `n` levels of pairing. -/
def pairLevels {α : Type} (f : α → α → α) : Nat → List α → List α
  | 0, l => l
  | n + 1, l => pairLevels f n (pairUp f l)

/-- The smallest number of levels that pairs `n` values into one. -/
def levelsFor (n : Nat) : Nat := if n ≤ 1 then 0 else Nat.log2 (n - 1) + 1

/-- A value in a reduction, with the NaNs that its combinations have made of other operands (R178). -/
abbrev Reduced := Val × Nat
def combineCounted (red : Nat) (a b : Reduced) : Reduced :=
  let v := redCombine red a.1 b.1
  (v, a.2 + b.2 + if v.isNan && !a.1.isNan && !b.1.isNan then 1 else 0)

/-- The reduction of one row: eight levels in each vector, then across the vectors; missing entries hold the identity. -/
def reduceCounted (red : Nat) (row : List Val) : Reduced :=
  let id : Reduced := (redIdentity red, 0)
  let pad (n : Nat) (l : List Reduced) : List Reduced := l ++ List.replicate (n - l.length) id
  let vecs := (List.range (ceilDiv row.length 256)).map fun k =>
    (pairLevels (combineCounted red) 8 (pad 256 (((row.drop (256 * k)).take 256).map fun v => (v, 0)))).headD id
  (pairLevels (combineCounted red) (levelsFor vecs.length) (pad (2 ^ levelsFor vecs.length) vecs)).headD id
def reduceRow (red : Nat) (row : List Val) : Val := (reduceCounted red row).1

/-! ### Loads (R161) -/

/-- An element as a lane holds it, and whether a finite value became an infinity. `i` is its index in the tensor. -/
def loadElem (t : Tensor) (rc : RoundCtx) (i : Nat) (v : Val) : Val × Bool :=
  if t.fmt = fmtInt8 then
    let x := v.mul (decodeFp32 t.scale)
    let r := roundIeee ffFp32 0x7FC00000 rc.mode (if rc.mode = rmSr then srDraw { rc with site := 4, tensor := t.id } i else 0) x
    (decodeFp32 r.1, r.2)
  else
    let r := roundIeee ffFp32 0x7FC00000 rmRne 0 v
    (decodeFp32 r.1, r.2)

/-- An input tensor as lanes hold it, row by row, and how many of its values overflowed. -/
def loadTensor (s : State) (w : Who) (mode : Nat) (t : Tensor) : List (List Val) × Nat :=
  let p := planesOf s w t
  let rc := roundCtx s w mode 4 t.id
  let rows := (List.range t.rows).map fun r => (List.range t.cols).map fun c => loadElem t rc (r * t.cols + c) (p.val s c r)
  (rows.map fun r => r.map Prod.fst, (rows.flatten.filter Prod.snd).length)

/-! ### Checks (R168, R172, R174) -/

/-- The program of a record: VEC carries its own (R185). -/
def cmdProg (r : CmdRec) : Prog :=
  if r.opcode = opVec then { header := r.w 11, consts := [], ops := [r.w 10], clean := true } else progOf (r.words? 10)

/-- A local-store tensor of a vector command: a format of R48, in operand staging or vector scratch (R390). -/
def checkVecTensor (s : State) (w : Who) (write : Bool) (t : Tensor) : Nat :=
  if (if write then 0x08 else 0x09) < t.fmt then 0x02
  else if write && isMx t.fmt && t.axis != 0 then 0x02
  else if !(t.spans.all fun e => tierOf e.1 == 0 && granted s w write e.1 e.2) then 0x03
  else 0

/-- Rows and columns of a vector command: those of its TENSOR inputs and elementwise outputs; where it has none, its ROWVEC
gives the rows and its COLVEC the columns (R173; log 106). -/
def vecDims (r : CmdRec) (p : Prog) : List (Nat × Nat) :=
  let ofKind (n : Nat) : List Tensor := ((List.range 4).filter fun k => p.kind k == n).filterMap fun k => r.tensor? (4 + k)
  let outs := (if p.red = 0 ∧ p.o0wr ≠ 0 then [8] else []) ++ (if p.o1wr then [9] else [])
  match ofKind 1 ++ outs.filterMap r.tensor?, ofKind 2, ofKind 3 with
  | [], m :: _, c :: _ => [(m.size, c.size)]
  | ts, _, _ => ts.map fun t => (t.rows, t.cols)

def vecReasons (s : State) (w : Who) (r : CmdRec) : List (Nat × Nat) :=
  let p := cmdProg r
  let isVec := r.opcode == opVec
  let d := (vecDims r p).headD (0, 0)
  let size (k : Nat) : Nat := (r.tensor? k).elim 0 Tensor.size
  let needs := ((List.range 4).filter fun k => p.kind k != 0).map fun k => 4 + k
  let outs := (if p.o0wr ≠ 0 ∨ p.red ≠ 0 then [8] else []) ++ (if p.o1wr then [9] else [])
  [(refuseIf (progBad p isVec true) 0x08, r.w 10)] ++ ((needs ++ outs).map fun k => (checkPresent r k, 0)) ++
  (needs.map fun k => (checkVecTensor s w false ((r.tensor? k).getD (tensorOf [])), r.w k)) ++
  (outs.map fun k => (checkVecTensor s w true ((r.tensor? k).getD (tensorOf [])), r.w k)) ++
  [(refuseIf ((vecDims r p).isEmpty || (vecDims r p).any (· != d)) 0x04, 0),
   (refuseIf ((List.range 4).any fun k => (p.kind k == 2 && size (4 + k) != d.1) || (p.kind k == 3 && size (4 + k) != d.2)) 0x04, 0),
   (refuseIf (decide (65536 < d.2)) 0x04, 0), (refuseIf (p.red != 0 && size 8 != d.1) 0x04, r.w 8),
   (refuseIf (p.deposits && (r.accBegin == 1 || r.accBegin == 2 || r.accEnd != 1)) 0x06, 0)] ++
  (([8, 9].filterMap r.tensor?).map fun t => (checkSr r t, 0)) ++
  (((needs.filterMap r.tensor?).filter fun t => t.fmt == fmtInt8).map fun t => (checkSr r t, 0))

def fetchVec (s : State) (w : Who) (r : CmdRec) : Fetch :=
  let ks := [4, 5, 6, 7, 8] ++ if r.opcode = opVecProg then [9] else []
  let prog (ds : List (Nat × List Word)) : Fetch :=
    if r.opcode = opVec then .ok ds
    else if !(inScratch s w (bits (r.w 10) 26 0) 128) || (r.w 10).testBit 31 then .refuse 0x03 (r.w 10)
    else fetchAt s w ds 10 (r.w 10) 128 128
  (fetchDescs s w r ks).bind fun ds => (prog ds).bind fun ds => firstReason (vecReasons s w (r.withDescs ds)) ds

/-! ### Running -/

/-- Bytes of a stream per vector of `lanes` elements (R158). -/
def streamBytes (t : Tensor) (lanes : Nat) : Nat := ceilDiv (lanes * fmtBits t.fmt) 8 + if isMx t.fmt then ceilDiv lanes 32 else 0

/-- Deposits of one element: its lane's bank, the row's slot, the exact values (R174). -/
structure VecDep where
  key  : Nat
  lane : Nat
  row  : Nat
  vals : List Val

/-- Deposits of a tile's elements, in order: the edge after them and the NaN deposits (R142, R174). -/
def vecDeposit (ds : List VecDep) (row0 col0 : Nat) (e : Edge) : Edge × List NanAt :=
  ds.foldl (fun acc d => d.vals.foldl (fun (a : Edge × List NanAt) v =>
    let q := (a.1.slot? d.key).getD {}
    let z := q.deposit (unitsOf v) (clsOf v)
    (a.1.setSlot d.key z, if !q.nanLike && z.nanLike then
      a.2 ++ [{ cycle := a.2.length, row := row0, col := col0, out := d.lane, block := 0xFFFFFFFE, vu := true }] else a.2)) acc) (e, [])

/-- The uncorrectable unit that an input meets in the rows and columns of a tile: of a ROWVEC its rows' values, of a COLVEC
its columns' (R202, R372). -/
def vecMeets (p : Planes) (kind : Nat) (rows cols : List Nat) (u : Nat) : Bool :=
  if kind = 1 then planesMeet p rows cols u
  else (if kind = 2 then rows else cols).any fun i => planesMeet p [i / p.t.cols] [i % p.t.cols] u

/-- The slots that a vector command deposits into (R174). -/
def vecKeys (r : CmdRec) : List Nat :=
  let d := (vecDims r (cmdProg r)).headD (0, 0)
  if (cmdProg r).deposits then ((List.range d.1).flatMap fun m => (List.range (min d.2 256)).map fun l =>
    slotKey l (r.slotBase + m)).dedup else []

/-- A vector command runs: loads, the program on every element, reductions, deposits tile by tile, and stores. A tile that
meets an uncorrectable unit ends it, and the tiles before it stand (R202). Which NaN is the first, and when LOAD_OVF counts, are
logs 123 and 124. -/
def runVec (s : State) (g : Nat) (r : CmdRec) : State :=
  let w := whoOf s g r.ctx
  let p := cmdProg r
  let dims := (vecDims r p).headD (0, 0)
  let rows := dims.1
  let cols := dims.2
  let ins := (List.range 4).map fun k =>
    if p.kind k = 0 then none else (r.tensor? (4 + k)).map fun t => (p.kind k, t, loadTensor s w r.rmode t)
  let flat := ins.map fun i => i.map fun x => (x.1, x.2.2.1, x.2.2.1.flatten)
  let elem (m c : Nat) : ElemOut := runProg p (flat.map fun i => match i with
    | none => Val.zero
    | some x => if x.1 = 1 then (x.2.1.getD m []).getD c Val.zero
                else if x.1 = 2 then x.2.2.getD m Val.zero else x.2.2.getD c Val.zero)
  let res := (List.range rows).map fun m => (List.range cols).map fun c => elem m c
  let reds := if p.red = 0 then [] else res.map fun row => reduceCounted p.red (row.map ElemOut.o0)
  let vpr := ceilDiv cols 256
  let vectors := rows * vpr
  let tiles := ceilDiv vectors 256
  -- vector j holds columns from 256 × (j mod v) of row j ÷ v
  let vecCols (j : Nat) : List Nat := List.range' (j % vpr * 256) (min 256 (cols - j % vpr * 256))
  let tileVecs (t : Nat) : List Nat := List.range' (256 * t) (min 256 (vectors - 256 * t))
  let tileElems (t : Nat) : List (Nat × Nat) := (tileVecs t).flatMap fun j => (vecCols j).map fun c => (j / vpr, c)
  let at_ (m c : Nat) : ElemOut := (res.getD m []).getD c { regs := [] }
  let side := r.edge
  let dep := p.deposits
  let keys := vecKeys r
  let keep := r.accBegin == 3
  let e := (s.core g).edge side
  let redMade (m : Nat) : Nat := (reds.getD m (Val.zero, 0)).2
  let tileBad (t : Nat) : List Nat := s.bad.filter fun u => ins.any fun i => i.any fun x =>
    vecMeets (planesOf s w x.2.1) x.1 ((tileVecs t).map (· / vpr)).dedup ((tileVecs t).flatMap vecCols).dedup u
  let stop := (List.range tiles).find? fun t => !(tileBad t).isEmpty
  if slotsRefusal e keep keys ≠ 0 then refuseFront s g .vq r (slotsRefusal e keep keys)
  else if stop = some 0 then failBad s g .vq r ((tileBad 0).headD 0) ((tileBad 0).map fun u => (u, 1))
  else
    let e1 := e.join r keep keys
    let e2 : Edge := if keep then e1 else { (e1.zeroAll keys (.fin 1 0)) with depcnt := 0 }
    let s1 := if dep then s.modCore g fun k => k.setEdge side e2 else s
    let ovf := (ins.map fun i => i.elim 0 fun x => x.2.2.2).sum
    let nsfu := (p.run.filter fun o => opSpecial (bits o 31 26)).length
    let vu := pnVu g
    let step (acc : Run) (t : Nat) : Run :=
      if acc.halted then acc
      else
        let vs := tileVecs t
        let es := tileElems t
        let made := (es.map fun x => (at_ x.1 x.2).inv).sum +
          ((vs.filter fun j => j % vpr + 1 == vpr).map fun j => redMade (j / vpr)).sum
        let ended := (vs.filter fun j => j % vpr + 1 == vpr).length
        let c1 := ((acc.s.count vu 0 vs.length).count vu 1 (p.n * vs.length)).count vu 2 (nsfu * vs.length)
        let c2 := ((c1.count vu 3 (if p.red = 0 then 0 else ended)).count vu 4 (if t = 0 then ovf else 0)).count vu 5 made
        let row0 := (vs.headD 0) / vpr
        let col0 := (vs.headD 0) % vpr * 256
        if !dep then { acc with s := c2, tiles := acc.tiles + 1 }
        else
          let ds := es.map fun x => ({ key := slotKey (x.2 % 256) (r.slotBase + x.1), lane := x.2 % 256, row := x.1,
                                       vals := (at_ x.1 x.2).deps } : VecDep)
          let d := vecDeposit ds row0 col0 ((c2.core g).edge side)
          let c3 := addDeposits ((c2.modCore g fun k => k.setEdge side d.1).count vu 6 vs.length) w r side (row0, col0) vs.length
          let c4 := noteNans c3 w r side acc.nanDone d.2
          if !d.2.isEmpty && haltsAtTile c4 g then { acc with s := c4, nanDone := true, halted := true }
          else { acc with s := c4, nanDone := acc.nanDone || !d.2.isEmpty, tiles := acc.tiles + 1 }
    let run := (List.range (stop.getD tiles)).foldl step { s := s1, touched := keys }
    -- the first NaN that the command makes, by vector and lane (R176)
    let nans := (List.range (if run.halted then run.tiles + 1 else run.tiles)).flatMap fun t => (tileVecs t).filterMap fun j =>
      ((vecCols j).find? fun c => (at_ (j / vpr) c).inv != 0).elim
        (if j % vpr + 1 == vpr && redMade (j / vpr) != 0 then some (j, (cols - 1) % 256) else none) fun c => some (j, c % 256)
    let s2 := match nans, (s.reg (pnVu g) 0x010).getLsbD 0 with
      | (j, l) :: _, true =>
        raiseTrap run.s vu { code := trapFirstNan, level := 0, part := some w.part, ctx := some w.ctx, core := some g,
                             cmdId := r.cmdId, row := (256 * (j / 256)) / vpr, col := (256 * (j / 256)) % vpr * 256,
                             outCol := l, redBlock := 0xFFFFFFFE, detail := 2 }
      | _, _ => run.s
    let done := (List.range run.tiles).flatMap tileElems
    let lastRow (m : Nat) : Bool := decide ((m * vpr + vpr - 1) / 256 < run.tiles)
    let out0 : Run := { run with s := s2 }
    let put (a : Run) (k : Nat) (es : List OutElem) : Run := match r.tensor? k with
      | none => a
      | some t =>
        let o := putTensor a.s (planesOf a.s w t) (roundCtx a.s w r.rmode 3 t.id) es a.out
        { a with out := o.1, land := a.land ++ landedTiles t (es.map OutElem.r) }
    let out1 := if p.red ≠ 0 then
        let e0 := (r.tensor? 8).elim 1 Tensor.e0
        put out0 8 (((List.range rows).filter lastRow).map fun m => { r := m / e0, c := m % e0, v := (reds.getD m (Val.zero, 0)).1 })
      else if p.o0wr ≠ 0 then put out0 8 (done.map fun x => { r := x.1, c := x.2, v := (at_ x.1 x.2).o0 })
      else out0
    let out2 := if p.o1wr then put out1 9 (done.map fun x => { r := x.1, c := x.2, v := (at_ x.1 x.2).o1 }) else out1
    let lanes := min 256 cols
    let b := (ins.map fun i => i.elim 0 fun x => if x.1 = 2 then 4 else streamBytes x.2.1 lanes).sum +
      (if p.red ≠ 0 then 4 else if p.o0wr ≠ 0 then (r.tensor? 8).elim 0 fun t => streamBytes t lanes else 0) +
      (if p.o1wr then (r.tensor? 9).elim 0 fun t => streamBytes t lanes else 0)
    let c := max p.n (ceilDiv b 1024)
    let lam := 8 + 6 * p.n + if p.red ≠ 0 then 3 * (8 + levelsFor vpr) else 0
    let end_ := (s.core g).aclk + (vectors - 1) * c + lam + 1
    if run.halted then haltCmd g .vq r w out2 side end_ 0
    else match stop with
      | none => commitRun g .vq r w out2 end_ 0
      | some t =>
        let j := (tileVecs t).headD 0
        let s3 := raiseBadIn out2.s w.part (some w.ctx) r.cmdId ((tileBad t).headD 0) ((tileBad t).map fun u => (u, 1))
          (j / vpr, j % vpr * 256)
        commitRun g .vq r w { out2 with s := s3, status := stUncorrectable } end_ 0

/-- VEC and VEC_PROG at issue: every input is resident (R160). -/
def issueVec (s : State) (g : Nat) (r : CmdRec) : State :=
  let ts := ((List.range 4).filter fun k => (cmdProg r).kind k != 0).filterMap fun k => r.tensor? (4 + k)
  withDeps s g .vq r (if landingMeets s g (ts.flatMap stageSpans) then s
    else runVec (readSpans s true (ts.flatMap (keySpans s (whoOf s g r.ctx)))) g r)

/-- VEC (R169). -/
def execVec (core : Nat) (s : State) : Out :=
  .next (match frontOf s core .vq opVec with
    | none => s
    | some r => issueVec s core r)

/-- VEC_PROG (R173). -/
def execVecProg (core : Nat) (s : State) : Out :=
  .next (match frontOf s core .vq opVecProg with
    | none => s
    | some r => issueVec s core r)

end Sys2Proof.Machine
end

