-- ==== Sys2Proof/Machine/Attention.lean ====
section
/-! DEFINITION. ATTN_FWD and ATTN_BWD (chapter "Attention over long sequences"). -/

namespace Sys2Proof.Machine

/-! ### Checks (R209–R211, R220, R227, R228, R234) -/

/-- W14 is a finite positive FP32 value (R210). -/
def scaleBad (w : Nat) : Bool := match decodeFp32 w with | .fin m _ => decide (m ≤ 0) | _ => true

/-- The last position of a tensor (R228). -/
def lastPos (t : Tensor) : Nat := t.pos + t.rows - 1

/-- The head dimension against the rotary unit (R229). -/
def rotTooWide (s : State) (g d : Nat) : Bool := match rotOf s g with | some t => decide (d < 2 * t.pairs) | none => false

/-- The probability and gradient formats (R211). -/
def probFmt (v : Tensor) : Nat := if isMx v.fmt || v.fmt == fmtInt8 then fmtE4m3 else fmtBf16
def gradFmt (o : Tensor) : Nat := if isMx o.fmt then fmtE5m2 else fmtBf16

def attnFwdReasons (s : State) (w : Who) (r : CmdRec) : List (Nat × Nat) :=
  let t (k : Nat) : Tensor := (r.tensor? k).getD (tensorOf [])
  let q := t 4
  let d := q.e0
  let readout := r.accEnd = 0
  [(refuseIf (r.shape == 2) 0x05, 0), (refuseIf (r.accBegin == 1 || r.accBegin == 2 || decide (2 ≤ r.accEnd)) 0x06, 0),
   (checkPresent r 4, 0), (checkPresent r 5, 0), (checkPresent r 6, 0), (refuseIf (readout && r.w 7 == 0) 0x03, 0),
   (checkPresent r 8, 0), (refuseIf (scaleBad (r.w 14)) 0x01, 0)] ++
  ([4, 5, 6].map fun k => (checkArrayOperand s w (t k), r.w k)) ++
  [(refuseIf (isMx q.fmt && q.axis != 0) 0x02, r.w 4),
   (refuseIf (d == 0 || decide ((if r.shape = 0 then 255 else 128) < d) || (t 5).e0 != d || (t 6).e0 != d ||
      (t 5).rows != (t 6).rows || decide (128 < q.rows) || decide (2 ^ 24 < (t 5).rows)) 0x04, 0),
   (refuseIf (rotTooWide s w.core d) 0x04, 0), (checkPtr s w (r.w 8) (8 * q.rows) 64, r.w 8),
   (refuseIf (!(granted s w true (ptrAddr w.core (r.w 8)) (8 * q.rows))) 0x03, r.w 8)] ++
  (if readout then
    [(refuseIf ((t 7).e0 != d || (t 7).rows != q.rows) 0x04, r.w 7), (checkOutput s w true false 0 (t 7), r.w 7), (checkSr r (t 7), r.w 7)]
   else [])

def fetchAttnFwd (s : State) (w : Who) (r : CmdRec) : Fetch :=
  (fetchDescs s w r (if r.accEnd = 1 then [4, 5, 6] else [4, 5, 6, 7])).bind fun ds =>
    (firstReason (attnFwdReasons s w (r.withDescs ds)) ds).bind fun ds =>
      let q := ((r.withDescs ds).tensor? 4).getD (tensorOf [])
      let k := ((r.withDescs ds).tensor? 5).getD (tensorOf [])
      (fetchDeckles s w 9 (r.w 9) (ceilDiv q.rows 128) (ceilDiv k.rows 128) ds).bind fun ds =>
        (positionCheck ((rotOf s w.core).isSome || decklesUsePos (decklesOf ((r.withDescs ds).words? 9))) [lastPos q, lastPos k] ds).bind
          (floorCheck s w.part k.fmt)

/-- The sweeps of an ATTN_BWD. -/
def hasDq (r : CmdRec) : Bool := r.w 11 != 0
def hasDkv (r : CmdRec) : Bool := r.w 12 != 0 && r.w 13 != 0

def attnBwdReasons (s : State) (w : Who) (r : CmdRec) : List (Nat × Nat) :=
  let t (k : Nat) : Tensor := (r.tensor? k).getD (tensorOf [])
  let q := t 4
  let d := q.e0
  let n := (t 5).rows
  let dq := hasDq r
  let kv := hasDkv r
  let out (k : Nat) (side xc : Bool) (rows : Nat) : List (Nat × Nat) :=
    [(refuseIf ((t k).e0 != d || (t k).rows != rows) 0x04, r.w k), (checkOutput s w side xc (xcLargest (t k).size) (t k), r.w k),
     (checkSr r (t k), r.w k)]
  [(refuseIf (r.shape == 2) 0x05, 0), (refuseIf ((r.w 12 == 0) != (r.w 13 == 0) || (!dq && !kv)) 0x04, 0),
   (refuseIf (r.xcOut && !kv) 0x01, 0),
   (refuseIf (r.accBegin == 1 || decide (2 ≤ r.accEnd) || (dq && r.accBegin == 2) || (kv && r.accEnd != 0)) 0x06, 0)] ++
  ([4, 5, 6, 7, 8, 9].map fun k => (checkPresent r k, 0)) ++ [(refuseIf (scaleBad (r.w 14)) 0x01, 0)] ++
  ([4, 5, 6, 8].map fun k => (checkArrayOperand s w (t k), r.w k)) ++
  [(checkArrayOperand s w (t 7), r.w 7), (refuseIf ((isMx q.fmt && q.axis != 0)) 0x02, r.w 4), (refuseIf (isMx (t 8).fmt && (t 8).axis != 0) 0x02, r.w 8),
   (refuseIf (d == 0 || decide (128 < d) || ([5, 6, 7, 8].any fun k => (t k).e0 != d) || (t 6).rows != n ||
      (t 7).rows != q.rows || (t 8).rows != q.rows || decide (2 ^ 24 < n) || (dq && decide (128 < q.rows)) ||
      (kv && decide (128 < n))) 0x04, 0),
   (refuseIf (rotTooWide s w.core d) 0x04, 0), (checkPtr s w (r.w 9) (8 * q.rows) 64, r.w 9)] ++
  (if dq && r.accEnd == 0 then out 11 true false q.rows else []) ++
  (if kv then out 12 false r.xcOut n ++ out 13 false r.xcOut n else []) ++
  (if kv && r.accBegin == 2 then [12, 13].flatMap fun k =>
    [(checkArrayOperand s w (t k), r.w k), (refuseIf (isMx (t k).fmt && (t k).axis != 0) 0x02, r.w k)] else [])

def fetchAttnBwd (s : State) (w : Who) (r : CmdRec) : Fetch :=
  let ks := [4, 5, 6, 7, 8] ++ (if r.accEnd = 1 then [] else [11]) ++ [12, 13]
  (fetchDescs s w r ks).bind fun ds =>
    (firstReason (attnBwdReasons s w (r.withDescs ds)) ds).bind fun ds =>
      let q := ((r.withDescs ds).tensor? 4).getD (tensorOf [])
      let k := ((r.withDescs ds).tensor? 5).getD (tensorOf [])
      (fetchDeckles s w 10 (r.w 10) (ceilDiv q.rows 128) (ceilDiv k.rows 128) ds).bind fun ds =>
        (positionCheck ((rotOf s w.core).isSome || decklesUsePos (decklesOf ((r.withDescs ds).words? 10))) [lastPos q, lastPos k] ds).bind
          (floorCheck s w.part k.fmt)

/-! ### Passes of a group (R84, R212, R217, R226) -/

/-- A stationary row of a load that is reduced along its columns: its bank, its bands per block of the reduction and its
element at each position. -/
structure BankRow where
  bank  : Nat
  bands : List (List (Option Band))
  elem  : Nat → Elem

/-- The plane of a load reduced along its columns `ns` (R76, R78, R212). Each of its segment registers stands for 32 columns
of a row (log 102). -/
def rowPlane (id : LoadId) (ns : List Nat) (l : List RowSet) (banks : List BankRow) : Plane :=
  let at_ (k : Nat) : RowSet := l.getD k { block := 0, band := 0, low := false }
  let row (k i : Nat) : Option BankRow := banks.find? fun b => b.bank == 32 * (at_ k).block + i
  planeOf id
    (fun k i c => (row k i).map fun b =>
      weightWord (bandOr (b.bands.getD (ns.getD c 0 / 32) []) (at_ k).band) (at_ k) (b.elem (ns.getD c 0)))
    (fun k c => (row k (c % 256 / 8)).bind fun b =>
      (ns[32 * (c / 256 * 8 + c % 8)]?).bind fun n => rowSetBand [bandOr (b.bands.getD (n / 32) []) (at_ k).band :: []] { (at_ k) with block := 0, band := 0 })

/-- Passes of a stationary tensor whose reduction, of length `n`, runs across its columns: a pass takes `width` of the
reduction. `id` names the tensor and how it is read; `rows` are the bands of each fed row per block, `masked` the rows
that are not fed, and `drop` tells of a fed row, by number, and a bank whose frames are masked (R99, R119). -/
def crossPasses (id : LoadId) (segs width n d : Nat) (split : Bool) (banks : List BankRow) (masked : Nat)
    (rows : List (List (List (Option Band)))) (drop : Nat → Nat → Bool := fun _ _ => false) : List PassReq :=
  (rangesOf n width).flatMap fun ns =>
    let nbs := (ns.map (· / 32)).dedup
    let counts := (List.range 8).filterMap fun kb =>
      let mine := banks.filter fun b => b.bank / 32 == kb
      if mine.isEmpty then none
      else some (kb, (mine.flatMap fun b => nbs.map fun nb => (b.bands.getD nb []).length).foldl max 1)
    let rs := counts.flatMap fun e => (List.range e.2).flatMap fun b =>
      ({ block := e.1, band := b, low := false } : RowSet) :: if split then [{ block := e.1, band := b, low := true }] else []
    (List.range (ceilDiv rs.length segs)).map fun i =>
      let l := (rs.drop (segs * i)).take segs
      let at_ := l.flatMap fun x => (banks.filter fun b => b.bank / 32 == x.block).map BankRow.bank
      let stat := l.flatMap fun x => (banks.filter fun b => b.bank / 32 == x.block).map fun b =>
        ns.map fun k => (bandOr (b.bands.getD (k / 32) []) x.band).map fun e => if x.low then e.low else e
      { feed := feedOf d (foldOf id.shape) 8 256 (rows.map fun x => ns.map fun k => x.getD (k / 32) []) stat
          (fun row p => drop row (at_.getD p 0)),
        d := d, plane := rowPlane { id with n0 := id.n0 + ns.headD 0, cols := ns.length, sets := l.map RowSet.key } ns l banks,
        trans := true, shape := id.shape, masked := masked, lows := lowSets l }

/-- The loads of one block of stationary columns, with bands per column along a reduction of length `depth` (R84). -/
def alongLoads (shape depth : Nat) (split : Bool) (cols : List Nat) (wb : Nat → List (List (Option Band))) : List (List RowSet) :=
  loadsOf (8 / foldOf shape) split
    ((List.range (ceilDiv depth 32)).map fun b => (cols.map fun n => ((wb n).getD b []).length).foldl max 1)

/-- Forward passes of one block of stationary columns, with bands and elements per column along a reduction of length
`depth` (R84). `drop` tells of a fed row, by number, and a column whose frame is masked (R99, R119). -/
def alongPasses (id : LoadId) (d depth : Nat) (split : Bool) (cols : List Nat) (wb : Nat → List (List (Option Band)))
    (x : Nat → Nat → Option Elem) (masked : Nat) (rows : List (List (List (Option Band))))
    (drop : Nat → Nat → Bool := fun _ _ => false) : List PassReq :=
  (alongLoads id.shape depth split cols wb).map fun l =>
    { feed := feedOf d (foldOf id.shape) 3 0 (rows.map fun x => l.map fun rs => x.getD rs.block [])
        (cols.map fun n => l.map (rowSetBand (wb n))) (fun row p => drop row (cols.getD p 0)),
      d := d, plane := columnPlane { id with n0 := cols.headD 0, cols := cols.length, sets := l.map RowSet.key } cols l wb x,
      trans := false, shape := id.shape, masked := masked, lows := lowSets l }

/-- Passes whose load, and whose streamed tile, come from slab (R377). -/
def stagedBy (stat stream : Bool) (l : List PassReq) : List PassReq :=
  l.map fun q => { q with statSlab := stat, streamSlab := stream }

/-- The name of an attention tensor's loads: `form` tells which of its uses reads it (1 as K^T or V^T in an S or dP group, 2
as V^T in a PV group, 3 as K^T in dQ, 4 and 5 as K and V in the DKV sweep, 6 as Q and dO there). -/
def attnLoad (t : Tensor) (form shape : Nat) : LoadId :=
  { base := t.base, sbase := t.sbase, fmt := t.fmt, form := form, shape := shape, n0 := 0, cols := 0, sets := [] }

/-- The S or dP passes of key blocks: the stationary tensor's rows are the columns of its loads (R213, R226). `fed` are the
query rows that a block feeds, `open_` tells whether a query row's key is not masked. -/
def scorePasses (t : Tensor) (m : Mat) (shape kb d : Nat) (mb qb : List (List (List (Option Band)))) (qSlab : Bool) (dq rows : Nat)
    (fed : List Nat → List Nat) (open_ : Nat → Nat → Bool) (keys : List Nat) : List PassReq :=
  (blocksOf kb keys).flatMap fun cols =>
    let on := fed cols
    stagedBy (inSlab t) qSlab (crossBy (isMx m.fmt && m.axis != 0)
      (alongPasses (attnLoad t 1 shape) dq d (t.fmt == fmtFp32) cols (fun n => mb.getD n [])
        (fun p n => if p < d then some (m.elem (isMx m.fmt && m.axis != 0) n p) else none) (rows - on.length)
        (on.map fun i => qb.getD i []) (fun row c => !open_ (on.getD row 0) c)))
where
  /-- the keys of each block of `kb` -/
  blocksOf (kb : Nat) (keys : List Nat) : List (List Nat) :=
    ((keys.map (· / kb)).dedup).map fun b => keys.filter fun k => k / kb == b

/-- A matrix's blocks do not run along this axis (R212). -/
def crossAxis (m : Mat) (axis : Nat) : Bool := isMx m.fmt && m.axis != axis

/-- The bands of each row of a matrix along its columns; `natural` where its blocks run along them. -/
def alongRows (m : Mat) (axis : Nat) : List (List (List (Option Band))) :=
  (m.raw.zip (m.vals.zip m.sc)).map fun e => vecBands m.fmt (isMx m.fmt && m.axis != axis) e.1 e.2.1 e.2.2
/-- The bands of column `c` along the rows. -/
def alongCol (m : Mat) (c : Nat) : List (List (Option Band)) :=
  vecBands m.fmt (isMx m.fmt && m.axis != 1) (Mat.col m.raw Val.zero c) (Mat.col m.vals Val.zero c) (Mat.col m.sc 127 c)

/-! ### Key blocks and rounds (R212, R235) -/

/-- The key blocks of a query tile that are computed: not wholly EMPTY. -/
def liveBlocks (ws : List Word) (dk : List Deckle) (qt kb n : Nat) : List Nat :=
  (List.range (ceilDiv n kb)).filter fun b =>
    (List.range' (b * (kb / 128)) (min (kb / 128) (ceilDiv n 128 - b * (kb / 128)))).any fun kt => (tileDeckle ws dk qt kt).kind != 1

/-- The rounds: up to 2,048 keys each, as lists of keys. -/
def roundsOf (blocks : List Nat) (kb n : Nat) : List (List Nat) :=
  let per := 2048 / kb
  (List.range (ceilDiv blocks.length per)).map fun i => ((blocks.drop (per * i)).take per).flatMap fun b => List.range' (b * kb) (min kb (n - b * kb))

/-- Whether a key is masked for a query row. -/
def allowed (ws : List Word) (dk : List Deckle) (rec : CmdRec) (q k : Tensor) (r c : Nat) : Bool :=
  (tileDeckle ws dk (r / 128) (c / 128)).allows rec r c (q.pos + r) (k.pos + c)

/-- The query rows that a pass over these keys feeds: those that some key is not masked for (R99, R101, R235; log 104). -/
def fedRows (ws : List Word) (dk : List Deckle) (rec : CmdRec) (q k : Tensor) (rows keys : List Nat) : List Nat :=
  rows.filter fun i => keys.any fun c => allowed ws dk rec q k i c

/-- The sweeps of a round read a DOC or BITMAP deckle (R218). -/
def hasDocs (ws : List Word) (dk : List Deckle) (qt : Nat) (keys : List Nat) : Bool :=
  ((keys.map (· / 128)).dedup).any fun kt => let d := tileDeckle ws dk qt kt; d.kind == 3 || d.kind == 6

/-! ### The forward rounds (R213–R215) -/

/-- One query row in one round: its maximum after it, its rescale, and per key that is not masked its P in F_P. -/
structure RowRound where
  m     : Int
  delta : Nat
  ps    : List (Nat × Val)
  /-- P as the next group streams it, for banding: before the scale, value, scale byte, per key of the round -/
  raw   : List (Val × Val × Nat)
  nans  : List NanAt
  /-- summary bits of its scores (R138) -/
  seen  : Nat := 0

/-- A row's scores become its probabilities (R214). `ts` are its keys with their scores, or none where masked. -/
def rowRound (fp : Nat) (c : Val) (m : Int) (ts : List (Nat × Option Val)) : RowRound :=
  let scaled := ts.map fun e => (e.1, e.2.map fun v => fp32 (v.mul c))
  let fins := scaled.filterMap fun e => match e.2 with | some (.fin a b) => some (Val.fin a b) | _ => none
  let lim : Int := ((2 ^ 30 : Nat) : Int)
  let mr : Int := match fins with
    | [] => maxEmpty
    | v :: r => max (-lim) (min lim (ceilVal (r.foldl Val.max v)))
  let mnew := max m mr
  let raw := writeIn fp (scaled.map fun e => match e.2 with
    | none => Val.zero
    | some t => probOf (if fp = fmtE4m3 then 4 else 8) t mnew)
  { m := mnew, delta := if m ≠ maxEmpty ∧ m < mnew then (min (mnew - m) 1023).toNat else 0,
    ps := ((scaled.zip raw).filter fun e => e.1.2.isSome).map fun e => (e.1.1, e.2.2.1), raw := raw, nans := [] }

/-- Where slots of an attention row lie: row `r` has slot index SLOT_BASE + r in every bank (R213). -/
def attnKey (r : CmdRec) (row bank : Nat) : Nat := slotKey bank (r.slotBase + row)

/-- O and l of a row take a round: the rescale, then the deposits of P × V, and 1 × P in bank 255 (R213, R215). The edge,
the slots that newly lost bits, and the NaN deposits. `pass` gives the pass of the group that reduces over a key. -/
def depositPv (r : CmdRec) (d : Nat) (v : Mat) (row : Nat) (x : RowRound) (cyc : Nat) (pass : Nat → Nat) (e : Edge) :
    Edge × Nat × List NanAt :=
  let banks := List.range d ++ [255]
  banks.foldl (fun acc b =>
    let key := attnKey r row b
    let q0 := (acc.1.slot? key).getD {}
    let q1 := if x.delta = 0 then q0 else q0.rescale x.delta
    let lost := if q1.shiftLoss && !q0.shiftLoss then 1 else 0
    let ps := x.ps.map Prod.snd
    let ws := x.ps.map fun p => if b = 255 then Val.fin 1 0 else v.val p.1 b
    let dot := dotOf ps ws
    let q2 := q1.deposit dot.v dot.cls
    let pos := (x.ps.getD (dot.nanPos q1) (0, .nan)).1
    let nans := if !q1.nanLike && q2.nanLike then
      [({ cycle := cyc + pass pos * 2 ^ 20 + b, row := 0, col := 0, out := b, block := pos / 32 } : NanAt)] else []
    (acc.1.setSlot key q2, acc.2.1 + lost, acc.2.2 ++ nans)) (e, 0, [])

/-- The statistics record of a row (R221). -/
def statBytes (m : Int) (l : Val) : List Byte :=
  leBytes 4 ((m % ((2 ^ 32 : Nat) : Int)).toNat) ++ leBytes 4 (toFp32 rmRne l)

/-- The maximum that a statistics record holds. -/
def statMax (s : State) (key row : Nat) : Int := signed 32 (viewNat s (key + 8 * row) 4)

/-- Bytes put into an overlay at a key. -/
def putBytes (o : Overlay) (key : Nat) (bs : List Byte) : Overlay := (bs.zipIdx key).foldl (fun m e => mput m e.2 e.1) o

/-- The bottom-edge or side-edge slots of a streamed readout from SLOT_BASE, rows `rows` in a shape (R88, R213). -/
def streamKeys (r : CmdRec) (shape rows : Nat) : List Nat :=
  let h := heldRows shape
  let idx := ((List.range (foldOf shape)).flatMap fun j => (List.range (min rows h)).map fun x => (r.slotBase + j * h + x) % 128).dedup
  idx.flatMap fun i => (List.range 256).map fun b => slotKey b i

/-- A rise of the slot's rows from a tile that REDUCE_X loaded with d + 1 columns: l stands in bank d and moves to bank 255
(R213, R223; log 25). -/
def moveL (r : CmdRec) (d rows : Nat) (e : Edge) : Edge :=
  (List.range rows).foldl (fun a row =>
    let k := attnKey r row d
    let l := attnKey r row 255
    match a.slot? k, a.slot? l with
    | some q, none =>
      let b := (a.free k).setSlot l q
      { b with chains := b.chains.map fun c => if c.slots.contains k then { c with slots := l :: c.slots.erase k } else c }
    | _, _ => a) e

/-- O of a row over l, rounded by the side-edge drain (R222): the elements, the summary bits of the slots read out (R138),
whether the row is empty, and the overflowed slots. -/
def normRow (r : CmdRec) (d row : Nat) (m : Int) (e : Edge) : List OutElem × Nat × Bool × List (Nat × Nat) :=
  let slot (b : Nat) : Slot := (e.slot? (attnKey r row b)).getD {}
  let l := slot 255
  let empty := m == maxEmpty && l.value == .fin 0 (-400)
  let banks := List.range d ++ [255]
  let vals := (List.range d).map fun j => if empty then Val.zero else divVal (slot j).value l.value
  ((vals.zipIdx).map fun v => { r := row, c := v.2, v := v.1 }, banks.foldl (fun (a : Nat) b => Nat.lor a (slot b).summary) 0, empty,
    (banks.filter fun b => (slot b).swept.ovf).map fun b => (b, attnKey r row b))

/-- What an ATTN_FWD or a member of a decode group computes: its rounds of keys and, round by round, every row's maximum
and probabilities, with the maxima at the end (R214). -/
structure FwdRounds where
  rounds : List (List Nat)
  ms     : List Int
  rr     : List (List RowRound)

/-- The cycle base of the S group and of the PV group of a round, in the order of R217. -/
def groupS (j : Nat) : Nat := 2 * j * 2 ^ 40
def groupPv (j : Nat) : Nat := (2 * j + 3) * 2 ^ 40

/-- A row of a round with what its scores leave: the NaN deposits, whose first is found by the cycle (R142), and the summary
bits. `at_` gives the place of a key's NaN at a position of the reduction. -/
def RowRound.scored (x : RowRound) (ts : List (Nat × Option Score)) (at_ : Nat → Nat → NanAt) : RowRound :=
  { x with nans := ts.filterMap fun e => (e.2.bind Score.nan).map (at_ e.1),
           seen := ts.foldl (fun a e => Nat.lor a (e.2.elim 0 Score.seen)) 0 }

/-- The summary bits of the scores of all rounds. -/
def seenOf (rr : List (List RowRound)) : Nat := rr.flatten.foldl (fun a x => Nat.lor a x.seen) 0

/-- The scores and probabilities of every round, row by row (R214, R235). -/
def fwdRounds (r : CmdRec) (q kt : Tensor) (qm km : Mat) (shape fp : Nat) (c : Val) (ws : List Word) (dk : List Deckle) (rounds : List (List Nat))
    (m0 : List Int) : FwdRounds :=
  let kb := 256 * foldOf shape
  let rows := q.rows
  let dq := digitCount q.fmt
  let mb := alongRows km 0
  let sqk := (tensorScale q).mul (tensorScale kt)
  let comp := rounds.foldl (fun (acc : List Int × List (List RowRound)) ks =>
    let rr := (List.range rows).map fun i =>
      let ts := ks.map fun k => (k, if allowed ws dk r q kt i k then some (scoreOf sqk (qm.vals.getD i []) (km.vals.getD k [])) else none)
      (rowRound fp c (acc.1.getD i maxEmpty) (ts.map fun e => (e.1, e.2.map Score.v))).scored ts fun key p =>
        { cycle := groupS acc.2.length + key / kb * 2 ^ 20 + i * max dq (foldOf shape) + key % 256 + key % kb / 256, row := 0,
          col := key - key % kb, out := key,
          block := loadBlock (alongLoads shape q.e0 (kt.fmt == fmtFp32) (ks.filter fun k => k / kb == key / kb) fun n => mb.getD n []) (p / 32) }
    (rr.map RowRound.m, acc.2 ++ [rr])) (m0, [])
  { rounds := rounds, ms := comp.1, rr := comp.2 }

/-- The PV passes of a round: V^T with a row of ones at stationary row 255, 256 keys to a pass (R213). `fed` are the query
rows that a pass over some keys feeds. -/
def pvPasses (vt : Tensor) (vm : Mat) (d dp fp : Nat) (fed : List Nat → List Nat) (ks : List Nat) (rr : List RowRound) : List PassReq :=
  let cross := isMx vm.fmt && vm.axis != 1
  (rangesOf ks.length 256).flatMap fun ix =>
    let keys := ix.map fun i => ks.getD i 0
    let k0 := keys.headD 0
    let on := fed keys
    let banks : List BankRow := ((List.range d).map fun j =>
        { bank := j, bands := ((alongCol vm j).drop (k0 / 32)).take 8, elem := fun i => vm.elem cross (k0 + i) j }) ++
      [{ bank := 255, bands := ((blocks32 (List.replicate 256 (Val.fin 1 0))).map fun b => blockBands fmtFp32 127 b),
         elem := fun _ => { v := .fin 1 0, neg := false, floor := -126 } }]
    let pr := on.map fun i =>
      let z := ((rr[i]?).elim [] fun x => (x.raw.drop (ix.headD 0)).take ix.length)
      vecBands fp false (z.map Prod.fst) (z.map fun e => e.2.1) (z.map fun e => e.2.2)
    (stagedBy (inSlab vt) false (crossPasses { attnLoad vt 2 0 with n0 := k0 } 8 256 ix.length dp (vt.fmt == fmtFp32) banks (rr.length - on.length) pr)).map
      fun p => { p with cross := cross }

/-- The side-edge slots of an ATTN_FWD: banks 0 to d − 1 and 255 (R213). -/
def fwdKeys (r : CmdRec) : List Nat :=
  let q := (r.tensor? 4).getD (tensorOf [])
  (List.range q.rows).flatMap fun m => (List.range q.e0 ++ [255]).map fun b => attnKey r m b

/-- The side edge as an ATTN_FWD finds it: a saved row sum stands in bank 255 (R223; log 25). -/
def fwdEdge (r : CmdRec) (c : Core) : Edge :=
  let q := (r.tensor? 4).getD (tensorOf [])
  if r.accBegin == 3 && q.e0 != 255 then moveL r q.e0 q.rows c.side else c.side

/-- Why an ATTN_FWD is refused at issue, or 0: its slots, and those that its scores stream through. -/
def attnFwdRefusal (r : CmdRec) (c : Core) : Nat :=
  if slotsRefused c.bottom false (streamKeys r r.shape ((r.tensor? 4).getD (tensorOf [])).rows) then 0x06
  else slotsRefusal (fwdEdge r c) (r.accBegin == 3) (fwdKeys r)

/-- ATTN_FWD runs (R214–R222). -/
def runAttnFwd (s : State) (g : Nat) (r : CmdRec) : State :=
  let w := whoOf s g r.ctx
  let t (k : Nat) : Tensor := (r.tensor? k).getD (tensorOf [])
  let q := t 4
  let kt := t 5
  let vt := t 6
  let d := q.e0
  let rows := q.rows
  let n := kt.rows
  let keep := r.accBegin == 3
  let rot := rotOf s g
  let edge := fwdEdge r (s.core g)
  let keys := fwdKeys r
  let oKeys := (List.range rows).flatMap fun m => (List.range d).map fun b => attnKey r m b
  if attnFwdRefusal r (s.core g) ≠ 0 then refuseFront s g .aq r (attnFwdRefusal r (s.core g))
  else
    let qm := attnMat q rot (fun i => q.pos + i) (readMat s (planesOf s w q))
    let km := attnMat kt rot (fun i => kt.pos + i) (readMat s (planesOf s w kt))
    let vm := readMat s (planesOf s w vt)
    let fp := probFmt vt
    let ws := r.words? 9
    let dk := decklesOf ws
    let kb := 256 * foldOf r.shape
    let stKey := ptrKey s w (r.w 8)
    let m0 := (List.range rows).map fun i => if keep then statMax s stKey i else maxEmpty
    let f := fwdRounds r q kt qm km r.shape fp (decodeFp32 (r.w 14)) ws dk (roundsOf (liveBlocks ws dk 0 kb n) kb n) m0
    let qb := alongRows qm 0
    let kbs := alongRows km 0
    let dp := digitCount fp
    let fed := fedRows ws dk r q kt (List.range rows)
    let sw (j : Nat) : Nat := rows * ceilDiv (f.rounds.getD j []).length 256 * if hasDocs ws dk 0 (f.rounds.getD j []) then 4 else 3
    let issue := issueCycle s g r
    let run1 := runRounds g issue r.after f.rounds.length
      (fun j => scorePasses kt km r.shape kb d kbs qb (inSlab q) (digitCount q.fmt) rows fed (allowed ws dk r q kt) (f.rounds.getD j []))
      (fun j => pvPasses vt vm d dp fp fed (f.rounds.getD j []) (f.rr.getD j [])) sw s
    let s2 := countRot run1.s g rot (rows + n)
    let e1 := edge.join r keep keys
    let e2 : Edge := if keep then e1.setScale oKeys (tensorScale vt)
      else { (e1.zeroAll keys (.fin 1 0)).setScale oKeys (tensorScale vt) with depcnt := 0 }
    -- deposits, round by round and row by row
    let dep := (f.rr.zipIdx).foldl (fun (acc : Edge × Nat × List NanAt) rr => (rr.1.zipIdx).foldl (fun a x =>
      let z := depositPv r d vm x.2 x.1 (groupPv rr.2 + x.2 * dp) (fun k => (f.rounds.getD rr.2 []).idxOf k / 256) a.1
      (z.1, a.2.1 + z.2.1, a.2.2 ++ z.2.2)) acc) (e2, 0, [])
    let sNans := f.rr.flatten.flatMap RowRound.nans
    let s3 := (s2.modCore g fun k => { k with side := dep.1 }).count (pnAccum g) 3 dep.2.1
    let s4 := addDeposits s3 w r true (0, 0) run1.deposits
    let s6 := noteNansBoth s4 w r true false dep.2.2 sNans
    let nan := !sNans.isEmpty || !dep.2.2.isEmpty
    let base : Run := { s := s6, nanDone := nan, touched := keys, summary := seenOf f.rr }
    let endCycle := run1.last + 129
    if nan && haltsAtTile s6 g then haltCmd g .aq r w base true (run1.last + 1) 0
    else
      let ed := (s6.core g).side
      let stats := (List.range rows).flatMap fun i =>
        statBytes (f.ms.getD i maxEmpty) ((ed.slot? (attnKey r i 255)).getD {}).value
      let out0 : Run := { base with out := putBytes [] stKey stats, tiles := 1 }
      if r.accEnd = 1 then
        commitRun g .aq r w { out0 with s := s6.modCore g fun k => { k with side := k.side.settle } } endCycle 0
      else
        let normed : List (List OutElem × Nat × Bool × List (Nat × Nat)) := (List.range rows).map fun i => normRow r d i (f.ms.getD i maxEmpty) ed
        let s7 := noteOverflows s6 w r true false (0, 0) (normed.flatMap fun x => x.2.2.2)
        let s8 := s7.modCore g fun k => { k with side := (k.side.freeAll keys).settle }
        let p := planesOf s8 w (t 7)
        let rc := roundCtx s8 w r.rmode 1 (t 7).id
        let seen : Nat := normed.foldl (fun (a : Nat) (x : List OutElem × Nat × Bool × List (Nat × Nat)) => Nat.lor a x.2.1) base.summary
        let anyEmpty : Bool := normed.any fun x => x.2.2.1
        let base1 : Run := { out0 with s := s8, summary := seen, rowEmpty := anyEmpty }
        let out1 : Run := base1.put p rc (normed.flatMap Prod.fst)
        commitRun g .aq r w out1 endCycle (wbBytes (some (t 7)))

/-- ATTN_FWD (R214). -/
def execAttnFwd (core : Nat) (s : State) : Out :=
  .next (match frontOf s core .aq opAttnFwd with
    | none => s
    | some r => afterGather s core fun s1 =>
      let w := whoOf s1 core r.ctx
      let ts := [4, 5, 6].filterMap r.tensor?
      let spans := ts.flatMap (keySpans s1 w) ++ if r.accBegin = 3 then [(ptrKey s1 w (r.w 8), 8 * (r.tensor? 4).elim 0 Tensor.rows)] else []
      withDeps s1 core .aq r (if landingMeets s1 core (ts.flatMap stageSpans) || (r.accEnd == 0 && wbWaits s1 core (r.tensor? 7)) then s1
        else match badInSpans s1 spans with
        | some u => failBad s1 core .aq r u spans
        | none => runAttnFwd (readSpans s1 true spans) core r))

/-! ### The backward computation (R225–R227) -/

/-- What both sweeps of an ATTN_BWD compute from. -/
structure BwdOps where
  q  : Tensor
  k  : Tensor
  v  : Tensor
  do_ : Tensor
  qm : Mat
  km : Mat
  vm : Mat
  om : Mat
  c  : Val
  /-- round32(c × ln2) -/
  cln : Val
  fg : Nat
  ws : List Word
  dk : List Deckle
  ms : List Int
  rl : List Val
  dd : List Val

/-- One (query row, key) pair of a backward sweep: the normalised probability, dP, the positions at which S and dP became NaN,
and the summary bits of the two scores (R138). -/
structure BwdPair where
  pn   : Val
  dp   : Val
  sNan : Option Nat
  dNan : Option Nat
  seen : Nat

def bwdPair (o : BwdOps) (r : CmdRec) (i k : Nat) : Option BwdPair :=
  let m := o.ms.getD i maxEmpty
  if m = maxEmpty then none
  else if !allowed o.ws o.dk r o.q o.k i k then none
  else
    let sc := scoreOf ((tensorScale o.q).mul (tensorScale o.k)) (o.qm.vals.getD i []) (o.km.vals.getD k [])
    let dp := scoreOf ((tensorScale o.do_).mul (tensorScale o.v)) (o.om.vals.getD i []) (o.vm.vals.getD k [])
    let t := fp32 (sc.v.mul o.c)
    let p := match t with
      | .nan => Val.nan
      | .inf n => if n then Val.zero else .inf false
      | t =>
        -- round32(exp2(t − i) × 2^(i − m)), once, from the exact value
        let e := match t.sub (.fin (ceilVal t) 0) with
          | .fin a b => if a = 0 then Val.fin 1 0 else exp2Near a b
          | x => x
        fp32 (e.mul (.fin 1 (min 4096 (max (-4096) (ceilVal t - m)))))
    let pn := p.mul (o.rl.getD i Val.zero)
    some { pn := pn, dp := dp.v, sNan := sc.nan, dNan := dp.nan, seen := Nat.lor sc.seen dp.seen }

/-- The two streamed values of pairs in one MX block or alone: P_n written in F_G, then ds from P_n (R225). -/
def bwdBlock (o : BwdOps) (xs : List (Nat × Option BwdPair)) : List (Val × Val × Nat) × List (Val × Val × Nat) :=
  let pn := writeIn o.fg (xs.map fun e => e.2.elim Val.zero BwdPair.pn)
  let ds := writeIn o.fg ((xs.zip pn).map fun e => e.1.2.elim Val.zero fun x =>
    (e.2.2.1.mul (x.dp.sub (o.dd.getD e.1.1 Val.zero))).mul o.cln)
  (pn, ds)

/-- The summary bits of the scores of pairs. -/
def seenPairs (l : List (Option BwdPair)) : Nat := l.foldl (fun a x => Nat.lor a (x.elim 0 BwdPair.seen)) 0

/-- Operands of a BWD read and rotated; D of each row is the fixed lane tree over its products (R167, R225). An INT8 O or dO
is loaded with RNE, since RMODE rounds only what the command writes out (R54, R211). -/
def bwdOps (s : State) (g : Nat) (w : Who) (r : CmdRec) : BwdOps :=
  let t (k : Nat) : Tensor := (r.tensor? k).getD (tensorOf [])
  let rot := rotOf s g
  let q := t 4
  let k := t 5
  let om := readMat s (planesOf s w (t 8))
  let o32 := (loadTensor s w rmRne (t 7)).1
  let d32 := (loadTensor s w rmRne (t 8)).1
  let st := ptrKey s w (r.w 9)
  let c := decodeFp32 (r.w 14)
  { q := q, k := k, v := t 6, do_ := t 8, qm := attnMat q rot (fun i => q.pos + i) (readMat s (planesOf s w q)),
    km := attnMat k rot (fun i => k.pos + i) (readMat s (planesOf s w k)), vm := readMat s (planesOf s w (t 6)), om := om,
    c := c, cln := fp32 (c.mul (.fin fxLn2 (-256))), fg := gradFmt (t 8), ws := r.words? 10, dk := decklesOf (r.words? 10),
    ms := (List.range q.rows).map (statMax s st),
    rl := (List.range q.rows).map fun i => let l := viewNat s (st + 8 * i + 4) 4; special 0x12 l (decodeFp32 l),
    dd := (o32.zip d32).map fun e => reduceRow 1 ((e.1.zip e.2).map fun x => fp32 (x.1.mul x.2)) }

/-- The values of O and dO that overflow FP32 on load (R161). -/
def bwdLoadOvf (s : State) (w : Who) (r : CmdRec) : Nat :=
  ([7, 8].map fun k => (loadTensor s w rmRne ((r.tensor? k).getD (tensorOf []))).2).sum

/-- A row deposited into consecutive banks: pairs of streamed values and stationary rows (R225). `blk` and `pass` give the
reduction block and the pass of a pair. -/
def depositRowBanks (key : Nat → Nat) (d : Nat) (pairs : List (Val × List Val)) (blk : Nat → Nat) (cyc : Nat) (pass : Nat → Nat)
    (e : Edge) : Edge × List NanAt :=
  (List.range d).foldl (fun acc j =>
    let q := (acc.1.slot? (key j)).getD {}
    let dot := dotOf (pairs.map Prod.fst) (pairs.map fun p => p.2.getD j Val.zero)
    let z := q.deposit dot.v dot.cls
    (acc.1.setSlot (key j) z, if !q.nanLike && z.nanLike then
      acc.2 ++ [{ cycle := cyc + pass (dot.nanPos q) * 2 ^ 20 + j, row := 0, col := 0, out := j, block := blk (dot.nanPos q) }]
      else acc.2)) (e, [])

/-- An output of a BWD whose rows are read out, rotated back where the rotary unit acts (R231), and rounded. `keyAt` gives
the slot of a row and column. -/
def bwdReadout (run : Run) (w : Who) (r : CmdRec) (side : Bool) (site : Nat) (t : Tensor) (rot : Option RotTable)
    (keyAt : Nat → Nat → Nat) : Run :=
  let ks := (List.range t.rows).flatMap fun i => (List.range t.e0).map fun j => (i, j, keyAt i j)
  let rd := readSlots run w r side false (0, 0) ks
  let es := match rot with
    | none => rd.2
    | some z => (List.range t.rows).flatMap fun i =>
      let row := (rd.2.filter fun e => e.r == i).map fun e => fp32 e.v
      ((rotRow z true (t.pos + i) row).zipIdx).map fun v => { r := i, c := v.2, v := v.1 }
  ({ rd.1 with s := countRot rd.1.s w.core rot t.rows } : Run).put (planesOf run.s w t) (roundCtx run.s w r.rmode site t.id) es

/-- The DQ sweep (R225–R227): query rows against the keys, dQ in side-edge slots of banks 0 to d − 1. The last part is the
cycle of its last deposit. -/
def dqSweep (g : Nat) (r : CmdRec) (w : Who) (o : BwdOps) (issue : Nat) (run : Run) : Run × Nat :=
  let d := o.q.e0
  let rows := o.q.rows
  let n := o.k.rows
  let kb := 256 * foldOf r.shape
  let rounds := roundsOf (liveBlocks o.ws o.dk 0 kb n) kb n
  let qb := alongRows o.qm 0
  let ob := alongRows o.om 0
  let kbs := alongRows o.km 0
  let vbs := alongRows o.vm 0
  let dg := digitCount o.fg
  let fed := fedRows o.ws o.dk r o.q o.k (List.range rows)
  let crossK := isMx o.km.fmt && o.km.axis != 1
  -- per round and row: ds per key, with its blocks of 32 keys
  let comp := rounds.map fun ks => (List.range rows).map fun i =>
    let ps := ks.map fun k => (i, bwdPair o r i k)
    (ps, (bwdBlock o ps).2)
  let group1 (j : Nat) : List PassReq :=
    let ks := rounds.getD j []
    scorePasses o.k o.km r.shape kb d kbs qb (inSlab o.q) (digitCount o.q.fmt) rows fed (allowed o.ws o.dk r o.q o.k) ks ++
      scorePasses o.v o.vm r.shape kb d vbs ob (inSlab o.do_) (digitCount o.do_.fmt) rows fed (allowed o.ws o.dk r o.q o.k) ks
  let group2 (j : Nat) : List PassReq :=
    let ks := rounds.getD j []
    (rangesOf ks.length kb).flatMap fun ix =>
      let keys := ix.map fun i => ks.getD i 0
      let k0 := keys.headD 0
      let on := fed keys
      let banks : List BankRow := (List.range d).map fun j =>
        { bank := j, bands := ((alongCol o.km j).drop (k0 / 32)).take (kb / 32), elem := fun i => o.km.elem crossK (k0 + i) j }
      let ds := on.map fun i =>
        let z := (((comp.getD j []).getD i ([], [])).2.drop (ix.headD 0)).take ix.length
        vecBands o.fg false (z.map Prod.fst) (z.map fun v => v.2.1) (z.map fun v => v.2.2)
      (stagedBy (inSlab o.k) false (crossPasses { attnLoad o.k 3 r.shape with n0 := k0 } (8 / foldOf r.shape) kb ix.length dg
        (o.k.fmt == fmtFp32) banks (rows - on.length) ds)).map fun p => { p with cross := crossK }
  let ent := runRounds g issue r.after rounds.length group1 group2
    (fun j => rows * ceilDiv (rounds.getD j []).length 256 * 3) run.s
  let keep := r.accBegin == 3
  let keys := (List.range rows).flatMap fun i => (List.range d).map fun j => attnKey r i j
  let e1 := ((ent.s.core g).side).join r keep keys
  let e2 : Edge := if keep then e1.setScale keys (tensorScale o.k) else { e1.zeroAll keys (tensorScale o.k) with depcnt := 0 }
  let dep := ((rounds.zip comp).zipIdx).foldl (fun (acc : Edge × List NanAt) e => (e.1.2.zipIdx).foldl (fun a x =>
    let live := (x.1.1.zip (x.1.2.zip e.1.1)).filter fun z => z.1.2.isSome
    if live.isEmpty then a
    else
      let z := depositRowBanks (attnKey r x.2) d (live.map fun y => (y.2.1.2.1, o.km.vals.getD y.2.2 []))
        (fun p => (live.map fun y => y.2.2).getD p 0 / 32) (groupPv e.2 + x.2 * dg)
        (fun p => e.1.1.idxOf ((live.map fun y => y.2.2).getD p 0) / kb) a.1
      (z.1, a.2 ++ z.2)) acc) (e2, [])
  let sNans := (comp.zipIdx).flatMap fun e => (e.1.zipIdx).flatMap fun x => (x.1.1.zip (rounds.getD e.2 [])).flatMap fun p =>
    let one (v : Nat) (split : Bool) (mb : List (List (List (Option Band)))) (dw : Nat) (pos : Nat) : NanAt :=
      { cycle := groupS e.2 + v * 2 ^ 36 + p.2 / kb * 2 ^ 20 + x.2 * max dw (foldOf r.shape) + p.2 % 256 + p.2 % kb / 256, row := 0,
        col := p.2 - p.2 % kb, out := p.2,
        block := loadBlock (alongLoads r.shape d split ((rounds.getD e.2 []).filter fun k => k / kb == p.2 / kb) fun n => mb.getD n [])
          (pos / 32) }
    p.1.2.elim [] fun y => (y.sNan.map (one 0 (o.k.fmt == fmtFp32) kbs (digitCount o.q.fmt))).toList ++
      (y.dNan.map (one 1 (o.v.fmt == fmtFp32) vbs (digitCount o.do_.fmt))).toList
  let s3 := ent.s.modCore g fun k => { k with side := dep.1 }
  let s4 := addDeposits s3 w r true (0, 0) ent.deposits
  let s6 := noteNansBoth s4 w r true run.nanDone dep.2 sNans
  let nan := !sNans.isEmpty || !dep.2.isEmpty
  let r1 : Run := { run with
    s := s6, nanDone := run.nanDone || nan, touched := run.touched ++ keys,
    summary := Nat.lor run.summary (seenPairs (comp.flatten.flatMap fun x => x.1.map Prod.snd)) }
  if nan && haltsAtTile s6 g then ({ r1 with halted := true }, ent.last)
  else if r.accEnd = 1 then ({ r1 with tiles := r1.tiles + 1 }, ent.last)
  else
    let t := (r.tensor? 11).getD (tensorOf [])
    let z := bwdReadout r1 w r true 1 { t with pos := o.q.pos } (rotOf s6 g) (attnKey r)
    ({ z with tiles := z.tiles + 1 }, ent.last)

/-- The slots of a DKV sweep (R226): dK of key `k` in banks 0 to d − 1, dV in banks 128 to 127 + d. -/
def dkKey (r : CmdRec) (k j : Nat) : Nat := attnKey r k j
def dvKey (r : CmdRec) (k j : Nat) : Nat := attnKey r k (128 + j)
def dkvKeys (r : CmdRec) (n d : Nat) : List Nat := (List.range n).flatMap fun k => (List.range d).flatMap fun j => [dkKey r k j, dvKey r k j]

/-- A DKV sweep that continues exact-compact tiles takes dV from where a REDUCE_X has loaded it: into the side-edge slots
that carry the numbers of dK's in the bottom edge, from which it moves to banks 128 to 127 + d (R226, R227, R239; log
105). -/
def moveDv (r : CmdRec) (d n : Nat) (c : Core) : Core :=
  let ks := (List.range n).flatMap fun k => (List.range d).map fun j => (dkKey r k j, dvKey r k j)
  let from_ := ks.map Prod.fst
  if ks.all fun p => (c.side.slot? p.1).isSome && (c.bottom.slot? p.2).isNone then
    { c with
      bottom := { c.bottom with
        slots := ks.foldl (fun m p => (c.side.slot? p.1).elim m (mput m p.2)) c.bottom.slots,
        chains := c.bottom.chains ++ (c.side.chains.filter fun h => h.slots.any from_.contains).map fun h =>
          { h with slots := (ks.filter fun p => h.slots.contains p.1).map Prod.snd } },
      side := (c.side.freeAll from_).settle }
  else c

/-- The DKV sweep (R225–R227): the keys against every query block, dK in bottom-edge banks 0 to d − 1 and dV in 128 to
127 + d. -/
def dkvSweep (g : Nat) (r : CmdRec) (w : Who) (o : BwdOps) (issue : Nat) (run : Run) : Run × Nat :=
  let d := o.q.e0
  let n := o.k.rows
  let rows := o.q.rows
  let blocks := (rangesOf rows 128).filter fun is =>
    (List.range (ceilDiv n 128)).any fun kt => (tileDeckle o.ws o.dk (is.headD 0 / 128) kt).kind != 1
  let qb := alongRows o.qm 0
  let ob := alongRows o.om 0
  let dg := digitCount o.fg
  let crossQ := isMx o.qm.fmt && o.qm.axis != 1
  let crossO := isMx o.om.fmt && o.om.axis != 1
  -- per query block and key: P_n and ds down the query rows
  let comp := blocks.map fun is => (List.range n).map fun k =>
    let ps := is.map fun i => (i, bwdPair o r i k)
    (ps, bwdBlock o ps)
  let rounds := rangesOf blocks.length 4
  let inRound (j : Nat) := (rounds.getD j []).map fun i => (blocks.getD i [], comp.getD i [])
  let banksOf (m : Mat) : List BankRow := (alongRows m 0).zipIdx.map fun e =>
    { bank := e.2, bands := e.1, elem := fun p => m.elem (isMx m.fmt && m.axis != 0) e.2 p }
  let group1 (j : Nat) : List PassReq := (inRound j).flatMap fun b =>
    let on := fedRows o.ws o.dk r o.q o.k b.1 (List.range n)
    let one (t x : Tensor) (m : Mat) (form : Nat) (xb : List (List (List (Option Band)))) : List PassReq :=
      stagedBy (inSlab t) (inSlab x) (crossBy (isMx m.fmt && m.axis != 0)
        (crossPasses (attnLoad t form 0) 8 256 d (digitCount x.fmt) (t.fmt == fmtFp32) (banksOf m) (b.1.length - on.length)
          (on.map fun i => xb.getD i []) fun row k => !allowed o.ws o.dk r o.q o.k (on.getD row 0) k))
    one o.k o.q o.km 4 qb ++ one o.v o.do_ o.vm 5 ob
  let group2 (j : Nat) : List PassReq := (inRound j).flatMap fun b =>
    let sub (m : Mat) : Mat := { m with vals := b.1.map fun i => m.vals.getD i [], raw := b.1.map fun i => m.raw.getD i [],
                                        sc := b.1.map fun i => m.sc.getD i [], neg := b.1.map fun i => m.neg.getD i [] }
    let pad (l : List (List (Option Band))) : List (List (Option Band)) := l ++ List.replicate (4 - l.length) [none]
    let on := (List.range n).filter fun k => b.1.any fun i => allowed o.ws o.dk r o.q o.k i k
    let wb (c : Nat) : List (List (Option Band)) :=
      if c < d then pad (alongCol (sub o.qm) c) ++ List.replicate 4 [none]
      else if 128 ≤ c then List.replicate 4 [none] ++ pad (alongCol (sub o.om) (c - 128))
      else List.replicate 8 [none]
    let x (p c : Nat) : Option Elem :=
      if p < b.1.length ∧ c < d then some (o.qm.elem crossQ (b.1.getD p 0) c)
      else if 128 ≤ p ∧ p - 128 < b.1.length ∧ 128 ≤ c then some (o.om.elem crossO (b.1.getD (p - 128) 0) (c - 128))
      else none
    let rowsB := on.map fun k =>
      let z := ((b.2[k]?).elim ([], []) fun y => y.2)
      let f (l : List (Val × Val × Nat)) := pad (vecBands o.fg false (l.map Prod.fst) (l.map fun v => v.2.1) (l.map fun v => v.2.2))
      f z.2 ++ f z.1
    (stagedBy (inSlab o.q || inSlab o.do_) false
      (alongPasses { attnLoad o.q 6 0 with sbase := o.do_.base } dg 256 (o.q.fmt == fmtFp32 || o.do_.fmt == fmtFp32)
        (List.range (128 + d)) wb x (n - on.length) rowsB)).map fun p =>
      { p with plane := { p.plane with load := p.plane.load.map fun l => { l with n0 := b.1.headD 0 } }, cross := crossQ || crossO }
  let ent := runRounds g issue r.after rounds.length group1 group2
    (fun j => ((inRound j).map fun b => b.1.length * ceilDiv n 256).sum * 3) run.s
  let keep := r.accBegin == 3
  let keys := dkvKeys r n d
  let t12 := (r.tensor? 12).getD (tensorOf [])
  let t13 := (r.tensor? 13).getD (tensorOf [])
  let pm (t : Tensor) : Mat := readPreload run.s (planesOf run.s w t)
  let e0 := (ent.s.core g).bottom
  let e1 := e0.join r keep keys
  let kKeys := (List.range n).flatMap fun k => (List.range d).map (dkKey r k)
  let vKeys := (List.range n).flatMap fun k => (List.range d).map (dvKey r k)
  let e2 : Edge := if keep then (e1.setScale kKeys (tensorScale o.q)).setScale vKeys (tensorScale o.do_)
    else if r.accBegin = 2 then
      let mk := pm t12
      let mv := pm t13
      { ((List.range n).foldl (fun (a : Edge) k => (List.range d).foldl (fun a j =>
          (a.setSlot (dkKey r k j) (preloaded (tensorScale o.q) (mk.val k j))).setSlot (dvKey r k j)
            (preloaded (tensorScale o.do_) (mv.val k j))) a) e1) with depcnt := 1 }
    else { (e1.zeroAll kKeys (tensorScale o.q)).zeroAll vKeys (tensorScale o.do_) with depcnt := 0 }
  let preNans := if r.accBegin = 2 then (List.range n).flatMap fun k =>
      let b := (comp.findIdx? fun l => (l.getD k ([], ([], []))).1.any fun p => p.2.isSome).getD 0
      ((List.range d).flatMap fun j => [(dkKey r k j, j), (dvKey r k j, 128 + j)]).filterMap fun x =>
        if ((e2.slot? x.1).getD {}).nanLike then
          some ({ cycle := groupPv (b / 4) + b % 4 * 2 ^ 20 + k * dg + x.2, row := 0, col := 0, out := x.2, block := 0xFFFFFFFF } : NanAt)
        else none
    else []
  let dep := ((blocks.zip comp).zipIdx).foldl (fun (acc : Edge × List NanAt) e => (e.1.2.zipIdx).foldl (fun a x =>
    let all := x.1.1.zip (x.1.2.1.zip x.1.2.2)
    let live := all.filter fun z => z.1.2.isSome
    if live.isEmpty then a
    else
      let blk (p : Nat) : Nat := (live.map fun z => z.1.1).getD p 0 / 32
      let cyc := groupPv (e.2 / 4) + e.2 % 4 * 2 ^ 20 + x.2 * dg
      let z1 := depositRowBanks (dkKey r x.2) d (live.map fun z => (z.2.2.2.1, o.qm.vals.getD z.1.1 [])) blk cyc (fun _ => 0) a.1
      let z2 := depositRowBanks (dvKey r x.2) d (live.map fun z => (z.2.1.2.1, o.om.vals.getD z.1.1 [])) blk cyc (fun _ => 0) z1.1
      (z2.1, a.2 ++ z1.2 ++ z2.2.map fun q => { q with out := 128 + q.out })) acc) (e2, preNans)
  let sNans := (comp.zipIdx).flatMap fun e => (e.1.zipIdx).flatMap fun x => x.1.1.flatMap fun p =>
    let one (v dw pos : Nat) : NanAt :=
      { cycle := groupS (e.2 / 4) + e.2 % 4 * 2 ^ 36 + v * 2 ^ 35 + p.1 % 128 * dw + x.2, row := p.1 - p.1 % 128, col := 0, out := x.2,
        block := pos / 32 }
    p.2.elim [] fun y => (y.sNan.map (one 0 (digitCount o.q.fmt))).toList ++ (y.dNan.map (one 1 (digitCount o.do_.fmt))).toList
  let s3 := ent.s.modCore g fun k => { k with bottom := dep.1 }
  let s4 := addDeposits s3 w r false (0, 0) ent.deposits
  let s4' := countStaged s4 g (if r.accBegin = 2 then (if inSlab t12 then 1 else 0) + if inSlab t13 then 1 else 0 else 0)
  let s6 := noteNansBoth s4' w r false run.nanDone dep.2 sNans
  let nan := !sNans.isEmpty || !dep.2.isEmpty
  let r1 : Run := { run with
    s := s6, nanDone := run.nanDone || nan,
    summary := Nat.lor run.summary (seenPairs (comp.flatten.flatMap fun x => x.1.map Prod.snd)) }
  if nan && haltsAtTile s6 g then
    ({ r1 with halted := true, s := s6.modCore g fun k => { k with bottom := (k.bottom.freeAll keys).settle } }, ent.last)
  else
    let fin_ : Run := if r.xcOut then
        let ks (f : Nat → Nat → Nat) := (List.range n).flatMap fun k => (List.range d).map fun j => (k, j, some (f k j))
        let a := readSlotsXc r1 w r false false (0, 0) (keyOf s6 w t12.base) (ks (dkKey r))
        readSlotsXc a w r false false (0, 0) (keyOf s6 w t13.base) (ks (dvKey r))
      else
        let a := bwdReadout r1 w r false 0 { t12 with pos := o.k.pos } (rotOf s6 g) (dkKey r)
        bwdReadout a w r false 0 t13 none (dvKey r)
    ({ fin_ with tiles := fin_.tiles + 1 }, ent.last)

/-- The core as an ATTN_BWD finds it: a saved dV stands where a DKV sweep holds it (log 105). -/
def bwdCore (r : CmdRec) (c : Core) : Core :=
  if r.accBegin == 3 && hasDkv r && !hasDq r then
    moveDv r ((r.tensor? 4).getD (tensorOf [])).e0 ((r.tensor? 5).getD (tensorOf [])).rows c
  else c

/-- Why an ATTN_BWD is refused at issue, or 0: the slots of its sweeps, and those that its scores stream through (R226, R227). -/
def attnBwdRefusal (r : CmdRec) (c : Core) : Nat :=
  let q := (r.tensor? 4).getD (tensorOf [])
  let keep := r.accBegin == 3
  let dqKeys := if hasDq r then (List.range q.rows).flatMap fun i => (List.range q.e0).map fun j => attnKey r i j else []
  let kvKeys := if hasDkv r then dkvKeys r ((r.tensor? 5).getD (tensorOf [])).rows q.e0 else []
  let streamBad := (hasDq r && slotsRefused c.bottom false (streamKeys r r.shape q.rows)) ||
    (hasDkv r && slotsRefused c.side false ((streamKeys r 0 (min 128 q.rows)).filter fun k => !dqKeys.contains k))
  if slotsRefused c.side keep dqKeys || slotsRefused c.bottom keep kvKeys || streamBad then 0x06
  else refuseIf (chainTooLong c.side keep dqKeys || chainTooLong c.bottom keep kvKeys) 0x09

/-- ATTN_BWD runs: the DQ sweep first (R226); a command with both sweeps adds their times (R227). -/
def runAttnBwd (s : State) (g : Nat) (r : CmdRec) : State :=
  let w := whoOf s g r.ctx
  let o := bwdOps s g w r
  let c := bwdCore r (s.core g)
  if attnBwdRefusal r c ≠ 0 then refuseFront s g .aq r (attnBwdRefusal r c)
  else
    let issue := issueCycle s g r
    let s1 := (countRot (s.setCore g c) g (rotOf s g) (o.q.rows + o.k.rows)).count (pnVu g) 4 (bwdLoadOvf s w r)
    let wb := ([11, 12, 13].map fun k => wbBytes (r.tensor? k)).foldl max 0
    let a : Run × Nat := if hasDq r then dqSweep g r w o issue { s := s1 } else ({ s := s1 }, 0)
    if a.1.halted then haltCmd g .aq r w a.1 true (a.2 + 1) wb
    else
      let b := if hasDkv r then dkvSweep g r w o (if hasDq r then a.2 + 129 else issue) { a.1 with s := a.1.s.modCore g fun k => { k with side := k.side.settle } } else a
      if b.1.halted then haltCmd g .aq r w b.1 true (b.2 + 1) wb
      else
        let run : Run := { b.1 with s := b.1.s.modCore g fun k => { k with side := k.side.settle, bottom := k.bottom.settle } }
        commitRun g .aq r w run (b.2 + 129) wb

/-- ATTN_BWD (R225). -/
def execAttnBwd (core : Nat) (s : State) : Out :=
  .next (match frontOf s core .aq opAttnBwd with
    | none => s
    | some r => afterGather s core fun s1 =>
      let w := whoOf s1 core r.ctx
      let ts := ([4, 5, 6, 7, 8] ++ if r.accBegin = 2 then [12, 13] else []).filterMap r.tensor?
      let spans := ts.flatMap (keySpans s1 w) ++ [(ptrKey s1 w (r.w 9), 8 * (r.tensor? 4).elim 0 Tensor.rows)]
      withDeps s1 core .aq r (if landingMeets s1 core (ts.flatMap stageSpans) || ([11, 12, 13].any fun k => wbWaits s1 core (r.tensor? k)) then s1
        else match badInSpans s1 spans with
        | some u => failBad s1 core .aq r u spans
        | none => runAttnBwd (readSpans s1 true spans) core r))

end Sys2Proof.Machine
end

