-- ==== Sys2Proof/Machine/Cache.lean ====
section
/-! DEFINITION. The paged cache: pages, sequence records, free lists, COUCH and ATTN_DECODE (chapter "Paged cache and thin
operands"). -/

namespace Sys2Proof.Machine

/-! ### Sequence records and page descriptors (R246–R251) -/

/-- A sequence record as it is worked on, with the memory key it lies at. -/
structure SeqRec where
  key      : Nat
  words    : List Word
  length   : Nat
  stalled  : Bool
  ovf      : Bool
  nextOk   : Bool
  head     : Nat
  count    : Nat
  next     : Nat

def SeqRec.w (q : SeqRec) (k : Nat) : Nat := wordAt q.words k
def SeqRec.id (q : SeqRec) : Nat := q.w 0
def SeqRec.windowed (q : SeqRec) : Bool := (q.w 1).testBit 27
def SeqRec.owner (q : SeqRec) : Nat := bits (q.w 1) 30 28
def SeqRec.owned (q : SeqRec) : Bool := (q.w 1).testBit 31
def SeqRec.pt (q : SeqRec) : Nat := q.w 2 + 2 ^ 32 * bits (q.w 3) 15 0
def SeqRec.cap (q : SeqRec) : Nat := bits (q.w 4) 17 0
def SeqRec.window (q : SeqRec) : Nat := bits (q.w 7) 17 0
def SeqRec.kf (q : SeqRec) : Nat := bits (q.w 9) 20 16
def SeqRec.vf (q : SeqRec) : Nat := bits (q.w 9) 25 21
def SeqRec.ovfAddr (q : SeqRec) : Nat := q.w 10 + 2 ^ 32 * bits (q.w 11) 15 0
def SeqRec.d (q : SeqRec) : Nat := bits (q.w 11) 24 16

/-- The record at a memory key. -/
def readSeq (s : State) (key : Nat) : SeqRec :=
  let ws := viewWords s key 16
  { key := key, words := ws, length := bits (wordAt ws 1) 23 0, stalled := (wordAt ws 1).testBit 24,
    ovf := (wordAt ws 1).testBit 25, nextOk := (wordAt ws 1).testBit 26, head := bits (wordAt ws 5) 16 0,
    count := bits (wordAt ws 6) 17 0, next := wordAt ws 8 + 2 ^ 32 * bits (wordAt ws 9) 15 0 }

/-- A bit as a field of a word at position `k`. -/
def bitAt (b : Bool) (k : Nat) : Nat × Nat := (k, if b then 1 else 0)

/-- The words of a record after the device has updated its fields, with its owner. -/
def SeqRec.image (q : SeqRec) (owner : Nat) : List Byte :=
  let keep (k : Nat) : Nat := q.w k
  let ws := [keep 0,
    fields [(0, q.length % 2 ^ 24), bitAt q.stalled 24, bitAt q.ovf 25, bitAt q.nextOk 26, bitAt q.windowed 27, (28, owner),
      (31, 1)], keep 2, keep 3, keep 4, q.head % 2 ^ 17, q.count % 2 ^ 18, keep 7, q.next % 2 ^ 32,
    q.next / 2 ^ 32 % 2 ^ 16 + bits (keep 9) 31 16 <<< 16]
  ws.flatMap (leBytes 4)

/-- The reserved bits of a record (R250). -/
def seqReserved (ws : List Word) : Bool :=
  let w := wordAt ws
  bits (w 3) 31 16 != 0 || bits (w 4) 31 18 != 0 || bits (w 5) 31 17 != 0 || bits (w 6) 31 18 != 0 ||
    bits (w 7) 31 18 != 0 || bits (w 9) 31 26 != 0 || bits (w 11) 31 25 != 0 || bits (w 12) 31 16 != 0 ||
    w 13 != 0 || w 14 != 0 || w 15 != 0

/-- A format that pages may have at head dimension `d` (R248). -/
def pageFmtOk (f d : Nat) : Bool := decide (f ≤ 8) && (f != fmtFp32 || decide (d ≤ 128))

/-- A sequence record does not lie where one may. -/
def seqPlaceBad (s : State) (w : Who) (addr : Nat) : Bool :=
  addr % 64 != 0 || !([1, 2, 3].contains (tierOf addr)) || !(granted s w true addr 64)

/-- The check of a sequence record that a list names: 0, or the reason (R248, R250). -/
def checkSeq (s : State) (w : Who) (addr : Nat) : Nat :=
  if seqPlaceBad s w addr then 0x03
  else
    let q := readSeq s (keyOf s w addr)
    if seqReserved q.words then 0x01
    else if q.cap = 0 ∨ 131072 < q.cap ∨ q.d = 0 ∨ 256 < q.d ∨ (q.windowed ∧ (q.window < 2 ∨ q.cap < q.window)) then 0x01
    else if !pageFmtOk q.kf q.d ∨ !pageFmtOk q.vf q.d then 0x02
    else if q.pt % 32 ≠ 0 ∨ !(granted s w true q.pt (32 * q.cap)) ∨ tierOf q.pt = 0 ∨ tierOf q.pt = 4 then 0x03
    else if q.ovfAddr % 2048 ≠ 0 ∨ !([1, 3].contains (tierOf q.ovfAddr)) ∨ !(granted s w true q.ovfAddr 2048) then 0x03
    else 0

/-- A page descriptor (R249), with the memory key it lies at. -/
structure PageDesc where
  key   : Nat
  addr  : Nat
  kf    : Nat
  vf    : Nat
  valid : Bool
  pos   : Nat
  fill  : Nat
  no    : Nat

def readPage (s : State) (key : Nat) : PageDesc :=
  let ws := viewWords s key 8
  let w := wordAt ws
  { key := key, addr := w 0 + 2 ^ 32 * bits (w 1) 15 0, kf := bits (w 1) 20 16, vf := bits (w 1) 25 21,
    valid := (w 1).testBit 26, pos := bits (w 2) 23 0, fill := bits (w 2) 31 24, no := bits (w 4) 16 0 }

/-- A descriptor's bytes. -/
def pageImage (q : SeqRec) (addr pos fill kf vf : Nat) : List Byte :=
  leBytes 32 (fields [(0, addr), (48, kf), (53, vf), (58, 1), (64, pos), (88, fill), (96, q.id), (128, pos / 128)])

/-- The memory key of the descriptor `i` places after the oldest. -/
def SeqRec.entry (s : State) (w : Who) (q : SeqRec) (i : Nat) : Nat := keyOf s w q.pt + 32 * ((q.head + i) % q.cap)
/-- The pages of a stream, oldest first. -/
def pagesOf (s : State) (w : Who) (q : SeqRec) : List PageDesc :=
  (List.range q.count).map fun i => readPage s (q.entry s w i)

/-! ### Free lists (R253, R270, R271) -/

/-- Base and size exponent of a partition's free list at the controller that serves a core. -/
def freeBase (s : State) (g p : Nat) : Nat := s.regAddr (pnDieCtlOf g) (0x100 + p * 0x20)
def freeLog2 (s : State) (g p : Nat) : Nat :=
  let n := bits (s.regN (pnDieCtlOf g) (0x104 + p * 0x20)) 20 16
  if 4 ≤ n ∧ n ≤ 17 then n else 4

/-- Entries that software has written and the controller has not taken. -/
def freeCount (s : State) (g p : Nat) : Nat :=
  let c := dieCtlOf s g
  (mget 0 c.freeTail p - mget 0 c.freeHead p).toNat

/-- The ring lies where R253 has it, in hub SRAM or in the slab of a core that the controller serves, 8-byte aligned. From
any other address nothing is taken (R561; log 107). -/
def freeRingOk (s : State) (g p : Nat) : Bool :=
  let a := freeBase s g p
  let n := 8 * 2 ^ freeLog2 s g p
  a % 8 == 0 && ((tierOf a == 2 && decide (bits a 43 0 + n ≤ hubSize)) ||
    (tierOf a == 1 && bits a 43 36 / 20 == g / 20 && decide (bits a 43 36 < 160) && decide (bits a 35 0 + n ≤ slabSize)))

/-- A slot is taken from the free list; bad entries are discarded and counted (R253). The last part is a unit of the list that
cannot be read (R410). -/
def takeFree (w : Who) : Nat → State → State × Option Nat × Option Nat
  | 0, s => (s, none, none)
  | n + 1, s =>
    if !freeRingOk s w.core w.part then (s, none, none) else
    let c := dieCtlOf s w.core
    let h := mget 0 c.freeHead w.part
    let key := freeBase s w.core w.part + 8 * (h.toNat % 2 ^ freeLog2 s w.core w.part)
    if (badUnit s key 8).isSome then (s, none, badUnit s key 8) else
    let v := bits (viewNat s key 8) 47 0
    let s0 := setDieCtlOf (readSpans s false [(key, 8)]) w.core { c with freeHead := mset 0 c.freeHead w.part (h + 1) }
    let s1 := if h + 1 = mget 0 c.freeTail w.part then setEvent s0 (pnDieCtlOf w.core) 1 else s0
    if v % 131072 = 0 ∧ [1, 3].contains (tierOf v) ∧ granted s w true v 131072 then
      (s1.count (pnDieCtlOf w.core) 1 1, some v, none)
    else takeFree w n (setEvent (s1.count (pnDieCtlOf w.core) 6 1) (pnDieCtlOf w.core) 2)

/-! ### The couch step (R256–R260) -/

/-- A COUCH on its way through one stream: the state, the record, the tokens that this command has written into the
present block of V with their draws, whether those are the block's tokens from its first on, and what has happened: `stop` is
a unit that a read could not take, which ends the command, `bad` one that a write could not. -/
structure Couch where
  s         : State
  q         : SeqRec
  acc       : List (List (Val × Nat)) := []
  whole     : Bool := false
  exhausted : Bool := false
  err       : Option Nat := none
  stop      : Option Nat := none
  bad       : Option Nat := none
  bytes     : Nat := 0
  tag       : Nat := 0

/-- Bytes stored for a COUCH. -/
def Couch.store (c : Couch) (o : Overlay) : Couch :=
  let r := memStoresBy c.s c.tag none (runsOf o)
  { c with s := r.1, bad := c.bad.or r.2, bytes := c.bytes + o.length }
def Couch.storeAt (c : Couch) (key : Nat) (bs : List Byte) : Couch :=
  let r := memStoresBy c.s c.tag none [(key, bs)]
  { c with s := r.1, bad := c.bad.or r.2 }

/-- A COUCH reads spans: errors are corrected, and a unit that cannot be read ends the command (R372, R407, R410). -/
def Couch.reads (c : Couch) (spans : List (Nat × Nat)) : Couch :=
  match badInSpans c.s spans with
  | some u => { c with stop := c.stop.or (some u) }
  | none => { c with s := readSpans c.s false spans }

/-- The oldest page is released (R260); `none` where the log is full (R271) or its descriptor cannot be read. -/
def releaseOldest (w : Who) (c0 : Couch) : Couch × Option Nat :=
  let c := c0.reads [(c0.q.entry c0.s w 0, 32)]
  let dc := dieCtlOf c.s w.core
  if c.stop.isSome then (c, none)
  else if dc.released.length < 256 then
    let p := readPage c.s (c.q.entry c.s w 0)
    let c1 := c.storeAt p.key (leBytes 32 (ofLe (viewBytes c.s p.key 32) - 2 ^ 58 * (if p.valid then 1 else 0)))
    let s1 := setDieCtlOf c1.s w.core { dc with released := dc.released ++ [BitVec.ofNat 48 p.addr] }
    ({ c1 with s := s1.count (pnDieCtlOf w.core) 2 1, q := { c.q with head := (c.q.head + 1) % c.q.cap, count := c.q.count - 1 } },
      some p.addr)
  else ({ c with s := c.s.count (pnDieCtlOf w.core) 7 1 }, none)

/-- A new page for a stream, as R256 orders it: a released oldest page, NEXT_PAGE, the free list. -/
def newSlot (w : Who) (c : Couch) : Couch × Option Nat :=
  let rel := if c.q.windowed ∧ c.q.count = c.q.window then releaseOldest w c else (c, none)
  match rel.2 with
  | some a => (rel.1, some a)
  | none =>
    let c1 := rel.1
    if c1.stop.isSome then (c1, none)
    else if c1.q.nextOk then ({ c1 with q := { c1.q with nextOk := false } }, some c1.q.next)
    else
      let t := takeFree w (freeCount c1.s w.core w.part) c1.s
      ({ c1 with s := t.1, stop := t.2.2 }, t.2.1)

/-- An append would need more than PT_CAPACITY pages (R256): the table is full, and no oldest page will be released. -/
def tableFull (w : Who) (c : Couch) : Bool :=
  decide (c.q.cap ≤ c.q.count) &&
    !(c.q.windowed && c.q.count == c.q.window && decide ((dieCtlOf c.s w.core).released.length < 256))

/-- NEXT_PAGE is filled again (R256). -/
def refillNext (w : Who) (c : Couch) : Couch :=
  if !c.q.nextOk && !(c.q.windowed && c.q.count == c.q.window) then
    let t := takeFree w (freeCount c.s w.core w.part) c.s
    match t.2.1 with
    | some a => { c with s := t.1, q := { c.q with next := a, nextOk := true } }
    | none => { c with s := t.1, stop := c.stop.or t.2.2 }
  else c

/-- A page is appended to the table, with `fill` tokens (R256). -/
def appendPage (w : Who) (addr fill : Nat) (c : Couch) : Couch :=
  if c.q.cap ≤ c.q.count then { c with err := c.err.or (some c.q.length) }
  else
    let c1 := c.storeAt (c.q.entry c.s w c.q.count) (pageImage c.q addr c.q.length fill c.q.kf c.q.vf)
    { c1 with q := { c.q with count := c.q.count + 1 }, acc := [], whole := true }

/-- A row's codes in a format with blocks along it: scale bytes and codes (R60, R63). -/
def rowCodes (fmt mode : Nat) (vs : List (Val × Nat)) : List Nat × List Nat :=
  if isMx fmt then
    let bs := (blocks32 vs).map fun b => mxBlock fmt mode b
    (bs.map fun b => b.1, bs.flatMap fun b => b.2.1)
  else ([], vs.map fun v => (roundScalar fmt mode v.2 v.1).1)

/-- A vector put at element index 0 on of a plane, with its scale bytes. -/
def putRow (s : State) (o : Overlay) (key skey fmt i0 b0 : Nat) (cs : List Nat × List Nat) : Overlay :=
  let o1 := cs.2.zipIdx.foldl (fun m e => putCode s m key (fmtBits fmt) (i0 + e.2) e.1) o
  cs.1.zipIdx.foldl (fun m e => mput m (skey + b0 + e.2) (BitVec.ofNat 8 e.1)) o1

/-- A token's K goes to its place in a page: blocks along d, padding elements 0 (R247). -/
def putK (s : State) (key fmt d t mode : Nat) (k : List (Val × Nat)) (o : Overlay) : Overlay :=
  let dk := if isMx fmt then ceilDiv d 32 * 32 else d
  let cs := rowCodes fmt mode k
  putRow s o key (key + 0xC000) fmt (t * dk) (t * dk / 32) (cs.1, cs.2 ++ List.replicate (dk - d) 0)

/-- A value spelled as numbers, as what a free value depends on. -/
def valCode : Val → List Nat
  | .nan => [0]
  | .inf n => [1, if n then 1 else 0]
  | .fin m e => [2, if m < 0 then 1 else 0, m.natAbs, if e < 0 then 1 else 0, e.natAbs]

/-- A column of V in a block of 32 tokens after token `t` has joined (R247): the block's scale byte, the first of the tokens
that take codes, and their codes. Where this command has written the whole block, or the scale stays, or the block held only
zeros, R63 decides; else the rules do not say how a block with tokens of earlier commands takes a new scale: the scale and the
codes are then free values of what the block held and what joins it (R309; log 27). -/
def vColumn (s : State) (key fmt d t j mode : Nat) (whole : Bool) (mine : List (Val × Nat)) : Nat × Nat × List Nat :=
  let skey := key + 0xC000 + t / 32 * d + j
  if whole then let b := mxBlock fmt mode mine; (b.1, t / 32 * 32, b.2.1)
  else
    let x := (viewByte s skey).toNat
    let codes := (List.range' (t / 32 * 32) (t % 32)).map fun u => codeAt s key (fmtBits fmt) (u / 32 * 32 * d + 32 * j + u % 32)
    let old := codes.map fun c => decodeIn fmt c x
    let new := mine.drop (mine.length - 1)
    let b := mxBlock fmt mode (old.map (fun v => (v, 0)) ++ new)
    if b.1 = x ∨ old.all Val.isZero then (b.1, t, b.2.1.drop (t % 32))
    else
      let from_ := [fmt, mode, x] ++ codes ++ new.flatMap fun v => v.2 :: valCode v.1
      ((Config.vRescale from_ 0).toNat, t / 32 * 32,
        (List.range (t % 32 + 1)).map fun i => (Config.vRescale from_ (i + 1)).toNat % 2 ^ fmtBits fmt)

/-- The spans of the block of V that a token joins, of which an earlier command has written part: its codes and its scales. -/
def vBlockSpans (key fmt d t : Nat) (whole : Bool) : List (Nat × Nat) :=
  if isMx fmt && !whole then
    [(key + 0x10000 + t / 32 * 32 * d * fmtBits fmt / 8, 32 * d * fmtBits fmt / 8), (key + 0x1C000 + t / 32 * d, d)]
  else []

/-- A token's V goes to its place in a page. -/
def putV (s : State) (key fmt d t mode : Nat) (whole : Bool) (acc : List (List (Val × Nat))) (o : Overlay) : Overlay :=
  (List.range d).foldl (fun m j =>
    let mine := acc.map fun row => row.getD j (Val.zero, 0)
    if isMx fmt then
      let c := vColumn s (key + 0x10000) fmt d t j mode whole mine
      let o1 := c.2.2.zipIdx.foldl (fun a e =>
        let u := c.2.1 + e.2
        putCode s a (key + 0x10000) (fmtBits fmt) (u / 32 * 32 * d + 32 * j + u % 32) e.1) m
      mput o1 (key + 0x1C000 + t / 32 * d + j) (BitVec.ofNat 8 c.1)
    else
      let v := (mine.getLastD (Val.zero, 0))
      putCode s m (key + 0x10000) (fmtBits fmt) (t / 32 * 32 * d + 32 * j + t % 32) (roundScalar fmt mode v.2 v.1).1) o

/-- The V element index of a token whose format is no MX format is that of R247 too. The overflow slot holds one token's
K, and at 0x400 its V; scale bytes stand 0x200 after the elements (R250; log 28). -/
def putOverflow (c : Couch) (key mode : Nat) (k v : List (Val × Nat)) : Couch :=
  let one (o : Overlay) (at_ fmt : Nat) (x : List (Val × Nat)) (cross : Bool) : Overlay :=
    let cs := if cross ∧ isMx fmt then
        let bs := x.map fun e => mxBlock fmt mode [e]
        (bs.map fun b => b.1, bs.flatMap fun b => b.2.1)
      else rowCodes fmt mode x
    putRow c.s o at_ (at_ + 0x200) fmt 0 0 cs
  c.store (one (one [] key c.q.kf k false) (key + 0x400) c.q.vf v true)

/-- What a token takes of an overflow slot at a key (R250; log 28): K with its scales, V with its scales. -/
def ovfSpans (q : SeqRec) (key : Nat) : List (Nat × Nat) :=
  let dk := if isMx q.kf then ceilDiv q.d 32 * 32 else q.d
  [(key, ceilDiv (dk * fmtBits q.kf) 8), (key + 0x400, ceilDiv (q.d * fmtBits q.vf) 8)] ++
    (if isMx q.kf then [(key + 0x200, dk / 32)] else []) ++ if isMx q.vf then [(key + 0x600, q.d)] else []

/-- The overflow token moves into token 0 of a new last page (R258). -/
def moveOverflow (w : Who) (addr : Nat) (c : Couch) : Couch :=
  let src := keyOf c.s w c.q.ovfAddr
  let dst := keyOf c.s w addr
  let d := c.q.d
  let dk := if isMx c.q.kf then ceilDiv d 32 * 32 else d
  let kc := (List.range dk).map fun i => if i < d then codeAt c.s src (fmtBits c.q.kf) i else 0
  let ks := if isMx c.q.kf then (List.range (dk / 32)).map fun i => (viewByte c.s (src + 0x200 + i)).toNat else []
  let o1 := putRow c.s [] dst (dst + 0xC000) c.q.kf 0 0 (ks, kc)
  let o2 := (List.range d).foldl (fun m j => putCode c.s m (dst + 0x10000) (fmtBits c.q.vf) (32 * j)
    (codeAt c.s (src + 0x400) (fmtBits c.q.vf) j)) o1
  let o3 := if isMx c.q.vf then
      (List.range d).foldl (fun m j => mput m (dst + 0x1C000 + j) (viewByte c.s (src + 0x600 + j))) o2
    else o2
  c.store o3

/-- The restore step (R258). -/
def restoreSeq (w : Who) (c : Couch) : Couch :=
  if !c.q.ovf then c
  else if tableFull w c then { c with err := c.err.or (some c.q.length) }
  else
    let n := newSlot w c
    match n.2 with
    | none => n.1
    | some a =>
      let c0 := n.1.reads (ovfSpans n.1.q (keyOf n.1.s w n.1.q.ovfAddr))
      if c0.stop.isSome then c0 else
      let c1 := appendPage w a 1 (moveOverflow w a c0)
      refillNext w { c1 with q := { c1.q with length := c1.q.length + 1, ovf := false, stalled := false }, whole := false }

/-- A COUCH goes no further: it has met a position out of range, or a unit that it cannot read. -/
def Couch.ended (c : Couch) : Bool := c.err.isSome || c.stop.isSome

/-- A token goes to the stream's last page, which has room (R256). -/
def putToken (w : Who) (r : CmdRec) (k v : List (Val × Nat)) (c0 : Couch) : Couch :=
  let at_ := c0.q.entry c0.s w (c0.q.count - 1)
  let p := readPage c0.s at_
  let t := p.fill
  let acc := (if t % 32 = 0 then [] else c0.acc) ++ [v]
  let whole := c0.whole || t % 32 == 0
  let key := keyOf c0.s w p.addr
  let c1 := c0.reads (vBlockSpans key p.vf c0.q.d t whole)
  if c1.stop.isSome then c1
  else
    let o1 := putK c1.s key p.kf c1.q.d t r.rmode k []
    let o2 := putV c1.s key p.vf c1.q.d t r.rmode whole acc o1
    let c2 := { c1 with acc := acc, whole := whole }.store o2
    let c3 := c2.storeAt p.key (pageImage c1.q p.addr p.pos (t + 1) p.kf p.vf)
    refillNext w { c3 with s := c3.s.count (pnDieCtlOf w.core) 0 1, q := { c3.q with length := c3.q.length + 1 } }

/-- A token goes to the stream's overflow slot, with PAGE_EXHAUSTED (R257). -/
def putExhausted (w : Who) (r : CmdRec) (k v : List (Val × Nat)) (c1 : Couch) : Couch :=
  let c2 := putOverflow c1 (keyOf c1.s w c1.q.ovfAddr) r.rmode k v
  let s3 := ((c2.s.count (pnDieCtlOf w.core) 0 1).count (pnDieCtlOf w.core) 3 1)
  let s4 := raiseTrap s3 (pnDieCtlOf w.core)
    { code := trapPageExhausted, level := 1, part := some w.part, ctx := some w.ctx, cmdId := r.cmdId, detail := c2.q.id }
  { c2 with s := s4, q := { c2.q with ovf := true }, exhausted := true }

/-- One token (R256). -/
def couchToken (w : Who) (r : CmdRec) (k v : List (Val × Nat)) (c0 : Couch) : Couch :=
  if c0.ended then c0
  else
    let ca := if c0.q.stalled || c0.q.ovf then restoreSeq w c0 else c0
    if ca.ended then ca
    else if ca.q.ovf then { ca with s := ca.s.count (pnDieCtlOf w.core) 4 1, exhausted := true }
    else if 16777215 < ca.q.length then { ca with err := some ca.q.length }
    else
      let c := if ca.q.count = 0 then ca else ca.reads [(ca.q.entry ca.s w (ca.q.count - 1), 32)]
      if c.stop.isSome then c
      else
        let lastFill := (readPage c.s (c.q.entry c.s w (c.q.count - 1))).fill
        if c.q.count = 0 ∨ lastFill = 128 then
          if tableFull w c then { c with err := some c.q.length }
          else
            let n := newSlot w c
            match n.2 with
            | some a =>
              let c1 := appendPage w a 0 n.1
              if c1.ended then c1 else putToken w r k v c1
            | none => if n.1.ended then n.1 else putExhausted w r k v n.1
        else putToken w r k v c

/-! ### Sequence lists (R255) -/

/-- An entry of a sequence list. -/
structure SeqEntry where
  addr  : Nat
  first : Nat
  count : Nat

def listEntries (ws : List Word) : List SeqEntry :=
  (List.range (bits (wordAt ws 0) 7 0)).map fun k =>
    let w := wordAt (ws.drop (4 * (k + 1)))
    { addr := w 0 + 2 ^ 32 * bits (w 1) 15 0, first := bits (w 2) 6 0, count := bits (w 2) 15 8 }
def listGroup (ws : List Word) : Nat := bits (wordAt ws 0) 11 8
def listMembers (ws : List Word) : List Nat :=
  (List.range (listGroup ws)).map fun g => bits (wordAt ws (2 + g / 4)) (8 * (g % 4) + 7) (8 * (g % 4))

/-- A list's reserved bits, and fields outside their range. -/
def listBad (ws : List Word) (lo : Nat) : Bool :=
  bits (wordAt ws 0) 31 12 != 0 || wordAt ws 1 != 0 ||
    (List.range (bits (wordAt ws 0) 7 0)).any fun k =>
      let w := wordAt (ws.drop (4 * (k + 1)))
      bits (w 1) 31 16 != 0 || (w 2).testBit 7 || bits (w 2) 31 16 != 0 || w 3 != 0 ||
        decide (bits (w 2) 15 8 < lo) || decide (128 < bits (w 2) 15 8)

/-- Row ranges meet or leave the rows, or a record is named twice (R255). -/
def listClash (es : List SeqEntry) (rows : Nat) : Bool :=
  let rs := es.flatMap fun e => List.range' e.first e.count
  !rs.Nodup || rs.any (fun x => decide (rows ≤ x)) || !(es.map SeqEntry.addr).Nodup

/-- A sequence list is read under key `k` and checked against `rows`. -/
def fetchList (s : State) (w : Who) (k ptr lo rows : Nat) (ds : List (Nat × List Word)) : Fetch :=
  if ptr = 0 then .refuse 0x03 0
  else (fetchAt s w [] k ptr 16 64).bind fun head =>
    let n := bits (wordAt (head.headD (0, [])).2 0) 7 0
    if n = 0 ∨ 128 < n then .refuse 0x01 ptr
    else (fetchAt s w ds k ptr (16 * (n + 1)) 64).bind fun ds1 =>
      let ws := (ds1.getLastD (0, [])).2
      let es := listEntries ws
      if listBad ws lo then .refuse 0x01 ptr
      else if listClash es rows then .refuse 0x04 ptr
      else match es.findSome? fun e => if seqPlaceBad s w e.addr then none else badUnit s (keyOf s w e.addr) 64 with
        | some u => .bad u ((es.filter fun e => !(seqPlaceBad s w e.addr)).map fun e => (keyOf s w e.addr, 64))
        | none => firstReason (es.map fun e => (checkSeq s w e.addr, ptr)) ds1

/-! ### COUCH -/

def couchReasons (s : State) (w : Who) (r : CmdRec) : List (Nat × Nat) :=
  let t (k : Nat) : Tensor := (r.tensor? k).getD (tensorOf [])
  [(checkPresent r 4, 0), (checkPresent r 5, 0)] ++ [4, 5].map fun k =>
    (if 0x09 < (t k).fmt then 0x02
     else if tierOf (t k).base = 4 ∨ !(spansGranted s w false (t k).spans) then 0x03 else 0, r.w k)

/-- The check of a COUCH (R255): new K and new V have the head dimension of every record. -/
def fetchCouch (s : State) (w : Who) (r : CmdRec) : Fetch :=
  (fetchDescs s w r [4, 5]).bind fun ds =>
    (firstReason (couchReasons s w (r.withDescs ds)) ds).bind fun ds =>
      let k := ((r.withDescs ds).tensor? 4).getD (tensorOf [])
      let v := ((r.withDescs ds).tensor? 5).getD (tensorOf [])
      (fetchList s w 6 (r.w 6) 0 (min k.rows v.rows) ds).bind fun ds1 =>
        let es := listEntries ((r.withDescs ds1).words? 6)
        if es.any fun e => let d := (readSeq s (keyOf s w e.addr)).d; k.e0 != d || v.e0 != d then .refuse 0x04 (r.w 6)
        else .ok ds1

/-- The controller that serves a core, as OWNER numbers it (R250). -/
def ownerOf (g : Nat) : Nat := 2 * (g / 40) + (g % 40) / 20

/-- A record belongs to another die controller (R252). -/
def notMine (s : State) (w : Who) (es : List SeqEntry) : Bool :=
  es.any fun e => let q := readSeq s (keyOf s w e.addr); q.owned && q.owner != ownerOf w.core

/-- The last page of a stream that takes rows names a format that R248 does not allow (log 26). -/
def lastPageBad (s : State) (w : Who) (es : List SeqEntry) : Bool :=
  es.any fun e =>
    let q := readSeq s (keyOf s w e.addr)
    let p := readPage s (q.entry s w (q.count - 1))
    decide (0 < e.count) && decide (0 < q.count) && (!pageFmtOk p.kf q.d || !pageFmtOk p.vf q.d)

/-- Rows of a tensor with the draws of its elements, each its value (R54, R65). -/
def rowsWithDraws (s : State) (w : Who) (mode : Nat) (t : Tensor) : List (List (Val × Nat)) :=
  let rc := roundCtx s w mode 0 t.id
  (readMat s (planesOf s w t)).vals.zipIdx.map fun row => row.1.zipIdx.map fun v =>
    (v.1.mul (tensorScale t), if mode = rmSr then srDraw rc (row.2 * t.e0 + v.2) else 0)

/-- What a COUCH has come to over its list's entries: the state, PAGE_EXHAUSTED met, a position out of range, a unit that could
not be read, one that could not be written, and the bytes put into pages. -/
structure CouchRun where
  s         : State
  exhausted : Bool := false
  err       : Option Nat := none
  stop      : Option Nat := none
  bad       : Option Nat := none
  bytes     : Nat := 0

/-- COUCH runs: entries in list order, rows in row order (R256). A unit that cannot be read ends it; the tokens before stand
(R202, R410). -/
def runCouch (s : State) (g : Nat) (r : CmdRec) : State :=
  let w := whoOf s g r.ctx
  let k := (r.tensor? 4).getD (tensorOf [])
  let v := (r.tensor? 5).getD (tensorOf [])
  let ks := rowsWithDraws s w r.rmode k
  let vs := rowsWithDraws s w r.rmode v
  let es := listEntries (r.words? 6)
  let out := es.foldl (fun (acc : CouchRun) e =>
    if acc.stop.isSome then acc
    else
      let c0 : Couch := { s := acc.s, q := readSeq acc.s (keyOf s w e.addr), tag := ctxTag w.part w.ctx }
      let c1 := if e.count = 0 then restoreSeq w c0
        else (List.range' e.first e.count).foldl (fun c i => couchToken w r (ks.getD i []) (vs.getD i []) c) c0
      let c2 := c1.storeAt c1.q.key (c1.q.image (ownerOf g))
      { s := c2.s, exhausted := acc.exhausted || c2.exhausted, err := acc.err.or c2.err, stop := c2.stop, bad := acc.bad.or c2.bad,
        bytes := acc.bytes + c2.bytes }) { s := s }
  match out.err with
  | some p => failCmd (popQueue out.s g .mq) g (some .mq) r stPosition trapPosition p
  | none =>
    let unit_ := out.stop.or out.bad
    let s1 := match unit_ with
      | some u => raiseBad out.s w.part (some r.ctx) r.cmdId u
      | none => out.s
    let st := if unit_.isSome then stUncorrectable else if out.exhausted then stPageExhausted else 0
    commitRun g .mq r w { s := s1, tiles := ceilDiv out.bytes 65536, status := st } (s.core g).aclk 0

/-- COUCH (R256): the front command of the core's movement queue issues. -/
def execCouch (core : Nat) (s : State) : Out :=
  .next (match frontOf s core .mq opCouch with
    | none => s
    | some r =>
      let w := whoOf s core r.ctx
      let ts := [4, 5].filterMap r.tensor?
      let es := listEntries (r.words? 6)
      let spans := ts.flatMap (keySpans s w) ++ es.map fun e => (keyOf s w e.addr, 64)
      withDeps s core .mq r (if landingMeets s core (ts.flatMap stageSpans) then s
        else match badInSpans s spans with
        | some u => failBad s core .mq r u spans
        | none => if notMine s w es then refuseFront s core .mq r 0x03
          else if lastPageBad s w es then refuseFront s core .mq r 0x02 else runCouch (readSpans s false spans) core r))

/-! ### ATTN_DECODE (R262–R268) -/

/-- This core's number in a decode group. -/
def memberOf (ws : List Word) (g : Nat) : Option Nat :=
  let m := (listMembers ws).findIdx fun c => c == g
  if m < (listMembers ws).length then some m else none

def decodeReasons (s : State) (w : Who) (r : CmdRec) : List (Nat × Nat) :=
  let t (k : Nat) : Tensor := (r.tensor? k).getD (tensorOf [])
  let q := t 4
  let ws := r.words? 5
  let ms := listMembers ws
  let lead := ms.headD 0 == w.core
  let d := q.e0
  [(refuseIf r.xcOut 0x01, 0), (refuseIf (r.shape == 2) 0x05, 0), (refuseIf (r.accBegin != 0 || r.accEnd != 0) 0x06, 0),
   (refuseIf (scaleBad (r.w 14)) 0x01, 0), (refuseIf (listGroup ws == 0 || decide (8 < listGroup ws)) 0x01, r.w 5),
   (refuseIf ((memberOf ws w.core).isNone || ms.any (fun c => decide (160 ≤ c) || ownerOf c != ownerOf w.core) ||
      (lead && (r.w 6 == 0 || r.w 7 == 0)) || (!lead && (r.w 6 != 0 || r.w 7 != 0))) 0x04, r.w 5),
   (checkArrayOperand s w q, r.w 4), (refuseIf (isMx q.fmt && q.axis != 0) 0x02, r.w 4),
   (refuseIf (decide ((if r.shape = 0 then 255 else 128) < d) || decide (128 < q.rows)) 0x04, r.w 4),
   (refuseIf (rotTooWide s w.core d) 0x04, r.w 4),
   (refuseIf ((listEntries ws).any fun e => (readSeq s (keyOf s w e.addr)).d != d) 0x04, r.w 5)] ++
  (if lead then
    [(refuseIf ((t 6).e0 != d || (t 6).rows != q.rows) 0x04, r.w 6), (checkOutput s w true false 0 (t 6), r.w 6),
     (checkSr r (t 6), r.w 6), (refuseIf (!(r.w 7).testBit 31) 0x03, r.w 7), (checkPtr s w (r.w 7) (1024 * listGroup ws) 64, r.w 7)]
   else [])

/-- A deckle list of a decode: the header alone, or one deckle of tile (0, 0) of kind FULL, SLIDING or PREFIX (R265). -/
def decodeDeckles (dk : List Deckle) : Bool :=
  decide (dk.length ≤ 1) && dk.all fun x => x.qt == 0 && x.kt == 0 && (x.kind == 0 || x.kind == 4 || x.kind == 5)

/-- The deckle list of a decode is read and checked (R234, R265). -/
def fetchDecodeDeckles (s : State) (w : Who) (ptr : Nat) (ds : List (Nat × List Word)) : Fetch :=
  if ptr = 0 then .ok ds
  else (fetchAt s w [] 9 ptr 16 64).bind fun head =>
    let hw := (head.headD (0, [])).2
    let count := bits (wordAt hw 1) 23 0
    if headerBad hw ∨ 1 < count then .refuse 0x01 ptr
    else (fetchAt s w ds 9 ptr (16 * (count + 1)) 64).bind fun ds1 =>
      let ws := (ds1.getLastD (0, [])).2
      let dk := decklesOf ws
      if !decodeDeckles dk ∨ dk.any fun d => deckleBad (ws.drop 4) d then .refuse 0x01 ptr
      else if dk.any fun d => d.kind == 4 && (d.p0 == 0 || decide (2 ^ 24 < d.p0)) then .refuse 0x04 ptr
      else .ok ds1

/-- The check of an ATTN_DECODE (R262, R265). -/
def fetchAttnDecode (s : State) (w : Who) (r : CmdRec) : Fetch :=
  if r.w 4 = 0 then .refuse 0x03 0
  else (fetchDescs s w r [4, 6]).bind fun ds =>
    let q := ((r.withDescs ds).tensor? 4).getD (tensorOf [])
    (fetchList s w 5 (r.w 5) 1 q.rows ds).bind fun ds =>
      (firstReason (decodeReasons s w (r.withDescs ds)) ds).bind fun ds =>
        fetchDecodeDeckles s w (r.w 9) ds

/-- The reason that refuses a walked descriptor, or 0: a format by R248, the rest by R263 (log 26). -/
def pageReason (s : State) (w : Who) (q : SeqRec) (p : PageDesc) : Nat :=
  if !pageFmtOk p.kf q.d || !pageFmtOk p.vf q.d then 0x02
  else refuseIf (!p.valid || p.addr % 131072 != 0 || !([1, 3].contains (tierOf p.addr)) || p.pos != 128 * p.no ||
    !(granted s w false p.addr 131072)) 0x03

/-- The key planes of a page as matrices of its tokens (R247). -/
def pageK (s : State) (key d : Nat) (p : PageDesc) : Mat :=
  let dk := if isMx p.kf then ceilDiv d 32 * 32 else d
  let ts := List.range p.fill
  let js := List.range d
  let code (t j : Nat) := codeAt s key (fmtBits p.kf) (t * dk + j)
  let sc (t j : Nat) : Nat := if isMx p.kf then (viewByte s (key + 0xC000 + (t * dk + j) / 32)).toNat else 127
  { fmt := p.kf, axis := 0, vals := ts.map fun t => js.map fun j => decodeIn p.kf (code t j) (sc t j),
    raw := ts.map fun t => js.map fun j => decodeElem p.kf (code t j), sc := ts.map fun t => js.map fun j => sc t j,
    neg := ts.map fun t => js.map fun j => (code t j).testBit (fmtBits p.kf - 1) }

def pageV (s : State) (key d : Nat) (p : PageDesc) : Mat :=
  let ts := List.range p.fill
  let js := List.range d
  let code (t j : Nat) := codeAt s (key + 0x10000) (fmtBits p.vf) (t / 32 * 32 * d + 32 * j + t % 32)
  let sc (t j : Nat) : Nat := if isMx p.vf then (viewByte s (key + 0x1C000 + t / 32 * d + j)).toNat else 127
  { fmt := p.vf, axis := 1, vals := ts.map fun t => js.map fun j => decodeIn p.vf (code t j) (sc t j),
    raw := ts.map fun t => js.map fun j => decodeElem p.vf (code t j), sc := ts.map fun t => js.map fun j => sc t j,
    neg := ts.map fun t => js.map fun j => (code t j).testBit (fmtBits p.vf - 1) }

/-- The overflow token as a page of one token. -/
def ovfMats (s : State) (key : Nat) (q : SeqRec) : Mat × Mat :=
  let one (at_ f axis : Nat) (cross : Bool) : Mat :=
    let code (j : Nat) := codeAt s at_ (fmtBits f) j
    let sc (j : Nat) : Nat := if isMx f then (viewByte s (at_ + 0x200 + if cross then j else j / 32)).toNat else 127
    { fmt := f, axis := axis, vals := [(List.range q.d).map fun j => decodeIn f (code j) (sc j)],
      raw := [(List.range q.d).map fun j => decodeElem f (code j)], sc := [(List.range q.d).map sc],
      neg := [(List.range q.d).map fun j => (code j).testBit (fmtBits f - 1)] }
  (one key q.kf 0 false, one (key + 0x400) q.vf 1 true)

/-- A stretch of a stream's keys that one page, or the overflow slot, holds: its address, the position of its first token,
and its two matrices. -/
structure KeyRun where
  addr : Nat
  pos  : Nat
  km   : Mat
  vm   : Mat

/-- The loads of a member for a stream: contiguous runs of the loads of two or four pages, the longer runs to the lower
members (R264). -/
def dealOf (n members m : Nat) : Nat × Nat := (m * (n / members) + min m (n % members), n / members + if m < n % members then 1 else 0)

/-- The pages of a stream that member `m` holds, load by load. -/
def memberLoads (shape members m : Nat) (pages : List PageDesc) : List (List PageDesc) :=
  let per := 2 * foldOf shape
  let loads := (rangesOf pages.length per).map fun ix => ix.filterMap fun i => pages[i]?
  let d := dealOf loads.length members m
  (loads.drop d.1).take d.2

/-- The member that takes the overflow token: the one that holds the last page (R264), the lead where there is none. -/
def lastMember (shape members n : Nat) : Nat := min members (ceilDiv n (2 * foldOf shape)) - 1

/-- One stream's part in a decode member (R264–R266): its keys in rounds, its rows with their partials, the pass requests
of each round's S and PV groups with its sweeps, rescaled slots, NaNs, and the summary bits of its scores. -/
structure StreamPart where
  rows   : List RowPartial
  groups : List (List PassReq × List PassReq × Nat)
  lost   : Nat
  sNans  : List NanAt
  pNans  : List NanAt
  seen   : Nat := 0

/-- A row of a round with pages of several value formats: each key's P in the probability format of its page. -/
def decodeRound (fmts : List Nat) (c : Val) (m : Int) (ts : List (Nat × Option Val)) : RowRound :=
  let a := rowRound fmtE4m3 c m ts
  let b := rowRound fmtBf16 c m ts
  if fmts.all fun f => f == fmtE4m3 then a
  else if fmts.all fun f => f == fmtBf16 then b
  else { a with ps := (a.ps.zip b.ps).map fun e => if fmts.getD e.1.1 0 = fmtE4m3 then e.1 else e.2,
                raw := ((a.raw.zip b.raw).zip fmts).map fun e => if e.2 = fmtE4m3 then e.1.1 else e.1.2 }

/-- The name of a load of pages: the first page, the second, and how it is read (R90; log 103). -/
def runLoad (l : List KeyRun) (fmts : List Nat) (form shape : Nat) : LoadId :=
  { base := (l.map KeyRun.addr).headD 0, sbase := ((l.drop 1).map KeyRun.addr).headD 0, fmt := fmts.headD 0, form := form, shape := shape,
    n0 := 0, cols := 0, sets := [] }

/-- The score matrices of a stream on a member, and its partials. `qm` is Q at the stream's position `qpos`; `before` rounds of
other streams run before it. -/
def streamPart (r : CmdRec) (q : Tensor) (qm : Mat) (rot : Option RotTable) (deckle : Deckle) (first count qpos before : Nat)
    (loads : List (List KeyRun)) : StreamPart :=
  let d := q.e0
  let c := decodeFp32 (r.w 14)
  let rows := List.range' first count
  let per := if r.shape = 0 then 8 else 4
  let rounds := (rangesOf loads.length per).map fun ix => ix.flatMap fun i => (loads[i]?).toList
  let dq := digitCount q.fmt
  let qb := alongRows qm 0
  let kb := 256 * foldOf r.shape
  let go (acc : List Int × Edge × StreamPart) (round : List (List KeyRun)) : List Int × Edge × StreamPart :=
    let runs := round.flatten
    let keyed (x : KeyRun) : Mat := attnMat { tensorOf [] with fmt := x.km.fmt, e0 := d, e1 := x.km.vals.length, e2 := 1, e3 := 1 }
      rot (fun i => x.pos + i) x.km
    let kms := runs.map keyed
    let kvals := kms.flatMap Mat.vals
    let poss := runs.flatMap fun x => (List.range x.km.vals.length).map fun i => x.pos + i
    let fmts := runs.flatMap fun x => x.vm.vals.map fun _ => probFmt { tensorOf [] with fmt := x.vm.fmt }
    let vmat : Mat := { fmt := 0, axis := 1, vals := runs.flatMap fun x => x.vm.vals, raw := [], sc := [], neg := [] }
    let lives (ks row : List Nat) : List Nat := row.filter fun i => ks.any fun k => deckle.allows r i k qpos (poss.getD k 0)
    let round_ := before + acc.2.2.groups.length
    let mb := kms.flatMap fun m => alongRows m 0
    let split := (kms.map Mat.fmt).headD 0 == fmtFp32
    let rr := rows.zipIdx.map fun row =>
      let ts := kvals.zipIdx.map fun k =>
        (k.2, if deckle.allows r row.1 k.2 qpos (poss.getD k.2 0) then
          some (scoreOf (tensorScale q) (qm.vals.getD row.1 []) k.1) else none)
      (decodeRound fmts c (acc.1.getD row.2 maxEmpty) (ts.map fun e => (e.1, e.2.map Score.v))).scored ts fun key p =>
        { cycle := groupS round_ + key / kb * 2 ^ 20 + row.2 * max dq (foldOf r.shape) + key % 256 + key % kb / 256, row := first,
          col := key - key % kb, out := key,
          block := loadBlock (alongLoads r.shape d split ((List.range kvals.length).filter fun k => k / kb == key / kb)
            fun n => mb.getD n []) (p / 32) }
    let dep := (rr.zip rows).foldl (fun (a : Edge × Nat × List NanAt) x =>
      let z := depositPv r d vmat x.2 x.1 (groupPv round_ + (x.2 - first) * (fmts.map digitCount).foldl max 1) (· / 256) a.1
      (z.1, a.2.1 + z.2.1, a.2.2 ++ z.2.2.map fun n => { n with row := first })) (acc.2.1, 0, [])
    let sReq := (round.zipIdx.map fun l =>
      let ms := l.1.map keyed
      let kbs := ms.flatMap fun m => alongRows m 0
      let k0 := ((round.take l.2).flatten.map fun x => x.km.vals.length).sum
      let fed := lives (List.range' k0 kbs.length) rows
      let at_ := ms.flatMap fun m => (List.range m.vals.length).map fun i => (m, i)
      stagedBy true (inSlab q) (crossBy (ms.any fun m => crossAxis m 0)
        (alongPasses (runLoad l.1 (ms.map Mat.fmt) 1 r.shape) dq d ((ms.map Mat.fmt).headD 0 == fmtFp32) (List.range kbs.length)
          (fun n => kbs.getD n [])
          (fun p n => if p < d then (at_[n]?).map fun e => e.1.elem (crossAxis e.1 0) e.2 p else none)
          (rows.length - fed.length) (fed.map fun i => qb.getD i [])
          fun i n => !(deckle.allows r (fed.getD i 0) (k0 + n) qpos (poss.getD (k0 + n) 0))))).flatten
    let pvReq := (rangesOf runs.length 2).flatMap fun ix =>
      let xs := ix.filterMap fun i => runs[i]?
      let k0 := ((runs.take (ix.headD 0)).map fun x => x.vm.vals.length).sum
      let n := (xs.map fun x => x.vm.vals.length).sum
      let fed := lives (List.range' k0 n) rows
      let at_ := xs.flatMap fun x => (List.range x.vm.vals.length).map fun i => (x.vm, i)
      let banks : List BankRow := ((List.range d).map fun j =>
          { bank := j, bands := xs.flatMap fun x => alongCol x.vm j,
            elem := fun i => (at_[i]?).elim { v := .fin 0 0, neg := false, floor := -126 } fun e => e.1.elem (crossAxis e.1 1) e.2 j }) ++
        [{ bank := 255, bands := (blocks32 (List.replicate n (Val.fin 1 0))).map fun b => blockBands fmtFp32 127 b,
           elem := fun _ => { v := .fin 1 0, neg := false, floor := -126 } }]
      let fp := fmts.getD k0 fmtBf16
      let pr := fed.map fun i =>
        let z := ((rr[i - first]?).elim [] fun x => (x.raw.drop k0).take n)
        vecBands fp false (z.map Prod.fst) (z.map fun e => e.2.1) (z.map fun e => e.2.2)
      stagedBy true false (crossBy (xs.any fun x => crossAxis x.vm 1)
        (crossPasses (runLoad xs (xs.map fun x => x.vm.fmt) 2 0) 8 256 n (digitCount fp)
          ((xs.map fun x => x.vm.fmt).headD 0 == fmtFp32) banks (rows.length - fed.length) pr))
    let sw := count * ceilDiv kvals.length 256 * 3
    (rr.map RowRound.m, dep.1,
      { acc.2.2 with groups := acc.2.2.groups ++ [(sReq, pvReq, sw)], lost := acc.2.2.lost + dep.2.1,
                     sNans := acc.2.2.sNans ++ rr.flatMap RowRound.nans, pNans := acc.2.2.pNans ++ dep.2.2,
                     seen := Nat.lor acc.2.2.seen (seenOf [rr]) })
  let out := rounds.foldl go (rows.map fun _ => maxEmpty, {}, { rows := [], groups := [], lost := 0, sNans := [], pNans := [] })
  { out.2.2 with rows := rows.zipIdx.map fun row =>
      { row := row.1, m := (out.1[row.2]?).bind fun m => if m = maxEmpty then none else some m,
        slots := (List.range d ++ [255]).map fun b => (out.2.1.slot? (attnKey r row.1 b)).getD {} } }

/-- What a member's walk of its list gives: a refusal, a status with its trap, an uncorrectable unit, or the streams fed
(entry, record, loads of this member's pages, overflow token here) with the spans to read. -/
inductive Walk where
  | refuse (reason : Nat)
  | fails (status code detail : Nat)
  | bad (unit : Nat) (spans : List (Nat × Nat))
  | ok (streams : List (SeqEntry × SeqRec × List (List PageDesc) × Bool)) (spans : List (Nat × Nat)) (stalled : Bool)

/-- The planes of a page that a decode reads. -/
def pageSpans (key d : Nat) (p : PageDesc) : List (Nat × Nat) :=
  let dk := if isMx p.kf then ceilDiv d 32 * 32 else d
  let k := (key, ceilDiv (p.fill * dk * fmtBits p.kf) 8)
  let v := (key + 0x10000, ceilDiv (ceilDiv p.fill 32 * 32 * d * fmtBits p.vf) 8)
  [k, v] ++ (if isMx p.kf then [(key + 0xC000, p.fill * dk / 32)] else []) ++
    (if isMx p.vf then [(key + 0x1C000, ceilDiv p.fill 32 * d)] else [])

/-- The controller walks the tables of a command's streams (R263, R264, R228, R241). -/
def walkStreams (s : State) (w : Who) (r : CmdRec) (m : Nat) : Walk :=
  let ws := r.words? 5
  let es := (listEntries ws).map fun e => (e, readSeq s (keyOf s w e.addr))
  let group := listGroup ws
  let usesPos := (rotOf s w.core).isSome || decklesUsePos (decklesOf (r.words? 9))
  let heads := es.flatMap fun e => (e.2.key, 64) :: (List.range e.2.count).map fun i => (e.2.entry s w i, 32)
  match badInSpans s heads with
  | some u => .bad u heads
  | none =>
    let why := (es.flatMap fun e => (pagesOf s w e.2).map (pageReason s w e.2)).find? fun n => n != 0
    if notMine s w (es.map Prod.fst) ∨ es.any (fun e => decide (e.2.cap < e.2.count)) then .refuse 0x03
    else if why.isSome then .refuse (why.getD 0)
    else
      let fed := (es.filter fun e => !e.2.stalled).map fun e => (e.1, e.2, pagesOf s w e.2)
      let newest (q : SeqRec) : Nat := if q.ovf then q.length else q.length - 1
      match (es.flatMap fun e => pagesOf s w e.2).findSome? fun p => belowFloor s w.part p.kf with
      | some dt => .fails stFormatFloor trapFormatFloor dt
      | none =>
        match (fed.find? fun e => usesPos && decide (16777215 < newest e.2.1)) with
        | some e => .fails stPosition trapPosition (newest e.2.1)
        | none =>
          let mine := fed.map fun e => (e.1, e.2.1, memberLoads r.shape group m e.2.2, e.2.1.ovf && m == lastMember r.shape group e.2.2.length)
          let spans := mine.flatMap fun e => (e.2.2.1.flatten.flatMap fun p => pageSpans (keyOf s w p.addr) e.2.1.d p) ++
            if e.2.2.2 then ovfSpans e.2.1 (keyOf s w e.2.1.ovfAddr) else []
          .ok mine (heads ++ spans) (es.any fun e => e.2.stalled)

/-- What a member has computed (R266): the state with the passes and counters, the rows' partials, the last cycle, whether a
deposit set a NaN, and the summary bits of its scores. -/
structure MemberPart where
  s    : State
  rows : List RowPartial
  last : Nat
  nan  : Bool
  seen : Nat

/-- The rows of a partial stand in the side edge's slots (R124, R266). -/
def holdRows (r : CmdRec) (d : Nat) (rows : List RowPartial) (e : Edge) : Edge :=
  rows.foldl (fun (e : Edge) (p : RowPartial) =>
    ((List.range d ++ [255]).zip p.slots).foldl (fun (a : Edge) (x : Nat × Slot) => a.setSlot (attnKey r p.row x.1) x.2) e) e

/-- The keys of those slots. -/
def rowKeys (r : CmdRec) (d : Nat) (rows : List RowPartial) : List Nat :=
  rows.flatMap fun p => (List.range d ++ [255]).map fun b => attnKey r p.row b

/-- The overflow token as a last run of a member's loads: it joins the last load, or makes one of its own where that load is
full (R264). -/
def withOverflow (shape : Nat) (loads : List (List KeyRun)) (x : KeyRun) : List (List KeyRun) :=
  match loads.getLast? with
  | some l => if l.length < 2 * foldOf shape then loads.dropLast ++ [l ++ [x]] else loads ++ [[x]]
  | none => [[x]]

/-- A member computes its partial (R266). -/
def memberPart (s : State) (g : Nat) (r : CmdRec) (streams : List (SeqEntry × SeqRec × List (List PageDesc) × Bool)) : MemberPart :=
  let w := whoOf s g r.ctx
  let q := (r.tensor? 4).getD (tensorOf [])
  let rot := rotOf s g
  let qm0 := readMat s (planesOf s w q)
  let dk := tileDeckle (r.words? 9) (decklesOf (r.words? 9)) 0 0
  let parts := (streams.foldl (fun (acc : List StreamPart × Nat) e =>
    let qpos := if e.2.1.ovf then e.2.1.length else e.2.1.length - 1
    let keyRun (p : PageDesc) : KeyRun :=
      { addr := p.addr, pos := p.pos, km := pageK s (keyOf s w p.addr) q.e0 p, vm := pageV s (keyOf s w p.addr) q.e0 p }
    let loads := e.2.2.1.map fun l => l.map keyRun
    let ov := ovfMats s (keyOf s w e.2.1.ovfAddr) e.2.1
    let extra : KeyRun := { addr := e.2.1.ovfAddr, pos := e.2.1.length, km := ov.1, vm := ov.2 }
    let p := streamPart r q (attnMat q rot (fun _ => qpos) qm0) rot dk e.1.first e.1.count qpos acc.2
      (if e.2.2.2 then withOverflow r.shape loads extra else loads)
    (acc.1 ++ [p], acc.2 + p.groups.length)) ([], 0)).1
  let groups := parts.flatMap StreamPart.groups
  let at_ (j : Nat) := groups.getD j ([], [], 0)
  let run := runRounds g (issueCycle s g r) r.after groups.length (fun j => (at_ j).1) (fun j => (at_ j).2.1) (fun j => (at_ j).2.2) s
  let fed := (streams.map fun e => e.2.2.1.flatten.length).sum
  let rotated := q.rows + (streams.map fun e => (e.2.2.1.flatten.map fun p => p.fill).sum + if e.2.2.2 then 1 else 0).sum
  let s1 := countRot ((run.s.count (pnDieCtlOf g) 5 fed).count (pnAccum g) 3 (parts.map StreamPart.lost).sum) g rot rotated
  let s2 := addDeposits (s1.modCore g fun k => { k with side := { k.side with depcnt := 0 } }) w r true (0, 0) run.deposits
  let sN := parts.flatMap StreamPart.sNans
  let pN := parts.flatMap StreamPart.pNans
  { s := noteNansBoth s2 w r true false pN sN, seen := parts.foldl (fun a p => Nat.lor a p.seen) 0, rows := parts.flatMap StreamPart.rows, last := run.last, nan := !sN.isEmpty || !pN.isEmpty }

/-- The largest maximum of a row among partials, none where it is EMPTY in all (R224). -/
def groupMax (ps : List RowPartial) : Option Int :=
  (ps.filterMap RowPartial.m).foldl (fun a m => some (a.elim m fun x => max x m)) none

/-- A row's slots rescaled once to the group's maximum (R139, R266). -/
def RowPartial.scaled (p : RowPartial) (top : Option Int) : List Slot :=
  match p.m, top with
  | some x, some y => if x < y then p.slots.map fun q => q.rescale (min (y - x) 1023).toNat else p.slots
  | _, _ => p.slots

/-- The slots of a list that lost bits against another list (R140). -/
def newlyLost (before after : List Slot) : Nat := ((before.zip after).filter fun e => e.2.shiftLoss && !e.1.shiftLoss).length

/-- An element as it arrives in its exact-compact form (R145, R146). -/
def Slot.received (q : Slot) : Slot :=
  match q.xc128 with
  | some v => (slotOfXc128 v).1
  | none => slotOfImage q.image

/-- What the merge of a decode group has come to: the merged rows, opposite overflows, both BIASED, and NaN deposits. -/
structure GroupMerge where
  rows    : List RowPartial
  cancels : Nat := 0
  biased  : Nat := 0
  nans    : List NanAt := []

/-- The lead merges the elements of one member's row into its own slots (R147); `cycle` is when they arrive. -/
def mergeRow (top : Option Int) (a : RowPartial) (es : List Slot) (cycle d : Nat) : RowPartial × Nat × Nat × List NanAt :=
  let ms := (a.slots.zip es).zipIdx.map fun e => (e.1.1, e.1.1.merge e.1.2.received, e.2)
  ({ a with m := top, slots := ms.map fun e => e.2.1.1 },
    (ms.filter fun e => e.2.1.2.1).length, (ms.filter fun e => e.2.1.2.2).length,
    (ms.filter fun e => !e.1.nanLike && e.2.1.1.nanLike).map fun e =>
      { cycle := cycle, row := 0, col := 0, out := if e.2.2 = d then 255 else e.2.2, block := 0xFFFFFFFF })

/-- The merge of a decode group (R224, R266): every member's slots, rescaled once by its own distance to the row's group
maximum, are merged into the lead's. -/
def mergeGroup (d : Nat) (own : List RowPartial) (others : List DecodePartial) : GroupMerge :=
  let of_ (o : DecodePartial) (row : Nat) : Option RowPartial := o.rows.find? fun x => x.row == row
  own.zipIdx.foldl (fun (acc : GroupMerge) p =>
    let theirs := others.map fun o => of_ o p.1.row
    let top := groupMax (p.1 :: theirs.filterMap id)
    let z := theirs.zipIdx.foldl (fun (a : RowPartial × Nat × Nat × List NanAt) o =>
      match o.1 with
      | none => a
      | some b =>
        let m := mergeRow top a.1 (b.scaled top) (o.2 * own.length + p.2) d
        (m.1, a.2.1 + m.2.1, a.2.2.1 + m.2.2.1, a.2.2.2 ++ m.2.2.2))
      ({ p.1 with m := top, slots := p.1.scaled top }, 0, 0, [])
    { rows := acc.rows ++ [z.1], cancels := acc.cancels + z.2.1, biased := acc.biased + z.2.2.1, nans := acc.nans ++ z.2.2.2 })
    { rows := [] }

/-- The owner of each record that a command names is set, and a stream whose overflow token was attended to is stalled
(R252, R259). -/
def noteOwner (s : State) (w : Who) (es : List SeqEntry) (stall : Bool) : State :=
  es.foldl (fun t e =>
    let q := readSeq t (keyOf t w e.addr)
    if q.owned && !(stall && q.ovf && !q.stalled) then t
    else (memStoresBy t (ctxTag w.part w.ctx) none [(q.key, { q with stalled := q.stalled || (stall && q.ovf) }.image (ownerOf w.core))]).1) s

/-- A member that fails completes with its own status and sends the failure mark (R267). -/
def markFailed (s : State) (ws : List Word) (m : Nat) : State :=
  s.modCore ((listMembers ws).headD 0) fun c =>
    { c with partials := c.partials ++ [{ listKey := ws, member := m, failed := true, rows := [], depcnt := 0 }] }

/-- A member's summary, as it has sent it to the lead. -/
def sentSeen (ps : List DecodePartial) (ws : List Word) (c : Nat) : Nat :=
  ((ps.find? fun p => p.listKey == ws && some p.member == memberOf ws c).map DecodePartial.seen).getD 0

/-- The members that have sent their partials `ps` and stand at the front of their queues free their slots and complete with
the lead. -/
def releaseMembers (s : State) (ws : List Word) (ps : List DecodePartial) (lead status : Nat) : State :=
  ((listMembers ws).filter fun c => c != lead).foldl (fun t c =>
    match frontOf t c .aq opAttnDecode with
    | none => t
    | some r => if r.words? 5 = ws then
        let d := (r.tensor? 4).elim 0 Tensor.e0
        let keys := ((ps.filter fun p => some p.member == memberOf ws c).map fun p => rowKeys r d p.rows).flatten
        commitRun c .aq r (whoOf t c r.ctx)
          { s := t.modCore c fun k => { k with side := (k.side.freeAll keys).settle }, status := status, summary := sentSeen ps ws c } (t.core c).aclk 0
      else t) s

/-- The lead has failed: the group's partials are dropped and the members that wait complete. -/
def dropGroup (s : State) (ws : List Word) (lead : Nat) : State :=
  let ps := (s.core lead).partials.filter fun p => p.listKey == ws
  releaseMembers (s.modCore lead fun c => { c with partials := c.partials.filter fun p => p.listKey != ws }) ws ps lead 0

/-- A core's part of a decode group has failed (R267): the lead's ends the group, a member's is marked at the lead. -/
def decodeFailed (s : State) (g : Nat) (ws : List Word) : State :=
  match memberOf ws g with
  | none => s
  | some 0 => dropGroup s ws g
  | some m => markFailed s ws m

/-- A member's exchange (R140, R146, R266): on its own ACCUM page the slots that its rescale made lose bits, the XCW
elements and the OVF slots it sends. -/
def countSent (s : State) (ws : List Word) (own : List RowPartial) (others : List DecodePartial) (o : DecodePartial) : State :=
  let g := (listMembers ws).getD o.member 0
  let sent := o.rows.map fun p =>
    (p, p.scaled (groupMax ((own ++ others.flatMap DecodePartial.rows).filter fun x => x.row == p.row)))
  let slots := sent.flatMap Prod.snd
  let s1 := (s.count (pnAccum g) 3 (sent.map fun e => newlyLost e.1.slots e.2).sum).count (pnAccum g) 4 (slots.filter fun q => q.exchange.2).length
  match frontOf s1 g .aq opAttnDecode with
  | none => s1
  | some r => noteOverflows s1 (whoOf s1 g r.ctx) r true false (0, 0) (sent.flatMap fun e =>
      (e.2.zipIdx.filter fun q => q.1.swept.ovf).map fun q =>
        let b := if q.2 + 1 = e.2.length then 255 else q.2; (b, attnKey r e.1.row b))

/-- The lead merges the group's partials, writes O from the merged rows and completes the group (R266, R222). -/
def leadFinish (s : State) (g : Nat) (r : CmdRec) (own : List RowPartial) (end_ seen0 : Nat) (nan stalled : Bool) : State :=
  let w := whoOf s g r.ctx
  let ws := r.words? 5
  let c := s.core g
  let others := c.partials.filter fun p => p.listKey == ws
  let s1 := s.modCore g fun c => { c with partials := c.partials.filter fun p => p.listKey != ws }
  let status := if stalled then stPageExhausted else 0
  if others.any DecodePartial.failed then
    completeFront (releaseMembers s1 ws others g status) g .aq r { status := stDepFailed }
  else
    let q := (r.tensor? 4).getD (tensorOf [])
    let d := q.e0
    let merged := mergeGroup d own others
    let scaled := own.map fun p =>
      (p, p.scaled (groupMax (p :: (others.flatMap DecodePartial.rows).filter fun x => x.row == p.row)))
    let sent := others.foldl (fun t o => countSent t ws own others o) s1
    let pn := pnAccum g
    let s2 := ((sent.count pn 3 (scaled.map fun e => newlyLost e.1.slots e.2).sum).count pn 6 merged.cancels).count pn 7 merged.biased
    let keys := rowKeys r d merged.rows
    let s3 := s2.modCore g fun k => { k with side := holdRows r d merged.rows k.side }
    let s4 := others.foldl (fun t o => addDeposits t w r true (0, 0) o.depcnt) s3
    let s5 := noteNans s4 w r true nan merged.nans
    let n := merged.rows.length
    let end2 := end_ + n * others.length + n + 1
    if !merged.nans.isEmpty && haltsAtTile s5 g then
      haltCmd g .aq r w { s := releaseMembers s5 ws others g status, touched := keys } true end2 0
    else
      let stat (m : Nat) (p : RowPartial) : Nat × List Byte :=
        (ptrKey s5 w (r.w 7) + 1024 * m + 8 * p.row, statBytes (p.m.getD maxEmpty) ((p.slots.getLast?).getD {}).value)
      let stats := own.map (stat 0) ++ others.flatMap fun o => o.rows.map (stat o.member)
      let edge := (s5.core g).side
      let normed : List (List OutElem × Nat × Bool × List (Nat × Nat)) :=
        merged.rows.map fun p => normRow r d p.row (p.m.getD maxEmpty) edge
      let s6 := noteOverflows s5 w r true false (0, 0) (normed.flatMap fun x => x.2.2.2)
      let s7 := noteOwner (s6.modCore g fun k => { k with side := k.side.freeAll keys }) w (listEntries ws) true
      let y := (r.tensor? 6).getD (tensorOf [])
      let seen : Nat := normed.foldl (fun (a : Nat) (x : List OutElem × Nat × Bool × List (Nat × Nat)) => Nat.lor a x.2.1) seen0
      let anyEmpty : Bool := normed.any fun x => x.2.2.1
      let out0 : Overlay := stats.foldl (fun o e => putBytes o e.1 e.2) []
      let base : Run := { s := s7, out := out0, summary := seen, rowEmpty := anyEmpty, tiles := 1, status := status }
      let run := base.put (planesOf s7 w y) (roundCtx s7 w r.rmode 1 y.id) (normed.flatMap Prod.fst)
      releaseMembers (commitRun g .aq r w run end2 (wbBytes (some y))) ws others g status

/-- The slots that a decode member deposits into or streams its scores through are not all FREE (R133). -/
def decodeRefused (r : CmdRec) (c : Core) : Bool :=
  slotsRefused c.side false (fwdKeys r) || slotsRefused c.bottom false (streamKeys r r.shape ((r.tensor? 4).getD (tensorOf [])).rows)

/-- A member's walk and partial at issue goes on with `f`; a failure, or a halt (R143), is taken by `k`. Q is read through the
own slab's vertical port, pages and tables through the fabric (R371, R377). -/
def decodeMember (s : State) (g m : Nat) (r : CmdRec) (k : State → State) (f : MemberPart → Bool → State) : State :=
  let w := whoOf s g r.ctx
  let q := (r.tensor? 4).getD (tensorOf [])
  match walkStreams s w r m with
  | .refuse reason => k (refuseFront s g .aq r reason)
  | .fails st code detail => k (failCmd (popQueue s g .aq) g (some .aq) r st code detail)
  | .bad u spans => k (failBad s g .aq r u spans)
  | .ok streams spans stalled =>
    let all := keySpans s w q ++ spans
    match badInSpans s all with
    | some u => k (failBad s g .aq r u all)
    | none =>
      if decodeRefused r (s.core g) then k (refuseFront s g .aq r 0x06)
      else
        let s1 := readSpans (readSpans s true (keySpans s w q)) false spans
        let p := memberPart (noteOwner s1 w (listEntries (r.words? 5)) false) g r streams
        if p.nan && haltsAtTile p.s g then k (haltCmd g .aq r w { s := p.s } true (p.last + 1) 0)
        else f p stalled

/-- A member holds its rows in its side edge, as a chain of its own, until the lead has the group's maxima (R124, R266), and
has sent what the lead needs. -/
def sendPartial (g m lead : Nat) (r : CmdRec) (p : MemberPart) : State :=
  let d := (r.tensor? 4).elim 0 Tensor.e0
  let keys := rowKeys r d p.rows
  (p.s.modCore g fun c => { c with aclk := max c.aclk p.last, side := (holdRows r d p.rows c.side).join r false keys }).modCore lead fun c =>
    { c with partials := c.partials ++ [{ listKey := r.words? 5, member := m, failed := false, rows := p.rows,
                                          depcnt := (p.s.core g).side.depcnt.toNat, seen := p.seen }] }

/-- A member's partial is taken back from its lead: its command is killed and runs again (R203). -/
def dropPartial (s : State) (g : Nat) (r : CmdRec) : State :=
  let ws := r.words? 5
  if r.opcode = opAttnDecode then
    s.modCore ((listMembers ws).headD 0) fun c =>
      { c with partials := c.partials.filter fun p => !(p.listKey == ws && some p.member == memberOf ws g) }
  else s

/-- ATTN_DECODE (R266): a member sends its partial to the lead and waits there; the lead waits for every member, merges,
and completes the group (log 29). -/
def execAttnDecode (core : Nat) (s : State) : Out :=
  .next (match frontOf s core .aq opAttnDecode with
    | none => s
    | some r => afterGather s core fun s1 =>
      let ws := r.words? 5
      let lead := (listMembers ws).headD 0
      let m := (memberOf ws core).getD 0
      let lost (t : State) : State := decodeFailed t core ws
      match depsOf r with
      | .waiting => s1
      | .failed => lost (failDep s1 core .aq r)
      | .met =>
        if landingMeets s1 core (([4].filterMap r.tensor?).flatMap stageSpans) then s1
        else if m = 0 then
          let arrived := (s1.core core).partials.filter fun p => p.listKey == ws
          if arrived.length + 1 < listGroup ws || wbWaits s1 core (r.tensor? 6) then s1
          else decodeMember s1 core m r lost fun p st => leadFinish p.s core r p.rows p.last p.seen p.nan st
        else if (s1.core lead).partials.any fun p => p.listKey == ws && p.member == m then s1
        else decodeMember s1 core m r lost fun p _ => sendPartial core m lead r p)

/-- A decode command has failed at its check: where its list can be read, the group takes notice as at its issue (R267). -/
def decodeChecked (s : State) (g : Nat) (c : CmdRec) : State :=
  let w := whoOf s g c.ctx
  if c.opcode ≠ opAttnDecode then s
  else match fetchAt s w [] 5 (c.w 5) 16 64 with
    | .ok hd =>
      let n := bits (wordAt ((hd.headD (0, [])).2) 0) 7 0
      (match fetchAt s w [] 5 (c.w 5) (16 * (n + 1)) 64 with
       | .ok ds => decodeFailed s g ((ds.headD (0, [])).2)
       | _ => s)
    | _ => s

end Sys2Proof.Machine
end

