-- ==== Sys2Proof/Machine/Conv.lean ====
section
/-! DEFINITION. CONV: convolutions as shifted products (chapter "Sliding-window operators"). -/

namespace Sys2Proof.Machine

/-! ### Geometry (R273–R275) -/

/-- A geometry record's fields. -/
structure Geom where
  axes  : Nat
  flip  : Bool
  swap  : Bool
  sx    : Nat
  dx    : Nat
  loX   : Nat
  hiX   : Nat
  sy    : Nat
  dy    : Nat
  loY   : Nat
  hiY   : Nat

/-- The record that sixteen words spell; with one axis, Y has stride and dilation 1 and no padding. -/
def geomOf (ws : List Word) : Geom :=
  let w := wordAt ws
  let one := bits (w 0) 1 0 = 1
  { axes := bits (w 0) 1 0, flip := (w 0).testBit 2, swap := (w 0).testBit 3, sx := bits (w 1) 15 0, dx := bits (w 1) 31 16,
    loX := bits (w 2) 15 0, hiX := bits (w 2) 31 16, sy := if one then 1 else bits (w 3) 15 0,
    dy := if one then 1 else bits (w 3) 31 16, loY := bits (w 4) 15 0, hiY := bits (w 4) 31 16 }

/-- The record is refused (R273). -/
def geomBad (ws : List Word) : Bool :=
  let w := wordAt ws
  let g := geomOf ws
  g.axes == 0 || g.axes == 3 || bits (w 0) 31 4 != 0 || g.sx == 0 || g.dx == 0 || g.sy == 0 || g.dy == 0 ||
    (g.axes == 1 && (w 3 != 0 || w 4 != 0)) || (List.range 11).any fun k => w (5 + k) != 0

/-- The output length of an axis (R275). -/
def outLength (n lo hi dil f stride : Nat) : Int :=
  ((n : Int) + lo + hi - dil * ((f : Int) - 1) - 1) / (stride : Int) + 1

/-- A CONV with its tensors. -/
structure ConvOps where
  geo : Geom
  x   : Tensor
  w   : Tensor
  y   : Tensor

def convOps (r : CmdRec) : ConvOps :=
  { geo := geomOf (r.words? 8), x := (r.tensor? 4).getD (tensorOf []), w := (r.tensor? 5).getD (tensorOf []),
    y := (r.tensor? 6).getD (tensorOf []) }

def ConvOps.cin (o : ConvOps) : Nat := if o.geo.swap then o.w.e0 else o.w.e1
def ConvOps.cout (o : ConvOps) : Nat := if o.geo.swap then o.w.e1 else o.w.e0
def ConvOps.xOut (o : ConvOps) : Int := outLength o.x.e1 o.geo.loX o.geo.hiX o.geo.dx o.w.e2 o.geo.sx
def ConvOps.yOut (o : ConvOps) : Int := outLength o.x.e2 o.geo.loY o.geo.hiY o.geo.dy o.w.e3 o.geo.sy
/-- The output is empty (R275). -/
def ConvOps.empty (o : ConvOps) : Bool := decide (o.xOut ≤ 0) || (o.geo.axes == 2 && decide (o.yOut ≤ 0))
def ConvOps.taps (o : ConvOps) : Nat := o.w.e2 * o.w.e3
/-- The taps are packed into the reduction axis (R281). -/
def ConvOps.packed (o : ConvOps) (shape : Nat) : Bool := decide (o.taps * o.cin ≤ 256 / foldOf shape)

def convReasons (s : State) (w : Who) (r : CmdRec) : List (Nat × Nat) :=
  let o := convOps r
  let pre := r.accBegin = 1 ∨ r.accBegin = 2
  let rows := o.x.e3 * o.xOut.toNat * (if o.geo.axes = 1 then 1 else o.yOut.toNat)
  [(refuseIf (geomBad (r.words? 8)) 0x01, r.w 8), (refuseIf (r.accBegin == 3 || r.accEnd != 0) 0x06, 0),
   (refuseIf (r.w 6 == 0) 0x06, 0), (checkPresent r 4, 0), (checkPresent r 5, 0), (refuseIf (pre && r.w 7 == 0) 0x03, 0),
   (checkArrayOperand s w o.x, r.w 4), (checkArrayOperand s w o.w, r.w 5), (refuseIf (isMx o.x.fmt && o.x.axis != 0) 0x02, r.w 4),
   (refuseIf (o.geo.axes == 1 && (o.x.e2 != 1 || o.w.e3 != 1)) 0x04, 0), (refuseIf (o.x.e0 != o.cin) 0x04, 0),
   (refuseIf (o.y.e0 != o.cout || o.y.e3 != o.x.e3) 0x04, r.w 6), (refuseIf (!o.empty && decide (2 ^ 32 ≤ rows)) 0x04, r.w 6),
   (refuseIf (!o.empty && (decide ((o.y.e1 : Int) ≠ o.xOut) || o.y.e2 != (if o.geo.axes = 1 then 1 else o.yOut.toNat))) 0x04, r.w 6),
   (checkOutput s w false r.xcOut (xcBytesOf o.y.rows o.y.cols (heldRows r.shape) (shapeCols r.shape)) o.y, r.w 6),
   (checkSr r o.y, r.w 6)] ++
  (match r.tensor? 7 with
   | none => []
   | some p =>
     if pre then
       [(checkArrayOperand s w p, r.w 7), (refuseIf (isMx p.fmt && p.axis != 0) 0x02, r.w 7),
        (refuseIf (p.e0 != o.cout || (if r.accBegin = 1 then p.rows != 1
          else !o.empty && (p.e1 != o.y.e1 || p.e2 != o.y.e2 || p.e3 != o.y.e3))) 0x04, r.w 7)]
     else [])

def fetchConv (s : State) (w : Who) (r : CmdRec) : Fetch :=
  (fetchDescs s w r [4, 5, 6, 7]).bind fun ds => (fetchAt s w ds 8 (r.w 8) 64 64).bind fun ds =>
    firstReason (convReasons s w (r.withDescs ds)) ds

/-! ### Taps (R276, R281) -/

/-- The input row that an output row meets at a tap, as a matrix row of the input; none in padding. -/
def ConvOps.inRow (o : ConvOps) (m tap : Nat) : Option Nat :=
  let ox := m % o.y.e1
  let oy := m / o.y.e1 % o.y.e2
  let b := m / o.y.e1 / o.y.e2
  let tx := tap % o.w.e2
  let ty := tap / o.w.e2
  let ix : Int := (ox * o.geo.sx + tx * o.geo.dx : Nat) - (o.geo.loX : Int)
  let iy : Int := if o.geo.axes = 1 then 0 else (oy * o.geo.sy + ty * o.geo.dy : Nat) - (o.geo.loY : Int)
  if 0 ≤ ix ∧ ix < o.x.e1 ∧ 0 ≤ iy ∧ iy < o.x.e2 then some (ix.toNat + o.x.e1 * (iy.toNat + o.x.e2 * b)) else none

/-- The place of filter weight (tap, channel, output column) in the filter: column and matrix row. -/
def ConvOps.wPlace (o : ConvOps) (tap c n : Nat) : Nat × Nat :=
  let tx := tap % o.w.e2
  let ty := tap / o.w.e2
  let fx := if o.geo.flip then o.w.e2 - 1 - tx else tx
  let fy := if o.geo.flip then o.w.e3 - 1 - ty else ty
  let i0 := if o.geo.swap then c else n
  let i1 := if o.geo.swap then n else c
  (i0, i1 + o.w.e1 * (fx + o.w.e2 * fy))

/-- The weights of one output column over reduction positions (tap, channel): before the scale, values, scale bytes. -/
structure WCol where
  raw  : List Val
  vals : List Val
  sc   : List Nat

def wCol (o : ConvOps) (m : Mat) (n : Nat) (ks : List (Nat × Nat)) : WCol :=
  let at_ := ks.map fun k => o.wPlace k.1 k.2 n
  { raw := at_.map fun a => (m.raw.getD a.2 []).getD a.1 Val.zero, vals := at_.map fun a => m.val a.2 a.1,
    sc := at_.map fun a => (m.sc.getD a.2 []).getD a.1 127 }

/-- The filter has one tap and its command the passes of a MATMUL (R280). -/
def ConvOps.plain (o : ConvOps) : Bool :=
  o.taps == 1 && !o.geo.swap && o.geo.sx == 1 && o.geo.sy == 1 && o.geo.loX == 0 && o.geo.hiX == 0 && o.geo.loY == 0 && o.geo.hiY == 0

/-- How a filter's loads read it, as part of their names: a MATMUL's way, or by orientation, packing and first tap (R90,
R280, R281; log 103). -/
def ConvOps.form (o : ConvOps) (packed : Bool) (ks : List (Nat × Nat)) : Nat :=
  if o.plain then 0
  else 8 + (if o.geo.flip then 1 else 0) + (if o.geo.swap then 2 else 0) + (if packed then 4 else 0) + 8 * (ks.headD (0, 0)).1

/-- One pass of a tile: what it needs of the array, the weights of each column at its positions, the K block of each
position, and its fed rows with the values at its positions (none where a position is masked on K). -/
structure ConvPass where
  req  : PassReq
  ws   : List (List Val)
  blk  : List Nat
  rows : List (Nat × List (Option Val))

/-- The passes of one reduction run for one column group (R277): positions `ks` numbered as K blocks from `kb`, and for
each output row of the tile the values there, or none where the row is masked on M. `cross` bands the operands from
their exact values (R212, R281). -/
def convPasses (o : ConvOps) (shape : Nat) (packed : Bool) (wm : Mat) (crossW crossX : Bool) (cols : List Nat) (kb : Nat)
    (ks : List (Nat × Nat)) (rows : List (Nat × Option (List (Option Val) × List Val × List Nat))) : List ConvPass :=
  let wc := cols.map fun n => wCol o wm n ks
  let wb := wc.map fun c => vecBands wm.fmt crossW c.raw c.vals c.sc
  let counts := (List.range (ceilDiv ks.length 32)).map fun b => (wb.map fun c => (c.getD b []).length).foldl max 1
  let fed := rows.filterMap fun e => e.2.map fun v => (e.1, v.1, vecBands o.x.fmt crossX v.2.1 (v.1.map fun x => x.getD Val.zero) v.2.2)
  let first := cols.headD 0
  (loadsOf (8 / foldOf shape) (wm.fmt == fmtFp32) counts).map fun l =>
    let red := (loadBlocks l).flatMap (blockSpan ks.length)
    let x (k n : Nat) : Option Elem := (ks[k]?).map fun e => let a := o.wPlace e.1 e.2 n; wm.elem crossW a.2 a.1
    { req := { feed := feedOf (digitCount o.x.fmt) (foldOf shape) 3 0 (fed.map fun e => l.map fun rs => e.2.2.getD rs.block [])
                 (wb.map fun c => l.map (rowSetBand c)),
               d := digitCount o.x.fmt,
               plane := columnPlane (loadIdOf o.w (o.form packed ks) shape first cols.length l) cols l (fun n => wb.getD (n - first) []) x,
               trans := false, shape := shape, masked := rows.length - fed.length, statSlab := inSlab o.w, streamSlab := inSlab o.x,
               lows := lowSets l, cross := crossW },
      ws := wc.map fun c => red.map fun k => c.vals.getD k Val.zero, blk := red.map fun k => kb + loadBlock [l] (k / 32),
      rows := fed.map fun e => (e.1, red.map fun k => e.2.1.getD k none) }

/-- The passes of a tile (R276, R277, R279–R281), with the tap passes skipped, the rows masked by padding over all taps
and the packed positions in padding. -/
def tilePasses (o : ConvOps) (shape : Nat) (xm wm : Mat) (cols ms : List Nat) : List ConvPass × Nat × Nat × Nat :=
  let cin := o.cin
  let along := if o.geo.swap then 0 else 1
  let crossW := isMx wm.fmt && wm.axis != along
  let row (r c : Nat) : Val × Val × Nat := (xm.val r c, (xm.raw.getD r []).getD c Val.zero, (xm.sc.getD r []).getD c 127)
  if o.packed shape then
    let ks := (List.range o.taps).flatMap fun t => (List.range cin).map fun c => (t, c)
    let rows := ms.map fun m =>
      let at_ := ks.map fun k => (o.inRow m k.1).map fun r => row r k.2
      (m, if at_.all Option.isNone then none
          else some (at_.map fun v => v.map Prod.fst, at_.map fun v => v.elim Val.zero fun x => x.2.1,
                     at_.map fun v => v.elim 127 fun x => x.2.2))
    let ps := if rows.all fun r => r.2.isNone then []
      else convPasses o shape true wm (if o.plain then crossW else isMx wm.fmt) (isMx xm.fmt && !o.plain) cols 0 ks rows
    let live := rows.filterMap Prod.snd
    (ps, if ps.isEmpty then 1 else 0, (rows.filter fun r => r.2.isNone).length,
      (live.map fun v => (v.1.filter Option.isNone).length).sum)
  else
    (List.range o.taps).foldl (fun acc t =>
      let ks := (List.range cin).map fun c => (t, c)
      let rows := ms.map fun m => (m, (o.inRow m t).map fun r =>
        ((List.range cin).map fun c => some (row r c).1, (List.range cin).map fun c => (row r c).2.1,
         (List.range cin).map fun c => (row r c).2.2))
      let masked := (rows.filter fun r => r.2.isNone).length
      let ps := convPasses o shape false wm crossW false cols (t * ceilDiv cin 32) ks rows
      if masked = ms.length then (acc.1, acc.2.1 + ps.length, acc.2.2.1 + masked, acc.2.2.2)
      else (acc.1 ++ ps, acc.2.1, acc.2.2.1 + masked, acc.2.2.2)) ([], 0, 0, 0)

/-! ### Running a tile -/

/-- The value that a slot begins with (R131, R132, R278), and whether it is a preloaded NaN. -/
def beginSlot (r : CmdRec) (p : Option Mat) (sc : Val) (m c : Nat) : Slot × Bool :=
  match p with
  | none => (({} : Slot).withScale sc, false)
  | some pm =>
    let v := pm.val (if r.accBegin = 1 then 0 else m) c
    (preloaded sc v, v.isNan)

/-- One row's deposits in a pass. -/
def convRow (r : CmdRec) (p : Option Mat) (sc : Val) (cols : List Nat) (q : ConvPass) (r0 m start d : Nat) (xs : List (Option Val))
    (e : Edge) : Edge × List NanAt :=
  ((cols.zip q.ws).zipIdx).foldl (fun acc cc =>
    let key := tileSlot r.slotBase (foldOf r.shape) (m - r0) cc.2
    let at_ (blk : Nat) : NanAt :=
      { cycle := start + 260 + d + cc.2 % 256 + cc.2 / 256, row := r0, col := cols.headD 0, out := cc.1.1, block := blk }
    let begun : Slot × List NanAt := match acc.1.slot? key with
      | some z => (z, [])
      | none => let b := beginSlot r p sc m cc.1.1; (b.1, if b.2 then [at_ 0xFFFFFFFF] else [])
    let pairs := (xs.zip cc.1.2).zip q.blk
    let live := pairs.filter fun z => z.1.1.isSome
    let dot := dotOf (live.map fun z => z.1.1.getD Val.zero) (live.map fun z => z.1.2)
    let z := begun.1.deposit dot.v dot.cls
    let nans := if !begun.1.nanLike && z.nanLike then [at_ ((live.map Prod.snd).getD (dot.nanPos begun.1) 0)] else []
    (acc.1.setSlot key z, acc.2 ++ begun.2 ++ nans)) (e, [])

/-- The tile's slots with a begin value where no pass fed the row: it is deposited in the row's readout cycle (R278).
`tile` is the tile's first row and column. -/
def beginRest (r : CmdRec) (p : Option Mat) (sc : Val) (tile : Nat × Nat) (cycle : Nat → Nat) (ks : List (Nat × Nat × Nat)) (e : Edge) :
    Edge × List NanAt :=
  ks.foldl (fun acc k =>
    match acc.1.slot? k.2.2 with
    | some _ => acc
    | none =>
      let b := beginSlot r p sc k.1 k.2.1
      (acc.1.setSlot k.2.2 b.1,
        if b.2 then acc.2 ++ [{ cycle := cycle k.1, row := tile.1, col := tile.2, out := k.2.1, block := 0xFFFFFFFF }] else acc.2)) (e, [])

/-- What every tile of a CONV runs from. -/
structure ConvRun where
  o  : ConvOps
  r  : CmdRec
  w  : Who
  p  : Option Mat
  y  : Planes
  xm : Mat
  wm : Mat

/-- The counters of R284 and R394 for a tile with these passes. -/
def countConv (s : State) (c : ConvRun) (tp : List ConvPass × Nat × Nat × Nat) : State :=
  let g := c.w.core
  let ag := pnAg g
  let s1 := (s.count ag (if c.o.packed c.r.shape then 1 else 0) tp.1.length).count ag 2 tp.2.1
  let s2 := ((s1.count ag 3 tp.2.2.1).count ag 4 tp.2.2.2).count ag 5 (if tp.1.isEmpty then 1 else 0)
  countStaged s2 g (if c.p.isSome && (c.r.tensor? 7).any inSlab then 1 else 0)

/-- A tile of CONV runs: its passes enter, deposit and are read out. The second part is the cycle of its last deposit, or
of its readout where it has no pass (R279), the third where the next exact-compact tile goes. -/
def convTile (c : ConvRun) (streamed : Bool) (cols ms : List Nat) (issue : Nat) (acc : Run × Nat × Nat) : Run × Nat × Nat :=
  let o := c.o
  let r := c.r
  let w := c.w
  let g := w.core
  let sc := scaleOf [o.x, o.w]
  let tp := tilePasses o r.shape c.xm c.wm cols ms
  let d := digitCount o.x.fmt
  let ent := enterPasses g issue r.after (tp.1.map ConvPass.req) acc.1.s
  let s1 := countConv ent.1 c tp
  let begun := s1.modCore g fun k => { k with bottom := { k.bottom with depcnt := if c.p.isSome then 1 else 0 } }
  let r0 := ms.headD 0
  let tile := (r0, cols.headD 0)
  let last := if tp.1.isEmpty then acc.2.1 + ms.length * ceilDiv cols.length 256 else (ent.2.map Entered.last).foldl max acc.2.1
  let keysOf (rows : List Nat) : List (Nat × Nat × Nat) := rows.flatMap fun m =>
    cols.zipIdx.map fun cc => (m, cc.1, tileSlot r.slotBase (foldOf r.shape) (m - r0) cc.2)
  let xcKeys (rows : List Nat) : List (Nat × Nat × Option Nat) := (keysOf rows).map fun k => (k.1, k.2.1, some k.2.2)
  let fedRow (a : Run × List NanAt) (qe : ConvPass × Entered) (only : Option Nat) : Run × List NanAt :=
    let res := (qe.1.rows.zip qe.2.feed.starts).foldl (fun (b : Edge × List NanAt) e =>
      if only.isNone || only == some e.1.1 then
        let z := convRow r c.p sc cols qe.1 r0 e.1.1 (qe.2.entry + e.2) d e.1.2 b.1
        (z.1, b.2 ++ z.2)
      else b) ((a.1.s.core g).edge false, [])
    ({ a.1 with s := a.1.s.modCore g fun k => k.setEdge false res.1 }, a.2 ++ res.2)
  -- the readout cycle of a row that no pass feeds: in streamed readout after the rows fed before it, else after the passes
  let readAt (m : Nat) : Nat := if streamed then
      (tp.1.zip ent.2).foldl (fun a qe => ((qe.1.rows.zip qe.2.feed.starts).filter fun e => decide (e.1.1 < m)).foldl
        (fun a e => max a (qe.2.entry + e.2 + passLatency d)) a) issue
    else last + 1 + (m - r0)
  let finish (a : Run × List NanAt) (rows : List Nat) : Run × List NanAt :=
    let res := beginRest r c.p sc tile readAt (keysOf rows) ((a.1.s.core g).edge false)
    ({ a.1 with s := a.1.s.modCore g fun k => k.setEdge false res.1 }, a.2 ++ res.2)
  let start : Run := { acc.1 with s := begun, touched := acc.1.touched ++ (keysOf ms).map fun k => k.2.2 }
  let mid : Run × List OutElem × List Slot × List NanAt :=
    if streamed then
      ms.foldl (fun (a : Run × List OutElem × List Slot × List NanAt) m =>
        let z := (tp.1.zip ent.2).foldl (fun b qe => fedRow b qe (some m)) (a.1, [])
        let f := finish z [m]
        if r.xcOut then
          let rd := takeSlotsXc f.1 w r false false tile (xcKeys [m])
          (rd.1, a.2.1, a.2.2.1 ++ rd.2, a.2.2.2 ++ f.2)
        else
          let rd := readSlots f.1 w r false false tile (keysOf [m])
          (rd.1, a.2.1 ++ rd.2, a.2.2.1, a.2.2.2 ++ f.2)) (start, [], [], [])
    else
      let z := (tp.1.zip ent.2).foldl (fun b qe => fedRow b qe none) (start, [])
      let f := finish z ms
      (f.1, [], [], f.2)
  let nans := mid.2.2.2
  let counted := ent.2.foldl (fun s e => addDeposits s w r false tile e.feed.deposits) mid.1.s
  let s5 := noteNans counted w r false mid.1.nanDone nans
  let r2 : Run := { mid.1 with s := s5, nanDone := mid.1.nanDone || !nans.isEmpty }
  if !nans.isEmpty && haltsAtTile s5 g then ({ r2 with halted := true }, last, acc.2.2)
  else
    let rc := roundCtx s5 w r.rmode 0 c.y.t.id
    let done : Run := if r.xcOut then
        (if streamed then r2.putXc w acc.2.2 (s5.core g).bottom.depcnt.toNat mid.2.2.1
         else readSlotsXc r2 w r false false tile acc.2.2 (xcKeys ms))
      else if streamed then r2.put c.y rc mid.2.1
      else let rd := readSlots r2 w r false false tile (keysOf ms); rd.1.put c.y rc rd.2
    ({ done with tiles := done.tiles + 1 }, last, acc.2.2 + xcLargest (ms.length * cols.length))

/-- The input rows that the taps of these output rows reach (R276). -/
def ConvOps.reached (o : ConvOps) (ms : List Nat) : List Nat :=
  (ms.flatMap fun m => (List.range o.taps).filterMap (o.inRow m)).dedup

/-- The uncorrectable units that an operand of a tile meets: of the input only positions that its taps reach, of the filter
only taps with a row that is not in padding (R202, R276, R279, R372). -/
def convBad (s : State) (c : ConvRun) (cols ms : List Nat) : List Nat :=
  let o := c.o
  let live := (List.range o.taps).filter fun t => ms.any fun m => (o.inRow m t).isSome
  s.bad.filter fun u =>
    planesMeet (planesOf s c.w o.x) (o.reached ms) (List.range o.cin) u ||
    (live.any fun t => (List.range o.cin).any fun ch => cols.any fun n =>
      let a := o.wPlace t ch n; planesMeet (planesOf s c.w o.w) [a.2] [a.1] u) ||
    (c.p.isSome && planesMeet (planesOf s c.w ((c.r.tensor? 7).getD (tensorOf []))) (if c.r.accBegin = 1 then [0] else ms) cols u)

/-- Adjoining spans joined. -/
def joinSpans : List (Nat × Nat) → List (Nat × Nat)
  | [] => []
  | a :: r =>
    match joinSpans r with
    | [] => [a]
    | b :: rest => if a.1 + a.2 = b.1 then (a.1, a.2 + b.2) :: rest else a :: b :: rest

/-- The spans of the listed rows of a TILED tensor. -/
def rowSpans (p : Planes) (rows : List Nat) : List (Nat × Nat) :=
  let b := fmtBits p.t.fmt
  joinSpans ((List.range (ceilDiv p.t.cols p.t.tc)).flatMap fun k => rows.map fun r =>
    let i := p.t.at (k * p.t.tc) r * b
    (p.key + i / 8, ceilDiv (i % 8 + min p.t.tc (p.t.cols - k * p.t.tc) * b) 8)) ++
  if isMx p.t.fmt then joinSpans (rows.flatMap fun r => (List.range (ceilDiv p.t.cols 32)).map fun k => (p.skey + p.t.sat (32 * k) r, 1)) else []

/-- The output tiles of a CONV: columns, rows, and whether the tile runs in streamed readout (R88, R277). `wm` and `xm` are the
filter and the input as they are read. -/
def convTiles (r : CmdRec) (xm wm : Mat) : List (List Nat × List Nat × Bool) :=
  let o := convOps r
  let crossW := isMx wm.fmt && wm.axis != if o.geo.swap then 0 else 1
  let whole (cols : List Nat) : Nat :=
    if o.packed r.shape then (convPasses o r.shape true wm (if o.plain then crossW else isMx wm.fmt) (isMx xm.fmt && !o.plain) cols 0
      ((List.range o.taps).flatMap fun t => (List.range o.cin).map fun ch => (t, ch)) []).length
    else ((List.range o.taps).map fun t =>
      (convPasses o r.shape false wm crossW false cols 0 ((List.range o.cin).map fun ch => (t, ch)) []).length).sum
  (rangesOf o.cout (shapeCols r.shape)).flatMap fun cols =>
    let streamed := whole cols == 1
    (rangesOf o.y.rows (if streamed then 128 else heldRows r.shape)).map fun ms => (cols, ms, streamed)

/-- The bottom-edge slots that the tiles of a CONV take. -/
def convKeys (r : CmdRec) (tiles : List (List Nat × List Nat × Bool)) : List Nat :=
  (tiles.flatMap fun t => t.2.1.flatMap fun m => t.1.zipIdx.map fun cc =>
    tileSlot r.slotBase (foldOf r.shape) (m - t.2.1.headD 0) cc.2).dedup

/-- CONV runs. A tile that meets an uncorrectable unit ends it, and the tiles before it stand (R202). -/
def runConv (s : State) (g : Nat) (r : CmdRec) : State :=
  let o := convOps r
  let w := whoOf s g r.ctx
  let pre := r.accBegin = 1 ∨ r.accBegin = 2
  let c : ConvRun :=
    { o := o, r := r, w := w, p := if pre then (r.tensor? 7).map fun t => readPreload s (planesOf s w t) else none,
      y := planesOf s w o.y, xm := readMat s (planesOf s w o.x), wm := readMat s (planesOf s w o.w) }
  let tiles := convTiles r c.xm c.wm
  let issue := issueCycle s g r
  let keys := convKeys r tiles
  let e := (s.core g).bottom
  let stop := tiles.findIdx? fun t => !(convBad s c t.1 t.2.1).isEmpty
  let at_ : List Nat × List Nat := ((stop.bind fun i => tiles[i]?).map fun t => (t.1, t.2.1)).getD ([], [])
  let units := convBad s c at_.1 at_.2
  if slotsRefused e false keys then refuseFront s g .aq r 0x06
  else if stop = some 0 then failBad s g .aq r (units.headD 0) (units.map fun u => (u, 1))
  else
    let init : Run := { s := s.modCore g fun k => { k with bottom := e.join r false keys } }
    let res := (tiles.take (stop.getD tiles.length)).foldl (fun (acc : Run × Nat × Nat) t =>
      if acc.1.halted then acc else convTile c t.2.2 t.1 t.2.1 issue acc) (init, issue, c.y.key)
    if res.1.halted then haltCmd g .aq r w res.1 false (res.2.1 + 1) (wbBytes (some o.y))
    else
      let s1 := res.1.s.modCore g fun k => { k with bottom := k.bottom.settle }
      if stop.isSome then
        let s2 := raiseBadIn s1 w.part (some w.ctx) r.cmdId (units.headD 0) (units.map fun u => (u, 1)) (at_.2.headD 0, at_.1.headD 0)
        commitRun g .aq r w { res.1 with s := s2, status := stUncorrectable } (res.2.1 + 1) (wbBytes (some o.y))
      else commitRun g .aq r w { res.1 with s := s1 } (res.2.1 + 1) (wbBytes (some o.y))

/-- The spans that a CONV reads: of its input those positions only that a tap reaches (R276). -/
def convSpans (s : State) (w : Who) (r : CmdRec) : List (Nat × Nat) :=
  let o := convOps r
  let rest := ((if r.accBegin = 0 then [5] else [5, 7]).filterMap r.tensor?).flatMap (keySpans s w)
  let rows := o.reached (List.range o.y.rows)
  (if rows.length = o.x.rows then keySpans s w o.x else rowSpans (planesOf s w o.x) rows) ++ rest

/-- CONV (R276): an empty output completes at once (R275). -/
def execConv (core : Nat) (s : State) : Out :=
  .next (match frontOf s core .aq opConv with
    | none => s
    | some r => afterGather s core fun s1 =>
      let ts := (if r.accBegin = 0 then [4, 5] else [4, 5, 7]).filterMap r.tensor?
      withDeps s1 core .aq r (if (convOps r).empty then
          completeFront (s1.count (pnAg core) 6 1) core .aq r { status := stEmptyOutput }
        else if landingMeets s1 core (ts.flatMap stageSpans) || wbWaits s1 core (r.tensor? 6) then s1
        else runConv (readSpans s1 true (convSpans s1 (whoOf s1 core r.ctx) r)) core r))

end Sys2Proof.Machine
end

