-- ==== Sys2Proof/Machine/Update.lean ====
section
/-! DEFINITION. UPDATE_P1 and UPDATE_P2 (chapter "Parameter update and step commit"). -/

namespace Sys2Proof.Machine

/-! ### Update lists and coefficient rows (R312–R315) -/

/-- The keys under which a record holds what the words of its list point to: descriptors and rows, and programs. -/
def ptrKeyOf (p : Nat) : Nat := 2 ^ 32 + p
def progKeyOf (p : Nat) : Nat := 2 ^ 33 + p

/-- An entry of an update list. -/
structure UpdEntry where
  words : List Word

def UpdEntry.w (e : UpdEntry) (k : Nat) : Nat := wordAt e.words k
def UpdEntry.group (e : UpdEntry) : Nat := bits (e.w 0) 15 0
def UpdEntry.term (e : UpdEntry) : Nat := bits (e.w 0) 22 16
def UpdEntry.coef (e : UpdEntry) : Nat := e.w 1
def UpdEntry.tExpect (e : UpdEntry) : Nat := longAt e.words 2
def UpdEntry.elemBase (e : UpdEntry) : Nat := e.w 15

def updCount (ws : List Word) : Nat := bits (wordAt ws 0) 12 0
def updTerms (ws : List Word) : Nat := bits (wordAt ws 1) 7 0
def updEntries (ws : List Word) : List UpdEntry :=
  (List.range (updCount ws)).map fun k => { words := (ws.drop (16 * (k + 1))).take 16 }

/-- A coefficient row (R315). -/
structure Coef where
  words : List Word

def Coef.w (c : Coef) (k : Nat) : Nat := wordAt c.words k
def Coef.den (c : Coef) : Nat := bits (c.w 0) 1 0
def Coef.order (c : Coef) : Bool := (c.w 0).testBit 2
def Coef.bc1 (c : Coef) : Bool := (c.w 0).testBit 3
def Coef.bc2 (c : Coef) : Bool := (c.w 0).testBit 4
def Coef.nState (c : Coef) : Nat := bits (c.w 0) 6 5
def Coef.bf16 (c : Coef) : Bool := (c.w 0).testBit 7
def Coef.clip (c : Coef) : Nat := bits (c.w 0) 9 8
def Coef.sched (c : Coef) : Nat := bits (c.w 0) 12 10
def Coef.rmode (c : Coef) : Nat := bits (c.w 0) 15 13
def Coef.copyFmt (c : Coef) : Nat := bits (c.w 0) 20 16
def Coef.program (c : Coef) : Bool := (c.w 0).testBit 21
/-- FP32 word `k`: B1–B4 are 1–4, A1 and A2 5 and 6, then EPS, C_U, C_ACC, CLIP_MAX, LR_MUL and WD_MUL. -/
def Coef.f (c : Coef) (k : Nat) : Val := lane (decodeFp32 (c.w k))

/-- A row is refused (R318, R315): 0, or the reason. -/
def checkCoef (c : Coef) : Nat :=
  let finite (k : Nat) : Bool := match decodeFp32 (c.w k) with | .fin _ _ => true | _ => false
  if bits (c.w 0) 31 22 != 0 || c.w 14 != 0 || c.w 15 != 0 || c.den == 3 || c.nState == 3 || c.clip == 3 then 0x01
  else if !((List.range 12).all fun k => finite (k + 1)) then 0x01
  else if (c.den == 0 && decide (c.nState < 2)) || (c.order && c.nState == 0) || (c.bc1 && (c.f 1).eq vOne) ||
    (c.bc2 && (c.f 3).eq vOne) || (c.clip != 0 && !(Val.zero.lt (c.f 10))) || (c.f 7).isNeg ||
    (c.program != (c.w 13 != 0)) then 0x01
  else if 4 < c.rmode then 0x07
  else if c.copyFmt < 3 ∨ 8 < c.copyFmt then 0x02
  else 0

/-- The descriptors that an entry needs under its row: word, format, whether it is a bank tensor's copy (R310, R314). -/
def entryNeeds (c : Coef) : List (Nat × Nat × Bool) :=
  let sf := if c.bf16 then fmtBf16 else fmtFp32
  [(4, fmtFp32, false), (5, fmtFp32, false)] ++ (if 1 ≤ c.nState then [(6, sf, false), (7, sf, false)] else []) ++
    (if 2 ≤ c.nState then [(8, sf, false), (9, sf, false)] else []) ++
    [(10, c.copyFmt, true), (11, c.copyFmt, true), (12, fmtFp32, false)]

/-- What was read for a pointer of an entry. -/
def CmdRec.at_ (r : CmdRec) (p : Nat) : List Word := r.words? (ptrKeyOf p)
def CmdRec.coefOf (r : CmdRec) (e : UpdEntry) : Coef := { words := r.at_ e.coef }
def CmdRec.updT (r : CmdRec) (e : UpdEntry) (k : Nat) : Tensor := tensorOf (r.at_ (e.w k))

/-- `n` bytes that a pointer names, unless they have been read under the key already. -/
def fetchOnce (s : State) (w : Who) (key ptr n align : Nat) (ds : List (Nat × List Word)) : Fetch :=
  if ds.any fun e => e.1 == key then .ok ds else fetchAt s w ds key ptr n align
/-- What has been read under a key. -/
def readUnder (ds : List (Nat × List Word)) (key : Nat) : List Word := ((ds.find? fun e => e.1 == key).map Prod.snd).getD []

/-- A descriptor of an entry is read and checked in its role: slab or HBM, within the grants (R328, R390). -/
def fetchEntryDesc (s : State) (w : Who) (ptr fmt : Nat) (copy write : Bool) (ds : List (Nat × List Word)) : Fetch :=
  if ptr = 0 then .refuse 0x04 0
  else (fetchOnce s w (ptrKeyOf ptr) ptr 64 64 ds).bind fun ds1 =>
    let ws := readUnder ds1 (ptrKeyOf ptr)
    let t := tensorOf ws
    let reason := if checkTensor ws ≠ 0 then checkTensor ws
      else if t.fmt ≠ fmt ∨ (copy ∧ t.axis ≠ 0) then 0x02
      else if t.spans.any fun e => (tierOf e.1 != 1 && tierOf e.1 != 3) || !granted s w write e.1 e.2 then 0x03
      else 0
    if reason ≠ 0 then .refuse reason ptr else .ok ds1

/-- A coefficient row and its program are read and checked (R318, R320). -/
def fetchCoef (s : State) (w : Who) (ptr : Nat) (ds : List (Nat × List Word)) : Fetch :=
  (fetchOnce s w (ptrKeyOf ptr) ptr 64 64 ds).bind fun ds1 =>
    let c : Coef := { words := readUnder ds1 (ptrKeyOf ptr) }
    if checkCoef c ≠ 0 then .refuse (checkCoef c) ptr
    else if !c.program then .ok ds1
    else if (c.w 13).testBit 31 ∨ !(inScratch s w (bits (c.w 13) 26 0) 128) then .refuse 0x03 (c.w 13)
    else (fetchOnce s w (progKeyOf (c.w 13)) (c.w 13) 128 128 ds1).bind fun ds2 =>
      let p := progOf (readUnder ds2 (progKeyOf (c.w 13)))
      if progBad p false false || p.o1wr || p.red != 0 ||
          !(p.run.any fun o => opWrites (bits o 31 26) && bits o 25 21 == 0x15) then .refuse 0x08 (c.w 13)
      else .ok ds2

/-- One entry is read and checked (R312, R314). -/
def fetchEntry (s : State) (w : Who) (terms : Nat) (e : UpdEntry) (ds : List (Nat × List Word)) : Fetch :=
  if bits (e.w 0) 31 23 ≠ 0 ∨ terms ≤ e.term then .refuse 0x01 0
  else (fetchCoef s w e.coef ds).bind fun ds1 =>
    let c : Coef := { words := readUnder ds1 (ptrKeyOf e.coef) }
    if (c.nState < 1 ∧ (e.w 6 ≠ 0 ∨ e.w 7 ≠ 0)) ∨ (c.nState < 2 ∧ (e.w 8 ≠ 0 ∨ e.w 9 ≠ 0)) then .refuse 0x01 0
    else
      ((entryNeeds c).foldl (fun (acc : Fetch) n => acc.bind fun d => fetchEntryDesc s w (e.w n.1) n.2.1 n.2.2 (n.1 != 12) d) (Fetch.ok ds1)).bind
        fun ds2 => firstReason ([13, 14].map fun k => (checkPtr s w (e.w k) 64 64, e.w k)) ds2

/-- Two entries overlap (R314). -/
def entriesOverlap (r : CmdRec) (es : List UpdEntry) : Bool :=
  let k := es.map fun e => let t := r.updT e 4; (t.id, e.elemBase, e.elemBase + t.size)
  k.zipIdx.any fun a => k.zipIdx.any fun b =>
    decide (a.2 < b.2) && a.1.1 == b.1.1 && decide (a.1.2.1 < b.1.2.2) && decide (b.1.2.1 < a.1.2.2)

/-- The context of a command belongs to the TRAINING job and is no evaluation context (R305, R458). -/
def trainingCtx (s : State) (p x : Nat) : Bool :=
  match jobOf s p x with
  | some j => j.training && !j.evalMask.getLsbD x
  | none => false

/-- The check of an UPDATE_P1 or UPDATE_P2 (R312–R318, R324, R326). -/
def fetchUpdate (s : State) (w : Who) (r : CmdRec) : Fetch :=
  let p1 := r.opcode == opUpdateP1
  if !(match jobOf s w.part w.ctx with | some j => j.training | none => false) then .refuse 0x01 0
  else if p1 ∧ (r.accBegin ≠ 0 ∨ r.accEnd ≠ 0) then .refuse 0x06 0
  else if r.w 4 = 0 ∨ r.w 5 = 0 then .refuse 0x03 0
  else (fetchDescs s w r [5]).bind fun ds => (fetchAt s w [] 4 (r.w 4) 64 64).bind fun head =>
    let hw := (head.headD (0, [])).2
    let n := updCount hw
    let terms := updTerms hw
    if bits (wordAt hw 0) 31 13 ≠ 0 ∨ bits (wordAt hw 1) 31 8 ≠ 0 ∨ ((List.range 14).any fun k => wordAt hw (2 + k) != 0) ∨
        n = 0 ∨ 4096 < n ∨ terms = 0 ∨ 128 < terms then .refuse 0x01 (r.w 4)
    else (fetchAt s w ds 4 (r.w 4) (64 * (n + 1)) 64).bind fun ds1 =>
      let es := updEntries (ds1.getLastD (0, [])).2
      (es.foldl (fun (acc : Fetch) e => acc.bind (fetchEntry s w terms e)) (Fetch.ok ds1)).bind fun ds2 =>
        let r2 := r.withDescs ds2
        let y := (r2.tensor? 5).getD (tensorOf [])
        let evalDst := match jobOf s w.part w.ctx with | some j => j.evalMask.getLsbD w.ctx | none => false
        let sizesBad := es.any fun e =>
          let n := (r2.updT e 12).size
          decide (2 ^ 32 ≤ n) || (entryNeeds (r2.coefOf e)).any fun k => (r2.updT e k.1).size != n
        let coefBad := es.any fun a => es.any fun b => a.group == b.group && a.coef != b.coef
        firstReason [(refuseIf (sizesBad || coefBad || entriesOverlap r2 es) 0x04, r.w 4),
          (if p1 then checkXcTensor y else refuseIf (y.fmt != fmtFp32) 0x02, r.w 5),
          (refuseIf (decide (y.size < terms)) 0x04, r.w 5),
          (refuseIf ((tierOf y.base == 4 && !p1) || !(if p1 then granted s w true y.base (xcLargest terms) else spansGranted s w false y.spans)) 0x03, r.w 5),
          (refuseIf (evalDst && !p1) 0x03, 0)] ds2

/-- What the bank-resident tensors and shard records of a list occupy in both banks, as fabric addresses (R310, R313). -/
def bankSpans (g : Nat) (r : CmdRec) : List (Nat × Nat) :=
  (updEntries (r.words? 4)).flatMap fun e =>
    (((entryNeeds (r.coefOf e)).filter fun n => n.1 != 12).flatMap fun n => (r.updT e n.1).spans) ++
      [13, 14].map fun k => (ptrAddr g (e.w k), 64)

/-- A job that runs a context takes note of the banks that an update command of it names. -/
def Job.noteBanks (x : Nat) (spans : List (Nat × Nat)) (j : Job) : Job :=
  if j.ctxMask.getLsbD x then { j with params := (j.params ++ spans).dedup } else j

/-- The banks that an update command names are banks of its job from then on (R305; log 110). -/
def noteBanks (s : State) (w : Who) (r : CmdRec) : State :=
  s.modPart w.part fun v => { v with jobs := v.jobs.map (Job.noteBanks w.ctx (bankSpans w.core r)) }

/-! ### Bank maps, freeze maps and scalars (R311, R317, R329) -/

/-- The bank map that a map select names, as a key of hub SRAM. -/
def bankMapKey (s : State) (sel : Bool) : Nat := s.regAddr pnSched 0x110 + if sel then 0x2000 else 0
/-- A bit of a bitmap in memory. -/
def mapBit (s : State) (key g : Nat) : Bool := (viewByte s (key + g / 8)).getLsbD (g % 8)
/-- The active bank of a group is B; an evaluation context keeps what its window found (R305). -/
def bankOf (s : State) (w : Who) (g : Nat) : Bool :=
  match ((s.part w.part).ctx w.ctx).evalWins.getLast? with
  | some v => (v.map.getD (g / 8) 0).getLsbD (g % 8)
  | none => mapBit s (bankMapKey s s.sched.mapSel) g
/-- A group is frozen; a map address of 0 freezes none. -/
def freezeKey (s : State) : Nat := s.regAddr pnSched 0x108
def isFrozen (s : State) (g : Nat) : Bool := freezeKey s != 0 && mapBit s (freezeKey s) g

/-- The candidate bit of a group is set to the inverse of the active bit (R311). -/
def setCandidate (s : State) (g : Nat) : State × Option Nat :=
  let k := bankMapKey s (!s.sched.mapSel) + g / 8
  let b := viewByte s k
  let m : BitVec 8 := BitVec.ofNat 8 (2 ^ (g % 8))
  memStores s false [(k, [if mapBit s (bankMapKey s s.sched.mapSel) g then b &&& ~~~m else b ||| m])]

/-- The candidate bits of a pass's live groups are set (R326), and the unit of a word that reads uncorrectable: its bit is
not set. -/
def setCandidates (s : State) (gs : List Nat) : State × Option Nat :=
  gs.foldl (fun (acc : State × Option Nat) g => let z := setCandidate acc.1 g; joinBad z.1 acc.2 z.2) (s, none)

/-- A value rounded to FP64 (R317). -/
def fp64 (v : Val) : Val := decodeFp64 (toFp64 v)

/-- 1 ÷ (1 − B^(T + 1)) in three FP64 steps, then rounded to FP32 (R317). -/
def kFactor (b : Val) (t : Nat) : Val :=
  match b with
  | .fin m e =>
    let p := fp64 (.fin (m ^ (t + 1)) (e * ((t + 1 : Nat) : Int)))
    let q := fp64 (vOne.sub p)
    lane (fp64 (divVal vOne q))
  | v => v

/-- The scalars of an entry (R317). -/
structure Scalars where
  lr   : Val
  wd   : Val
  k1   : Val
  k2   : Val
  clip : Val

def clipOf (c : Coef) (norm : List Val) (term : Nat) : Val :=
  if c.clip = 0 then vOne
  else
    let q := norm.getD (if c.clip = 1 then 0 else term) Val.zero
    if q.isZero then vOne else Val.min vOne (lane ((c.f 10).mul (vecOp 0x13 q Val.zero Val.zero)))

def scalarsOf (s : State) (c : Coef) (norm : List Val) (e : UpdEntry) (t : Nat) : Scalars :=
  { lr := lane ((decodeFp32 (mget 0 s.sched.lr c.sched).toNat).mul (c.f 11)),
    wd := lane ((decodeFp32 (mget 0 s.sched.wd c.sched).toNat).mul (c.f 12)),
    k1 := kFactor (c.f 1) t, k2 := kFactor (c.f 3) t, clip := clipOf c norm e.term }

/-- A fused multiply-add, rounded once. -/
def fma (a b c : Val) : Val := lane ((a.mul b).add c)

/-- A pipeline operation's result made a NaN of other operands (R178). -/
def madeNan (r : Val) (ins : List Val) : Nat := if r.isNan && ins.all fun v => !v.isNan then 1 else 0

/-- What one element of an update leaves: new s1, s2 and w, and how many NaNs were made of other operands. -/
structure UpdOut where
  s1  : Val
  s2  : Val
  w   : Val
  inv : Nat

/-- The recurrence on one element (R316). -/
def tableStep (c : Coef) (k : Scalars) (g s1 s2 w : Val) : UpdOut :=
  let q := lane (g.mul (c.f 9))
  let gp := lane (q.mul k.clip)
  let b2 := lane ((c.f 2).mul gp)
  let s1n := fma (c.f 1) s1 b2
  let sq := lane (gp.mul gp)
  let b4 := lane ((c.f 4).mul sq)
  let s2n := fma (c.f 3) s2 b4
  let a2 := lane ((c.f 6).mul gp)
  let h := if c.order then fma (c.f 5) s1 a2 else s1n
  let x := if c.bc1 then lane (h.mul k.k1) else h
  let y := if c.bc2 then lane (s2n.mul k.k2) else s2n
  let root := vecOp 0x14 y Val.zero Val.zero
  let den := lane (root.add (c.f 7))
  let r := vecOp 0x12 den Val.zero Val.zero
  let u := if c.den = 0 then lane (x.mul r) else if c.den = 1 then x else vecOp 0x17 x Val.zero Val.zero
  let wd := lane (k.wd.mul w)
  let t := fma (c.f 8) u wd
  let wn := fma k.lr.neg t w
  let made := madeNan q [g, c.f 9] + madeNan gp [q, k.clip] + madeNan b2 [c.f 2, gp] + madeNan s1n [c.f 1, s1, b2] +
    madeNan sq [gp] + madeNan b4 [c.f 4, sq] + madeNan s2n [c.f 3, s2, b4] +
    (if c.order then madeNan a2 [c.f 6, gp] + madeNan h [c.f 5, s1, a2] else 0) +
    (if c.bc1 then madeNan x [h, k.k1] else 0) + (if c.bc2 then madeNan y [s2n, k.k2] else 0) +
    (if c.den = 0 then madeNan root [y] + madeNan den [root, c.f 7] + madeNan r [den] + madeNan u [x, r] else 0) +
    madeNan wd [k.wd, w] + madeNan t [c.f 8, u, wd] + madeNan wn [k.lr, t, w]
  { s1 := s1n, s2 := s2n, w := wn, inv := made }

/-- One element in program mode (R320). -/
def programStep (p : Prog) (c : Coef) (k : Scalars) (g s1 s2 w : Val) : UpdOut :=
  let q := lane (g.mul (c.f 9))
  let gp := lane (q.mul k.clip)
  let z : Prog := { p with consts := p.consts.take 4 ++ [k.k1, k.k2, k.lr, k.wd] }
  let o := runProg z [gp, s1, s2, w]
  { s1 := o.regs.getD 0 Val.zero, s2 := o.regs.getD 1 Val.zero, w := o.o0,
    inv := o.inv + madeNan q [g, c.f 9] + madeNan gp [q, k.clip] }

/-! ### The passes (R324–R330) -/

/-- The entries of a list at issue: those to process with their active bank and step counter, the count of frozen ones, and
those whose counter differs with the counter found. -/
structure UpdPlan where
  live   : List (UpdEntry × Bool × Nat)
  frozen : Nat
  skewed : List (UpdEntry × Nat)

/-- The shard record of an entry in a bank, as a memory key. -/
def shardKey (s : State) (w : Who) (e : UpdEntry) (bank : Bool) : Nat := ptrKey s w (e.w (if bank then 14 else 13))

def planUpdate (s : State) (w : Who) (es : List UpdEntry) : UpdPlan :=
  es.foldl (fun acc e =>
    if isFrozen s e.group then { acc with frozen := acc.frozen + 1 }
    else
      let b := bankOf s w e.group
      let t := viewNat s (shardKey s w e b) 8
      if t = e.tExpect then { acc with live := acc.live ++ [(e, b, t)] }
      else { acc with skewed := acc.skewed ++ [(e, t)] }) { live := [], frozen := 0, skewed := [] }

/-- Words of an entry in a bank: master weights, s1, s2, compute copy. -/
def bankWord (k : Nat) (bank : Bool) : Nat := k + if bank then 1 else 0

/-- Words of the tensors that a pass reads of a live entry. -/
def updWords (r : CmdRec) (p2 : Bool) (e : UpdEntry × Bool × Nat) : List Nat :=
  let c := r.coefOf e.1
  [12] ++ if p2 then [bankWord 4 e.2.1] ++ (if 1 ≤ c.nState then [bankWord 6 e.2.1] else []) ++
    (if 2 ≤ c.nState then [bankWord 8 e.2.1] else []) else []

/-- Spans that a pass reads of its live entries. -/
def updReads (s : State) (w : Who) (r : CmdRec) (p2 : Bool) (live : List (UpdEntry × Bool × Nat)) : List (Nat × Nat) :=
  live.flatMap fun e => (updWords r p2 e).flatMap fun k => keySpans s w (r.updT e.1 k)

/-- The uncorrectable units that vectors of live entries, as (entry, first element), meet. -/
def updBads (s : State) (w : Who) (r : CmdRec) (p2 : Bool) (live : List (UpdEntry × Bool × Nat)) (vs : List (Nat × Nat)) : List Nat :=
  (badUnits s (updReads s w r p2 live)).filter fun u => vs.any fun v => (live[v.1]?).any fun x => (updWords r p2 x).any fun k =>
    let t := r.updT x.1 k
    ((List.range' v.2 256).filter fun i => decide (i < t.size)).any fun i => planesMeet (planesOf s w t) [i / t.e0] [i % t.e0] u

/-- The first tile of a pass, 256 vectors each, that meets an uncorrectable unit, with what it meets (R202, R372). -/
def updStop (s : State) (w : Who) (r : CmdRec) (p2 : Bool) (live : List (UpdEntry × Bool × Nat)) (vecs : List (Nat × Nat)) :
    Option (Nat × List Nat) :=
  (List.range (ceilDiv vecs.length 256)).findSome? fun t =>
    let us := updBads s w r p2 live ((vecs.drop (256 * t)).take 256)
    if us.isEmpty then none else some (t, us)

/-- The row and column of a tile's first element (R206). -/
def updTile (r : CmdRec) (live : List (UpdEntry × Bool × Nat)) (vecs : List (Nat × Nat)) (t : Nat) : Nat × Nat :=
  let v := vecs.getD (256 * t) (0, 0)
  let e0 := (live[v.1]?).elim 1 fun x => (r.updT x.1 12).e0
  (v.2 / e0, v.2 % e0)

/-- UNCORRECTABLE_MEM for the tile that ends a pass. -/
def raiseUpdBad (s : State) (w : Who) (r : CmdRec) (live : List (UpdEntry × Bool × Nat)) (vecs : List (Nat × Nat))
    (stop : Option (Nat × List Nat)) : State :=
  match stop with
  | none => s
  | some e => raiseBadIn s w.part (some w.ctx) r.cmdId (e.2.headD 0) (e.2.map fun u => (u, 1)) (updTile r live vecs e.1)

/-- Bytes of maps that the planning of a pass reads: of the bank map only those of groups that are not frozen (R329). -/
def mapSpans (s : State) (es : List UpdEntry) : List (Nat × Nat) :=
  (if freezeKey s = 0 then [] else es.map fun e => (freezeKey s + e.group / 8, 1)) ++
    (es.filter fun e => !isFrozen s e.group).map fun e => (bankMapKey s s.sched.mapSel + e.group / 8, 1)

/-- The shard records whose counters a pass compares (R330). -/
def shardSpans (s : State) (w : Who) (es : List UpdEntry) : List (Nat × Nat) :=
  (es.filter fun e => !isFrozen s e.group).map fun e => (shardKey s w e (bankOf s w e.group), 64)

/-- The first uncorrectable unit that the planning of a pass meets, with what it reads. -/
def planBad (s : State) (w : Who) (es : List UpdEntry) : Option (Nat × List (Nat × Nat)) :=
  match badInSpans s (mapSpans s es) with
  | some u => some (u, mapSpans s es)
  | none => (badInSpans s (shardSpans s w es)).map fun u => (u, shardSpans s w es)

/-- Frozen and skewed entries are counted, and a skew raises STEP_SKEW once, naming the first (R329, R330). -/
def noteSkips (s : State) (w : Who) (r : CmdRec) (p : UpdPlan) : State :=
  let s1 := (s.count pnSched 3 p.frozen).count pnSched 4 p.skewed.length
  match p.skewed with
  | [] => s1
  | e :: _ =>
    raiseTrap s1 pnSched { code := trapStepSkew, level := 2, part := some w.part, ctx := some w.ctx, cmdId := r.cmdId,
                           detail := fields [(0, e.1.group), (32, e.1.tExpect), (96, e.2)] }

/-- The status and DETAIL of a pass (R187, R329, R330). -/
def updStatus (p : UpdPlan) : Nat × Nat :=
  if p.skewed ≠ [] then (stStepSkew, 0) else if p.frozen ≠ 0 then (stFrozenSkip, p.frozen) else (0, 0)

/-- The vectors of live entries, tile by tile: per vector its entry's number and first element, 256 elements each (R159,
R201; log 30). -/
def updVectors (r : CmdRec) (live : List (UpdEntry × Bool × Nat)) : List (Nat × Nat) :=
  live.zipIdx.flatMap fun e => (List.range (ceilDiv (r.updT e.1.1 12).size 256)).map fun v => (e.2, 256 * v)

/-- A flat tensor as lanes hold it. -/
def loadFlat (s : State) (w : Who) (t : Tensor) : List Val := (loadTensor s w rmRne t).1.flatten

/-- The first NaN that an update makes raises FIRST_NAN under NAN_TRAP (R176): its vector's first row and column and its
lane. Vectors are (entry, first element), `made` how many NaNs an element made. -/
def raiseUpdNan (s : State) (w : Who) (r : CmdRec) (p : UpdPlan) (vecs : List (Nat × Nat)) (made : Nat → Nat → Nat) : State :=
  let hit := vecs.zipIdx.findSome? fun v => ((List.range 256).find? fun l => made v.1.1 (v.1.2 + l) != 0).map fun l => (v.2, l)
  match hit with
  | some (j, l) =>
    if (s.reg (pnVu w.core) 0x010).getLsbD 0 then
      let tile := updTile r p.live vecs (j / 256)
      raiseTrap s (pnVu w.core)
        { code := trapFirstNan, level := 0, part := some w.part, ctx := some w.ctx, core := some w.core, cmdId := r.cmdId,
          row := tile.1, col := tile.2, outCol := l, redBlock := 0xFFFFFFFE, detail := 2 }
    else s
  | none => s

/-- The slots of an UPDATE_P1's norm terms (R324). -/
def normKeys (r : CmdRec) : List Nat :=
  (List.range (updTerms (r.words? 4))).flatMap fun t => (List.range 256).map fun b => slotKey b (r.slotBase + t)

/-- UPDATE_P1 runs (R324). A NaN deposit stops it at its tile under HALT_AT_TILE (R142, R143; log 109), an uncorrectable unit before
its tile, with its slots freed (R202; log 146). -/
def runUpdateP1 (s : State) (g : Nat) (r : CmdRec) (p : UpdPlan) : State :=
  let w := whoOf s g r.ctx
  let terms := updTerms (r.words? 4)
  let keys := normKeys r
  let e := (s.core g).edge r.edge
  if slotsRefused e false keys then refuseFront s g .vq r 0x06
  else
    let side := r.edge
    let vecs := updVectors r p.live
    let loads := p.live.map fun x => (loadFlat s w (r.updT x.1 12)).map fun v =>
      let f := (r.coefOf x.1).f 9; let q := lane (v.mul f); (q, madeNan q [v, f])
    let made (i k : Nat) : Nat := ((loads.getD i []).getD k (Val.zero, 0)).2
    let s0 := noteSkips s w r p
    let e2 : Edge := { (e.zeroAll keys (.fin 1 0)) with depcnt := 0 }
    let step (acc : Run) (t : Nat) : Run :=
      if acc.halted then acc
      else
        let vs := (vecs.drop (256 * t)).take 256
        let tile := updTile r p.live vecs t
        let es := vs.flatMap fun v => (((loads.getD v.1 []).drop v.2).take 256).zipIdx.map fun q => (v.1, q.2, q.1)
        let ds := es.flatMap fun x =>
          let term := (p.live[x.1]?).elim 0 fun y => y.1.term
          let sq := x.2.2.1.mul x.2.2.1
          ([0] ++ if term = 0 then [] else [term]).map fun k =>
            ({ key := slotKey x.2.1 (r.slotBase + k), lane := x.2.1, row := k, vals := [sq] } : VecDep)
        let d := vecDeposit ds tile.1 tile.2 ((acc.s.core g).edge side)
        let c1 := ((acc.s.modCore g fun k => k.setEdge side d.1).count (pnVu g) 6 vs.length).count (pnVu g) 0 vs.length
        let c2 := (c1.count (pnVu g) 7 es.length).count (pnVu g) 5 (es.map fun x => x.2.2.2).sum
        let c3 := addDeposits c2 w r side tile vs.length
        let c4 := noteNans c3 w r side acc.nanDone d.2
        if !d.2.isEmpty && haltsAtTile c4 g then { acc with s := c4, nanDone := true, halted := true }
        else { acc with s := c4, nanDone := acc.nanDone || !d.2.isEmpty, tiles := acc.tiles + 1 }
    let stop := updStop s w r false p.live vecs
    let tiles := (stop.map Prod.fst).getD (max 1 (ceilDiv vecs.length 256))
    let run0 := (List.range tiles).foldl step { s := s0.modCore g fun k => k.setEdge side e2, touched := keys }
    let ran := vecs.take (256 * if run0.halted then run0.tiles + 1 else run0.tiles)
    let run : Run := { run0 with s := raiseUpdNan run0.s w r p ran made }
    let y := (r.tensor? 5).getD (tensorOf [])
    let end_ := (s.core g).aclk + (vecs.length - 1) * 2 + 96 + 8 * terms + 1
    if run.halted then haltCmd g .vq r w run side end_ 0
    else if stop.isSome then
      let s2 := raiseUpdBad (run.s.modCore g fun k => k.setEdge side ((k.edge side).freeAll keys)) w r p.live vecs stop
      commitRun g .vq r w { run with s := s2, status := stUncorrectable } end_ 0
    else
      let ed := (run.s.core g).edge side
      let sums := (List.range terms).map fun t => (List.range 256).foldl (fun (q : Slot) b =>
        (q.merge (((ed.slot? (slotKey b (r.slotBase + t))).getD {}).swept)).1) {}
      let freed := run.s.modCore g fun k => k.setEdge side ((k.edge side).freeAll keys)
      let s2 := noteOverflows freed w r side false (0, 0) ((sums.zipIdx.filter fun q => q.1.swept.ovf).map fun q => (0, r.slotBase + q.2))
      let run1 := ({ run with s := s2, summary := (sums.map Slot.summary).foldl Nat.lor 0 } : Run).putXc w (keyOf s w y.base)
        ed.depcnt.toNat sums
      let st := updStatus p
      commitRun g .vq r w { run1 with status := st.1, detail := st.2 } end_ (if needsWb y then xcLargest terms else 0)

/-- How many elements of a live entry the first vectors of a pass cover. -/
def updDone (r : CmdRec) (live : List (UpdEntry × Bool × Nat)) (ran : List (Nat × Nat)) (i : Nat) : Nat :=
  min ((live[i]?).elim 0 fun x => (r.updT x.1 12).size) (256 * (ran.filter fun v => v.1 == i).length)

/-- One live entry of a pass 2, of which the first `done` elements have run: its outputs in the overlay, and how many NaNs each of
these elements made. Its counter goes up where all of it has. -/
def updateEntry (w : Who) (r : CmdRec) (norm : List Val) (acc : Run × List (List Nat)) (xd : (UpdEntry × Bool × Nat) × Nat) :
    Run × List (List Nat) :=
  let x := xd.1
  let done := xd.2
  let run := acc.1
  let s := run.s
  let e := x.1
  let c := r.coefOf e
  let k := scalarsOf s c norm e x.2.2
  let n := (r.updT e 12).size
  let gs := loadFlat s w (r.updT e 12)
  let ws := loadFlat s w (r.updT e (bankWord 4 x.2.1))
  let s1 := if 1 ≤ c.nState then loadFlat s w (r.updT e (bankWord 6 x.2.1)) else List.replicate n Val.zero
  let s2 := if 2 ≤ c.nState then loadFlat s w (r.updT e (bankWord 8 x.2.1)) else List.replicate n Val.zero
  let prog := progOf (r.words? (progKeyOf (c.w 13)))
  let new := ((((gs.zip ws).zip (s1.zip s2))).take done).map fun v =>
    if c.program then programStep prog c k v.1.1 v.2.1 v.2.2 v.1.2 else tableStep c k v.1.1 v.2.1 v.2.2 v.1.2
  let put (a : Run) (word mode : Nat) (vals : List Val) : Run :=
    let t := r.updT e word
    let rc : RoundCtx := { roundCtx s w mode 2 t.id with base := e.elemBase }
    { a with out := (putTensor s (planesOf s w t) rc (vals.zipIdx.map fun v => { r := v.2 / t.e0, c := v.2 % t.e0, v := v.1 }) a.out).1 }
  let ina := !x.2.1
  let r1 := put run (bankWord 4 ina) rmRne (new.map UpdOut.w)
  let r2 := put r1 (bankWord 10 ina) c.rmode (new.map UpdOut.w)
  let r3 := if 1 ≤ c.nState then put r2 (bankWord 6 ina) c.rmode (new.map UpdOut.s1) else r2
  let r4 := if 2 ≤ c.nState then put r3 (bankWord 8 ina) c.rmode (new.map UpdOut.s2) else r3
  let sk := shardKey s w e ina
  (if done < n then r4 else { r4 with out := ((leBytes 8 ((x.2.2 + 1) % 2 ^ 64)).zipIdx sk).foldl (fun m b => mput m b.2 b.1) r4.out },
    acc.2 ++ [new.map UpdOut.inv])

/-- The counters of R178 for a pass 2: vectors, elements and invalid results, and in program mode its operations. The
table pipeline executes no operation of R164 (log 109). -/
def countP2 (s : State) (g : Nat) (r : CmdRec) (live : List ((UpdEntry × Bool × Nat) × Nat)) (made : List (List Nat)) : State :=
  let vu := pnVu g
  let per := live.map fun x =>
    let c := r.coefOf x.1.1
    let p := progOf (r.words? (progKeyOf (c.w 13)))
    let n := x.2
    let v := ceilDiv n 256
    (v, n, if c.program then p.n * v else 0, if c.program then (p.run.filter fun o => opSpecial (bits o 31 26)).length * v else 0)
  let s1 := (s.count vu 0 (per.map Prod.fst).sum).count vu 7 (per.map fun x => x.2.1).sum
  ((s1.count vu 1 (per.map fun x => x.2.2.1).sum).count vu 2 (per.map fun x => x.2.2.2).sum).count vu 5 (made.map List.sum).sum

/-- UPDATE_P2 runs (R326, R327). A tile that meets an uncorrectable unit ends it, and the tiles before it stand (R202; log 146). A
candidate word that reads uncorrectable fails it (R202, R372). -/
def runUpdateP2 (s : State) (g : Nat) (r : CmdRec) (p : UpdPlan) : State :=
  let w := whoOf s g r.ctx
  let norm := loadFlat s w ((r.tensor? 5).getD (tensorOf []))
  let s0 := noteSkips s w r p
  let vecs := updVectors r p.live
  let stop := updStop s w r true p.live vecs
  let tiles := (stop.map Prod.fst).getD (ceilDiv vecs.length 256)
  let ran := vecs.take (256 * tiles)
  let live := p.live.zipIdx.map fun x => (x.1, updDone r p.live ran x.2)
  let run := live.foldl (updateEntry w r norm) ({ s := s0 }, [])
  let s1 := raiseUpdNan (countP2 s0 g r live run.2) w r p ran fun i k => (run.2.getD i []).getD k 0
  let per (x : UpdEntry) : Nat :=
    let c := r.coefOf x
    let ks := [12, 4, 5] ++ (if 1 ≤ c.nState then [6, 7] else []) ++ (if 2 ≤ c.nState then [8, 9] else []) ++ [10]
    let b := (ks.map fun k => streamBytes (r.updT x k) 256).sum
    if c.program then max (progOf (r.words? (progKeyOf (c.w 13)))).n (ceilDiv b 1024) else max 4 (ceilDiv b 1024)
  let cad := (p.live.map fun x => per x.1).foldl max 4
  let st := updStatus p
  let end_ := (s.core g).aclk + (vecs.length - 1) * cad + 97
  let cand := setCandidates (raiseUpdBad s1 w r p.live vecs stop)
    ((live.filter fun x => decide ((r.updT x.1.1 12).size ≤ x.2)).map fun x => x.1.1.group)
  let fails := stop.isSome || cand.2.isSome
  let s2 := match cand.2 with
    | some u => raiseBad cand.1 w.part (some w.ctx) r.cmdId u
    | none => cand.1
  commitRun g .vq r w { run.1 with s := s2, tiles := tiles, status := if fails then stUncorrectable else st.1,
                                   detail := if fails then 0 else st.2 } end_ 0

/-- Norm term 0 is not finite: the command stops before any entry, the step fails (R327). -/
def normFault (s : State) (g : Nat) (r : CmdRec) (nan : Bool) : State :=
  let w := whoOf s g r.ctx
  let s1 := setEvent ((failStep s w.part w.ctx).count pnSched 5 1) pnSched 3
  commitRun g .vq r w { s := s1, summary := if nan then 1 else 2 } ((s.core g).aclk + 97) 0

/-- An evaluation window is open, or a command is left from it (R364). -/
def winLives (s : State) (x : Nat) (v : EvalWin) : Bool :=
  v.left.all fun l => l.any fun e => ((s.core e.1).ring x).outstanding.contains e.2

/-- An evaluation window, or a command left from one, holds a bank that a commit has made inactive since it opened: no
UPDATE_P2 enters (R306, R364). -/
def updateHeld (s : State) : Bool :=
  match trainingPart s with
  | none => false
  | some p => (s.part p).ctxs.any fun c => c.2.evalWins.any fun v =>
      winLives s c.1 v && v.map != viewBytes s (bankMapKey s s.sched.mapSel) 8192

/-- UPDATE_P1 (R324). -/
def execUpdateP1 (core : Nat) (s : State) : Out :=
  .next (match frontOf s core .vq opUpdateP1 with
    | none => s
    | some r =>
      let w := whoOf s core r.ctx
      let es := updEntries (r.words? 4)
      withDeps s core .vq r (match planBad s w es with
        | some e => failBad s core .vq r e.1 e.2
        | none =>
          let p := planUpdate s w es
          if wbWaits s core (r.tensor? 5) then s
          else runUpdateP1 (readSpans s false (mapSpans s es ++ shardSpans s w es ++ updReads s w r false p.live)) core r p))

/-- UPDATE_P2 (R326). -/
def execUpdateP2 (core : Nat) (s : State) : Out :=
  .next (match frontOf s core .vq opUpdateP2 with
    | none => s
    | some r =>
      let w := whoOf s core r.ctx
      let es := updEntries (r.words? 4)
      let y := (r.tensor? 5).getD (tensorOf [])
      withDeps s core .vq r (if updateHeld s then s
        else match badInSpans s (keySpans s w y) with
        | some u => failBad s core .vq r u (keySpans s w y)
        | none =>
          let q := (loadFlat s w y).headD Val.zero
          if q.isNan || (q.isInf && !q.isNeg) then normFault (readSpans s false (keySpans s w y)) core r q.isNan
          else match planBad s w es with
          | some e => failBad s core .vq r e.1 e.2
          | none =>
            let p := planUpdate s w es
            runUpdateP2 (readSpans s false (keySpans s w y ++ mapSpans s es ++ shardSpans s w es ++ updReads s w r true p.live)) core r p))

end Sys2Proof.Machine
end

