-- ==== Sys2Proof/Machine/Rings.lean ====
section
/-! DEFINITION. Command rings and dispatch: doorbells, the fetch and check of records, the commands that act at dispatch,
semaphores, completion of committed commands, and the crier's rings (R179–R208, R374). -/

namespace Sys2Proof.Machine

/-! ### The doorbell (R179) -/

def tailAddr (g x : Nat) : Nat := pnSeq g * 0x1000 + 0x20C + x * 0x20

/-- The address of the record of a ring count. -/
def recordKey (s : State) (g x i : Nat) : Nat := ringBase s g x + 64 * (i % 2 ^ ringLog2 s g x)

/-- The descriptors that a record names, as pointers with their lengths: those of its operand words, the partial tile descriptors
of a REDUCE_X, a deckle list, and an update list with the descriptors of its entries. -/
def namedPtrs (s : State) (w : Who) (c : CmdRec) : List (Nat × Nat) :=
  let op := c.opcode
  let direct := (((opRow? op).map OpRow.descs).getD []).map fun k => (c.w k, 64)
  let head (k n i : Nat) : Nat := if checkPtr s w (c.w k) n 64 = 0 then wordAt (viewWords s (ptrKey s w (c.w k)) (n / 4)) i else 0
  direct ++
    if op = opReduceX then [(c.w 4, 64 * bits (c.w 5) 7 0)]
    else if op = opAttnFwd ∨ op = opAttnBwd ∨ op = opAttnDecode then
      let k := if op = opAttnBwd then 10 else 9
      [(c.w k, 16 * (bits (head k 16 1) 23 0 + 1))]
    else if op = opUpdateP1 ∨ op = opUpdateP2 then
      let n := updCount [BitVec.ofNat 32 (head 4 64 0)]
      if checkPtr s w (c.w 4) (64 * (n + 1)) 64 = 0 then
        (c.w 4, 64 * (n + 1)) :: (updEntries (viewWords s (ptrKey s w (c.w 4)) (16 * (n + 1)))).flatMap fun e =>
          (List.range' 4 9).map fun k => (e.w k, 64)
      else []
    else []

/-- The descriptors that a record names, as they stand, by their keys. -/
def namedDescs (s : State) (w : Who) (key : Nat) : List (Nat × List Word) :=
  (namedPtrs s w { ctx := w.ctx, idx := 0, words := viewWords s key 16 }).filterMap fun e =>
    if e.1 ≠ 0 ∧ e.2 ≠ 0 ∧ checkPtr s w e.1 e.2 64 = 0 then some (ptrKey s w e.1, viewWords s (ptrKey s w e.1) (e.2 / 4)) else none

/-- The descriptors of the records that a doorbell newly covers, from ring count `i` on, are latched (R184; log 114). -/
def latchFrom (s : State) (g x i n : Nat) (r : Ring) : Ring :=
  { r with latched := (List.range n).foldl (fun m j =>
      let c := (i + j) % 2 ^ 16
      mput m c (namedDescs s (whoOf s g x) (recordKey s g x c))) r.latched }

/-- A value written to `SEQ.RING_TAILx`: it takes effect unless it places the tail more than 2^n records past the head. -/
def ringTail (s : State) (init g x : Nat) (value : Nat) : State :=
  let r := (s.core g).ring x
  let t := BitVec.ofNat 16 value
  let n := (t - r.head).toNat
  let old := (r.tail - r.head).toNat
  if 2 ^ ringLog2 s g x < n then ignoreWrite s 7 init (tailAddr g x) value
  else s.modRing g x fun r =>
    { (if ringPlaced s g x then latchFrom s g x (r.head.toNat + old) (n - old) r else r) with tail := t }

/-- DOORBELL (R179). -/
def execDoorbell (init core ctx : Nat) (value : Word) (behind : Bool) (s : State) : Out :=
  .next (ctlWrite s init (tailAddr core ctx) value.toNat behind fun t => ringTail t init core ctx value.toNat)

/-! ### Checks of the records that act at dispatch (R185) -/

def fetchSem (r : CmdRec) : Fetch :=
  if bits (r.w 4) 31 10 ≠ 0 ∨ 1 < bits (r.w 4) 9 8 then .refuse 0x01 0 else .ok []

/-- The check of a record before dispatch (R194). -/
def checkRecord (s : State) (w : Who) (r : CmdRec) : Fetch :=
  let reason := checkHeader r
  let op := r.opcode
  if reason ≠ 0 then .refuse reason 0
  else if op = opMatmul then fetchMatmul s w r false
  else if op = opMatmulT then fetchMatmul s w r true
  else if op = opAccRead then fetchAccRead s w r
  else if op = opReduceX then fetchReduceX s w r
  else if op = opAttnFwd then fetchAttnFwd s w r
  else if op = opAttnBwd then fetchAttnBwd s w r
  else if op = opAttnDecode then fetchAttnDecode s w r
  else if op = opCouch then fetchCouch s w r
  else if op = opConv then fetchConv s w r
  else if op = opVec ∨ op = opVecProg then fetchVec s w r
  else if op = opUpdateP1 ∨ op = opUpdateP2 then fetchUpdate s w r
  else if op = opMove ∨ op = opGather ∨ op = opScatter then fetchMover s w r
  else if op = opSignal ∨ op = opWait then fetchSem r
  else .ok []

/-! ### Fetch and dispatch (R180, R184, R196) -/

/-- Records of the ring that the tail covers and that have not been fetched. -/
def ringWaits (s : State) (g x : Nat) : Bool :=
  let r := (s.core g).ring x
  let n := (r.tail - r.fetched).toNat
  decide (0 < n) && decide (n ≤ 2 ^ ringLog2 s g x)

/-- The die controller dispatches records of a context on a core: the core is on, the context switched in and runnable,
its evaluation window open if it is an evaluation context (R364), and the controller in service. -/
def listDispatches (s : State) (g x : Nat) : Bool :=
  let c := (s.part ((partOfCore s g).getD 4)).ctx x
  coreOn s g && ctxRuns s g x && (dieCtlOf s g).running && !(dieCtlOf s g).halted && (!c.isEval || c.evalWins.any fun v => v.left.isNone)
/-- Dispatch from the ring goes on: no record stops it. -/
def mayDispatch (s : State) (g x : Nat) : Bool :=
  listDispatches s g x && !((s.core g).ring x).stopped && ((s.core g).ring x).hold.isNone

/-- The recompute list of the context that this core runs: the almanac ring and entry, the next record's address, and the
records left (R359). -/
def recomputeNext (s : State) (g x : Nat) : Option (Nat × Entry × Nat × Nat) :=
  let k := (partOfCore s g).getD 4 * 8 + x
  ((s.die (g / 40)).ring k).entries.findSome? fun e => match e.list with
    | some (addr, c, left) => if c = g ∧ e.phase = .inFlight then some (k, e, addr, left) else none
    | none => none

/-- A record waits for the latest records of the tags it names, or depends on a failed one (R189, R196). -/
def resolveDeps (r : Ring) (c : CmdRec) : CmdRec :=
  [c.dep0, c.dep1].foldl (fun (c : CmdRec) t =>
    if t = 0 then c
    else match mget? r.tags t with
    | some (i, .waiting) => { c with deps := if c.deps.contains i then c.deps else c.deps ++ [i] }
    | some (_, .failed) => { c with depFailed := true }
    | _ => c) c

/-- The record counts as dispatched: the next one of the ring follows it, and its tag names it from now on. -/
def enroll (c : CmdRec) (r : Ring) : Ring :=
  { r with fetched := if c.recompute.isNone then r.fetched + 1 else r.fetched, outstanding := r.outstanding ++ [c.idx],
           latched := if c.recompute.isNone then merase r.latched c.idx else r.latched,
           tags := if c.tag = 0 then r.tags else mput r.tags c.tag (c.idx, .waiting) }

/-- A command that arrives closes the open gather group of its core: a BOUNDARY, and a command of the array queue that does
not match the group, where no earlier one stands before it in the queue; else it does so when it reaches the queue's front
(R108; log 34). -/
def arrivalCloses (s : State) (g : Nat) (c : CmdRec) : Bool :=
  c.opcode == opBoundary ||
    (c.queue? == some .aq && (s.core g).aq.isEmpty && !(isGatherReq s g c && matchesOpen s g c))

/-- A checked record goes to its queue, or acts at dispatch. -/
def dispatchTo (s0 : State) (g : Nat) (c : CmdRec) : State :=
  let s := if arrivalCloses s0 g c then closeGather s0 g else s0
  match c.queue? with
  | some q => s.modCore g fun k => k.setQueue q (k.queue q ++ [c])
  | none =>
    (s.modRing g c.ctx fun r =>
      if c.opcode = opNop ∨ c.opcode = opSignal then { r with acting := r.acting ++ [c] }
      else { r with hold := some c, waited := 0, holdAt := s.bell.count, boundaryAt := none, released := false }).count
        (pnSeq g) 3 1

/-- Correctable errors under what was read for a record are corrected (R372). -/
def readFor (s : State) (w : Who) (ds : List (Nat × List Word)) (c : CmdRec) : State :=
  readSpans s false (ds.map fun e => (ptrKey s w (if e.1 < 16 then c.w e.1 else e.1 % 2 ^ 32), 4 * e.2.length))

/-- What the check of a record decides. A decode member that ends here tells its lead (R267). -/
def dispatchChecked (s : State) (g : Nat) (c : CmdRec) : State :=
  let w : Who := { whoOf s g c.ctx with latched := c.latched }
  match checkRecord s w c with
  | .ok ds =>
    let r := c.withDescs ds
    let s1 := readFor s w ds c
    dispatchTo (if c.opcode = opUpdateP1 ∨ c.opcode = opUpdateP2 then noteBanks s1 w r else s1) g r
  | .refuse reason ptr => refuseCmd (decodeChecked s g c) g none c reason ptr
  | .bad u spans => completeCmd (decodeChecked (raiseBadIn s w.part (some c.ctx) c.cmdId u spans) g c) g none c { status := stUncorrectable }
  | .fails st code detail => failCmd (decodeChecked s g c) g none c st code detail

/-- The queue of the record at a key has room (R180). -/
def queueRoom (s : State) (g : Nat) (c : CmdRec) : Bool :=
  match c.queue? with
  | some q => decide (((s.core g).queue q).length < 32)
  | none => true

/-- A record at a key is fetched: read, checked and dispatched, if its queue has room and, where it would hold its ring,
nothing else does; `i` is its number, `src` the almanac entry whose list it belongs to. -/
def fetchRecord (s : State) (g x i key : Nat) (src : Option (Nat × Nat × Nat)) (took : State → State) : State :=
  let r := (s.core g).ring x
  match badUnit s key 64 with
  | some u =>
    let c : CmdRec := { ctx := x, idx := i, words := [], recompute := src }
    let s1 := raiseBadIn ((took s).modRing g x (enroll c)) ((partOfCore s g).getD 4) (some x) 0 u [(key, 64)]
    completeCmd s1 g none c { status := stUncorrectable }
  | none =>
    let c := resolveDeps r { ctx := x, idx := i, words := viewWords s key 16, recompute := src,
                             latched := if src.isNone then mget [] r.latched i else [] }
    if queueRoom s g c && (c.queue?.isSome || r.hold.isNone) then
      dispatchChecked ((took (readSpans s false [(key, 64)])).modRing g x (enroll c)) g c
    else s

/-- RECORD_FETCH (R180): the next record is fetched, checked and dispatched: one of a recompute list of the context, which
goes ahead of its ring (R359), or the next of the ring. -/
def execRecordFetch (core ctx : Nat) (s : State) : Out :=
  .next (match recomputeNext s core ctx with
    | some (k, e, addr, left) =>
      if listDispatches s core ctx then
        fetchRecord s core ctx (2 ^ 16 + e.pos * 2 ^ 12 + left) (keyOf s (whoOf s core ctx) addr) (some (core / 40, k, e.pos))
          fun t => modEntry t (core / 40) k e.pos fun e =>
            { e with list := if left = 1 then none else some (addr + 64, core, left - 1) }
      else s
    | none =>
      if mayDispatch s core ctx && ringWaits s core ctx && ringPlaced s core ctx then
        let i := ((s.core core).ring ctx).fetched.toNat
        fetchRecord s core ctx i (recordKey s core ctx i) none id
      else s)

/-! ### Records that act at dispatch (R185, R198, R200) -/

/-- The first record of an opcode that acts in a ring. -/
def actingRec (s : State) (g x op : Nat) : Option CmdRec :=
  if ctxRuns s g x && coreOn s g then ((s.core g).ring x).acting.find? fun c => c.opcode == op else none

/-- The record that holds a ring, if it has this opcode. -/
def holdingRec (s : State) (g x op : Nat) : Option CmdRec :=
  if ctxRuns s g x && coreOn s g then (((s.core g).ring x).hold).bind fun c => if c.opcode = op then some c else none
  else none

/-- A record leaves the place where it acted, and completes. -/
def completeActing (s : State) (g : Nat) (c : CmdRec) (e : Completion) : State :=
  completeCmd (s.modRing g c.ctx fun r => { r with acting := r.acting.filter fun k => k.idx != c.idx }) g none c e
def completeHold (s : State) (g : Nat) (c : CmdRec) (e : Completion) : State :=
  completeCmd (s.modRing g c.ctx fun r => { r with hold := none, waited := 0, boundaryAt := none, released := false })
    g none c e

/-- Every earlier record of the ring has completed. -/
def earlierDone (s : State) (g : Nat) (c : CmdRec) : Bool := ((s.core g).ring c.ctx).outstanding.head? == some c.idx

/-- NOP (R185). -/
def execNop (core ctx : Nat) (s : State) : Out :=
  .next (match actingRec s core ctx opNop with
    | none => s
    | some c => match depsOf c with
      | .waiting => s
      | .met => completeActing s core c {}
      | .failed => completeActing s core c { status := stDepFailed })

/-- SIGNAL (R198): once every earlier record has completed, whatever their statuses (R189). -/
def execSignal (core ctx : Nat) (s : State) : Out :=
  .next (match actingRec s core ctx opSignal with
    | none => s
    | some c =>
      let p := (partOfCore s core).getD 4
      let n := bits (c.w 4) 7 0
      let done := if bits (c.w 4) 9 8 = 0 then addSem s p ctx n (c.w 5) else setSem s p ctx n (c.w 5)
      if earlierDone s core c then
        match (if bits (c.w 4) 9 8 = 0 then badUnit s (semKey s p ctx n) 4 else none).or done.2 with
        | none => completeActing done.1 core c {}
        | some u => completeActing (raiseBad s p (some ctx) c.cmdId u) core c { status := stUncorrectable }
      else s)

/-- The condition of a WAIT holds. -/
def waitHolds (s : State) (p : Nat) (c : CmdRec) : Bool :=
  let v := semValue s p c.ctx (bits (c.w 4) 7 0)
  if bits (c.w 4) 9 8 = 0 then decide (c.w 5 ≤ v) else v == c.w 5

/-- WAIT (R198): dispatch goes on when the condition holds. -/
def execWait (core ctx : Nat) (s : State) : Out :=
  .next (match holdingRec s core ctx opWait with
    | none => s
    | some c =>
      let p := (partOfCore s core).getD 4
      match depsOf c with
      | .waiting => s
      | .failed => completeHold s core c { status := stDepFailed }
      | .met => match badUnit s (semKey s p ctx (bits (c.w 4) 7 0)) 4 with
        | some u => completeHold (raiseBad s p (some ctx) c.cmdId u) core c { status := stUncorrectable }
        | none => if waitHolds s p c then completeHold s core c {} else s)

/-- WAIT_TIMEOUT (R198): the timeout passes first, and dispatch from the ring stops. -/
def execWaitTimeout (core ctx : Nat) (s : State) : Out :=
  .next (match holdingRec s core ctx opWait with
    | none => s
    | some c =>
      let p := (partOfCore s core).getD 4
      if c.w 6 ≠ 0 ∧ c.w 6 ≤ ((s.core core).ring ctx).waited ∧ depsOf c = .met ∧ waitHolds s p c = false then
        (completeHold s core c { status := stTimeout }).modRing core ctx fun r => { r with stopped := true }
      else s)

/-- FENCE (R200). -/
def execFence (core ctx : Nat) (s : State) : Out :=
  .next (match holdingRec s core ctx opFence with
    | none => s
    | some c => if earlierDone s core c then completeHold s core c {} else s)

/-- A due time joins those that wait, the earliest first. -/
def insertDue (t : Long) : List Long → List Long
  | [] => [t]
  | a :: r => if t < a then t :: a :: r else a :: insertDue t r

/-- BOUNDARY (R200): once every earlier record has completed it closes the core's gather group, and waits: in the
partition of the TRAINING job for the next step boundary, elsewhere for a partition boundary that it makes 256 bt after
its dispatch, or at once where the earlier records took longer (log 32). In the tick after that boundary it completes
(R363). -/
def execBoundary (core ctx : Nat) (s : State) : Out :=
  .next (match holdingRec s core ctx opBoundary with
    | none => s
    | some c =>
      let p := (partOfCore s core).getD 4
      let r := (s.core core).ring ctx
      if r.released then (if r.boundaryAt.getD 0 < s.bell.count then completeHold s core c {} else s)
      else if r.boundaryAt.isNone && earlierDone s core c then
        let s1 := closeGather s core
        if trainingPart s = some p then s1.modRing core ctx fun r => { r with boundaryAt := some s.bell.count }
        else
          let at_ : Long := if r.holdAt + 256 ≤ s.bell.count then s.bell.count else r.holdAt + 256
          (s1.modRing core ctx fun r => { r with boundaryAt := some at_ }).modPart p fun v =>
            { v with boundaries := insertDue at_ v.boundaries }
      else s)

/-! ### Landing and completion (R187, R202, R374) -/

/-- A gather group that could not issue when it was called to is tried again (R89). -/
def retryGather (s : State) (g : Nat) : State := if (s.core g).gather.any GatherGroup.due then issueGather s g else s

/-- TILE_RESIDENT (R374): the oldest landing tile has been banded and is resident. -/
def execTileResident (core : Nat) (s : State) : Out :=
  .next (match (s.core core).landing with
    | [] => s
    | _ :: rest => retryGather ((s.modCore core fun c => { c with landing := rest }).count (pnLs core) 0 1) core)

/-- The oldest committed command of a queue. -/
def oldestFlight (s : State) (g : Nat) (q : QueueId) : Option InFlight :=
  (s.core g).inflight.find? fun f => f.queue == q

/-- A list without its first element that has a property. -/
def eraseFirst {α : Type} (p : α → Bool) : List α → List α
  | [] => []
  | a :: r => if p a then r else a :: eraseFirst p r

/-- WRITEBACK_ACK (R202): the last write-back of the queue's oldest committed command is acknowledged, and it completes. -/
def execWritebackAck (core : Nat) (queue : QueueId) (s : State) : Out :=
  .next (match oldestFlight s core queue with
    | none => s
    | some f =>
      if f.linkWait ≠ 0 then s
      else
        let s1 := s.modCore core fun c => { c with inflight := eraseFirst (fun k => k.queue == queue) c.inflight }
        completeCmd s1 core (some queue) f.cmd
          { status := f.status.toNat, summary := f.summary.toNat, rowEmpty := f.rowEmpty, detail := f.detail.toNat,
            tiles := f.tiles, endAt := f.endAt + 1 })

/-! ### The crier's rings (R205, R539, R540) -/

/-- The word of a trap ring that holds its size and its enable. -/
def trapRingHi (s : State) (k : Nat) : Nat := s.regN pnCrier (0x204 + k * 0x20)
def trapRingLog2 (s : State) (k : Nat) : Nat :=
  let n := bits (trapRingHi s k) 20 16
  if 6 ≤ n ∧ n ≤ 16 then n else 6

/-- The slot of a record meets the grant of a partition that the ring is not of. -/
def slotForeign (s : State) (k key : Nat) : Bool :=
  decide (k < 4) && (List.range 4).any fun p => p != k &&
    overlap (bits key 25 0) (bits key 25 0 + 64) (hubGrant s p).1 ((hubGrant s p).1 + (hubGrant s p).2)

/-- A record goes to ring `k`, or is dropped where the ring is full or disabled. A partition's ring never writes another
partition's hub SRAM (R7; log 145). -/
def ringRecord (record : BitVec 512) (s : State) (k : Nat) : State :=
  let r := s.crierRing k
  let full := (r.tail - r.head).toNat == 2 ^ trapRingLog2 s k
  let key := s.regAddr pnCrier (0x200 + k * 0x20) + 64 * (r.tail.toNat % 2 ^ trapRingLog2 s k)
  if (trapRingHi s k).testBit 31 && !full && !(slotForeign s k key) then
    (memStore s key (leBytes 64 record.toNat)).1.setCrierRing k { r with tail := r.tail + 1 }
  else
    setEvent (s.setCrierRing k { r with dropped := if r.dropped = BitVec.allOnes 32 then r.dropped else r.dropped + 1 })
      pnCrier 1

/-- The controller that serves the source core of a recorded trap halts where it cannot service the trap: its cores issue no
new command (R21, R542). Which traps these are is open (log 95). -/
def serviceTrap (record : BitVec 512) (s : State) : State :=
  let g := bits record.toNat 31 24
  if g < 160 && Config.cannotService record && !(dieCtlOf s g).halted then
    setEvent (setDieCtlOf s g { dieCtlOf s g with halted := true, haltCode := BitVec.ofNat 8 record.toNat }) (pnDieCtlOf g) 0
  else s

/-- TRAP_RECORD (R205): the crier records the oldest trap raised. -/
def execTrapRecord (s : State) : Out :=
  .next (match s.crier.pending with
    | [] => s
    | t :: rest =>
      let s1 : State := { s with crier := { s.crier with pending := rest } }
      serviceTrap t.record (t.rings.foldl (ringRecord t.record) (s1.count pnCrier 0 1)))

end Sys2Proof.Machine
end

