-- ==== Sys2Proof/Machine/Schedule.lean ====
section
/-! DEFINITION. The schedule engine: the records of the schedule table, their checks, and their evaluation in FP64 at a
boundary (R321–R323). -/

namespace Sys2Proof.Machine

/-- A schedule record. -/
structure SchedRec where
  words : List Word

def SchedRec.w (r : SchedRec) (k : Nat) : Nat := wordAt r.words k
def SchedRec.decay (r : SchedRec) : Nat := bits (r.w 0) 2 0
def SchedRec.restart (r : SchedRec) : Bool := (r.w 0).testBit 3
def SchedRec.follow (r : SchedRec) : Bool := (r.w 0).testBit 4
def SchedRec.warmup (r : SchedRec) : Nat := r.w 1
def SchedRec.period (r : SchedRec) : Nat := r.w 2
/-- The FP64 value whose low word is word `k`. -/
def SchedRec.f (r : SchedRec) (k : Nat) : Val := decodeFp64 (longAt r.words k)

/-- A record has a reserved bit or code, or a value outside its range in a field that it uses (R323). -/
def SchedRec.bad (r : SchedRec) : Bool :=
  let zero := Val.zero
  let one : Val := .fin 1 0
  let peak := r.f 4
  let falls := [1, 2, 4].contains r.decay
  bits (r.w 0) 31 5 != 0 || r.w 3 != 0 || r.w 14 != 0 || r.w 15 != 0 || decide (4 < r.decay) ||
    (r.restart && r.decay == 3) || !(zero.lt peak) || !(zero.le (r.f 12)) ||
    ((falls || r.restart) && r.period == 0) ||
    (falls && !(zero.le (r.f 6) && (r.f 6).le peak)) ||
    (r.decay == 4 && !(zero.lt (r.f 8) && (r.f 8).le one)) ||
    (r.restart && !(one.le (r.f 10)))

/-! ### FP64 (R322) -/

def f64 (n : Nat) : Val := fp64 (.fin n 0)
def f64add (a b : Val) : Val := fp64 (a.add b)
def f64sub (a b : Val) : Val := fp64 (a.sub b)
def f64mul (a b : Val) : Val := fp64 (a.mul b)
def f64div (a b : Val) : Val := fp64 (divVal a b)
def f64sqrt : Val → Val
  | .fin m e => if m ≤ 0 then Val.zero else fp64 (sqrtSticky m.natAbs e)
  | v => v
/-- The FP64 value nearest π. -/
def f64pi : Val := .fin 0x1921FB54442D18 (-51)

/-- An FP64 neighbour of a value that an elementary function gives: below or above it, as the function is (log 6). -/
def pick64 (op input : Nat) (j : Nat) (v : Val) : Val :=
  decodeFp64 (roundIeee ffFp64 0x7FF8000000000000
    (if Config.schedPick op (BitVec.ofNat 64 input) j then rmRup else rmRdn) 0 v).1

def f64cos (x : Val) : Val :=
  match x with
  | .fin m e => pick64 0 (toFp64 x) 0 (cosNear m e)
  | v => v

/-- GAMMA^j, one function of GAMMA and the integer j. -/
def f64pow (g : Val) (j : Nat) : Val :=
  match g with
  | .fin m e => pick64 1 (toFp64 g) j (.fin (m ^ j) (e * (j : Int)))
  | v => v

/-- The integer part of a non-negative value. -/
def valFloor : Val → Nat
  | .fin m e => if 0 ≤ e then m.natAbs * 2 ^ e.toNat else m.natAbs / 2 ^ (-e).toNat
  | _ => 0

/-- The period that follows one: min(floor(v), 2^32 − 1), which of an infinity is 2^32 − 1. -/
def nextPeriod (v : Val) : Nat :=
  match v with
  | .inf _ => 2 ^ 32 - 1
  | v => min (valFloor v) (2 ^ 32 - 1)

/-- The restart loop: steps into the present cycle and its period. Every period is at least 1, so `j` rounds suffice. -/
def restartCycle (mul : Val) : Nat → Nat → Nat → Nat × Nat
  | 0, j, p => (j, p)
  | n + 1, j, p => if p ≤ j then restartCycle mul n (j - p) (nextPeriod (f64mul (f64 p) mul)) else (j, p)

/-- The learning rate of a record at step `n`. -/
def SchedRec.lr (r : SchedRec) (n : Nat) : Val :=
  let peak := r.f 4
  let low := r.f 6
  if n < r.warmup then f64div (f64mul peak (f64 (n + 1))) (f64 r.warmup)
  else
    let j0 := n - r.warmup
    let c := if r.restart then restartCycle (r.f 10) (j0 + 1) j0 r.period else (min j0 r.period, r.period)
    let x := f64div (f64 c.1) (f64 c.2)
    if r.decay = 0 then peak
    else if r.decay = 1 then
      f64add low (f64div (f64mul (f64sub peak low) (f64add (f64 1) (f64cos (f64mul f64pi x)))) (f64 2))
    else if r.decay = 2 then f64add peak (f64mul (f64sub low peak) x)
    else if r.decay = 3 then f64mul peak (f64sqrt (f64div (f64 (max r.warmup 1)) (f64 (n + 1))))
    else Val.max low (f64mul peak (f64pow (r.f 8) c.1))

/-- The weight decay that goes with a learning rate. -/
def SchedRec.wd (r : SchedRec) (lr : Val) : Val :=
  if r.follow then f64div (f64mul (r.f 12) lr) (r.f 4) else r.f 12

/-! ### Evaluation (R323) -/

/-- An address that names an area of hub SRAM (R561). -/
def hubArea (a n align : Nat) : Bool :=
  tierOf a == 2 && bits a 43 26 == 0 && a % align == 0 && decide (bits a 25 0 + n ≤ hubSize) && decide (a < 2 ^ 48)

/-- UNCORRECTABLE_MEM with the SCHED page as its source (R311, R323). -/
def schedBad (s : State) (u : Nat) : State :=
  raiseTrap s pnSched { code := trapUncorrectable, level := 2, part := trainingPart s, detail := fields [(0, 7), (16, u)] }

/-- Record `k` is evaluated: a record that cannot be keeps its values and is marked. -/
def evalRecord (key n : Nat) (s : State) (k : Nat) : State :=
  let r : SchedRec := { words := viewWords s (key + 64 * k) 16 }
  if (badUnit s (key + 64 * k) 64).isSome || r.bad then
    { s with sched := { s.sched with recRejected := s.sched.recRejected ||| BitVec.ofNat 8 (2 ^ k) } }
  else
    let lr := r.lr n
    { s with sched := { s.sched with
        lr := mset 0 s.sched.lr k (BitVec.ofNat 32 (toFp32 rmRne lr)),
        wd := mset 0 s.sched.wd k (BitVec.ofNat 32 (toFp32 rmRne (r.wd lr))) } }

/-- The engine evaluates every record of the table in force with the present epoch. A TABLE that names no area of hub
SRAM names no table. -/
def evalSchedule (s : State) : State :=
  let a := s.regAddr pnSched 0x100
  if hubArea a 512 512 then
    let s1 := match badUnit s a 512 with
      | some u => schedBad s u
      | none => correctSpan s a 512
    (List.range 8).foldl (evalRecord a s.sched.epoch.toNat) s1
  else s

end Sys2Proof.Machine
end

