-- ==== Sys2Proof/Machine/Boundary.lean ====
section
/-! DEFINITION. Boundaries: the pending values that a boundary applies, partition boundaries, and the step boundary with
the decision of the toll (R13–R16, R189, R200, R311, R333, R334, R360–R363, R406). -/

namespace Sys2Proof.Machine

/-! ### Scopes (R16) -/

def pageTy (pn : Nat) : Nat := (page? pn).elim 0 PageId.ty

/-- The partition in whose scope a latched word of a page lies; none for device scope. -/
def scopeOf (s : State) (pn off : Nat) : Option Nat :=
  match page? pn with
  | none => none
  | some i =>
    match i.core with
    | some g => partOfCore s g
    | none => if i.ty = ptPart ∧ off ≠ 0x168 then some i.inst else none

/-- A boundary of partition `p` (none: of no partition), with device scope or without, applies a latched word. -/
def applies (s : State) (p : Option Nat) (dev : Bool) (pn off : Nat) : Bool :=
  match scopeOf s pn off with
  | some q => p == some q
  | none => dev

/-! ### Values that take effect -/

def pendingAt? (s : State) (pn off : Nat) : Option Word := mget? (s.page pn).shadow off
def dropShadow (s : State) (pn off : Nat) : State := s.modPage pn fun p => { p with shadow := merase p.shadow off }
def latchMask (pn off : Nat) : Word := BitVec.ofNat 32 ((regSpec? (pageTy pn) off).elim 0 RegSpec.latch)

/-- The latched fields of a word take a value, and nothing is pending there any more. -/
def latchIn (s : State) (pn off : Nat) (w : Word) : State :=
  (dropShadow s pn off).setReg pn off
    ((s.reg pn off &&& ~~~(latchMask pn off)) ||| (w &&& latchMask pn off))

/-- A pending word takes effect. -/
def applyWord (s : State) (e : Nat × Nat) : State :=
  match pendingAt? s e.1 e.2 with
  | none => s
  | some w => latchIn s e.1 e.2 w

/-- Every pending word, by page and offset. -/
def pendingWords (s : State) : List (Nat × Nat) := s.pages.flatMap fun e => e.2.shadow.map fun w => (e.1, w.1)

/-- SHARE as it counts (R406). -/
def titheShare (w : Nat) : Nat := max 1 (bits w 7 0)

/-- A partition's pending tithe: SHARE only if the shares then sum to at most 256, BORROW always (R406). -/
def applyTithe (s : State) (p : Nat) : State :=
  let pn := pnPart p
  match pendingAt? s pn 0x168 with
  | none => s
  | some w =>
    let others := (((List.range 4).filter fun q => q != p).map fun q => titheShare (s.regN (pnPart q) 0x168)).sum
    if others + titheShare w.toNat ≤ 256 then latchIn s pn 0x168 w
    else
      let s1 := latchIn s pn 0x168 ((w &&& 0x100#32) ||| (s.reg pn 0x168 &&& 0xFF#32))
      recordLatchRefusal (s1.modPart p fun v => { v with titheRejected := true }) pn 0x168 w.toNat

/-- An address pair of the SCHED page takes effect, or is rejected: the value in force stays, the rejection is recorded
and SCHED_REJECT raised (R323, R329, R561). -/
def applyAddress (s : State) (off : Nat) (valid : Nat → Bool) : State :=
  let lo := pendingAt? s pnSched off
  let hi := pendingAt? s pnSched (off + 4)
  if lo.isNone ∧ hi.isNone then s
  else
    let l := lo.getD (s.reg pnSched off)
    let h := hi.getD (s.reg pnSched (off + 4))
    if valid (l.toNat + 2 ^ 32 * bits h.toNat 15 0) then applyWord (applyWord s (pnSched, off)) (pnSched, off + 4)
    else
      let s1 := dropShadow (dropShadow s pnSched off) pnSched (off + 4)
      setEvent (if lo.isSome then recordLatchRefusal s1 pnSched off l.toNat
        else recordLatchRefusal s1 pnSched (off + 4) h.toNat) pnSched 4

/-- TABLE names 512 bytes of hub SRAM; FREEZE_MAP 8 KiB, or nothing (R561). -/
def tableValid (a : Nat) : Bool := hubArea a 512 512
def freezeValid (a : Nat) : Bool := a == 0 || hubArea a 0x2000 0x2000

/-- A rotary base is finite and above 1 (R243). -/
def baseValid (w : Word) : Bool :=
  match decodeFp32 w.toNat with
  | .fin m e => vOne.lt (.fin m e)
  | _ => false

/-- The fields of a ROT page take effect: BASE unless it is rejected, and then the table of R230, off where ROT_PAIRS is
0 (R242–R244). -/
def applyRot (s : State) (g : Nat) : State :=
  let pn := pnRot g
  if (pendingAt? s pn 0x010).isNone ∧ (pendingAt? s pn 0x100).isNone then s
  else
    let s1 := applyWord s (pn, 0x010)
    let s2 := match pendingAt? s1 pn 0x100 with
      | none => s1
      | some w =>
        if baseValid w then latchIn s1 pn 0x100 w
        else recordLatchRefusal ((dropShadow s1 pn 0x100).modCore g fun c => { c with rotRejected := true }) pn 0x100 w.toNat
    let ctl := s2.regN pn 0x010
    s2.modCore g fun c =>
      { c with rot := if bits ctl 9 2 = 0 then none
                 else some { pairs := bits ctl 9 2, split := ctl.testBit 1, enabled := ctl.testBit 0, base := s2.reg pn 0x100 } }

/-- A boundary applies every pending value of its scopes at one instant (R13, R16). -/
def applyBoundary (s : State) (p : Option Nat) (dev : Bool) : State :=
  let todo := (pendingWords s).filter fun e => applies s p dev e.1 e.2
  let s1 := if dev then (List.range 4).foldl applyTithe s else s
  let s2 := if dev then applyAddress (applyAddress s1 0x100 tableValid) 0x108 freezeValid else s1
  let rots := (todo.filter fun e => pageTy e.1 == ptRot).filterMap fun e => (page? e.1).bind PageId.core
  let s3 := rots.foldl applyRot s2
  todo.foldl applyWord s3

/-! ### What a boundary ends -/

/-- The step-failed state of a partition's contexts is cleared (R189). -/
def clearFailed (s : State) (p : Nat) : State :=
  s.modPart p fun v => { v with ctxs := (List.range 8).foldl (fun m x => mset {} m x { mget {} m x with stepFailed := false }) v.ctxs }

/-- The bytes released by a partition's rules count from 0 again (R490). -/
def clearReleased (s : State) (p : Nat) : State := modSealed s p fun v => { v with released := [] }

/-- BOUNDARY records of a partition that wait for this boundary are released (R200). -/
def releaseRings (s : State) (p : Nat) (here : Long → Bool) : State :=
  (coresOfPart s p).foldl (fun (t : State) g => t.modCore g fun c =>
    { c with rings := c.rings.map fun e => (e.1, match e.2.boundaryAt with
      | some at_ => if here at_ then { e.2 with released := true, boundaryAt := some s.bell.count } else e.2
      | none => e.2) }) s

/-! ### Partition boundaries (R16, R189, R200, R490) -/

/-- A partition boundary: the pending values of the partition, with those of device scope while no TRAINING job is on the
device; what the step before it left is cleared. -/
def partitionBoundary (s : State) (p : Nat) : State :=
  let dev := (trainingPart s).isNone
  let s1 := applyBoundary s (some p) dev
  let s2 := clearFailed s1 p
  if dev then clearReleased s2 p else s2

/-- PARTITION_BOUNDARY (R16, R200): the partition boundary that falls due next. -/
def execPartitionBoundary (part : Nat) (s : State) : Out :=
  .next (match (s.part part).boundaries with
    | [] => s
    | t :: rest =>
      if t ≤ s.bell.count then
        let s1 := s.modPart part fun v => { v with boundaries := rest }
        let s2 := if trainingPart s = some part then s1 else partitionBoundary s1 part
        releaseRings s2 part fun b => b == t
      else s)

def jobCmdAddr (p : Nat) : Nat := pnPart p * 0x1000 + 0x128
def ctxCmdAddr (p : Nat) : Nat := pnPart p * 0x1000 + 0x130

/-- BOUNDARY written to `PART.JOB_CMD` (R474). -/
def jobBoundary (s : State) (init p value : Nat) : State :=
  if trainingPart s = some p then ignoreWrite s 6 init (jobCmdAddr p) value else partitionBoundary s p

/-- JOB_CMD_BOUNDARY (R16, R474). -/
def execJobCmdBoundary (init : Sender) (part : Nat) (s : State) : Out :=
  .next (ctlWrite s init.id (jobCmdAddr part) 3 init.behind fun t => jobBoundary t init.id part 3)

/-! ### The candidate map (R311) -/

/-- One word of the active map is copied to the candidate map, unless it cannot be read; the second part names the first
word that could not. -/
def copyMapWord (acc : State × Option Nat) (i : Nat) : State × Option Nat :=
  let src := bankMapKey acc.1 acc.1.sched.mapSel + 8 * i
  let dst := bankMapKey acc.1 (!acc.1.sched.mapSel) + 8 * i
  match badUnit acc.1 src 8 with
  | some u => (acc.1, acc.2.or (some u))
  | none =>
    let s1 := correctSpan acc.1 src 8
    ((memStore s1 dst (viewBytes s1 src 8)).1, acc.2)

/-- The candidate map is set equal to the active map. -/
def copyMap (s : State) : State × Option Nat :=
  let r := (List.range 1024).foldl copyMapWord (s, none)
  (match r.2 with | some u => schedBad r.1 u | none => r.1, r.2)

/-! ### The decision (R333, R334) -/

/-- The training contexts of the TRAINING job: those that are no evaluation contexts (R307, R331). -/
def trainingCtxs (s : State) : List (Nat × Nat) :=
  match trainingPart s with
  | none => []
  | some p => ((s.part p).jobs.filter Job.training).flatMap fun j =>
      ((List.range 8).filter fun x => j.ctxMask.getLsbD x && !j.evalMask.getLsbD x).map fun x => (p, x)

/-- Every context of the TRAINING job is suspended (R204, R333). -/
def suspendTraining (s : State) : State :=
  match trainingPart s with
  | none => s
  | some p => ((s.part p).jobs.filter Job.training).foldl (fun (t : State) j =>
      (List.range 8).foldl (fun (t : State) x =>
        if j.ctxMask.getLsbD x then t.modCtx p x fun c => { c with phase := .suspended } else t) t) s

def tollCode : TollResult → Nat
  | .commit => 1
  | .fail => 2
  | .split => 3

/-- The device acts on the toll's result: FAIL where no TOLL fired in the step (R362) or its result is not held (R334). -/
def decideToll (s : State) : State :=
  let late := s.sched.tollSeen && s.sched.held.isNone
  let result := s.sched.held.getD .fail
  let s1 : State := { s with sched := { s.sched with
    tollResult := BitVec.ofNat 2 (tollCode result), resultLate := late,
    mapSel := if result = .commit then !s.sched.mapSel else s.sched.mapSel,
    epoch := if result = .commit then s.sched.epoch + 1 else s.sched.epoch } }
  let s2 := match result with
    | .commit => s1.count pnSched 0 1
    | .fail => setEvent (s1.count pnSched 1 1) pnSched 0
    | .split => suspendTraining (setEvent (s1.count pnSched 2 1) pnSched 1)
  if late then setEvent s2 pnSched 2 else s2

/-- The toll is over. -/
def clearToll (s : State) : State :=
  { s with sched := { s.sched with childVotes := [], combined := none, tollTime := none, tollEntry := none, held := none,
                                   heldAt := 0, tollSeen := false, lateFails := [] } }

/-- The TOLL entry of the step completes at the boundary; one whose result is late has missed (R334, R353). -/
def endTollEntry (s : State) (boundary : Nat) : State :=
  match s.sched.tollEntry with
  | none => s
  | some (d, k, pos) =>
    match entryOf s d k pos with
    | none => s
    | some e =>
      let s1 := if s.sched.held.isNone then noteMiss s d k e boundary true else s
      if e.phase = .done then s1 else finishEntry s1 d k e

/-- The state of the step that begins: step-failed states cleared, those that failed late or met a damaged map set again
(R189, R311). -/
def beginStep (s : State) (late : List (Nat × Nat)) (mapBad : Bool) : State :=
  let s1 := match trainingPart s with
    | some p => clearFailed s p
    | none => s
  ((if mapBad then trainingCtxs s else []) ++ late).foldl
    (fun (t : State) e => t.modCtx e.1 e.2 fun c => { c with stepFailed := true }) s1

/-- The partition's open gather groups are closed (R108, R360). -/
def closeGathers (s : State) (p : Nat) : State := (coresOfPart s p).foldl closeGather s

/-- After a relock the almanacs are timed again from the first step boundary on (R348). -/
def retime (s : State) : State :=
  if s.bell.relocked then { s with bell := { s.bell with selfTimed := false, relocked := false } } else s

/-- The step boundary: the decision, the candidate map, the pending values of device scope and of the training partition,
the schedule, and the start of the next step, in one tick (R360). -/
def stepBoundary (s : State) (d k pos time : Nat) : State :=
  let p := trainingPart s
  let s0 := p.elim s fun q => closeGathers s q
  let late := s0.sched.lateFails
  let s1 := copyMap (decideToll (endTollEntry s0 time))
  let s2 := evalSchedule (applyBoundary s1.1 p true)
  let s3 := beginStep (clearToll s2) late s1.2.isSome
  let s4 := (List.range 4).foldl clearReleased s3
  let s5 := p.elim s4 fun q => releaseRings s4 q fun _ => true
  let s6 := s5.modDie d fun v => { v with armed := none }
  match entryOf s6 d k pos with
  | none => retime s6
  | some e => finishEntry (retime (fire s6 d k e)) d k e

/-- The entry to which a die is armed may take effect: at its time; self-timed, in the tick after its gate was met, for which it
was armed, and the toll's result is held (R362, R335). A self-timed BOUNDARY with no TOLL before it has no result to wait
for. -/
def boundaryDue (s : State) (k time : Nat) : Bool :=
  decide (time ≤ s.bell.count.toNat) &&
    (!ringSelfTimed s k || (s.sched.held.isSome && decide (s.sched.heldAt < s.bell.count)) || !s.sched.tollSeen)

/-- STEP_BOUNDARY (R360): the step boundary to which the lead die is armed. -/
def execStepBoundary (s : State) : Out :=
  .next (match (trainingPart s).bind (leadDie s) with
    | none => s
    | some d =>
      match (s.die d).armed with
      | none => s
      | some (t, k, pos) => if boundaryDue s k t.toNat then stepBoundary s d k pos t.toNat else s)

end Sys2Proof.Machine
end

