-- ==== Sys2Proof/Machine/Commit.lean ====
section
/-! DEFINITION. The toll: the vote, its way up the job tree, the decision and its way down (R331, R332, R335). -/

namespace Sys2Proof.Machine

/-! ### The job tree (R296, R325, R332) -/

/-- The TRAINING job and its partition. -/
def trainingJob (s : State) : Option (Nat × Job) :=
  (trainingPart s).bind fun p => ((s.part p).jobs.find? Job.training).map fun j => (p, j)

/-- Levels of the tree over `n` ranks. -/
def treeDepth (n : Nat) : Nat := ((List.range 16).find? fun d => decide (n ≤ 2 ^ d)).getD 16

/-- The levels at which rank `r` is a node: each at which it is the lower rank of its pair. -/
def topLevel (n r : Nat) : Nat :=
  ((List.range (treeDepth n)).find? fun l => r % 2 ^ (l + 1) ≠ 0).getD (treeDepth n)

/-- The parent of a rank that is not the root. -/
def parentRank (n r : Nat) : Nat := r - 2 ^ topLevel n r
/-- The child of rank `r` at a level, if there is one: an unpaired member passes up unchanged. -/
def childAt (n r level : Nat) : Option Nat :=
  if level ≠ 0 ∧ level ≤ topLevel n r ∧ r + 2 ^ (level - 1) < n then some (r + 2 ^ (level - 1)) else none

/-! ### Votes (R331) -/

/-- The CRC-32 of LR0–LR7 and WD0–WD7. -/
def scheduleCrc (s : State) : Word :=
  BitVec.ofNat 32 (crc32 (((List.range 8).flatMap fun k => leBytes 4 (mget 0 s.sched.lr k).toNat) ++
    (List.range 8).flatMap fun k => leBytes 4 (mget 0 s.sched.wd k).toNat))

/-- This device's own vote: COMMIT if no training context's step has failed and the entry's gate is met. -/
def ownVote (s : State) (gate : Bool) : Vote :=
  let failed := (trainingCtxs s).any fun e => ((s.part e.1).ctx e.2).stepFailed
  { result := if gate && !failed then .commit else .fail, epoch := s.sched.epoch, crc := scheduleCrc s }

/-- A vote as 16 bytes: the vote, the CRC, the epoch (layout: log 40). -/
def voteBytes (v : Vote) : List Byte := leBytes 4 (tollCode v.result) ++ leBytes 4 v.crc.toNat ++ leBytes 8 v.epoch.toNat
def resultOf (code : Nat) : TollResult := if code = 1 then .commit else if code = 3 then .split else .fail
def voteOf (bs : List Byte) : Vote :=
  { result := resultOf (ofLe (bs.take 4)), crc := BitVec.ofNat 32 (ofLe ((bs.drop 4).take 4)),
    epoch := BitVec.ofNat 64 (ofLe ((bs.drop 8).take 8)) }

/-- Two votes combined (R332). -/
def Vote.combine (a b : Vote) : Vote :=
  { a with result :=
      if a.result = .split ∨ b.result = .split ∨ a.epoch ≠ b.epoch ∨ a.crc ≠ b.crc then .split
      else if a.result = .commit ∧ b.result = .commit then .commit else .fail }

/-! ### Messages of the toll -/

/-- The READY contexts of a job to a rank. -/
def jobRankCtx (s : State) (p : Nat) (j : Job) (rank : Nat) : Option Nat :=
  ((List.range 8).filter fun x => j.ctxMask.getLsbD x).findSome? fun x => (rankCtxs s p x rank).head?

/-- A message of the toll goes to a rank; without a READY context it is lost (R336). -/
def sendToll (s : State) (p : Nat) (j : Job) (rank : Nat) (op : MsgOp) (bs : List Byte) : State :=
  match jobRankCtx s p j rank with
  | none => s
  | some c => (sendMsg s c { ctx := c, op := op, mseq := 0, data := bs } 0 .nobody).getD s

/-- The result is held, the TOLL entry completes, and the children are told (R332, R353). -/
def holdResult (s : State) (p : Nat) (j : Job) (r : TollResult) : State :=
  let n := j.devlist.length
  let s1 : State := { s with sched := { s.sched with held := some r, heldAt := s.bell.count } }
  let s2 := (List.range (topLevel n j.rank)).reverse.foldl (fun (t : State) l =>
    match childAt n j.rank (l + 1) with
    | some c => sendToll t p j c .result (leBytes 1 (tollCode r))
    | none => t) s1
  match s.sched.tollEntry with
  | none => s2
  | some (d, k, pos) => match entryOf s2 d k pos with
    | some e => if e.phase = .done then s2 else finishEntry s2 d k e
    | none => s2

/-- A node that has combined its last level decides, as the root, or sends its vote to its parent. -/
def passUp (s : State) (p : Nat) (j : Job) (v : Vote) : State :=
  if j.rank = 0 then holdResult s p j v.result
  else sendToll s p j (parentRank j.devlist.length j.rank) .vote (voteBytes v)

/-- A node combines the vote of its child at its next level; a vote that has not come counts as FAIL (R332). -/
def combineLevel (s : State) (p : Nat) (j : Job) (v : Vote) (level : Nat) : State :=
  let n := j.devlist.length
  let child := childAt n j.rank level
  let vote := child.bind fun c => mget? s.sched.childVotes c
  let missing := child.isSome && vote.isNone
  let v1 := match vote with
    | some u => v.combine u
    | none => if missing then { v with result := if v.result = .split then .split else .fail } else v
  let s1 : State := { s with sched := { s.sched with combined := some (v1, level) } }
  let s2 := if missing then s1.count pnSched 6 1 else s1
  if level = topLevel n j.rank then passUp s2 p j v1 else s2

/-- A self-timed node goes up as far as its children's votes have come (R335). -/
def advanceToll (p : Nat) (j : Job) : Nat → State → State
  | 0, s => s
  | n + 1, s =>
    match s.sched.combined with
    | none => s
    | some (v, level) =>
      let size := j.devlist.length
      if topLevel size j.rank ≤ level then s
      else match childAt size j.rank (level + 1) with
      | none => advanceToll p j n (combineLevel s p j v (level + 1))
      | some c => if (mget? s.sched.childVotes c).isSome then advanceToll p j n (combineLevel s p j v (level + 1)) else s

/-! ### Commands -/

/-- The oldest TOLL entry of a ring that may fire: at its time, self-timed when its gate is met and the entry before it
has fired (R349, R355). -/
def tollDue (s : State) (d k : Nat) : Option Entry :=
  match ((s.die d).ring k).entries.find? fun e => e.phase == .waiting && e.action == actToll with
  | none => none
  | some e =>
    if (if ringSelfTimed s k then gateMet s k e && beforeFired s d k e
        else decide (e.time ≤ s.bell.count.toNat) && !boundaryAhead s k e) then some e else none

/-- TOLL (R331): the vote is formed, and a node with no child at any level passes it on at once. -/
def execToll (die ring : Nat) (s : State) : Out :=
  .next (match tollDue s die ring, trainingJob s with
    | some e, some (p, j) =>
      let own := ownVote s (gateMet s ring e)
      let self_ := ringSelfTimed s ring
      let s1 := fire s die ring e
      let s2 : State := { s1 with sched := { s1.sched with
        tollTime := some (BitVec.ofNat 64 (if self_ then s.bell.count.toNat else e.time)),
        tollEntry := some (die, ring, e.pos), tollSeen := true, selfTimed := self_, held := none,
        combined := some (own, 0) } }
      let s3 := if topLevel j.devlist.length j.rank = 0 then passUp s2 p j own else s2
      if self_ then advanceToll p j 16 s3 else s3
    | _, _ => s)

/-- The hop budget h (R337). -/
def tollHop (s : State) : Nat := max 1 (bits (s.regN pnSched 0x118) 15 0)

/-- TOLL_LEVEL_DEADLINE (R332): at t_T + level × h the node combines what has come at that level. -/
def execTollLevelDeadline (level : Nat) (s : State) : Out :=
  .next (match s.sched.combined, s.sched.tollTime, trainingJob s with
    | some (v, l), some t, some (p, j) =>
      if !s.sched.selfTimed && l + 1 == level && decide (level ≤ topLevel j.devlist.length j.rank) &&
          decide (t.toNat + level * tollHop s ≤ s.bell.count.toNat) then combineLevel s p j v level
      else s
    | _, _, _ => s)

/-- A child's vote arrives: it is held for its node, and a self-timed node goes on (R332, R335). -/
def arriveVote (s : State) (rank : Nat) (v : Vote) : State :=
  match trainingJob s with
  | none => s
  | some (p, j) =>
    let s1 : State := { s with sched := { s.sched with childVotes := mput s.sched.childVotes rank v } }
    if s.sched.selfTimed && s.sched.held.isNone then advanceToll p j 16 s1 else s1

/-- The result arrives: it is held and forwarded while a toll is under way; one that comes later is of no use (R334). -/
def arriveResult (s : State) (r : TollResult) : State :=
  match trainingJob s with
  | none => s
  | some (p, j) => if s.sched.tollSeen && s.sched.held.isNone then holdResult s p j r else s

end Sys2Proof.Machine
end

