-- ==== Sys2Proof/Machine/Hbm.lean ====
section
/-! DEFINITION. Maintenance of the HBM stacks: soft repair, periodic and triggered retraining, and channels that fail
(R408, R411–R415). -/

namespace Sys2Proof.Machine

/-! ### Soft repair (R412) -/

/-- A row holds an uncorrectable burst, or lies in a channel that has failed. `row` is the number of R411's queue. -/
def rowBad (s : State) (row : Nat) : Bool :=
  let n := row / 2 ^ 20
  let h := s.hbmc (n / 128) (n / 64 % 2)
  h.chFailed.getLsbD (n % 64 / 2) ||
    s.hbmErr.any fun e => e.1 / 32 == row && decodeBurst e.2 (mget [] h.pins (n % 64)) == .uncorrectable

/-- A row is entered for hard repair in the repair record of the flash (R411). -/
def recordHard (s : State) (row : Nat) : State :=
  { s with flash := s.flash.addHardRow row }

/-- The bursts of a row as the repair's read meets them: those corrected by device address, and the number of those that
cannot be (R407, R410, R412). -/
def rowReads (s : State) (row : Nat) : List Nat × Nat :=
  let n := row / 2 ^ 20
  let pins := mget [] (s.hbmc (n / 128) (n / 64 % 2)).pins (n % 64)
  let es := (s.hbmErr.filter fun e => e.1 / 32 == row).map fun e => (e.1 % 2 ^ 25, decodeBurst e.2 pins)
  ((es.filter fun e => e.2 == .corrected).map fun e => deviceOf s n (e.1 * 32), (es.filter fun e => e.2 == .uncorrectable).length)

/-- A row is read with correction: its corrected and its uncorrectable bursts are counted. -/
def readRow (d k : Nat) (s : State) (row : Nat) : State :=
  let r := rowReads s row
  let s1 := r.1.foldl (fun t a => correctUnit t (hbmAddr a)) s
  if r.2 = 0 then s1 else setEvent (s1.count (pnHbmc d k) 1 r.2) (pnHbmc d k) 1

/-- The bank group of a row has a soft repair resource left, and so has its stack (log 143). -/
def softLeft (d k : Nat) (h : Hbmc) (row : Nat) : Bool :=
  h.pprSoft != 0 && decide (mget 0 h.softUsed (Config.bankGroup row) < Config.groupSoft (2 * d + k) (Config.bankGroup row))

/-- One soft-queued row is read with correction and repaired, or moves to the hard queue; either way it is entered for hard
repair. -/
def softRepair (d k : Nat) (s0 : State) (row : Nat) : State :=
  let s := readRow d k s0 row
  let s1 := (recordHard s row).count (pnHbmc d k) 6 1
  let h := s.hbmc d k
  let left := h.repairQ.filter fun e => e != (row, false)
  if rowBad s row || !softLeft d k h row then s1.modHbmc d k fun v => { v with repairQ := left ++ [(row, true)] }
  else
    let s2 : State := { s1 with hbmErr := s1.hbmErr.filter fun e => e.1 / 32 != row }
    let g := Config.bankGroup row
    (s2.modHbmc d k fun v => { v with
      repairQ := left, pprSoft := v.pprSoft - 1, softUsed := mset 0 v.softUsed g (mget 0 v.softUsed g + 1) }).count (pnHbmc d k) 5 1

/-! ### Retraining (R413–R415) -/

/-- The next channel in service from channel `c` on, round the 32. -/
def nextChannel (h : Hbmc) (c : Nat) : Option Nat :=
  ((List.range 32).map fun i => (c + i) % 32).find? fun i => !h.chExcluded.getLsbD i

/-- A controller with nothing under way starts what waits: a triggered retraining, or in a window the next channel. -/
def startRetrain (s : State) (d k : Nat) : State :=
  let h := s.hbmc d k
  if h.retraining.isSome then s
  else match h.trigWait with
  | c :: rest => s.modHbmc d k fun v => { v with retraining := some (c, true), trigWait := rest }
  | [] =>
    if !(s.die d).retrainOpen.isEmpty then
      match nextChannel h h.nextCh with
      | some c => s.modHbmc d k fun v => { v with retraining := some (c, false) }
      | none => s
    else s

/-- A controller's work in a maintenance window begins: its soft repairs, then its channels. -/
def openMaintenance (s : State) (d k : Nat) : State :=
  let h := s.hbmc d k
  if h.ready then
    startRetrain (((h.repairQ.filter fun e => !e.2).map Prod.fst).foldl (softRepair d k) s) d k
  else s

/-- TRIG_THRESH of a controller; 0 is treated as 1 (R417). -/
def trigThresh (s : State) (d k : Nat) : Nat := max 1 (bits (s.regN (pnHbmc d k) 0x010) 15 8)

/-- HBM_RETRAIN_TRIGGER (R414): an interface error of a channel. With those of the last 2^16 bt it makes the threshold: the
channel is retrained, and its errors are counted anew (log 144). -/
def execHbmRetrainTrigger (die ctl channel : Nat) (s : State) : Out :=
  .next (
    let h := s.hbmc die ctl
    let near := (mget [] h.errors channel).filter (fun t => decide (s.bell.ticks < t + 2 ^ 16)) ++ [s.bell.ticks]
    let counted (l : List Nat) : State := s.modHbmc die ctl fun v => { v with errors := mset [] v.errors channel l }
    if !h.ready || h.chExcluded.getLsbD channel then s
    else if near.length < trigThresh s die ctl then counted near
    else
      let s1 := setEvent ((counted []).count (pnHbmc die ctl) 3 1) (pnHbmc die ctl) 2
      if (h.retraining.map Prod.fst) = some channel ∨ h.trigWait.contains channel then s1
      else startRetrain (s1.modHbmc die ctl fun v => { v with trigWait := v.trigWait ++ [channel] }) die ctl)

/-- Pins marked in a pseudo-channel together with those found now (R408). -/
def pinsAfter (h : Hbmc) (pc : Nat) (found : List Nat) : List Nat :=
  let old := mget [] h.pins pc
  old ++ (found.dedup.filter fun p => !old.contains p)

/-- A channel has failed: every read of it is uncorrectable until the reset at which it is excluded (R415). -/
def failChannel (s : State) (d k c : Nat) : State :=
  let bit : Word := BitVec.ofNat 32 (2 ^ c)
  let s1 := s.modHbmc d k fun v => { v with chFailed := v.chFailed ||| bit }
  setEvent (s1.setReg (pnHbmc d k) 0x800 (s1.reg (pnHbmc d k) 0x800 ||| bit)) (pnHbmc d k) 4

/-- HBM_RETRAIN_END (R413, R415): the retraining under way ends, and what waits starts. -/
def execHbmRetrainEnd (die ctl : Nat) (inTime : Bool) (pins0 pins1 : List Nat) (s : State) : Out :=
  .next (
    let h := s.hbmc die ctl
    match h.retraining with
    | none => s
    | some (c, triggered) =>
      let p0 := pinsAfter h (2 * c) pins0
      let p1 := pinsAfter h (2 * c + 1) pins1
      let s1 := s.modHbmc die ctl fun v =>
        { v with retraining := none, nextCh := if triggered then v.nextCh else (c + 1) % 32 }
      let s2 := if !inTime || decide (2 < p0.length) || decide (2 < p1.length) then failChannel s1 die ctl c
        else s1.modHbmc die ctl fun v =>
          { v with pins := mset [] (mset [] v.pins (2 * c) p0) (2 * c + 1) p1,
                   lastRetrain := mset 0 v.lastRetrain c s.bell.ticks }
      startRetrain (if triggered then s2 else s2.count (pnHbmc die ctl) 2 1) die ctl)

/-- RETRAIN_DUE (R413): the channel has not been retrained for RETRAIN_MAX bell ticks. -/
def execRetrainDue (die ctl channel : Nat) (s : State) : Out :=
  .next (
    let h := s.hbmc die ctl
    let since := s.bell.ticks - mget 0 h.lastRetrain channel
    if h.ready && !h.chExcluded.getLsbD channel && decide (s.regN (pnHbmc die ctl) 0x108 ≤ since) then
      setEvent s (pnHbmc die ctl) 3
    else s)

end Sys2Proof.Machine
end

