-- ==== Sys2Proof/Machine/Almanac.lean ====
section
/-! DEFINITION. The almanac's actions but for those that need a peer context: copies, boundaries, windows, wakes, and
what ends an entry (R350–R365, R381). SEND and RECV_EXPECT are in Links.lean. -/

namespace Sys2Proof.Machine

/-! ### The ring (R350) -/

def almTailAddr (d k : Nat) : Nat := pnAlm d * 0x1000 + almReg k 0x0C

/-- A value written to a ring's TAIL: taken unless it lies more than 2^n entries past HEAD. -/
def almTail (s : State) (init d k value : Nat) : State :=
  let r := (s.die d).ring k
  let t : BitVec 17 := BitVec.ofNat 17 value
  if 2 ^ almLog2 s d k < (t - r.head).toNat then ignoreWrite s 7 init (almTailAddr d k) value
  else settleRing (s.modDie d fun v => v.setRing k { v.ring k with tail := t }) d k

/-- ALMANAC_TAIL_WRITE (R350). -/
def execAlmanacTailWrite (init : Sender) (die ring : Nat) (value : Word) (s : State) : Out :=
  .next (ctlWrite s init.id (almTailAddr die ring) value.toNat init.behind fun t => almTail t init.id die ring value.toNat)

/-! ### Copies (R353, R381, R385) -/

/-- The number under which an entry keeps bytes that it has asked of a lender. -/
def entryNo (d k pos : Nat) : Nat := 1024 + (d * 32 + k) * 2 ^ 17 + pos

/-- An entry still waits for an acknowledgement or a response. -/
def waiterBusy (s : State) (w : Waiter) : Bool :=
  s.links.peers.any fun p => (p.2.unacked.any fun u => u.waiter == w) || p.2.asked.any fun u => u.waiter == w

/-- Nobody waits any more for what an entry has sent, and what its reception still gets is discarded. -/
def stopTransfer (s : State) (d k pos : Nat) : State :=
  let w : Waiter := .entry d k pos
  let f (u : Unacked) : Unacked := if u.waiter = w then { u with waiter := .nobody } else u
  { s with links := { s.links with
      recvs := s.links.recvs.map fun r => if r.die = d ∧ r.ring = k ∧ r.pos = pos then { r with dead := true } else r,
      peers := s.links.peers.map fun p => (p.1, { p.2 with unacked := p.2.unacked.map f, asked := p.2.asked.map f }) } }

/-- A copy is under way; what a lender holds is asked for (R385). A lender that cannot be reached fails the entry. -/
def startCopy (s : State) (d k : Nat) (e : Entry) (source : Nat) : State :=
  if keyRemote (entryKey s d k source) then
    let sent := sendReads s (entryWho d k) (.entry d k e.pos) [(source, e.bytes, privKey (entryNo d k e.pos) source)]
    if sent.2.2 then sent.1 else failEntry (stopTransfer sent.1 d k e.pos) d k e
  else s

/-- A failure of an entry under an uncorrectable unit, and the ring goes on. -/
def failEntryBad (s : State) (d k u : Nat) (e : Entry) : State := settleRing (badEntry s d k u e) d k
/-- A refusal of an entry, and the ring goes on. -/
def refuseEntry (s : State) (d k reason : Nat) (e : Entry) : State := settleRing (refusedEntry s d k reason e) d k

/-- The bytes of a copy are written at TARGET: here, and the entry completes; or sent to a lender, whose acknowledgement
completes it. -/
def putCopy (s : State) (d k : Nat) (e : Entry) (bs : List Byte) : State :=
  let key := entryKey s d k e.target
  if keyRemote key then
    let sent := sendWrites s (entryWho d k) (.entry d k e.pos) [(e.target, bs)]
    if sent.2.2 then modEntry sent.1 d k e.pos fun v => { v with moved := true }
    else failEntry (stopTransfer sent.1 d k e.pos) d k e
  else
    let st := memStores s false [(key, bs)]
    let s1 := setTags st.1 0 [(key, bs)]
    match st.2 with
    | some u => failEntryBad s1 d k u e
    | none => finishEntry s1 d k e

/-- The bytes of a copy have been read. -/
def runCopy (s : State) (d k : Nat) (e : Entry) (source : Nat) : State :=
  let n := e.bytes
  let key := entryKey s d k source
  if e.moved then (if waiterBusy s (.entry d k e.pos) then s else finishEntry s d k e)
  else if keyRemote key then
    if waiterBusy s (.entry d k e.pos) then s
    else
      let a := privKey (entryNo d k e.pos) source
      putCopy (memWrite s a (List.replicate n 0)) d k e (memRead s a n)
  else match badUnit s key n with
  | some u => failEntryBad (noteOthers s [(key, n)] u) d k u e
  | none => putCopy (readSpans s false [(key, n)]) d k e (viewBytes s key n)

/-- PREFETCH (R353): at firing. -/
def execPrefetch (die ring : Nat) (s : State) : Out :=
  .next (match firing s die ring actPrefetch true with
    | none => s
    | some e => startCopy (fire s die ring e) die ring e e.source)

/-- CHECKPOINT (R353): as PREFETCH, but only if the last toll's result was COMMIT; else it is skipped. -/
def execCheckpoint (die ring : Nat) (s : State) : Out :=
  .next (match firing s die ring actCheckpoint true with
    | none => s
    | some e =>
      let s1 := fire s die ring e
      if s.sched.tollResult = 1 then startCopy s1 die ring e e.source
      else finishEntry (s1.count (pnAlm die) 5 1) die ring e)

/-- WAKE (R353): DONE_SEM and the ring's interrupt. -/
def execWake (die ring : Nat) (s : State) : Out :=
  .next (match firing s die ring actWake true with
    | none => s
    | some e => (finishEntry (fire s die ring e) die ring e).emit (.almanacIrq die ring))

/-! ### Boundaries (R361, R362) -/

/-- The oldest BOUNDARY entry of a ring that may be armed: self-timed when its gate is met and the entry before it has
fired (R349). -/
def armable (s : State) (d k : Nat) : Option Entry :=
  match ((s.die d).ring k).entries.find? fun e => e.phase == .waiting && e.action == actBoundary with
  | none => none
  | some e => if ringSelfTimed s k && !(gateMet s k e && beforeFired s d k e) then none else some e

/-- BOUNDARY_ARM (R361): the time goes to every block; a BOUNDARY armed with fewer than 256 bt to go is late, and a miss. -/
def execBoundaryArm (die ring : Nat) (s : State) : Out :=
  .next (match armable s die ring, (s.die die).armed with
    | some e, none =>
      let now := s.bell.count.toNat
      if ringSelfTimed s ring then
        s.modDie die fun v => { v with armed := some (BitVec.ofNat 64 (now + 1), ring, e.pos) }
      else if now + 256 ≤ e.time then
        s.modDie die fun v => { v with armed := some (BitVec.ofNat 64 e.time, ring, e.pos) }
      else
        let s1 := s.modDie die fun v => { v with armed := some (BitVec.ofNat 64 (now + 256), ring, e.pos) }
        setEvent (noteMiss s1 die ring e e.deadline false) (pnAlm die) 2
    | _, _ => s)

/-! ### Windows (R364, R365) -/

/-- EVAL_WINDOW (R364): the window opens on the bank map that is active now (R305). Timed, its gate was met at its TIME. -/
def execEvalWindow (die ring : Nat) (s : State) : Out :=
  .next (match firing s die ring actEval (ringSelfTimed s ring) with
    | none => s
    | some e =>
      (fire s die ring e).modCtx (ringPart ring) (ringCtx ring) fun c =>
        { c with evalWins := c.evalWins ++
            [{ entry := (die, ring, e.pos), map := viewBytes s (bankMapKey s s.sched.mapSel) 8192 }] })

/-- The entry of a window that is open and at its deadline; a self-timed window has none (R349). -/
def windowEnds (s : State) (d k act : Nat) : Option Entry :=
  ((s.die d).ring k).entries.find? fun e => e.phase == .inFlight && e.action == act &&
    decide (e.deadline ≤ s.bell.count.toNat) && !ringSelfTimed s k

/-- A window closes: it is kept while commands dispatched in it have not completed. -/
def closeWindow (s : State) (p x : Nat) (entry : Nat × Nat × Nat) : State :=
  let left := (coresOfPart s p).flatMap fun g => ((s.core g).ring x).outstanding.map fun i => (g, i)
  s.modCtx p x fun c => { c with
    evalWins := (c.evalWins.filter fun w => winLives s x w).map fun w => if w.entry = entry then { w with left := some left } else w }

/-- EVAL_WINDOW_CLOSE (R364): with the context's last open window, dispatch from it stops. -/
def execEvalWindowClose (die ring : Nat) (s : State) : Out :=
  .next (match windowEnds s die ring actEval with
    | none => s
    | some e => finishEntry (closeWindow s (ringPart ring) (ringCtx ring) (die, ring, e.pos)) die ring e)

/-- RETRAIN_WINDOW (R365): the die's controllers begin their maintenance. -/
def execRetrainWindow (die ring : Nat) (s : State) : Out :=
  .next (match firing s die ring actRetrain (ringSelfTimed s ring) with
    | none => s
    | some e =>
      let s1 := (fire s die ring e).modDie die fun v => { v with retrainOpen := v.retrainOpen ++ [(ring, e.pos)] }
      openMaintenance (openMaintenance s1 die 0) die 1)

/-- RETRAIN_WINDOW_CLOSE (R413): no further channel starts. -/
def execRetrainWindowClose (die ring : Nat) (s : State) : Out :=
  .next (match windowEnds s die ring actRetrain with
    | none => s
    | some e => finishEntry (s.modDie die fun v =>
        { v with retrainOpen := v.retrainOpen.erase (ring, e.pos) }) die ring e)

/-! ### Ends (R357–R359) -/

/-- The commands of an entry's RECOMPUTE have all completed. -/
def endRecompute (s : State) (d k : Nat) (e : Entry) : State :=
  if e.list.isSome || e.recompute != 0 then s
  else if e.failed then failEntry s d k e else finishEntry s d k e

/-- ENTRY_COMPLETE (R353, R357): the transfer of an entry in flight completes or fails. A copy does not go on while its
context is switched out (R466); a SEND and a RECV_EXPECT complete with their messages (R441). -/
def execEntryComplete (die ring pos : Nat) (ok : Bool) (s : State) : Out :=
  .next (match entryOf s die ring pos with
    | none => s
    | some e =>
      if e.phase ≠ .inFlight ∨ movesData e.action = false then s
      else if !ok then failEntry (stopTransfer s die ring pos) die ring e
      else if e.missed && e.fallback == fbRecompute then endRecompute s die ring e
      else if !ringRuns s ring then s
      else match e.copying with
      | some src => runCopy s die ring e src
      | none => if e.action = actPrefetch ∨ e.action = actCheckpoint then runCopy s die ring e e.source else s)

/-- The fallback record that ALT names (R359): four words, or the unit that could not be read, or a refusal. -/
def fallbackKey (s : State) (d k : Nat) (e : Entry) : Nat := s.regAddr (pnAlm d) (almReg k 0x10) + 16 * e.alt

/-- RECOMPUTE and LOCAL_COPY begin: the record is read and checked, and the fallback is counted as it runs (R358, R359). What
others lend holds no record, and is no source of what a reception gets (R385). -/
def runFallback (s : State) (d k : Nat) (e : Entry) : State :=
  let a := fallbackKey s d k e
  let w := entryWho d k
  if tierOf a = 4 ∨ !(granted s w false a 16) then refuseEntry s d k 0x03 e
  else match badUnit s (keyOf s w a) 16 with
  | some u => failEntryBad (noteOthers s [(keyOf s w a, 16)] u) d k u e
  | none =>
    let ws := viewWords s (keyOf s w a) 4
    let addr := wordAt ws 0 + 2 ^ 32 * bits (wordAt ws 1) 15 0
    let core := bits (wordAt ws 1) 23 16
    let count := bits (wordAt ws 2) 11 0
    let start (f : Entry → Entry) : State :=
      (modEntry (readSpans s false [(keyOf s w a, 16)]) d k e.pos fun v => { f v with
        phase := .inFlight, missed := true, moved := false, unslotted := v.unslotted || v.phase == .waiting }).count
          (pnAlm d) (if e.fallback = fbRecompute then 3 else 4) 1
    if bits (wordAt ws 1) 31 24 ≠ 0 ∨ bits (wordAt ws 2) 31 12 ≠ 0 ∨ wordAt ws 3 ≠ 0 then refuseEntry s d k 0x01 e
    else if e.fallback = fbRecompute then
      if count = 0 then refuseEntry s d k 0x01 e
      else if addr % 64 ≠ 0 ∨ (tierOf addr ≠ 1 ∧ tierOf addr ≠ 2) ∨ !(granted s w false addr (64 * count)) ∨ core / 40 ≠ d ∨
          partOfCore s core ≠ some w.part then refuseEntry s d k 0x03 e
      else start fun v => { v with list := some (addr, core, count), recompute := count }
    else if (e.action = actRecv ∧ tierOf addr = 4) ∨ !(entryGranted s d k false addr e.bytes) then refuseEntry s d k 0x03 e
    else startCopy (start fun v => { v with copying := some addr }) d k { e with missed := true } addr

/-- An entry misses its deadline: counted, and its fallback runs, also of one that still waits (R358; log 113). -/
def missDeadline (s : State) (d k : Nat) (e : Entry) : State :=
  let pn := pnAlm d
  let s1 := modEntry (noteMiss s d k e e.deadline false) d k e.pos fun v => { v with missed := true }
  if !movesData e.action then s1
  else if e.fallback = fbWait then s1.count pn 2 1
  else
    let s2 := countWait (stopTransfer s1 d k e.pos) d k e
    if e.fallback = fbRecompute ∨ e.fallback = fbLocalCopy then runFallback s2 d k e
    else finishEntry (s2.count pn 5 1) d k e

/-- An entry has a deadline that it can miss: a boundary's is that of its arming (R361), a toll's is not used (R331); that of
an open window is its end (R364), and a window that still waits to open misses it. -/
def hasDeadline (e : Entry) : Bool :=
  movesData e.action || e.action == actWake ||
    ((e.action == actEval || e.action == actRetrain) && e.phase == .waiting)

/-- DEADLINE_MISS (R356, R358): the entry has not completed at its deadline. -/
def execDeadlineMiss (die ring pos : Nat) (s : State) : Out :=
  .next (match entryOf s die ring pos with
    | none => s
    | some e =>
      if hasDeadline e && e.phase != .done && !e.missed && !ringSelfTimed s ring &&
          decide (e.deadline < s.bell.count.toNat) then missDeadline s die ring e
      else s)

/-- WAIT_LIMIT_EXPIRY (R358): an entry that waits, or its local copy, fails WAIT_LIMIT past its deadline. -/
def execWaitLimitExpiry (die ring pos : Nat) (s : State) : Out :=
  .next (match entryOf s die ring pos with
    | none => s
    | some e =>
      if movesData e.action && e.phase != .done && e.missed && (e.fallback == fbWait || e.fallback == fbLocalCopy) &&
          !ringSelfTimed s ring && decide (e.deadline + s.regN (pnAlm die) 0x100 ≤ s.bell.count.toNat) then
        failEntry (countWait (stopTransfer s die ring pos) die ring e) die ring e
      else s)

end Sys2Proof.Machine
end

