-- ==== Sys2Proof/Machine/BellUnit.lean ====
section
/-! DEFINITION. The bell unit: the count, lock, holdover and relock, and what runs on bell ticks (R341–R349, R366,
R446). -/

namespace Sys2Proof.Machine

/-! ### Registers (R366, R367) -/

def bellCtl (s : State) : Nat := s.regN pnBell 0x010
def bellEn (s : State) : Bool := (bellCtl s).testBit 0
def bellSrcPort (s : State) : Bool := (bellCtl s).testBit 1

/-- A link port is split into two half-ports (R421, R453). -/
def portSplit (s : State) (n : Nat) : Bool := (s.regN (pnLink n) 0x010).testBit 4
/-- A half-port runs in FABRIC mode; LPn.A and the whole port take MODE, LPn.B takes MODE_B. -/
def halfFabric (s : State) (h : Nat) : Bool := (s.regN (halfPage h) 0x010).testBit (if h % 2 = 0 then 2 else 3)

/-- The half-port that supplies the reference where SRC is 1 (R342); SRC_HALF names none on a port that is not split. -/
def bellSource (s : State) : Option Nat :=
  let n := if 12 ≤ bits (bellCtl s) 5 2 then 0 else bits (bellCtl s) 5 2
  if !bellSrcPort s then none
  else if (bellCtl s).testBit 6 then (if portSplit s n then some (2 * n + 1) else none)
  else some (2 * n)

/-! ### BELL flits (R446) -/

/-- At a mark every DIRECT half-port that carries the bell sends the count. -/
def sendBells (s : State) : State :=
  ((List.range 24).filter fun h =>
      (s.regN (halfPage h) 0x010).testBit 5 && !halfFabric s h &&
        ((s.half h).state == .up || (s.half h).state == .negotiateFailed)).foldl
    (fun (t : State) h => (((t.count (halfPage h) 0 1).modHalf h fun v => { v with txSeq := v.txSeq + 1 }).emit
      (.bellFlit h s.bell.count s.bell.locked))) s

/-! ### Ticks (R341, R347, R348) -/

/-- A WAIT that holds a ring counts a tick while its context is switched in (R198). -/
def tickWaits (s : State) : State :=
  { s with cores := s.cores.map fun c => (c.1, { c.2 with rings := c.2.rings.map fun r =>
      (r.1, match r.2.hold with
        | some h => if h.opcode = opWait ∧ c.2.cur = some r.1 ∧ c.2.incoming.isNone then { r.2 with waited := r.2.waited + 1 } else r.2
        | none => r.2) }) }

/-- THROTTLE_N is seen asserted, or treated so because it toggles too fast (R552). -/
def throttled (s : State) : Bool := s.power.throttleSeen || s.power.throttleFast
/-- Some quadrant's thermal ceiling is below 1.000 GHz (R506). -/
def thermalCeiling (s : State) : Bool := s.power.thermStep.any fun e => e.2 != 0

/-- The controllers that hold a channel for its retraining count the tick (R419). -/
def tickHolds (s : State) : State :=
  ((List.range 8).filter fun k => (s.hbmc (k / 2) (k % 2)).retraining.isSome).foldl
    (fun (t : State) k => t.count (pnHbmc (k / 2) (k % 2)) 4 1) s

/-- A tick of the power manager's counters, of a burn (R537) and of the start watchdog (R514, R520, R552). -/
def tickPower (s : State) : State :=
  let s1 := if s.power.capStep = 0 then s else s.count pnPwr 2 1
  let s2 := if thermalCeiling s then s1.count pnPwr 3 1 else s1
  let s3 := if throttled s then
      ({ s2 with power := { s2.power with throttleBt := s2.power.throttleBt + 1 } } : State).count pnPwr 4 1
    else s2
  { s3 with boot := { s3.boot with
    burnLeft := s3.boot.burnLeft - 1, watchdog := if s.boot.bootOk then s3.boot.watchdog else s3.boot.watchdog + 1 } }

/-- BELL_TICK (R341): the count advances by one, or pauses after a relock to a lower value (R348). It stands while BOOT is
off or held in reset (R501, R509). -/
def execBellTick (s0 : State) : Out :=
  .next (
    let s := tickHolds (tickPower s0)
    if !domOn s0 bootDomain || (s0.power.modRst && !s0.power.shutdown) then s0
    else if s.bell.pauseLeft ≠ 0 then
      ({ s with bell := { s.bell with pauseLeft := s.bell.pauseLeft - 1, ticks := s.bell.ticks + 1 } } : State).count pnBell 5 1
    else
      let n := s.bell.count + 1
      let s1 : State := { s with bell := { s.bell with count := n, ticks := s.bell.ticks + 1 } }
      let s2 := sampleGates (tickWaits (if s.bell.holdover then s1.count pnBell 4 1 else s1))
      if n.toNat % 2 ^ 24 = 0 then sendBells s2 else s2)

/-! ### Lock (R343, R348) -/

/-- The count takes a value: it steps forward, or pauses until the reference reaches it (R341, R348). -/
def setCount (s : State) (v : Nat) : State :=
  let old := s.bell.count.toNat
  if old ≤ v then
    let s1 := sampleGates { s with bell := { s.bell with count := BitVec.ofNat 64 v, pauseLeft := 0 } }
    if v % 2 ^ 24 = 0 then sendBells s1 else s1
  else { s with bell := { s.bell with pauseLeft := old - v } }

/-- Almanacs return to timed mode: at once where no TRAINING job is admitted, else at its next step boundary (R348). -/
def afterLock (s : State) : State :=
  if (trainingPart s).isNone then { s with bell := { s.bell with selfTimed := false } }
  else { s with bell := { s.bell with relocked := s.bell.selfTimed } }

/-- A mark at which the device locks: the first after EN takes the epoch number loaded (R343), a later one the nearest
multiple of 2^24 (R348). The mark was so many bell ticks ago (R446). -/
def lockAt (s : State) (ago : Nat) : State :=
  let first := !s.bell.everLocked
  let epoch := s.regN pnBell 0x108 + 2 ^ 32 * bits (s.regN pnBell 0x10C) 7 0
  let near := (s.bell.count.toNat - ago + 2 ^ 23) / 2 ^ 24 * 2 ^ 24
  let s1 := setCount s (((if first then epoch * 2 ^ 24 else near) + ago) % 2 ^ 64)
  let s2 := afterLock { s1 with bell := { s1.bell with locked := true, holdover := false, everLocked := true } }
  if first then s2 else setEvent (s2.count pnBell 1 1) pnBell 1

/-- A mark has come from the chosen source, so many bell ticks ago. -/
def takeMark (s : State) (ago : Nat) : State :=
  if !bellEn s then s
  else if s.bell.locked then
    (if s.bell.count.toNat % 2 ^ 24 = ago % 2 ^ 24 then s else s.count pnBell 2 1)
  else if 2 ≤ s.bell.goodWindows then lockAt s ago
  else s

/-- EPOCH_MARK (R343): a mark arrives on BELL_REF, or is missing while the count follows the reference. -/
def execEpochMark (arrived : Bool) (s : State) : Out :=
  .next (
    if arrived then (if bellSrcPort s then s else takeMark s 0)
    else if s.bell.locked then s.count pnBell 2 1 else s)

/-! ### Failure of the reference (R346) -/

/-- The almanacs of the device become self-timed: those that were timed say so (R368), and a BOUNDARY whose time has not come is
to be armed anew, by its gate (R349, R362). -/
def enterSelfTimed (s : State) : State :=
  let s1 : State := { s with
    bell := { s.bell with selfTimed := true, relocked := false },
    dies := s.dies.map fun d => (d.1, { d.2 with armed := d.2.armed.filter fun a => decide (a.1 ≤ s.bell.count) }) }
  ((List.range 4).filter fun d => !dieSelfTimed s d).foldl (fun (t : State) d => setEvent t (pnAlm d) 3) s1

/-- The reference has failed. -/
def unlock (s : State) (cause : Nat) (ppm : BitVec 16) : State :=
  if !s.bell.locked then s
  else
    let s0 := enterSelfTimed s
    let s1 : State := { s0 with bell := { s0.bell with
      locked := false, holdover := true, goodWindows := 0, pauseLeft := 0, cause := BitVec.ofNat 2 cause } }
    raiseTrap (raiseAlert (setEvent (s1.count pnBell 0 1) pnBell 0) 6) pnBell
      { code := trapBellUnlock, level := 2, detail := fields [(0, cause), (16, ppm.toNat)] }

/-- A port that is the source and carries no valid BELL flits, or runs in FABRIC mode, is a stopped reference (R342, R446). -/
def checkBellSource (s : State) : State :=
  if bellSrcPort s && !((bellSource s).any fun h => !halfFabric s h && (s.half h).bellRxValid) then unlock s 0 s.bell.ppm else s

def causeCode : RefFault → Nat
  | .stopped => 0
  | .stuck => 1
  | .frequency => 2

/-- MEASUREMENT_WINDOW (R346, R348): the offset is kept, a window within ±200 ppm counts toward a lock, one beyond it
fails a locked reference. -/
def execMeasurementWindow (ppm : Int) (s : State) : Out :=
  .next (
    if s.power.modRst || !domOn s bootDomain then s
    else
    let w := BitVec.ofInt 16 ppm
    let good := decide (-200 ≤ ppm) && decide (ppm ≤ 200)
    let s1 : State := { s with bell := { s.bell with ppm := w, goodWindows := if good then s.bell.goodWindows + 1 else 0 } }
    if good then s1 else unlock s1 2 w)

/-- BELL_UNLOCK (R346): the trap names the offset last measured. -/
def execBellUnlock (cause : RefFault) (ppm : Int) (s : State) : Out :=
  .next (
    let w := if cause = .frequency then BitVec.ofInt 16 ppm else s.bell.ppm
    if s.bell.locked then unlock { s with bell := { s.bell with ppm := w } } (causeCode cause) w else s)

/-- GLITCH (R345): a pulse shorter than 0.8 ns is discarded and counted. -/
def execGlitch (s : State) : Out := .next (if s.power.modRst || !domOn s bootDomain then s else s.count pnBell 3 1)

end Sys2Proof.Machine
end

