-- ==== Sys2Proof/Machine/Requests.lean ====
section
/-! DEFINITION. Link request rings and their records: writes, reads, atomics, and the collectives over a group's tree (R150,
R151, R294–R297, R440–R445). -/

namespace Sys2Proof.Machine

/-! ### The ring (R442, R455) -/

def reqReg (p off : Nat) : Nat := 0x200 + p * 0x10 + off
def reqLog2 (s : State) (p : Nat) : Nat :=
  let n := bits (s.regN pnLinkCtx (reqReg p 4)) 19 16
  if 4 ≤ n ∧ n ≤ 12 then n else 4
def reqKey (s : State) (p pos : Nat) : Nat := s.regAddr pnLinkCtx (reqReg p 0) + 64 * (pos % 2 ^ reqLog2 s p)

/-- A partition's ring lies in its hub SRAM, 64-byte aligned (R455, R561; log 112). -/
def reqPlaced (s : State) (p : Nat) : Bool :=
  let a := s.regAddr pnLinkCtx (reqReg p 0)
  tierOf a == 2 && bits a 43 26 == 0 && a % 64 == 0 && inHubGrant s p (bits a 25 0) (64 * 2 ^ reqLog2 s p)

def State.reqRing (s : State) (p : Nat) : ReqRing := mget {} s.links.reqs p
def State.modReqRing (s : State) (p : Nat) (f : ReqRing → ReqRing) : State :=
  { s with links := { s.links with reqs := mset {} s.links.reqs p (f (s.reqRing p)) } }
def reqOf (s : State) (p pos : Nat) : Option LinkReq := (s.reqRing p).inFlight.find? fun r => r.pos == pos
def modReq (s : State) (p pos : Nat) (f : LinkReq → LinkReq) : State :=
  s.modReqRing p fun v => { v with inFlight := v.inFlight.map fun r => if r.pos = pos then f r else r }

def reqTailAddr (p : Nat) : Nat := pnLinkCtx * 0x1000 + reqReg p 0x0C

/-- A value written to a ring's TAIL: taken unless it lies more than 2^n records past HEAD. -/
def reqTail (s : State) (init p value : Nat) : State :=
  let t : BitVec 13 := BitVec.ofNat 13 value
  if 2 ^ reqLog2 s p < (t - (s.reqRing p).head).toNat then ignoreWrite s 7 init (reqTailAddr p) value
  else s.modReqRing p fun v => { v with tail := t }

/-- LINK_REQ_TAIL_WRITE (R442). -/
def execLinkReqTailWrite (init : Sender) (part : Nat) (value : Word) (s : State) : Out :=
  .next (ctlWrite s init.id (reqTailAddr part) value.toNat init.behind fun t => reqTail t init.id part value.toNat)

/-! ### Records (R442) -/

def LinkReq.w (r : LinkReq) (k : Nat) : Nat := wordAt r.words k
def LinkReq.kind (r : LinkReq) : Nat := bits (r.w 0) 3 0
def LinkReq.fmt (r : LinkReq) : Nat := bits (r.w 0) 8 4
def LinkReq.group (r : LinkReq) : Nat := bits (r.w 0) 11 9
def LinkReq.jobCtx (r : LinkReq) : Nat := bits (r.w 0) 14 12
def LinkReq.outXc (r : LinkReq) : Bool := (r.w 0).testBit 15
def LinkReq.ctx (r : LinkReq) : Nat := bits (r.w 0) 27 16
def LinkReq.atomicOp (r : LinkReq) : Nat := bits (r.w 0) 29 28
def LinkReq.localAt (r : LinkReq) : Nat := r.w 2 + 2 ^ 32 * bits (r.w 3) 15 0
def LinkReq.remoteAt (r : LinkReq) : Nat := r.w 4 + 2 ^ 32 * bits (r.w 5) 15 0
def LinkReq.length (r : LinkReq) : Nat := r.w 6
def LinkReq.xc (r : LinkReq) : Bool := r.fmt == fmtXc128
def LinkReq.isCollective (r : LinkReq) : Bool := decide (4 ≤ r.kind)

def kindWrite : Nat := 0
def kindRead : Nat := 1
def kindAtomic : Nat := 2
def kindReduce : Nat := 4
def kindGather : Nat := 5
def kindAllReduce : Nat := 6

/-- Whose request it is. -/
def reqWho (p : Nat) (r : LinkReq) : Who := { core := 0, part := p, ctx := r.jobCtx }

/-- A request has nothing more to do. -/
def endReq (s : State) (p pos : Nat) : State := modReq s p pos fun r => { r with finished := true, waiting := 0 }

/-- A request fails with a status; DESCRIPTOR_INVALID raises its trap (R188, R189). Only the first failure counts. -/
def failReq (s : State) (p pos status reason : Nat) : State :=
  match reqOf s p pos with
  | none => s
  | some r =>
    if r.finished then s
    else
      let s1 := modReq s p pos fun r => { r with finished := true, waiting := 0, status := BitVec.ofNat 8 status }
      let s2 := failStep s1 p r.jobCtx
      if status = stDescriptor then
        raiseTrap s2 pnLinkCtx { code := trapDescriptor, level := 2, part := some p, ctx := some r.jobCtx,
                                 detail := fields [(0, reason)] }
      else s2

/-- A request meets an uncorrectable unit (R410). -/
def failReqBad (s : State) (p : Nat) (r : LinkReq) (u : Nat) : State :=
  failReq (raiseBad s p (some r.jobCtx) 0 u) p r.pos stUncorrectable 0

/-- The gate of segment `k` is open (R442). -/
def segOpen (s : State) (p : Nat) (r : LinkReq) (k : Nat) : Bool :=
  r.w 12 == 0 || decide (r.w 12 + k ≤ semValue s p r.jobCtx (bits (r.w 11) 7 0))

/-- LINK_REQ_COMPLETE (R442): STATUS and DONE are written, DONE_SEM gets 1, and HEAD passes completed records in order. A
ring that its registers no longer place in the partition's hub SRAM is not written (R561; log 112). -/
def execLinkReqComplete (part pos : Nat) (s : State) : Out :=
  .next (match reqOf s part pos with
    | none => s
    | some r =>
      if r.finished then
        let s1 := if reqPlaced s part then (memStores s false [(reqKey s part pos + 52, leBytes 4 (r.status.toNat + 256))]).1 else s
        let s2 := (addSem s1 part r.jobCtx (bits (r.w 11) 15 8) 1).1
        s2.modReqRing part fun v =>
          let done := v.done ++ [pos]
          let n := ((List.range 4096).takeWhile fun k => done.contains ((v.head.toNat + k) % 2 ^ 13)).length
          { v with inFlight := v.inFlight.filter (fun q => q.pos != pos), head := v.head + BitVec.ofNat 13 n,
                   done := done.filter fun d => !((List.range n).map fun k => (v.head.toNat + k) % 2 ^ 13).contains d }
      else s)

/-! ### Checks (R436, R440, R442) -/

/-- A request's peer context: it belongs to the partition, or to none. -/
def reqCtxOk (s : State) (p c : Nat) : Bool := (ctxOwner s c).elim true fun q => q == p

/-- Reserved bits and codes of a record. -/
def reqReserved (r : LinkReq) : Bool :=
  !([0, 1, 2, 4, 5, 6].contains r.kind) || bits (r.w 0) 31 30 != 0 || bits (r.w 3) 31 16 != 0 || bits (r.w 5) 31 16 != 0 ||
    r.w 14 != 0 || r.w 15 != 0 || decide (3 < r.group) || bits (r.w 11) 31 16 != 0 || bits (r.w 13) 31 9 != 0 ||
    (r.isCollective && r.kind != kindGather && r.fmt != fmtFp32 && !r.xc) || (r.kind == kindAtomic && r.atomicOp == 3)

/-- The check of a WRITE, READ or ATOMIC: 0, or the reason. No tier-4 address stands in a request (R385). -/
def checkTransfer (s : State) (p : Nat) (r : LinkReq) : Nat :=
  let w := reqWho p r
  let level := (jobOf s p r.jobCtx).elim 3 Job.level
  if r.kind = kindAtomic then
    if r.atomicOp = 2 ∧ level = 2 then 0x01
    else if r.length ≠ 0 then 0x04
    else if tierOf r.localAt = 4 ∨ tierOf r.remoteAt = 4 ∨ r.localAt % 8 ≠ 0 ∨ r.remoteAt % 8 ≠ 0 ∨ !(granted s w true r.localAt 8) ∨ !(reqCtxOk s p r.ctx) then 0x03
    else 0
  else if r.length = 0 ∨ r.length % 256 ≠ 0 then 0x04
  else if tierOf r.localAt = 4 ∨ tierOf r.remoteAt = 4 ∨ !(granted s w (r.kind == kindRead) r.localAt r.length) ∨ !(reqCtxOk s p r.ctx) then 0x03
  else 0

/-! ### WRITE, READ and ATOMIC (R440) -/

/-- A message of a request is sent; a context that takes none fails it (R438). -/
def reqSend (s : State) (p pos c : Nat) (m : OutMsg) (key : Nat) : State :=
  match sendMsg s c m key (.request p pos) with
  | some t => modReq t p pos fun r => { r with waiting := r.waiting + 1 }
  | none => failReq s p pos stLinkTimeout 0

/-- The segments of a WRITE whose gates are open are sent, in order. -/
def pushWrite (p pos : Nat) : Nat → State → State
  | 0, s => s
  | n + 1, s =>
    match reqOf s p pos with
    | none => s
    | some r =>
      let k := r.sent
      if r.finished || decide (r.length ≤ 65536 * k) || !(segOpen s p r k) then s
      else
        let len := min 65536 (r.length - 65536 * k)
        let key := keyOf s (reqWho p r) r.localAt + 65536 * k
        match badUnit s key len with
        | some u => failReqBad (noteOthers s [(key, len)] u) p r u
        | none =>
          let s1 := readSpans (modReq s p pos fun q => { q with sent := q.sent + 1 }) false [(key, len)]
          pushWrite p pos n (reqSend s1 p pos r.ctx
            { ctx := r.ctx, op := .write, mseq := 0, address := BitVec.ofNat 48 (r.remoteAt + 65536 * k),
              data := viewBytes s key len } 0)

/-- The segments of a READ whose gates are open are asked for. -/
def pushRead (p pos : Nat) : Nat → State → State
  | 0, s => s
  | n + 1, s =>
    match reqOf s p pos with
    | none => s
    | some r =>
      let k := r.sent
      if r.finished || decide (r.length ≤ 65536 * k) || !(segOpen s p r k) then s
      else
        let len := min 65536 (r.length - 65536 * k)
        let s1 := modReq s p pos fun q => { q with sent := q.sent + 1 }
        pushRead p pos n (reqSend s1 p pos r.ctx
          { ctx := r.ctx, op := .read, mseq := 0, address := BitVec.ofNat 48 (r.remoteAt + 65536 * k),
            operand := BitVec.ofNat 64 len } (keyOf s (reqWho p r) r.localAt + 65536 * k))

/-- The one message of an ATOMIC. -/
def pushAtomic (s : State) (p pos : Nat) : State :=
  match reqOf s p pos with
  | none => s
  | some r =>
    if r.finished || r.sent != 0 || !(segOpen s p r 0) then s
    else
      reqSend (modReq s p pos fun q => { q with sent := 1 }) p pos r.ctx
        { ctx := r.ctx, op := .atomic, mseq := 0, subop := r.atomicOp, address := BitVec.ofNat 48 r.remoteAt,
          operand := BitVec.ofNat 64 (longAt r.words 7), operand2 := BitVec.ofNat 64 (longAt r.words 9) }
        (keyOf s (reqWho p r) r.localAt)

/-- Segments that a request has. -/
def reqSegments (r : LinkReq) : Nat := if r.kind = kindAtomic then 1 else ceilDiv r.length 65536

/-- One message less to wait for: a transfer all of whose segments are done has finished. -/
def reqArrived (s : State) (p pos : Nat) : State :=
  let s1 := modReq s p pos fun r => { r with waiting := r.waiting - 1 }
  match reqOf s1 p pos with
  | some r => if !r.isCollective && r.waiting == 0 && r.sent == reqSegments r then endReq s1 p pos else s1
  | none => s1

/-! ### Groups (R290, R294, R296) -/

/-- The ranks of a group of the job, in rank order. -/
def groupRanks (j : Job) (group : Nat) : List Nat :=
  let t := 2 ^ bits (wordAt j.mapping 0) 1 0
  let n := max 1 (bits (wordAt j.mapping 0) 14 2)
  let st := max 1 (bits (wordAt j.mapping 0) 23 15)
  let coords (r : Nat) : Nat × Nat × Nat × Nat := (r % t, r / t % n, r / t / n % st, r / t / n / st)
  let me := coords j.rank
  (List.range j.devlist.length).filter fun r =>
    let c := coords r
    if group = 0 then true
    else if group = 1 then c.1 == me.1 && c.2.2.1 == me.2.2.1
    else if group = 2 then c.2 == me.2
    else c.1 == me.1 && c.2.2 == me.2.2

/-- A collective as its member sees it: ranks of the group, own index, element count, elements per range. -/
structure Coll where
  ranks : List Nat
  me    : Nat
  count : Nat
  q     : Nat

def collOf (j : Job) (r : LinkReq) : Coll :=
  let ranks := groupRanks j r.group
  { ranks := ranks, me := (ranks.findIdx? fun x => x == j.rank).getD 0, count := r.length,
    q := ceilDiv (ceilDiv r.length (max 1 ranks.length)) 256 * 256 }

/-- Elements in a member's range. -/
def Coll.size (c : Coll) (m : Nat) : Nat := min c.q (c.count - c.q * m)
/-- The member whose range holds an element. -/
def Coll.owner (c : Coll) (x : Nat) : Nat := x / c.q
/-- Elements per segment: 64 KiB of source, an exact-compact element counted as 16 bytes (log 46). -/
def segElems (xc : Bool) : Nat := if xc then 4096 else 16384
def Coll.segments (c : Coll) (xc : Bool) : Nat := ceilDiv c.count (segElems xc)
def Coll.segRange (c : Coll) (xc : Bool) (k : Nat) : List Nat :=
  List.range' (segElems xc * k) (min (segElems xc) (c.count - segElems xc * k))

/-- The member of a tree node that keeps the range of member `m` once the node's level is done: that of the child which
the bit of `m` names, or of the only child (R444; log 46). -/
def holder (n m : Nat) : Nat → Nat → Nat
  | 0, node => node
  | l + 1, node =>
    let right := (2 * node + 1) * 2 ^ l < n
    holder n m l (if m.testBit l && right then 2 * node + 1 else 2 * node)

/-- At a level, who sends the range of member `m` in the node of member `i`, and who keeps it; nothing where the node has
one child. -/
def exchangeAt (n m level i : Nat) : Option (Nat × Nat) :=
  let node := i / 2 ^ level
  if (2 * node + 1) * 2 ^ (level - 1) < n then
    let l := holder n m (level - 1) (2 * node)
    let r := holder n m (level - 1) (2 * node + 1)
    let keep := holder n m level node
    some (if keep = l then (r, l) else (l, r))
  else none

/-! ### Partial results -/

/-- An element on its way: FP32 bits, or an accumulator slot. -/
structure Part1 where
  fp   : Nat := 0
  slot : Slot := {}

/-- FP32 addition, rounded with RNE (R150). -/
def fpAdd (a b : Nat) : Nat := toFp32 rmRne ((decodeFp32 a).add (decodeFp32 b))

/-- Two partial results are added: each tree node leaves its exact sum in 768-bit form, an OVF where it does not fit
(R151). -/
def Part1.add (xc : Bool) (a b : Part1) : Part1 :=
  if xc then { slot := (a.slot.merge b.slot).1.swept } else { fp := fpAdd a.fp b.fp }

/-- Deposit counts of partial results are added (R127, R149). -/
def satCount (a b : Nat) : Nat := min (a + b) (2 ^ 64 - 1)

/-- Elements as a message carries them: FP32 words; or the deposit count, the marks and the exact-compact elements. -/
def packParts (xc : Bool) (depcnt : Nat) (ps : List Part1) : List Byte :=
  if xc then
    let es := ps.map fun p => p.slot.exchange
    leBytes 8 depcnt ++ leBytes (xcBitmap es.length) (es.zipIdx.foldl (fun (a : Nat) e => if e.1.2 then a + 2 ^ e.2 else a) 0) ++
      es.flatMap Prod.fst
  else ps.flatMap fun p => leBytes 4 p.fp

/-- Exact-compact elements out of bytes, by their marks. -/
def unpackXc (marks : Nat) : Nat → Nat → List Byte → List Part1
  | 0, _, _ => []
  | n + 1, i, bs =>
    if marks.testBit i then { slot := slotOfImage (bs.take 104) } :: unpackXc marks n (i + 1) (bs.drop 104)
    else { slot := (slotOfXc128 (ofLe (bs.take 16))).1 } :: unpackXc marks n (i + 1) (bs.drop 16)

def unpackParts (xc : Bool) (n : Nat) (bs : List Byte) : List Part1 :=
  if xc then unpackXc (ofLe ((bs.drop 8).take (xcBitmap n))) n 0 (bs.drop (8 + xcBitmap n))
  else (List.range n).map fun k => { fp := ofLe ((bs.drop (4 * k)).take 4) }

/-- Bytes of a message of `n` elements whose first bytes are given: all of them once the marks are there. -/
def packedLength (xc : Bool) (n : Nat) (bs : List Byte) : Nat :=
  if xc then
    if bs.length < 8 + xcBitmap n then 8 + xcBitmap n
    else
      let marks := ofLe ((bs.drop 8).take (xcBitmap n))
      8 + xcBitmap n + 16 * n + 88 * ((List.range n).filter marks.testBit).length
  else 4 * n

/-- The elements of a segment that member `b` gets from member `a` at a level. -/
def Coll.moved (c : Coll) (xc : Bool) (k level a b : Nat) : List Nat :=
  (c.segRange xc k).filter fun x => exchangeAt c.ranks.length (c.owner x) level b == some (a, b)

/-- What has arrived of a segment at a level from a member, if whole: deposit count and elements. -/
def arrivedParts (c : Coll) (r : LinkReq) (k level a : Nat) : Option (Nat × List (Nat × Part1)) :=
  let xs := c.moved r.xc k level a c.me
  let got := r.arrived.filter fun e => e.1 == level && e.2.1 == k && e.2.2.1 == c.ranks.getD a 0
  let bs := got.flatMap fun e => e.2.2.2
  if bs.length = 0 ∨ bs.length < packedLength r.xc xs.length bs then none
  else some (if r.xc then ofLe (bs.take 8) else 0, xs.zip (unpackParts r.xc xs.length bs))

/-- Elements of a segment that a member's messages of a level have brought, once the last is there. -/
def wholeElems (c : Coll) (r : LinkReq) (k level rank : Nat) : Nat :=
  (arrivedParts c r k level (c.ranks.findIdx (· == rank))).elim 0 fun e => e.2.length

/-- The members from which a member gets something of a segment at a level. -/
def Coll.sources (c : Coll) (xc : Bool) (k level : Nat) : List Nat :=
  ((c.segRange xc k).filterMap fun x => match exchangeAt c.ranks.length (c.owner x) level c.me with
    | some (a, b) => if b = c.me then some a else none
    | none => none).dedup

/-- The members to which a member sends something of a segment at a level. -/
def Coll.targets (c : Coll) (xc : Bool) (k level : Nat) : List Nat :=
  ((c.segRange xc k).filterMap fun x => match exchangeAt c.ranks.length (c.owner x) level c.me with
    | some (a, b) => if a = c.me then some b else none
    | none => none).dedup

/-- A segment's partial results at a member: by element, with the deposit count. -/
abbrev Partial := Nat × SMap Part1

/-- The partial results of a segment after a level, if all that they need has arrived (R444). Every member of the other child
sends with its elements the deposit count of the whole child, which is added once (R149). -/
def partialAt (c : Coll) (r : LinkReq) (k : Nat) : Nat → Option Partial
  | 0 => (r.own.find? fun e => e.1 == k).map fun e =>
      let xs := c.segRange r.xc k
      (if r.xc then ofLe (e.2.take 8) else 0, xs.zip (unpackParts r.xc xs.length e.2))
  | level + 1 =>
    match partialAt c r k level with
    | none => none
    | some (d, m) =>
      ((c.sources r.xc k (level + 1)).foldl (fun (acc : Option Partial) a =>
        match acc, arrivedParts c r k (level + 1) a with
        | some (d, m), some (e, ys) =>
          some (max d e, ys.foldl (fun (m : SMap Part1) y => mput m y.1 (((mget? m y.1).getD {}).add r.xc y.2)) m)
        | _, _ => none) (some (0, m))).map fun q => (satCount d q.1, q.2)

/-! ### Messages of a collective -/

/-- The header that members compare, as a message's REQ_TAG carries it, with a failure mark (R443; log 46). -/
def collHeader (r : LinkReq) (mark : Nat) : Nat :=
  fields [(0, r.length), (32, r.kind), (36, r.fmt), (41, r.group), (48, mark)]

/-- A message of a collective goes to a member, over its contexts in turn (R443). -/
def sendColl (s : State) (p : Nat) (r : LinkReq) (rank level k mark : Nat) (bs : List Byte) : State :=
  let cs := rankCtxs s p r.jobCtx rank
  match cs[k % cs.length]? with
  | none => failReq s p r.pos stDescriptor 0x03
  | some ctx =>
    let piece (e : Nat × Nat) : OutMsg :=
      { ctx := ctx, op := .collective, mseq := 0, subop := level, operand := BitVec.ofNat 64 (r.number + k * 2 ^ 32),
        reqTag := BitVec.ofNat 64 (collHeader r mark), data := (bs.drop e.1).take e.2 }
    (if bs = [] then [(0, 0)] else msgPieces bs.length).foldl (fun (t : State) e => reqSend t p r.pos ctx (piece e) 0) s

/-- A failure mark goes to every other member in place of data (R443). -/
def sendMarks (s : State) (p : Nat) (c : Coll) (r : LinkReq) (status : Nat) : State :=
  let m : OutMsg :=
    { ctx := 0, op := .collective, mseq := 0, operand := BitVec.ofNat 64 r.number,
      reqTag := BitVec.ofNat 64 (collHeader r status) }
  c.ranks.foldl (fun (t : State) rank =>
    if rank = c.ranks.getD c.me 0 then t
    else match (rankCtxs t p r.jobCtx rank).head? with
    | none => t
    | some ctx => (sendMsg t ctx m 0 .nobody).getD t) s

/-- A collective fails here, and the other members are told. -/
def failColl (s : State) (p : Nat) (c : Coll) (r : LinkReq) (status reason : Nat) : State :=
  failReq (sendMarks s p c r status) p r.pos status reason

/-- Elements added or merged are counted. -/
def countElems (s : State) (n : Nat) : State := s.count pnLinkCtx 4 n

/-- A segment goes up the tree as far as what has arrived allows: each level's messages are sent once. -/
def climbSegment (s : State) (p : Nat) (c : Coll) (pos k : Nat) : State :=
  (List.range (treeDepth c.ranks.length)).foldl (fun (t : State) l =>
    match reqOf t p pos with
    | none => t
    | some r =>
      match partialAt c r k l with
      | none => t
      | some (d, m) =>
        (c.targets r.xc k (l + 1)).foldl (fun (t : State) b =>
          match reqOf t p pos with
          | none => t
          | some r =>
            if r.finished || r.posted.contains (l + 1, k, b) then t
            else
              let xs := c.moved r.xc k (l + 1) c.me b
              let bs := packParts r.xc d (xs.map fun x => (mget? m x).getD {})
              sendColl (modReq t p pos fun q => { q with posted := q.posted ++ [(l + 1, k, b)] }) p r
                (c.ranks.getD b 0) (l + 1) k 0 bs) t) s

/-! ### Source and results -/

/-- The bytes of a segment of this member's source, as messages carry them. -/
def ownSegment (s : State) (p : Nat) (c : Coll) (r : LinkReq) (k : Nat) : List Byte :=
  let key := keyOf s (reqWho p r) r.localAt
  if r.kind = kindGather then viewBytes s (key + 65536 * k) (min 65536 (4 * c.size c.me - 65536 * k))
  else if r.xc then
    let t := readXcTile s key c.count
    packParts true t.depcnt ((c.segRange true k).map fun x => { slot := t.elems.getD x {} })
  else viewBytes s (key + 4 * segElems false * k) (4 * (c.segRange false k).length)

/-- Bytes are written at a request's destination; one that cannot be written fails it. -/
def reqStore (s : State) (p : Nat) (r : LinkReq) (key : Nat) (bs : List Byte) : State :=
  let st := memStores s false [(key, bs)]
  let s1 := setTags st.1 0 [(key, bs)]
  match st.2 with
  | some u => failReqBad s1 p r u
  | none => s1

/-- Bytes of results: FP32 words, or an exact-compact tile (R151, R560). -/
def resultBytes (r : LinkReq) (d : Nat) (ps : List Part1) : List Byte :=
  if r.xc && r.outXc then (xcTile d (ps.map fun p => p.slot)).1
  else ps.flatMap fun p => leBytes 4 (if r.xc then toFp32 rmRne p.slot.value else p.fp)

/-- Elements whose tile counts more than 2^56 deposits are LONG (R129, R149). -/
def markLong (d : Nat) (ps : List Part1) : List Part1 :=
  if 2 ^ 56 < d then ps.map fun p => { p with slot := { p.slot with long := true } } else ps

/-- A reduction whose deposit counts sum to more than 2^56 raises LENGTH_BEYOND_GUARANTEE (R129, R149). -/
def noteLength (s : State) (p : Nat) (r : LinkReq) (d : Nat) : State :=
  if r.xc && decide (2 ^ 56 < d) then
    raiseTrap s pnLinkCtx { code := trapLength, level := 2, part := some p, ctx := some r.jobCtx, detail := d % 2 ^ 64 <<< 64 }
  else s

/-- Every segment's results at this member: own range, in order, with the deposit count, which a segment that holds some
of the range brings whole (R149, R560). -/
def ownResults (c : Coll) (r : LinkReq) : Option (Nat × List Part1) :=
  let all := (List.range (c.segments r.xc)).foldl (fun (acc : Option (Nat × List Part1)) k =>
    match acc, partialAt c r k (treeDepth c.ranks.length) with
    | some (n, l), some (d, m) =>
      some (max n d, l ++ ((c.segRange r.xc k).filter fun x => c.owner x == c.me).map fun x => (mget? m x).getD {})
    | _, _ => none) (some (0, []))
  all.map fun e => (e.1, markLong e.1 e.2)

/-- Level 0 carries ranges of the gather, in segments of 64 KiB, which contexts may bring in any order (R443; log 46): the
bytes of the segments that are there from the first on. -/
def gatherBytes (r : LinkReq) (rank : Nat) : List Byte :=
  let got := r.arrived.filter fun e => e.1 == 0 && e.2.2.1 == rank
  ((List.range got.length).takeWhile fun k => got.any fun e => e.2.1 == k).flatMap fun k =>
    (got.filter fun e => e.2.1 == k).flatMap fun e => e.2.2.2

/-- The bytes that a member's range takes in a gather, as far as they can be known. -/
def gatherLength (c : Coll) (r : LinkReq) (m : Nat) (bs : List Byte) : Nat :=
  if r.kind = kindAllReduce ∧ r.xc ∧ r.outXc then packedLength true (c.size m) bs else 4 * c.size m

/-- This member's own range for the gather. -/
def ownRange (c : Coll) (r : LinkReq) : Option (List Byte) :=
  if r.kind = kindGather then
    (if (r.own.map fun e => e.2.length).sum < 4 * c.size c.me then none else some (r.own.flatMap Prod.snd))
  else (ownResults c r).map fun e =>
    if r.xc && r.outXc then packParts true e.1 e.2
    else resultBytes r e.1 e.2

/-- The segments of the own range that are there: number and bytes (R442). -/
def ownPieces (c : Coll) (r : LinkReq) : List (Nat × List Byte) :=
  if r.kind = kindGather then r.own
  else (ownRange c r).elim [] fun bs => (msgPieces bs.length).map fun e => (e.1 / 65536, (bs.drop e.1).take e.2)

/-- A segment of the own range goes to every other member, each over its contexts in turn (R443). -/
def sendRange (p : Nat) (c : Coll) (pos : Nat) (s : State) (e : Nat × List Byte) : State :=
  match reqOf s p pos with
  | none => s
  | some r =>
    if r.finished || r.posted.contains (0, e.1, c.me) || e.2.isEmpty then s
    else
      let s1 := modReq s p pos fun q => { q with posted := q.posted ++ [(0, e.1, c.me)] }
      c.ranks.foldl (fun (t : State) rank =>
        if rank = c.ranks.getD c.me 0 then t else sendColl t p r rank 0 e.1 0 e.2) s1

/-- The gather's messages are sent as the own range is there; a reduction whose results are there is checked once. -/
def sendRanges (s : State) (p : Nat) (c : Coll) (pos : Nat) : State :=
  match reqOf s p pos with
  | none => s
  | some r =>
    if r.kind = kindReduce then s
    else
      let s0 := match (if r.kind = kindAllReduce ∧ !(r.posted.contains (0, 0, c.me)) then ownResults c r else none) with
        | some (d, _ :: _) => noteLength s p r d
        | _ => s
      (ownPieces c r).foldl (sendRange p c pos) s0

/-- All ranges of a gather, if every member's has arrived. -/
def allRanges (c : Coll) (r : LinkReq) : Option (List (List Byte)) :=
  match ownRange c r with
  | none => none
  | some mine =>
    let rs := (List.range c.ranks.length).map fun m =>
      if m = c.me then mine else gatherBytes r (c.ranks.getD m 0)
    if (rs.zipIdx.all fun e => c.size e.2 == 0 || (decide (0 < e.1.length) && decide (gatherLength c r e.2 e.1 ≤ e.1.length)))
    then some rs else none

/-- A collective whose data is all there writes its results; it has finished when its messages are acknowledged. -/
def finishColl (s : State) (p : Nat) (c : Coll) (pos : Nat) : State :=
  match reqOf s p pos with
  | none => s
  | some r =>
    let dest := keyOf s (reqWho p r) r.remoteAt
    let done (t : State) : State := match reqOf t p pos with
      | some q => if q.waiting = 0 ∧ !q.finished then endReq t p pos else t
      | none => t
    if r.finished ∨ r.waiting ≠ 0 then s
    else if r.kind = kindReduce then
      match ownResults c r with
      | none => s
      | some (d, ps) => if ps.isEmpty then done s else done (reqStore (noteLength s p r d) p r dest (resultBytes r d ps))
    else if r.kind = kindAllReduce ∧ r.xc ∧ r.outXc then
      match allRanges c r with
      | none => s
      | some rs =>
        let ps := rs.zipIdx.flatMap fun e => unpackParts true (c.size e.2) e.1
        let d := (rs.map fun bs => ofLe (bs.take 8)).foldl max 0
        done (reqStore s p r dest (xcTile d (ps.map fun q => q.slot)).1)
    else match allRanges c r with
      | none => s
      | some rs => done (reqStore s p r dest (rs.zipIdx.flatMap fun e => e.1.take (4 * c.size e.2)))

/-- Segments of this member's source: of the whole, or of the own range in a gather (R442). -/
def Coll.ownSegments (c : Coll) (r : LinkReq) : Nat :=
  if r.kind = kindGather then ceilDiv (4 * c.size c.me) 65536 else c.segments r.xc

/-- What a segment of the source is read from: first keys and bytes. Of an exact-compact tile the first segment brings the
header and the marks, and every segment the elements that they place (R560). -/
def segSpans (s : State) (p : Nat) (c : Coll) (r : LinkReq) (k : Nat) : List (Nat × Nat) :=
  let key := keyOf s (reqWho p r) r.localAt
  if r.kind = kindGather then [(key + 65536 * k, min 65536 (4 * c.size c.me - 65536 * k))]
  else if r.xc then
    let head := 16 + xcBitmap c.count
    let marks := viewNat s (key + 16) (xcBitmap c.count)
    let taken (n : Nat) : Nat := 16 * n + 88 * ((List.range n).filter marks.testBit).length
    let lo := segElems true * k
    let hi := min c.count (lo + segElems true)
    (if k = 0 then [(key, head)] else []) ++ [(key + head + taken lo, taken hi - taken lo)]
  else [(key + 4 * segElems false * k, 4 * (c.segRange false k).length)]

/-- A segment starts once its gate is open: its source is read (R407, R410); an exact-compact tile whose header counts other
elements than the record is refused then (R289, R443). -/
def startSegment (p : Nat) (c : Coll) (pos : Nat) (s : State) (k : Nat) : State :=
  match reqOf s p pos with
  | none => s
  | some q =>
    if q.finished || q.sent != k || !(segOpen s p q k) then s
    else
      let spans := segSpans s p c q k
      match badInSpans s spans with
      | some u => failColl (raiseBadIn s p (some q.jobCtx) 0 u spans) p c q stUncorrectable 0
      | none =>
        let key := keyOf s (reqWho p q) q.localAt
        let s1 := readSpans s false spans
        if q.xc && q.kind != kindGather && viewNat s (key + 8) 4 != c.count then failColl s1 p c q stDescriptor 0x04
        else modReq s1 p pos fun v => { v with sent := v.sent + 1, own := v.own ++ [(k, ownSegment s p c q k)] }

/-- A collective goes on: segments whose gates are open start, what has arrived is merged, and results are written. -/
def pushColl (s : State) (p pos : Nat) : State :=
  match reqOf s p pos with
  | none => s
  | some r =>
    match jobOf s p r.jobCtx with
    | none => s
    | some j =>
      let c := collOf j r
      if r.finished then s
      else
        let s1 := (List.range (c.ownSegments r)).foldl (startSegment p c pos) s
        let s2 := if r.kind = kindGather then s1
          else (List.range (c.segments r.xc)).foldl (fun (t : State) k => climbSegment t p c pos k) s1
        finishColl (sendRanges s2 p c pos) p c pos

/-- A message of a collective has reached its member's record: it is kept for its level, a header that differs fails the
record, and so does a failure mark (R443, R444). -/
def takeColl (s : State) (p : Nat) (pos rank : Nat) (m : LinkMsg) : State :=
  match reqOf s p pos with
  | none => s
  | some r =>
    match jobOf s p r.jobCtx with
    | none => s
    | some j =>
      let c := collOf j r
      let mark := m.reqTag.toNat / 2 ^ 48
      if r.finished then s
      else if m.reqTag.toNat % 2 ^ 48 ≠ collHeader r 0 then failColl s p c r stDescriptor 0x04
      else if mark ≠ 0 then
        (if mark = stUncorrectable then failReq s p pos stUncorrectable 0 else failReq s p pos stDescriptor 0x04)
      else
        let seg := m.operand.toNat / 2 ^ 32
        let r1 : LinkReq := { r with arrived := r.arrived ++ [(m.subop.toNat, seg, rank, m.data)] }
        let s1 := modReq s p pos fun v => { v with arrived := r1.arrived }
        let n := if m.subop = 0 then 0 else wholeElems c r1 seg m.subop.toNat rank - wholeElems c r seg m.subop.toNat rank
        pushColl (countElems s1 n) p pos

/-- The record that a message of a collective is for: the job context's, of that number. -/
def collFor (s : State) (p x : Nat) (m : LinkMsg) : Option LinkReq :=
  (s.reqRing p).inFlight.find? fun r => r.isCollective && r.jobCtx == x && r.group == bits m.reqTag.toNat 43 41 &&
    r.number == m.operand.toNat % 2 ^ 32

/-- A COLLECTIVE message arrives: it waits where the record has not been posted here yet. -/
def arriveColl (s : State) (p x rank : Nat) (m : LinkMsg) : State :=
  match collFor s p x m with
  | some r => takeColl s p r.pos rank m
  | none => { s with links := { s.links with early := s.links.early ++ [m] } }

/-- Nobody waits any more for what a waiter has sent. -/
def dropWaiter (s : State) (w : Waiter) : State :=
  let f (u : Unacked) : Unacked := if u.waiter = w then { u with waiter := .nobody } else u
  { s with links := { s.links with peers := s.links.peers.map fun p =>
      (p.1, { p.2 with unacked := p.2.unacked.map f, asked := p.2.asked.map f }) } }

/-- A collective that has not finished waits for data of a member of its group: an exchange of its tree, or a range of the
gather (R438). -/
def waitsFor (c : Coll) (r : LinkReq) (rank : Nat) : Bool :=
  let a := c.ranks.findIdx (· == rank)
  let tree := r.kind != kindGather && (List.range (c.segments r.xc)).any fun k => (List.range (treeDepth c.ranks.length)).any fun l =>
    (c.sources r.xc k (l + 1)).contains a && (arrivedParts c r k (l + 1) a).isNone
  let range := r.kind != kindReduce && c.size a != 0 &&
    (gatherBytes r rank).length < max 1 (gatherLength c r a (gatherBytes r rank))
  !r.finished && c.ranks.contains rank && rank != c.ranks.getD c.me 0 && (tree || range)

/-- The collectives that wait for a member which no READY context reaches any more fail with LINK_TIMEOUT (R438). -/
def failWaiting (s : State) (p x rank : Nat) : State :=
  if !(rankCtxs s p x rank).isEmpty then s
  else match jobOf s p x with
  | none => s
  | some j => ((s.reqRing p).inFlight.filter fun r =>
      r.isCollective && r.jobCtx == x && waitsFor (collOf j r) r rank).foldl (fun (t : State) r =>
        dropWaiter (failReq t p r.pos stLinkTimeout 0) (.request p r.pos)) s

/-! ### Starting (R442) -/

/-- The group of a record has a context to every other member (R443). -/
def groupReached (s : State) (p : Nat) (c : Coll) (r : LinkReq) : Bool :=
  c.ranks.all fun rank => rank == c.ranks.getD c.me 0 || !(rankCtxs s p r.jobCtx rank).isEmpty

/-- The check of a collective: 0, or the reason. -/
def checkColl (s : State) (p : Nat) (r : LinkReq) : Nat :=
  match jobOf s p r.jobCtx with
  | none => 0x03
  | some j =>
    let c := collOf j r
    let w := reqWho p r
    let whole := r.kind != kindReduce
    let n := if whole then c.count else c.size c.me
    let srcBytes := if r.kind = kindGather then 4 * c.size c.me else if r.xc then xcLargest c.count else 4 * c.count
    let dstBytes := if r.kind != kindGather && r.xc && r.outXc then xcLargest n else 4 * n
    if r.length = 0 then 0x04
    else if !(groupReached s p c r) || tierOf r.localAt == 4 || tierOf r.remoteAt == 4 ||
        !(granted s w false r.localAt srcBytes) || !(granted s w true r.remoteAt dstBytes) then 0x03
    else 0

/-- A collective takes the next number of its group (R443), and what has come early for it is taken. -/
def postColl (s : State) (p : Nat) (r : LinkReq) : State :=
  let key := p * 64 + r.jobCtx * 8 + r.group
  let n := mget 0 s.links.collCount key
  let s1 := modReq { s with links := { s.links with collCount := mset 0 s.links.collCount key (n + 1) } } p r.pos
    fun v => { v with number := n % 2 ^ 32 }
  let mine (m : LinkMsg) : Bool :=
    let q := s.peer m.ctx
    q.part == p && q.jobCtx == r.jobCtx && bits m.reqTag.toNat 43 41 == r.group && m.operand.toNat % 2 ^ 32 == n % 2 ^ 32
  let early := s.links.early.filter mine
  let s2 : State := { s1 with links := { s1.links with early := s1.links.early.filter fun m => !mine m } }
  pushColl (early.foldl (fun (t : State) m => takeColl t p r.pos (s.peer m.ctx).rank m) s2) p r.pos

/-- A request goes on with what its gates allow. -/
def pushReq (s : State) (p pos : Nat) : State :=
  match reqOf s p pos with
  | none => s
  | some r =>
    if r.kind = kindWrite then pushWrite p pos (reqSegments r + 1) s
    else if r.kind = kindRead then pushRead p pos (reqSegments r + 1) s
    else if r.kind = kindAtomic then pushAtomic s p pos
    else pushColl s p pos

/-- The next record of the ring starts: it is read and checked. A record of a reserved kind starts with any command. -/
def startReq (s : State) (p kind : Nat) : State :=
  let v := s.reqRing p
  if v.started == v.tail || !(reqPlaced s p) || decide (64 ≤ v.inFlight.length) || decide (2 ^ reqLog2 s p < (v.tail - v.started).toNat) then s
  else
    let pos := v.started.toNat
    let key := reqKey s p pos
    let took (r : LinkReq) : State :=
      s.modReqRing p fun v => { v with started := v.started + 1, inFlight := v.inFlight ++ [r] }
    match badUnit s key 64 with
    | some u => failReqBad (took { pos := pos, words := [] }) p { pos := pos, words := [] } u
    | none =>
      let r : LinkReq := { pos := pos, words := viewWords s key 16 }
      if reqReserved r then failReq (took r) p pos stDescriptor 0x01
      else if r.kind ≠ kind then s
      else
        let reason := if r.isCollective then checkColl s p r else checkTransfer s p r
        let s1 := correctSpan (took r) key 64
        if reason ≠ 0 then failReq s1 p pos stDescriptor reason
        else if r.isCollective then postColl s1 p r else pushReq s1 p pos

/-- A command of the link engine for one kind of request: those in flight go on as their gates open, and the next record
of the ring starts if it is of this kind. -/
def runRequests (s : State) (p kind : Nat) : State :=
  let going := ((s.reqRing p).inFlight.filter fun r => r.kind == kind && !r.finished).map LinkReq.pos
  startReq (going.foldl (fun (t : State) pos => pushReq t p pos) s) p kind

/-- LINK_REQ_WRITE (R440, R442). -/
def execLinkReqWrite (part : Nat) (s : State) : Out := .next (runRequests s part kindWrite)
/-- LINK_REQ_READ (R440, R442). -/
def execLinkReqRead (part : Nat) (s : State) : Out := .next (runRequests s part kindRead)
/-- LINK_REQ_ATOMIC (R440, R442). -/
def execLinkReqAtomic (part : Nat) (s : State) : Out := .next (runRequests s part kindAtomic)
/-- REDUCE_SCATTER (R444). -/
def execReduceScatter (part : Nat) (s : State) : Out := .next (runRequests s part kindReduce)
/-- ALL_GATHER (R444). -/
def execAllGather (part : Nat) (s : State) : Out := .next (runRequests s part kindGather)
/-- ALL_REDUCE (R444). -/
def execAllReduce (part : Nat) (s : State) : Out := .next (runRequests s part kindAllReduce)

end Sys2Proof.Machine
end

