-- ==== Sys2Proof/Machine/Links.lean ====
section
/-! DEFINITION. Peer contexts: opening and closing, arriving messages and their effects, acknowledgements, refusals,
retransmission and timeouts, and the almanac's SEND and RECV_EXPECT (R353, R385, R428–R441, R468–R470, R486). -/

namespace Sys2Proof.Machine

/-! ### Who an arriving message acts for, and where (R386, R440) -/

def peerWho (p : Peer) : Who := { core := 0, part := p.part, ctx := p.jobCtx }

/-- A target address lies within the receiver partition's grants. -/
def linkGranted (s : State) (w : Who) (a n : Nat) : Bool :=
  let t := tierOf a
  if t = 1 then
    bits a 35 27 == 0 && decide (bits a 43 36 < 160) && partOfCore s (bits a 43 36) == some w.part &&
      decide (bits a 26 0 + n ≤ slabSize)
  else if t = 2 then bits a 43 26 == 0 && inHubGrant s w.part (bits a 25 0) n
  else if t = 3 then bits a 43 39 == 0 && decide (bits a 38 0 + n ≤ (hbmRegion s w.part).2)
  else false

/-- The base of the region behind a tier-4 address, where this device is its lender and the region holds `n` bytes from
there on (R384, R386). -/
def lentHere (s : State) (w : Who) (a n : Nat) : Option Nat :=
  match granaryEntry s w.part w.ctx (bits a 43 32), jobOf s w.part w.ctx with
  | some e, some j => if e.1 = j.rank ∧ bits a 31 0 + n ≤ e.2.2 then some e.2.1 else none
  | _, _ => none

/-- The memory key of an arriving access: a tier-4 address within a region lent here, another outside every such region;
both within the grants (R386, R440). -/
def linkTarget (s : State) (w : Who) (a n : Nat) : Option Nat :=
  if tierOf a = 4 then
    (lentHere s w a n).bind fun base => if linkGranted s w (base + bits a 31 0) n then some (keyOf s w a) else none
  else if linkGranted s w a n && !inOwnLent s w.part a n then some (keyOf s w a)
  else none

/-- An access is one to a lent region (R386; log 121). -/
def isLent (a : Nat) : Bool := tierOf a == 4

/-! ### Waiters -/

/-- The front command of a movement queue, if it has this ring count. -/
def frontOfMq (s : State) (g idx : Nat) : Option CmdRec :=
  match (s.core g).mq with
  | r :: _ => if r.idx = idx then some r else none
  | [] => none

/-- A command in flight hears of one of its messages: acknowledged, or failed with a status and a reason. `closed` names
the peer context whose CLOSE fails it: of that the trap is its own (R189). -/
def flightHears (s : State) (g : Nat) (q : QueueId) (idx status reason : Nat) (closed : Option Nat) : State :=
  match (s.core g).inflight.find? fun f => f.queue == q && f.cmd.idx == idx with
  | none => s
  | some f =>
    let fresh := status ≠ 0 ∧ statusFails f.status.toNat = false
    let s1 := s.modCore g fun c => { c with inflight := c.inflight.map fun k =>
      if k.queue = q ∧ k.cmd.idx = idx then
        { k with linkWait := k.linkWait - 1, status := if fresh then BitVec.ofNat 8 status else k.status,
                 detail := if fresh then BitVec.ofNat 16 reason else k.detail }
      else k }
    if fresh ∧ status = stDescriptor then
      raiseTrap s1 (pnSeq g) { code := trapDescriptor, level := 0, part := partOfCore s g, ctx := some f.cmd.ctx, core := some g,
                               cmdId := f.cmd.cmdId, detail := fields [(0, reason)] }
    else if fresh ∧ closed.isSome then timeoutTrap s1 (whoOf s g f.cmd.ctx) f.cmd.cmdId closed
    else s1

/-- A movement command whose reads fail completes; nothing of it is kept. -/
def readsFail (s : State) (g : Nat) (r : CmdRec) (status reason : Nat) (closed : Option Nat) : State :=
  let s1 := dropWaiter (s.modCore g fun c => { c with reads := none }) (.command g .mq r.idx)
  let s2 := dropReads g (remoteSpans s1 (whoOf s1 g r.ctx) r) s1
  if reason ≠ 0 then refuseFront s2 g .mq r reason
  else completeFront (if closed.isSome then timeoutTrap s2 (whoOf s g r.ctx) r.cmdId closed else s2) g .mq r { status := status }

/-- Who waits for a message hears that it has failed: with LINK_TIMEOUT, with a refusal (reason 0x03), or because the peer
could not read or write (R410, R438, R440). `closed` names the context whose CLOSE does it. -/
def failWaiter (s : State) (u : Unacked) (status reason : Nat) (closed : Option Nat) : State :=
  match u.waiter with
  | .nobody => s
  | .command g q idx =>
    if u.msg.op = .read then
      match (s.core g).reads, frontOfMq s g idx with
      | some _, some r => readsFail s g r status reason closed
      | _, _ => s
    else flightHears s g q idx status reason closed
  | .entry d k pos =>
    match entryOf s d k pos with
    | none => s
    | some e =>
      if e.phase = .done then s
      else
        let s1 := stopTransfer s d k pos
        if reason ≠ 0 then refuseEntry s1 d k reason e else failEntry s1 d k e
  | .request p pos => dropWaiter (failReq s p pos status reason) u.waiter

/-! ### ERROR and CLOSED (R437, R438) -/

/-- The messages of a context that are not answered. -/
def Peer.open_ (p : Peer) : List Unacked :=
  p.unacked ++ p.asked.filter fun u => !(p.unacked.any fun v => v.msg.mseq == u.msg.mseq)

/-- A context leaves service: its keys are gone, and all that waits on it fails. -/
def endContext (s : State) (c : Nat) (phase : PeerPhase) : State :=
  let p := s.peer c
  let s1 := s.setPeer c { p with
    phase := phase, unacked := [], ctl := [], asked := [], hello := none, keys := none, tagFails := [] }
  p.open_.foldl (fun (t : State) u => failWaiter t u stLinkTimeout 0 (if phase = .closed then some c else none)) s1

/-- Receptions armed on a context fail with it. -/
def failRecvs (s : State) (c : Nat) : State :=
  (s.links.recvs.filter fun r => r.ctx == c && !r.dead).foldl (fun (t : State) r =>
    match entryOf t r.die r.ring r.pos with
    | some e => if e.phase = .done then t else failEntry (stopTransfer t r.die r.ring r.pos) r.die r.ring e
    | none => t) s

/-- A context enters ERROR: LINK_TIMEOUT once, naming port and context; receptions and collectives that wait on it fail. -/
def enterError (s : State) (c : Nat) : State :=
  let p := s.peer c
  let s1 := raiseTrap (s.count pnLinkCtx 2 1) pnLinkCtx
    { code := trapLinkTimeout, level := 2, part := some p.part, ctx := some p.jobCtx,
      detail := fields [(0, p.port / 2), (8, c)] }
  failWaiting (failRecvs (endContext s1 c .error) c) p.part p.jobCtx p.rank

/-! ### Opening (R436, R437, R486) -/

def linkCmdAddr : Nat := pnLinkCtx * 0x1000 + 0x108

/-- MODE matches every port of the mask. -/
def modeMatches (s : State) (p : Peer) : Bool :=
  (List.range 24).all fun h => !p.ports.testBit h || (s.regN (halfPage h) 0x010).testBit (if h % 2 = 0 then 2 else 3) == p.fabric

/-- Why an OPEN is refused: 0, or the code that CTX_STATE shows (R437, R486; codes 1–4: log 47). -/
def openRefusal (s : State) (p : Peer) : Nat :=
  if p.w 0 % 2 = 0 ∨ ctxReserved p.words then 1
  else if !p.sealedCtx && isSealed s p.part then 2
  else if (match (s.part p.part).sealedPart with
      | some v => !(v.peers.contains (BitVec.ofNat 64 p.peerId))
      | none => false) then 8
  else if !(modeMatches s p) then 3
  else if (servingPorts s p).isEmpty then 4
  else 0

/-- The DEVICE_ID that an identity key gives (R476). -/
def idOfKey (key : List Byte) : Nat := ofLe ((sha512 key).take 8)

/-- What the signature of an OPEN covers (R486): SHA-512 of key, identity and manifest hash with the other device's
DEVICE_ID, the two context numbers and the level (layout: log 47). -/
def helloSigned (first : List Byte) (otherId mine theirs level : Nat) : List Byte :=
  sha512 (first ++ leBytes 8 otherId ++ leBytes 2 mine ++ leBytes 2 theirs ++ leBytes 1 level)

/-- The MANIFEST_HASH that a partition's OPENs carry: zero where it is open. -/
def ownManifest (s : State) (p : Nat) : List Byte := ((s.part p).sealedPart).elim (List.replicate 64 0) fun v => hashBytes v.manifestHash

/-- This device's key exchange for a context with an ephemeral private key: 192 bytes (R486). -/
def helloBytes (s : State) (c : Nat) (p : Peer) (eph : BitVec 256) : List Byte :=
  let first := x25519Public (leBytes 32 eph.toNat) ++ leBytes 32 s.fuses.identityKey.toNat ++ ownManifest s p.part
  first ++ edSign (leBytes 32 s.sealU.privKey.toNat) (helloSigned first p.peerId c p.remote p.level)

/-- The check of a peer's key exchange: 0, or the reason: signature, PEER, manifest in that order (R486). -/
def helloRefusal (s : State) (c : Nat) (p : Peer) (m : LinkMsg) : Nat :=
  if !p.sealedCtx then 0
  else
    let id := (m.data.drop 32).take 32
    if m.data.length ≠ 192 ∨ !(edVerify id (helloSigned (m.data.take 128) s.fuses.deviceId.toNat p.remote c p.level) (m.data.drop 128))
      then 9
    else if ((s.part p.part).sealedPart).elim false fun v => !(v.peers.contains (BitVec.ofNat 64 (idOfKey id))) then 8
    else if (m.data.drop 64).take 64 ≠ ownManifest s p.part then 10
    else 0

/-- The keys and salts that an exchange gives (R486): from the ephemeral private key, this device's OPEN payload and the
peer's. -/
def linkKeys (ownId : Nat) (hello : BitVec 256 × List Byte) (theirs : List Byte) : LinkKeys :=
  let z := x25519 (leBytes 32 hello.1.toNat) (theirs.take 32)
  let lower := decide (ownId < idOfKey ((theirs.drop 32).take 32))
  let salt := sha512 (if lower then hello.2 ++ theirs else theirs ++ hello.2)
  let out := hkdf salt z [] 72
  { upKey := BitVec.ofNat 256 (ofLe (out.take 32)), downKey := BitVec.ofNat 256 (ofLe ((out.drop 32).take 32)),
    upSalt := BitVec.ofNat 32 (ofLe ((out.drop 64).take 4)), downSalt := BitVec.ofNat 32 (ofLe (out.drop 68)) }

/-- Both OPENs are there: the context is READY, with MSEQ from 0, or its OPEN is refused. A peer's OPEN of another level is
discarded and counted (R449). -/
def joinPeers (s : State) (c : Nat) : State :=
  let p := s.peer c
  match p.phase, p.peerOpen with
  | .opening, some m =>
    let reason := helloRefusal s c p m
    if m.level.toNat ≠ p.level then (s.setPeer c { p with peerOpen := none }).count pnLinkCtx 3 1
    else if reason ≠ 0 then
      s.setPeer c { p with phase := .closed, reason := BitVec.ofNat 4 reason, peerOpen := none, hello := none }
    else
      let keys := if p.sealedCtx then p.hello.map fun h => linkKeys s.fuses.deviceId.toNat h m.data else none
      let s1 := s.setPeer c { p with phase := .ready, peerOpen := none, sendSeq := 0, recvSeq := 0, unacked := [], asked := [],
                                     tagFails := [], hello := none, keys := keys }
      { s1 with links := { s1.links with
          recvs := (s1.links.recvs.filter fun r => !(r.ctx == c && r.dead)).map fun r =>
            if r.ctx = c then { r with matched := none, landed := 0 } else r,
          rtsWaits := s1.links.rtsWaits.filter fun r => r.ctx != c } }
  | _, _ => s

/-- OPEN written to `LINKCTX.CMD`: the record is read and checked; OPENING, or CLOSED with the reason. -/
def openCtx (s : State) (c : Nat) : State :=
  let old := s.peer c
  if old.phase ≠ .closed then s
  else
    let key := ctxTableKey s c
    let good := tierOf key == 2 && bits key 43 26 == 0 && (badUnit s key 64).isNone
    let p : Peer := { old with words := if good then ctxRecord s c else [] }
    let s := if good then correctSpan s key 64 else s
    let reason := openRefusal s p
    if reason ≠ 0 then s.setPeer c { p with reason := BitVec.ofNat 4 reason }
    else
      let port := (servingPorts s p)[c % (servingPorts s p).length]?.getD 0
      let draw := drawKey s
      let eph := BitVec.ofNat 256 (ofLe (entropy draw.1 32))
      let hello := if p.sealedCtx then some (eph, helloBytes s c p eph) else none
      let s1 := if p.sealedCtx then draw.2 else s
      let flit := CtlFlit.opening { ctx := c, op := .openMsg, mseq := 0, data := (hello.map Prod.snd).getD [] }
      let s2 := s1.setPeer c { p with phase := .opening, reason := 0, port := port, hello := hello, ctl := [flit] }
      joinPeers (pumpCtx s2 c) c

/-- CTX_OPEN (R437). -/
def execCtxOpen (init : Sender) (ctx : Nat) (s : State) : Out :=
  .next (ctlWrite s init.id linkCmdAddr (ctx + 2 ^ 12) init.behind fun t => openCtx t ctx)

/-- CTX_CLOSE (R437). -/
def execCtxClose (init : Sender) (ctx : Nat) (s : State) : Out :=
  .next (ctlWrite s init.id linkCmdAddr (ctx + 2 ^ 13) init.behind fun t =>
    endContext t ctx .closed)

/-- OPEN (R437): the peer's OPEN arrives; a context that is not OPENING keeps it until it is. -/
def execOpenMsg (m : LinkMsg) (s : State) : Out :=
  .next (
    let s1 := takeFlits s m.port (s.peer m.ctx) 3 1
    joinPeers (s1.setPeer m.ctx { s1.peer m.ctx with peerOpen := some m }) m.ctx)

/-! ### Effects of messages (R435, R440, R441) -/

/-- What a message's effect leaves, and how it is answered: by an acknowledgement, a refusal, or later. -/
structure Effect where
  s     : State
  nak   : Option NakKind := none
  later : Bool := false

/-- An access is refused (R440); one that R386 refuses is counted. -/
def refusedEffect (s : State) (p : Peer) (a n : Nat) : Effect :=
  { s := if isLent a || inOwnLent s p.part a n then s.count (pnPart p.part) 9 1 else s, nak := some .refused }

/-- Bytes served for lent regions are counted (R393), and the time they wait on the lender's share, which is open
(R387, R393; log 116). -/
def countLent (s : State) (p : Peer) (a n : Nat) : State :=
  if isLent a then (s.count (pnPart p.part) 8 n).countOpen (pnPart p.part) 10 else s

/-- The link engine could not read or write a unit for a peer: the trap goes to the partition's ring here (R410). -/
def peerBad (s : State) (p : Peer) (u : Nat) : State := raiseBad s p.part none 0 u

/-- A WRITE's bytes are written. Where a burst cannot be, the rest is, and the writer hears of it (R409, R410; log 48). -/
def effWrite (s : State) (p : Peer) (m : LinkMsg) : Effect :=
  let a := m.address.toNat
  let n := m.data.length
  match linkTarget s (peerWho p) a n with
  | none => refusedEffect s p a n
  | some key =>
    let st := memStores (countLent s p a n) false [(key, m.data)]
    let s1 := setTags st.1 0 [(key, m.data)]
    match st.2 with
    | some u => { s := peerBad s1 p u, nak := some .unwritten }
    | none => { s := s1 }

/-- An answer to a READ or an ATOMIC; SUBOP 1 says that the target could not be read (log 48). -/
def answer (s : State) (c : Nat) (op : MsgOp) (m : LinkMsg) (failed : Bool) (old : Nat) (bs : List Byte) : State :=
  (sendMsg s c { ctx := c, op := op, mseq := 0, subop := if failed then 1 else 0, operand := BitVec.ofNat 64 old,
                 reqTag := m.reqTag, data := bs } 0 .nobody).getD s

def effRead (s : State) (c : Nat) (p : Peer) (m : LinkMsg) : Effect :=
  let a := m.address.toNat
  let n := bits m.operand.toNat 16 0
  match (if 65536 < n then none else linkTarget s (peerWho p) a n) with
  | none => refusedEffect s p a n
  | some key =>
    match badUnit s key n with
    | some u => { s := answer (peerBad (noteOthers s [(key, n)] u) p u) c .readResp m true 0 [] }
    | none => { s := answer (readSpans (countLent s p a n) false [(key, n)]) c .readResp m false 0 (viewBytes s key n) }

/-- ADD, SWAP or CAS on 64 bits (R440): the value stored. -/
def atomicNew (subop old value swap : Nat) : Nat :=
  if subop = 0 then (old + value) % 2 ^ 64 else if subop = 1 then value
  else if old = value then swap else old

/-- The highest SUBOP of an ATOMIC: CAS, or SWAP on a context of level 2 (R448). -/
def atomicTop (p : Peer) : Nat := if p.level = 2 then 1 else 2

def effAtomic (s : State) (c : Nat) (p : Peer) (m : LinkMsg) : Effect :=
  let a := m.address.toNat
  if a % 8 ≠ 0 ∨ (tierOf a ≠ 1 ∧ tierOf a ≠ 2) ∨ (linkTarget s (peerWho p) a 8).isNone ∨
      atomicTop p < m.subop.toNat then
    refusedEffect s p a 8
  else
    match badUnit s a 8 with
    | some u => { s := answer (peerBad s p u) c .atomicResp m true 0 [] }
    | none =>
      let old := viewNat s a 8
      let run := [(a, leBytes 8 (atomicNew m.subop.toNat old m.operand.toNat m.operand2.toNat))]
      let st := memStores (readSpans s false [(a, 8)]) false run
      { s := answer (setTags st.1 0 run) c .atomicResp m false old [] }

/-- A command's READ is answered: its bytes are kept until the last has come, and then it runs (R385). -/
def readAnswered (s : State) (g idx key : Nat) (failed : Bool) (bs : List Byte) : State :=
  match (s.core g).reads, frontOfMq s g idx with
  | some n, some r =>
    if failed then readsFail s g r stUncorrectable 0 none
    else
      let s1 := memWrite s key bs
      if n ≤ 1 then finishReads s1 g r else s1.modCore g fun c => { c with reads := some (n - 1) }
  | _, _ => s

/-- A request's READ or ATOMIC is answered: bytes at LOCAL, one message less to wait for. -/
def requestAnswered (s : State) (p pos key : Nat) (failed : Bool) (bs : List Byte) : State :=
  match reqOf s p pos with
  | none => s
  | some r =>
    if r.finished then s
    else if failed then dropWaiter (failReq s p pos stUncorrectable 0) (.request p pos)
    else reqArrived (reqStore s p r key bs) p pos

/-- READ_RESP and ATOMIC_RESP: the message asked for has its answer. -/
def effAnswer (s : State) (c : Nat) (p : Peer) (op : MsgOp) (m : LinkMsg) : Effect :=
  let mine (u : Unacked) : Bool := u.msg.op == op && u.msg.reqTag == m.reqTag
  match p.asked.find? mine with
  | none => { s := s }
  | some u =>
    let s1 := s.setPeer c { s.peer c with asked := (s.peer c).asked.filter fun v => !mine v }
    let failed := m.subop ≠ 0
    let bs := if op = .read then m.data else leBytes 8 m.operand.toNat
    { s := match u.waiter with
        | .nobody => s1
        | .command g _ idx => readAnswered s1 g idx u.key failed bs
        | .entry d k pos =>
          if failed then failWaiter s1 u stUncorrectable 0 none
          else if (entryOf s1 d k pos).isSome then memWrite s1 u.key bs else s1
        | .request q pos => requestAnswered s1 q pos u.key failed bs }

/-- The oldest waiting TILE_RTS of a context meets the oldest reception that none has met: it is answered, and a transfer
of another size fails the entry (R353, R441). -/
def matchRts (s : State) (c : Nat) : State :=
  match s.links.rtsWaits.find? (fun r => r.ctx == c), s.links.recvs.find? (fun r => r.ctx == c && r.matched.isNone) with
  | some q, some r =>
    let other := q.size ≠ r.size
    let same (v : Recv) : Bool := v.die == r.die && v.ring == r.ring && v.pos == r.pos
    let s1 : State := { s with links := { s.links with
      rtsWaits := eraseFirst (fun v => v.ctx == c) s.links.rtsWaits,
      recvs := s.links.recvs.map fun v => if same v then { v with matched := some q.size, dead := v.dead || other } else v } }
    let s2 := sendCtl s1 c (.ack q.mseq q.tag)
    if other && !r.dead then
      match entryOf s2 r.die r.ring r.pos with
      | some e => failEntry s2 r.die r.ring e
      | none => s2
    else s2
  | _, _ => s

def effRts (s : State) (c : Nat) (m : LinkMsg) : Effect :=
  { s := matchRts { s with links := { s.links with
      rtsWaits := s.links.rtsWaits ++ [{ ctx := c, mseq := m.mseq, tag := m.reqTag, size := m.operand.toNat }] } } c
    later := true }

/-- TILE_DATA lands at the target of the oldest matched reception (R441); with SUBOP 1 its sender could not read the tile,
and the reception's entry fails (R410; log 48). -/
def effTile (s : State) (c : Nat) (m : LinkMsg) : State :=
  match s.links.recvs.find? fun r => r.ctx == c && r.matched.isSome with
  | none => s
  | some r =>
    let size := r.matched.getD 0
    let bs := m.data.take (size - r.landed)
    let total := r.landed + bs.length
    let same (v : Recv) : Bool := v.die == r.die && v.ring == r.ring && v.pos == r.pos
    let left := if size ≤ total ∨ m.subop ≠ 0 then s.links.recvs.filter fun v => !same v
      else s.links.recvs.map fun v => if same v then { v with landed := total } else v
    let s1 : State := { s with links := { s.links with recvs := left } }
    match entryOf s1 r.die r.ring r.pos with
    | none => s1
    | some e =>
      if r.dead then s1
      else if m.subop ≠ 0 then failEntry (stopTransfer s1 r.die r.ring r.pos) r.die r.ring e
      else
        let key := entryKey s1 r.die r.ring (r.target + r.landed)
        let st := memStores s1 false [(key, bs)]
        let s2 := setTags st.1 0 [(key, bs)]
        match st.2 with
        | some u => failEntryBad (stopTransfer s2 r.die r.ring r.pos) r.die r.ring u e
        | none => if size ≤ total then finishEntry s2 r.die r.ring e else s2

/-- The effect of a message that is taken in its order. -/
def effectOf (s : State) (c : Nat) (op : MsgOp) (m : LinkMsg) : Effect :=
  let p := s.peer c
  match op with
  | .write => effWrite s p m
  | .read => effRead s c p m
  | .readResp => effAnswer s c p .read m
  | .atomic => effAtomic s c p m
  | .atomicResp => effAnswer s c p .atomic m
  | .tileRts => effRts s c m
  | .tileData => { s := effTile s c m }
  | .collective => { s := arriveColl s p.part p.jobCtx p.rank m }
  | .vote => { s := if p.rankValid then arriveVote s p.rank (voteOf m.data) else s }
  | .result => { s := if p.rankValid then arriveResult s (resultOf (ofLe (m.data.take 1))) else s }
  | .openMsg => { s := s }

/-! ### Arrival (R434, R435, R439, R469, R470) -/

/-- The next message of a context has its effect, and is answered once it has. -/
def takeMsg (s : State) (c : Nat) (op : MsgOp) (m : LinkMsg) : State :=
  let p := s.peer c
  let e := effectOf (s.setPeer c { p with recvSeq := p.recvSeq + 1 }) c op m
  if e.later then e.s
  else match e.nak with
    | some k => sendCtl e.s c (.nak m.mseq k m.reqTag)
    | none => sendCtl e.s c (.ack m.mseq m.reqTag)

/-- A tag that fails discards the message; four within TIMEOUT put the context into ERROR. -/
def tagFailure (s : State) (c : Nat) : State :=
  let p := s.peer c
  let recent := p.tagFails.filter fun t => decide (s.bell.count.toNat ≤ t.toNat + p.timeout)
  let s1 := (s.count pnLinkCtx 1 1).setPeer c { p with tagFails := recent ++ [s.bell.count] }
  if 3 ≤ recent.length then enterError s1 c else s1

/-- The code of an operation in a message header (R428). -/
def MsgOp.code : MsgOp → Nat
  | .write => 0
  | .read => 1
  | .readResp => 2
  | .atomic => 3
  | .atomicResp => 4
  | .tileRts => 5
  | .tileData => 6
  | .collective => 7
  | .vote => 8
  | .result => 9
  | .openMsg => 10

/-- Flits of an arriving message. -/
def arrivedFlits (p : Peer) (m : LinkMsg) : Nat := msgFlits p m.data.length

/-- Messages parked for a peer context. -/
def parkedFor (s : State) (c : Nat) : Nat := ((s.part (s.peer c).part).parked.filter fun e => e.ctx == c).length

/-- A message waits in the park buffer: its context is switched out. Messages of the toll are never parked, and accesses
to lent regions are served (log 45). -/
def parks (s : State) (c : Nat) (op : MsgOp) (m : LinkMsg) : Bool :=
  let p := s.peer c
  let lent := (op == .write || op == .read) && isLent m.address.toNat
  peerOut s p && op.vc != 3 && (!lent || parkedFor s c != 0)

/-- The header and payload of an arriving message, as its flits carry them (R428). -/
def msgBytes (op : MsgOp) (m : LinkMsg) : List Byte :=
  leBytes 4 (fields [(0, op.code), (4, m.level.toNat), (8, m.subop.toNat)]) ++ leBytes 4 m.data.length ++ leBytes 8 m.address.toNat ++
    leBytes 8 m.operand.toNat ++ leBytes 8 m.reqTag.toNat ++ m.data

/-- The flits of a message in the park buffer, 256 bytes each (R427): payload at bytes 12 to 251, free bytes for what of a
flit its message does not fix, and for the whole of it where it is encrypted (log 139). -/
def parkBytes (free : Nat) (p : Peer) (op : MsgOp) (m : LinkMsg) : List Byte :=
  let payload := if p.sealedCtx then [] else msgBytes op m
  (List.range (arrivedFlits p m)).flatMap fun k =>
    let chunk := (payload.drop (240 * k)).take 240
    (List.range 256).map fun i =>
      if 12 ≤ i ∧ i - 12 < chunk.length then chunk.getD (i - 12) 0 else Config.freeByte (free + 256 * k + i)

/-- Flits of a message that the park buffer does not take are discarded and counted. -/
def discardFlits (s : State) (p : Peer) (m : LinkMsg) : State := s.count (pnPart p.part) 5 (arrivedFlits p m)

/-- The park buffer at PARK_BASE takes a message's flits, 16,384 at most; it is full when a message does not fit, which it
says once per switch (R469, R470). -/
def park (s : State) (c : Nat) (op : MsgOp) (m : LinkMsg) : State :=
  let p := s.peer c
  let v := s.part p.part
  let used := (v.parked.map fun e => arrivedFlits (s.peer e.ctx) e.msg).sum
  let n := arrivedFlits p m
  if used + n ≤ 16384 then
    let runs := [(s.regAddr (pnPart p.part) 0x118 + 256 * used, parkBytes s.free p op m)]
    let st := memStores { s with free := s.free + 256 * n } false runs
    ((setTags st.1 0 runs).modPart p.part fun v =>
      { v with parked := v.parked ++ [{ ctx := c, op := op, msg := m }] }).count (pnPart p.part) 4 n
  else setEvent ((discardFlits s p m).modPart p.part fun v => { v with parkFull := true }) (pnPart p.part) 3

/-- A message arrives whole: it is discarded, parked, answered as a duplicate or out of its order, or taken. A full park
buffer discards what comes for a switched-out context, unacknowledged (R470). -/
def arriveMsg (s0 : State) (op : MsgOp) (m : LinkMsg) : State :=
  let c := m.ctx
  let s := takeFlits s0 m.port (s0.peer c) op.vc (arrivedFlits (s0.peer c) m)
  let p := s.peer c
  if p.phase ≠ .ready then s
  else if p.sealedCtx && !m.tagOk then tagFailure s c
  else if m.level.toNat ≠ p.level then s.count pnLinkCtx 3 1
  else if parks s c op m && (s.part p.part).parkFull then discardFlits s p m
  else
    let waiting := parkedFor s c
    let ahead := (m.mseq - p.recvSeq).toNat
    if 2 ^ 23 ≤ ahead then
      (if s.links.rtsWaits.any fun r => r.ctx == c && r.mseq == m.mseq then s else sendCtl s c (.ack m.mseq m.reqTag))
    else if ahead < waiting then s
    else if ahead ≠ waiting then sendCtl s c (.nak (p.recvSeq + BitVec.ofNat 24 waiting) .resend m.reqTag)
    else if waiting ≠ 0 || parks s c op m then park s c op m
    else takeMsg s c op m

/-- The messages parked for a context are delivered in their order (R469). -/
def deliverParked (s : State) (p x : Nat) : State :=
  let v := s.part p
  let mine (e : Parked) : Bool := (s.peer e.ctx).jobCtx == x
  let s1 := s.modPart p fun v => { v with parked := v.parked.filter fun e => !mine e, parkFull := false }
  (v.parked.filter mine).foldl (fun (t : State) e =>
    if (t.peer e.ctx).phase = .ready then takeMsg t e.ctx e.op e.msg else t) s1

/-- WRITE (R440). -/
def execWrite (m : LinkMsg) (s : State) : Out := .next (arriveMsg s .write m)
/-- READ (R440). -/
def execRead (m : LinkMsg) (s : State) : Out := .next (arriveMsg s .read m)
/-- READ_RESP (R440). -/
def execReadResp (m : LinkMsg) (s : State) : Out := .next (arriveMsg s .readResp m)
/-- ATOMIC (R440). -/
def execAtomic (m : LinkMsg) (s : State) : Out := .next (arriveMsg s .atomic m)
/-- ATOMIC_RESP (R440). -/
def execAtomicResp (m : LinkMsg) (s : State) : Out := .next (arriveMsg s .atomicResp m)
/-- TILE_RTS (R441). -/
def execTileRts (m : LinkMsg) (s : State) : Out := .next (arriveMsg s .tileRts m)
/-- TILE_DATA (R440). -/
def execTileData (m : LinkMsg) (s : State) : Out := .next (arriveMsg s .tileData m)
/-- COLLECTIVE (R444). -/
def execCollective (m : LinkMsg) (s : State) : Out := .next (arriveMsg s .collective m)
/-- VOTE (R332). -/
def execVote (m : LinkMsg) (s : State) : Out := .next (arriveMsg s .vote m)
/-- RESULT (R332). -/
def execResult (m : LinkMsg) (s : State) : Out := .next (arriveMsg s .result m)

/-! ### Acknowledgements (R434, R440, R441) -/

/-- A SEND's TILE_RTS is answered: its bytes are read and sent. A source that cannot be read fails the entry here, and a
TILE_DATA with SUBOP 1 and no bytes tells the peer (R410; log 48). -/
def sendTile (s : State) (c d k pos : Nat) : State :=
  match entryOf s d k pos with
  | none => s
  | some e =>
    let key := entryKey s d k e.source
    match badUnit s key e.bytes with
    | some u =>
      let s1 := failEntryBad (stopTransfer (noteOthers s [(key, e.bytes)] u) d k pos) d k u e
      (sendMsg s1 c { ctx := c, op := .tileData, mseq := 0, subop := 1 } 0 .nobody).getD s1
    | none =>
      let bs := viewBytes s key e.bytes
      let msgs := (msgPieces e.bytes).map fun p =>
        (({ ctx := c, op := .tileData, mseq := 0, data := (bs.drop p.1).take p.2 } : OutMsg), 0)
      let sent := sendAll c (.entry d k pos) msgs (readSpans s false [(key, e.bytes)])
      if sent.2.2 then sent.1 else failEntry (stopTransfer sent.1 d k pos) d k e

/-- Who waits for a message hears that it has been acknowledged. -/
def hearAck (s : State) (c : Nat) (u : Unacked) : State :=
  match u.waiter, u.msg.op with
  | .command g q idx, .write => flightHears s g q idx 0 0 none
  | .entry d k pos, .tileRts => sendTile s c d k pos
  | .entry d k pos, .tileData =>
    if waiterBusy s u.waiter then s
    else match entryOf s d k pos with
    | some e => if e.phase = .inFlight then finishEntry s d k e else s
    | none => s
  | .entry d k pos, .write =>
    if waiterBusy s u.waiter then s
    else match entryOf s d k pos with
    | some e => if e.phase = .inFlight ∧ e.moved then finishEntry s d k e else s
    | none => s
  | .request p pos, .write => reqArrived s p pos
  | .request p pos, .collective => pushColl (reqArrived s p pos) p pos
  | _, _ => s

/-- MSG_ACK (R434): the message is retired, and its waiter hears of it. -/
def execMsgAck (ctx : Nat) (mseq : BitVec 24) (s0 : State) : Out :=
  .next (
    let s := takeFlits s0 (s0.peer ctx).port (s0.peer ctx) 0 1
    let p := s.peer ctx
    match p.unacked.find? fun u => u.msg.mseq == mseq with
    | none => s
    | some u =>
      pumpCtx (hearAck (s.setPeer ctx { p with unacked := eraseFirst (fun v => v.msg.mseq == mseq) p.unacked }) ctx u) ctx)

/-- Messages of a context that have a property and have been sent at least in part are to be sent again whole, with their
MSEQ; in FABRIC they are counted (R434, R455). -/
def resend (s : State) (c : Nat) (which : Unacked → Bool) : State :=
  let p := s.peer c
  let go (u : Unacked) : Bool := which u && u.started
  let n := if p.fabric then (p.unacked.filter go).length else 0
  let s1 := s.setPeer c { p with unacked := p.unacked.map fun u => if go u then { u with left := u.flits } else u }
  pumpCtx (s1.count pnLinkCtx 0 n) c

/-- MSG_NAK (R410, R434, R440): the sender resends from the expected MSEQ; a refused message fails its request with reason
0x03, one that could not be written with UNCORRECTABLE_MEM. -/
def execMsgNak (ctx : Nat) (mseq : BitVec 24) (kind : NakKind) (s0 : State) : Out :=
  .next (
    let s := takeFlits s0 (s0.peer ctx).port (s0.peer ctx) 0 1
    let p := s.peer ctx
    if kind ≠ .resend then
      match p.unacked.find? fun u => u.msg.mseq == mseq with
      | none => s
      | some u =>
        let s1 := s.setPeer ctx { p with unacked := eraseFirst (fun v => v.msg.mseq == mseq) p.unacked,
                                         asked := p.asked.filter fun v => v.msg.mseq != mseq }
        pumpCtx (if kind = .refused then failWaiter s1 u stDescriptor 0x03 none else failWaiter s1 u stUncorrectable 0 none) ctx
    else if p.phase = .ready then resend s ctx fun u => decide ((u.msg.mseq - mseq).toNat < 2 ^ 23)
    else s)

/-- RETRANSMIT (R434, R470): a message is not acknowledged within RTO. -/
def execRetransmit (ctx : Nat) (mseq : BitVec 24) (s : State) : Out :=
  .next (
    let rto := max 1 (bits (s.regN pnLinkCtx 0x114) 15 0)
    let late (u : Unacked) : Bool := u.msg.mseq == mseq && u.left == 0 && decide (u.resent.toNat + rto ≤ s.bell.count.toNat)
    if (s.peer ctx).phase = .ready ∧ (s.peer ctx).unacked.any late then resend s ctx late else s)

/-- CONTEXT_TIMEOUT (R438): a message is not acknowledged within TIMEOUT of its first sending. A TILE_RTS waits for its
peer's reception alone (R441). -/
def execContextTimeout (ctx : Nat) (s : State) : Out :=
  .next (
    let p := s.peer ctx
    let late (u : Unacked) : Bool := u.msg.op != .tileRts && u.sentAt.any fun t => decide (t.toNat + p.timeout ≤ s.bell.count.toNat)
    if p.phase == .ready && (p.unacked.any late) then enterError s ctx else s)

/-- 50 µs have passed since the partition's latest switch (R468). -/
def drainOver (s : State) (p : Nat) : Bool := decide ((s.part p).lastSwitch.toNat + 7813 ≤ s.bell.count.toNat)

/-- DRAIN_CUT (R468): a message begun and not sent whole is cut, to be sent again after restore. -/
def execDrainCut (ctx : Nat) (s : State) : Out :=
  .next (
    let p := s.peer ctx
    let cut (u : Unacked) : Bool := u.started && u.left != 0
    if drainOver s p.part && peerOut s p && (p.unacked.any cut) then
      (s.setPeer ctx { p with unacked := p.unacked.map fun u => if cut u then { u with left := u.flits } else u }).count
        (pnPart p.part) 6 (p.unacked.filter cut).length
    else s)

/-! ### SEND and RECV_EXPECT (R353, R441) -/

/-- An entry may name a peer context: it belongs to the partition, or to none (R436). -/
def entryCtxOk (s : State) (k c : Nat) : Bool := (ctxOwner s c).elim true fun q => q == ringPart k

/-- SEND (R353): the TILE_RTS of a TILE_SEND is sent. -/
def execSend (die ring : Nat) (s : State) : Out :=
  .next (match firing s die ring actSend true with
    | none => s
    | some e =>
      let s1 := fire s die ring e
      let c := e.target
      if !(entryCtxOk s ring c) then refuseEntry s1 die ring 0x03 e
      else match sendMsg s1 c { ctx := c, op := .tileRts, mseq := 0, operand := BitVec.ofNat 64 e.bytes } 0 (.entry die ring e.pos) with
      | some t => t
      | none => failEntry s1 die ring e)

/-- RECV_EXPECT (R353): reception is armed. -/
def execRecvExpect (die ring : Nat) (s : State) : Out :=
  .next (match firing s die ring actRecv true with
    | none => s
    | some e =>
      let s1 := fire s die ring e
      let c := e.source
      if !(entryCtxOk s ring c) then refuseEntry s1 die ring 0x03 e
      else if (s.peer c).phase = .error then failEntry s1 die ring e
      else matchRts { s1 with links := { s1.links with recvs := s1.links.recvs ++
        [{ die := die, ring := ring, pos := e.pos, ctx := c, target := e.target, size := e.bytes }] } } c)

end Sys2Proof.Machine
end

