-- ==== Sys2Proof/Machine/Jobs.lean ====
section
/-! DEFINITION. Jobs: admission and its checks, ending, suspending, resuming and discarding contexts (R203, R204,
R291–R293, R383, R384, R457–R465, R485, R561). -/

namespace Sys2Proof.Machine

/-! ### The admission record and what it names (R291, R292, R459, R461) -/

/-- An area of hub SRAM within a partition's grant (R561). -/
def partArea (s : State) (p a n align : Nat) : Bool := hubArea a n align && inHubGrant s p (bits a 25 0) n

/-- The contexts of a mask. -/
def maskCtxs (m : Nat) : List Nat := (List.range 8).filter fun x => m.testBit x

/-- Fields of an admission record. -/
def admTraining (ws : List Word) : Bool := !(wordAt ws 0).testBit 0
def admLevel (ws : List Word) : Nat := bits (wordAt ws 0) 7 4
def admMask (ws : List Word) : Nat := bits (wordAt ws 0) 15 8
def admEval (ws : List Word) : Nat := bits (wordAt ws 0) 23 16
def admMapping (ws : List Word) : Nat := wordAt ws 2 + 2 ^ 32 * bits (wordAt ws 3) 15 0

/-- A reserved bit or value of the record: EVAL_MASK is for TRAINING jobs only. -/
def admReserved (ws : List Word) : Bool :=
  bits (wordAt ws 0) 3 1 != 0 || bits (wordAt ws 0) 31 24 != 0 || bits (wordAt ws 3) 31 16 != 0 ||
    ((List.range 12).any fun k => wordAt ws (4 + k) != 0) || (!admTraining ws && admEval ws != 0)

/-- Fields of a mapping record. -/
structure MapRec where
  words : List Word

def MapRec.w (m : MapRec) (k : Nat) : Nat := wordAt m.words k
def MapRec.t (m : MapRec) : Nat := 2 ^ bits (m.w 0) 1 0
def MapRec.n (m : MapRec) : Nat := bits (m.w 0) 14 2
def MapRec.stages (m : MapRec) : Nat := bits (m.w 0) 23 15
def MapRec.shards (m : MapRec) : Nat := bits (m.w 1) 15 0
def MapRec.micro (m : MapRec) : Nat := bits (m.w 1) 22 16
def MapRec.defer (m : MapRec) : Nat := bits (m.w 1) 29 23
def MapRec.chunk (m : MapRec) : Nat := 128 * bits (m.w 2) 16 0
def MapRec.seed (m : MapRec) : Nat := longAt m.words 3
def MapRec.footHbm (m : MapRec) : Nat := bits (m.w 5) 23 0
def MapRec.footSlab (m : MapRec) : Nat := bits (m.w 6) 16 0
def MapRec.footHub (m : MapRec) : Nat := bits (m.w 7) 16 0
def MapRec.devlist (m : MapRec) : Nat := m.w 8 + 2 ^ 32 * bits (m.w 9) 15 0
def MapRec.kvHeads (m : MapRec) : Nat := bits (m.w 10) 15 0
def MapRec.ranks (m : MapRec) : Nat := m.t * m.n * m.stages * m.shards

/-- A reserved bit of a mapping record. -/
def MapRec.isReserved (m : MapRec) : Bool :=
  bits (m.w 0) 31 24 != 0 || bits (m.w 1) 31 30 != 0 || bits (m.w 2) 31 20 != 0 || bits (m.w 5) 31 24 != 0 ||
    bits (m.w 6) 31 17 != 0 || bits (m.w 7) 31 17 != 0 || bits (m.w 9) 31 16 != 0 || bits (m.w 10) 31 16 != 0 ||
    (List.range 5).any fun k => m.w (11 + k) != 0

/-- The ranges of the fields (R291), the number of devices, G and M_b, the chunk, and the head count (R293). -/
def MapRec.inRange (m : MapRec) : Bool :=
  decide (1 ≤ m.n) && decide (m.n ≤ 4096) && decide (1 ≤ m.stages) && decide (m.stages ≤ 256) &&
    decide (1 ≤ m.shards) && decide (m.shards ≤ 32768) && decide (1 ≤ m.micro) &&
    decide (1 ≤ m.defer) && decide (m.defer ≤ 64) && m.micro % m.defer == 0 &&
    (m.n != 1 || m.chunk == 0) && decide (m.footSlab ≤ 90112) && decide (m.footHub ≤ 65536) &&
    decide (m.ranks ≤ 32768) && (m.n == 1 || decide (2 * m.n * m.chunk ≤ 2 ^ 24)) && m.kvHeads % m.t == 0

/-- The device list as memory holds it. -/
def devWords (s : State) (key n : Nat) : List (List Word) := (List.range n).map fun r => viewWords s (key + 16 * r) 4
def devEntry (ws : List Word) : DevEntry :=
  { deviceId := BitVec.ofNat 64 (longAt ws 0), node := bits (wordAt ws 2) 23 0, slot := bits (wordAt ws 2) 26 24 }

/-- A value appears twice. -/
def repeats (l : List Nat) : Bool := !decide l.Nodup

/-- The checks of R293 on a device list. -/
def devlistBad (m : MapRec) (l : List DevEntry) : Bool :=
  repeats (l.map fun e => e.deviceId.toNat) || repeats (l.map fun e => e.node * 8 + e.slot) ||
    (l.zip (l.drop 1)).zipIdx.any fun e => (e.2 + 1) % m.t != 0 && e.1.1.node != e.1.2.node

/-- A control block (R461): the reserved bits, alignments and ranges of one block. -/
def blockBad (ws : List Word) : Bool :=
  let w := wordAt ws
  let stage := bits (w 1) 23 0 != bits (w 2) 23 0
  let vscr := bits (w 3) 23 0 != bits (w 4) 23 0
  bits (w 0) 31 27 != 0 || decide (poolLo < w 2) || ([1, 2, 3, 4].any fun k => bits (w k) 31 24 != 0) || w 6 != 0 || w 7 != 0 ||
    bits (w 0) 26 0 % 0x10000 != 0 || (w 0 != 0 && decide (slabSize < w 0 + 8650752)) ||
    bits (w 1) 23 0 % 0x1000 != 0 ||
    (stage && (decide (w 1 < stageLo) || decide (w 2 < w 1))) ||
    (vscr && (decide (w 3 < scratchLo) || decide (w 4 < w 3)))

/-- The slice length that SLICE_BT states (R461). -/
def sliceOf (w : Nat) : Nat := if w = 0 then 0 else max w 15625

/-- The context that a control block sets up, while it is not yet admitted. -/
def blockCtx (ws : List Word) (seed : Nat) (isEval : Bool) : Ctx :=
  let w := wordAt ws
  { seed := BitVec.ofNat 64 seed, isEval := isEval, saveOffset := w 0, stageLo := w 1, stageHi := w 2,
    vscrLo := w 3, vscrHi := w 4, sliceBt := sliceOf (w 5) }

/-- Two contexts' windows overlap (R461). -/
def Ctx.clash (a b : Ctx) : Bool :=
  overlap a.stageLo a.stageHi b.stageLo b.stageHi || overlap a.vscrLo a.vscrHi b.vscrLo b.vscrHi

/-- A set of contexts may not share a partition: windows overlap, one is unsliced beside another, or one that is sliced
beside another has no save area (R461, R464, R467). -/
def ctxsClash : List Ctx → Bool
  | [] => false
  | c :: r => (r.any c.clash) || (!r.isEmpty && (c.sliceBt == 0 || c.saveOffset == 0)) ||
      (r.any fun d => d.sliceBt == 0 || d.saveOffset == 0) || ctxsClash r

/-! ### The granary table (R383, R384) -/

/-- A valid entry's lender, first address and size. -/
def granRegion (ws : List Word) : Nat × Nat × Nat :=
  (bits (wordAt ws 1) 14 0, wordAt ws 2 + 2 ^ 32 * bits (wordAt ws 3) 15 0, bits (wordAt ws 4) 16 0 * 0x10000)

/-- A valid entry that R383 refuses by itself: its lender is no rank of the job, or its region lies in no lender's slab or
HBM; of this device's own, outside the partition's grants. -/
def granBad (s : State) (p ranks : Nat) (rank : Option Nat) (ws : List Word) : Bool :=
  let e := granRegion ws
  let hbm := (wordAt ws 0).testBit 1
  let a := e.2.1
  let form := a % 0x10000 == 0 && e.2.2 != 0 && decide (e.2.2 ≤ 2 ^ 32) &&
    (if hbm then tierOf a == 3 && bits a 43 39 == 0 && decide (bits a 38 0 + e.2.2 ≤ hbmSize)
     else tierOf a == 1 && bits a 35 27 == 0 && decide (bits a 43 36 < 160) && decide (bits a 26 0 + e.2.2 ≤ slabSize))
  let own := rank != some e.1 ||
    (if hbm then decide (bits a 38 0 + e.2.2 ≤ (hbmRegion s p).2) else partOfCore s (bits a 43 36) == some p)
  decide (ranks ≤ e.1) || !form || !own

/-- Two valid entries overlap on one lender. -/
def granOverlap (l : List (List Word)) : Bool :=
  !decide ((l.map granRegion).Pairwise fun a b =>
    ¬ (a.1 = b.1 ∧ overlap a.2.1 (a.2.1 + a.2.2) b.2.1 (b.2.1 + b.2.2) = true))

/-- The granary table at a key is refused. -/
def granaryBad (s : State) (p ranks : Nat) (rank : Option Nat) (l : List (List Word)) : Bool :=
  let valid := l.filter fun ws => (wordAt ws 0).testBit 0
  valid.any (granBad s p ranks rank) || granOverlap valid

/-! ### Admission (R460) -/

def granaryBase (s : State) (p : Nat) : Nat := s.regAddr (pnPart p) 0x150

/-- A hub SRAM address register that the job uses is invalid (R561). -/
def admAreasBad (s : State) (p : Nat) (training : Bool) : Bool :=
  !(partArea s p (s.regAddr (pnPart p) 0x110) 0x8000 0x8000) || !(partArea s p (s.regAddr (pnPart p) 0x118) 0x400000 0x400000) ||
    !(granaryBase s p == 0 || partArea s p (granaryBase s p) 0x20000 0x1000) ||
    (training && !(hubArea (s.regAddr pnSched 0x110) 0x4000 0x4000))

/-- A TRAINING job is admitted, or its admission is pending. -/
def trainingTaken (s : State) : Bool :=
  (trainingPart s).isSome || (List.range 4).any fun p => match (s.part p).pendingJob with | some j => j.training | none => false

/-- What admission reads: a span that cannot be read refuses, with the trap (R372). -/
structure Reading where
  reason : Nat := 0
  bad    : Option Nat := none
  /-- what it has read -/
  spans  : List (Nat × Nat) := []

/-- The mapping and its device list: the reason, or the list (R291–R293). -/
def readMapping (s : State) (p : Nat) (ws : List Word) : Reading × MapRec × List DevEntry :=
  let a := admMapping ws
  let m : MapRec := { words := viewWords s a 16 }
  let none_ (b : Option Nat) (spans : List (Nat × Nat)) : Reading × MapRec × List DevEntry :=
    ({ reason := 0x02, bad := b, spans := spans }, m, [])
  if !(partArea s p a 64 64) then none_ none []
  else match badUnit s a 64 with
  | some u => none_ (some u) [(a, 64)]
  | none =>
    let n := m.ranks
    let spans := [(a, 64), (m.devlist, 16 * n)]
    if m.isReserved || !m.inRange || !(partArea s p m.devlist (16 * n) 16) then none_ none [(a, 64)]
    else match badUnit s m.devlist (16 * n) with
    | some u => none_ (some u) spans
    | none =>
      let raw := devWords s m.devlist n
      let l := raw.map devEntry
      let fits := decide (m.footHbm * 2 ^ 20 ≤ (hbmRegion s p).2) && decide (m.footHub * 2 ^ 10 ≤ (hubGrant s p).2)
      if (raw.any fun ws => bits (wordAt ws 2) 31 27 != 0 || wordAt ws 3 != 0) || devlistBad m l ||
        ((coresOfPart s p).any fun g => (s.core g).disabled) || !fits then none_ none spans
      else ({ spans := spans }, m, l)

/-- The granary table: the reason, or its entries; none where GRANARY_BASE is 0 (R383). -/
def readGranary (s : State) (p ranks : Nat) (rank : Option Nat) : Reading × List (List Word) :=
  let a := granaryBase s p
  if a = 0 then ({}, [])
  else match badUnit s a 0x20000 with
  | some u => ({ reason := 0x06, bad := some u, spans := [(a, 0x20000)] }, [])
  | none =>
    let l := (List.range 4096).map fun h => viewWords s (a + 32 * h) 8
    if granaryBad s p ranks rank l then ({ reason := 0x06, spans := [(a, 0x20000)] }, []) else ({ spans := [(a, 0x20000)] }, l)

/-- The control blocks: the reason, or the contexts they set up (R461, R464, R467). -/
def readBlocks (s : State) (p : Nat) (ws : List Word) (seed : Nat) : Reading × List (Nat × Ctx) :=
  let xs := maskCtxs (admMask ws)
  let keyAt (x : Nat) : Nat := ctxPage s p x + 0x400
  let spans := xs.map fun x => (keyAt x, 32)
  match badInSpans s spans with
  | some u => ({ reason := 0x07, bad := some u, spans := spans }, [])
  | none =>
    let raw := xs.map fun x => (x, viewWords s (keyAt x) 8)
    let cs := raw.map fun e => (e.1, blockCtx e.2 seed ((admEval ws).testBit e.1))
    let live := ((s.part p).ctxs.filter fun e => e.2.phase != .free).map Prod.snd
    if (raw.any fun e => blockBad e.2) || ctxsClash (live ++ cs.map Prod.snd) then ({ reason := 0x07, spans := spans }, []) else ({ spans := spans }, cs)

/-- The checks of a sealed partition (R485). -/
def sealedBad (s : State) (p : Nat) (ws : List Word) (l : List DevEntry) : Bool :=
  match (s.part p).sealedPart with
  | none => false
  | some v => admLevel ws != v.level || ((maskCtxs (admMask ws)).any fun x => !(v.loaded.contains (ctxProg s p x))) ||
      l.any fun e => !(v.peers.contains e.deviceId)

/-- The checks of the record before anything else is read: 0, or the reason. -/
def checkAdmission (s : State) (p : Nat) (ws : List Word) : Nat :=
  let m := admMask ws
  if admReserved ws then 0x01
  else if admTraining ws && trainingTaken s then 0x03
  else if m = 0 ∨ ((maskCtxs m).any fun x => ((s.part p).ctx x).phase != .free) ∨ Nat.lor (admEval ws) m ≠ m ∨ admEval ws = m
    then 0x04
  else if admLevel ws < 2 ∨ 3 < admLevel ws then 0x05
  else if admAreasBad s p (admTraining ws) then 0x0B
  else 0

/-- Admission ends: REFUSED with the reason, no context set up; or ADMITTED. -/
def refuseJob (s : State) (p reason : Nat) (bad : Option Nat) : State :=
  let s1 := match bad with
    | some u => raiseTrap s (pnPart p) { code := trapUncorrectable, level := 2, part := some p, detail := fields [(0, 7), (16, u)] }
    | none => s
  setEvent (s1.modPart p fun v => { v with
    admission := .refused, admitReason := BitVec.ofNat 8 reason, pendingJob := none,
    ctxs := match v.pendingJob with
      | none => v.ctxs
      | some j => (maskCtxs j.ctxMask.toNat).foldl (fun m x => mset {} m x {}) v.ctxs }) (pnPart p) 0

/-- The rank of this device: its place in the list; a list that does not name it gives none, and the rank is free
(log 52). -/
def rankOf (s : State) (l : List DevEntry) : Nat × State :=
  match l.findIdx? fun e => e.deviceId == s.fuses.deviceId with
  | some r => (r, s)
  | none => let d := drawFree s; (d.1.toNat % 2 ^ 15, d.2)

/-- ADMIT: the device checks the record and what it names on its own; PENDING, or REFUSED (R460). -/
def admitStart (s : State) (p : Nat) : State :=
  let a := s.regAddr (pnPart p) 0x120
  if quadsOf s p = 0 ∨ (hubGrant s p).2 = 0 ∨ s.boot.minimal then refuseJob s p 0x09 none
  else if !(partArea s p a 64 64) then refuseJob s p 0x01 none
  else match badUnit s a 64 with
  | some u => refuseJob s p 0x01 (some u)
  | none =>
    let ws := viewWords s a 16
    let early := checkAdmission s p ws
    let s0 := readSpans s false [(a, 64)]
    if early ≠ 0 then refuseJob s0 p early none
    else
      let r1 := readMapping s p ws
      let m := r1.2.1
      let l := r1.2.2
      let s1 := readSpans s0 false r1.1.spans
      if r1.1.reason ≠ 0 then refuseJob s1 p r1.1.reason r1.1.bad
      else
        let listed := l.findIdx? fun e => e.deviceId == s.fuses.deviceId
        let r2 := readGranary s p m.ranks listed
        let s2 := readSpans s1 false r2.1.spans
        if r2.1.reason ≠ 0 then refuseJob s2 p r2.1.reason r2.1.bad
        else
          let r3 := readBlocks s p ws m.seed
          let s3 := readSpans s2 false r3.1.spans
          if r3.1.reason ≠ 0 then refuseJob s3 p r3.1.reason r3.1.bad
          else if sealedBad s p ws l then refuseJob s3 p 0x08 none
          else
            let k := rankOf s3 l
            let job : Job :=
              { jobId := BitVec.ofNat 32 (wordAt ws 1), training := admTraining ws, level := admLevel ws,
                ctxMask := BitVec.ofNat 8 (admMask ws), evalMask := BitVec.ofNat 8 (admEval ws), mapping := m.words,
                devlist := l, granary := r2.2, rank := k.1, pendingAt := s.bell.count }
            k.2.modPart p fun v => { v with
              pendingJob := some job, admission := .pending, admitReason := 0,
              ctxs := r3.2.foldl (fun c e => mset {} c e.1 e.2) v.ctxs }

/-- ADMIT (R460): a write of ADMIT to `PART.JOB_CMD`; while an admission is pending it is ignored. -/
def jobAdmit (s : State) (init p value : Nat) : State :=
  if (s.part p).admission = .pending then ignoreWrite s 6 init (jobCmdAddr p) value else admitStart s p
def execAdmitJob (init : Sender) (part : Nat) (s : State) : Out :=
  .next (ctlWrite s init.id (jobCmdAddr part) 1 init.behind fun t => jobAdmit t init.id part 1)

/-! ### The slice cycle (R464) -/

/-- The slices of the admitted contexts, in context order. -/
def slicesOf (s : State) (p : Nat) : List (Nat × Nat) :=
  (maskCtxs 255).filterMap fun x =>
    let c := (s.part p).ctx x
    if c.phase ≠ .free ∧ c.sliceBt ≠ 0 then some (x, c.sliceBt) else none

/-- The slice that a place in a cycle falls into. -/
def sliceAt : Nat → List (Nat × Nat) → Option Nat
  | _, [] => none
  | t, (x, n) :: r => if t < n then some x else sliceAt (t - n) r

/-- The context whose slice the bell count lies in: before cycle 0 the lowest-numbered sliced one. -/
def sliceDue (s : State) (cycle : List (Nat × Nat)) (p : Nat) : Option Nat :=
  let epoch := s.regPair (pnPart p) 0x138
  let z := (cycle.map Prod.snd).sum
  let now := s.bell.count.toNat
  if now < epoch ∨ z = 0 then cycle.head?.map Prod.fst else sliceAt ((now - epoch) % z) cycle

/-- The cycle in force: an old one counts until the time its next cycle would have begun. -/
def cycleNow (s : State) (p : Nat) : List (Nat × Nat) :=
  match (s.part p).cycleEnds with
  | some t => if t ≤ s.bell.count then slicesOf s p else (s.part p).cycle
  | none => slicesOf s p

/-- The context to be switched in: the due one, if it is admitted still; with no sliced context the one that is. -/
def ctxDue (s : State) (p : Nat) : Option Nat :=
  ((sliceDue s (cycleNow s p) p).filter fun x => ((s.part p).ctx x).phase != .free).or (s.part p).cur

/-- The next time that a cycle begins. -/
def nextCycle (s : State) (p : Nat) (cycle : List (Nat × Nat)) : Nat :=
  let epoch := s.regPair (pnPart p) 0x138
  let z := (cycle.map Prod.snd).sum
  let now := s.bell.count.toNat
  if now < epoch ∨ z = 0 then epoch else epoch + ((now - epoch) / z + 1) * z

/-- The set of admitted contexts changes from `s` to `t`: the cycle in force counts on until it would have begun again, or
ends with its last context. -/
def changeCycle (s t : State) (p : Nat) : State :=
  let old := cycleNow s p
  t.modPart p fun v =>
    if old.isEmpty ∨ (slicesOf t p).isEmpty then { v with cycle := [], cycleEnds := none }
    else { v with cycle := old, cycleEnds := some (BitVec.ofNat 64 (nextCycle s p old)) }

/-- Every core of the partition takes part at once: nothing is to be saved. -/
def switchIn (s : State) (p : Nat) (x : Option Nat) : State :=
  (coresOfPart s p).foldl (fun (t : State) g => t.modCore g fun c => { c with cur := x, incoming := none })
    (s.modPart p fun v => { v with cur := x })

/-! ### ADMITTED, or the digests differ (R460) -/

/-- A context's semaphores are 0 (R460, R463). -/
def clearSems (s : State) (p x : Nat) : State := (memStore s (ctxPage s p x) (List.replicate 1024 0)).1

/-- ADMITTED: semaphores 0, the contexts RUNNABLE with the job's seed. -/
def admitDone (s : State) (p : Nat) (j : Job) : State :=
  let xs := maskCtxs j.ctxMask.toNat
  let s1 := xs.foldl (fun (t : State) x => clearSems t p x) s
  let s2 := changeCycle s (s1.modPart p fun v => { v with
    jobs := v.jobs ++ [j], pendingJob := none, admission := .admitted, admitReason := 0,
    ctxs := xs.foldl (fun c x => mset {} c x { mget {} c x with phase := .runnable, isEval := j.evalMask.getLsbD x }) v.ctxs }) p
  let s3 := if (s.part p).cur.isNone then switchIn s2 p ((sliceDue s2 (slicesOf s2 p) p).or xs.head?) else s2
  setEvent s3 (pnPart p) 0

/-- ADMIT_DIGEST_DONE (R460): every rank-valid peer's digest has arrived. -/
def execAdmitDigestDone (part : Nat) (allMatch : Bool) (s : State) : Out :=
  .next (match (s.part part).pendingJob with
    | none => s
    | some j => if allMatch then admitDone s part j else refuseJob s part 0x0A none)

/-- ADMIT_TIMEOUT (R460): a digest is missing 1 s after PENDING. -/
def execAdmitTimeout (part : Nat) (s : State) : Out :=
  .next (match (s.part part).pendingJob with
    | none => s
    | some j => if j.pendingAt.toNat + 156250000 ≤ s.bell.count.toNat then refuseJob s part 0x0A none else s)

/-! ### Discarding (R204, R357) -/

/-- The uncompleted commands of a context on a core, with the queue each is in. -/
def openCmds (c : Core) (x : Nat) : List (Option QueueId × CmdRec) :=
  let mine (l : List CmdRec) : List CmdRec := l.filter fun r => r.ctx == x
  let r := c.ring x
  let sv := mget {} c.saved x
  ((mine (r.acting ++ r.hold.toList)).map fun k => (none, k)) ++
    ((mine (c.gather.elim [] GatherGroup.reqs ++ c.aq ++ sv.aq)).map fun k => (some .aq, k)) ++
    ((mine (c.vq ++ sv.vq)).map fun k => (some .vq, k)) ++ ((mine (c.mq ++ sv.mq)).map fun k => (some .mq, k)) ++
    (c.inflight.filter fun f => f.cmd.ctx == x).map fun f => (some f.queue, f.cmd)

/-- A core without a context's commands, slots and saved state. -/
def Core.without (c : Core) (x : Nat) : Core :=
  let others (l : List CmdRec) : List CmdRec := l.filter fun r => r.ctx != x
  let here := c.cur == some x
  let c1 : Core := { c with
    aq := others c.aq, vq := others c.vq, mq := others c.mq, inflight := c.inflight.filter (fun f => f.cmd.ctx != x),
    bottom := if here then {} else c.bottom, side := if here then {} else c.side,
    gather := c.gather.bind fun q => if q.reqs.any (fun r => r.ctx == x) then none else some q,
    saved := merase c.saved x, landing := if here then [] else c.landing, partials := if here then [] else c.partials,
    reads := match c.mq.head? with
      | some r => if r.ctx = x then none else c.reads
      | none => c.reads }
  let ring (r : Ring) : Ring := { r with
    acting := others r.acting, hold := none, stopped := false, waited := 0, boundaryAt := none, released := false }
  c1.setRing x (ring (c1.ring x))

/-- The next record of the ring, which has not been fetched, completes with ABORTED. -/
def abortNext (s : State) (g x : Nat) : State :=
  let i := ((s.core g).ring x).fetched.toNat
  let key := ringBase s g x + 64 * (i % 2 ^ ringLog2 s g x)
  let lost := (badUnit s key 64).isSome
  let c : CmdRec := { ctx := x, idx := i, words := if lost then [] else viewWords s key 16 }
  completeCmd ((if lost then s else readSpans s false [(key, 64)]).modRing g x (enroll c)) g none c { status := stAborted }

/-- Records of the ring that have not been fetched complete with ABORTED. -/
def abortUnfetched (g x : Nat) : Nat → State → State
  | 0, s => s
  | n + 1, s => abortUnfetched g x n (abortNext s g x)

/-- What a movement command at the front has asked of lenders is wanted no more. -/
def dropFrontReads (s : State) (g : Nat) : State :=
  match (s.core g).reads, (s.core g).mq.head? with
  | some _, some r =>
    dropReads g (remoteSpans s (whoOf s g r.ctx) r)
      (dropWaiter (s.modCore g fun c => { c with reads := none }) (.command g .mq r.idx))
  | _, _ => s

/-- A release that waits for room in the log is dropped with its command (R492). -/
def dropHeld (s : State) (p g : Nat) : State := modSealed s p fun v => { v with waiting := merase v.waiting g }

/-- A context is discarded on one core. -/
def discardOn (s : State) (p x g : Nat) : State :=
  let front := match (s.core g).mq.head? with | some r => r.ctx == x | none => false
  let s1 := if front then dropHeld (dropFrontReads s g) p g else s
  let cmds := openCmds (s1.core g) x
  let s2 := cmds.foldl (fun (t : State) e => match e.1 with
    | some q => dropWaiter t (.command g q e.2.idx)
    | none => t) s1
  let s3 := s2.modCore g fun c => c.without x
  let s4 := cmds.foldl (fun (t : State) e => completeCmd t g e.1 e.2 { status := stAborted }) s3
  let r := (s4.core g).ring x
  let n := (r.tail - r.fetched).toNat
  abortUnfetched g x (if n ≤ 2 ^ ringLog2 s4 g x then n else 0) s4

/-- Entries of a context stop and signal nothing: those in flight, or all (R357, R463). -/
def stopEntries (s : State) (p x : Nat) (all : Bool) : State :=
  let k := p * 8 + x
  (List.range 4).foldl (fun (t : State) d =>
    let es := (((t.die d).ring k).entries.filter fun e => e.phase == .inFlight || (all && e.phase == .waiting)).map Entry.pos
    let t1 := es.foldl (fun (t : State) pos =>
      modEntry (stopTransfer t d k pos) d k pos fun e => { e with phase := .done, list := none }) t
    let closed (o : Nat × Nat) : Bool := o.1 == k && es.contains o.2
    let t2 := t1.modDie d fun v =>
      { v with retrainOpen := v.retrainOpen.filter fun o => !closed o,
               armed := if v.armed.any fun a => closed a.2 then none else v.armed }
    if all then
      (((t.die d).ring k).entries.foldl (fun (t : State) e => countWait t d k e) t2).modDie d fun v => v.setRing k { v.ring k with entries := [], fetched := (v.ring k).tail, head := (v.ring k).tail }
    else settleRing t2 d k) s

/-- A context is discarded: its commands complete with ABORTED, its slots are FREE, its entries in flight stop, and its
step has not failed (R189, R204, R357). -/
def discardCtx (s : State) (p x : Nat) : State :=
  let s1 := stopEntries s p x false
  let s2 := (coresOfPart s p).foldl (fun (t : State) g => discardOn t p x g) s1
  let s3 : State := { s2 with sched := { s2.sched with lateFails := s2.sched.lateFails.filter fun e => e != (p, x) } }
  s3.modCtx p x fun c => { c with stepFailed := false, evalWins := [] }

/-! ### Suspend, resume, discard (R204, R465, R474) -/

/-- An action written to `PART.CTX_CMD` for a context that is not FREE. -/
def ctxAction (s : State) (init p x value : Nat) (act : State → State) : State :=
  if ((s.part p).ctx x).phase = .free then ignoreWrite s 6 init (ctxCmdAddr p) value else act s

def doSuspend (s : State) (p x : Nat) : State := s.modCtx p x fun c => { c with phase := .suspended }
/-- A resumed context dispatches again, after a record that halted it or a WAIT that timed out (R198, R204). -/
def doResume (s : State) (p x : Nat) : State :=
  (coresOfPart s p).foldl (fun (t : State) g => t.modRing g x fun r => { r with stopped := false })
    (s.modCtx p x fun c => { c with phase := .runnable })
def doDiscard (s : State) (p x : Nat) : State := (discardCtx s p x).modCtx p x fun c => { c with phase := .runnable }

/-- The value of `PART.CTX_CMD` for an action. -/
def ctxCmd (x action : Nat) : Nat := x + 16 * action

/-- SUSPEND (R465). -/
def execSuspend (init : Sender) (part ctx : Nat) (s : State) : Out :=
  .next (ctlWrite s init.id (ctxCmdAddr part) (ctxCmd ctx 1) init.behind fun t =>
    ctxAction t init.id part ctx (ctxCmd ctx 1) fun t => doSuspend t part ctx)
/-- RESUME (R204). -/
def execResume (init : Sender) (part ctx : Nat) (s : State) : Out :=
  .next (ctlWrite s init.id (ctxCmdAddr part) (ctxCmd ctx 2) init.behind fun t =>
    ctxAction t init.id part ctx (ctxCmd ctx 2) fun t => doResume t part ctx)
/-- DISCARD (R204). -/
def execDiscard (init : Sender) (part ctx : Nat) (s : State) : Out :=
  .next (ctlWrite s init.id (ctxCmdAddr part) (ctxCmd ctx 3) init.behind fun t =>
    ctxAction t init.id part ctx (ctxCmd ctx 3) fun t => doDiscard t part ctx)

/-! ### END (R463) -/

/-- The link requests of a context stop, and signal nothing. -/
def stopReqs (s : State) (p x : Nat) : State :=
  let mine := ((s.reqRing p).inFlight.filter fun r => r.jobCtx == x).map LinkReq.pos
  let s1 := mine.foldl (fun (t : State) pos => dropWaiter t (.request p pos)) s
  s1.modReqRing p fun v =>
    let done := v.done ++ mine
    let n := ((List.range 4096).takeWhile fun k => done.contains ((v.head.toNat + k) % 2 ^ 13)).length
    { v with inFlight := v.inFlight.filter (fun q => q.jobCtx != x), head := v.head + BitVec.ofNat 13 n,
             done := done.filter fun d => !((List.range n).map fun k => (v.head.toNat + k) % 2 ^ 13).contains d }

/-- The peer contexts of a context close (R437, R463). -/
def closePeers (s : State) (p x : Nat) : State :=
  ((s.links.peers.filter fun e => e.2.phase != .closed && e.2.part == p && e.2.jobCtx == x).map Prod.fst).foldl
    (fun (t : State) c => endContext t c .closed) s

/-- What ends with one context of a job. -/
def endCtx (s : State) (p x : Nat) : State :=
  let s1 := closePeers (stopReqs (stopEntries (discardCtx s p x) p x true) p x) p x
  let keep (e : Parked) : Bool := (s.peer e.ctx).jobCtx != x
  (clearSems s1 p x).modPart p fun v => { v with ctxs := mset {} v.ctxs x {}, parked := v.parked.filter keep }

/-- What ends with the TRAINING job: the toll, the arming, and the wait for a step boundary after a relock (R348). -/
def endTraining (s : State) : State :=
  let s1 := retime (clearToll s)
  { s1 with dies := s1.dies.map fun d => (d.1, { d.2 with armed := none }) }

/-- A job ends. -/
def endOf (s : State) (p : Nat) (j : Job) : State :=
  let s1 := (maskCtxs j.ctxMask.toNat).foldl (fun (t : State) x => endCtx t p x) s
  let s2 := s1.modPart p fun v => { v with jobs := v.jobs.filter fun k => k.ctxMask != j.ctxMask }
  let s3 := changeCycle s s2 p
  let s4 := if (s3.part p).ctxs.all fun e => e.2.phase == .free then switchIn s3 p none else s3
  if j.training then endTraining s4 else s4

/-- END written to `PART.JOB_CMD` with a mask of contexts. -/
def jobEnd (s : State) (init p mask value : Nat) : State :=
  match (s.part p).jobs.find? fun j => j.ctxMask.toNat == mask with
  | none => ignoreWrite s 7 init (jobCmdAddr p) value
  | some j => endOf s p j

/-- END (R463). -/
def execEndJob (init : Sender) (part : Nat) (ctxMask : BitVec 8) (s : State) : Out :=
  let value := 2 + 16 * ctxMask.toNat
  .next (ctlWrite s init.id (jobCmdAddr part) value init.behind fun t => jobEnd t init.id part ctxMask.toNat value)

end Sys2Proof.Machine
end

