-- ==== Sys2Proof/Machine/Ports.lean ====
section
/-! DEFINITION. Link ports: training, levels, replay, retraining, frames and pauses, the bell on links, and the die-to-die
ports (R38, R421–R434, R446–R454). A half-port is numbered 2n for LPn or LPn.A and 2n + 1 for LPn.B. -/

namespace Sys2Proof.Machine

/-! ### Training (R423, R431, R453) -/

def linkCtlAddr (n : Nat) : Nat := pnLink n * 0x1000 + 0x010

/-- The pool of a partition and virtual channel in flits (R454). -/
def credField (w vc : Nat) : Nat :=
  16 * (if vc = 0 then bits w 31 24 else if vc = 1 then bits w 7 0 else if vc = 2 then bits w 23 16 else bits w 15 8)
def poolSize (s : State) (h p vc : Nat) : Nat :=
  if (s.half (h / 2 * 2)).credRejected then credField 0x04100228 vc
  else credField (s.regN (halfPage h) (0x120 + 4 * p)) vc
/-- All pools of a port sum to at most 4,096 flits. -/
def poolsFit (s : State) (n : Nat) : Bool :=
  decide ((((List.range 4).map fun p => ((List.range 4).map fun vc => credField (s.regN (pnLink n) (0x120 + 4 * p)) vc).sum).sum +
    16 * bits (s.regN (pnLink n) 0x130) 7 0) ≤ 4096)

/-- A flit of the device itself arrives at a half-port: it is counted, and LACK covers it where it has an LSEQ (R433). -/
def takeOwn (s : State) (h : Nat) : State :=
  (s.count (halfPage h) 1 1).modHalf h fun v => if halfFabric s h then v else { v with rxSeq := v.rxSeq + 1 }

/-- A half-port that trains negotiates a level next, for which it sends the levels that this device supports, 2 and 3 (R448,
R449); one that fails is DOWN. -/
def trainHalf (s : State) (h : Nat) (ok : Bool) (delay : Word) (credits : List Nat) : State :=
  let fresh : Half := { credRejected := (s.half h).credRejected }
  if ok then
    ((s.setHalf h { fresh with
      state := .negotiating, delay := delay, txSeq := if halfFabric s h then 1 else 2,
      credits := credits.zipIdx.foldl (fun (m : SMap Nat) e => mset 0 m e.2 e.1) [] }).count (halfPage h) 0 1).emit
        (.negotiate h 2 3)
  else setEvent (s.setHalf h fresh) (halfPage h) 0

/-- A half-port is disabled. -/
def stopHalf (s : State) (h : Nat) : State := s.setHalf h { credRejected := (s.half h).credRejected }

/-- A write would change SPLIT or a MODE whose enable is 1 (R423). -/
def ctlLocked (old new : Nat) : Bool :=
  let enA := old.testBit 0
  let enB := old.testBit 1
  (old.testBit 4 != new.testBit 4 && (enA || enB)) || (old.testBit 2 != new.testBit 2 && enA) ||
    (old.testBit 3 != new.testBit 3 && enB)

/-- What an enable that rises or falls does to a half-port: trained by a report, or left TRAINING without one, until a later
report tells how that has ended (log 49). -/
def enableHalf (s : State) (h : Nat) (was is : Bool) (report : Option (Bool × Word × List Nat)) : State :=
  if was == is && !(is && (s.half h).state == .training && report.isSome) then s
  else if !is then stopHalf s h
  else
    let n := h / 2
    let s1 := s.modHalf (2 * n) fun v => { v with credRejected := !(poolsFit s n) }
    match report with
    | some r => trainHalf s1 h r.1 r.2.1 r.2.2
    | none => s1.modHalf h fun v => { v with state := .training, failedRetrains := 0 }

/-- A write of `LINK.CTL`. -/
def writeLinkCtl (s : State) (init n value : Nat) (a b : Option (Bool × Word × List Nat)) : State :=
  let old := s.regN (pnLink n) 0x010
  if ctlLocked old value then ignoreWrite s 6 init (linkCtlAddr n) value
  else
    let new := Nat.land value 0xFF003F
    let s1 := s.setReg (pnLink n) 0x010 (BitVec.ofNat 32 new)
    let s2 := enableHalf s1 (2 * n) (old.testBit 0) (new.testBit 0) a
    let onB (w : Nat) : Bool := w.testBit 1 && w.testBit 4
    checkBellSource (enableHalf s2 (2 * n + 1) (onB old) (onB new) b)

/-- PORT_TRAINING (R423): a write of `LINK.CTL`, and what training then meets. -/
def execPortTraining (init : Sender) (port : Nat) (value : Word) (report : TrainReport) (s : State) : Out :=
  .next (ctlWrite s init.id (linkCtlAddr port) value.toNat init.behind fun t =>
    writeLinkCtl t init.id port value.toNat (some (report.okA, report.delay, report.credits))
      (some (report.okB, report.delay, report.credits)))

/-- NEGOTIATE (R448, R449): the highest level that both ends support; this device supports 2 and 3. -/
def execNegotiate (port low high : Nat) (s0 : State) : Out :=
  .next (
    if (s0.half port).state ≠ .negotiating then s0
    else
    let s := takeOwn s0 port
    if max 2 low ≤ min 3 high then pumpAll (s.modHalf port fun v => { v with state := .up, level := min 3 high })
    else setEvent (setEvent (s.modHalf port fun v => { v with state := .negotiateFailed }) (halfPage port) 2) (halfPage port) 0)

/-! ### Link flits (R429, R432, R433) -/

def halfUp (s : State) (h : Nat) : Bool := (s.half h).state == .up && !halfFabric s h

/-- LACK and LNAK of a flit in order: what LACK covers leaves the replay buffer, and is replayed from LACK + 1 where LNAK asks
for it. A LACK that names no flit of the buffer moves nothing. -/
def takeLack (s : State) (h : Nat) (lack : BitVec 12) (lnak : Bool) : State :=
  let v := s.half h
  let upTo := if (lack - v.lackRx).toNat ≤ v.replaying then lack else v.lackRx
  let run := if lnak then (if upTo = v.lackRx then v.replayRun + 1 else 1) else 0
  let s1 := s.setHalf h { v with lackRx := upTo, replayRun := run }
  if lnak then (s1.count (halfPage h) 4 1).emit (.linkReplay h) else s1

/-- LINK_CTL (R427): the flit carries LACK and LNAK, and its LSEQ is in order. -/
def execLinkCtl (port : Nat) (lack : BitVec 12) (lnak : Bool) (s : State) : Out :=
  .next (
    if halfUp s port then
      pumpPort (takeLack ((takeOwn s port).modHalf port fun v => { v with lnak := false }) port lack lnak) port
    else s)

/-- IDLE (R429): LACK and credit fields. -/
def execIdle (port : Nat) (lack : BitVec 12) (lnak : Bool) (crVc crPart crCount : Nat) (s : State) : Out :=
  .next (
    if halfUp s port then
      let key := crPart % 4 * 4 + crVc % 4
      pumpPort ((takeLack (s.count (halfPage port) 1 1) port lack lnak).modHalf port fun v =>
        { v with credits := mset 0 v.credits key (mget 0 v.credits key + crCount % 1024) }) port
    else s)

/-- LINK_REPLAY (R433): a flit fails its CRC or is out of order: it and every later one are discarded, and LNAK asks for a
replay. -/
def execLinkReplay (port : Nat) (s : State) : Out :=
  .next (if halfUp s port then (s.modHalf port fun v => { v with lnak := true }).emit (.linkReplay port) else s)

/-! ### Retraining (R451, R452) -/

def retrainThresh (s : State) (h : Nat) : Nat := max 1 (bits (s.regN (halfPage h) 0x010) 23 16)

/-- FEC_UNCORRECTABLE (R451, R452): the codeword is counted; with RETRAIN_THRESH of them within 2^16 bt a retraining is due. -/
def execFecUncorrectable (port : Nat) (s : State) : Out :=
  .next (
    let now := s.bell.count
    let v := s.half port
    let near := v.codewords.filter (fun t => decide (now.toNat < t.toNat + 2 ^ 16)) ++ [now]
    (s.setHalf port { v with
      codewords := near, retrainDue := v.retrainDue || decide (retrainThresh s port ≤ near.length) }).count (halfPage port) 3 1)

/-- A port's fault calls for a retraining. -/
def wantsRetrain (s : State) (h : Nat) : Bool := (s.half h).retrainDue || decide (8 ≤ (s.half h).replayRun)

/-- The FABRIC contexts of a port that has left UP move to another port of their mask and send again there what is not
acknowledged (R434, R452). -/
def moveContexts (s : State) (h : Nat) : State :=
  (s.links.peers.filter fun e => e.2.phase == .ready && e.2.fabric && e.2.port == h && !(upPorts s e.2.ports).isEmpty).foldl
    (fun (t : State) e => resend t e.1 fun u => u.left == 0 || u.started) s

/-- LINK_RETRAIN (R452): the port's transmission is held. -/
def execLinkRetrain (port : Nat) (s : State) : Out :=
  .next (
    if (s.half port).state == .up && wantsRetrain s port then
      let s1 := s.modHalf port fun v => { v with
        state := .retraining, codewords := [], retrainDue := false, replayRun := 0 }
      let s2 := setEvent (s1.count (halfPage port) 5 1) (halfPage port) 1
      if halfFabric s port then moveContexts s2 port else s2
    else s)

/-- LINK_RETRAIN_DONE (R423, R452): the port resumes, or has failed once more; three failures in a row leave it DOWN. A
port that trains goes on to its level; the report gives neither the delay that training measured, which is free, nor the
partner's pools, which are the reset sizes (log 49). -/
def execLinkRetrainDone (port : Nat) (ok : Bool) (s : State) : Out :=
  .next (
    let v := s.half port
    if v.state = .training then
      checkBellSource (trainHalf (drawFree s).2 port ok ((drawFree s).1.setWidth 32)
        ((List.range 4).flatMap fun _ => (List.range 4).map (credField 0x04100228)))
    else if v.state ≠ .retraining then s
    else if ok then pumpAll (s.setHalf port { v with state := .up, failedRetrains := 0 })
    else if 2 ≤ v.failedRetrains then
      checkBellSource (setEvent (s.setHalf port { v with state := .down, failedRetrains := 0, bellRxValid := false }) (halfPage port) 0)
    else (s.setHalf port { v with failedRetrains := v.failedRetrains + 1 }).count (halfPage port) 5 1)

/-! ### FABRIC frames and pauses (R425, R432) -/

/-- Flits of a frame that find their pool full are dropped. Pools empty between frames, as the link engine takes what
arrives (log 49). -/
def droppedFlits (s : State) (f : LinkFrame) : Nat :=
  let keys := f.flits.map fun k => ((s.peer k.ctx).part, k.vc % 4)
  (keys.dedup.map fun k => keys.count k - poolSize s f.port k.1 k.2).sum

/-- FRAME (R425): unpacked into flits, or discarded and counted. -/
def execFrame (f : LinkFrame) (s : State) : Out :=
  .next (
    if (s.half f.port).state ≠ .up ∨ halfFabric s f.port = false then s
    else
      let pn := halfPage f.port
      if !f.fcsOk || decide (f.etherType.toNat ≠ bits (s.regN pn 0x100) 15 0) || f.dest != halfMac s f.port then s.count pn 7 1
      else (s.count pn 1 f.flits.length).count pn 6 (droppedFlits s f))

/-- PRIORITY_PAUSE (R425). -/
def execPriorityPause (port priority : Nat) (s : State) : Out :=
  .next (
    if halfFabric s port then s.modHalf port fun v =>
      { v with paused := if v.paused.contains priority then v.paused else v.paused ++ [priority] }
    else s)

/-- PRIORITY_PAUSE_EXPIRY (R425): the port sends at that priority again. -/
def execPriorityPauseExpiry (port priority : Nat) (s : State) : Out :=
  .next (pumpAll (s.modHalf port fun v => { v with paused := v.paused.filter fun p => p != priority }))

/-! ### The bell on links (R446) -/

/-- BELL (R446): a flit from a locked sender on a DIRECT port is valid, and is the mark for a device whose source is that
half-port. The mark was sent the port's one-way delay ago, 64 units of which make a bell tick (log 49). -/
def execBell (port : Nat) (count : Long) (locked : Bool) (s0 : State) : Out :=
  .next (
    if halfFabric s0 port || !((s0.half port).state == .up || (s0.half port).state == .negotiateFailed) then s0
    else
      let s := takeOwn s0 port
      let v := s.half port
      if !locked then checkBellSource (s.setHalf port { v with bellRxValid := false })
      else
        let s1 := s.setHalf port { v with bellRxValid := true, bellRx := some count }
        if bellSource s = some port then takeMark s1 (v.delay.toNat / 64) else s1)

/-! ### Die-to-die ports (R38, R544) -/

/-- The page of a die-to-die port: CDd.D2Dk is 3d + k, the hub's ports follow from 12. -/
def d2dPage (port : Nat) : Nat := if port < 12 then pnD2d (port / 3) (port % 3) else pnHubD2d (port - 12)
def d2dOf (s : State) (port : Nat) : D2d := mget D2d.init s.d2d port
def setD2d (s : State) (port : Nat) (v : D2d) : State := { s with d2d := mset D2d.init s.d2d port v }

/-- Every job on the device is stopped: its contexts are suspended and fail the step (R38). -/
def stopJobs (s : State) : State :=
  (List.range 4).foldl (fun (t : State) p => (List.range 8).foldl (fun (t : State) x =>
    if ((t.part p).ctx x).phase = .free then t
    else (failStep t p x).modCtx p x fun c => { c with phase := .suspended }) t) s

/-- D2D_REPLAY (R38): the flit is replayed and passes, or fails again; 16 failures in a row mark the port down. What later
would cross a port that is down (register accesses, data) is served as before: DESIGN CHOICE, log 120. -/
def execD2dReplay (port : Nat) (ok : Bool) (s : State) : Out :=
  .next (
    let v := d2dOf s port
    let pn := d2dPage port
    if v.down then s
    else
      let failed (t : State) : State := setEvent (t.count pn 2 1) pn 1
      let s1 := (if v.replaying then s else failed s).count pn 3 1
      if ok then setD2d s1 port { v with replaying := false, replays := 0 }
      else if 15 ≤ v.replays then
        let s2 := setD2d (failed s1) port { v with replaying := false, replays := 0, down := true }
        stopJobs (raiseTrap (setEvent s2 pn 0) pn
          { code := trapLinkTimeout, level := if port < 12 then 1 else 2,
            detail := fields [(0, 0x80 + if port < 12 then port % 3 else port - 12)] })
      else setD2d (failed s1) port { v with replaying := true, replays := v.replays + 1 })

end Sys2Proof.Machine
end

