-- ==== Sys2Proof/Machine/Resets.lean ====
section
/-! DEFINITION. Resets: what each kind reaches and keeps, the row maps it loads, and what a power domain that goes off
takes with it (R15, R42, R80, R114, R402, R493, R497–R501, R508–R512, R529). -/

namespace Sys2Proof.Machine

/-! ### Row maps (R79, R80, R114) -/

/-- The map of a core without repairs: physical rows 0–255. -/
def plainMap : BitVec 260 := BitVec.ofNat 260 (2 ^ 256 - 1)
/-- The map that the repair record in flash holds for a core. -/
def recordMap (s : State) (g : Nat) : BitVec 260 := mget plainMap s.flash.rowMaps g
/-- The map that the ROWMAP_NEXT registers of a core spell. -/
def nextMap (s : State) (g : Nat) : BitVec 260 :=
  BitVec.ofNat 260 (((List.range 9).map fun k => s.regN (pnArray g) (0x810 + 4 * k) * 2 ^ (32 * k)).sum)
/-- The ROWMAP_NEXT registers hold a copy of a map. -/
def copyMapRegs (s : State) (g : Nat) (m : BitVec 260) : State :=
  (List.range 9).foldl (fun (t : State) k =>
    t.setReg (pnArray g) (0x810 + 4 * k) (BitVec.ofNat 32 (bits m.toNat (32 * k + 31) (32 * k)))) s
/-- A row that the repair record marks failed: left out below the highest row in use. -/
def rowFailed (m : BitVec 260) (i : Nat) : Bool := !m.getLsbD i && decide (2 ^ i < m.toNat)
def mapOnes (m : BitVec 260) : Nat := ((List.range 260).filter fun i => m.getLsbD i).length
/-- The map that a die or core reset applies. -/
def mapAtReset (s : State) (g : Nat) : BitVec 260 :=
  let m := nextMap s g
  let r := recordMap s g
  if mapOnes m = 256 ∧ ((List.range 260).all fun i => !m.getLsbD i || !rowFailed r i) then m else r
/-- A core takes a map. -/
def applyMap (s : State) (g : Nat) (m : BitVec 260) : State :=
  copyMapRegs (s.modCore g fun c => { c with rowMap := if m = plainMap then none else some m }) g m

/-! ### Parts that lose what they hold -/

/-- Memory keys that hold nothing any more. -/
def clearMem (s : State) (gone : Nat → Bool) : State :=
  let kept (u : Nat) : Bool := !gone u
  { s with mem := s.mem.filter (fun e => kept e.1), bad := s.bad.filter kept, softBad := s.softBad.filter kept }
/-- Pages as they are after their reset. -/
def clearPages (s : State) (gone : Nat → Bool) : State := { s with pages := s.pages.filter fun e => !gone e.1 }

def isCorePage (g pn : Nat) : Bool := decide (pnCore g 0 ≤ pn) && decide (pn ≤ pnCore g 8)

/-- A core is reset: its slots are FREE, its queues empty, its pages as after reset, its local store and slab zeroed, and
its next row map is applied (R512). -/
def resetCore (s : State) (g : Nat) : State :=
  let m := mapAtReset s g
  let s1 := clearMem s fun k => decide (tierOf k < 2) && decide (k < 2 ^ 45) && bits k 43 36 == g
  let s2 := clearPages s1 (isCorePage g)
  applyMap (s2.setCore g { Core.init with disabled := (s.core g).disabled }) g m

/-- A quadrant that goes off takes its cores and their local stores with it; what it holds is as after a core reset when it
comes back (R500). -/
def dropQuad (s : State) (q : Nat) : State :=
  (List.range 10).foldl (fun (t : State) i => resetCore t (10 * q + i)) s

/-- A link port that goes off. -/
def dropPort (s : State) (n : Nat) : State :=
  checkBellSource (((clearPages s fun pn => pn == pnLink n).setHalf (2 * n) {}).setHalf (2 * n + 1) {})

/-! ### Power-on, module and warm resets (R508, R510) -/

/-- What a start finds: the repair record's row maps and disabled cores (R80). -/
def loadRepair (s : State) : State :=
  let s1 := s.flash.rowMaps.foldl (fun (t : State) e => applyMap t e.1 e.2) s
  s1.flash.disabled.foldl (fun (t : State) g => t.modCore g fun c => { c with disabled := true }) s1

/-- The state that such a reset leaves, but for the power manager and for what HBM keeps: flash and fuses last, a new save
key is drawn, and nothing of the seal unit survives (R493, R510). -/
def bareState (s : State) (p : Power) : State :=
  loadRepair { pending := s.pending, free := s.free, out := s.out, flash := s.flash, fuses := s.fuses, power := p,
               sealU := { keysDrawn := s.sealU.keysDrawn + 1, saveKey := s.sealU.keysDrawn + 1 } }

/-- The pins, and whether a sensor is hot, which no reset of the logic moves; readings are as before the first measurement
(R520), and the count of THROTTLE_N starts again (R553). -/
def pinsOf (p : Power) : Power :=
  { pwrEn := p.pwrEn, modRst := p.modRst, throttleSeen := p.throttleSeen, hot := p.hot, strap := p.strap, strapDone := p.strapDone }

def bootOnly : BitVec 47 := BitVec.ofNat 47 (2 ^ bootDomain)

/-- The module is off: only flash keeps its contents (R501). -/
def powerOff (s : State) : State :=
  bareState s { pinsOf s.power with phase := .off, domains := 0, strapDone := false, shutdown := s.power.shutdown }

/-- A power-on reset with an input voltage: BOOT is on and boot ROM is about to run (R508, R514). -/
def powerOn (s : State) (centivolts : Nat) : State :=
  bareState s { pinsOf s.power with domains := bootOnly, strapDone := false, centivolts := BitVec.ofNat 16 centivolts }

/-- A module reset: every domain but BOOT is off; the start begins once MOD_RST_N is released (R509). -/
def moduleReset (s : State) : State := bareState s { pinsOf s.power with domains := bootOnly }

/-- The channels that a reset excludes: those that EXCLUDE_NEXT names, and those that failed retraining (R401). -/
def nextExcluded (s : State) (k : Nat) : Word := s.reg (pnHbmc (k / 2) (k % 2)) 0x800 ||| (s.hbmc (k / 2) (k % 2)).chFailed

/-- The controllers take their exclusions; contents written under another interleave are not preserved (R402; log 60). -/
def setExcluded (s : State) (ws : List Word) : State :=
  let same := (List.range 8).all fun k => (s.hbmc (k / 2) (k % 2)).chExcluded == ws.getD k 0
  let s1 := (List.range 8).foldl (fun (t : State) k =>
    (t.modHbmc (k / 2) (k % 2) fun h => { h with chExcluded := ws.getD k 0 }).setReg (pnHbmc (k / 2) (k % 2)) 0x800 (ws.getD k 0)) s
  if same then s1 else loseBursts { s1 with burstKey := [], hbmStale := [] } 0 (hbmSize / 32)

/-- A module or power-on reset forgets HBM, and its exclusions come from the registers before a module reset. -/
def moduleResetHbm (s : State) : State := setExcluded (moduleReset s) ((List.range 8).map (nextExcluded s))

/-- A warm reset: all logic, with the domains on and HBM's contents held (R508, R510). A die-to-die port that is down stays
down (R38; log 119). -/
def warmReset (s : State) : State :=
  let t := bareState s { pinsOf s.power with domains := s.power.domains }
  let t1 : State := { t with
    mem := s.mem.filter (fun e => tierOf e.1 == 3 && decide (e.1 < 2 ^ 48)), hbmErr := s.hbmErr,
    d2d := (s.d2d.filter fun e => e.2.down).map fun e => (e.1, ({ down := true } : D2d)), burstKey := s.burstKey, hbmStale := s.hbmStale }
  let t2 := (List.range 8).foldl (fun (q : State) k =>
    q.modHbmc (k / 2) (k % 2) fun h => { h with chExcluded := (s.hbmc (k / 2) (k % 2)).chExcluded }) t1
  setExcluded t2 ((List.range 8).map (nextExcluded s))

/-! ### Die and core resets (R511, R512) -/

/-- Pages that a die reset clears: those of its die controllers, its almanac sequencer and its cores, and the counters of
its SLAB page. -/
def dieResetPage (d pn : Nat) : Bool :=
  pn == pnDieCtl d 0 || pn == pnDieCtl d 1 || pn == pnAlm d || (List.range 40).any fun c => isCorePage (40 * d + c) pn

/-- A die reset: controllers, HBM and die-to-die ports stay in service (R511). -/
def resetDie (s : State) (d : Nat) : State :=
  let s1 := (List.range 40).foldl (fun (t : State) c => resetCore t (40 * d + c)) s
  let s2 := clearPages s1 fun pn => pn == pnDieCtl d 0 || pn == pnDieCtl d 1 || pn == pnAlm d
  let fresh (v : Die) : Die :=
    { v with rings := [], armed := none, retrainOpen := [],
             dc0 := { running := v.dc0.running }, dc1 := { running := v.dc1.running } }
  (s2.modDie d fresh).modPage (pnSlab d) fun p => { p with counters := [] }

/-- The pages that stay unreachable until the reset completes (R524). -/
def dieResetPages (d : Nat) : List Nat :=
  [pnDieCtl d 0, pnDieCtl d 1, pnAlm d] ++ (List.range 40).flatMap fun c => (List.range 9).map (pnCore (40 * d + c))

def bootResetAddr : Nat := pnBoot * 0x1000 + 0x100
def resetKey : Nat := 0xA5C3

/-- A die or core reset is accepted only with no partition sealed and no job admitted (R511). The count of THROTTLE_N starts
again (R553). -/
def softReset (s : State) (init value : Nat) (pages : List Nat) (f : State → State) : State :=
  if anySealed s || anyJobAdmitted s then ignoreWrite s 6 init bootResetAddr value
  else
    let t := f s
    { t with boot := { t.boot with resetBusy := true, resetPages := t.boot.resetPages ++ pages },
             power := { t.power with throttleBt := 0 } }

/-- A write of `BOOT.RESET` (R519). No such reset ends a thermal shutdown (R507). -/
def writeReset (s : State) (init value : Nat) : State :=
  let d := bits value 5 4
  let c := bits value 11 6
  if bits value 31 16 ≠ resetKey then ignoreWrite s 7 init bootResetAddr value
  else if s.power.shutdown then ignoreWrite s 6 init bootResetAddr value
  else if bits value 3 0 = 1 then warmReset s
  else if bits value 3 0 = 2 then softReset s init value (dieResetPages d) fun t => resetDie t d
  else if bits value 3 0 = 3 ∧ c < 40 then
    softReset s init value ((List.range 9).map (pnCore (40 * d + c))) fun t => resetCore t (40 * d + c)
  else ignoreWrite s 7 init bootResetAddr value

/-- WARM_RESET (R508). -/
def execWarmReset (init : Sender) (value : Word) (s : State) : Out :=
  .next (ctlWrite s init.id bootResetAddr value.toNat init.behind fun t => writeReset t init.id value.toNat)
/-- DIE_RESET (R512). -/
def execDieReset (init : Sender) (value : Word) (s : State) : Out :=
  .next (ctlWrite s init.id bootResetAddr value.toNat init.behind fun t => writeReset t init.id value.toNat)
/-- CORE_RESET (R512). -/
def execCoreReset (init : Sender) (value : Word) (s : State) : Out :=
  .next (ctlWrite s init.id bootResetAddr value.toNat init.behind fun t => writeReset t init.id value.toNat)

/-- RESET_COMPLETE (R512): the pages can be reached again. -/
def execResetComplete (s : State) : Out :=
  .next { s with boot := { s.boot with resetBusy := false, resetPages := [] } }

end Sys2Proof.Machine
end

