-- ==== Sys2Proof/Machine/PowerPins.lean ====
section
/-! DEFINITION. Supply, sideband inputs, droop, the power cap and the thermal limits (R496–R507, R520, R552–R554). -/

namespace Sys2Proof.Machine

/-! ### Supply and PWR_EN (R496, R497, R552) -/

/-- The input lies between 40 V and 59 V. -/
def supplyGood (centivolts : Nat) : Bool := decide (4000 ≤ centivolts) && decide (centivolts ≤ 5900)

/-- A power-on or module reset; after a thermal shutdown it is held until every sensor reads below 85 °C (R507). -/
def unlessHot (s : State) (reset : State → State) : State :=
  if s.power.shutdown && s.power.hot then { s with power := { s.power with heldReset := true } } else reset s

def readVolts (s : State) (centivolts : Nat) : State :=
  { s with power := { s.power with centivolts := BitVec.ofNat 16 centivolts } }

/-- PWR_EN_ASSERT (R552): seen asserted for 10 ms with this input. -/
def execPwrEnAssert (centivolts : Nat) (s : State) : Out :=
  .next (
    let s1 : State := { s with power := { s.power with pwrEn := true } }
    if s.power.phase = .off ∧ supplyGood centivolts = true then
      unlessHot (readVolts s1 centivolts) fun t => powerOn t centivolts
    else s1)

/-- SUPPLY_VALID (R508): the input is back while PWR_EN is asserted. -/
def execSupplyValid (centivolts : Nat) (s : State) : Out :=
  .next (
    if s.power.phase = .off ∧ s.power.pwrEn = true ∧ supplyGood centivolts = true then
      unlessHot (readVolts s centivolts) fun t => powerOn t centivolts
    else s)

/-- The module goes down: ACLK stops, every domain goes off, and only flash keeps its contents (R497, R501). A power-on that
is held waits no longer (R496). -/
def powerDown (s : State) : State :=
  if s.power.phase = .on then powerOff s else { s with power := { s.power with heldReset := false } }

/-- PWR_EN_DEASSERT (R497, R553). -/
def execPwrEnDeassert (s : State) : Out := .next (powerDown { s with power := { s.power with pwrEn := false } })
/-- UNDERVOLTAGE (R497). -/
def execUndervoltage (s : State) : Out := .next (powerDown s)
/-- OVERVOLTAGE (R497): the regulators are cut at once. -/
def execOvervoltage (s : State) : Out := .next (powerDown s)

/-! ### MOD_RST_N (R508, R509, R552) -/

/-- MOD_RST_N_ASSERT (R508). -/
def execModRstNAssert (s : State) : Out :=
  .next (
    let s1 : State := { s with power := { s.power with modRst := true } }
    if s.power.phase = .off then s1 else unlessHot s1 moduleResetHbm)

/-- MOD_RST_N_RELEASE (R509): the start may begin. -/
def execModRstNRelease (s : State) : Out := .next { s with power := { s.power with modRst := false } }

/-- HELD_RESET_RELEASE (R507): every sensor reads below 85 °C, and the reset that was held takes place; a power-on only with
PWR_EN asserted and the input within R496. Of a module without power the command itself is the reading (log 129). -/
def execHeldResetRelease (s : State) : Out :=
  .next (
    if !s.power.heldReset then s
    else if s.power.phase = .off then
      (if s.power.pwrEn && supplyGood s.power.centivolts.toNat then
        powerOn { s with power := { s.power with hot := false } } s.power.centivolts.toNat
      else s)
    else if s.power.hot then s
    else moduleResetHbm s)

/-- The power manager runs: BOOT is on and not held in reset (R501, R509). -/
def bootRuns (s : State) : Bool := s.power.phase == .on && domOn s bootDomain && !s.power.modRst

/-! ### Droop (R502) -/

def droopOf (s : State) (q : Nat) : Droop := mget Droop.init s.power.droop q
def setDroop (s : State) (q : Nat) (v : Droop) : State :=
  { s with power := { s.power with droop := mset Droop.init s.power.droop q v } }

/-- DROOP_SAG (R502): the rail has fallen below threshold; a quadrant in a hold keeps its rate. -/
def execDroopSag (die quad : Nat) (s : State) : Out :=
  .next (
    let q := 4 * die + quad
    let v := droopOf s q
    if !domOn s (domQ q) || v.below then s
    else
      let s1 := setDroop s q { v with rate := if v.rate = .full then .threeQuarter else v.rate, below := true, hold := false }
      if v.rate = .full then s1.count pnPwr 0 1 else s1)

/-- DROOP_DEEP (R502): the rail has stayed below threshold for 1 µs. -/
def execDroopDeep (die quad : Nat) (s : State) : Out :=
  .next (
    let q := 4 * die + quad
    let v := droopOf s q
    if !v.below then s
    else
      let s1 := setDroop s q { v with rate := .half }
      if v.rate = .half then s1 else s1.count pnPwr 1 1)

/-- DROOP_RECOVER (R502): the rail is back above threshold, and the hold begins. -/
def execDroopRecover (die quad : Nat) (s : State) : Out :=
  .next (
    let q := 4 * die + quad
    let v := droopOf s q
    if v.below then setDroop s q { v with below := false, hold := true } else s)

/-- DROOP_HOLD_END (R502): the rail has stayed above threshold for the whole hold. -/
def execDroopHoldEnd (die quad : Nat) (s : State) : Out :=
  .next (
    let q := 4 * die + quad
    let v := droopOf s q
    if v.hold && !v.below then setDroop s q Droop.init else s)

/-! ### THROTTLE_N (R503, R552) -/

/-- The count of THROTTLE_N starts again when it is no longer treated as asserted. -/
def settleThrottle (s : State) : State :=
  if throttled s then s else { s with power := { s.power with throttleBt := 0 } }

/-- THROTTLE_N_ASSERT (R503). -/
def execThrottleNAssert (fast : Bool) (s : State) : Out :=
  .next { s with power := { s.power with throttleSeen := true, throttleFast := s.power.throttleFast || fast } }

/-- THROTTLE_N_DEASSERT (R552): an input that toggles too fast stays treated as asserted until it is quiet. -/
def execThrottleNDeassert (fast quiet : Bool) (s : State) : Out :=
  .next (settleThrottle { s with power := { s.power with
    throttleSeen := false, throttleFast := (s.power.throttleFast || fast) && !quiet } })

/-- 60 s in bell ticks. -/
def throttleLimit : Nat := 9375000000
/-- THROTTLE_N has been treated as asserted for more than 60 s without a break (R552). -/
def throttleIsLong (s : State) : Bool := throttled s && decide (throttleLimit < s.power.throttleBt)

/-- THROTTLE_LONG (R552). -/
def execThrottleLong (s : State) : Out := .next (if throttleIsLong s then raiseAlert s 0 else s)

/-! ### The 1 ms loop (R504, R506) -/

/-- PWR_CAP as it counts: 300 to 1,000 W (R520). -/
def clampCap (w : Nat) : Nat := max 300 (min 1000 w)
def capWatts (s : State) : Nat := clampCap (bits (s.regN pnPwr 0x100) 9 0)

/-- The cap ceiling after a period of average power `p`. -/
def stepCap (s : State) (p : Nat) : State :=
  let c := capWatts s
  let v := s.power
  if c < p then
    let n := if v.capStep = 4 then v.overPeriods + 1 else 0
    let s1 : State := { s with power := { v with capStep := min 4 (v.capStep + 1), upPeriods := 0, overPeriods := n } }
    if n = 10 then raiseAlert { s1 with power := { s1.power with capUnmet := true } } 1 else s1
  else if 100 * p < 97 * c then
    let n := v.upPeriods + 1
    { s with power := { v with
        capStep := if n = 8 then v.capStep - 1 else v.capStep, upPeriods := if n = 8 then 0 else n, overPeriods := 0,
        capUnmet := false } }
  else { s with power := { v with upPeriods := 0, overPeriods := 0, capUnmet := false } }

/-- A quadrant's thermal ceiling after a period at a temperature. -/
def stepThermal (s : State) (q : Nat) (t : Int) : State :=
  let v := s.power
  let step := mget 0 v.thermStep q
  let cool := mget 0 v.coolPeriods q
  if 95 < t then
    let s1 : State := { s with power := { v with thermStep := mset 0 v.thermStep q (min 4 (step + 1)), coolPeriods := mset 0 v.coolPeriods q 0 } }
    if step = 0 then raiseAlert s1 3 else s1
  else if t < 90 then
    if cool = 7 then
      { s with power := { v with thermStep := mset 0 v.thermStep q (step - 1), coolPeriods := mset 0 v.coolPeriods q 0 } }
    else { s with power := { v with coolPeriods := mset 0 v.coolPeriods q (cool + 1) } }
  else { s with power := { v with coolPeriods := mset 0 v.coolPeriods q 0 } }

/-- The sensors' readings: quadrants, hub die, stacks, regulators, as signed bytes. -/
def tempMap (quadT hubT stackT regT : List Int) : SMap Byte :=
  let at_ (k : Nat) (l : List Int) (m : SMap Byte) : SMap Byte :=
    l.zipIdx.foldl (fun (m : SMap Byte) e => mput m (k + e.2) (BitVec.ofInt 8 e.1)) m
  at_ 28 regT (at_ 20 (stackT.take 8) (at_ 16 (hubT.take 4) (at_ 0 (quadT.take 16) [])))

/-- CAP_PERIOD (R504, R506): the measurements of the last 1 ms, and the ceilings they lead to. -/
def execCapPeriod (watts centivolts : Nat) (quadT hubT stackT regT : List Int) (s : State) : Out :=
  .next (
    if !bootRuns s then s
    else
      let temps := tempMap quadT hubT stackT regT
      let s1 : State := { s with power := { s.power with
        watts := BitVec.ofNat 16 watts, centivolts := BitVec.ofNat 16 centivolts, temps := temps,
        hot := temps.any fun e => decide (85 ≤ e.2.toInt),
        supplyWarn := s.power.supplyWarn && (decide (centivolts < 4200) || decide (5800 < centivolts)) } }
      (quadT.take 16).zipIdx.foldl (fun (t : State) e => stepThermal t e.2 e.1) (stepCap s1 watts))

/-- FAST_LIMIT (R505): the cap ceiling goes to 0.500 GHz. -/
def execFastLimit (s : State) : Out :=
  .next (
    if !bootRuns s then s
    else ({ s with power := { s.power with capStep := 4, upPeriods := 0 } } : State).count pnPwr 5 1)

/-- SUPPLY_WARN (R554): the input has been below 42 V or above 58 V for 1 ms while the module runs. -/
def execSupplyWarn (s : State) : Out :=
  .next (if bootRuns s then raiseAlert { s with power := { s.power with supplyWarn := true } } 4 else s)

/-- The ACLK rate of a quadrant in eighths of 1 GHz: the lowest of its four rates (R503). -/
def aclkEighths (s : State) (q : Nat) : Nat :=
  let droop := match (droopOf s q).rate with
    | .full => 8
    | .threeQuarter => 6
    | .half => 4
  min (min droop (8 - s.power.capStep)) (min (8 - mget 0 s.power.thermStep q) (if throttled s then 4 else 8))

/-! ### Thermal shutdown (R507, R516) -/

/-- A failure record joins the log in flash, a ring of 16 (R513, R516). -/
def addFailure (s : State) (code die detail : Nat) : State :=
  let image := if s.boot.minimal ∨ s.boot.image = 3 then 15 else s.boot.image.toNat
  let r : FailRec :=
    { code := BitVec.ofNat 8 code, stage := s.boot.stage.toNat, image := image, die := BitVec.ofNat 8 die,
      bootCount := BitVec.ofNat 8 s.boot.startCount, detail := BitVec.ofNat 32 detail, bell := s.bell.count }
  let l := s.flash.failures ++ [r]
  { s with flash := s.flash.setFailures (l.drop (l.length - 16)) }

def failVerify : Nat := 0x01
def failCert : Nat := 0x02
def failD2d : Nat := 0x03
def failStack : Nat := 0x04
def failExcluded : Nat := 0x05
def failTimeout : Nat := 0x06
def failThermal : Nat := 0x07
def failRecord : Nat := 0x09

/-- Pages of the domains BOOT and CTL. -/
def bootPage (pn : Nat) : Bool :=
  match page? pn with
  | none => false
  | some i => pageDomain i == bootDomain || pageDomain i == domCtl

/-- Every domain but BOOT and CTL goes off, and takes what it holds with it. -/
def shutDomains (s : State) : State :=
  let t := clearPages s fun pn => !bootPage pn
  { t with
    mem := [], bad := [], softBad := [], hbmErr := [], burstKey := [], tags := [], cores := [], dies := [], d2d := [], sched := {}, crier := {},
    links := {}, hosts := [],
    parts := t.parts.map fun e => (e.1,
      { sealedPart := e.2.sealedPart, sealCount := e.2.sealCount, logHeadTail := e.2.logHeadTail, logChain := e.2.logChain,
        logCount := e.2.logCount }),
    power := { t.power with
      domains := t.power.domains &&& BitVec.ofNat 47 (2 ^ bootDomain + 2 ^ domCtl), ramping := [], droop := [], shutdown := true } }

/-- THERMAL_SHUTDOWN (R507). -/
def execThermalShutdown (s : State) : Out :=
  .next (
    if !bootRuns s || s.power.shutdown then s
    else raiseAlert (shutDomains (addFailure s failThermal 0xFF 0)) 2)

end Sys2Proof.Machine
end

