-- ==== Sys2Proof/Machine/Start.lean ====
section
/-! DEFINITION. Start-up: the ranks of domains, boot ROM, stages 1 and 2, BOOT_OK and the start watchdog (R39, R396, R401,
R411, R423, R476–R478, R499, R513–R519). -/

namespace Sys2Proof.Machine

/-! ### Ranks (R499) -/

/-- The CTL word that the configuration in flash holds for a port. -/
def storedCtl (s : State) (n : Nat) : Word := mget 0x200000 s.flash.portCtl n
/-- Its stored EN is 1 (R499). -/
def storedOn (s : State) (n : Nat) : Bool := (storedCtl s n).getLsbD 0

/-- The domains of a rank, as numbered in R42. -/
def rankDomains (s : State) (r : Nat) : List Nat :=
  if r = 2 then [domCtl, domHubfab]
  else if r = 3 then (List.range 4).map domD2d
  else if r = 4 then (List.range 4).map domSlab
  else if r = 5 then (List.range 8).map fun k => domHbm (k / 2) (k % 2)
  else if r = 6 then (List.range 16).map domQ
  else ((List.range 12).filter (storedOn s)).map domLp

/-- The domains of a rank that are off. -/
def rankOff (s : State) (r : Nat) : List Nat := (rankDomains s r).filter fun k => !domOn s k

/-- The first rank of stage 2 with a domain off. -/
def nextRank (s : State) : List Nat := (([3, 4, 5, 6, 7].map (rankOff s)).find? fun l => !l.isEmpty).getD []

def ramp (s : State) (l : List Nat) : State := { s with power := { s.power with ramping := l } }

/-- The domains that ramp, at most four at a time, and those that ramp after them (R499). -/
def rampingNow (s : State) : List Nat := s.power.ramping.dedup.take 4
def rampingLater (s : State) : List Nat := s.power.ramping.dedup.drop 4

/-- DOMAIN_REGULATION (R43, R499): the domains that ramp are in regulation, while what they depend on is on, and the ones
after them begin; in stage 2 the next rank begins when none is left. -/
def execDomainRegulation (s : State) : Out :=
  .next (
    let on := BitVec.ofNat 47 ((((rampingNow s).filter (supplied s)).map fun k => 2 ^ k).sum)
    let t := ramp { s with power := { s.power with domains := s.power.domains ||| on } } (rampingLater s)
    if s.power.ramping.isEmpty then s
    else if s.boot.stage = 2 ∧ rampingLater s = [] then ramp t (nextRank t)
    else t)

/-! ### Flash (R513) -/

def logBase : Nat := 0x2000
def repairBase : Nat := 0x10000
def certBase : Nat := 0x30000
def slotABase : Nat := 0x01000000
def slotBBase : Nat := 0x03000000
def recoveryBase : Nat := 0x05000000
def slotSize : Nat := 0x02000000

/-- A byte of flash outside the records: as it was written, or as it left the factory. -/
def flashByte (s : State) (o : Nat) : Byte := (mget? s.flash.bytes o).getD (Config.flashContent o)

/-! ### Boot ROM (R514, R515, R517) -/

/-- A stage that fails writes a failure record and makes a warm reset. -/
def failStart (s : State) (code die detail : Nat) : State := warmReset (addFailure s code die detail)

/-- The private key of the identity: HKDF-SHA-512 of the device secret with the info "GN7L identity" (R476; log 10). -/
def identityInfo : List Byte := [0x47, 0x4E, 0x37, 0x4C, 0x20, 0x69, 0x64, 0x65, 0x6E, 0x74, 0x69, 0x74, 0x79]
def identityPrivate (secret : BitVec 256) : BitVec 256 := BitVec.ofNat 256 (ofLe (hkdf [] (leBytes 32 secret.toNat) identityInfo 32))

/-- DEVICE_ID of an identity key: bytes 0–7 of its SHA-512 (R476). -/
def deviceIdOf (key : BitVec 256) : Long := BitVec.ofNat 64 (ofLe ((sha512 (leBytes 32 key.toNat)).take 8))

/-- Boot ROM may run. -/
def romReady (s : State) : Bool :=
  s.power.phase == .on && domOn s bootDomain && !s.boot.romDone && !s.power.modRst && !s.power.heldReset && !s.power.shutdown

/-- The image that a boot counter chooses. -/
def imageFor (s : State) (c : Nat) : BitVec 2 :=
  if c = 0 then s.flash.prefSlot
  else if c = 1 then (if s.flash.prefSlot = 0 then 1 else 0)
  else if c = 2 then 2 else 3

/-- "minimal" in ASCII. -/
def minimalTag : List Byte := [0x6D, 0x69, 0x6E, 0x69, 0x6D, 0x61, 0x6C]

/-- What every start does first: straps, fuses, identity, the boot record, the counter, the image, rank 2 (R514–R516). -/
def beginStart (s : State) (strap : BitVec 3) : State :=
  let priv := identityPrivate s.fuses.secret
  let key := BitVec.ofNat 256 (ofLe (edPublic (leBytes 32 priv.toNat)))
  let c := s.flash.bootCount
  let s1 : State := { s with
    power := { s.power with strap := if s.power.strapDone then s.power.strap else strap, strapDone := true },
    sealU := { s.sealU with identity := true, privKey := priv }, fuses := { s.fuses with identityKey := key, deviceId := deviceIdOf key },
    boot := { s.boot with begun := true, startCount := c + 1, image := imageFor s c, opKey := s.fuses.opKey } }
  let s2 := if s.flash.boot.read.isNone then addFailure s1 failRecord 0xFF 0 else s1
  ramp { s2 with flash := s2.flash.setBoot fun b => { b with count := c + 1 } } (rankOff s2 2)

/-- Only BOOT, CTL and HUBFAB are on (R517): what was on goes off, and takes what it holds with it. -/
def onlyRankTwo (s : State) : State :=
  let inHub (a : Nat) : Bool := tierOf a == 2
  { s with
    mem := s.mem.filter (fun e => inHub e.1), bad := s.bad.filter inHub, softBad := s.softBad.filter inHub, hbmErr := [],
    burstKey := [], cores := [], dies := [], d2d := [], links := { s.links with halves := [] },
    power := { s.power with
      domains := s.power.domains &&& BitVec.ofNat 47 (2 ^ bootDomain + 2 ^ domCtl + 2 ^ domHubfab), ramping := [] } }

/-- Minimal mode is entered. -/
def enterMinimal (s : State) : State :=
  let t := onlyRankTwo s
  raiseAlert { t with
    boot := { t.boot with romDone := true, minimal := true, image := 3, stage := 0, hostsOn := 1 },
    sealU := { t.sealU with m0 := extend t.sealU.m0 (hashNum (sha512 minimalTag)) } } 5

/-- Stage 1 of the image in hub SRAM (R514): its place in the image, its length and where it is copied to are open (log 89). -/
def copyStage1 (s : State) : State :=
  let from_ := if s.boot.image = 0 then slotABase else if s.boot.image = 1 then slotBBase else recoveryBase
  let p := Config.stageOne s.boot.image.toNat
  let to_ := p.2.2 % hubSize
  memWrite s (hubAddr to_) ((List.range (min p.2.1 (hubSize - to_))).map fun k => flashByte s (from_ + p.1 + k))

/-- Boot ROM goes on with rank 2 on: stage 1 is copied, verified and measured, and host core 0 released; or minimal mode. -/
def finishRom (s : State) (verified : Bool) (imageHash : BitVec 512) : State :=
  if s.boot.image = 3 then enterMinimal s
  else
    let t := copyStage1 s
    if !verified then failStart t failVerify 0xFF 0
    else { t with
      boot := { t.boot with romDone := true, stage := 1, hostsOn := 1 },
      sealU := { t.sealU with m0 := extend t.sealU.m0 imageHash } }

/-- BOOT_ROM (R514): the start begins, once; and goes on where rank 2 is on. -/
def execBootRom (verified : Bool) (imageHash : BitVec 512) (strap : BitVec 3) (s : State) : Out :=
  .next (
    let s1 := if s.boot.begun then s else beginStart s strap
    if !romReady s then s
    else if (rankOff s1 2).isEmpty then finishRom s1 verified imageHash
    else s1)

/-! ### Stage 1 (R477, R478, R514) -/

/-- STAGE_1 (R514). A repair record or a configuration with no valid copy is recorded (R516). -/
def execStage1 (certOk verified : Bool) (imageHash : BitVec 512) (configHashes : List (BitVec 512)) (s0 : State) : Out :=
  .next (
    let s := if s0.flash.repair.read.isNone || s0.flash.config.read.isNone then addFailure s0 failRecord 0xFF 0 else s0
    if s0.boot.stage ≠ 1 then s0
    else if !certOk then failStart s failCert 0xFF 0
    else if !verified then failStart s failVerify 0xFF 1
    else
      let s1 : State := { s with
        boot := { s.boot with stage := 2, certOk := true },
        sealU := { s.sealU with m1 := extend s.sealU.m1 imageHash, m3 := configHashes.foldl extend s.sealU.m3 } }
      ramp s1 (nextRank s1))

/-! ### Stage 2 (R39, R396, R401, R411, R514) -/

/-- The first die-to-die link that fails, as die and port (R39): ring links leave by port 1, hub links by port 0. -/
def failedLink (r : Stage2Report) : Option (Nat × Nat) :=
  ((List.range 8).find? fun k => !(r.d2dTrained.getD k false)).map fun k => (k % 4, if k < 4 then 1 else 0)
def failedStack (r : Stage2Report) : Option Nat := (List.range 8).find? fun k => !(r.stacksOk.getD k false)

/-- The hard repairs: resources left by stack, the rows repaired, and those left over. -/
structure Repairs where
  left   : List Nat
  done   : List Nat
  failed : List Nat

/-- The rows of the repair record in order, each taking a resource of its stack. -/
def hardRepairs (rows : List Nat) (r : Stage2Report) : Repairs :=
  rows.foldl (fun (a : Repairs) row =>
    let k := row / 2 ^ 20 / 64
    let n := a.left.getD k 0
    if n = 0 then { a with failed := a.failed ++ [row] }
    else { a with left := a.left.set k (n - 1), done := a.done ++ [row] })
    { left := (List.range 8).map fun k => (r.pprHard.getD k 0).toNat, done := [], failed := [] }

/-- The channels to exclude: those of the reset, and those of rows without a resource (R401). -/
def excludedAfter (s : State) (f : Repairs) : List Word :=
  (List.range 8).map fun k =>
    f.failed.foldl (fun (w : Word) row =>
      if row / 2 ^ 20 / 64 = k then w ||| BitVec.ofNat 32 (2 ^ (row / 2 ^ 20 % 64 / 2)) else w)
      (s.hbmc (k / 2) (k % 2)).chExcluded
def onesOf (w : Word) : Nat := ((List.range 32).filter fun i => w.getLsbD i).length

/-- The first device addresses of the 256-byte granules of a row (the inverse of R398). -/
def rowGranules (s : State) (row : Nat) : List Nat :=
  let n := row / 2 ^ 20
  let p := healthyPcs s
  let sl := if noneExcluded s then n else (slotTable s).idxOf n
  if sl < p then
    (List.range 4).map fun i =>
      let x := row % 2 ^ 20 * 4 + i
      let h := Nat.xor (Nat.xor (bits x 8 0) (bits x 17 9)) (bits x 21 18)
      256 * (x * p + (sl + p - h % p) % p)
  else []

/-- A hard-repaired row holds nothing that is preserved, and no error (R411). -/
def loseRow (s : State) (row : Nat) : State :=
  (rowGranules s row).foldl (fun (t : State) d =>
    (List.range 8).foldl (fun (t : State) i => setBurstKey t (d / 32 + i) (lossBase + t.sealU.keysDrawn)) t)
    { s with hbmErr := s.hbmErr.filter fun e => e.1 / 32 != row }

/-- HBM is up: repairs and exclusions applied, controllers ready. -/
def bringUpHbm (s : State) (r : Stage2Report) (f : Repairs) (ex : List Word) : State :=
  let s1 := f.done.foldl loseRow (setExcluded { s with flash := if s.flash.repair.read.isSome then s.flash.setHardRows f.failed else s.flash } ex)
  (List.range 8).foldl (fun (t : State) k => t.modHbmc (k / 2) (k % 2) fun h =>
    { h with ready := true, pprHard := BitVec.ofNat 16 (f.left.getD k 0), pprSoft := r.pprSoft.getD k 0 }) s1

/-- Dies, their controllers and the die-to-die ports are in service; a port that is down stays down (R38; log 119). -/
def bringUpDies (s : State) : State :=
  let s1 := (List.range 4).foldl (fun (t : State) d => t.modDie d fun v =>
    { v with dc0 := { v.dc0 with running := true }, dc1 := { v.dc1 with running := true }, slabReady := true }) s
  (List.range 16).foldl (fun (t : State) k => setD2d t k { trained := true, down := (d2dOf t k).down }) s1

/-- A link port takes its stored configuration and trains (R423). -/
def bringUpPort (r : Stage2Report) (s : State) (n : Nat) : State :=
  let w := storedCtl s n
  let rep (h : Nat) : Option (Bool × Word × List Nat) :=
    some (r.portsTrained.getD h false, r.portDelay.getD h 0, r.portCredits.getD h [])
  let s1 := s.setReg (pnLink n) 0x010 (w &&& 0xFF003F)
  let s2 := enableHalf s1 (2 * n) false (w.getLsbD 0) (rep (2 * n))
  enableHalf s2 (2 * n + 1) false (w.getLsbD 1 && w.getLsbD 4) (rep (2 * n + 1))

/-- Everything of stage 2 but its checks. The BELL page takes its stored settings (log 131). -/
def bringUp (s : State) (r : Stage2Report) (f : Repairs) (ex : List Word) : State :=
  let s1 := bringUpDies (bringUpHbm s r f ex)
  let s2 := ((List.range 12).filter (storedOn s)).foldl (bringUpPort r) s1
  let s2b := s.flash.settings.bell.foldl (fun (t : State) e => t.setReg pnBell e.1 e.2) s2
  let s3 := s2b.setReg pnBell 0x010 (s2b.reg pnBell 0x010 ||| 1)
  { s3 with
    boot := { s3.boot with stage := 3, hostsOn := 0xFFFF },
    sealU := { s3.sealU with m2 := r.imageHashes.foldl extend s3.sealU.m2 } }

/-- Stage 2 has every rank on. -/
def stage2Ready (s : State) : Bool := s.boot.stage == 2 && s.power.ramping.isEmpty && (nextRank s).isEmpty

/-- STAGE_2 (R514). -/
def execStage2 (report : Stage2Report) (s : State) : Out :=
  .next (
    let f := hardRepairs s.flash.hardRows report
    let ex := excludedAfter s f
    let n := (ex.map onesOf).sum
    if !stage2Ready s then s
    else match failedLink report, failedStack report with
    | some (d, p), _ => failStart s failD2d d p
    | none, some k => failStart s failStack (k / 2) (k % 2)
    | none, none =>
      if 8 < n then failStart s failExcluded 0xFF n
      else if !report.imagesOk then failStart (bringUpHbm s report f ex) failVerify 0xFF 2
      else bringUp s report f ex)

/-! ### The end of a start (R514) -/

def bootOkAddr : Nat := pnBoot * 0x1000 + 0x104

/-- A write of `BOOT.BOOT_OK`: the counter in flash is cleared and the booted slot is preferred. -/
def writeBootOk (s : State) (value : Nat) : State :=
  if value.testBit 0 ∧ s.boot.bootOk = false then
    { s with
      boot := { s.boot with bootOk := true },
      flash := s.flash.setBoot fun b =>
        { b with count := 0, prefSlot := if s.boot.image.toNat < 2 then s.boot.image else b.prefSlot } }
  else s

/-- BOOT_OK (R514). -/
def execBootOk (init : Sender) (value : Word) (s : State) : Out :=
  .next (ctlWrite s init.id bootOkAddr value.toNat init.behind fun t => writeBootOk t value.toNat)

/-- Seconds left on the start watchdog (R519), in bell ticks of 6.4 ns. -/
def watchdogLimit (s : State) : Nat := s.flash.watchdogSec * 156250000

/-- START_WATCHDOG_EXPIRY (R514). -/
def execStartWatchdogExpiry (s : State) : Out :=
  .next (
    if s.power.phase = .on ∧ s.boot.bootOk = false ∧ s.power.shutdown = false ∧ s.power.modRst = false ∧
        watchdogLimit s ≤ s.boot.watchdog then
      failStart s failTimeout 0xFF 0
    else s)

end Sys2Proof.Machine
end

