-- ==== Sys2Proof/Machine/Raevo.lean ====
section
/-! DEFINITION. The Raevo recovery responder of minimal mode (R513, R517, R518). -/

namespace Sys2Proof.Machine

/-! ### Flash as bytes (R513, R516) -/

/-- A failure record as bytes (R516). -/
def failBytes (r : FailRec) : List Byte :=
  leBytes 32 (fields [(0, r.code.toNat), (8, r.stage % 16), (12, r.image % 16), (16, r.die.toNat), (24, r.bootCount.toNat),
    (32, r.detail.toNat), (64, r.bell.toNat)])

/-- A byte of a region that READ_FLASH reads. -/
def readableByte (s : State) (o : Nat) : Byte :=
  if o < repairBase then Config.logRegion (s.flash.failures.map failBytes) (o - logBase)
  else if o < certBase then
    Config.repairRegion (s.flash.rowMaps.map fun e => (e.1, e.2.toNat)) s.flash.disabled s.flash.hardRows (o - repairBase)
  else flashByte s o

/-- A span lies within one readable region. -/
def readable (o n : Nat) : Bool :=
  let within (b size : Nat) : Bool := decide (b ≤ o) && decide (o + n ≤ b + size)
  within logBase 0x1000 || within repairBase 0x10000 || within certBase 0x10000

/-- The slot that OFFSET names, and the place in it. -/
def slotOf (off : Long) : BitVec 2 := if off.getLsbD 63 then 1 else 0
def slotOffset (off : Long) : Nat := bits off.toNat 62 0
def slotBase (off : Long) : Nat := if off.getLsbD 63 then slotBBase else slotABase

/-- Bytes are written to flash from an offset on. -/
def writeFlash (s : State) (o : Nat) (bs : List Byte) : State :=
  { s with flash := { s.flash with
      bytes := (bs.zipIdx o).foldl (fun (m : SMap Byte) e => mput m e.2 e.1) s.flash.bytes } }

/-! ### Requests (R518, R538) -/

/-- The management port is enabled, and the frame reaches it. -/
def mgmtOn (s : State) : Bool := domOn s domCtl && (s.reg pnMgmt 0x010).getLsbD 0

/-- A frame has come over the management port's link: it is up (R538; log 98). -/
def mgmtFrame (s : State) : State :=
  ({ s with power := { s.power with mgmtUp := true } } : State).count pnMgmt 0 1

/-- A request is answered by what `act` makes of it: a status, data and a state. Out of minimal mode there is no responder,
and the frame is discarded (log 64). -/
def serveRaevo (s : State) (op : Nat) (r : RaevoReq) (act : State → State × Nat × List Byte) : State :=
  if !domOn s domCtl then s
  else
    let s1 := mgmtFrame s
    if !mgmtOn s || !s.boot.minimal then s1.count pnMgmt 2 1
    else
      let a := act s1
      (a.1.count pnMgmt 1 1).emit (.raevoAnswer r.source op r.seq (BitVec.ofNat 8 a.2.1) a.2.2)

/-- The data of INFO: DEVICE_ID, stepping, c, the preferred slot and the failure log, oldest record first (log 64). -/
def infoData (s : State) : List Byte :=
  leBytes 8 s.fuses.deviceId.toNat ++ leBytes 2 0x4201 ++ leBytes 4 s.flash.bootCount ++ leBytes 1 s.flash.prefSlot.toNat ++
    s.flash.failures.flatMap failBytes

/-- INFO (R518). -/
def execInfo (r : RaevoReq) (s : State) : Out := .next (serveRaevo s 0x01 r fun t => (t, 0, infoData t))

/-- READ_FLASH (R518). -/
def execReadFlash (r : RaevoReq) (s : State) : Out :=
  .next (serveRaevo s 0x02 r fun t =>
    if r.length ≤ 1024 ∧ readable r.offset.toNat r.length = true then
      (t, 0, (List.range r.length).map fun k => readableByte t (r.offset.toNat + k))
    else (t, 1, []))

/-- WRITE_SLOT (R518). After a flash error nothing is known of the bytes (log 64). -/
def execWriteSlot (r : RaevoReq) (data : List Byte) (flashOk : Bool) (s : State) : Out :=
  .next (serveRaevo s 0x03 r fun t =>
    let o := slotOffset r.offset
    let n := r.length
    let at_ := slotBase r.offset + o
    if 1024 < n ∨ slotSize < o + n then (t, 1, [])
    else if flashOk then (writeFlash t at_ (data.take n), 0, [])
    else
      let t1 := writeFlash t at_ ((List.range (min n data.length)).map fun k => Config.freeByte (t.free + k))
      ({ t1 with free := t1.free + n }, 2, []))

/-- COMMIT_SLOT (R518): every image of the slot verifies, and the slot is preferred. -/
def execCommitSlot (r : RaevoReq) (verified : Bool) (s : State) : Out :=
  .next (serveRaevo s 0x04 r fun t =>
    if verified then ({ t with flash := t.flash.setBoot fun b => { b with prefSlot := slotOf r.offset } }, 0, []) else (t, 3, []))

/-- CLEAR_COUNTER (R518). -/
def execClearCounter (r : RaevoReq) (s : State) : Out :=
  .next (serveRaevo s 0x05 r fun t => ({ t with flash := t.flash.setBoot fun b => { b with count := 0 } }, 0, []))

/-- RESET (R518): the answer, then a module reset. -/
def execRaevoReset (r : RaevoReq) (s : State) : Out :=
  .next (
    let t := serveRaevo s 0x06 r fun t => (t, 0, [])
    if mgmtOn s && s.boot.minimal then unlessHot t moduleResetHbm else t)

end Sys2Proof.Machine
end

