-- ==== Sys2Proof/Machine/RegRead.lean ====
section
/-! DEFINITION. Reads of registers: the values computed where they are read, counters with their latches, fields that a
read clears, and the read as an access of the control network (R12, R28, R483, R519–R547, and the register tables of the
chapters). -/

namespace Sys2Proof.Machine

def flag (b : Bool) (k : Nat) : Nat × Nat := (k, if b then 1 else 0)

/-! ### Status words -/

/-- `BOOT.STATUS` (R519). -/
def bootStatus (s : State) : Nat :=
  fields [(0, s.boot.stage.toNat), (2, s.boot.image.toNat), flag s.boot.minimal 4, flag s.boot.resetBusy 5,
    (8, min 63 s.flash.bootCount), (14, s.flash.prefSlot.toNat)]

/-- The hottest sensor as last read. -/
def hottest (s : State) : Int :=
  match s.power.temps.map fun e => e.2.toInt with
  | [] => 0
  | t :: r => r.foldl max t

/-- DEVICE_ID as it reads: 0 until the start-up has derived the identity (R476, R536). -/
def shownId (s : State) : Long := if s.sealU.identity then s.fuses.deviceId else 0

/-- `PWR.STATUS` (R520). -/
def pwrStatus (s : State) : Nat :=
  fields [(0, s.power.capStep), flag s.power.capUnmet 3, flag (throttled s) 4, flag (thermalCeiling s) 5,
    (8, ((hottest s) % 256).toNat)]

/-- `PWR.INPUT_W` (R520). -/
def inputW (s : State) : Nat := fields [(0, s.power.watts.toNat), (16, s.power.centivolts.toNat)]

/-- `PWR.QCLK` (R520): per quadrant 0 1.000, 1 0.875 or 0.750, 2 0.625, 3 0.500 GHz. -/
def qclkCode (e : Nat) : Nat := if e = 8 then 0 else if 6 ≤ e then 1 else if e = 5 then 2 else 3
def qclk (s : State) : Nat := fields ((List.range 16).map fun q => (2 * q, qclkCode (aclkEighths s q)))

/-- `BOOT.FAIL0`–`FAIL3`: the latest failure record's first sixteen bytes. -/
def lastFailure (s : State) : List Byte :=
  match s.flash.failures.getLast? with
  | none => List.replicate 16 0
  | some r => (failBytes r).take 16

/-- Whole seconds left on the start watchdog (R519). -/
def watchdogLeft (s : State) : Nat :=
  if s.boot.bootOk ∨ s.boot.romDone = false then 0 else (watchdogLimit s - s.boot.watchdog) / 156250000

/-- The codes of `LINK.STATUS` (R453). -/
def portCode : PortState → Nat
  | .down => 0
  | .training => 1
  | .negotiating => 2
  | .up => 3
  | .retraining => 4
  | .negotiateFailed => 5

def linkStatus (s : State) (n : Nat) : Nat :=
  let a := s.half (2 * n)
  let b := s.half (2 * n + 1)
  fields [(0, portCode a.state), (4, portCode b.state), (8, a.level), (12, b.level), flag (a.bellRxValid || b.bellRxValid) 16,
    flag a.credRejected 17]

/-- `PART.STATUS` (R473). -/
def partStatus (s : State) (p : Nat) : Nat :=
  let v := s.part p
  fields [flag (isSealed s p) 0, flag (jobAdmitted s p) 1, (4, v.cur.getD 0), flag v.cur.isSome 7,
    flag (trainingPart s == some p) 8]

def ctxCode : CtxPhase → Nat
  | .free => 0
  | .runnable => 1
  | .suspended => 2
def admitCode : AdmitPhase → Nat
  | .idle => 0
  | .pending => 1
  | .admitted => 2
  | .refused => 3
def peerCode : PeerPhase → Nat
  | .closed => 0
  | .opening => 1
  | .ready => 2
  | .error => 3

/-- A die controller by die and number. -/
def dcOf (s : State) (d k : Nat) : DieController := if k = 0 then (s.die d).dc0 else (s.die d).dc1

/-- `DIECTL.STATUS` (R542). A partition's list counts as empty once its ring has a place (log 66). -/
def dieCtlStatus (s : State) (d k : Nat) : Nat :=
  let c := dcOf s d k
  let empty (p : Nat) : Bool := mget 0 c.freeHead p == mget 0 c.freeTail p && s.regAddr (pnDieCtl d k) (0x100 + p * 0x20) != 0
  fields ([flag c.running 0, flag c.halted 1, (8, c.haltCode.toNat)] ++ (List.range 4).map fun p => flag (empty p) (16 + p))

/-- `HBMC.STATUS` (R417). -/
def hbmcStatus (s : State) (d k : Nat) : Nat :=
  let h := s.hbmc d k
  fields [flag h.ready 0, flag (!noneExcluded s) 1, flag h.retraining.isSome 2, (3, (h.retraining.map Prod.fst).getD 0),
    flag (!h.pins.isEmpty) 8, (16, h.repairQ.length)]

/-- `SEQ.STATUS` (R545). -/
def seqStatus (s : State) (g : Nat) : Nat :=
  let c := s.core g
  let halted := match c.cur, partOfCore s g with
    | some x, some p => ((s.part p).ctx x).phase == .suspended
    | _, _ => false
  fields [flag (!(c.aq.isEmpty && c.vq.isEmpty && c.mq.isEmpty)) 0, flag halted 1, flag c.cur.isSome 2, (3, c.cur.getD 0),
    (6, c.aq.length), (12, c.vq.length), (18, c.mq.length)]

/-- `ARRAY.STATUS` (R113): the passes of a command run within one step, so that none is in the array between steps: BUSY,
DIRECTION and SHAPE read 0 (log 67). -/
def arrayStatus (s : State) (g : Nat) : Nat :=
  let c := s.core g
  let m := c.rowMap.getD plainMap
  fields [(0, ((List.range 4).filter fun i => m.getLsbD (256 + i)).length), flag c.disabled 3]

/-- `ACCUM.STATUS` (R155). -/
def accumStatus (s : State) (g : Nat) : Nat :=
  let c := s.core g
  let long (e : Edge) : Bool := e.slots.any fun q => q.2.long
  fields [flag (!c.bottom.slots.isEmpty) 0, flag (!c.side.slots.isEmpty) 1, flag (long c.bottom) 2, flag (long c.side) 3]

/-- An update of a list with a row in program mode (R315, R320). -/
def updProgram (r : CmdRec) : Bool := (updEntries (r.words? 4)).any fun e => (r.coefOf e).program

/-- `VU.STATUS` (R177): the vector command whose write-backs are under way. -/
def vuStatus (s : State) (g : Nat) : Nat :=
  match (s.core g).inflight.find? fun f => f.queue == .vq with
  | none => 0
  | some f =>
    let op := f.cmd.opcode
    let mode := if op = opVec then 1 else if op = opVecProg then 2 else 3
    fields [(0, 1), (1, mode), flag (op == opUpdateP2 && updProgram f.cmd) 3]

/-- A trap ring has unread records or queued page events (R539, R541). -/
def ringPending (s : State) (k : Nat) : Bool :=
  let r := s.crierRing k
  r.head != r.tail || !r.events.isEmpty

/-- The host cores to which ring `k` asserts its interrupt (R541). -/
def ringInterrupts (s : State) (k : Nat) : List Nat :=
  if !ringPending s k then []
  else if k < 4 then (List.range 16).filter fun h => (hostsOf s k).testBit h
  else (List.range 16).filter fun h => h == 0 || (partOfHost s h).isNone

/-- STATUS of a page, if its type has one. -/
def statusWord? (s : State) (i : PageId) : Option Nat :=
  if i.ty = ptBoot then some (bootStatus s)
  else if i.ty = ptFuse then some (if s.boot.burnLeft = 0 then 0 else 1)
  else if i.ty = ptBell then
    some (fields [flag s.bell.locked 0, flag s.bell.holdover 1, flag s.bell.selfTimed 2, (6, s.bell.cause.toNat), (16, s.bell.ppm.toNat)])
  else if i.ty = ptAlmanac then some (fields [flag (dieSelfTimed s i.die) 1, (8, inFlightOn s i.die)])
  else if i.ty = ptSched then
    some (fields [(0, s.sched.recRejected.toNat), flag s.sched.selfTimed 9, flag s.sched.mapSel 10, flag s.sched.resultLate 11,
      (12, s.sched.tollResult.toNat)])
  else if i.ty = ptPwr then some (pwrStatus s)
  else if i.ty = ptMgmt then some (fields [flag s.power.mgmtUp 0, flag s.boot.minimal 1])
  else if i.ty = ptPart then some (partStatus s i.inst)
  else if i.ty = ptCrier then some (fields ((List.range 5).map fun k => flag (ringPending s k) k))
  else if i.ty = ptLink then some (linkStatus s i.inst)
  else if i.ty = ptDieCtl then some (dieCtlStatus s i.die i.inst)
  else if i.ty = ptHbmc then some (hbmcStatus s i.die i.inst)
  else if i.ty = ptSlab then some (fields [flag (s.die i.die).slabReady 0])
  else if i.ty = ptD2d then
    let v := d2dOf s (if i.die = 4 then 12 + i.inst else 3 * i.die + i.inst)
    some (fields [flag v.trained 0, flag v.down 1, flag v.replaying 2])
  else match i.core with
  | none => none
  | some g =>
    if i.ty = ptSeq then some (seqStatus s g)
    else if i.ty = ptArray then some (arrayStatus s g)
    else if i.ty = ptAccum then some (accumStatus s g)
    else if i.ty = ptVu then some (vuStatus s g)
    else if i.ty = ptFeed then some (fields [flag ((s.core g).pipe.inB && (s.core g).pipe.lastDeposit != 0) 2])
    else if i.ty = ptRot then some (fields [flag (s.core g).rot.isSome 0, flag (s.core g).rotRejected 1])
    else none

/-! ### Words that software does not write, by page type -/

/-- The words of the hub pages. -/
def hubWord? (s : State) (i : PageId) (off : Nat) : Option Nat :=
  if i.ty = ptBoot then
    (if off = 0x100 ∨ off = 0x104 then some 0
     else if 0x110 ≤ off ∧ off < 0x120 then some (ofLe (((lastFailure s).drop (off - 0x110)).take 4))
     else if off = 0x120 then some (watchdogLeft s) else none)
  else if i.ty = ptFuse then
    (if off = 0x100 then some (bits (shownId s).toNat 31 0) else if off = 0x104 then some (bits (shownId s).toNat 63 32)
     else if off = 0x108 then some 0x4201 else if off = 0x10C then some (if s.boot.opKey.isSome then 1 else 0)
     else if 0x110 ≤ off ∧ off < 0x150 then some (s.fuses.fwKey.toNat / 2 ^ (8 * (off - 0x110)) % 2 ^ 32)
     else if 0x150 ≤ off ∧ off < 0x190 then some ((s.boot.opKey.getD 0).toNat / 2 ^ (8 * (off - 0x150)) % 2 ^ 32)
     else if off = 0x840 then some 0 else none)
  else if i.ty = ptSeal then
    (if off = 0x100 then some 0 else if off = 0x114 then some s.sealU.cmdStatus.toNat else if off = 0x118 then some certBase
     else if 0x200 ≤ off ∧ off < 0x400 ∧ off % 0x80 = 0x14 then some (s.part ((off - 0x200) / 0x80)).logHeadTail.toNat else none)
  else if i.ty = ptSched then
    (if off = 0x120 then some (bits s.sched.epoch.toNat 31 0) else if off = 0x124 then some (bits s.sched.epoch.toNat 63 32)
     else if 0x140 ≤ off ∧ off < 0x160 then some (mget 0 s.sched.lr ((off - 0x140) / 4)).toNat
     else if 0x160 ≤ off ∧ off < 0x180 then some (mget 0 s.sched.wd ((off - 0x160) / 4)).toNat else none)
  else if i.ty = ptPwr then
    (if off = 0x110 then some (bits s.power.domains.toNat 31 0) else if off = 0x114 then some (bits s.power.domains.toNat 46 32)
     else if off = 0x118 then some (qclk s) else if off = 0x11C then some (inputW s) else none)
  else if i.ty = ptMgmt then
    (if off = 0x100 then some (bits s.fuses.mgmtMac.toNat 31 0) else if off = 0x104 then some (bits s.fuses.mgmtMac.toNat 47 32)
     else if off = 0x108 then some (0x58 + s.power.strap.toNat) else none)
  else if i.ty = ptPart then
    let v := s.part i.inst
    (if off = 0x128 ∨ off = 0x130 then some 0
     else if off = 0x12C then some (fields [(0, v.admitReason.toNat), (8, admitCode v.admission)])
     else if off = 0x134 then some (fields ((List.range 8).map fun x => (3 * x, ctxCode (v.ctx x).phase))) else none)
  else if i.ty = ptCrier ∧ 0x200 ≤ off ∧ off < 0x2A0 then
    let r := s.crierRing ((off - 0x200) / 0x20)
    (if off % 0x20 = 0x08 then some r.head.toNat else if off % 0x20 = 0x0C then some r.tail.toNat
     else if off % 0x20 = 0x10 then some r.dropped.toNat
     else if off % 0x20 = 0x14 then some (r.events.head?.elim 0 fun a => a + 1)
     else if off % 0x20 = 0x18 then some r.lost.toNat else none)
  else if i.ty = ptLink then
    (if off = 0x104 then some (bits (mget 0 s.fuses.linkMacs i.inst).toNat 31 0)
     else if off = 0x108 then some (bits (mget 0 s.fuses.linkMacs i.inst).toNat 47 32)
     else if off = 0x134 then some (s.half (2 * i.inst)).delay.toNat else none)
  else if i.ty = ptLinkCtx then
    let p := s.peer (s.regN pnLinkCtx 0x10C)
    (if off = 0x108 then some 0
     else if off = 0x110 then some (fields [(0, peerCode p.phase), (4, p.reason.toNat), (8, p.sendSeq.toNat)])
     else if 0x200 ≤ off ∧ off < 0x240 ∧ off % 0x10 = 0x08 then some (s.reqRing ((off - 0x200) / 0x10)).head.toNat
     else if 0x200 ≤ off ∧ off < 0x240 ∧ off % 0x10 = 0x0C then some (s.reqRing ((off - 0x200) / 0x10)).tail.toNat else none)
  else none

/-- The words of the die pages. -/
def dieWord? (s : State) (i : PageId) (off : Nat) : Option Nat :=
  if i.ty = ptAlmanac ∧ 0x200 ≤ off ∧ off < 0x600 then
    let r := (s.die i.die).ring ((off - 0x200) / 0x20)
    (if off % 0x20 = 0x08 then some r.head.toNat else if off % 0x20 = 0x0C then some r.tail.toNat
     else if off % 0x20 = 0x18 then some (s.regN (pnAlm i.die) off) else none)
  else if i.ty = ptDieCtl then
    let c := dcOf s i.die i.inst
    let oldest := (c.released.headD 0).toNat
    (if off = 0x180 then some (bits oldest 31 0) else if off = 0x184 then some (bits oldest 47 32)
     else if 0x100 ≤ off ∧ off < 0x180 ∧ off % 0x20 = 0x08 then some (mget 0 c.freeHead ((off - 0x100) / 0x20)).toNat
     else if 0x100 ≤ off ∧ off < 0x180 ∧ off % 0x20 = 0x0C then some (mget 0 c.freeTail ((off - 0x100) / 0x20)).toNat else none)
  else if i.ty = ptHbmc then
    let h := s.hbmc i.die i.inst
    (if off = 0x100 then some h.chFailed.toNat else if off = 0x104 then some h.chExcluded.toNat
     else if off = 0x10C then some (fields [(0, h.pprSoft.toNat), (16, h.pprHard.toNat)])
     else if off = 0x110 then some (bits h.lastCe.toNat 31 0) else if off = 0x114 then some (bits h.lastCe.toNat 38 32) else none)
  else none

/-- The words of the core pages. -/
def coreWord? (s : State) (i : PageId) (g off : Nat) : Option Nat :=
  if i.ty = ptSeq ∧ 0x200 ≤ off ∧ off < 0x300 then
    let r := (s.core g).ring ((off - 0x200) / 0x20)
    (if off % 0x20 = 0x08 then some r.head.toNat else if off % 0x20 = 0x0C then some r.tail.toNat else none)
  else if i.ty = ptArray ∧ 0x110 ≤ off ∧ off < 0x134 then
    some ((((s.core g).rowMap.getD plainMap).toNat / 2 ^ (8 * (off - 0x110))) % 2 ^ 32)
  else none

/-- A word of a page that software does not set: its value as it stands. -/
def roWord? (s : State) (i : PageId) (off : Nat) : Option Nat :=
  if off = 0x014 then statusWord? s i
  else match i.core with
  | some g => coreWord? s i g off
  | none => if i.die < 4 then dieWord? s i off else hubWord? s i off

/-! ### Counters and other 64-bit registers (R156, R367, R534) -/

/-- Counters of what time or the wire alone shows, while what they count can happen: between two reads they move on by an
amount that is open (log 68): the cycles of a core that is on, the switches, conflicts and bucket waits of a stack in service,
the IDLE flits of a DIRECT port that is up, corrected codewords of a port that is not DOWN, and the flits of a trained
die-to-die port. -/
def openCounter (s : State) (i : PageId) (k : Nat) : Bool :=
  let some_ (f : Nat → Bool) : Bool := f (2 * i.inst) || f (2 * i.inst + 1)
  if i.ty = ptCnt then decide (k < 2) && i.core.any (coreOn s)
  else if i.ty = ptHbmc then decide (7 ≤ k) && (s.hbmc i.die i.inst).ready
  else if i.ty = ptLink then
    if k < 2 then some_ fun h => !halfFabric s h && (s.half h).state == .up
    else k == 2 && some_ fun h => (s.half h).state != .down
  else i.ty == ptD2d && decide (k < 2) && (d2dOf s (if i.die = 4 then 12 + i.inst else 3 * i.die + i.inst)).trained

/-- The 64-bit register that an offset is a half of: its first offset. -/
def wideBase? (ty off : Nat) : Option Nat :=
  let b := off - off % 8
  if 0x080 ≤ off ∧ off < 0x080 + 8 * counterCount ty then some b
  else if ty = ptBell ∧ b = 0x100 then some b
  else if ty = ptAccum ∧ (b = 0x100 ∨ b = 0x108) then some b
  else none

/-- Its value. An edge that holds no HELD tile keeps the count of its last one (R156; log 122). -/
def wideValue (s : State) (pn : Nat) (i : PageId) (b : Nat) : State × Long :=
  if i.ty = ptBell ∧ b = 0x100 then (s, s.bell.count)
  else if i.ty = ptAccum ∧ 0x100 ≤ b then
    (s, ((s.core (i.core.getD 0)).edge (b == 0x108)).depcnt)
  else
    let k := (b - 0x080) / 8
    let s1 := if openCounter s i k then s.countOpen pn k else s
    (s1, s1.counter pn k)

/-- The key of an initiator's latch for a register. -/
def latchKey (init b : Nat) : Nat := init * 0x1000 + b

/-- A half of a 64-bit register is read: the low word latches the high word for the initiator, whose next read of the high
word takes it (R534). -/
def readWide (s : State) (init pn : Nat) (i : PageId) (b off : Nat) : State × Nat :=
  let key := latchKey init b
  if off = b then
    let v := wideValue s pn i b
    (v.1.modPage pn fun p => { p with latches := mput p.latches key (BitVec.ofNat 32 (v.2.toNat / 2 ^ 32)) }, v.2.toNat % 2 ^ 32)
  else match mget? (s.page pn).latches key with
  | some w => (s.modPage pn fun p => { p with latches := merase p.latches key }, w.toNat)
  | none => let v := wideValue s pn i b; (v.1, v.2.toNat / 2 ^ 32)

/-! ### Fields that a read clears (R12, R271, R368, R539, R540) -/

/-- What a read of a word leaves behind. -/
def afterRead (s : State) (pn : Nat) (i : PageId) (off : Nat) : State :=
  if i.ty = ptCrier ∧ 0x200 ≤ off ∧ off < 0x2A0 then
    let k := (off - 0x200) / 0x20
    let r := s.crierRing k
    (if off % 0x20 = 0x10 then s.setCrierRing k { r with dropped := 0 }
     else if off % 0x20 = 0x14 then s.setCrierRing k { r with events := r.events.drop 1 }
     else if off % 0x20 = 0x18 then s.setCrierRing k { r with lost := 0 } else s)
  else if i.ty = ptAlmanac ∧ 0x200 ≤ off ∧ off < 0x600 ∧ off % 0x20 = 0x18 then s.setReg pn off 0
  else if i.ty = ptDieCtl ∧ off = 0x184 then
    let pop (c : DieController) : DieController := { c with released := c.released.drop 1 }
    s.modDie i.die fun d => if i.inst = 0 then { d with dc0 := pop d.dc0 } else { d with dc1 := pop d.dc1 }
  else s

/-! ### The common layout (R525, R526, R530–R535) -/

/-- Event bits of a page type (R339, R367, R368, R418, R454, R473, R539, R542, R544, R554). -/
def eventCount (ty : Nat) : Nat :=
  if ty = ptBell then 2 else if ty = ptAlmanac then 4 else if ty = ptSched then 5 else if ty = ptPwr then 7
  else if ty = ptPart then 4 else if ty = ptCrier then 2 else if ty = ptLink then 3 else if ty = ptDieCtl then 3
  else if ty = ptHbmc then 7 else if ty = ptD2d then 2 else 0
def eventMask (ty : Nat) : Word := BitVec.ofNat 32 (2 ^ eventCount ty - 1)

/-- The words that every page has, but for its counters: the value, where the offset is one of them. -/
def commonWord? (s : State) (pn : Nat) (i : PageId) (off : Nat) : Option Nat :=
  let p := s.page pn
  if off = 0x000 then some (fields [(8, 1), (16, i.inst), (24, i.ty)])
  else if off = 0x004 then some (fields [flag (hasExpert i.ty) 0, flag (hasShadow i.ty) 1, (8, counterCount i.ty)])
  else if off = 0x008 then some 0
  else if off = 0x00C then some (fields [flag p.expertEn 0, flag p.capture.isSome 1, flag p.keyArmed.isSome 2])
  else if off = 0x020 then some p.evtStatus.toNat
  else if off = 0x024 then some p.evtEnable.toNat
  else if off = 0x028 then some 0
  else if 0x040 ≤ off ∧ off < 0x080 then some ((p.capture.getD 0).toNat / 2 ^ (8 * (off - 0x040)) % 2 ^ 32)
  else if off = 0xF00 then some (fields [flag (hasShadow i.ty && !p.shadow.isEmpty) 0])
  else none

/-- TITHE_REJECTED shows beside the words of HBM_TITHE (R420). -/
def wordMask (r : RegSpec) : Nat := Nat.lor r.rw r.latch
def setWord (s : State) (pn : Nat) (i : PageId) (r : RegSpec) : Nat :=
  Nat.land (s.regN pn r.off) (wordMask r) +
    if i.ty = ptPart ∧ r.off = 0x168 ∧ (s.part i.inst).titheRejected = true then 2 ^ 9 else 0

/-- A read at a page: the value and what it leaves behind. A reserved offset reads 0 (R525), as does an expert register
while it is locked (R529). -/
def readAt (s : State) (init pn off : Nat) : State × Nat :=
  match page? pn with
  | none => (s, 0)
  | some i =>
    match commonWord? s pn i off with
    | some v => (s, v)
    | none =>
      if 0x800 ≤ off ∧ (s.page pn).expertEn = false then (s, 0)
      else match wideBase? i.ty off with
      | some b => readWide s init pn i b off
      | none =>
        match regSpec? i.ty off with
        | some r => (s, setWord s pn i r)
        | none =>
          match roWord? s i off with
          | some v => (afterRead s pn i off, v)
          | none => (s, 0)

/-! ### The read as an access (R28–R30) -/

/-- The value that a read gives once it is served, and the state it leaves; none where no page serves it. -/
def serveRead (s : State) (init bytes addr : Nat) : State × Option Nat :=
  match accessReason s init bytes addr false with
  | some reason => (refuseAccess s reason init false addr 0, none)
  | none =>
    let r := readAt s init (addr / 0x1000) (addr % 0x1000)
    (disarm r.1 (addr / 0x1000), some r.2)

/-- A read is answered. -/
def answerRead (s : State) (init bytes addr : Nat) : State :=
  let r := serveRead s init bytes addr
  r.1.emit (.readData init (BitVec.ofNat 32 addr) (BitVec.ofNat 32 (r.2.getD 0)))

/-- A read of `bytes` bytes: held behind the initiator's held writes, or served. -/
def ctlRead (s : State) (init bytes addr : Nat) : State :=
  if mustHold s init false then holdAccess s init bytes addr 0 false
  else if !domOn s domCtl then s
  else answerRead s init bytes addr

/-- RC_READ (R12). -/
def execRcRead (init : Reader) (address : Word) (s : State) : Out := .next (ctlRead s init.id init.bytes address.toNat)
/-- COUNTER_LOW_READ (R534). -/
def execCounterLowRead (init : Reader) (address : Word) (s : State) : Out :=
  .next (ctlRead s init.id init.bytes address.toNat)

end Sys2Proof.Machine
end

