-- ==== Sys2Proof/Machine/Sealing.lean ====
section
/-! DEFINITION. The seal unit's commands: sealing a partition from its manifest, unsealing it, loading programs and
attestation reports (R476–R495). -/

namespace Sys2Proof.Machine

/-! ### The command register (R494) -/

def sealCmdAddr : Nat := pnSeal * 0x1000 + 0x100

/-- CMD_STATUS after a command: DONE, or REFUSED with a reason. -/
def sealDone (s : State) : State := { s with sealU := { s.sealU with cmdStatus := 2 } }
def sealRefused (s : State) (reason : Nat) : State :=
  { s with sealU := { s.sealU with cmdStatus := BitVec.ofNat 16 (3 + 256 * reason) } }

/-- The reasons of R494. -/
def srSignature : Nat := 1
def srFormat : Nat := 2
def srJob : Nat := 3
def srProgram : Nat := 4
def srRegion : Nat := 5
def srState : Nat := 6

def sealArg (s : State) : Nat := s.regPair pnSeal 0x104
def sealArg2 (s : State) : Nat := s.regPair pnSeal 0x10C

/-- A span of hub SRAM that lies outside every partition's grant. -/
def outsideGrants (s : State) (a n : Nat) : Bool :=
  hubArea a n 1 && outsideAll s (bits a 25 0) n

/-- A span that the seal unit cannot read raises UNCORRECTABLE_MEM, and refuses the command (log 55). -/
def sealUnread (s : State) (p u : Nat) : State :=
  sealRefused (raiseTrap s pnSeal { code := trapUncorrectable, level := 2, part := some p, detail := fields [(0, 7), (16, u)] })
    srRegion

/-! ### The manifest (R480, R481) -/

/-- A manifest as read. -/
structure Manifest where
  bytes : List Byte

def Manifest.num (m : Manifest) (at_ n : Nat) : Nat := ofLe ((m.bytes.drop at_).take n)
def Manifest.nprog (m : Manifest) : Nat := bits (m.num 8 4) 15 8
def Manifest.nrule (m : Manifest) : Nat := bits (m.num 8 4) 20 16
def Manifest.npeer (m : Manifest) : Nat := m.num 12 4
def Manifest.prog (m : Manifest) (i : Nat) : BitVec 512 := BitVec.ofNat 512 (m.num (0x40 + 64 * i) 64)
def Manifest.rule (m : Manifest) (i : Nat) : List Word := wordsOf 16 ((m.bytes.drop (0x1040 + 64 * i)).take 64)
def Manifest.peers (m : Manifest) : List Long := (List.range m.npeer).map fun i => BitVec.ofNat 64 (m.num (0x1440 + 8 * i) 8)
/-- Bytes before the signature. -/
def manifestBody (npeer : Nat) : Nat := 0x1440 + 8 * npeer
def Manifest.signed (m : Manifest) : List Byte := m.bytes.take (manifestBody m.npeer)
def Manifest.signature (m : Manifest) : List Byte := (m.bytes.drop (manifestBody m.npeer)).take 64
def Manifest.owner (m : Manifest) : List Byte := (m.bytes.drop 0x10).take 32

/-- A rule of the manifest (R481). -/
def ruleOf (ws : List Word) : ReleaseRule :=
  let w0 := wordAt ws 0
  { valid := w0.testBit 0, noise := w0.testBit 1, outFmt := bits w0 6 2, window := bits w0 9 8, minContrib := wordAt ws 1,
    bytesPerStep := longAt ws 2, progMask := BitVec.ofNat 64 (longAt ws 4), sigma := BitVec.ofNat 64 (longAt ws 6) }

/-- A rule has a reserved bit set, or is valid and breaks R481. -/
def ruleBad (ws : List Word) : Bool :=
  let r := ruleOf ws
  let sigmaOk := match decodeFp64 r.sigma.toNat with
    | .fin m _ => decide (0 < m)
    | _ => false
  bits (wordAt ws 0) 31 10 != 0 || ((List.range 8).any fun k => wordAt ws (8 + k) != 0) ||
    (r.valid && ((r.outFmt != 0 && r.outFmt != 2) || r.minContrib == 0 || (r.noise && !sigmaOk)))

/-- ASCII "GN7LMAN1" and "GN7LATT1" as bytes. -/
def manifestTag : List Byte := [0x47, 0x4E, 0x37, 0x4C, 0x4D, 0x41, 0x4E, 0x31]
def reportTag : List Byte := [0x47, 0x4E, 0x37, 0x4C, 0x41, 0x54, 0x54, 0x31]

/-- The form of a manifest's header. -/
def manifestBad (m : Manifest) : Bool :=
  m.bytes.take 8 != manifestTag || bits (m.num 8 4) 7 4 != 0 || bits (m.num 8 4) 31 21 != 0 || m.nprog == 0 || decide (64 < m.nprog) ||
    decide (16 < m.nrule) || m.npeer == 0 || decide (32768 < m.npeer) || m.num 0x30 16 != 0

/-- The slots of a manifest: unused ones are zero, rules keep R481. -/
def slotsBad (m : Manifest) : Bool :=
  ((List.range 64).any fun i => decide (m.nprog ≤ i) && m.prog i != 0) ||
    (List.range 16).any fun i => if m.nrule ≤ i then (m.rule i).any (fun w => w != 0) else ruleBad (m.rule i)

/-! ### Zeroed memory (R482, R493) -/

/-- A memory key in a partition's local stores, slabs or hub SRAM grant. -/
def onDie (s : State) (p k : Nat) : Bool :=
  if tierOf k < 2 then k < 2 ^ 45 && partOfCore s (bits k 43 36) == some p
  else tierOf k == 2 && k < 2 ^ 46 && inHubGrant s p (bits k 25 0) 1

/-- A partition's on-die memory and accumulator slots are zeroed. -/
def zeroPart (s : State) (p : Nat) : State :=
  let s1 : State := { s with
    mem := s.mem.filter (fun e => !onDie s p e.1), bad := s.bad.filter (fun u => !onDie s p u),
    softBad := s.softBad.filter (fun u => !onDie s p u), tags := s.tags.filter fun e => !onDie s p (hubAddr (256 * e.1)) }
  (coresOfPart s1 p).foldl (fun (t : State) g => t.modCore g fun c => { c with bottom := {}, side := {}, saved := [] }) s1

/-! ### SEAL and UNSEAL (R482, R492, R493) -/

/-- Sealing locks the expert registers of the partition's pages (R528, R529). -/
def lockPages (s : State) (p : Nat) : State :=
  (s.pages.map Prod.fst).foldl (fun (t : State) pn =>
    if pageOf s p pn then t.modPage pn fun v => { v with expertEn := false, keyArmed := none } else t) s

/-- Peer contexts of the partition that are not sealed leave service, as none may serve a sealed partition (R483; log 134). -/
def endOpenContexts (s : State) (p : Nat) : State :=
  (s.links.peers.filter fun e => e.2.part == p && !e.2.sealedCtx && e.2.phase != .closed).foldl (fun (t : State) e =>
    endContext t e.1 .closed) s

/-- A manifest is accepted: the partition is sealed. Its keys and the seed of its generator are two draws, and what its HBM
held is lost (R482). -/
def sealPart (s : State) (p : Nat) (m : Manifest) : State :=
  let n := (s.part p).sealCount + 1
  let hash := shaOf [m.bytes.take (manifestBody m.npeer + 64)]
  let v : SealedPart :=
    { manifestHash := hash, level := bits (m.num 8 4) 3 0, programs := (List.range m.nprog).map m.prog,
      rules := (List.range m.nrule).map fun i => ruleOf (m.rule i), peers := m.peers, keyId := s.sealU.keysDrawn + 1,
      drbg := drbgSeed (entropy (s.sealU.keysDrawn + 2) 48) }
  let s1 := zeroPart s p
  let s2 : State := { s1 with sealU := { s1.sealU with keysDrawn := s.sealU.keysDrawn + 2 } }
  let s3 := loseBursts s2 ((hbmRegion s p).1 / 32) (((hbmRegion s p).1 + (hbmRegion s p).2) / 32)
  let s4 := (lockPages (endOpenContexts s3 p) p).setReg pnSeal (0x210 + p * 0x80) 0
  sealDone (s4.modPart p fun q =>
    { q with sealedPart := some v, sealCount := n, logHeadTail := 0, logCount := 0,
             logChain := shaOf [hashBytes hash, leBytes 8 s.fuses.deviceId.toNat, leBytes 8 n] })

/-- SEAL written to `SEAL.CMD`. -/
def doSeal (s : State) (p : Nat) : State :=
  let a := sealArg s
  if isSealed s p || s.boot.minimal then sealRefused s srState
  else if jobAdmitted s p then sealRefused s srJob
  else if !(outsideGrants s a (manifestBody 1)) then sealRefused s srRegion
  else match badUnit s a (manifestBody 1) with
  | some u => sealUnread s p u
  | none =>
    let head : Manifest := { bytes := viewBytes s a (manifestBody 0) }
    let n := manifestBody head.npeer + 64
    let s1 := correctSpan s a (manifestBody 1)
    if manifestBad head || slotsBad head then sealRefused s1 srFormat
    else if !(outsideGrants s a n) then sealRefused s1 srRegion
    else match badUnit s1 a n with
    | some u => sealUnread s1 p u
    | none =>
      let m : Manifest := { bytes := viewBytes s a n }
      let s2 := correctSpan s1 a n
      if edVerify m.owner m.signed m.signature then sealPart s2 p m else sealRefused s2 srSignature

/-- The value of `SEAL.CMD` for an action. -/
def sealCmd (p action : Nat) : Nat := p + 16 * action

/-- SEAL (R482). -/
def execSeal (init : Sender) (part : Nat) (s : State) : Out :=
  .next (ctlWrite s init.id sealCmdAddr (sealCmd part 1) init.behind fun t => doSeal t part)

/-- UNSEAL written to `SEAL.CMD`: keys, generator and tags are gone; the log ring stays with its chain value. -/
def doUnseal (s : State) (p : Nat) : State :=
  if !isSealed s p then sealRefused s srState
  else if jobAdmitted s p then sealRefused s srJob
  else sealDone ((zeroPart s p).modPart p fun q => { q with sealedPart := none })

/-- UNSEAL (R493). -/
def execUnseal (init : Sender) (part : Nat) (s : State) : Out :=
  .next (ctlWrite s init.id sealCmdAddr (sealCmd part 2) init.behind fun t => doUnseal t part)

/-! ### LOAD (R484, R488) -/

/-- A program of the manifest is loaded: copied, marked executable, and extended into PROGRAM_MEAS; its tags match no
context. -/
def loadProgram (s : State) (p dest : Nat) (image : List Byte) (hash : BitVec 512) (i : Nat) : State :=
  let runs := [(hubAddr dest, image)]
  let st := memStores s false runs
  sealDone (modSealed (setTags st.1 0 runs) p fun v =>
    { v with loaded := if v.loaded.contains i then v.loaded else v.loaded ++ [i],
             executable := v.executable ++ [(dest, image.length)],
             programMeas := shaOf [hashBytes v.programMeas, hashBytes hash] })

/-- LOAD written to `SEAL.CMD`. -/
def doLoad (s : State) (p : Nat) : State :=
  let a := sealArg s
  let dest := bits (sealArg2 s) 47 0
  let n := 4096 * bits (sealArg2 s) 63 48
  let off := bits dest 25 0
  match (s.part p).sealedPart with
  | none => sealRefused s srState
  | some v =>
    if !(outsideGrants s a n) || (tierOf dest != 2 && tierOf dest != 0) || bits dest 43 26 != 0 || dest % 4096 != 0 ||
      !(inHubGrant s p off n) then sealRefused s srRegion
    else match badUnit s a n with
    | some u => sealUnread s p u
    | none =>
      let image := viewBytes s a n
      let hash := shaOf [image]
      match v.programs.findIdx? fun h => h == hash with
      | none => sealRefused s srProgram
      | some i => loadProgram (correctSpan s a n) p off image hash i

/-- LOAD (R484). -/
def execLoad (init : Sender) (part : Nat) (s : State) : Out :=
  .next (ctlWrite s init.id sealCmdAddr (sealCmd part 3) init.behind fun t => doLoad t part)

/-- Whether an instruction fetch of a host core, at a fabric address, is an access fault: its partition is sealed and the
bytes do not lie in a loaded program (R483, R484). -/
def hostFetchFaults (s : State) (h a n : Nat) : Bool :=
  match partOfHost s h with
  | none => false
  | some p => (s.part p).sealedPart.elim false fun v =>
      !(tierOf a == 2 && bits a 43 26 == 0 && v.executable.any fun e => decide (e.1 ≤ bits a 25 0) && decide (bits a 25 0 + n ≤ e.1 + e.2))

/-! ### ATTEST (R479) -/

/-- Bytes 0–607 of a report. -/
def reportBody (s : State) (p : Nat) (nonce : List Byte) : List Byte :=
  let v? := (s.part p).sealedPart
  let h (f : SealedPart → BitVec 512) : List Byte := v?.elim (List.replicate 64 0) fun v => hashBytes (f v)
  reportTag ++ leBytes 4 1 ++
    leBytes 4 (fields [(0, p), (2, if quadsOf s p = 0 then 0 else 1), (3, if v?.isSome then 1 else 0),
      (4, v?.elim 0 SealedPart.level)]) ++
    leBytes 8 s.fuses.deviceId.toNat ++ leBytes 8 s.bell.count.toNat ++ nonce ++
    hashBytes s.sealU.m0 ++ hashBytes s.sealU.m1 ++ hashBytes s.sealU.m2 ++ hashBytes s.sealU.m3 ++
    h SealedPart.manifestHash ++ h SealedPart.programMeas ++ hashBytes (s.part p).logChain ++
    leBytes 8 (s.part p).logCount.toNat ++ leBytes 8 (partEpoch s p) ++ List.replicate 48 0

/-- A span of hub SRAM, 64-byte aligned (R195), into which the seal unit writes a report: no sealed partition's grant or
release window. -/
def reportPlace (s : State) (a n : Nat) : Bool :=
  let lo := bits a 25 0
  hubArea a n 64 && (List.range 4).all fun p => !isSealed s p ||
    (!(overlap lo (lo + n) (hubGrant s p).1 ((hubGrant s p).1 + (hubGrant s p).2)) && !(meetsRelease s lo n))

/-- ATTEST written to `SEAL.CMD`. -/
def doAttest (s : State) (p : Nat) : State :=
  let a := sealArg s
  let dest := bits (sealArg2 s) 47 0
  if !s.sealU.identity then sealRefused s srState
  else if !(outsideGrants s a 64) || !(reportPlace s dest 672) then sealRefused s srRegion
  else match badUnit s a 64 with
  | some u => sealUnread s p u
  | none =>
    let body := reportBody s p (viewBytes s a 64)
    let report := body ++ edSign (leBytes 32 s.sealU.privKey.toNat) body
    sealDone ((memStores (correctSpan s a 64) false [(dest, report)]).1.count pnSeal 4 1)

/-- ATTEST (R479). -/
def execAttest (init : Sender) (part : Nat) (s : State) : Out :=
  .next (ctlWrite s init.id sealCmdAddr (sealCmd part 4) init.behind fun t => doAttest t part)

end Sys2Proof.Machine
end

