-- ==== Sys2Proof/Machine/Slices.lean ====
section
/-! DEFINITION. Slices and the switch between contexts: the start of a slice, killed tiles, save and restore (R203,
R464–R472). -/

namespace Sys2Proof.Machine

/-! ### The start of a slice (R466) -/

/-- The outgoing context's run of killed switches goes on only if its last switch killed a tile (R472). -/
def leaveCtx (s : State) (p : Nat) (x : Option Nat) : State :=
  match x with
  | none => s
  | some x => s.modCtx p x fun c => { c with killsInRow := if c.killed then c.killsInRow else 0, killed := false }

/-- The switch has ended on every core of the partition: its duration is added up (R475), the incoming context's parked
messages are delivered before any later one (R469), and its waiting messages go (R468). -/
def endSwitch (s : State) (p : Nat) : State :=
  if (coresOfPart s p).all fun g => (s.core g).incoming.isNone then
    match (s.part p).switchAt with
    | some t =>
      let s1 := (s.modPart p fun v => { v with switchAt := none }).count (pnPart p) 3 (s.bell.count - t).toNat
      pumpAll ((s.part p).cur.elim s1 (deliverParked s1 p))
    | none => s
  else s

/-- The switch to another context begins: open gather groups close, and dispatch of the outgoing context stops. -/
def beginSwitch (s : State) (p x : Nat) : State :=
  let s1 := leaveCtx (closeGathers s p) p (s.part p).cur
  let s2 := (coresOfPart s1 p).foldl (fun (t : State) g => t.modCore g fun c => { c with incoming := some (some x), atBoundary := [] }) s1
  endSwitch ((s2.modPart p fun v => { v with
    cur := some x, switchAt := some s.bell.count, lastSwitch := s.bell.count, parkFull := false }).count (pnPart p) 0 1) p

/-- SLICE_START (R466): the first tick of a slice whose context is not the one switched in. -/
def execSliceStart (part : Nat) (s : State) : Out :=
  .next (match ctxDue s part with
    | none => s
    | some x => if (s.part part).cur = some x ∨ (s.part part).cur = none then s else beginSwitch s part x)

/-! ### Killed tiles (R203, R466, R472) -/

/-- The open chain that a command goes on with: the one of its edge that holds its first slots. -/
def chainOf (e : Edge) (r : CmdRec) : Option Chain := e.chains.find? fun c => c.slots.any fun k => k % 128 == r.slotBase

/-- A command of a killed chain runs again, after the one before it in the chain: it is at the front of its queue and has not
completed. -/
def requeue (g : Nat) (s : State) (e : CmdRec × Option Nat) : State :=
  let r := e.1
  match r.queue? with
  | none => s
  | some q =>
    let fresh : CmdRec := { r with deps := e.2.toList, depFailed := false }
    let s1 := s.modCore g fun c =>
      { c.setQueue q (fresh :: c.queue q) with inflight := c.inflight.filter fun f => !(f.cmd.ctx == r.ctx && f.cmd.idx == r.idx) }
    let s2 := s1.modRing g r.ctx fun v =>
      { v with done := v.done.erase r.idx,
               outstanding := if v.outstanding.contains r.idx then v.outstanding else r.idx :: v.outstanding }
    match r.recompute with
    | some (d, k, pos) => modEntry s2 d k pos fun e => { e with recompute := e.recompute + 1 }
    | none => s2

/-- The edges into which a command deposits or from which it reads, false the bottom edge: that of its EDGE field where it
has one (R182), those of its passes otherwise (R103, R214, R225); none for a command that touches no slot. -/
def CmdRec.edges (r : CmdRec) : List Bool :=
  let op := r.opcode
  if op = opMatmul ∨ op = opConv then [false]
  else if op = opMatmulT ∨ op = opAttnFwd ∨ op = opAttnDecode then [true]
  else if op = opAttnBwd then [false, true]
  else if op = opAccRead ∨ op = opReduceX ∨ op = opUpdateP1 then [r.edge]
  else if (op = opVec ∨ op = opVecProg) ∧ (cmdProg r).deposits then [r.edge]
  else []

/-- A queued command waits for another record of its ring. -/
def waitAfter (g : Nat) (r : CmdRec) (i : Nat) (s : State) : State :=
  match r.queue? with
  | none => s
  | some q => s.modCore g fun c => c.setQueue q ((c.queue q).map fun k =>
      if k.ctx == r.ctx && k.idx == r.idx then { k with deps := k.deps ++ [i] } else k)

/-- The chain on an edge that a killed tile belongs to is freed, and runs again from its first command, one command after the
other whatever their queues (R203). -/
def killChain (g : Nat) (r : CmdRec) (s : State) (side : Bool) : State :=
  let e := (s.core g).edge side
  match chainOf e r with
  | none => s
  | some c =>
    let e1 := { e.freeAll c.slots with chains := e.chains.erase c }
    let again := c.cmds.filter fun k => k.idx != r.idx
    let s1 := (again.zip (none :: again.map fun k => some k.idx)).reverse.foldl (requeue g) (s.modCore g fun v => v.setEdge side e1)
    again.getLast?.elim s1 fun k => waitAfter g r k.idx s1

/-- The tile of a queue's front command is killed: every slot of its chain is FREE, and the chain runs again from its first
command once its context is back. A decode member takes its partial back. -/
def killTile (s : State) (g : Nat) (q : QueueId) (r : CmdRec) : State :=
  r.edges.foldl (killChain g r) (dropPartial (if q = .mq then dropFrontReads s g else s) g r)

/-- The kill is counted; a context with a killed tile at eight consecutive switches raises KILL_REPEAT. -/
def noteKill (s : State) (p x : Nat) : State :=
  let c := (s.part p).ctx x
  let n := if c.killed then c.killsInRow else c.killsInRow + 1
  let s1 := (s.modCtx p x fun c => { c with killed := true, killsInRow := n }).count (pnPart p) 1 1
  if 8 ≤ n ∧ c.killed = false then setEvent s1 (pnPart p) 2 else s1

/-- A kill is due: at the switch itself, where the sequencer finds that the tile has more than 20,000 ACLK cycles to run, which
the command reports; else 3,125 bt after it (R466; log 140). -/
def killDue (s : State) (p : Nat) : Bool :=
  (s.part p).switchAt.any fun t => s.bell.count == t || decide (t.toNat + 3125 ≤ s.bell.count.toNat)

/-- TILE_KILL (R466): a tile in flight at a switch has too long to run, or has not committed 3,125 bt after it. -/
def execTileKill (core : Nat) (queue : QueueId) (s : State) : Out :=
  .next (match (s.core core).incoming, partOfCore s core, ((s.core core).queue queue).head? with
    | some _, some p, some r =>
      if (s.core core).cur = some r.ctx ∧ killDue s p ∧ (s.core core).atBoundary.contains queue = false then
        let s1 := (killTile s core queue r).modCore core fun c => { c with atBoundary := queue :: c.atBoundary }
        noteKill (s1.count (pnCnt core) 5 1) p r.ctx
      else s
    | _, _, _ => s)

/-! ### Save and restore (R467) -/

/-- What a save holds of a context on a core, by key and length: 128 bytes for each HELD slot of an edge at 128 × its
position, then the edge state and the queue state. -/
def saveSpans (g : Nat) (c : Ctx) (v : SavedCtx) : List (Nat × Nat) :=
  let base := slabAddr g c.saveOffset
  v.bottom.slots.map (fun k => (base + 128 * k.1, 128)) ++ v.side.slots.map (fun k => (base + 0x400000 + 128 * k.1, 128)) ++
    [(base + 0x800000, 0x40000)]

/-- The GMAC of a save: under the key that the seal unit drew at the last reset, with a switch count as its nonce. -/
def saveMac (s : State) (nonce : Nat) (spans : List (Nat × Nat)) : BitVec 128 :=
  gmac (entropy s.sealU.saveKey 32) nonce (spans.flatMap fun e => viewBytes s e.1 e.2)

/-- The save area of a context on a core is written, with bytes whose content only the device knows (log 53), through the
slab's vertical port, and closed with its GMAC. -/
def writeSave (s : State) (g : Nat) (c : Ctx) (v : SavedCtx) : State × SavedCtx :=
  if c.saveOffset = 0 then (s, v)
  else
    let spans := saveSpans g c v
    let st := spans.foldl (fun (t : State) e =>
      (memStores { t with free := t.free + e.2 } true
        [(e.1, (List.range e.2).map fun k => Config.freeByte (t.free + k))]).1) s
    let nonce := (s.core g).switches
    (st, { v with check := some (saveMac st nonce spans, nonce) })

/-- Bytes that a save or restore moves: HELD slots, and an amount of queue state that no rule fixes (log 53). -/
def saveBytes (v : SavedCtx) : Nat := 128 * (v.bottom.slots.length + v.side.slots.length)

/-- The context that leaves a core: what it holds there, put aside; a context that is FREE holds nothing. -/
def saveOut (s : State) (p g : Nat) : State :=
  let c := s.core g
  match c.cur with
  | none => s
  | some x =>
    let k := (s.part p).ctx x
    if k.phase = .free then s
    else
      let w := writeSave s g k { bottom := c.bottom, side := c.side, aq := c.aq, vq := c.vq, mq := c.mq }
      (w.1.modCore g fun c => { c with saved := mset {} c.saved x w.2 }).count (pnPart p) 2 (saveBytes w.2)

/-- The check of a context's save area holds, as its bytes stand now. One that was written to no area has none. -/
def saveIntact (s : State) (p g : Nat) (y : Option Nat) : Bool :=
  y.all fun x =>
    let v := mget {} (s.core g).saved x
    v.check.all fun k =>
      let spans := saveSpans g ((s.part p).ctx x) v
      (spans.all fun e => (badUnit s e.1 e.2).isNone) && saveMac s k.2 spans == k.1

/-- The context that comes to a core takes up what it held there, read through the slab's vertical port. -/
def restoreIn (s : State) (p g : Nat) (y : Option Nat) : State :=
  let v := y.elim {} fun x => mget {} (s.core g).saved x
  let spans := if v.check.isSome then y.elim [] fun x => saveSpans g ((s.part p).ctx x) v else []
  ((readSpans s true spans).modCore g fun c =>
    { c with bottom := v.bottom, side := v.side, aq := v.aq, vq := v.vq, mq := v.mq, cur := y, incoming := none, atBoundary := [],
             saved := y.elim c.saved (merase c.saved), switches := c.switches + 1 }).count (pnPart p) 2 (saveBytes v)

/-- A save or restore also moves queue state, in an amount that no rule fixes. -/
def countFree (s : State) (pn k : Nat) : State :=
  let d := drawFree s
  d.2.count pn k d.1.toNat

/-- SAVE_RESTORE (R467): the outgoing context is saved on a core and the incoming one restored; a restore whose check
fails discards the incoming context. A report that differs from what the save area gives does not come. -/
def execSaveRestore (core : Nat) (checkOk : Bool) (s : State) : Out :=
  .next (match (s.core core).incoming, partOfCore s core with
    | some y, some p =>
      let s0 := saveOut (dropFrontReads s core) p core
      if checkOk ≠ saveIntact s0 p core y then s
      else
        let s1 := countFree (restoreIn s0 p core y) (pnPart p) 2
        let s2 :=
          if checkOk then s1
          else
            let t := setEvent (s1.count (pnPart p) 7 1) (pnPart p) 1
            match y with
            | some x => if ((t.part p).ctx x).phase = .free then discardCtx t p x else doDiscard t p x
            | none => t
        endSwitch s2 p
    | _, _ => s)

end Sys2Proof.Machine
end

