-- ==== Sys2Proof/Machine/Control.lean ====
section
/-! DEFINITION. Writes of registers: the rules that ignore a write, what each register's write does, the common layout, and
the write as an access of the control network and of the management port (R12–R15, R28–R32, R456, R457, R519–R547, R557,
R558, and the register tables of the chapters). -/

namespace Sys2Proof.Machine

/-! ### The common layout (R525–R535) -/

/-- A W1C write of EVT_STATUS; one that leaves every event clear empties the capture (R532). -/
def writeEvents (s : State) (pn value : Nat) : State :=
  s.modPage pn fun p =>
    let left := p.evtStatus &&& ~~~(BitVec.ofNat 32 value)
    { p with evtStatus := left, capture := if left = 0 then none else p.capture }

/-- EVT_FORCE sets events as real ones (R530). -/
def forceEvents (s : State) (pn ty value : Nat) : State :=
  ((List.range (eventCount ty)).filter value.testBit).foldl (fun (t : State) b => setEvent t pn b) s

/-- A write of EXPERT_KEY; `armed` is the initiator that armed the key before this access (R528). On a sealed partition's
pages it is ignored (R483). -/
def writeKey (s : State) (armed : Option Nat) (init pn value : Nat) : State :=
  if sealedPage s pn then s
  else if armed = some init ∧ value = 0x95 then s.modPage pn fun p => { p with expertEn := true }
  else if value = 0x6A then s.modPage pn fun p => { p with keyArmed := some init }
  else s

/-- A write of PAGE_MODE: 0 in EXPERT_EN locks the expert registers (R526). -/
def writeMode (s : State) (pn value : Nat) : State :=
  if value.testBit 0 then s else s.modPage pn fun p => { p with expertEn := false }

/-- A write of PAGE_SHADOW: DISCARD drops every pending value (R535). -/
def writeShadow (s : State) (pn ty value : Nat) : State :=
  if hasShadow ty && value.testBit 1 then s.modPage pn fun p => { p with shadow := [] } else s

/-- A word takes its value, and its /B fields go to the shadow (R12–R14). -/
def storeWord (s : State) (pn : Nat) (r : RegSpec) (value : Nat) : State :=
  let rw := BitVec.ofNat 32 r.rw
  let v := BitVec.ofNat 32 value
  let s1 := s.setReg pn r.off ((s.reg pn r.off &&& ~~~rw) ||| (v &&& rw))
  if r.latch = 0 then s1
  else s1.modPage pn fun p => { p with shadow := mput p.shadow r.off (v &&& BitVec.ofNat 32 r.latch) }

/-! ### Writes that a rule ignores -/

/-- A partition's resources as bits overlap another's (R457). -/
def bitsTaken (s : State) (p off value : Nat) : Bool :=
  (List.range 4).any fun q => q != p && decide (Nat.land value (s.regN (pnPart q) off) ≠ 0)

/-- A span overlaps the span of another partition. -/
def spanTaken (p : Nat) (base size : Nat) (of : Nat → Nat × Nat) : Bool :=
  (List.range 4).any fun q => q != p && decide (0 < size) && decide (0 < (of q).2) &&
    overlap base (base + size) (of q).1 ((of q).1 + (of q).2)

/-- The PART page (R392, R420, R457, R474): 0, or the reason for which the write is ignored. -/
def partGuard (s : State) (p off v : Nat) : Nat :=
  let reg (o : Nat) : Nat := if o = off then v % 2 ^ 16 else s.regN (pnPart p) o
  if 0x100 ≤ off ∧ off ≤ 0x11C then
    (if jobAdmitted s p then 6
     else if (off = 0x100 ∨ off = 0x104) ∧ bitsTaken s p off (v % 2 ^ 16) = true then 7
     else if (off = 0x108 ∨ off = 0x10C) ∧ spanTaken p (reg 0x108) (reg 0x10C)
         (fun q => (s.regN (pnPart q) 0x108, s.regN (pnPart q) 0x10C)) = true then 7
     else 0)
  else if off = 0x138 ∨ off = 0x13C then (if jobAdmitted s p then 6 else 0)
  else if 0x150 ≤ off ∧ off ≤ 0x158 then (if jobAdmitted s p then 6 else 0)
  else if off = 0x160 ∨ off = 0x164 then
    (if jobAdmitted s p ∨ (off = 0x160 ∧ isSealed s p = true) then 6
     else if healthyPcs s < reg 0x160 + reg 0x164 ∨ spanTaken p (reg 0x160) (reg 0x164)
         (fun q => (s.regN (pnPart q) 0x160, s.regN (pnPart q) 0x164)) = true then 7
     else 0)
  else 0

/-- The SEAL page (R494). -/
def sealGuard (s : State) (off : Nat) : Nat :=
  if 0x200 ≤ off ∧ off < 0x400 then
    let p := (off - 0x200) / 0x80
    let o := off % 0x80
    (if o = 0x10 then 0 else if o < 8 then (if jobAdmitted s p then 6 else 0) else if isSealed s p then 6 else 0)
  else 0

/-- Ring words that may not change while the ring is enabled (R368, R540). -/
def ringGuard (s : State) (pn base off v : Nat) : Nat :=
  let old := s.regN pn off
  let keep := if off % 0x20 = 4 then 0x1FFFFF else if off % 0x20 = 0x14 then 0xFFFF else 0xFFFFFFFF
  if (s.regN pn (base + 4)).testBit 31 ∧ Nat.land old keep ≠ Nat.land v keep then 6 else 0

/-- `SEQ.GATHER` (R106): GATHER_EN changes only while no job of the partition runs, and on at most eight cores of a die. -/
def gatherGuard (s : State) (g v : Nat) : Nat :=
  let on (k : Nat) : Bool := (s.regN (pnSeq k) 0x100).testBit 0
  if on g == v.testBit 0 then 0
  else if (partOfCore s g).elim false (jobAdmitted s) then 6
  else if v.testBit 0 ∧ 8 ≤ ((List.range' (40 * (g / 40)) 40).filter on).length then 6
  else 0

/-- Every rule of a page that ignores a write of a word (R106, R270, R342, R337, R455, R538, R545). -/
def writeGuard (s : State) (init pn : Nat) (i : PageId) (off v : Nat) : Nat :=
  if i.ty = ptPart then partGuard s i.inst off v
  else if i.ty = ptSeal then sealGuard s off
  else if i.ty = ptBell then (if off = 0x010 ∧ anyJobAdmitted s = true then 6 else 0)
  else if i.ty = ptSched then (if (off = 0x110 ∨ off = 0x114) ∧ (trainingPart s).isSome = true then 6 else 0)
  else if i.ty = ptMgmt then (if init = 0 then 6 else 0)
  else if i.ty = ptCrier ∨ (i.ty = ptAlmanac ∧ 0x200 ≤ off) then ringGuard s pn (off - off % 0x20) off v
  else if i.ty = ptLinkCtx then
    (if off = 0x100 ∨ off = 0x104 then (if s.links.peers.any fun e => e.2.phase == .ready then 6 else 0)
     else if 0x200 ≤ off then (if (s.reqRing ((off - 0x200) / 0x10)).inFlight.isEmpty then 0 else 6)
     else 0)
  else if i.ty = ptDieCtl then
    let c := dcOf s i.die i.inst
    let p := (off - 0x100) / 0x20
    (if mget 0 c.freeHead p = mget 0 c.freeTail p then 0 else 6)
  else match i.core with
  | none => 0
  | some g =>
    if i.ty ≠ ptSeq then 0
    else if off = 0x100 then gatherGuard s g v
    else if 0x200 ≤ off then
      (if (partOfCore s g).elim false fun p => ((s.part p).ctx ((off - 0x200) / 0x20)).phase != .free then 6 else 0)
    else 0

/-! ### Registers whose write does something -/

/-- `BELL.CTL.EN` rises: the next lock is the first; it falls: the unit runs free again, as after a reset (R343, R345;
log 69). -/
def bellEnable (s : State) (was : Bool) : State :=
  let is := bellEn s
  if was == is then s
  else if is then { s with bell := { s.bell with everLocked := false } }
  else
    let s1 := enterSelfTimed s
    { s1 with bell := { s1.bell with locked := false, holdover := false } }

/-- A trap ring that is enabled has a valid place, or stays off (R540, R561). -/
def crierEnable (s : State) (init off v : Nat) (was : Bool) : State :=
  let k := (off - 0x200) / 0x20
  let n := 64 * 2 ^ trapRingLog2 s k
  if was || !v.testBit 31 || hubArea (s.regAddr pnCrier (off - 4)) n n then s
  else ignoreWrite (s.setReg pnCrier off (s.reg pnCrier off &&& 0x7FFFFFFF#32)) 7 init (pnCrier * 0x1000 + off) v

/-- What follows when a word has taken its value. -/
def afterWrite (old s : State) (init pn : Nat) (i : PageId) (off v : Nat) : State :=
  if i.ty = ptBell ∧ off = 0x010 then checkBellSource (bellEnable s (bellEn old))
  else if i.ty = ptAlmanac ∧ 0x200 ≤ off ∧ off % 0x20 = 4 then settleRing s i.die ((off - 0x200) / 0x20)
  else if i.ty = ptCrier ∧ off % 0x20 = 4 then crierEnable s init off v ((old.regN pn off).testBit 31)
  else if i.ty = ptPart ∧ off = 0x168 ∧ v.testBit 9 = true then s.modPart i.inst fun p => { p with titheRejected := false }
  else s

/-- A switch-off request of PWR: bits whose domain may not go off are ignored and recorded; those that rise go off, those
that fall come on, if what they depend on is on (R43, R500). -/
def writeOff (s : State) (init off v n : Nat) (may : Nat → Bool) (dom : Nat → Nat) (drop : State → Nat → State) : State :=
  let old := s.regN pnPwr off
  let bad := (List.range n).any fun k => v.testBit k && !old.testBit k && !may k
  let new := ((List.range n).filter fun k => v.testBit k && (old.testBit k || may k))
  let s1 := s.setReg pnPwr off (BitVec.ofNat 32 ((new.map fun k => 2 ^ k).sum))
  let s2 := (new.filter fun k => !old.testBit k).foldl (fun (t : State) k =>
    drop { t with power := { t.power with
      domains := t.power.domains &&& ~~~(BitVec.ofNat 47 (2 ^ dom k)), ramping := t.power.ramping.erase (dom k) } } k) s1
  let back := ((List.range n).filter fun k => old.testBit k && !v.testBit k).map dom
  let s3 : State := { s2 with power := { s2.power with ramping := s2.power.ramping ++ back.filter (supplied s2) } }
  if bad then ignoreWrite s3 6 init (pnPwr * 0x1000 + off) v else s3

def writeQoff (s : State) (init v : Nat) : State :=
  writeOff s init 0x108 v 16 (fun q => (partOfQuad s q).isNone) domQ dropQuad
def writeLpoff (s : State) (init v : Nat) : State :=
  writeOff s init 0x10C v 12 (fun n => Nat.land (s.regN (pnLink n) 0x010) 3 == 0) domLp dropPort

/-- 100 ms in bell ticks. -/
def burnTicks : Nat := 15625000

/-- OPKEY_BURN (R537): accepted from the management port, with the key, once, and with no partition sealed. -/
def burnKey (s : State) (init v : Nat) : State :=
  if init = 0 ∧ v.testBit 0 = true ∧ bits v 31 16 = 0x0F5E ∧ s.fuses.opKey.isNone = true ∧ anySealed s = false then
    let key := ((List.range 16).map fun k => s.regN pnFuse (0x800 + 4 * k) * 2 ^ (32 * k)).sum
    { s with fuses := { s.fuses with opKey := some (BitVec.ofNat 512 key) }, boot := { s.boot with burnLeft := burnTicks } }
  else ignoreWrite s 6 init (pnFuse * 0x1000 + 0x840) v

/-- `SEAL.CMD` (R494). -/
def writeSealCmd (s : State) (init v : Nat) : State :=
  let p := bits v 1 0
  let a := bits v 7 4
  if a = 1 then doSeal s p else if a = 2 then doUnseal s p else if a = 3 then doLoad s p else if a = 4 then doAttest s p
  else ignoreWrite s 7 init sealCmdAddr v

/-- `PART.JOB_CMD` (R474). -/
def writeJobCmd (s : State) (init p v : Nat) : State :=
  let a := bits v 3 0
  if a = 1 then jobAdmit s init p v else if a = 2 then jobEnd s init p (bits v 11 4) v
  else if a = 3 then jobBoundary s init p v else ignoreWrite s 7 init (jobCmdAddr p) v

/-- `PART.CTX_CMD` (R474). -/
def writeCtxCmd (s : State) (init p v : Nat) : State :=
  let x := bits v 2 0
  let a := bits v 6 4
  let act (f : State → State) : State := ctxAction s init p x v f
  if a = 1 then act fun t => doSuspend t p x else if a = 2 then act fun t => doResume t p x
  else if a = 3 then act fun t => doDiscard t p x else ignoreWrite s 7 init (ctxCmdAddr p) v

/-- `LINKCTX.CMD` (R455). -/
def writeLinkCmd (s : State) (init v : Nat) : State :=
  let c := bits v 11 0
  if bits v 13 12 = 1 then openCtx s c else if bits v 13 12 = 2 then endContext s c .closed
  else ignoreWrite s 7 init linkCmdAddr v

/-- `CRIER.HEADk` (R540): a value that would pass TAIL is ignored. -/
def writeTrapHead (s : State) (init k v : Nat) : State :=
  let r := s.crierRing k
  let h : BitVec 17 := BitVec.ofNat 17 v
  if (r.tail - r.head).toNat < (h - r.head).toNat then ignoreWrite s 7 init (pnCrier * 0x1000 + 0x208 + k * 0x20) v
  else s.setCrierRing k { r with head := h }

/-- `DIECTL.FREE_TAILp` (R270). -/
def writeFreeTail (s : State) (init d k p v : Nat) : State :=
  let c := dcOf s d k
  let t : BitVec 18 := BitVec.ofNat 18 v
  let n := bits (s.regN (pnDieCtl d k) (0x104 + p * 0x20)) 20 16
  if 2 ^ (if 4 ≤ n ∧ n ≤ 17 then n else 4) < (t - mget 0 c.freeHead p).toNat then
    ignoreWrite s 7 init (pnDieCtl d k * 0x1000 + 0x10C + p * 0x20) v
  else
    let set (c : DieController) : DieController := { c with freeTail := mset 0 c.freeTail p t }
    s.modDie d fun w => if k = 0 then { w with dc0 := set w.dc0 } else { w with dc1 := set w.dc1 }

/-- A half of `SCHED.EPOCH` (R337). -/
def writeEpoch (s : State) (init off v : Nat) : State :=
  if (trainingPart s).isSome then ignoreWrite s 6 init (pnSched * 0x1000 + off) v
  else
    let e := s.sched.epoch.toNat
    let e' := if off = 0x120 then e / 2 ^ 32 * 2 ^ 32 + v % 2 ^ 32 else v % 2 ^ 32 * 2 ^ 32 + e % 2 ^ 32
    { s with sched := { s.sched with epoch := BitVec.ofNat 64 e' } }

/-- Registers of the hub whose write does something: the state after it. -/
def hubWrite? (s : State) (init : Nat) (i : PageId) (off v : Nat) : Option State :=
  if i.ty = ptBoot then
    (if off = 0x100 then some (writeReset s init v) else if off = 0x104 then some (writeBootOk s v) else none)
  else if i.ty = ptFuse then (if off = 0x840 then some (burnKey s init v) else none)
  else if i.ty = ptSeal then (if off = 0x100 then some (writeSealCmd s init v) else none)
  else if i.ty = ptSched then
    (if off = 0x120 ∨ off = 0x124 then some (writeEpoch s init off v)
     else if off = 0x014 then
       some { s with sched := { s.sched with recRejected := s.sched.recRejected &&& ~~~(BitVec.ofNat 8 v) } }
     else none)
  else if i.ty = ptPwr then
    (if off = 0x100 then some (s.setReg pnPwr 0x100 (BitVec.ofNat 32 (clampCap (bits v 9 0))))
     else if off = 0x108 then some (writeQoff s init v) else if off = 0x10C then some (writeLpoff s init v) else none)
  else if i.ty = ptPart then
    (if off = 0x128 then some (writeJobCmd s init i.inst v) else if off = 0x130 then some (writeCtxCmd s init i.inst v) else none)
  else if i.ty = ptCrier then
    (if 0x200 ≤ off ∧ off < 0x2A0 ∧ off % 0x20 = 0x08 then some (writeTrapHead s init ((off - 0x200) / 0x20) v) else none)
  else if i.ty = ptLink then (if off = 0x010 then some (writeLinkCtl s init i.inst v none none) else none)
  else if i.ty = ptLinkCtx then
    (if off = 0x108 then some (writeLinkCmd s init v)
     else if 0x200 ≤ off ∧ off < 0x240 ∧ off % 0x10 = 0x0C then some (reqTail s init ((off - 0x200) / 0x10) v) else none)
  else none

/-- Registers of the die and core pages whose write does something. -/
def dieWrite? (s : State) (init : Nat) (i : PageId) (off v : Nat) : Option State :=
  if i.ty = ptAlmanac ∧ 0x200 ≤ off ∧ off < 0x600 ∧ off % 0x20 = 0x0C then some (almTail s init i.die ((off - 0x200) / 0x20) v)
  else if i.ty = ptDieCtl ∧ 0x100 ≤ off ∧ off < 0x180 ∧ off % 0x20 = 0x0C then
    some (writeFreeTail s init i.die i.inst ((off - 0x100) / 0x20) v)
  else match i.core with
  | none => none
  | some g =>
    if i.ty = ptSeq ∧ 0x200 ≤ off ∧ off < 0x300 ∧ off % 0x20 = 0x0C then some (ringTail s init g ((off - 0x200) / 0x20) v)
    else if i.ty = ptRot ∧ off = 0x014 then
      some (if v.testBit 1 then s.modCore g fun c => { c with rotRejected := false } else s)
    else none

/-! ### A write at a page -/

/-- The words of the common layout. -/
def commonWrite? (s : State) (armed : Option Nat) (init pn ty off v : Nat) : Option State :=
  if off = 0x008 then some (writeKey s armed init pn v)
  else if off = 0x00C then some (writeMode s pn v)
  else if off = 0x020 then some (writeEvents s pn v)
  else if off = 0x024 then some (s.modPage pn fun p => { p with evtEnable := BitVec.ofNat 32 v &&& eventMask ty })
  else if off = 0x028 then some (forceEvents s pn ty v)
  else if off = 0xF00 then some (writeShadow s pn ty v)
  else if off < 0x008 ∨ (0x040 ≤ off ∧ off < 0x080) then some s
  else none

/-- A page-specific word: what its write does, a value taken unless a rule ignores it, a read-only word left alone, or a
reserved offset, recorded (R525). In the SEAL block of a sealed partition a read-only word's write is recorded too (R494). -/
def pageWrite (s : State) (init pn : Nat) (i : PageId) (off v : Nat) : State :=
  match (hubWrite? s init i off v).or (dieWrite? s init i off v) with
  | some t => t
  | none =>
    match regSpec? i.ty off with
    | some r =>
      let reason := writeGuard s init pn i off v
      if reason = 0 then afterWrite s (storeWord s pn r v) init pn i off v
      else ignoreWrite s reason init (pn * 0x1000 + off) v
    | none =>
      if (roWord? s i off).isSome || (wideBase? i.ty off).isSome then
        (if i.ty = ptSeal ∧ sealGuard s off ≠ 0 then ignoreWrite s 6 init (pn * 0x1000 + off) v else s)
      else ignoreWrite s 3 init (pn * 0x1000 + off) v

/-- A write at a page. A locked expert register ignores it and records it (R529). -/
def writeAt (s : State) (armed : Option Nat) (init pn off v : Nat) : State :=
  match page? pn with
  | none => s
  | some i =>
    match commonWrite? s armed init pn i.ty off v with
    | some t => t
    | none =>
      if 0x800 ≤ off ∧ off < 0xF00 ∧ (s.page pn).expertEn = false then ignoreWrite s 4 init (pn * 0x1000 + off) v
      else pageWrite s init pn i off v

/-! ### The write as an access (R12, R28–R31) -/

/-- A write arrives at its page. -/
def writeNow (s : State) (init bytes addr v : Nat) : State :=
  let pn := addr / 0x1000
  arrive s init bytes addr true v fun t => writeAt t (s.page pn).keyArmed init pn (addr % 0x1000) v

/-- A write by a host core is held where it must be. -/
def regWrite (s : State) (init bytes addr v : Nat) (behind : Bool) : State :=
  if mustHold s init behind then holdAccess s init bytes addr v true else writeNow s init bytes addr v

/-- REGISTER_WRITE (R12). -/
def execRegisterWrite (init bytes : Nat) (address value : Word) (behind : Bool) (s : State) : Out :=
  .next (regWrite s init bytes address.toNat value.toNat behind)

/-- The address of a word of the page at an address. -/
def pageWordAddr (page off : Nat) : Nat := page - page % 0x1000 + off

/-- EXPERT_KEY (R528). -/
def execExpertKey (init : Sender) (page value : Word) (s : State) : Out :=
  .next (regWrite s init.id 4 (pageWordAddr page.toNat 0x008) value.toNat init.behind)
/-- EXPERT_LOCK (R526). -/
def execExpertLock (init : Sender) (page value : Word) (s : State) : Out :=
  .next (regWrite s init.id 4 (pageWordAddr page.toNat 0x00C) value.toNat init.behind)
/-- EVT_STATUS_WRITE (R532). -/
def execEvtStatusWrite (init : Sender) (page value : Word) (s : State) : Out :=
  .next (regWrite s init.id 4 (pageWordAddr page.toNat 0x020) value.toNat init.behind)
/-- EVT_FORCE (R530). -/
def execEvtForce (init : Sender) (page value : Word) (s : State) : Out :=
  .next (regWrite s init.id 4 (pageWordAddr page.toNat 0x028) value.toNat init.behind)
/-- SHADOW_DISCARD (R535). -/
def execShadowDiscard (init : Sender) (page value : Word) (s : State) : Out :=
  .next (regWrite s init.id 4 (pageWordAddr page.toNat 0xF00) value.toNat init.behind)
/-- OPKEY_BURN (R537). -/
def execOpkeyBurn (init : Sender) (value : Word) (s : State) : Out :=
  .next (regWrite s init.id 4 (pnFuse * 0x1000 + 0x840) value.toNat init.behind)

/-! ### Held accesses released (R31) -/

/-- A held access is served. -/
def serveHeld (h : Nat) (s : State) (a : HeldAccess) : State :=
  if a.write then writeNow s (h + 1) a.bytes a.address.toNat a.value.toNat
  else if domOn s domCtl then answerRead s (h + 1) a.bytes a.address.toNat
  else s

/-- HELD_WRITE_RELEASE (R31): the oldest held write goes to its page, and the reads that follow it are served. -/
def execHeldWriteRelease (host : Nat) (s : State) : Out :=
  .next (match (s.host host).held with
    | [] => s
    | a :: rest =>
      let reads := rest.takeWhile fun b => !b.write
      (a :: reads).foldl (serveHeld host) (s.setHost host { held := rest.drop reads.length }))

/-! ### The management port (R557, R558) -/

/-- What a frame's entries have led to. -/
structure FrameRun where
  s       : State
  entries : List AccessEntry := []
  marks   : List Bool := []

/-- One access entry, performed as initiator 0. -/
def runEntry (f : FrameRun) (e : AccessEntry) : FrameRun :=
  let s1 := f.s.count pnMgmt 3 1
  let a := e.address.toNat
  if e.write then
    { s := writeNow s1 0 4 a e.data.toNat, entries := f.entries ++ [e],
      marks := f.marks ++ [(accessReason s1 0 4 a true).isSome] }
  else
    let r := serveRead s1 0 4 a
    { s := r.1, entries := f.entries ++ [{ e with data := BitVec.ofNat 32 (r.2.getD 0) }], marks := f.marks ++ [r.2.isNone] }

/-- A frame is well formed (R557). -/
def frameGood (f : MgmtFrame) : Bool :=
  f.lengthOk && f.reservedOk && decide (1 ≤ f.entries.length) && decide (f.entries.length ≤ 64)

/-- REGISTER_ACCESS_FRAME (R557). -/
def execRegisterAccessFrame (f : MgmtFrame) (s : State) : Out :=
  .next (
    if !domOn s domCtl then s
    else
      let s1 := mgmtFrame s
      if !mgmtOn s || s.boot.minimal || !f.fcsOk || f.etherType != 0x88B7 || f.dest != s.fuses.mgmtMac then s1.count pnMgmt 2 1
      else
        let r : FrameRun := if frameGood f then f.entries.foldl runEntry { s := s1 } else { s := s1, entries := f.entries }
        (r.s.count pnMgmt 1 1).emit (.mgmtAnswer f.source f.seq (!frameGood f) r.entries r.marks))

end Sys2Proof.Machine
end

