-- ==== Sys2Proof/Machine/Smbus.lean ====
section
/-! DEFINITION. The SMBus interface (R554–R556). -/

namespace Sys2Proof.Machine

/-! ### Transactions (R555) -/

/-- A transaction whose packet error code fails is NACKed without effect; nothing is answered before CTL is on. -/
def smbus (s : State) (pecOk : Bool) (act : State → State) : State :=
  if !domOn s domCtl then s else if pecOk then act s else s.emit .smbusNack

/-- The device's own address (R555). -/
def smbusAddress (s : State) : Nat := 0x58 + s.power.strap.toNat

/-- Eight shifts of the packet error code, the CRC-8 of SMBus. -/
def pecShift : Nat → Nat → Nat
  | 0, c => c
  | n + 1, c => pecShift n (if 128 ≤ c then Nat.xor (2 * c % 256) 7 else 2 * c)

/-- The packet error code of a transaction's bytes. -/
def pec (bs : List Byte) : Byte := BitVec.ofNat 8 (bs.foldl (fun c b => pecShift 8 (Nat.xor c b.toNat)) 0)

/-- What a block read of a command returns: the byte count, the data, and the packet error code over the address, the command,
the address for reading and these (R555, R556). -/
def smbusBlock (s : State) (code : Nat) (data : List Byte) : List Byte :=
  let body := BitVec.ofNat 8 data.length :: data
  let head : List Byte := [BitVec.ofNat 8 (2 * smbusAddress s), BitVec.ofNat 8 code, BitVec.ofNat 8 (2 * smbusAddress s + 1)]
  body ++ [pec (head ++ body)]

/-- A block read. -/
def smbusBlockRead (s : State) (pecOk : Bool) (code : Nat) (data : State → List Byte) : State :=
  smbus s pecOk fun t => t.emit (.smbusData (smbusBlock t code (data t)))

/-- A read of a byte or a word. -/
def smbusRead (s : State) (pecOk : Bool) (data : State → List Byte) : State :=
  smbus s pecOk fun t => t.emit (.smbusData (data t))

/-! ### Reads (R556) -/

/-- DEVICE_ID (R556). -/
def execDeviceId (pecOk : Bool) (s : State) : Out := .next (smbusBlockRead s pecOk 0 fun t => leBytes 8 (shownId t).toNat)
/-- STATE (R556). -/
def execState (pecOk : Bool) (s : State) : Out :=
  .next (smbusBlockRead s pecOk 1 fun t => leBytes 4 (bootStatus t) ++ leBytes 4 (pwrStatus t))
/-- SUPPLY (R556). -/
def execSupply (pecOk : Bool) (s : State) : Out := .next (smbusBlockRead s pecOk 2 fun t => leBytes 4 (inputW t))
/-- TEMPS (R556): 16 quadrants, 4 sensors of the hub die, 4 reserved bytes. -/
def execTemps (pecOk : Bool) (s : State) : Out :=
  .next (smbusBlockRead s pecOk 3 fun t => (List.range 20).map (mget 0 t.power.temps) ++ List.replicate 4 0)
/-- ALERT_CAUSE (R556). -/
def execAlertCause (pecOk : Bool) (s : State) : Out := .next (smbusRead s pecOk fun t => [t.power.alert])
/-- CLOCKS (R556). -/
def execClocks (pecOk : Bool) (s : State) : Out := .next (smbusBlockRead s pecOk 6 fun t => leBytes 4 (qclk t))
/-- FAIL (R556). -/
def execFail (pecOk : Bool) (s : State) : Out := .next (smbusBlockRead s pecOk 7 lastFailure)

/-! ### Writes (R554, R556) -/

/-- The causes of the alert word that still hold (R554). An unlock of the bell is an event and holds no longer. -/
def causeHolds (s : State) (b : Nat) : Bool :=
  if b = 0 then throttleIsLong s
  else if b = 1 then s.power.capUnmet
  else if b = 2 then s.power.shutdown
  else if b = 3 then thermalCeiling s
  else if b = 4 then s.power.supplyWarn
  else if b = 5 then s.boot.minimal
  else false

/-- The bits that an ALERT_CLEAR clears. -/
def clearable (s : State) (mask : Byte) : Byte :=
  BitVec.ofNat 8 (((List.range 8).filter fun b => mask.getLsbD b && !causeHolds s b).map fun b => 2 ^ b).sum

/-- ALERT_CLEAR (R554). -/
def execAlertClear (mask : Byte) (pecOk : Bool) (s : State) : Out :=
  .next (smbus s pecOk fun t =>
    ({ t with power := { t.power with alert := t.power.alert &&& ~~~(clearable t mask) } } : State).emit .smbusAck)

/-- CAP (R556): a read, or a write of the cap, clamped (R520). -/
def execCap (value : Option (BitVec 16)) (pecOk : Bool) (s : State) : Out :=
  .next (match value with
    | none => smbusRead s pecOk fun t => leBytes 2 (capWatts t)
    | some v => smbus s pecOk fun t => (t.setReg pnPwr 0x100 (BitVec.ofNat 32 (clampCap v.toNat))).emit .smbusAck)

/-! ### The bus (R555) -/

/-- ALERT_RESPONSE (R555): answered while ALERT_N is asserted, with the address in bits 7 to 1; bit 0 is free (log 130). -/
def execAlertResponse (s : State) : Out :=
  .next (
    if domOn s domCtl && s.power.alert != 0 then
      let d := drawFree s
      d.2.emit (.smbusData [BitVec.ofNat 8 (2 * smbusAddress s + d.1.toNat % 2)])
    else s)

/-- SMBUS_TIMEOUT (R555): the lines are released, and the transaction is abandoned. -/
def execSmbusTimeout (s : State) : Out := .next (if domOn s domCtl then s.emit .smbusRelease else s)

end Sys2Proof.Machine
end

