-- ==== Sys2Proof/Machine/Dispatch.lean ====
section
/-! DEFINITION. The dispatch: one arm per command, each one direct call of its meaning. -/

namespace Sys2Proof.Machine

/-- The effect of a command on everything but the queue. -/
def exec (i : Instr) (s : State) : Host.Outcome State Fault Refusal :=
  match i with
  | .doorbell init core ctx value behind => Sys2Proof.Machine.execDoorbell init core ctx value behind s
  | .heldWriteRelease host => Sys2Proof.Machine.execHeldWriteRelease host s
  | .recordFetch core ctx => Sys2Proof.Machine.execRecordFetch core ctx s
  | .nop core ctx => Sys2Proof.Machine.execNop core ctx s
  | .matmul core => Sys2Proof.Machine.execMatmul core s
  | .gatherHoldExpiry core => Sys2Proof.Machine.execGatherHoldExpiry core s
  | .matmulT core => Sys2Proof.Machine.execMatmulT core s
  | .accRead core => Sys2Proof.Machine.execAccRead core s
  | .reduceX core => Sys2Proof.Machine.execReduceX core s
  | .attnFwd core => Sys2Proof.Machine.execAttnFwd core s
  | .attnBwd core => Sys2Proof.Machine.execAttnBwd core s
  | .attnDecode core => Sys2Proof.Machine.execAttnDecode core s
  | .couch core => Sys2Proof.Machine.execCouch core s
  | .conv core => Sys2Proof.Machine.execConv core s
  | .vec core => Sys2Proof.Machine.execVec core s
  | .vecProg core => Sys2Proof.Machine.execVecProg core s
  | .updateP1 core => Sys2Proof.Machine.execUpdateP1 core s
  | .updateP2 core => Sys2Proof.Machine.execUpdateP2 core s
  | .move core => Sys2Proof.Machine.execMove core s
  | .gather core => Sys2Proof.Machine.execGather core s
  | .scatter core => Sys2Proof.Machine.execScatter core s
  | .signal core ctx => Sys2Proof.Machine.execSignal core ctx s
  | .wait core ctx => Sys2Proof.Machine.execWait core ctx s
  | .waitTimeout core ctx => Sys2Proof.Machine.execWaitTimeout core ctx s
  | .fence core ctx => Sys2Proof.Machine.execFence core ctx s
  | .boundary core ctx => Sys2Proof.Machine.execBoundary core ctx s
  | .partitionBoundary part => Sys2Proof.Machine.execPartitionBoundary part s
  | .tileResident core => Sys2Proof.Machine.execTileResident core s
  | .writebackAck core queue => Sys2Proof.Machine.execWritebackAck core queue s
  | .trapRecord => Sys2Proof.Machine.execTrapRecord s
  | .almanacTailWrite init die ring value => Sys2Proof.Machine.execAlmanacTailWrite init die ring value s
  | .prefetch die ring => Sys2Proof.Machine.execPrefetch die ring s
  | .send die ring => Sys2Proof.Machine.execSend die ring s
  | .recvExpect die ring => Sys2Proof.Machine.execRecvExpect die ring s
  | .boundaryArm die ring => Sys2Proof.Machine.execBoundaryArm die ring s
  | .stepBoundary => Sys2Proof.Machine.execStepBoundary s
  | .toll die ring => Sys2Proof.Machine.execToll die ring s
  | .tollLevelDeadline level => Sys2Proof.Machine.execTollLevelDeadline level s
  | .evalWindow die ring => Sys2Proof.Machine.execEvalWindow die ring s
  | .evalWindowClose die ring => Sys2Proof.Machine.execEvalWindowClose die ring s
  | .retrainWindow die ring => Sys2Proof.Machine.execRetrainWindow die ring s
  | .retrainWindowClose die ring => Sys2Proof.Machine.execRetrainWindowClose die ring s
  | .checkpoint die ring => Sys2Proof.Machine.execCheckpoint die ring s
  | .wake die ring => Sys2Proof.Machine.execWake die ring s
  | .entryComplete die ring pos ok => Sys2Proof.Machine.execEntryComplete die ring pos ok s
  | .deadlineMiss die ring pos => Sys2Proof.Machine.execDeadlineMiss die ring pos s
  | .waitLimitExpiry die ring pos => Sys2Proof.Machine.execWaitLimitExpiry die ring pos s
  | .bellTick => Sys2Proof.Machine.execBellTick s
  | .epochMark arrived => Sys2Proof.Machine.execEpochMark arrived s
  | .measurementWindow ppm => Sys2Proof.Machine.execMeasurementWindow ppm s
  | .bellUnlock cause ppm => Sys2Proof.Machine.execBellUnlock cause ppm s
  | .glitch => Sys2Proof.Machine.execGlitch s
  | .write m => Sys2Proof.Machine.execWrite m s
  | .read m => Sys2Proof.Machine.execRead m s
  | .readResp m => Sys2Proof.Machine.execReadResp m s
  | .atomic m => Sys2Proof.Machine.execAtomic m s
  | .atomicResp m => Sys2Proof.Machine.execAtomicResp m s
  | .tileRts m => Sys2Proof.Machine.execTileRts m s
  | .tileData m => Sys2Proof.Machine.execTileData m s
  | .collective m => Sys2Proof.Machine.execCollective m s
  | .vote m => Sys2Proof.Machine.execVote m s
  | .result m => Sys2Proof.Machine.execResult m s
  | .openMsg m => Sys2Proof.Machine.execOpenMsg m s
  | .msgAck ctx mseq => Sys2Proof.Machine.execMsgAck ctx mseq s
  | .msgNak ctx mseq kind => Sys2Proof.Machine.execMsgNak ctx mseq kind s
  | .bell port count locked => Sys2Proof.Machine.execBell port count locked s
  | .negotiate port low high => Sys2Proof.Machine.execNegotiate port low high s
  | .linkCtl port lack lnak => Sys2Proof.Machine.execLinkCtl port lack lnak s
  | .idle port lack lnak crVc crPart crCount => Sys2Proof.Machine.execIdle port lack lnak crVc crPart crCount s
  | .linkReplay port => Sys2Proof.Machine.execLinkReplay port s
  | .fecUncorrectable port => Sys2Proof.Machine.execFecUncorrectable port s
  | .frame f => Sys2Proof.Machine.execFrame f s
  | .priorityPause port priority => Sys2Proof.Machine.execPriorityPause port priority s
  | .priorityPauseExpiry port priority => Sys2Proof.Machine.execPriorityPauseExpiry port priority s
  | .retransmit ctx mseq => Sys2Proof.Machine.execRetransmit ctx mseq s
  | .contextTimeout ctx => Sys2Proof.Machine.execContextTimeout ctx s
  | .linkRetrain port => Sys2Proof.Machine.execLinkRetrain port s
  | .linkRetrainDone port ok => Sys2Proof.Machine.execLinkRetrainDone port ok s
  | .portTraining init port value report => Sys2Proof.Machine.execPortTraining init port value report s
  | .ctxOpen init ctx => Sys2Proof.Machine.execCtxOpen init ctx s
  | .ctxClose init ctx => Sys2Proof.Machine.execCtxClose init ctx s
  | .linkReqTailWrite init part value => Sys2Proof.Machine.execLinkReqTailWrite init part value s
  | .linkReqWrite part => Sys2Proof.Machine.execLinkReqWrite part s
  | .linkReqRead part => Sys2Proof.Machine.execLinkReqRead part s
  | .linkReqAtomic part => Sys2Proof.Machine.execLinkReqAtomic part s
  | .reduceScatter part => Sys2Proof.Machine.execReduceScatter part s
  | .allGather part => Sys2Proof.Machine.execAllGather part s
  | .allReduce part => Sys2Proof.Machine.execAllReduce part s
  | .linkReqComplete part pos => Sys2Proof.Machine.execLinkReqComplete part pos s
  | .d2dReplay port ok => Sys2Proof.Machine.execD2dReplay port ok s
  | .hbmRetrainTrigger die ctl channel => Sys2Proof.Machine.execHbmRetrainTrigger die ctl channel s
  | .hbmRetrainEnd die ctl inTime pins0 pins1 => Sys2Proof.Machine.execHbmRetrainEnd die ctl inTime pins0 pins1 s
  | .retrainDue die ctl channel => Sys2Proof.Machine.execRetrainDue die ctl channel s
  | .admitJob init part => Sys2Proof.Machine.execAdmitJob init part s
  | .admitDigestDone part allMatch => Sys2Proof.Machine.execAdmitDigestDone part allMatch s
  | .admitTimeout part => Sys2Proof.Machine.execAdmitTimeout part s
  | .endJob init part ctxMask => Sys2Proof.Machine.execEndJob init part ctxMask s
  | .jobCmdBoundary init part => Sys2Proof.Machine.execJobCmdBoundary init part s
  | .suspend init part ctx => Sys2Proof.Machine.execSuspend init part ctx s
  | .resume init part ctx => Sys2Proof.Machine.execResume init part ctx s
  | .discard init part ctx => Sys2Proof.Machine.execDiscard init part ctx s
  | .sliceStart part => Sys2Proof.Machine.execSliceStart part s
  | .tileKill core queue => Sys2Proof.Machine.execTileKill core queue s
  | .saveRestore core checkOk => Sys2Proof.Machine.execSaveRestore core checkOk s
  | .drainCut ctx => Sys2Proof.Machine.execDrainCut ctx s
  | .seal init part => Sys2Proof.Machine.execSeal init part s
  | .unseal init part => Sys2Proof.Machine.execUnseal init part s
  | .load init part => Sys2Proof.Machine.execLoad init part s
  | .attest init part => Sys2Proof.Machine.execAttest init part s
  | .pwrEnAssert centivolts => Sys2Proof.Machine.execPwrEnAssert centivolts s
  | .pwrEnDeassert => Sys2Proof.Machine.execPwrEnDeassert s
  | .undervoltage => Sys2Proof.Machine.execUndervoltage s
  | .overvoltage => Sys2Proof.Machine.execOvervoltage s
  | .domainRegulation => Sys2Proof.Machine.execDomainRegulation s
  | .modRstNAssert => Sys2Proof.Machine.execModRstNAssert s
  | .modRstNRelease => Sys2Proof.Machine.execModRstNRelease s
  | .throttleNAssert fast => Sys2Proof.Machine.execThrottleNAssert fast s
  | .throttleNDeassert fast quiet => Sys2Proof.Machine.execThrottleNDeassert fast quiet s
  | .throttleLong => Sys2Proof.Machine.execThrottleLong s
  | .droopSag die quad => Sys2Proof.Machine.execDroopSag die quad s
  | .droopDeep die quad => Sys2Proof.Machine.execDroopDeep die quad s
  | .droopRecover die quad => Sys2Proof.Machine.execDroopRecover die quad s
  | .droopHoldEnd die quad => Sys2Proof.Machine.execDroopHoldEnd die quad s
  | .capPeriod watts centivolts quadT hubT stackT regT => Sys2Proof.Machine.execCapPeriod watts centivolts quadT hubT stackT regT s
  | .fastLimit => Sys2Proof.Machine.execFastLimit s
  | .thermalShutdown => Sys2Proof.Machine.execThermalShutdown s
  | .supplyWarn => Sys2Proof.Machine.execSupplyWarn s
  | .heldResetRelease => Sys2Proof.Machine.execHeldResetRelease s
  | .warmReset init value => Sys2Proof.Machine.execWarmReset init value s
  | .dieReset init value => Sys2Proof.Machine.execDieReset init value s
  | .coreReset init value => Sys2Proof.Machine.execCoreReset init value s
  | .resetComplete => Sys2Proof.Machine.execResetComplete s
  | .bootRom verified imageHash strap => Sys2Proof.Machine.execBootRom verified imageHash strap s
  | .stage1 certOk verified imageHash configHashes => Sys2Proof.Machine.execStage1 certOk verified imageHash configHashes s
  | .stage2 report => Sys2Proof.Machine.execStage2 report s
  | .bootOk init value => Sys2Proof.Machine.execBootOk init value s
  | .startWatchdogExpiry => Sys2Proof.Machine.execStartWatchdogExpiry s
  | .info r => Sys2Proof.Machine.execInfo r s
  | .readFlash r => Sys2Proof.Machine.execReadFlash r s
  | .writeSlot r data flashOk => Sys2Proof.Machine.execWriteSlot r data flashOk s
  | .commitSlot r verified => Sys2Proof.Machine.execCommitSlot r verified s
  | .clearCounter r => Sys2Proof.Machine.execClearCounter r s
  | .raevoReset r => Sys2Proof.Machine.execRaevoReset r s
  | .registerAccessFrame f => Sys2Proof.Machine.execRegisterAccessFrame f s
  | .deviceId pecOk => Sys2Proof.Machine.execDeviceId pecOk s
  | .state pecOk => Sys2Proof.Machine.execState pecOk s
  | .supply pecOk => Sys2Proof.Machine.execSupply pecOk s
  | .temps pecOk => Sys2Proof.Machine.execTemps pecOk s
  | .alertCause pecOk => Sys2Proof.Machine.execAlertCause pecOk s
  | .alertClear mask pecOk => Sys2Proof.Machine.execAlertClear mask pecOk s
  | .clocks pecOk => Sys2Proof.Machine.execClocks pecOk s
  | .fail pecOk => Sys2Proof.Machine.execFail pecOk s
  | .cap value pecOk => Sys2Proof.Machine.execCap value pecOk s
  | .alertResponse => Sys2Proof.Machine.execAlertResponse s
  | .smbusTimeout => Sys2Proof.Machine.execSmbusTimeout s
  | .expertKey init page value => Sys2Proof.Machine.execExpertKey init page value s
  | .expertLock init page value => Sys2Proof.Machine.execExpertLock init page value s
  | .evtStatusWrite init page value => Sys2Proof.Machine.execEvtStatusWrite init page value s
  | .evtForce init page value => Sys2Proof.Machine.execEvtForce init page value s
  | .shadowDiscard init page value => Sys2Proof.Machine.execShadowDiscard init page value s
  | .rcRead init address => Sys2Proof.Machine.execRcRead init address s
  | .counterLowRead init address => Sys2Proof.Machine.execCounterLowRead init address s
  | .opkeyBurn init value => Sys2Proof.Machine.execOpkeyBurn init value s
  | .registerWrite init bytes address value behind => Sys2Proof.Machine.execRegisterWrite init bytes address value behind s
  | .supplyValid centivolts => Sys2Proof.Machine.execSupplyValid centivolts s

end Sys2Proof.Machine
end

