-- ==== Sys2Proof/Safety.lean ====
section
/-! DEFINITION. What counts as a safe run, in the terms that claims use. -/

namespace Sys2Proof.Machine

/-- The step answers a next state: the block neither stops nor lacks a meaning. -/
def Steps (s : State) : Prop := ∃ t, step s = .next t

/-- The module's secret, the vendor's key and the MAC addresses are as they were, and an operator key that was burnt
still is that key (R478, R537: the fuses hold them, and the operator key is burnt once). -/
def FusesKept (f g : Fuses) : Prop :=
  g.secret = f.secret ∧ g.fwKey = f.fwKey ∧ g.mgmtMac = f.mgmtMac ∧ g.linkMacs = f.linkMacs ∧
    ∀ k, f.opKey = some k → g.opKey = some k

/-- A control access of a 32-bit word by `init` reaches the page that serves it: the control network is powered, no
earlier access of the initiator waits, and no reason of R28 stands against it. -/
def Served (s : State) (init addr : Nat) (write : Bool) : Prop :=
  domOn s domCtl = true ∧ mustHold s init false = false ∧ accessReason s init 4 addr write = none

/-- The parts of the state, one for each of its fields. -/
inductive Piece where
  | queue | free | out | mem | bad | softBad | hbmErr | burstKey | hbmStale | tags | pages | cores | dies
  | d2d | bell | sched | parts | crier | links | sealU | power | boot | flash | fuses | hosts
  deriving DecidableEq, Repr

/-- Two states have the same of a part. -/
def Piece.same : Piece → State → State → Prop
  | .queue, s, t => t.pending = s.pending
  | .free, s, t => t.free = s.free
  | .out, s, t => t.out = s.out
  | .mem, s, t => t.mem = s.mem
  | .bad, s, t => t.bad = s.bad
  | .softBad, s, t => t.softBad = s.softBad
  | .hbmErr, s, t => t.hbmErr = s.hbmErr
  | .burstKey, s, t => t.burstKey = s.burstKey
  | .hbmStale, s, t => t.hbmStale = s.hbmStale
  | .tags, s, t => t.tags = s.tags
  | .pages, s, t => t.pages = s.pages
  | .cores, s, t => t.cores = s.cores
  | .dies, s, t => t.dies = s.dies
  | .d2d, s, t => t.d2d = s.d2d
  | .bell, s, t => t.bell = s.bell
  | .sched, s, t => t.sched = s.sched
  | .parts, s, t => t.parts = s.parts
  | .crier, s, t => t.crier = s.crier
  | .links, s, t => t.links = s.links
  | .sealU, s, t => t.sealU = s.sealU
  | .power, s, t => t.power = s.power
  | .boot, s, t => t.boot = s.boot
  | .flash, s, t => t.flash = s.flash
  | .fuses, s, t => t.fuses = s.fuses
  | .hosts, s, t => t.hosts = s.hosts

/-- No part of the state changes but those listed. -/
def Changes (L : List Piece) (s t : State) : Prop := ∀ p : Piece, p ∉ L → p.same s t

/-- Nothing but one register page changes. -/
def OnlyPage (pn : Nat) (s t : State) : Prop := Changes [.pages] s t ∧ ∀ k, k ≠ pn → t.page k = s.page k

/-- The parts of the state that a command may change; every other part stays as it is. -/
def touches : Instr → List Piece
  | .doorbell _ _ _ _ _ => [.pages, .cores, .crier, .hosts]
  | .heldWriteRelease _ | .registerAccessFrame _ | .expertKey _ _ _ | .expertLock _ _ _ | .evtStatusWrite _ _ _
  | .evtForce _ _ _ | .shadowDiscard _ _ _ | .opkeyBurn _ _ | .registerWrite _ _ _ _ _ =>
      [.free, .out, .mem, .bad, .softBad, .hbmErr, .burstKey, .hbmStale, .tags, .pages, .cores, .dies, .d2d, .bell,
      .sched, .parts, .crier, .links, .sealU, .power, .boot, .flash, .fuses, .hosts]
  | .recordFetch _ _ | .matmul _ | .gatherHoldExpiry _ | .matmulT _ | .accRead _ | .reduceX _ | .attnFwd _
  | .attnBwd _ | .attnDecode _ | .couch _ | .conv _ | .vec _ | .vecProg _ | .updateP1 _ | .updateP2 _
  | .boundary _ _ | .tileResident _ | .write _ | .read _ | .readResp _ | .atomic _ | .atomicResp _ | .tileRts _
  | .tileData _ | .collective _ | .vote _ | .result _ | .sliceStart _ | .saveRestore _ _ =>
      [.free, .out, .mem, .bad, .softBad, .hbmErr, .burstKey, .tags, .pages, .cores, .dies, .sched, .parts, .crier,
      .links, .flash]
  | .nop _ _ | .signal _ _ | .wait _ _ | .waitTimeout _ _ | .fence _ _ | .writebackAck _ _ =>
      [.mem, .bad, .softBad, .hbmErr, .burstKey, .pages, .cores, .dies, .sched, .parts, .crier, .flash]
  | .move _ | .gather _ | .scatter _ =>
      [.free, .out, .mem, .bad, .softBad, .hbmErr, .burstKey, .tags, .pages, .cores, .dies, .sched, .parts, .crier,
      .links, .sealU, .flash]
  | .partitionBoundary _ => [.pages, .cores, .parts, .crier]
  | .trapRecord => [.mem, .bad, .softBad, .hbmErr, .burstKey, .pages, .dies, .crier, .flash]
  | .almanacTailWrite _ _ _ _ =>
      [.mem, .bad, .softBad, .hbmErr, .burstKey, .pages, .dies, .sched, .parts, .crier, .flash, .hosts]
  | .prefetch _ _ | .send _ _ | .recvExpect _ _ | .toll _ _ | .tollLevelDeadline _ | .checkpoint _ _
  | .deadlineMiss _ _ _ =>
      [.out, .mem, .bad, .softBad, .hbmErr, .burstKey, .pages, .dies, .sched, .parts, .crier, .links, .flash]
  | .boundaryArm _ _ | .hbmRetrainTrigger _ _ _ | .hbmRetrainEnd _ _ _ _ _ => [.pages, .dies, .crier]
  | .stepBoundary =>
      [.free, .out, .mem, .bad, .softBad, .hbmErr, .burstKey, .tags, .pages, .cores, .dies, .bell, .sched, .parts,
      .crier, .links, .flash]
  | .evalWindow _ _ => [.pages, .dies, .parts]
  | .evalWindowClose _ _ | .retrainWindowClose _ _ =>
      [.mem, .bad, .softBad, .hbmErr, .burstKey, .pages, .dies, .sched, .parts, .crier, .flash]
  | .retrainWindow _ _ => [.softBad, .hbmErr, .pages, .dies, .crier, .flash]
  | .wake _ _ => [.out, .mem, .bad, .softBad, .hbmErr, .burstKey, .pages, .dies, .sched, .parts, .crier, .flash]
  | .entryComplete _ _ _ _ | .linkReqWrite _ | .linkReqRead _ | .linkReqAtomic _ | .reduceScatter _
  | .allGather _ | .allReduce _ =>
      [.out, .mem, .bad, .softBad, .hbmErr, .burstKey, .tags, .pages, .dies, .sched, .parts, .crier, .links, .flash]
  | .waitLimitExpiry _ _ _ =>
      [.mem, .bad, .softBad, .hbmErr, .burstKey, .pages, .dies, .sched, .parts, .crier, .links, .flash]
  | .bellTick =>
      [.out, .mem, .bad, .softBad, .hbmErr, .burstKey, .pages, .cores, .dies, .bell, .sched, .parts, .crier, .links,
      .power, .boot, .flash]
  | .epochMark _ =>
      [.out, .mem, .bad, .softBad, .hbmErr, .burstKey, .pages, .dies, .bell, .sched, .parts, .crier, .links, .flash]
  | .measurementWindow _ | .bellUnlock _ _ => [.pages, .dies, .bell, .crier, .power]
  | .glitch | .frame _ => [.pages]
  | .openMsg _ | .linkCtl _ _ _ | .idle _ _ _ _ _ _ | .priorityPauseExpiry _ _ | .retransmit _ _ =>
      [.out, .pages, .links]
  | .msgAck _ _ =>
      [.out, .mem, .bad, .softBad, .hbmErr, .burstKey, .tags, .pages, .cores, .dies, .sched, .parts, .crier, .links,
      .flash]
  | .msgNak _ _ _ =>
      [.out, .mem, .bad, .softBad, .hbmErr, .burstKey, .pages, .cores, .dies, .sched, .parts, .crier, .links,
      .flash]
  | .bell _ _ _ =>
      [.out, .mem, .bad, .softBad, .hbmErr, .burstKey, .pages, .dies, .bell, .sched, .parts, .crier, .links, .power,
      .flash]
  | .negotiate _ _ _ | .linkRetrain _ => [.out, .pages, .crier, .links]
  | .linkReplay _ => [.out, .links]
  | .fecUncorrectable _ | .drainCut _ => [.pages, .links]
  | .priorityPause _ _ => [.links]
  | .contextTimeout _ =>
      [.mem, .bad, .softBad, .hbmErr, .burstKey, .pages, .cores, .dies, .sched, .parts, .crier, .links, .flash]
  | .linkRetrainDone _ _ => [.free, .out, .pages, .dies, .bell, .crier, .links, .power]
  | .portTraining _ _ _ _ => [.out, .pages, .dies, .bell, .crier, .links, .power, .hosts]
  | .ctxOpen _ _ => [.out, .softBad, .pages, .dies, .crier, .links, .sealU, .flash, .hosts]
  | .ctxClose _ _ | .discard _ _ _ =>
      [.mem, .bad, .softBad, .hbmErr, .burstKey, .pages, .cores, .dies, .sched, .parts, .crier, .links, .flash,
      .hosts]
  | .linkReqTailWrite _ _ _ => [.pages, .crier, .links, .hosts]
  | .linkReqComplete _ _ => [.mem, .bad, .softBad, .hbmErr, .burstKey, .pages, .dies, .crier, .links, .flash]
  | .d2dReplay _ _ => [.pages, .d2d, .sched, .parts, .crier]
  | .retrainDue _ _ _ => [.pages, .crier]
  | .admitJob _ _ => [.free, .softBad, .pages, .dies, .parts, .crier, .flash, .hosts]
  | .admitDigestDone _ _ => [.mem, .bad, .softBad, .hbmErr, .burstKey, .pages, .cores, .dies, .parts, .crier, .flash]
  | .admitTimeout _ => [.pages, .parts, .crier]
  | .endJob _ _ _ =>
      [.mem, .bad, .softBad, .hbmErr, .burstKey, .pages, .cores, .dies, .bell, .sched, .parts, .crier, .links,
      .flash, .hosts]
  | .jobCmdBoundary _ _ | .resume _ _ _ => [.pages, .cores, .parts, .crier, .hosts]
  | .suspend _ _ _ => [.pages, .parts, .crier, .hosts]
  | .tileKill _ _ => [.mem, .pages, .cores, .dies, .parts, .crier, .links]
  | .seal _ _ =>
      [.mem, .bad, .softBad, .hbmErr, .burstKey, .hbmStale, .tags, .pages, .cores, .dies, .sched, .parts, .crier,
      .links, .sealU, .flash, .hosts]
  | .unseal _ _ => [.mem, .bad, .softBad, .tags, .pages, .cores, .parts, .crier, .sealU, .hosts]
  | .load _ _ =>
      [.mem, .bad, .softBad, .hbmErr, .burstKey, .tags, .pages, .dies, .parts, .crier, .sealU, .flash, .hosts]
  | .attest _ _ => [.mem, .bad, .softBad, .hbmErr, .burstKey, .pages, .dies, .crier, .sealU, .flash, .hosts]
  | .pwrEnAssert _ | .pwrEnDeassert | .undervoltage | .overvoltage | .modRstNAssert | .heldResetRelease
  | .warmReset _ _ | .dieReset _ _ | .coreReset _ _ | .supplyValid _ =>
      [.mem, .bad, .softBad, .hbmErr, .burstKey, .hbmStale, .tags, .pages, .cores, .dies, .d2d, .bell, .sched,
      .parts, .crier, .links, .sealU, .power, .boot, .hosts]
  | .domainRegulation | .modRstNRelease | .throttleNAssert _ | .throttleNDeassert _ _ | .droopRecover _ _
  | .droopHoldEnd _ _ =>
      [.power]
  | .throttleLong | .capPeriod _ _ _ _ _ _ | .supplyWarn => [.pages, .crier, .power]
  | .droopSag _ _ | .droopDeep _ _ | .fastLimit => [.pages, .power]
  | .thermalShutdown =>
      [.mem, .bad, .softBad, .hbmErr, .burstKey, .tags, .pages, .cores, .dies, .d2d, .sched, .parts, .crier, .links,
      .power, .flash, .hosts]
  | .resetComplete => [.boot]
  | .bootRom _ _ _ =>
      [.mem, .bad, .softBad, .hbmErr, .burstKey, .hbmStale, .tags, .pages, .cores, .dies, .d2d, .bell, .sched,
      .parts, .crier, .links, .sealU, .power, .boot, .flash, .fuses, .hosts]
  | .stage1 _ _ _ _ | .startWatchdogExpiry =>
      [.mem, .bad, .softBad, .hbmErr, .burstKey, .hbmStale, .tags, .pages, .cores, .dies, .d2d, .bell, .sched,
      .parts, .crier, .links, .sealU, .power, .boot, .flash, .hosts]
  | .stage2 _ =>
      [.out, .mem, .bad, .softBad, .hbmErr, .burstKey, .hbmStale, .tags, .pages, .cores, .dies, .d2d, .bell, .sched,
      .parts, .crier, .links, .sealU, .power, .boot, .flash, .hosts]
  | .bootOk _ _ => [.pages, .crier, .boot, .flash, .hosts]
  | .info _ | .readFlash _ => [.out, .pages, .power]
  | .writeSlot _ _ _ => [.free, .out, .pages, .power, .flash]
  | .commitSlot _ _ | .clearCounter _ => [.out, .pages, .power, .flash]
  | .raevoReset _ =>
      [.out, .mem, .bad, .softBad, .hbmErr, .burstKey, .hbmStale, .tags, .pages, .cores, .dies, .d2d, .bell, .sched,
      .parts, .crier, .links, .sealU, .power, .boot, .hosts]
  | .deviceId _ | .state _ | .supply _ | .temps _ | .alertCause _ | .clocks _ | .fail _ | .smbusTimeout => [.out]
  | .alertClear _ _ => [.out, .power]
  | .cap _ _ => [.out, .pages]
  | .alertResponse => [.free, .out]
  | .rcRead _ _ | .counterLowRead _ _ => [.free, .out, .pages, .dies, .crier, .hosts]

/-- Where the completion entry of a record stands (R187). -/
def cplKey (s : State) (g : Nat) (r : CmdRec) : Nat := cplBase s g r.ctx + 16 * (r.idx % 2 ^ ringLog2 s g r.ctx)

/-- Nothing about a store of `n` bytes needs a rule of its own: no unit with an error, no other key, no control block of an
admitted context, no release window. -/
def PlainStore (s : State) (a n : Nat) : Prop :=
  plainSpan s a = true ∧ (tierOf a = 2 → lockedBlocks s a n = [] ∧ meetsRelease s (bits a 25 0) n = false)

/-- The completion entry of a record has a place: its ring's area lies where it may, and nothing about its store needs a rule
of its own (R187, R545, R561). -/
def EntryPlaced (s : State) (g : Nat) (r : CmdRec) : Prop :=
  r.recompute = none ∧ ringArea s g (cplBase s g r.ctx) (16 * 2 ^ ringLog2 s g r.ctx) = true ∧ PlainStore s (cplKey s g r) 16

/-- From `s` to `t`, record `r` of core `g` has completed (R187, R189): its entry is written where it has a place and no other
byte of memory is, it is outstanding no longer, it is counted, and a failed one among the failures. A record that an almanac
fallback dispatched writes no entry (log 13). -/
structure Completes (s t : State) (g : Nat) (r : CmdRec) (e : Completion) : Prop where
  entry    : EntryPlaced s g r → memRead t (cplKey s g r) 16 = completionEntry s r e
  frame    : ∀ a, ¬ (r.recompute = none ∧ cplKey s g r ≤ a ∧ a < cplKey s g r + 16) → memByte t a = memByte s a
  ring     : ((t.core g).ring r.ctx).outstanding = ((s.core g).ring r.ctx).outstanding.erase r.idx
  counted  : t.counter (pnCnt g) 2 = s.counter (pnCnt g) 2 + 1
  failures : t.counter (pnCnt g) 3 = s.counter (pnCnt g) 3 + (if statusFails e.status then 1 else 0)

/-- The semaphore that an almanac entry signals (R357). -/
def doneKey (s : State) (k : Nat) (e : Entry) : Nat := semKey s (ringPart k) (ringCtx k) e.doneSem

/-- Memory with 1 added to an entry's DONE_SEM, modulo 2^32 (R357). -/
def signalled (s : State) (k : Nat) (e : Entry) : State :=
  memWrite s (doneKey s k e) (leBytes 4 ((semValue s (ringPart k) (ringCtx k) e.doneSem + 1) % 2 ^ 32))

/-- The semaphore of an entry can be read and written. -/
def Signals (s : State) (k : Nat) (e : Entry) : Prop :=
  PlainStore s (doneKey s k e) 4 ∧ badUnit s (doneKey s k e) 4 = none

/-- From `s` to `u`, the entry is done: it is marked so, with `f` for what else changes of it, and DONE_SEM is signalled; no
other byte of memory changes (R357). -/
structure EntryEnds (s u : State) (d k : Nat) (e : Entry) (f : Entry → Entry) : Prop where
  entries : ((u.die d).ring k).entries = ((s.die d).ring k).entries.map fun v =>
    if v.pos = e.pos then { f v with phase := .done, list := none } else v
  mem     : ∀ a, memByte u a = memByte (signalled s k e) a

/-- The entry has failed: it is done, its context's step has failed, and it is counted and raises ENTRY_FAIL (R357). -/
structure EntryFails (s u : State) (d k : Nat) (e : Entry) : Prop where
  ends    : EntryEnds s u d k e fun v => { v with failed := true }
  counted : u.counter (pnAlm d) 6 = s.counter (pnAlm d) 6 + 1
  event   : (u.page (pnAlm d)).evtStatus = (s.page (pnAlm d)).evtStatus ||| 2
  step    : ((u.part (ringPart k)).ctx (ringCtx k)).stepFailed = true

/-- The entry has fired: it is in flight and counted (R354). -/
structure Fired (s t : State) (d k : Nat) (e : Entry) : Prop where
  ring    : (t.die d).ring k = { (s.die d).ring k with entries := ((s.die d).ring k).entries.map fun v =>
    if v.pos = e.pos then { v with phase := .inFlight } else v }
  counted : t.counter (pnAlm d) 0 = s.counter (pnAlm d) 0 + 1

/-- The command by which a message of an operation arrives. -/
def arrival : MsgOp → LinkMsg → Instr
  | .write, m => .write m
  | .read, m => .read m
  | .readResp, m => .readResp m
  | .atomic, m => .atomic m
  | .atomicResp, m => .atomicResp m
  | .tileRts, m => .tileRts m
  | .tileData, m => .tileData m
  | .collective, m => .collective m
  | .vote, m => .vote m
  | .result, m => .result m
  | .openMsg, m => .openMsg m

/-- A message is the next of its READY context, at its level and, in a sealed context, with a good tag; nothing is parked
before it, and it is not to be parked itself (R434–R439, R469). -/
def Taken (s : State) (op : MsgOp) (m : LinkMsg) : Prop :=
  let p := s.peer m.ctx
  p.phase = .ready ∧ (p.sealedCtx = true → m.tagOk = true) ∧ m.level.toNat = p.level ∧ m.mseq = p.recvSeq ∧
    parkedFor s m.ctx = 0 ∧ parks s m.ctx op m = false

/-- The context has taken one more message, and is else as it was but for what it sends. -/
def NextMsg (s t : State) (c : Nat) : Prop :=
  (t.peer c).recvSeq = (s.peer c).recvSeq + 1 ∧ (t.peer c).phase = (s.peer c).phase

/-- A message stands among those that a context has sent and that are not acknowledged, under the context's next MSEQ. -/
def Sends (s t : State) (c : Nat) (f : OutMsg → Prop) : Prop :=
  (t.peer c).sendSeq = (s.peer c).sendSeq + 1 ∧
    ∃ u ∈ (t.peer c).unacked, u.msg.mseq = (s.peer c).sendSeq ∧ f u.msg

/-- Core `g` has nothing in flight, landing, asked for or gathered. -/
structure AtRest (s : State) (g : Nat) : Prop where
  inflight : (s.core g).inflight = []
  landing  : (s.core g).landing = []
  reads    : (s.core g).reads = none

/-- No unit of memory has an error (R372, R407, R410). -/
def NoErrors (s : State) : Prop := s.bad = [] ∧ s.softBad = [] ∧ s.hbmErr = [] ∧ noneFailed s = true

/-- From `s` to `t`, the front command of a queue of core `g` has run: it has left the queue and is the latest in flight, with
a status listed; the core's rings are as they were (R202). -/
structure HasRun (s t : State) (g : Nat) (q : QueueId) (r : CmdRec) (statuses : List Nat) : Prop where
  flight : ∃ f, (t.core g).inflight = (s.core g).inflight ++ [f] ∧ f.queue = q ∧ f.cmd = r ∧ f.status.toNat ∈ statuses
  queue  : (t.core g).queue q = ((s.core g).queue q).drop 1
  rings  : (t.core g).rings = (s.core g).rings

/-- The module is off or starts anew: memory, partitions, links and jobs are gone, flash and fuses are as they were (R501,
R510). -/
structure Lost (s t : State) : Prop where
  mem   : t.mem = []
  parts : t.parts = []
  links : t.links = {}
  boot  : t.boot = {}
  bell  : t.bell = {}
  flash : t.flash = s.flash
  fuses : t.fuses = s.fuses
  out   : t.out = s.out

end Sys2Proof.Machine
end

