-- ==== Sys2Proof/Certificates/Slice0/Obligations.lean ====
section
/-! DEFINITION. The statements for the provers. -/

open Sys2Proof Sys2Proof.Machine

/-! ### The machine as a whole -/

/-- A step on a queue that is not empty is the front command's effect on the state with the rest of the queue. That commands
wait in one queue is the form of the model (log entry 11). -/
def Obligations.StepRunsFront : Prop :=
  ∀ (c : Instr) (s : State) (rest : List Instr), s.pending = c :: rest → step s = exec c { s with pending := rest }

/-- Every step, from every state: memory keeps its canonical form, no command changes the device secret, the vendor's key or
the MAC addresses, and an operator key once burnt stays. The canonical form of memory is the model's own (log entry 3). -/
def Obligations.StepKeepsInvariants : Prop :=
  ∀ s t : State, step s = .next t → (MemOk s → MemOk t) ∧ FusesKept s.fuses t.fuses

/-- Every command answers a next state, and changes no part of the state but those that `touches` lists for it. That a
command whose occasion is absent leaves the state as it is, is log entry 2. -/
def Obligations.CommandTouches : Prop :=
  ∀ (c : Instr) (s : State), ∃ t, exec c s = .next t ∧ Changes (touches c) s t

/-- What reset leaves: memory lists nothing, every slot is FREE, every context FREE and every queue empty; the bell is not
locked and the almanacs are self-timed, no controller runs, the active map is map 0 at epoch 0 with no toll result, every
counter is 0, no event is set, and every register word has its reset value. That memory lists nothing is the model's choice
(log entry 3). -/
def Obligations.ResetState : Prop :=
  let s := State.reset
  MemOk s ∧ s.mem = [] ∧ s.pending = [] ∧
    (∀ g k, ((s.core g).bottom.slot? k) = none ∧ ((s.core g).side.slot? k) = none) ∧
    (∀ g q, (s.core g).queue q = []) ∧ (∀ p x, ((s.part p).ctx x).phase = .free ∧ (s.part p).jobs = []) ∧
    s.bell.locked = false ∧ s.bell.count = 0 ∧ (∀ k, ringSelfTimed s k = true) ∧
    (∀ d, (s.die d).dc0.running = false ∧ (s.die d).dc1.running = false) ∧
    s.sched.mapSel = false ∧ s.sched.epoch = 0 ∧ s.sched.tollResult = 0 ∧
    (∀ k, domOn s k = decide (k = bootDomain)) ∧ (∀ pn k, s.counter pn k = 0) ∧
    (∀ pn, (s.page pn).evtStatus = 0 ∧ (s.page pn).expertEn = false ∧ (s.page pn).capture = none) ∧
    ∀ pn off i r, page? pn = some i → regSpec? i.ty off = some r → s.reg pn off = BitVec.ofNat 32 r.reset

/-! ### Accumulation -/

/-- A deposit adds exactly while the guard holds the sum, and otherwise freezes the slot with the sum's sign; a slot so frozen
ignores finite values, and class flags only gather. A rescaling deposit first takes the floor of the value by 2^Δ. Deposits whose partial sums the guard holds therefore leave the exact sum
of all of them, in every order; it is read as it is if it lies in the range of VALUE, and only then not as an infinity. Both
exchange forms give the value back. -/
def Obligations.AccumulationExact : Prop :=
  (∀ (q : Slot) (v : Int) (c : Cls),
    let d := q.deposit v c
    let held := -guardLimit ≤ q.x + v ∧ q.x + v < guardLimit
    d.nan = (q.nan || c.nan) ∧ d.pinf = (q.pinf || c.pinf) ∧ d.ninf = (q.ninf || c.ninf) ∧
      (q.ovf = true → d.ovf = true ∧ d.ovfNeg = q.ovfNeg ∧ d.x = q.x) ∧
      (q.ovf = false → held → d.ovf = false ∧ d.x = q.x + v) ∧
      (q.ovf = false → ¬ held → d.ovf = true ∧ d.ovfNeg = decide (q.x + v < 0))) ∧
  (∀ (q : Slot) (delta : Nat) (v : Int) (c : Cls), q.ovf = false → ∃ r : Slot, r.x = q.x.fdiv ((2 ^ delta : Nat) : Int) ∧
    r.ovf = false ∧ (r.nan, r.pinf, r.ninf) = (q.nan, q.pinf, q.ninf) ∧ (q.rescale delta).deposit v c = r.deposit v c) ∧
  (∀ (q : Slot) (vs ws : List Int), q.ovf = false → vs.Perm ws →
    (∀ us ∈ [vs, ws], ∀ n, -guardLimit ≤ q.x + (us.take n).sum ∧ q.x + (us.take n).sum < guardLimit) →
    vs.foldl (fun a v => a.deposit v {}) q = { q with x := q.x + vs.sum } ∧
      ws.foldl (fun a v => a.deposit v {}) q = vs.foldl (fun a v => a.deposit v {}) q) ∧
  (∀ q : Slot, q.nan = false → q.pinf = false → q.ninf = false → q.ovf = false →
    q.value = if -valueLimit ≤ q.x ∧ q.x < valueLimit then .fin q.x (-400) else .inf (decide (q.x < 0))) ∧
  (∀ (q : Slot) (n : Nat), q.xc128 = some n → (slotOfXc128 n).2 = false ∧ (slotOfXc128 n).1.value = q.value) ∧
  ∀ q : Slot, (slotOfImage q.image).value = q.value

/-! ### Control accesses -/

/-- The common words of a page: what a write of EVT_STATUS, PAGE_MODE and PAGE_SHADOW leaves, and nothing else changes. -/
def Obligations.CommonWordsWritten : Prop :=
  ∀ (s : State) (init : Nat) (page value : Word) (i : PageId), page? (page.toNat / 0x1000) = some i →
    let pn := page.toNat / 0x1000
    let p := s.page pn
    let left := p.evtStatus &&& ~~~value
    (Served s init (pageWordAddr page.toNat 0x020) true → ∃ t, exec (.evtStatusWrite ⟨init, false⟩ page value) s = .next t ∧
      OnlyPage pn s t ∧
      t.page pn = { p with keyArmed := none, evtStatus := left, capture := if left = 0 then none else p.capture }) ∧
    (Served s init (pageWordAddr page.toNat 0x00C) true → ∃ t, exec (.expertLock ⟨init, false⟩ page value) s = .next t ∧
      OnlyPage pn s t ∧ t.page pn = { p with keyArmed := none, expertEn := p.expertEn && value.getLsbD 0 }) ∧
    (Served s init (pageWordAddr page.toNat 0xF00) true → ∃ t, exec (.shadowDiscard ⟨init, false⟩ page value) s = .next t ∧
      OnlyPage pn s t ∧
      t.page pn = { p with keyArmed := none,
                           shadow := if hasShadow i.ty && value.getLsbD 1 then [] else p.shadow })

/-- A write of EXPERT_KEY: 0x6A arms the key for its initiator, 0x95 from the initiator that armed it unlocks the page, any
other value leaves the key disarmed; on a page of a sealed partition it is ignored. -/
def Obligations.ExpertKeyWritten : Prop :=
  ∀ (s : State) (init : Nat) (page value : Word), Served s init (pageWordAddr page.toNat 0x008) true →
    let pn := page.toNat / 0x1000
    let p := s.page pn
    let free := !sealedPage s pn
    ∃ t, exec (.expertKey ⟨init, false⟩ page value) s = .next t ∧ OnlyPage pn s t ∧
      t.page pn = { p with
        expertEn := p.expertEn || (free && decide (p.keyArmed = some init) && decide (value = 0x95#32)),
        keyArmed := if free && decide (value = 0x6A#32) then some init else none }

/-- EVT_FORCE sets the bits written that the page has, as real events; only the page's EVT_STATUS and the crier's event
queues change, and an event that was not set and is enabled is queued. -/
def Obligations.EventsForced : Prop :=
  ∀ (s : State) (init : Nat) (page value : Word) (i : PageId), page? (page.toNat / 0x1000) = some i →
    Served s init (pageWordAddr page.toNat 0x028) true →
    let pn := page.toNat / 0x1000
    ∃ t, exec (.evtForce ⟨init, false⟩ page value) s = .next t ∧ Changes [.pages, .crier] s t ∧
      (∀ k, k ≠ pn → t.page k = s.page k) ∧
      t.page pn = { s.page pn with
        keyArmed := none, evtStatus := (s.page pn).evtStatus ||| (value &&& eventMask i.ty) } ∧
      ((s.page pn).evtEnable &&& value &&& eventMask i.ty &&& ~~~(s.page pn).evtStatus = 0 → t.crier = s.crier)

/-- The burn of the operator key: with every condition of R537 the fuse holds the sixteen words of the key; a burn once the
fuse is set, from another initiator, with another key or while a partition is sealed changes no fuse and is recorded. How long
BURNING reads 1 is the model's choice (log entry 93). -/
def Obligations.OperatorKeyBurnt : Prop :=
  ∀ (s : State) (init : Nat) (value : Word), Served s init (pnFuse * 0x1000 + 0x840) true →
    (s.page pnFuse).expertEn = true →
    let ok := init = 0 ∧ value.getLsbD 0 = true ∧ value.extractLsb' 16 16 = 0x0F5E#16 ∧ s.fuses.opKey = none ∧
      anySealed s = false
    ∃ t, exec (.opkeyBurn ⟨init, false⟩ value) s = .next t ∧ Changes [.pages, .boot, .fuses] s t ∧
      t.boot = (if ok then { s.boot with burnLeft := burnTicks } else s.boot) ∧
      (ok → t.fuses = { s.fuses with opKey := some (BitVec.ofNat 512
        ((List.range 16).map fun k => s.regN pnFuse (0x800 + 4 * k) * 2 ^ (32 * k)).sum) }) ∧
      (¬ ok → t.fuses = s.fuses ∧ (t.page pnFuse).capture = some ((s.page pnFuse).capture.getD
        (BitVec.ofNat 512 (accessRecord s 6 init true (pnFuse * 0x1000 + 0x840) value.toNat))))

/-- A served write of a word that only takes its value: bits the word lacks stay, RW bits take the value, the bits of a /B
field go to the page's shadow and leave the active value as it was; nothing but the page changes. -/
def Obligations.RegisterWordsWritten : Prop :=
  ∀ (s : State) (init : Nat) (address value : Word) (i : PageId) (r : RegSpec),
    let pn := address.toNat / 0x1000
    let off := address.toNat % 0x1000
    let s0 := disarm s pn
    Served s init address.toNat true → page? pn = some i → regSpec? i.ty off = some r → off ≠ 0xF00 →
    (0x100 ≤ off ∨ off = 0x010) → (0x800 ≤ off → (s.page pn).expertEn = true) →
    ¬ (i.ty = ptBell ∧ off = 0x010) → ¬ (i.ty = ptAlmanac ∧ 0x200 ≤ off ∧ off % 0x20 = 4) →
    ¬ (i.ty = ptCrier ∧ off % 0x20 = 4) → ¬ (i.ty = ptPart ∧ off = 0x168) →
    (hubWrite? s0 init i off value.toNat).or (dieWrite? s0 init i off value.toNat) = none →
    writeGuard s0 init pn i off value.toNat = 0 →
    ∃ t, exec (.registerWrite init 4 address value false) s = .next t ∧ OnlyPage pn s t ∧
      t.reg pn off = (s.reg pn off &&& ~~~(BitVec.ofNat 32 r.rw)) ||| (value &&& BitVec.ofNat 32 r.rw) ∧
      (∀ k, k ≠ off → t.reg pn k = s.reg pn k) ∧
      (t.page pn).shadow = (if r.latch = 0 then (s.page pn).shadow
        else mput (s.page pn).shadow off (value &&& BitVec.ofNat 32 r.latch)) ∧
      (t.page pn).counters = (s.page pn).counters ∧ (t.page pn).evtStatus = (s.page pn).evtStatus

/-- An access that no page serves: it has no effect but the record in the CRIER page's capture, if that is empty, the event
and the count; a read of it returns 0. That the record stands in the CRIER page follows R531; which check refuses first is
log entry 80. -/
def Obligations.RefusedAccessRecorded : Prop :=
  ∀ (s : State) (init bytes : Nat) (address value : Word) (reason : Nat),
    domOn s domCtl = true → domOn s domHubfab = true → mustHold s init false = false →
    (accessReason s init bytes address.toNat true = some reason →
      ∃ t, exec (.registerWrite init bytes address value false) s = .next t ∧ Changes [.pages, .crier] s t ∧
        (∀ k, k ≠ pnCrier → t.page k = s.page k) ∧ t.counter pnCrier 1 = s.counter pnCrier 1 + 1 ∧
        (∀ off, t.reg pnCrier off = s.reg pnCrier off) ∧
        (t.page pnCrier).capture = some ((s.page pnCrier).capture.getD
          (BitVec.ofNat 512 (accessRecord s reason init true address.toNat value.toNat)))) ∧
    (accessReason s init bytes address.toNat false = some reason →
      ∃ t, exec (.rcRead ⟨init, bytes⟩ address) s = .next t ∧ Changes [.pages, .crier, .out] s t ∧
        t.out = s.out ++ [.readData init address 0] ∧ t.counter pnCrier 1 = s.counter pnCrier 1 + 1 ∧
        (t.page pnCrier).capture = some ((s.page pnCrier).capture.getD
          (BitVec.ofNat 512 (accessRecord s reason init false address.toNat 0))))

/-- A host core's write behind its own stream writes waits at the hub, with no other effect, a doorbell as any other write;
once released, a write that waits alone has the effect that it would have had at once. Whether stream writes are outstanding
is the write's operand (log entry 77); the withheld writes are freed one release at a time. -/
def Obligations.HostWritesHeld : Prop :=
  ∀ (s : State) (host bytes core ctx : Nat) (address value : Word), host < 16 →
    (core < 160 → ctx < 8 → exec (.doorbell (host + 1) core ctx value true) s =
      exec (.registerWrite (host + 1) 4 (BitVec.ofNat 32 (tailAddr core ctx)) value true) s) ∧
    (∃ t, exec (.registerWrite (host + 1) bytes address value true) s = .next t ∧ Changes [.hosts] s t ∧
      (t.host host).held = (s.host host).held ++ [{ bytes := bytes, address := address, value := value, write := true }] ∧
      ∀ k, k ≠ host → t.host k = s.host k) ∧
    ((s.host host).held = [{ bytes := bytes, address := address, value := value, write := true }] →
      ∃ t, exec (.heldWriteRelease host) s = .next t ∧
        exec (.registerWrite (host + 1) bytes address value false) (s.setHost host {}) = .next t) ∧
    ∀ (part : Nat) (mask : BitVec 8) (report : TrainReport),
      let init := host + 1
      let v := value.toNat
      let page := address.toNat
      ∀ e ∈ [(Instr.evtStatusWrite ⟨init, true⟩ address value, pageWordAddr page 0x020, v),
        (.expertKey ⟨init, true⟩ address value, pageWordAddr page 0x008, v),
        (.expertLock ⟨init, true⟩ address value, pageWordAddr page 0x00C, v),
        (.evtForce ⟨init, true⟩ address value, pageWordAddr page 0x028, v),
        (.shadowDiscard ⟨init, true⟩ address value, pageWordAddr page 0xF00, v),
        (.opkeyBurn ⟨init, true⟩ value, pnFuse * 0x1000 + 0x840, v),
        (.almanacTailWrite ⟨init, true⟩ core ctx value, almTailAddr core ctx, v),
        (.linkReqTailWrite ⟨init, true⟩ part value, reqTailAddr part, v),
        (.portTraining ⟨init, true⟩ core value report, linkCtlAddr core, v),
        (.ctxOpen ⟨init, true⟩ ctx, linkCmdAddr, ctx + 2 ^ 12), (.ctxClose ⟨init, true⟩ ctx, linkCmdAddr, ctx + 2 ^ 13),
        (.admitJob ⟨init, true⟩ part, jobCmdAddr part, 1), (.endJob ⟨init, true⟩ part mask, jobCmdAddr part, 2 + 16 * mask.toNat),
        (.jobCmdBoundary ⟨init, true⟩ part, jobCmdAddr part, 3), (.suspend ⟨init, true⟩ part ctx, ctxCmdAddr part, ctxCmd ctx 1),
        (.resume ⟨init, true⟩ part ctx, ctxCmdAddr part, ctxCmd ctx 2),
        (.discard ⟨init, true⟩ part ctx, ctxCmdAddr part, ctxCmd ctx 3), (.seal ⟨init, true⟩ part, sealCmdAddr, sealCmd part 1),
        (.unseal ⟨init, true⟩ part, sealCmdAddr, sealCmd part 2), (.load ⟨init, true⟩ part, sealCmdAddr, sealCmd part 3),
        (.attest ⟨init, true⟩ part, sealCmdAddr, sealCmd part 4), (.bootOk ⟨init, true⟩ value, bootOkAddr, v),
        (.warmReset ⟨init, true⟩ value, bootResetAddr, v), (.dieReset ⟨init, true⟩ value, bootResetAddr, v),
        (.coreReset ⟨init, true⟩ value, bootResetAddr, v)],
        exec e.1 s = exec (.registerWrite init 4 (BitVec.ofNat 32 e.2.1) (BitVec.ofNat 32 e.2.2) true) s

/-- Reads that change something: a counter's low word latches the high word for its initiator, whose next read of the high
word takes the latched value, whatever the counter holds by then; the count of dropped records is 0 after it is read. How far
a counter of what time alone shows has moved on at a read is log entry 68. -/
def Obligations.CounterHalvesRead : Prop :=
  ∀ (s : State) (init pn k : Nat) (low high : Word) (i : PageId) (w : Word), page? pn = some i → pn < 0x10000 →
    let latched := k < counterCount i.ty ∧ low.toNat = pn * 0x1000 + 0x080 + 8 * k ∧ high.toNat = low.toNat + 4
    (latched → Served s init low.toNat false → ∃ t, exec (.counterLowRead ⟨init, 4⟩ low) s = .next t ∧
      Changes [.free, .pages, .out] s t ∧ t.out = s.out ++ [.readData init low ((t.counter pn k).setWidth 32)] ∧
      mget? (t.page pn).latches (latchKey init (0x080 + 8 * k)) = some ((t.counter pn k).extractLsb' 32 32) ∧
      (openCounter s i k = false → t.free = s.free ∧ t.counter pn k = s.counter pn k) ∧
      (∀ j, j ≠ k → t.counter pn j = s.counter pn j) ∧ (∀ off, t.reg pn off = s.reg pn off) ∧
      ∀ j, j ≠ pn → t.page j = s.page j) ∧
    (latched → Served s init high.toNat false → mget? (s.page pn).latches (latchKey init (0x080 + 8 * k)) = some w →
      ∃ t, exec (.rcRead ⟨init, 4⟩ high) s = .next t ∧ Changes [.pages, .out] s t ∧ t.out = s.out ++ [.readData init high w] ∧
        mget? (t.page pn).latches (latchKey init (0x080 + 8 * k)) = none) ∧
    (∀ r, r < 5 → low.toNat = pnCrier * 0x1000 + 0x210 + r * 0x20 → Served s init low.toNat false →
      ∃ t, exec (.rcRead ⟨init, 4⟩ low) s = .next t ∧ Changes [.pages, .crier, .out] s t ∧
        t.out = s.out ++ [.readData init low (s.crierRing r).dropped] ∧
        t.crierRing r = { s.crierRing r with dropped := 0 } ∧ (∀ j, j ≠ r → t.crierRing j = s.crierRing j) ∧
        ∀ pn off, t.reg pn off = s.reg pn off)

/-- A frame of the management port: one that is not for this port, or comes in minimal mode or while the port is off, is
counted and discarded; one with a bad header is answered with its entries and none is performed; a good one is answered
with as many entries as it has, each with its mark. That a frame which has come shows the link as up is log entry 98. -/
def Obligations.ManagementFrameAnswered : Prop :=
  ∀ (s : State) (f : MgmtFrame), domOn s domCtl = true →
    let taken := mgmtOn s = true ∧ s.boot.minimal = false ∧ f.fcsOk = true ∧ f.etherType = 0x88B7#16 ∧ f.dest = s.fuses.mgmtMac
    (¬ taken → ∃ t, exec (.registerAccessFrame f) s = .next t ∧ Changes [.pages, .power] s t ∧
      t.power = { s.power with mgmtUp := true } ∧ (∀ k, k ≠ pnMgmt → t.page k = s.page k) ∧
      t.counter pnMgmt 0 = s.counter pnMgmt 0 + 1 ∧ t.counter pnMgmt 2 = s.counter pnMgmt 2 + 1) ∧
    (taken → frameGood f = false → ∃ t, exec (.registerAccessFrame f) s = .next t ∧ Changes [.pages, .out, .power] s t ∧
      t.power = { s.power with mgmtUp := true } ∧ (∀ k, k ≠ pnMgmt → t.page k = s.page k) ∧ t.counter pnMgmt 1 = s.counter pnMgmt 1 + 1 ∧
      t.out = s.out ++ [.mgmtAnswer f.source f.seq true f.entries []]) ∧
    (taken → frameGood f = true → ∃ t es ms, exec (.registerAccessFrame f) s = .next t ∧
      t.out.getLast? = some (.mgmtAnswer f.source f.seq false es ms) ∧
      es.length = f.entries.length ∧ ms.length = f.entries.length ∧ es.map (·.address) = f.entries.map (·.address))

/-! ### Command rings -/

/-- A served doorbell moves the ring's tail, latches the descriptors of the records it newly covers, and changes nothing
else of the core, unless it would place the tail more than the ring's size past the head: then it is ignored and recorded in
the SEQ page. How a latched descriptor is kept is log entry 114. -/
def Obligations.DoorbellMovesTail : Prop :=
  ∀ (s : State) (init core ctx : Nat) (value : Word), core < 160 → ctx < 8 → Served s init (tailAddr core ctx) true →
    let ring := (s.core core).ring ctx
    let tail := BitVec.ofNat 16 value.toNat
    let n := (tail - ring.head).toNat
    let old := (ring.tail - ring.head).toNat
    let s0 := disarm s (pnSeq core)
    let latched := if ringPlaced s0 core ctx then latchFrom s0 core ctx (ring.head.toNat + old) (n - old) ring else ring
    ∃ t, exec (.doorbell init core ctx value false) s = .next t ∧ Changes [.pages, .cores] s t ∧
      (∀ k, k ≠ pnSeq core → t.page k = s.page k) ∧ (∀ off, t.reg (pnSeq core) off = s.reg (pnSeq core) off) ∧
      (∀ g, g ≠ core → t.core g = s.core g) ∧
      (n ≤ 2 ^ ringLog2 s core ctx → t.core core = (s.core core).setRing ctx { latched with tail := tail }) ∧
      (2 ^ ringLog2 s core ctx < n → t.core core = s.core core ∧
        (t.page (pnSeq core)).capture = some ((s.page (pnSeq core)).capture.getD
          (BitVec.ofNat 512 (accessRecord s 7 init true (tailAddr core ctx) value.toNat))))

/-- The next record of a ring is fetched and dispatched: a checked record joins the end of its queue, or acts in its ring
or holds it, is counted as fetched and is outstanding; one that its check refuses completes with DESCRIPTOR_INVALID and its
reason, and the trap is raised. Memory with no error to correct is left as it is, and of the pages only those of the SLABs count
what is read. A decode member that is refused tells its group (R267). Which level and page a refusal is recorded at is log entry
14. -/
def Obligations.RecordDispatched : Prop :=
  ∀ (s : State) (core ctx : Nat), recomputeNext s core ctx = none → mayDispatch s core ctx = true →
    ringWaits s core ctx = true → ringPlaced s core ctx = true → (s.core core).gather = none → NoErrors s →
    let ring := (s.core core).ring ctx
    let i := ring.fetched.toNat
    let c := resolveDeps ring { ctx := ctx, idx := i, words := viewWords s (recordKey s core ctx i) 16,
                                latched := mget [] ring.latched i }
    let s1 := s.modRing core ctx (enroll c)
    let w : Who := { whoOf s1 core ctx with latched := c.latched }
    let left (t : State) : Prop := Changes [.pages, .cores, .parts] s t ∧ (∀ g, g ≠ core → t.core g = s.core g) ∧
      ((t.core core).ring ctx).fetched = ring.fetched + 1 ∧ ((t.core core).ring ctx).outstanding = ring.outstanding ++ [i]
    queueRoom s core c = true →
    (∀ ds, checkRecord s1 w c = .ok ds →
      (∀ q, c.queue? = some q → ∃ t, exec (.recordFetch core ctx) s = .next t ∧ left t ∧
        (∀ pn, (∀ d, pn ≠ pnSlab d) → t.page pn = s.page pn) ∧
        (t.core core).queue q = (s.core core).queue q ++ [c.withDescs ds]) ∧
      (c.queue? = none → ∃ t, exec (.recordFetch core ctx) s = .next t ∧ left t ∧ t.parts = s.parts ∧
        t.counter (pnSeq core) 3 = s.counter (pnSeq core) 3 + 1 ∧
        (c.opcode = opNop ∨ c.opcode = opSignal → ((t.core core).ring ctx).acting = ring.acting ++ [c.withDescs ds]) ∧
        (c.opcode ≠ opNop → c.opcode ≠ opSignal → ((t.core core).ring ctx).hold = some (c.withDescs ds)))) ∧
    (∀ reason ptr, checkRecord s1 w c = .refuse reason ptr →
      ∃ t, exec (.recordFetch core ctx) s = .next t ∧ ((t.core core).ring ctx).fetched = ring.fetched + 1 ∧
        (c.opcode ≠ opAttnDecode → Completes s1 t core c { status := stDescriptor, detail := reason } ∧
          ∃ tr, t.crier.pending = s.crier.pending ++ [tr] ∧ tr.rings = [(partOfCore s core).getD 4]) ∧
        (c.opcode = opAttnDecode → ((t.core core).ring ctx).outstanding = (ring.outstanding ++ [i]).erase i ∧ ∃ tr ∈ t.crier.pending,
          tr.rings = [(partOfCore s core).getD 4]))

/-- The commands that act as their ring dispatches them. NOP completes once its dependences are met, with DEP_FAILED where one
has failed, FENCE once every earlier record of its ring has completed, WAIT once its semaphore meets its condition: the ring
then holds none of them any more. A WAIT's timeout, if it has one and passes first, completes it with TIMEOUT and stops
dispatch from the ring. -/
def Obligations.RingCommandsComplete : Prop :=
  ∀ (s : State) (core ctx : Nat) (c : CmdRec), c.ctx = ctx →
    let p := (partOfCore s core).getD 4
    let framed (t : State) : Prop := EntryPlaced s core c → Changes [.mem, .pages, .cores, .sched, .parts] s t
    let waits := holdingRec s core ctx opWait = some c ∧ depsOf c = .met ∧
      badUnit s (semKey s p ctx (bits (c.w 4) 7 0)) 4 = none
    (actingRec s core ctx opNop = some c → depsOf c ≠ .waiting →
      ∃ t, exec (.nop core ctx) s = .next t ∧
        Completes s t core c { status := if c.depFailed then stDepFailed else stOk } ∧ framed t) ∧
    (holdingRec s core ctx opFence = some c → earlierDone s core c = true →
      ∃ t, exec (.fence core ctx) s = .next t ∧ Completes s t core c {} ∧ ((t.core core).ring ctx).hold = none ∧
        framed t) ∧
    (waits → waitHolds s p c = true → ∃ t, exec (.wait core ctx) s = .next t ∧ Completes s t core c {} ∧
      ((t.core core).ring ctx).hold = none ∧ framed t) ∧
    (waits → waitHolds s p c = false → exec (.wait core ctx) s = .next s) ∧
    (waits → waitHolds s p c = false → c.w 6 ≠ 0 → c.w 6 ≤ ((s.core core).ring ctx).waited →
      ∃ t, exec (.waitTimeout core ctx) s = .next t ∧ Completes s t core c { status := stTimeout } ∧
        ((t.core core).ring ctx).hold = none ∧ ((t.core core).ring ctx).stopped = true ∧ framed t)

/-- SIGNAL, once every earlier record of its ring has completed, adds its value to the semaphore modulo 2^32 or sets it, and
completes: no other byte of memory changes but its completion entry. -/
def Obligations.SignalWritesSemaphore : Prop :=
  ∀ (s : State) (core ctx : Nat) (c : CmdRec), c.ctx = ctx → actingRec s core ctx opSignal = some c →
    earlierDone s core c = true →
    let p := (partOfCore s core).getD 4
    let key := semKey s p ctx (bits (c.w 4) 7 0)
    let v := if bits (c.w 4) 9 8 = 0 then (semValue s p ctx (bits (c.w 4) 7 0) + c.w 5) % 2 ^ 32 else c.w 5 % 2 ^ 32
    PlainStore s key 4 → badUnit s key 4 = none →
    ∃ t, exec (.signal core ctx) s = .next t ∧ Completes (memWrite s key (leBytes 4 v)) t core c {} ∧
      (EntryPlaced s core c → Changes [.mem, .pages, .cores, .sched, .parts] s t) ∧
      ∀ k ∈ ((t.core core).ring ctx).acting, k.idx ≠ c.idx

/-- BOUNDARY, with every earlier record completed: outside the TRAINING job's partition it makes a partition boundary 256
bell ticks after its dispatch, the earliest due first, in that partition it waits for the step boundary; in a tick after its boundary it completes,
and in the boundary's own tick it does not. The partition boundary that is due passes: it is no longer under way, the
step-failed state of the partition's contexts is cleared, and a BOUNDARY that waited for it is released; one made through
JOB_CMD clears the state alike. That the boundary comes at once where earlier records took longer than 256 ticks is log
entry 32. -/
def Obligations.BoundariesPass : Prop :=
  ∀ (s : State) (core ctx part init : Nat) (at_ : Long) (rest : List Long) (c : CmdRec),
    let p := (partOfCore s core).getD 4
    let ring := (s.core core).ring ctx
    let holds := c.ctx = ctx ∧ holdingRec s core ctx opBoundary = some c
    let due := if ring.holdAt + 256 ≤ s.bell.count then s.bell.count else ring.holdAt + 256
    (holds → ring.released = true → ring.boundaryAt.getD 0 < s.bell.count → ∃ t, exec (.boundary core ctx) s = .next t ∧
      Completes s t core c {} ∧ ((t.core core).ring ctx).hold = none) ∧
    (holds → ring.released = true → ¬ ring.boundaryAt.getD 0 < s.bell.count → exec (.boundary core ctx) s = .next s) ∧
    (holds → ring.released = false → ring.boundaryAt = none → earlierDone s core c = true → (s.core core).gather = none →
      ∃ t, exec (.boundary core ctx) s = .next t ∧ Changes [.cores, .parts] s t ∧
        (trainingPart s = some p → (t.core core).ring ctx = { ring with boundaryAt := some s.bell.count } ∧ t.parts = s.parts) ∧
        (trainingPart s ≠ some p → (t.core core).ring ctx = { ring with boundaryAt := some due } ∧
          t.part p = { s.part p with boundaries := insertDue due (s.part p).boundaries })) ∧
    (part < 4 → trainingPart s ≠ some part → (s.part part).boundaries = at_ :: rest → at_ ≤ s.bell.count →
      ∃ t, exec (.partitionBoundary part) s = .next t ∧ Changes [.pages, .cores, .parts, .crier] s t ∧
        (t.part part).boundaries = rest ∧ (∀ x, x < 8 → ((t.part part).ctx x).stepFailed = false) ∧
        ∀ g x, g ∈ coresOfPart s part → ((s.core g).ring x).boundaryAt = some at_ →
          ((t.core g).ring x).released = true ∧ ((t.core g).ring x).boundaryAt = some s.bell.count) ∧
    (part < 4 → trainingPart s ≠ some part → Served s init (jobCmdAddr part) true →
      ∃ t, exec (.jobCmdBoundary ⟨init, false⟩ part) s = .next t ∧ Changes [.pages, .cores, .parts, .crier] s t ∧
        (t.part part).boundaries = (s.part part).boundaries ∧ ∀ x, x < 8 → ((t.part part).ctx x).stepFailed = false)

/-- A landed tile becomes resident, and the oldest committed command of a queue completes when its last write-back is
acknowledged, with the status and the readout summary it committed with. How many tiles a command stages is log entry 22. -/
def Obligations.TilesLandAndWriteBacksEnd : Prop :=
  ∀ (s : State) (core : Nat) (q : QueueId),
    (∀ x rest, (s.core core).landing = x :: rest → (s.core core).gather.any GatherGroup.due = false →
      ∃ t, exec (.tileResident core) s = .next t ∧ Changes [.pages, .cores] s t ∧
        t.core core = { s.core core with landing := rest } ∧ (∀ g, g ≠ core → t.core g = s.core g) ∧
        t.counter (pnLs core) 0 = s.counter (pnLs core) 0 + 1 ∧ ∀ k, k ≠ pnLs core → t.page k = s.page k) ∧
    (∀ f, oldestFlight s core q = some f → f.linkWait = 0 →
      ∃ t, exec (.writebackAck core q) s = .next t ∧
        (EntryPlaced s core f.cmd → Changes [.mem, .pages, .cores, .sched, .parts] s t) ∧
        (t.core core).inflight = eraseFirst (fun k => k.queue == q) (s.core core).inflight ∧
        Completes s t core f.cmd { status := f.status.toNat, summary := f.summary.toNat, rowEmpty := f.rowEmpty,
                                   detail := f.detail.toNat, tiles := f.tiles, endAt := f.endAt + 1 })

/-- The crier writes the oldest trap's record into its ring and moves the tail on, or counts it as dropped where the ring is
full or off: no record is overwritten, and every record is counted. That a partition's ring writes no other partition's hub SRAM
is log entry 145. No die controller halts but the one that serves the
trap's core, with the trap's code, and the cores that a halted one serves issue nothing; which traps halt one is log entry
95. -/
def Obligations.TrapRecorded : Prop :=
  ∀ (s : State) (tr : Trap) (rest : List Trap) (k : Nat), s.crier.pending = tr :: rest → tr.rings = [k] →
    let r := s.crierRing k
    let n := 2 ^ trapRingLog2 s k
    let key := s.regAddr pnCrier (0x200 + k * 0x20) + 64 * (r.tail.toNat % n)
    let halts (t : State) : Prop := ∀ g q op, g < 160 → (dieCtlOf t g).halted = true → frontOf t g q op = none ∧
      ((dieCtlOf s g).halted = true ∨ (bits tr.record.toNat 31 24 / 20 = g / 20 ∧ (dieCtlOf t g).haltCode = tr.record.setWidth 8))
    let room := (trapRingHi s k).testBit 31 = true ∧ (r.tail - r.head).toNat ≠ n ∧ slotForeign s k key = false
    (room → PlainStore s key 64 → ∃ t, exec .trapRecord s = .next t ∧ Changes [.mem, .pages, .dies, .crier] s t ∧ halts t ∧
      t.crier.pending = rest ∧ t.counter pnCrier 0 = s.counter pnCrier 0 + 1 ∧
      t.crierRing k = { r with tail := r.tail + 1 } ∧
      ∀ a, memByte t a = memByte (memWrite s key (leBytes 64 tr.record.toNat)) a) ∧
    (¬ room → ∃ t, exec .trapRecord s = .next t ∧ Changes [.pages, .dies, .crier] s t ∧ halts t ∧
      t.crier.pending = rest ∧ t.counter pnCrier 0 = s.counter pnCrier 0 + 1 ∧ (t.crierRing k).tail = r.tail ∧
      (t.crierRing k).dropped = (if r.dropped = BitVec.allOnes 32 then r.dropped else r.dropped + 1))

/-! ### The almanac -/

/-- A served write of an almanac ring's TAIL is taken, and the ring goes on from there, unless it lies more than the ring's
size past HEAD: then it is ignored and recorded. With one entry to read, which its check accepts, that entry joins the ring
and waits, but a window whose gate was not met at its time: that is skipped, counted and done. That an entry whose time has come has its window's gate settled as it is read is log entry 115. -/
def Obligations.AlmanacTailMoves : Prop :=
  ∀ (s : State) (init die ring : Nat) (value : Word), die < 4 → ring < 32 → Served s init (almTailAddr die ring) true →
    let r := (s.die die).ring ring
    let tail := BitVec.ofNat 17 value.toNat
    let s1 := (disarm s (pnAlm die)).modDie die fun v => v.setRing ring { r with tail := tail }
    let key := s.regAddr (pnAlm die) (almReg ring 0) + 32 * (r.fetched.toNat % 2 ^ almLog2 s die ring)
    let e : Entry := sampleGate s1 ring { pos := r.fetched.toNat, words := viewWords s1 key 8 }
    (2 ^ almLog2 s die ring < (tail - r.head).toNat → ∃ t, exec (.almanacTailWrite ⟨init, false⟩ die ring value) s = .next t ∧
      OnlyPage (pnAlm die) s t ∧ (t.page (pnAlm die)).capture = some ((s.page (pnAlm die)).capture.getD
        (BitVec.ofNat 512 (accessRecord s 7 init true (almTailAddr die ring) value.toNat)))) ∧
    ((tail - r.head).toNat ≤ 2 ^ almLog2 s die ring →
      exec (.almanacTailWrite ⟨init, false⟩ die ring value) s = .next (settleRing s1 die ring)) ∧
    ((tail - r.head).toNat ≤ 2 ^ almLog2 s die ring → r.entries = [] → almOn s die ring = false ∨ r.fetched = tail →
      ∃ t, exec (.almanacTailWrite ⟨init, false⟩ die ring value) s = .next t ∧ Changes [.pages, .dies] s t ∧
        (t.die die).ring ring = { r with tail := tail }) ∧
    ((tail - r.head).toNat ≤ 2 ^ almLog2 s die ring → r.entries = [] → almOn s die ring = true → r.fetched + 1 = tail →
      tierOf key = 1 → bits key 43 36 / 40 = die → inGrants s1 (entryWho die ring) false key 32 = true →
      s.bad = [] → s.softBad = [] → checkEntry s1 die ring r.lastTime.toNat e = 0 →
      ∃ t, exec (.almanacTailWrite ⟨init, false⟩ die ring value) s = .next t ∧
        (isSkipped e = false → Changes [.pages, .dies] s t ∧ (t.die die).ring ring =
          { r with tail := tail, fetched := tail, entries := [e], lastTime := BitVec.ofNat 64 e.time }) ∧
        (isSkipped e = true → Signals s ring e → ((t.die die).ring ring).entries = [] ∧
          t.counter (pnAlm die) 5 = s.counter (pnAlm die) 5 + 1 ∧ ∀ a, memByte t a = memByte (signalled s ring e) a))

/-- An entry that may fire is in flight; WAKE is done at once and interrupts the hosts, and CHECKPOINT is skipped and done
unless the last toll's result was COMMIT. The ring then goes on from `u`. -/
def Obligations.EntriesFire : Prop :=
  ∀ (s : State) (die ring : Nat) (e : Entry),
    (firing s die ring actWake true = some e → Signals s ring e →
      ∃ u, exec (.wake die ring) s = .next ((settleRing u die ring).emit (.almanacIrq die ring)) ∧
        EntryEnds s u die ring e id ∧ u.counter (pnAlm die) 0 = s.counter (pnAlm die) 0 + 1) ∧
    (firing s die ring actPrefetch true = some e → keyRemote (entryKey s die ring e.source) = false →
      ∃ t, exec (.prefetch die ring) s = .next t ∧ Changes [.pages, .dies] s t ∧ Fired s t die ring e) ∧
    (firing s die ring actPrefetch true = some e → keyRemote (entryKey s die ring e.source) = true →
      lenderCtxs s (entryWho die ring) e.source ≠ [] →
      ∃ t, exec (.prefetch die ring) s = .next t ∧ Changes [.out, .pages, .dies, .links] s t ∧ Fired s t die ring e) ∧
    (firing s die ring actCheckpoint true = some e → s.sched.tollResult = 1 →
      keyRemote (entryKey s die ring e.source) = false →
      ∃ t, exec (.checkpoint die ring) s = .next t ∧ Changes [.pages, .dies] s t ∧ Fired s t die ring e) ∧
    (firing s die ring actCheckpoint true = some e → s.sched.tollResult ≠ 1 → Signals s ring e →
      ∃ u, exec (.checkpoint die ring) s = .next (settleRing u die ring) ∧ EntryEnds s u die ring e id ∧
        u.counter (pnAlm die) 5 = s.counter (pnAlm die) 5 + 1)

/-- A copy of bytes that this device holds completes: TARGET holds SOURCE's bytes, as a read finds them, and the entry is
done. A transfer that fails, and one that waits WAIT_LIMIT past its deadline, fail the entry. -/
def Obligations.CopiesLandOrFail : Prop :=
  ∀ (s : State) (die ring pos : Nat) (e : Entry), entryOf s die ring pos = some e → Signals s ring e →
    let src := entryKey s die ring e.source
    let dst := entryKey s die ring e.target
    (e.phase = .inFlight → e.action = actPrefetch ∨ e.action = actCheckpoint → e.copying = none → e.moved = false →
      e.missed = false → ringRuns s ring = true → keyRemote src = false → keyRemote dst = false →
      badUnit s src e.bytes = none → PlainStore s dst e.bytes →
      ∃ u, exec (.entryComplete die ring pos true) s = .next (settleRing u die ring) ∧
        EntryEnds (memWrite s dst (viewBytes s src e.bytes)) u die ring e id) ∧
    (e.phase = .inFlight → movesData e.action = true →
      ∃ u, exec (.entryComplete die ring pos false) s = .next (settleRing u die ring) ∧ EntryFails s u die ring e) ∧
    (movesData e.action = true → e.phase ≠ .done → e.missed = true → e.fallback = fbWait ∨ e.fallback = fbLocalCopy →
      ringSelfTimed s ring = false → e.deadline + s.regN (pnAlm die) 0x100 ≤ s.bell.count.toNat →
      ∃ u, exec (.waitLimitExpiry die ring pos) s = .next (settleRing u die ring) ∧ EntryFails s u die ring e)

/-- An entry that is not done at its deadline is a miss: it is counted, and raises the trap unless MISS is still set; a WAKE,
a window that waits to open and an entry that waits go on waiting, one that skips is done, and one that recomputes takes the
list of its fallback record; one that had not fired takes no slot of the 256 (log entry 142). -/
def Obligations.DeadlineMissed : Prop :=
  ∀ (s : State) (die ring pos : Nat) (e : Entry), entryOf s die ring pos = some e → hasDeadline e = true →
    e.phase ≠ .done → e.missed = false → ringSelfTimed s ring = false → e.deadline < s.bell.count.toNat →
    let moves := movesData e.action = true
    let who := entryWho die ring
    let at_ := fallbackKey s die ring e
    let ws := viewWords s (keyOf s who at_) 4
    let list := wordAt ws 0 + 2 ^ 32 * bits (wordAt ws 1) 15 0
    let core := bits (wordAt ws 1) 23 16
    let n := bits (wordAt ws 2) 11 0
    (¬ moves ∨ e.fallback = fbWait → ∃ t, exec (.deadlineMiss die ring pos) s = .next t ∧ Changes [.pages, .dies, .crier] s t ∧
      ((t.die die).ring ring).entries = ((s.die die).ring ring).entries.map (fun v =>
        if v.pos = e.pos then { v with missed := true } else v) ∧
      t.counter (pnAlm die) 1 = s.counter (pnAlm die) 1 + 1 ∧
      t.counter (pnAlm die) 2 = s.counter (pnAlm die) 2 + (if movesData e.action then 1 else 0) ∧
      (t.page (pnAlm die)).evtStatus = (s.page (pnAlm die)).evtStatus ||| 1 ∧
      ((s.page (pnAlm die)).evtStatus.getLsbD 0 = false → ∃ tr, t.crier.pending = s.crier.pending ++ [tr] ∧
        tr.rings = [ringPart ring])) ∧
    (moves → e.fallback = fbSkip → Signals s ring e →
      ∃ u, exec (.deadlineMiss die ring pos) s = .next (settleRing u die ring) ∧
        EntryEnds s u die ring e (fun v => { v with missed := true }) ∧
        u.counter (pnAlm die) 1 = s.counter (pnAlm die) 1 + 1 ∧ u.counter (pnAlm die) 5 = s.counter (pnAlm die) 5 + 1) ∧
    (moves → e.fallback = fbRecompute → tierOf at_ ≠ 4 → granted s who false at_ 16 = true →
      badUnit s (keyOf s who at_) 16 = none →
      bits (wordAt ws 1) 31 24 = 0 → bits (wordAt ws 2) 31 12 = 0 → wordAt ws 3 = 0 → n ≠ 0 → list % 64 = 0 →
      tierOf list = 1 ∨ tierOf list = 2 → granted s who false list (64 * n) = true → core / 40 = die →
      partOfCore s core = some who.part →
      ∃ t, exec (.deadlineMiss die ring pos) s = .next t ∧ Changes [.softBad, .pages, .dies, .crier, .links, .flash] s t ∧
        t.counter (pnAlm die) 3 = s.counter (pnAlm die) 3 + 1 ∧
        ((t.die die).ring ring).entries = ((s.die die).ring ring).entries.map (fun v => if v.pos = e.pos then
          { v with phase := .inFlight, missed := true, moved := false, unslotted := v.unslotted || v.phase == .waiting,
                   list := some (list, core, n), recompute := n } else v))

/-- SEND sends its TILE_RTS with the transfer's size as the next message of its context, and RECV_EXPECT arms a reception;
without a READY context SEND fails. Of a context of another partition an entry is refused. -/
def Obligations.SendAndReceiveArm : Prop :=
  ∀ (s : State) (die ring : Nat) (e : Entry),
    (firing s die ring actSend true = some e → (s.peer e.target).phase = .ready → (s.peer e.target).part = ringPart ring →
      ∃ t u, exec (.send die ring) s = .next t ∧ Fired s t die ring e ∧
        (t.peer e.target).sendSeq = (s.peer e.target).sendSeq + 1 ∧ u ∈ (t.peer e.target).unacked ∧
        u.msg.op = .tileRts ∧ u.msg.mseq = (s.peer e.target).sendSeq ∧ u.msg.operand = BitVec.ofNat 64 e.bytes ∧
        u.waiter = .entry die ring e.pos) ∧
    (firing s die ring actSend true = some e → (s.peer e.target).phase ≠ .ready ∨ entryCtxOk s ring e.target = false →
      Signals s ring e → ∃ u, exec (.send die ring) s = .next (settleRing u die ring) ∧ EntryFails s u die ring e) ∧
    (firing s die ring actRecv true = some e → entryCtxOk s ring e.source = false → Signals s ring e →
      ∃ u, exec (.recvExpect die ring) s = .next (settleRing u die ring) ∧ EntryFails s u die ring e) ∧
    (firing s die ring actRecv true = some e → (s.peer e.source).phase ≠ .error → entryCtxOk s ring e.source = true →
      (s.links.rtsWaits.find? fun r => r.ctx == e.source) = none →
      ∃ t, exec (.recvExpect die ring) s = .next t ∧ Changes [.pages, .dies, .links] s t ∧ Fired s t die ring e ∧
        t.links = { s.links with recvs := s.links.recvs ++
          [{ die := die, ring := ring, pos := e.pos, ctx := e.source, target := e.target, size := e.bytes }] })

/-- A BOUNDARY is armed to its time, at least 256 bell ticks away; armed later it goes to the tick 256 away, and is counted
as a miss and raises BOUNDARY_LATE; self-timed it goes to the next tick. -/
def Obligations.BoundaryArmed : Prop :=
  ∀ (s : State) (die ring : Nat) (e : Entry), armable s die ring = some e → (s.die die).armed = none →
    let now := s.bell.count.toNat
    let self_ := ringSelfTimed s ring
    ∃ t, exec (.boundaryArm die ring) s = .next t ∧ Changes [.pages, .dies, .crier] s t ∧
      (∀ d, d ≠ die → t.die d = s.die d) ∧
      t.die die = { s.die die with armed := some (BitVec.ofNat 64 (if self_ then now + 1
        else if now + 256 ≤ e.time then e.time else now + 256), ring, e.pos) } ∧
      (self_ = true ∨ now + 256 ≤ e.time → t.pages = s.pages ∧ t.crier = s.crier) ∧
      (self_ = false → e.time < now + 256 → t.counter (pnAlm die) 1 = s.counter (pnAlm die) 1 + 1 ∧
        (t.page (pnAlm die)).evtStatus = (s.page (pnAlm die)).evtStatus ||| 5)

/-- The step boundary acts on the toll's result, FAIL where none is held: only COMMIT turns the bank map and adds 1 to the
epoch; the result is shown and counted, the toll is over, and the die is armed no longer. -/
def Obligations.StepBoundaryDecides : Prop :=
  ∀ (s : State) (p die ring pos : Nat) (at_ : Long), trainingPart s = some p → leadDie s p = some die →
    (s.die die).armed = some (at_, ring, pos) → boundaryDue s ring at_.toNat = true →
    let result := s.sched.held.getD .fail
    ∃ t, exec .stepBoundary s = .next t ∧
      t.sched.mapSel = (s.sched.mapSel != decide (result = .commit)) ∧
      t.sched.epoch = s.sched.epoch + (if result = .commit then 1 else 0) ∧
      t.sched.tollResult = BitVec.ofNat 2 (tollCode result) ∧ t.sched.held = none ∧ t.sched.tollSeen = false ∧
      t.counter pnSched 0 = s.counter pnSched 0 + (if result = .commit then 1 else 0) ∧
      t.counter pnSched 1 = s.counter pnSched 1 + (if result = .fail then 1 else 0) ∧
      t.counter pnSched 2 = s.counter pnSched 2 + (if result = .split then 1 else 0) ∧ (t.die die).armed = none

/-- TOLL forms this device's vote: a device that is alone in its job holds the result at once and the entry is done, a leaf
of the tree sends the vote to its parent, and a node waits for its children. At a level's deadline a node combines the vote
of its child, a missing one as FAIL. The layout of the vote in its message is log entry 40. -/
def Obligations.TollVotes : Prop :=
  ∀ (s : State) (p die ring : Nat) (j : Job) (e : Entry), trainingJob s = some (p, j) →
    let n := j.devlist.length
    let own := ownVote s (gateMet s ring e)
    let up := topLevel n j.rank
    (tollDue s die ring = some e → ringSelfTimed s ring = false → up ≠ 0 →
      ∃ t, exec (.toll die ring) s = .next t ∧ Changes [.pages, .dies, .sched] s t ∧ Fired s t die ring e ∧
        t.sched = { s.sched with tollTime := some (BitVec.ofNat 64 e.time), tollEntry := some (die, ring, e.pos),
                                 tollSeen := true, selfTimed := false, held := none, combined := some (own, 0) }) ∧
    (tollDue s die ring = some e → ringSelfTimed s ring = false → up = 0 → j.rank ≠ 0 → ∀ c,
      jobRankCtx s p j (parentRank n j.rank) = some c → (s.peer c).phase = .ready →
      ∃ t u, exec (.toll die ring) s = .next t ∧ t.sched.tollSeen = true ∧ u ∈ (t.peer c).unacked ∧ u.msg.op = .vote ∧
        u.msg.mseq = (s.peer c).sendSeq ∧ u.msg.data = voteBytes own) ∧
    (tollDue s die ring = some e → ringSelfTimed s ring = false → n = 1 → j.rank = 0 → e.phase = .waiting →
      ∃ t, exec (.toll die ring) s = .next t ∧ t.sched.held = some own.result ∧ t.sched.tollSeen = true) ∧
    (∀ v level, s.sched.combined = some (v, level) → ∀ at_ : Long, s.sched.tollTime = some at_ → s.sched.selfTimed = false →
      level + 1 < up → at_.toNat + (level + 1) * tollHop s ≤ s.bell.count.toNat →
      ∃ t, exec (.tollLevelDeadline (level + 1)) s = .next t ∧ Changes [.pages, .sched] s t ∧
        (∀ c u, childAt n j.rank (level + 1) = some c → mget? s.sched.childVotes c = some u →
          t.sched = { s.sched with combined := some (v.combine u, level + 1) } ∧ t.pages = s.pages) ∧
        (∀ c, childAt n j.rank (level + 1) = some c → mget? s.sched.childVotes c = none →
          t.sched = { s.sched with
            combined := some ({ v with result := if v.result = .split then .split else .fail }, level + 1) } ∧
          t.counter pnSched 6 = s.counter pnSched 6 + 1))

/-- A window that may fire opens: the evaluation context's commands take the active bank map as it is then, the HBM controllers
begin their maintenance and their next channel. At its deadline a window closes and its entry is done; an evaluation window that
has closed is kept for what was dispatched in it. That a self-timed window opens when its entry fires is log entry 39; how the
gate at TIME is kept is log entry 115. -/
def Obligations.WindowsOpenAndClose : Prop :=
  ∀ (s : State) (die ring : Nat) (e : Entry),
    (firing s die ring actEval (ringSelfTimed s ring) = some e →
      ∃ t, exec (.evalWindow die ring) s = .next t ∧ Changes [.pages, .dies, .parts] s t ∧ Fired s t die ring e ∧
        (t.part (ringPart ring)).ctx (ringCtx ring) = { (s.part (ringPart ring)).ctx (ringCtx ring) with
          evalWins := ((s.part (ringPart ring)).ctx (ringCtx ring)).evalWins ++
            [{ entry := (die, ring, e.pos), map := viewBytes s (bankMapKey s s.sched.mapSel) 8192 }] }) ∧
    (windowEnds s die ring actEval = some e → Signals s ring e →
      ∃ u, exec (.evalWindowClose die ring) s = .next (settleRing u die ring) ∧ EntryEnds s u die ring e id ∧
        ∀ w ∈ ((u.part (ringPart ring)).ctx (ringCtx ring)).evalWins, w.entry = (die, ring, e.pos) → w.left.isSome) ∧
    (firing s die ring actRetrain (ringSelfTimed s ring) = some e →
      ∃ t, exec (.retrainWindow die ring) s = .next t ∧ (t.die die).retrainOpen = (s.die die).retrainOpen ++ [(ring, e.pos)] ∧
        Fired s t die ring e ∧
        ∀ k c, k < 2 → (s.hbmc die k).ready = true → (s.hbmc die k).repairQ = [] → (s.hbmc die k).retraining = none →
          (s.hbmc die k).trigWait = [] → nextChannel (s.hbmc die k) (s.hbmc die k).nextCh = some c →
          (t.hbmc die k).retraining = some (c, false)) ∧
    (windowEnds s die ring actRetrain = some e → Signals s ring e →
      ∃ u, exec (.retrainWindowClose die ring) s = .next (settleRing u die ring) ∧ EntryEnds s u die ring e id ∧
        (u.die die).retrainOpen = (s.die die).retrainOpen.erase (ring, e.pos))

/-! ### The bell -/

/-- A bell tick adds 1 to the count, and to what a WAIT of a running context has waited, and settles the gates of the windows
whose time it is: one whose gate is not met is skipped, counted and done. After a relock to a lower value the count stands until
the reference has come to it; with the domain BOOT off nothing happens. That a locked count waits for the
reference after a relock is R348; the watchdog in bell ticks is log entry 88. -/
def Obligations.BellCounts : Prop :=
  ∀ s : State,
    let runs := domOn s bootDomain = true ∧ (s.power.modRst = false ∨ s.power.shutdown = true)
    let now : State := { s with bell := { s.bell with count := s.bell.count + 1, ticks := s.bell.ticks + 1 } }
    let settled (d k : Nat) : List Entry := ((s.die d).ring k).entries.map (sampleGate now k)
    let skipped := s.dies.flatMap fun d => d.2.rings.flatMap fun r =>
      ((r.2.entries.map (sampleGate now r.1)).filter isSkipped).map fun e => (d.1, r.1, e)
    (¬ runs → exec .bellTick s = .next s) ∧
    (runs → s.bell.pauseLeft ≠ 0 → ∃ t, exec .bellTick s = .next t ∧ Changes [.pages, .bell, .power, .boot] s t ∧
      t.bell = { s.bell with pauseLeft := s.bell.pauseLeft - 1, ticks := s.bell.ticks + 1 } ∧
      t.counter pnBell 5 = s.counter pnBell 5 + 1) ∧
    (runs → s.bell.pauseLeft = 0 → skipped = [] → ∃ t, exec .bellTick s = .next t ∧
      Changes [.out, .pages, .cores, .dies, .bell, .links, .power, .boot] s t ∧ t.bell = now.bell ∧
      (∀ d k, ((t.die d).ring k).entries = settled d k) ∧
      ((s.bell.count + 1).toNat % 2 ^ 24 ≠ 0 → t.out = s.out ∧ t.links = s.links) ∧
      t.counter pnBell 4 = s.counter pnBell 4 + (if s.bell.holdover then 1 else 0) ∧
      t.boot = { s.boot with burnLeft := s.boot.burnLeft - 1,
                             watchdog := s.boot.watchdog + (if s.boot.bootOk then 0 else 1) } ∧
      ∀ g x c, ((s.core g).ring x).hold = some c → c.opcode = opWait → (s.core g).cur = some x →
        (s.core g).incoming = none → ((t.core g).ring x).waited = ((s.core g).ring x).waited + 1) ∧
    (∀ die ring e, runs → s.bell.pauseLeft = 0 → skipped = [(die, ring, e)] → settled die ring = [e] →
      ((s.die die).ring ring).fetched = ((s.die die).ring ring).tail → Signals s ring e →
      ∃ t, exec .bellTick s = .next t ∧ t.bell = now.bell ∧ ((t.die die).ring ring).entries = [] ∧
        t.counter (pnAlm die) 5 = s.counter (pnAlm die) 5 + 1 ∧ ∀ a, memByte t a = memByte (signalled s ring e) a)

/-- An epoch mark from BELL_REF locks an enabled unit after two good windows: the first one takes the epoch number loaded,
2^24 ticks each; one that finds a locked count off its multiple, and one that is missing while locked, are counted. The
first lock is as a relock (log entry 36). -/
def Obligations.EpochMarksLock : Prop :=
  ∀ s : State, bellEn s = true → bellSrcPort s = false →
    let epoch := s.regN pnBell 0x108 + 2 ^ 32 * bits (s.regN pnBell 0x10C) 7 0
    let now : State := { s with bell := { s.bell with count := BitVec.ofNat 64 (epoch * 2 ^ 24 % 2 ^ 64), pauseLeft := 0 } }
    (s.bell.locked = false → 2 ≤ s.bell.goodWindows → s.bell.everLocked = false →
      s.bell.count.toNat ≤ epoch * 2 ^ 24 % 2 ^ 64 → trainingPart s = none →
      (∀ d ∈ s.dies, ∀ r ∈ d.2.rings, ∀ e ∈ r.2.entries, isSkipped (sampleGate now r.1 e) = false) →
      ∃ t, exec (.epochMark true) s = .next t ∧ Changes [.out, .pages, .dies, .bell, .links] s t ∧ t.bell = { s.bell with
        count := BitVec.ofNat 64 (epoch * 2 ^ 24 % 2 ^ 64), pauseLeft := 0, locked := true, holdover := false,
        everLocked := true, selfTimed := false }) ∧
    (s.bell.locked = false → s.bell.goodWindows < 2 → exec (.epochMark true) s = .next s) ∧
    (s.bell.locked = true → s.bell.count.toNat % 2 ^ 24 ≠ 0 → ∃ t,
      exec (.epochMark true) s = .next t ∧ OnlyPage pnBell s t ∧ t.counter pnBell 2 = s.counter pnBell 2 + 1) ∧
    (s.bell.locked = true → s.bell.count.toNat % 2 ^ 24 = 0 → exec (.epochMark true) s = .next s) ∧
    (s.bell.locked = true → ∃ t, exec (.epochMark false) s = .next t ∧ OnlyPage pnBell s t ∧
      t.counter pnBell 2 = s.counter pnBell 2 + 1)

/-- A measurement window within 200 ppm counts as good; one beyond it, and every other failure of the reference, unlocks a
locked unit: it runs on in holdover, its almanacs self-timed, with the cause shown, the trap raised and the alert set. A
glitch is only counted. With the domain BOOT off or held in reset nothing is measured. -/
def Obligations.ReferenceFails : Prop :=
  ∀ (s : State) (cause : RefFault) (ppm : Int),
    let runs := s.power.modRst = false ∧ domOn s bootDomain = true
    let lost (t : State) (code : Nat) : Prop := Changes [.pages, .dies, .bell, .crier, .power] s t ∧ t.bell.locked = false ∧
      t.bell.holdover = true ∧ t.bell.selfTimed = true ∧ t.bell.cause = BitVec.ofNat 2 code ∧ t.bell.count = s.bell.count ∧
      t.power.alert = s.power.alert ||| 0x40 ∧ t.counter pnBell 0 = s.counter pnBell 0 + 1 ∧
      ∃ tr, t.crier.pending = s.crier.pending ++ [tr] ∧ tr.rings = [4, 0, 1, 2, 3]
    (runs → -200 ≤ ppm → ppm ≤ 200 → ∃ t, exec (.measurementWindow ppm) s = .next t ∧ Changes [.bell] s t ∧
      t.bell = { s.bell with ppm := BitVec.ofInt 16 ppm, goodWindows := s.bell.goodWindows + 1 }) ∧
    (runs → ppm < -200 ∨ 200 < ppm → s.bell.locked = true → ∃ t, exec (.measurementWindow ppm) s = .next t ∧ lost t 2) ∧
    (runs → ppm < -200 ∨ 200 < ppm → s.bell.locked = false → ∃ t, exec (.measurementWindow ppm) s = .next t ∧
      Changes [.bell] s t ∧ t.bell = { s.bell with ppm := BitVec.ofInt 16 ppm, goodWindows := 0 }) ∧
    (s.bell.locked = true → ∃ t, exec (.bellUnlock cause ppm) s = .next t ∧ lost t (causeCode cause)) ∧
    (s.bell.locked = false → exec (.bellUnlock cause ppm) s = .next s) ∧
    (runs →
      ∃ t, exec .glitch s = .next t ∧ OnlyPage pnBell s t ∧ t.counter pnBell 3 = s.counter pnBell 3 + 1) ∧
    (¬ runs →
      exec .glitch s = .next s ∧ exec (.measurementWindow ppm) s = .next s)

/-! ### Messages of the links -/

/-- Every message that arrives is counted flit by flit in DIRECT mode, with its credits returned, and then: of a context that is
not READY it has no effect; one whose tag fails, or at another level, is counted and discarded; one that a full park buffer
would keep is discarded and counted; a duplicate is acknowledged again and has no effect; one out of its order is answered with
the MSEQ expected. An answer waits in its context until the port takes it, and changes no more. That the credits go back in an
IDLE flit is log entry 138. -/
def Obligations.MessagesKeepOrder : Prop :=
  ∀ (s : State) (op : MsgOp) (m : LinkMsg), op ≠ .openMsg →
    let p := s.peer m.ctx
    let n := arrivedFlits p m
    let s1 := takeFlits s m.port p op.vc n
    let ahead := (m.mseq - p.recvSeq).toNat
    let due := p.recvSeq + BitVec.ofNat 24 (parkedFor s m.ctx)
    let good := p.phase = .ready ∧ (p.sealedCtx = true → m.tagOk = true) ∧ m.level.toNat = p.level
    let full := parks s m.ctx op m = true ∧ (s.part p.part).parkFull = true
    (p.fabric = true → s1 = s) ∧
    (p.fabric = false → Changes [.out, .pages, .links] s s1 ∧ s1.peer m.ctx = p ∧
      s1.counter (halfPage m.port) 1 = s.counter (halfPage m.port) 1 + BitVec.ofNat 64 n ∧
      s1.half m.port = { s.half m.port with rxSeq := (s.half m.port).rxSeq + BitVec.ofNat 12 n } ∧
      s1.out = s.out ++ [.idleFlit m.port (s1.half m.port).rxSeq p.part op.vc n]) ∧
    (p.phase ≠ .ready → exec (arrival op m) s = .next s1) ∧
    (p.phase = .ready → p.sealedCtx = true → m.tagOk = false →
      (p.tagFails.filter fun t => decide (s.bell.count.toNat ≤ t.toNat + p.timeout)).length < 3 →
      ∃ t, exec (arrival op m) s = .next t ∧ Changes [.pages, .links] s1 t ∧
        t.counter pnLinkCtx 1 = s1.counter pnLinkCtx 1 + 1 ∧ (t.peer m.ctx).recvSeq = p.recvSeq ∧
        (t.peer m.ctx).phase = .ready) ∧
    (p.phase = .ready → p.sealedCtx = false → m.level.toNat ≠ p.level →
      exec (arrival op m) s = .next (s1.count pnLinkCtx 3 1)) ∧
    (good → full → exec (arrival op m) s = .next (s1.count (pnPart p.part) 5 n)) ∧
    (good → ¬ full →
      (2 ^ 23 ≤ ahead → (∀ r ∈ s.links.rtsWaits, r.ctx = m.ctx → r.mseq ≠ m.mseq) →
        exec (arrival op m) s = .next (sendCtl s1 m.ctx (.ack m.mseq m.reqTag))) ∧
      (ahead < 2 ^ 23 → parkedFor s m.ctx < ahead →
        exec (arrival op m) s = .next (sendCtl s1 m.ctx (.nak due .resend m.reqTag)))) ∧
    ∀ (u : State) (c : Nat) (f : CtlFlit),
      let t := sendCtl u c f
      Changes [.out, .pages, .links] u t ∧ (∀ k, (t.peer k).recvSeq = (u.peer k).recvSeq ∧ (t.peer k).phase = (u.peer k).phase ∧
        (t.peer k).unacked.map (·.msg) = (u.peer k).unacked.map (·.msg)) ∧
      ∃ l, t.out = u.out ++ l ∧ (f ∈ (t.peer c).ctl ∨ ∃ way, f.output c way ∈ l)

/-- A WRITE taken in its order stores its bytes at its address if that lies within the receiver partition's grants, and is
acknowledged; else no byte changes, and it is refused; one that memory does not take is answered so. Accesses to lent regions
are counted, those refused and those served. That they carry tier-4 addresses is log entry 121, the answer log entry 48. -/
def Obligations.WriteMessageStores : Prop :=
  ∀ (s : State) (m : LinkMsg), Taken s .write m →
    let p := s.peer m.ctx
    let a := m.address.toNat
    let n := m.data.length
    let s1 := (takeFlits s m.port p 1 (arrivedFlits p m)).setPeer m.ctx { p with recvSeq := p.recvSeq + 1 }
    (∀ key, linkTarget s (peerWho p) a n = some key → PlainStore s key n →
      ∃ u, exec (.write m) s = .next (sendCtl u m.ctx (.ack m.mseq m.reqTag)) ∧
        Changes [.free, .out, .mem, .tags, .pages, .links] s u ∧ NextMsg s u m.ctx ∧
        (∀ b, memByte u b = memByte (memWrite s key m.data) b) ∧
        u.counter (pnPart p.part) 8 = s.counter (pnPart p.part) 8 + (if isLent a then BitVec.ofNat 64 n else 0)) ∧
    (∀ key v, linkTarget s (peerWho p) a n = some key →
      (memStores (countLent s1 p a n) false [(key, m.data)]).2 = some v →
      ∃ u, exec (.write m) s = .next (sendCtl u m.ctx (.nak m.mseq .unwritten m.reqTag)) ∧ NextMsg s u m.ctx) ∧
    (linkTarget s (peerWho p) a n = none →
      ∃ u, exec (.write m) s = .next (sendCtl u m.ctx (.nak m.mseq .refused m.reqTag)) ∧
        Changes [.out, .pages, .links] s u ∧ NextMsg s u m.ctx ∧ u.counter (pnPart p.part) 9 =
          s.counter (pnPart p.part) 9 + (if isLent a || inOwnLent s p.part a n then 1 else 0))

/-- READ is answered with the bytes at its address, and ATOMIC with the value that it replaces by sum, swap or compare and
swap; both are acknowledged. A READ of what cannot be read is answered with SUBOP 1 (log entry 48). One outside the grants,
or an ATOMIC that is not aligned or that its context's level has not, is refused and changes no byte. An answer is sent also
where the context is switched out (log entry 45). -/
def Obligations.ReadsAndAtomicsAnswered : Prop :=
  ∀ (s : State) (m : LinkMsg),
    let p := s.peer m.ctx
    let a := m.address.toNat
    let n := bits m.operand.toNat 16 0
    let target := linkTarget s (peerWho p) a n
    let old := viewNat s a 8
    let inside := a % 8 = 0 ∧ (tierOf a = 1 ∨ tierOf a = 2) ∧ (linkTarget s (peerWho p) a 8).isSome = true ∧
      m.subop.toNat ≤ atomicTop p
    let acked (i : Instr) (u : State) : Prop :=
      exec i s = .next (sendCtl u m.ctx (.ack m.mseq m.reqTag)) ∧ NextMsg s u m.ctx
    let refused (i : Instr) : Prop := ∃ u, exec i s = .next (sendCtl u m.ctx (.nak m.mseq .refused m.reqTag)) ∧
      Changes [.out, .pages, .links] s u ∧ NextMsg s u m.ctx
    (∀ key, Taken s .read m → n ≤ 65536 → target = some key → badUnit s key n = none →
      ∃ u, acked (.read m) u ∧ u.mem = s.mem ∧
        Sends s u m.ctx fun v => v.op = .readResp ∧ v.reqTag = m.reqTag ∧ v.subop = 0 ∧ v.data = viewBytes s key n) ∧
    (∀ key b, Taken s .read m → n ≤ 65536 → target = some key → badUnit s key n = some b →
      ∃ u, acked (.read m) u ∧ u.mem = s.mem ∧
        Sends s u m.ctx fun v => v.op = .readResp ∧ v.reqTag = m.reqTag ∧ v.subop = 1) ∧
    (Taken s .read m → 65536 < n ∨ target = none → refused (.read m)) ∧
    (Taken s .atomic m → inside → badUnit s a 8 = none → PlainStore s a 8 →
      ∃ u, acked (.atomic m) u ∧
        (∀ b, memByte u b = memByte (memWrite s a
          (leBytes 8 (atomicNew m.subop.toNat old m.operand.toNat m.operand2.toNat))) b) ∧
        Sends s u m.ctx fun v => v.op = .atomicResp ∧ v.reqTag = m.reqTag ∧ v.subop = 0 ∧
          v.operand = BitVec.ofNat 64 old) ∧
    (Taken s .atomic m → ¬ inside → refused (.atomic m))

/-- An answer goes to what asked for it: the bytes of a READ to the place kept for a command or an entry, the old value of an
ATOMIC to its request, which has then finished. Each answer is acknowledged. -/
def Obligations.AnswersTaken : Prop :=
  ∀ (s : State) (m : LinkMsg) (u : Unacked), m.subop = 0 →
    let acked (i : Instr) (t : State) : Prop :=
      exec i s = .next (sendCtl t m.ctx (.ack m.mseq m.reqTag)) ∧ NextMsg s t m.ctx
    (Taken s .readResp m → ((s.peer m.ctx).asked.find? fun v => v.msg.op == .read && v.msg.reqTag == m.reqTag) = some u →
      (∀ g q idx n r, u.waiter = .command g q idx → (s.core g).reads = some (n + 2) → frontOfMq s g idx = some r →
        ∃ t, acked (.readResp m) t ∧ Changes [.out, .mem, .pages, .cores, .links] s t ∧
          (t.core g).reads = some (n + 1) ∧ ∀ a, memByte t a = memByte (memWrite s u.key m.data) a) ∧
      (∀ d k pos e, u.waiter = .entry d k pos → entryOf s d k pos = some e →
        ∃ t, acked (.readResp m) t ∧ Changes [.out, .mem, .pages, .links] s t ∧
          ∀ a, memByte t a = memByte (memWrite s u.key m.data) a)) ∧
    (Taken s .atomicResp m →
      ((s.peer m.ctx).asked.find? fun v => v.msg.op == .atomic && v.msg.reqTag == m.reqTag) = some u →
      ∀ q pos r, u.waiter = .request q pos → reqOf s q pos = some r → r.finished = false → r.waiting = 1 → r.sent = 1 →
        r.kind = kindAtomic → PlainStore s u.key 8 →
        ∃ t r', acked (.atomicResp m) t ∧ reqOf t q pos = some r' ∧ r'.finished = true ∧
          r'.status = r.status ∧ ∀ a, memByte t a = memByte (memWrite s u.key (leBytes 8 m.operand.toNat)) a)

/-- A TILE_RTS waits, unanswered, for its reception, and is acknowledged when one of its size is armed; the bytes of the
transfer land one after the other at the entry's target, and the last ends the entry. A TILE_DATA that says that its sender
could not read the tile fails the entry; that SUBOP 1 says so is log entry 48. -/
def Obligations.TilesTransferred : Prop :=
  ∀ (s : State) (m : LinkMsg),
    let acked (i : Instr) (t : State) : Prop := exec i s = .next (sendCtl t m.ctx (.ack m.mseq m.reqTag))
    (Taken s .tileRts m → (∀ r ∈ s.links.rtsWaits, r.ctx ≠ m.ctx) →
      ((s.links.recvs.find? fun r => r.ctx == m.ctx && r.matched.isNone) = none →
        ∃ t, exec (.tileRts m) s = .next t ∧ Changes [.out, .pages, .links] s t ∧ NextMsg s t m.ctx ∧
          (t.peer m.ctx).ctl = (s.peer m.ctx).ctl ∧ t.links.rtsWaits =
            s.links.rtsWaits ++ [{ ctx := m.ctx, mseq := m.mseq, tag := m.reqTag, size := m.operand.toNat }]) ∧
      (∀ r, (s.links.recvs.find? fun r => r.ctx == m.ctx && r.matched.isNone) = some r → r.size = m.operand.toNat →
        ∃ t, acked (.tileRts m) t ∧ Changes [.out, .pages, .links] s t ∧ NextMsg s t m.ctx ∧
          t.links.rtsWaits = s.links.rtsWaits ∧ { r with matched := some r.size } ∈ t.links.recvs)) ∧
    (∀ r e, Taken s .tileData m → (s.links.recvs.find? fun r => r.ctx == m.ctx && r.matched.isSome) = some r →
      r.dead = false → entryOf s r.die r.ring r.pos = some e →
      let bs := m.data.take (r.matched.getD 0 - r.landed)
      let key := entryKey s r.die r.ring (r.target + r.landed)
      (m.subop ≠ 0 → Signals s r.ring e →
        ∃ u, acked (.tileData m) (settleRing u r.die r.ring) ∧ EntryFails s u r.die r.ring e) ∧
      (m.subop = 0 → PlainStore s key bs.length → r.landed + bs.length < r.matched.getD 0 →
        ∃ t, acked (.tileData m) t ∧ Changes [.out, .mem, .tags, .pages, .links] s t ∧ NextMsg s t m.ctx ∧
          { r with landed := r.landed + bs.length } ∈ t.links.recvs ∧ ∀ a, memByte t a = memByte (memWrite s key bs) a) ∧
      (m.subop = 0 → PlainStore s key bs.length → r.matched.getD 0 ≤ r.landed + bs.length → Signals s r.ring e →
        ∃ u, acked (.tileData m) (settleRing u r.die r.ring) ∧ EntryEnds (memWrite s key bs) u r.die r.ring e id))

/-- A COLLECTIVE message whose record is not posted here waits for it; one whose header differs from the record's fails it
with DESCRIPTOR_INVALID. The vote of a child is held by its rank; the result is held while a toll is under way and none is.
Each is acknowledged. The header of a collective is log entry 46. -/
def Obligations.CollectivesAndVotesArrive : Prop :=
  ∀ (s : State) (m : LinkMsg),
    let p := s.peer m.ctx
    let acked (i : Instr) (t : State) : Prop :=
      exec i s = .next (sendCtl t m.ctx (.ack m.mseq m.reqTag)) ∧ NextMsg s t m.ctx
    (Taken s .collective m → collFor s p.part p.jobCtx m = none →
      ∃ t, acked (.collective m) t ∧ Changes [.out, .pages, .links] s t ∧ t.links.early = s.links.early ++ [m]) ∧
    (∀ r j, Taken s .collective m → collFor s p.part p.jobCtx m = some r → reqOf s p.part r.pos = some r →
      jobOf s p.part r.jobCtx = some j → r.finished = false → m.reqTag.toNat % 2 ^ 48 ≠ collHeader r 0 →
      ∃ t r', acked (.collective m) t ∧ reqOf t p.part r.pos = some r' ∧
        r'.finished = true ∧ r'.status = 0x10 ∧ ((t.part p.part).ctx r.jobCtx).stepFailed = true) ∧
    (∀ q j, trainingJob s = some (q, j) → p.rankValid = true →
      (Taken s .vote m → s.sched.selfTimed = false →
        ∃ t, acked (.vote m) t ∧ Changes [.out, .pages, .sched, .links] s t ∧
          t.sched = { s.sched with childVotes := mput s.sched.childVotes p.rank (voteOf m.data) }) ∧
      (Taken s .result m → s.sched.tollSeen = true → s.sched.held = none →
        ∃ t, acked (.result m) t ∧ t.sched.held = some (resultOf (ofLe (m.data.take 1)))) ∧
      (Taken s .result m → s.sched.held ≠ none → ∃ t, acked (.result m) t ∧ Changes [.out, .pages, .links] s t))

/-! ### Peer contexts and ports -/

/-- OPEN of a closed context reads and checks its record: refused, the context stays CLOSED and shows the reason; else it is
OPENING, and its OPEN is sent as soon as its port takes it. With the peer's OPEN at the same level a context that is not sealed is
READY, its MSEQ from 0; one at another level is discarded and counted.
CLOSE leaves a context CLOSED with nothing to send. The reason codes of OPEN are log entry 47. -/
def Obligations.PeerContextsOpenAndClose : Prop :=
  ∀ (s : State) (init ctx : Nat) (m : LinkMsg), ctx < 4096 →
    let s0 := disarm s pnLinkCtx
    let old := s.peer ctx
    let p : Peer := { old with words := ctxRecord s0 ctx }
    let key := ctxTableKey s ctx
    (Served s init linkCmdAddr true → old.phase = .closed → tierOf key = 2 → bits key 43 26 = 0 → badUnit s0 key 64 = none →
      ∃ t, exec (.ctxOpen ⟨init, false⟩ ctx) s = .next t ∧
        Changes [.out, .softBad, .pages, .dies, .crier, .links, .sealU, .flash] s t ∧
        (openRefusal s0 p ≠ 0 → t.out = s.out ∧ t.peer ctx = { p with reason := BitVec.ofNat 4 (openRefusal s0 p) }) ∧
        (openRefusal s0 p = 0 → old.peerOpen = none → (t.peer ctx).phase = .opening ∧ (t.peer ctx).reason = 0 ∧
          (t.peer ctx).words = p.words ∧ ∃ f l, t.out = s.out ++ l ∧ f.ctx = ctx ∧ f.op = .openMsg ∧
            (p.sealedCtx = false → f.data = []) ∧ ((t.peer ctx).ctl = [.opening f] ∨ ((t.peer ctx).ctl = [] ∧
              ∃ w, .linkMsg f w ∈ l ∧ w.remote = p.remote ∧ w.level = p.level ∧
                w.frame = if p.fabric then some (frameHeader s0 w.port p 3) else none)))) ∧
    (Served s init linkCmdAddr true → old.phase ≠ .closed →
      ∃ t, exec (.ctxOpen ⟨init, false⟩ ctx) s = .next t ∧ OnlyPage pnLinkCtx s t) ∧
    (m.ctx = ctx → old.phase = .opening → m.level.toNat = old.level → old.sealedCtx = false →
      ∃ t, exec (.openMsg m) s = .next t ∧ Changes [.out, .pages, .links] s t ∧ (t.peer ctx).phase = .ready ∧
        (t.peer ctx).sendSeq = 0 ∧ (t.peer ctx).recvSeq = 0 ∧ (t.peer ctx).unacked = []) ∧
    (m.ctx = ctx → old.phase = .opening → m.level.toNat ≠ old.level →
      ∃ t, exec (.openMsg m) s = .next t ∧ Changes [.out, .pages, .links] s t ∧ t.peer ctx = { old with peerOpen := none } ∧
        t.counter pnLinkCtx 3 = (takeFlits s m.port old 3 1).counter pnLinkCtx 3 + 1) ∧
    (m.ctx = ctx → old.phase = .closed → ∃ t, exec (.openMsg m) s = .next t ∧ Changes [.out, .pages, .links] s t ∧
      t.peer ctx = { old with peerOpen := some m }) ∧
    (Served s init linkCmdAddr true → (∀ u ∈ old.unacked ++ old.asked, u.waiter = .nobody) →
      ∃ t, exec (.ctxClose ⟨init, false⟩ ctx) s = .next t ∧ Changes [.pages, .links] s t ∧ t.peer ctx = { old with
        phase := .closed, unacked := [], ctl := [], asked := [], hello := none, keys := none, tagFails := [] })

/-- An acknowledged message is retired, and a command that waits for it waits for one less; of the messages that the peer names
as expected those that have been sent, and one that is not acknowledged in time, are sent again under their MSEQ, and counted in
FABRIC mode; a refused one is withdrawn. A message that stays unacknowledged for TIMEOUT puts its context into ERROR; a message begun and not sent whole
is cut 50 µs after its context was switched out. That a TILE_RTS never times out is R441; the place of the count of cuts is
log entry 42. -/
def Obligations.MessagesRetired : Prop :=
  ∀ (s : State) (ctx : Nat) (mseq : BitVec 24),
    let p := s.peer ctx
    let left (t : State) : List OutMsg := (t.peer ctx).unacked.map (·.msg)
    let rest := (eraseFirst (fun u => u.msg.mseq == mseq) p.unacked).map (·.msg)
    let rto := max 1 (bits (s.regN pnLinkCtx 0x114) 15 0)
    let late (u : Unacked) : Bool := u.msg.mseq == mseq && u.left == 0 && decide (u.resent.toNat + rto ≤ s.bell.count.toNat)
    let cut (u : Unacked) : Bool := u.started && u.left != 0
    let counts (t : State) (which : Unacked → Bool) : Prop := left t = p.unacked.map (·.msg) ∧
      t.counter pnLinkCtx 0 = s.counter pnLinkCtx 0 +
        (if p.fabric then BitVec.ofNat 64 (p.unacked.filter fun u => which u && u.started).length else 0)
    (∀ u, (p.unacked.find? fun u => u.msg.mseq == mseq) = some u → u.waiter = .nobody →
      (∃ t, exec (.msgAck ctx mseq) s = .next t ∧ Changes [.out, .pages, .links] s t ∧ left t = rest) ∧
      (∀ k, k ≠ NakKind.resend →
        ∃ t, exec (.msgNak ctx mseq k) s = .next t ∧ Changes [.out, .pages, .links] s t ∧ left t = rest)) ∧
    (∀ u g q idx f, (p.unacked.find? fun u => u.msg.mseq == mseq) = some u → u.waiter = .command g q idx →
      u.msg.op = .write → ((s.core g).inflight.find? fun f => f.queue == q && f.cmd.idx == idx) = some f →
      ∃ t, exec (.msgAck ctx mseq) s = .next t ∧ Changes [.out, .pages, .cores, .links] s t ∧ left t = rest ∧
        ((t.core g).inflight.find? fun f => f.queue == q && f.cmd.idx == idx) =
          some { f with linkWait := f.linkWait - 1 }) ∧
    (p.phase = .ready → ∃ t, exec (.msgNak ctx mseq .resend) s = .next t ∧ Changes [.out, .pages, .links] s t ∧
      counts t fun u => decide ((u.msg.mseq - mseq).toNat < 2 ^ 23)) ∧
    (p.phase = .ready → p.unacked.any late = true → ∃ t, exec (.retransmit ctx mseq) s = .next t ∧
      Changes [.out, .pages, .links] s t ∧ counts t late) ∧
    (p.unacked.any late = false → exec (.retransmit ctx mseq) s = .next s) ∧
    (∀ u ∈ p.unacked, ∀ at_, p.phase = .ready → u.msg.op ≠ .tileRts → u.sentAt = some at_ →
      at_.toNat + p.timeout ≤ s.bell.count.toNat → (∀ v ∈ p.unacked ++ p.asked, v.waiter = .nobody) →
      (∀ r ∈ s.links.recvs, r.ctx ≠ ctx) → (∀ r ∈ (s.reqRing p.part).inFlight, r.isCollective = false) →
      ∃ t, exec (.contextTimeout ctx) s = .next t ∧ Changes [.pages, .crier, .links] s t ∧
        (t.peer ctx).phase = .error ∧ (t.peer ctx).unacked = [] ∧ t.counter pnLinkCtx 2 = s.counter pnLinkCtx 2 + 1 ∧
        ∃ tr, t.crier.pending = s.crier.pending ++ [tr] ∧ tr.rings = [p.part]) ∧
    (drainOver s p.part = true → peerOut s p = true → p.unacked.any cut = true → ∃ t, exec (.drainCut ctx) s = .next t ∧
      Changes [.pages, .links] s t ∧ left t = p.unacked.map (·.msg) ∧
      (t.peer ctx).unacked = p.unacked.map (fun u => if cut u then { u with left := u.flits } else u) ∧
      t.counter (pnPart p.part) 6 = s.counter (pnPart p.part) 6 + BitVec.ofNat 64 (p.unacked.filter cut).length)

/-- An enable that rises trains its port: it sends the levels it has and negotiates one, the highest that both ends have of 2 and 3, and is then
UP; without a common level, or where training fails, it is not, and LINK_DOWN is raised. A write that would change SPLIT or a
MODE under a set enable is ignored and recorded. -/
def Obligations.PortsTrain : Prop :=
  ∀ (s : State) (init port low high : Nat) (value : Word) (report : TrainReport), port < 12 →
    let old := s.regN (pnLink port) 0x010
    (Served s init (linkCtlAddr port) true → ctlLocked old value.toNat = true →
      ∃ t, exec (.portTraining ⟨init, false⟩ port value report) s = .next t ∧ OnlyPage (pnLink port) s t ∧
        t.reg (pnLink port) 0x010 = s.reg (pnLink port) 0x010 ∧
        (t.page (pnLink port)).capture = some ((s.page (pnLink port)).capture.getD
          (BitVec.ofNat 512 (accessRecord s 6 init true (linkCtlAddr port) value.toNat)))) ∧
    (Served s init (linkCtlAddr port) true → ctlLocked old value.toNat = false → old.testBit 0 = false →
      value.getLsbD 0 = true → ∃ t, exec (.portTraining ⟨init, false⟩ port value report) s = .next t ∧
        Changes [.out, .pages, .dies, .bell, .crier, .links, .power] s t ∧ t.reg (pnLink port) 0x010 = value &&& 0xFF003F ∧
        (report.okA = true → (t.half (2 * port)).state = .negotiating ∧ (t.half (2 * port)).delay = report.delay ∧
          ∃ l, t.out = s.out ++ l ∧ .negotiate (2 * port) 2 3 ∈ l) ∧
        (report.okA = false → (t.half (2 * port)).state = .down ∧
          (t.page (pnLink port)).evtStatus.getLsbD 0 = true)) ∧
    (∀ h, (s.half h).state = .negotiating →
      (max 2 low ≤ min 3 high → ∃ t, exec (.negotiate h low high) s = .next t ∧ Changes [.out, .pages, .links] s t ∧
        (t.half h).state = .up ∧ (t.half h).level = min 3 high) ∧
      (min 3 high < max 2 low → ∃ t, exec (.negotiate h low high) s = .next t ∧ Changes [.pages, .crier, .links] s t ∧
        (t.half h).state = .negotiateFailed ∧
        (t.page (halfPage h)).evtStatus = (s.page (halfPage h)).evtStatus ||| 5)) ∧
    (∀ h, (s.half h).state ≠ .negotiating → exec (.negotiate h low high) s = .next s)

/-- Flits and pauses of a port: each flit that arrives is counted, and LACK covers it; an in-order flit's LACK frees what it covers
of the replay buffer, and its LNAK asks for a replay and is counted; a flit out of order asks the partner for one; credits add up,
and what they let go leaves; codewords and frames that are not for the port are counted, and those of the last 2^16 bell ticks
make a retraining due at the threshold; a paused priority stays paused until its time is over; a BELL flit of a locked sender
is kept as the mark, and one of a sender that is not stops the reference where it is the source. -/
def Obligations.FlitsTaken : Prop :=
  ∀ (s : State) (port : Nat) (lack : BitVec 12) (lnak : Bool) (vc part n prio : Nat) (f : LinkFrame) (count : Long),
    let v := s.half port
    let other (t : State) : Prop := ∀ h, h ≠ port → t.half h = s.half h
    let upTo := if (lack - v.lackRx).toNat ≤ v.replaying then lack else v.lackRx
    let run := if lnak then (if upTo = v.lackRx then v.replayRun + 1 else 1) else 0
    let taken (u : State) (w : Half) : Prop := Changes [.out, .pages, .links] s u ∧ other u ∧ u.half port = w ∧
      u.out = s.out ++ (if lnak then [.linkReplay port] else []) ∧
      u.counter (halfPage port) 1 = s.counter (halfPage port) 1 + 1 ∧
      u.counter (halfPage port) 4 = s.counter (halfPage port) 4 + (if lnak then 1 else 0)
    (halfUp s port = true →
      (∃ u, exec (.linkCtl port lack lnak) s = .next (pumpPort u port) ∧
        taken u { v with rxSeq := v.rxSeq + 1, lnak := false, lackRx := upTo, replayRun := run }) ∧
      ∃ u, exec (.idle port lack lnak vc part n) s = .next (pumpPort u port) ∧ taken u { v with
        lackRx := upTo, replayRun := run, credits := mset 0 v.credits (part % 4 * 4 + vc % 4)
          (mget 0 v.credits (part % 4 * 4 + vc % 4) + n % 1024) }) ∧
    (halfUp s port = true → ∃ t, exec (.linkReplay port) s = .next t ∧ Changes [.out, .links] s t ∧ other t ∧
      t.half port = { v with lnak := true } ∧ t.out = s.out ++ [.linkReplay port]) ∧
    (halfUp s port = false → exec (.linkCtl port lack lnak) s = .next s ∧ exec (.linkReplay port) s = .next s ∧
      exec (.idle port lack lnak vc part n) s = .next s) ∧
    (let near := v.codewords.filter (fun t => decide (s.bell.count.toNat < t.toNat + 2 ^ 16)) ++ [s.bell.count]
      ∃ t, exec (.fecUncorrectable port) s = .next t ∧ Changes [.pages, .links] s t ∧ other t ∧
        t.counter (halfPage port) 3 = s.counter (halfPage port) 3 + 1 ∧ t.half port = { v with
          codewords := near, retrainDue := v.retrainDue || decide (retrainThresh s port ≤ near.length) }) ∧
    ((s.half f.port).state = .up → halfFabric s f.port = true →
      let good := f.fcsOk = true ∧ f.etherType.toNat = bits (s.regN (halfPage f.port) 0x100) 15 0 ∧ f.dest = halfMac s f.port
      ∃ t, exec (.frame f) s = .next t ∧ OnlyPage (halfPage f.port) s t ∧
        (¬ good → t.counter (halfPage f.port) 7 = s.counter (halfPage f.port) 7 + 1) ∧
        (good → t.counter (halfPage f.port) 6 = s.counter (halfPage f.port) 6 + BitVec.ofNat 64 (droppedFlits s f) ∧
          t.counter (halfPage f.port) 1 = s.counter (halfPage f.port) 1 + BitVec.ofNat 64 f.flits.length)) ∧
    (halfFabric s port = true → ∃ t, exec (.priorityPause port prio) s = .next t ∧ Changes [.links] s t ∧ other t ∧
      (t.half port).paused.contains prio = true) ∧
    (∃ t, exec (.priorityPauseExpiry port prio) s = .next t ∧ Changes [.out, .pages, .links] s t ∧
      (t.half port).paused = v.paused.filter fun p => p != prio) ∧
    (halfFabric s port = false → v.state = .up → bellSource s ≠ some port →
      let w := { v with rxSeq := v.rxSeq + 1 }
      (∃ t, exec (.bell port count true) s = .next t ∧ Changes [.pages, .links] s t ∧ other t ∧
        t.half port = { w with bellRxValid := true, bellRx := some count }) ∧
      (bellSrcPort s = false → ∃ t, exec (.bell port count false) s = .next t ∧ Changes [.pages, .links] s t ∧ other t ∧
        t.half port = { w with bellRxValid := false })) ∧
    (halfFabric s port = false → v.state = .up → bellSource s = some port → s.bell.locked = true →
      ∃ t, exec (.bell port count false) s = .next t ∧ t.bell.locked = false ∧ t.bell.holdover = true ∧ t.bell.cause = 0)

/-- A port whose codewords or replays reach their limit retrains, its transmission held; it then resumes, or fails again,
and after three failures in a row it is DOWN and LINK_DOWN is raised. When a port in FABRIC mode retrains is log entry 41.
-/
def Obligations.PortsRetrain : Prop :=
  ∀ (s : State) (port : Nat),
    let v := s.half port
    let pn := halfPage port
    (v.state = .up → wantsRetrain s port = true → halfFabric s port = false →
      ∃ t, exec (.linkRetrain port) s = .next t ∧ Changes [.pages, .crier, .links] s t ∧
        t.half port = { v with state := .retraining, codewords := [], retrainDue := false, replayRun := 0 } ∧
        t.counter pn 5 = s.counter pn 5 + 1 ∧ (t.page pn).evtStatus = (s.page pn).evtStatus ||| 2) ∧
    (v.state = .up → wantsRetrain s port = false → exec (.linkRetrain port) s = .next s) ∧
    (v.state = .retraining → (∃ t, exec (.linkRetrainDone port true) s = .next t ∧ Changes [.out, .pages, .links] s t ∧
      (t.half port).state = .up ∧ (t.half port).failedRetrains = 0)) ∧
    (v.state = .retraining → v.failedRetrains < 2 → ∃ t, exec (.linkRetrainDone port false) s = .next t ∧
      Changes [.pages, .links] s t ∧ t.half port = { v with failedRetrains := v.failedRetrains + 1 }) ∧
    (v.state = .retraining → 2 ≤ v.failedRetrains → ∃ t, exec (.linkRetrainDone port false) s = .next t ∧
      Changes [.pages, .dies, .bell, .crier, .links, .power] s t ∧ (t.half port).state = .down ∧
      (t.page pn).evtStatus = (s.page pn).evtStatus ||| 1)

/-- A flit of a die-to-die port that fails is replayed and counted; 16 failures in a row mark the port down, raise the trap,
and suspend every context that has a job, its step failed; a replay that passes ends the run. -/
def Obligations.DieLinkReplays : Prop :=
  ∀ (s : State) (port : Nat), port < 16 → (d2dOf s port).down = false →
    let v := d2dOf s port
    let pn := d2dPage port
    (∃ t, exec (.d2dReplay port true) s = .next t ∧ Changes [.pages, .d2d, .crier] s t ∧
      d2dOf t port = { v with replaying := false, replays := 0 } ∧ t.counter pn 3 = s.counter pn 3 + 1) ∧
    (v.replays < 15 → ∃ t, exec (.d2dReplay port false) s = .next t ∧ Changes [.pages, .d2d, .crier] s t ∧
      d2dOf t port = { v with replaying := true, replays := v.replays + 1 } ∧ t.counter pn 3 = s.counter pn 3 + 1) ∧
    (15 ≤ v.replays → ∃ t, exec (.d2dReplay port false) s = .next t ∧ (d2dOf t port).down = true ∧
      (t.page pn).evtStatus.getLsbD 0 = true ∧ (∃ tr, t.crier.pending = s.crier.pending ++ [tr] ∧ tr.rings = [4]) ∧
      ∀ p x, p < 4 → x < 8 → ((s.part p).ctx x).phase ≠ .free →
        ((t.part p).ctx x).phase = .suspended ∧ ((t.part p).ctx x).stepFailed = true)

/-! ### Link requests -/

/-- The tail of a link request ring moves as a doorbell does; the next record of the ring starts, and its first segment, whose
gate is open, is sent to its context: the bytes of LOCAL, or a READ or an ATOMIC. A record that its check refuses has failed
with DESCRIPTOR_INVALID. -/
def Obligations.RequestsStart : Prop :=
  ∀ (s : State) (init part : Nat) (value : Word), part < 4 →
    let v := s.reqRing part
    let tail := BitVec.ofNat 13 value.toNat
    let key := reqKey s part v.started.toNat
    let r : LinkReq := { pos := v.started.toNat, words := viewWords s key 16 }
    let next := v.started ≠ v.tail ∧ v.inFlight = [] ∧ (v.tail - v.started).toNat ≤ 2 ^ reqLog2 s part ∧
      reqPlaced s part = true ∧ badUnit s key 64 = none ∧ s.softBad = []
    let starts := next ∧ reqReserved r = false ∧ checkTransfer s part r = 0 ∧ segOpen s part r 0 = true ∧
      (s.peer r.ctx).phase = .ready
    let sent (t : State) : Prop := (t.reqRing part).started = v.started + 1 ∧
      reqOf t part r.pos = some { r with sent := 1, waiting := 1 }
    (Served s init (reqTailAddr part) true → ∃ t, exec (.linkReqTailWrite ⟨init, false⟩ part value) s = .next t ∧
      Changes [.pages, .links] s t ∧ ((tail - v.head).toNat ≤ 2 ^ reqLog2 s part → t.reqRing part = { v with tail := tail }) ∧
      (2 ^ reqLog2 s part < (tail - v.head).toNat → t.reqRing part = v)) ∧
    (starts → r.kind = kindWrite → r.length ≤ 65536 → badUnit s (keyOf s (reqWho part r) r.localAt) r.length = none →
      ∃ t, exec (.linkReqWrite part) s = .next t ∧ sent t ∧ Sends s t r.ctx fun m => m.op = .write ∧
        m.address = BitVec.ofNat 48 r.remoteAt ∧ m.data = viewBytes s (keyOf s (reqWho part r) r.localAt) r.length) ∧
    (starts → r.kind = kindRead → r.length ≤ 65536 → ∃ t, exec (.linkReqRead part) s = .next t ∧ sent t ∧
      Sends s t r.ctx fun m => m.op = .read ∧ m.address = BitVec.ofNat 48 r.remoteAt ∧
        m.operand = BitVec.ofNat 64 r.length) ∧
    (starts → r.kind = kindAtomic → ∃ t, exec (.linkReqAtomic part) s = .next t ∧ sent t ∧
      Sends s t r.ctx fun m => m.op = .atomic ∧ m.address = BitVec.ofNat 48 r.remoteAt ∧ m.subop = r.atomicOp) ∧
    (next → ∀ e ∈ [(Instr.linkReqWrite part, kindWrite), (.linkReqRead part, kindRead), (.linkReqAtomic part, kindAtomic)],
      reqReserved r = true ∨ (r.kind = e.2 ∧ checkTransfer s part r ≠ 0) →
      ∃ t r', exec e.1 s = .next t ∧ reqOf t part r.pos = some r' ∧
        r'.finished = true ∧ r'.status = 0x10 ∧ ((t.part part).ctx r.jobCtx).stepFailed = true ∧
        ∃ tr, t.crier.pending = s.crier.pending ++ [tr] ∧ tr.rings = [part])

/-- A collective that is posted takes the next number of its group; one that its check refuses has failed with
DESCRIPTOR_INVALID. A request that has finished completes: its status is written with DONE, its semaphore gets 1, and it is in
flight no longer. -/
def Obligations.CollectivesPostAndComplete : Prop :=
  ∀ (s : State) (part : Nat),
    let v := s.reqRing part
    let key := reqKey s part v.started.toNat
    let r : LinkReq := { pos := v.started.toNat, words := viewWords s key 16 }
    let group := part * 64 + r.jobCtx * 8 + r.group
    let command := if r.kind = kindReduce then Instr.reduceScatter part else if r.kind = kindGather then .allGather part
      else .allReduce part
    (v.started ≠ v.tail → v.inFlight = [] → (v.tail - v.started).toNat ≤ 2 ^ reqLog2 s part → reqPlaced s part = true →
      badUnit s key 64 = none → s.softBad = [] → reqReserved r = false → r.isCollective = true →
      (checkColl s part r = 0 → ∃ t r', exec command s = .next t ∧ (t.reqRing part).started = v.started + 1 ∧
        reqOf t part r.pos = some r' ∧ r'.words = r.words ∧ r'.number = mget 0 s.links.collCount group % 2 ^ 32 ∧
        mget 0 t.links.collCount group = mget 0 s.links.collCount group + 1) ∧
      (checkColl s part r ≠ 0 → ∃ t r', exec command s = .next t ∧ reqOf t part r.pos = some r' ∧ r'.finished = true ∧
        r'.status = 0x10 ∧ t.links.collCount = s.links.collCount)) ∧
    (∀ pos q, reqPlaced s part = true → reqOf s part pos = some q → q.finished = true →
      let at_ := reqKey s part pos + 52
      let sem := semKey s part q.jobCtx (bits (q.w 11) 15 8)
      let s1 := memWrite s at_ (leBytes 4 (q.status.toNat + 256))
      PlainStore s at_ 4 → PlainStore s sem 4 →
      ∃ t, exec (.linkReqComplete part pos) s = .next t ∧ Changes [.mem, .links] s t ∧ reqOf t part pos = none ∧
        (∀ k, k ≠ part → t.reqRing k = s.reqRing k) ∧ ∀ a, memByte t a = memByte (memWrite s1 sem
          (leBytes 4 ((semValue s1 part q.jobCtx (bits (q.w 11) 15 8) + 1) % 2 ^ 32))) a)

/-! ### HBM maintenance -/

/-- An interface error of a channel in service is kept with those of the last 2^16 bt; at the threshold the channel is
retrained: this is counted and starts at once on a controller that retrains nothing; the
retraining that ends is counted if it was not triggered, and marks the pins it found and its time, or fails the channel where it came late or more than two pins of a
pseudo-channel are marked; a channel not retrained for RETRAIN_MAX raises its event. That the command is one error, and that a
triggered channel counts anew, is log entry 144. -/
def Obligations.ChannelsRetrain : Prop :=
  ∀ (s : State) (die ctl channel : Nat) (inTime : Bool) (pins0 pins1 : List Nat), die < 4 → ctl < 2 → channel < 32 →
    let h := s.hbmc die ctl
    let pn := pnHbmc die ctl
    let near := (mget [] h.errors channel).filter (fun t => decide (s.bell.ticks < t + 2 ^ 16)) ++ [s.bell.ticks]
    let counted (l : List Nat) : Hbmc := { h with errors := mset [] h.errors channel l }
    (h.ready = true → h.chExcluded.getLsbD channel = false → near.length < trigThresh s die ctl →
      ∃ t, exec (.hbmRetrainTrigger die ctl channel) s = .next t ∧ Changes [.dies] s t ∧ t.hbmc die ctl = counted near) ∧
    (h.ready = true → h.chExcluded.getLsbD channel = false → h.retraining = none → h.trigWait = [] →
      trigThresh s die ctl ≤ near.length → ∃ t, exec (.hbmRetrainTrigger die ctl channel) s = .next t ∧
        Changes [.pages, .dies, .crier] s t ∧ t.hbmc die ctl = { counted [] with retraining := some (channel, true) } ∧
        t.counter pn 3 = s.counter pn 3 + 1 ∧ (t.page pn).evtStatus = (s.page pn).evtStatus ||| 4) ∧
    (∀ triggered, h.retraining = some (channel, triggered) → h.trigWait = [] → (s.die die).retrainOpen = [] →
      let p0 := pinsAfter h (2 * channel) pins0
      let p1 := pinsAfter h (2 * channel + 1) pins1
      ∃ t, exec (.hbmRetrainEnd die ctl inTime pins0 pins1) s = .next t ∧ Changes [.pages, .dies, .crier] s t ∧
        (t.hbmc die ctl).retraining = none ∧
        t.counter pn 2 = s.counter pn 2 + (if triggered then 0 else 1) ∧
        (t.hbmc die ctl).nextCh = (if triggered then h.nextCh else (channel + 1) % 32) ∧
        (inTime = true → p0.length ≤ 2 → p1.length ≤ 2 → (t.hbmc die ctl).chFailed = h.chFailed ∧
          mget [] (t.hbmc die ctl).pins (2 * channel) = p0 ∧ mget [] (t.hbmc die ctl).pins (2 * channel + 1) = p1 ∧
          mget 0 (t.hbmc die ctl).lastRetrain channel = s.bell.ticks) ∧
        (inTime = false ∨ 2 < p0.length ∨ 2 < p1.length →
          (t.hbmc die ctl).chFailed = h.chFailed ||| BitVec.ofNat 32 (2 ^ channel) ∧
          (t.page pn).evtStatus = (s.page pn).evtStatus ||| 16)) ∧
    (h.ready = true → h.chExcluded.getLsbD channel = false →
      s.regN pn 0x108 ≤ s.bell.ticks - mget 0 h.lastRetrain channel →
      ∃ t, exec (.retrainDue die ctl channel) s = .next t ∧ Changes [.pages, .crier] s t ∧
        (t.page pn).evtStatus = (s.page pn).evtStatus ||| 8)

/-! ### Jobs, contexts and slices -/

/-- ADMIT of a record that the device's own checks accept makes the admission PENDING, with the job's fields; without
quadrants, and in minimal mode, it is REFUSED with reason 9 (log entry 127), and while one is pending it is ignored. The digests, or their absence after 1 s, then
decide: ADMITTED, every context of the mask RUNNABLE, or REFUSED with reason 0x0A. The order of the checks of an admission
is log entry 79. -/
def Obligations.JobsAdmitted : Prop :=
  ∀ (s : State) (init part : Nat), part < 4 →
    let s0 := disarm s (pnPart part)
    let at_ := s.regAddr (pnPart part) 0x120
    let ws := viewWords s0 at_ 16
    let m := readMapping s0 part ws
    let listed := m.2.2.findIdx? fun e => e.deviceId == s.fuses.deviceId
    let refused (t : State) (reason : Nat) : Prop := (t.part part).admission = .refused ∧
      (t.part part).admitReason = BitVec.ofNat 8 reason ∧ (t.part part).pendingJob = none ∧
      (t.page (pnPart part)).evtStatus = (s.page (pnPart part)).evtStatus ||| 1 ∧ (t.part part).jobs = (s.part part).jobs
    (Served s init (jobCmdAddr part) true → (s.part part).admission = .pending →
      ∃ t, exec (.admitJob ⟨init, false⟩ part) s = .next t ∧ OnlyPage (pnPart part) s t) ∧
    (Served s init (jobCmdAddr part) true → (s.part part).admission ≠ .pending → (quadsOf s part = 0 ∨ s.boot.minimal = true) →
      ∃ t, exec (.admitJob ⟨init, false⟩ part) s = .next t ∧ Changes [.pages, .parts, .crier] s t ∧ refused t 9) ∧
    (Served s init (jobCmdAddr part) true → (s.part part).admission ≠ .pending → quadsOf s part ≠ 0 →
      s.boot.minimal = false → (hubGrant s part).2 ≠ 0 → partArea s0 part at_ 64 64 = true → badUnit s0 at_ 64 = none →
      checkAdmission s0 part ws = 0 → m.1.reason = 0 → (readGranary s0 part m.2.1.ranks listed).1.reason = 0 →
      (readBlocks s0 part ws m.2.1.seed).1.reason = 0 → sealedBad s0 part ws m.2.2 = false →
      ∃ t j, exec (.admitJob ⟨init, false⟩ part) s = .next t ∧
        Changes [.free, .softBad, .pages, .dies, .parts, .crier, .flash] s t ∧
        (t.part part).admission = .pending ∧ (t.part part).pendingJob = some j ∧ (t.part part).jobs = (s.part part).jobs ∧
        j.jobId = BitVec.ofNat 32 (wordAt ws 1) ∧ j.training = admTraining ws ∧ j.level = admLevel ws ∧
        j.ctxMask = BitVec.ofNat 8 (admMask ws) ∧ j.devlist = m.2.2 ∧ ∀ k, listed = some k → j.rank = k) ∧
    (∀ j, (s.part part).pendingJob = some j →
      (∃ t, exec (.admitDigestDone part false) s = .next t ∧ refused t 0x0A) ∧
      (j.pendingAt.toNat + 156250000 ≤ s.bell.count.toNat → ∃ t, exec (.admitTimeout part) s = .next t ∧ refused t 0x0A) ∧
      (s.bell.count.toNat < j.pendingAt.toNat + 156250000 → exec (.admitTimeout part) s = .next s) ∧
      (∃ t, exec (.admitDigestDone part true) s = .next t ∧ (t.part part).admission = .admitted ∧
        (t.part part).pendingJob = none ∧ (t.part part).jobs = (s.part part).jobs ++ [j] ∧
        ∀ x, x < 8 → j.ctxMask.getLsbD x = true → ((t.part part).ctx x).phase = .runnable))

/-- SUSPEND, RESUME and DISCARD of a context in use, each ignored for a FREE one; a resumed context dispatches again, a
discarded one is RUNNABLE with its step not failed. END takes the job of its mask from the partition, and frees its context;
without such a job it is ignored. That an END whose mask is no job's is recorded with reason 7 is log entry 43. -/
def Obligations.ContextsCommanded : Prop :=
  ∀ (s : State) (init part ctx : Nat) (mask : BitVec 8), part < 4 → ctx < 8 →
    let c := (s.part part).ctx ctx
    let others (t : State) : Prop := ∀ x, x ≠ ctx → (t.part part).ctx x = (s.part part).ctx x
    (Served s init (ctxCmdAddr part) true → c.phase ≠ .free →
      (∃ t, exec (.suspend ⟨init, false⟩ part ctx) s = .next t ∧ Changes [.pages, .parts] s t ∧ others t ∧
        (t.part part).ctx ctx = { c with phase := .suspended }) ∧
      (∃ t, exec (.resume ⟨init, false⟩ part ctx) s = .next t ∧ Changes [.pages, .cores, .parts] s t ∧ others t ∧
        (t.part part).ctx ctx = { c with phase := .runnable } ∧
        ∀ g ∈ coresOfPart s part, ((t.core g).ring ctx) = { (s.core g).ring ctx with stopped := false }) ∧
      (∃ t, exec (.discard ⟨init, false⟩ part ctx) s = .next t ∧ ((t.part part).ctx ctx).phase = .runnable ∧
        ((t.part part).ctx ctx).stepFailed = false ∧ ((t.part part).ctx ctx).evalWins = [])) ∧
    (Served s init (ctxCmdAddr part) true → c.phase = .free → ∀ i ∈ [Instr.suspend ⟨init, false⟩ part ctx,
      .resume ⟨init, false⟩ part ctx, .discard ⟨init, false⟩ part ctx], ∃ t, exec i s = .next t ∧ OnlyPage (pnPart part) s t) ∧
    (Served s init (jobCmdAddr part) true → ((s.part part).jobs.find? fun j => j.ctxMask == mask) = none →
      ∃ t, exec (.endJob ⟨init, false⟩ part mask) s = .next t ∧ OnlyPage (pnPart part) s t) ∧
    (∀ j, Served s init (jobCmdAddr part) true → ((s.part part).jobs.find? fun j => j.ctxMask == mask) = some j →
      maskCtxs mask.toNat = [ctx] → ∃ t, exec (.endJob ⟨init, false⟩ part mask) s = .next t ∧
        (∀ k ∈ (t.part part).jobs, k.ctxMask ≠ mask) ∧ ((t.part part).ctx ctx).phase = .free)

/-- The first tick of another context's slice begins a switch on every core of the partition; a tile that may not finish is
killed, its chain's slots FREE and the kill counted; a core saves what the outgoing context holds there and takes up what
the incoming one had, where its save area is as it was written; a restore that fails its check is counted and raises
RESTORE_FAIL. When the bytes of a save area are written is log entry 53; when a kill is due is log entry 140. -/
def Obligations.SlicesSwitch : Prop :=
  ∀ (s : State) (part x : Nat),
    (ctxDue s part = some x → (∃ y, (s.part part).cur = some y ∧ y ≠ x) → coresOfPart s part ≠ [] →
      (∀ g ∈ coresOfPart s part, (s.core g).gather = none) →
      ∃ t, exec (.sliceStart part) s = .next t ∧ Changes [.pages, .cores, .parts] s t ∧ (t.part part).cur = some x ∧
        (t.part part).switchAt = some s.bell.count ∧ t.counter (pnPart part) 0 = s.counter (pnPart part) 0 + 1 ∧
        ∀ g ∈ coresOfPart s part, t.core g = { s.core g with incoming := some (some x), atBoundary := [] }) ∧
    (ctxDue s part = some x → (s.part part).cur = some x → exec (.sliceStart part) s = .next s) ∧
    (∀ g q r c rest side, (s.core g).incoming ≠ none → partOfCore s g = some part → (s.core g).queue q = r :: rest → q ≠ .mq →
      (s.core g).cur = some r.ctx → (s.core g).atBoundary.contains q = false →
      (killDue s part = false → exec (.tileKill g q) s = .next s) ∧
      (killDue s part = true → r.edges = [side] → chainOf ((s.core g).edge side) r = some c → c.cmds = [r] →
        ∃ t, exec (.tileKill g q) s = .next t ∧ Changes [.pages, .cores, .parts, .crier] s t ∧
          (t.core g).queue q = r :: rest ∧ (∀ k ∈ c.slots, ((t.core g).edge side).slot? k = none) ∧
          (t.core g).atBoundary = q :: (s.core g).atBoundary ∧
          ((t.part part).ctx r.ctx).killed = true ∧ t.counter (pnCnt g) 5 = s.counter (pnCnt g) 5 + 1 ∧
          t.counter (pnPart part) 1 = s.counter (pnPart part) 1 + 1)) ∧
    (∀ g y ok, g < 160 → (s.core g).incoming = some (some x) → partOfCore s g = some part → (s.core g).cur = some y → y ≠ x →
      (s.core g).reads = none → ((s.part part).ctx y).phase ≠ .free → (s.part part).parked = [] →
      let k := s.core g
      let v : SavedCtx := mget {} k.saved x
      let left : SavedCtx := { bottom := k.bottom, side := k.side, aq := k.aq, vq := k.vq, mq := k.mq }
      let intact := saveIntact (saveOut s part g) part g (some x)
      (intact ≠ ok → exec (.saveRestore g ok) s = .next s) ∧
      (intact = true → ∃ t check, exec (.saveRestore g true) s = .next t ∧
        (((s.part part).ctx y).saveOffset = 0 → check = none) ∧
        t.core g = { k with bottom := v.bottom, side := v.side, aq := v.aq, vq := v.vq, mq := v.mq, cur := some x,
                            incoming := none, atBoundary := [],
                            saved := merase (mset {} k.saved y { left with check := check }) x, switches := k.switches + 1 }) ∧
      (intact = false → ∃ t, exec (.saveRestore g false) s = .next t ∧ ((t.part part).ctx x).stepFailed = false ∧
        (t.core g).incoming = none ∧ t.counter (pnPart part) 7 = s.counter (pnPart part) 7 + 1 ∧
        (((s.part part).ctx x).phase ≠ .free → ((t.part part).ctx x).phase = .runnable)))

/-! ### The seal unit -/

/-- SEAL, UNSEAL, LOAD and ATTEST: what each leaves when it is done, with CMD_STATUS at DONE, and how it is refused, with
the reason and nothing else changed. A host core of the partition fetches from what has been loaded. The order of the
refusals is log entry 91; that of a SEAL in minimal mode is log entry 127; which contexts sealing closes is log entry 134. -/
def Obligations.SealUnitCommands : Prop :=
  ∀ (s : State) (init part : Nat), part < 4 → Served s init sealCmdAddr true →
    let s0 := disarm s pnSeal
    let head : Manifest := { bytes := viewBytes s0 (sealArg s) (manifestBody 0) }
    let n := manifestBody head.npeer + 64
    let man : Manifest := { bytes := viewBytes s0 (sealArg s) n }
    let dest := bits (sealArg2 s) 47 0
    let size := 4096 * bits (sealArg2 s) 63 48
    let image := viewBytes s0 (sealArg s) size
    let refused (t : State) (reason : Nat) : Prop := Changes [.pages, .sealU] s t ∧
      t.sealU = { s.sealU with cmdStatus := BitVec.ofNat 16 (3 + 256 * reason) }
    (isSealed s part = true ∨ s.boot.minimal = true → ∃ t, exec (.seal ⟨init, false⟩ part) s = .next t ∧ refused t srState) ∧
    (isSealed s part = false → s.boot.minimal = false → jobAdmitted s part = true →
      ∃ t, exec (.seal ⟨init, false⟩ part) s = .next t ∧ refused t srJob) ∧
    (isSealed s part = false → s.boot.minimal = false → jobAdmitted s part = false →
      outsideGrants s0 (sealArg s) (manifestBody 1) = true → badUnit s0 (sealArg s) (manifestBody 1) = none → manifestBad head = false → slotsBad head = false →
      outsideGrants s0 (sealArg s) n = true → badUnit s0 (sealArg s) n = none → s.softBad = [] →
      (edVerify man.owner man.signed man.signature = true → (∀ e ∈ s.links.peers, e.2.part = part → e.2.open_ = []) →
        ∃ t v, exec (.seal ⟨init, false⟩ part) s = .next t ∧ (t.part part).sealedPart = some v ∧
          (t.part part).sealCount = (s.part part).sealCount + 1 ∧ v.programs = (List.range man.nprog).map man.prog ∧
          v.manifestHash = shaOf [man.bytes.take n] ∧ (t.part part).logCount = 0 ∧ t.sealU.cmdStatus = 2 ∧
          (∀ a, onDie s part a = true → memByte t a = 0) ∧
          ∀ g ∈ coresOfPart s part, (t.core g).bottom = {} ∧ (t.core g).side = {}) ∧
      (edVerify man.owner man.signed man.signature = false →
        ∃ t, exec (.seal ⟨init, false⟩ part) s = .next t ∧ refused t srSignature)) ∧
    (isSealed s part = false → ∃ t, exec (.unseal ⟨init, false⟩ part) s = .next t ∧ refused t srState) ∧
    (isSealed s part = true → jobAdmitted s part = false → ∃ t, exec (.unseal ⟨init, false⟩ part) s = .next t ∧
      (t.part part).sealedPart = none ∧ t.sealU.cmdStatus = 2 ∧ (t.part part).logChain = (s.part part).logChain ∧
      (t.part part).logCount = (s.part part).logCount ∧ ∀ a, onDie s part a = true → memByte t a = 0) ∧
    (isSealed s part = false → ∃ t, exec (.load ⟨init, false⟩ part) s = .next t ∧ refused t srState) ∧
    (∀ v, (s.part part).sealedPart = some v → outsideGrants s0 (sealArg s) size = true → tierOf dest = 2 →
      bits dest 43 26 = 0 → dest % 4096 = 0 → inHubGrant s0 part (bits dest 25 0) size = true →
      badUnit s0 (sealArg s) size = none → s.softBad = [] →
      ((v.programs.findIdx? fun h => h == shaOf [image]) = none →
        ∃ t, exec (.load ⟨init, false⟩ part) s = .next t ∧ refused t srProgram) ∧
      (∀ i, (v.programs.findIdx? fun h => h == shaOf [image]) = some i → PlainStore s0 (hubAddr (bits dest 25 0)) size →
        ∃ t w, exec (.load ⟨init, false⟩ part) s = .next t ∧ (t.part part).sealedPart = some w ∧ i ∈ w.loaded ∧
          w.executable = v.executable ++ [(bits dest 25 0, size)] ∧
          w.programMeas = shaOf [hashBytes v.programMeas, hashBytes (shaOf [image])] ∧ t.sealU.cmdStatus = 2 ∧
          (∀ h, partOfHost s h = some part → hostFetchFaults t h (hubAddr (bits dest 25 0)) size = false) ∧
          ∀ a, memByte t a = memByte (memWrite s (hubAddr (bits dest 25 0)) image) a)) ∧
    (s.sealU.identity = false → ∃ t, exec (.attest ⟨init, false⟩ part) s = .next t ∧ refused t srState) ∧
    (s.sealU.identity = true → outsideGrants s0 (sealArg s) 64 = true → reportPlace s0 dest 672 = true →
      badUnit s0 (sealArg s) 64 = none → s.softBad = [] → PlainStore s0 dest 672 →
      let body := reportBody s0 part (viewBytes s0 (sealArg s) 64)
      ∃ t, exec (.attest ⟨init, false⟩ part) s = .next t ∧ t.sealU = { s.sealU with cmdStatus := 2 } ∧
        t.counter pnSeal 4 = s.counter pnSeal 4 + 1 ∧
        ∀ a, memByte t a = memByte (memWrite s dest (body ++ edSign (leBytes 32 s.sealU.privKey.toNat) body)) a)

/-! ### Power, resets and the start -/

/-- PWR_EN and the supply: an input of 40 to 59 V starts an enabled module that is off, with the domain BOOT on and nothing of
what it held but flash and fuses; losing either turns it off, and a power-on that was held for heat waits no longer. MOD_RST_N
resets it alike, and its release lets the start begin. A reset that was held takes place once no sensor is hot; that the command
is itself that reading where the module has no power is log entry 129. The domains that ramp, at most four at a time, are on once they are in regulation, those whose supply is on, and in
stage 2 the next rank begins after the last of a rank. -/
def Obligations.SupplyStartsAndStops : Prop :=
  ∀ (s : State) (volts : Nat),
    let on (t : State) : Prop := Lost s t ∧ t.power.phase = .on ∧ t.power.domains = bootOnly
    let off (t : State) : Prop := Lost s t ∧ t.power.phase = .off ∧ t.power.domains = 0
    let runs := s.power.pwrEn = true ∧ supplyGood s.power.centivolts.toNat = true
    (s.power.phase = .off → supplyGood volts = true → s.power.shutdown = false →
      (∃ t, exec (.pwrEnAssert volts) s = .next t ∧ on t ∧ t.power.pwrEn = true) ∧
      (s.power.pwrEn = true → ∃ t, exec (.supplyValid volts) s = .next t ∧ on t)) ∧
    (s.power.phase = .off → supplyGood volts = false →
      (∃ t, exec (.pwrEnAssert volts) s = .next t ∧ Changes [.power] s t ∧ t.power = { s.power with pwrEn := true }) ∧
      exec (.supplyValid volts) s = .next s) ∧
    (s.power.phase = .on → (∃ t, exec .pwrEnDeassert s = .next t ∧ off t ∧ t.power.pwrEn = false) ∧
      (∃ t, exec .undervoltage s = .next t ∧ off t) ∧ ∃ t, exec .overvoltage s = .next t ∧ off t) ∧
    (s.power.phase = .on → s.power.shutdown = false → ∃ t, exec .modRstNAssert s = .next t ∧ t.mem = [] ∧ t.parts = [] ∧
      t.boot = {} ∧ t.flash = s.flash ∧ t.fuses = s.fuses ∧ t.power.domains = bootOnly ∧ t.power.modRst = true) ∧
    (∃ t, exec .modRstNRelease s = .next t ∧ Changes [.power] s t ∧ t.power = { s.power with modRst := false }) ∧
    (s.power.phase = .off → ∃ t, exec .pwrEnDeassert s = .next t ∧ Changes [.power] s t ∧
      t.power = { s.power with pwrEn := false, heldReset := false }) ∧
    (s.power.heldReset = true → s.power.phase = .off →
      (runs → ∃ t, exec .heldResetRelease s = .next t ∧ on t) ∧ (¬ runs → exec .heldResetRelease s = .next s)) ∧
    (s.power.heldReset = true → s.power.phase = .on →
      (s.power.hot = true → exec .heldResetRelease s = .next s) ∧
      (s.power.hot = false → ∃ t, exec .heldResetRelease s = .next t ∧ t.mem = [] ∧ t.parts = [] ∧ t.boot = {} ∧
        t.flash = s.flash ∧ t.fuses = s.fuses ∧ t.power.domains = bootOnly ∧ t.power.shutdown = false ∧
        t.power.heldReset = false)) ∧
    (s.power.heldReset = false → exec .heldResetRelease s = .next s) ∧
    (s.power.ramping ≠ [] → ∃ t, exec .domainRegulation s = .next t ∧ Changes [.power] s t ∧
      t.power.ramping = (if s.boot.stage = 2 ∧ rampingLater s = [] then nextRank t else rampingLater s) ∧
      ∀ k, k < 47 → domOn t k = (domOn s k || ((rampingNow s).contains k && supplied s k))) ∧
    (s.power.ramping = [] → exec .domainRegulation s = .next s)

/-- The limits on the clocks: a sag takes a quadrant at full rate to three quarters and a lasting one to half, until its
hold is over; THROTTLE_N, a period above the cap, the fast limit and a hot quadrant each lower their ceiling; the alert word
takes its causes; at thermal shutdown only BOOT and CTL stay on, and it is logged. While BOOT is off or held in reset the power
manager does none of this. Measured power and temperatures are
operands (log entry 76). -/
def Obligations.ClocksLimited : Prop :=
  ∀ (s : State) (die quad watts volts : Nat) (temp : Int) (fast : Bool),
    let q := 4 * die + quad
    let v := droopOf s q
    (domOn s (domQ q) = true → v.below = false → v.rate = .full → ∃ t, exec (.droopSag die quad) s = .next t ∧
      Changes [.pages, .power] s t ∧ droopOf t q = { rate := .threeQuarter, below := true, hold := false } ∧
      t.counter pnPwr 0 = s.counter pnPwr 0 + 1) ∧
    (v.below = true → ∃ t, exec (.droopDeep die quad) s = .next t ∧ Changes [.pages, .power] s t ∧
      droopOf t q = { v with rate := .half }) ∧
    (v.below = true → ∃ t, exec (.droopRecover die quad) s = .next t ∧ Changes [.power] s t ∧
      droopOf t q = { v with below := false, hold := true }) ∧
    (v.below = false → v.hold = true → ∃ t, exec (.droopHoldEnd die quad) s = .next t ∧ Changes [.power] s t ∧
      droopOf t q = {}) ∧
    (∃ t, exec (.throttleNAssert fast) s = .next t ∧ Changes [.power] s t ∧ throttled t = true ∧ aclkEighths t q ≤ 4) ∧
    (∃ t, exec (.throttleNDeassert fast true) s = .next t ∧ Changes [.power] s t ∧ throttled t = false) ∧
    (throttleIsLong s = true → ∃ t, exec .throttleLong s = .next t ∧ t.power.alert = s.power.alert ||| 1) ∧
    (throttleIsLong s = false → exec .throttleLong s = .next s) ∧
    (bootRuns s = true → ∃ t, exec (.capPeriod watts volts [temp] [] [] []) s = .next t ∧
      Changes [.pages, .power, .crier] s t ∧ t.power.watts = BitVec.ofNat 16 watts ∧
      (capWatts s < watts → t.power.capStep = min 4 (s.power.capStep + 1)) ∧
      (95 < temp → mget 0 t.power.thermStep 0 = min 4 (mget 0 s.power.thermStep 0 + 1)) ∧
      (90 ≤ temp → temp ≤ 95 → t.power.thermStep = s.power.thermStep)) ∧
    (bootRuns s = true → ∃ t, exec .fastLimit s = .next t ∧ Changes [.pages, .power] s t ∧ t.power.capStep = 4 ∧
      t.counter pnPwr 5 = s.counter pnPwr 5 + 1) ∧
    (bootRuns s = true → ∃ t, exec .supplyWarn s = .next t ∧ Changes [.pages, .power, .crier] s t ∧
      t.power = { s.power with alert := s.power.alert ||| 16, supplyWarn := true }) ∧
    (bootRuns s = false → exec (.capPeriod watts volts [temp] [] [] []) s = .next s ∧ exec .fastLimit s = .next s ∧
      exec .supplyWarn s = .next s ∧ exec .thermalShutdown s = .next s) ∧
    (bootRuns s = true → s.power.shutdown = false → ∃ t r, exec .thermalShutdown s = .next t ∧ t.power.shutdown = true ∧
      t.power.domains = s.power.domains &&& BitVec.ofNat 47 (2 ^ bootDomain + 2 ^ domCtl) ∧ t.mem = [] ∧
      t.power.alert = s.power.alert ||| 4 ∧ t.flash.failures.getLast? = some r ∧ r.code = 7)

/-- BOOT.RESET: without its key it is ignored. A warm reset keeps of memory what HBM holds, the domains and flash, and a
die-to-die port that is down (log entry 119); a core
reset, with no job and no partition sealed, zeroes the core's local store and slab, empties its queues and frees its slots,
and no other byte changes; a die reset does so for its forty cores and clears its almanac rings, and leaves its HBM
controllers and the die-to-die ports as they were; with a job or a sealed partition either is ignored and recorded. The pages
are unreachable until the reset completes. -/
def Obligations.ResetsReach : Prop :=
  ∀ (s : State) (init : Nat) (value : Word), Served s init bootResetAddr true →
    let keyed := value.extractLsb' 16 16 = 0xA5C3#16
    let d := bits value.toNat 5 4
    let c := 40 * d + bits value.toNat 11 6
    let emptied (t : State) (g : Nat) : Prop := (t.core g).aq = [] ∧ (t.core g).vq = [] ∧ (t.core g).mq = [] ∧
      (t.core g).inflight = [] ∧ (t.core g).bottom = {} ∧ (t.core g).side = {} ∧ (t.core g).rings = []
    let own (g a : Nat) : Prop := tierOf a < 2 ∧ a < 2 ^ 45 ∧ bits a 43 36 = g
    let idle := anySealed s = false ∧ anyJobAdmitted s = false
    ∀ i ∈ [Instr.warmReset ⟨init, false⟩ value, .dieReset ⟨init, false⟩ value, .coreReset ⟨init, false⟩ value],
      (¬ keyed → ∃ t, exec i s = .next t ∧ OnlyPage pnBoot s t) ∧
      (keyed → s.power.shutdown = true → ∃ t, exec i s = .next t ∧ OnlyPage pnBoot s t) ∧
      (keyed → s.power.shutdown = false → bits value.toNat 3 0 = 1 → ∃ t, exec i s = .next t ∧ t.parts = [] ∧
        t.links = {} ∧ t.boot = {} ∧ t.flash = s.flash ∧ t.fuses = s.fuses ∧ t.power.domains = s.power.domains ∧
        t.mem = (s.mem.filter fun e => tierOf e.1 == 3 && decide (e.1 < 2 ^ 48)) ∧ t.hbmErr = s.hbmErr ∧
        ∀ k, (d2dOf s k).down = true → (d2dOf t k).down = true) ∧
      (keyed → s.power.shutdown = false → idle → bits value.toNat 3 0 = 2 → ∃ t, exec i s = .next t ∧
        (∀ g, g / 40 = d → emptied t g) ∧ (∀ g, g / 40 ≠ d → t.core g = s.core g) ∧ (t.die d).rings = [] ∧
        (∀ a, (∃ g, g / 40 = d ∧ own g a) → memByte t a = 0) ∧
        (∀ a, (∀ g, g / 40 = d → ¬ own g a) → memByte t a = memByte s a) ∧ t.boot.resetBusy = true ∧
        t.d2d = s.d2d ∧ ∀ k, t.hbmc d k = s.hbmc d k) ∧
      (keyed → s.power.shutdown = false → ¬ idle →
        bits value.toNat 3 0 = 2 ∨ (bits value.toNat 3 0 = 3 ∧ bits value.toNat 11 6 < 40) →
        ∃ t, exec i s = .next t ∧ OnlyPage pnBoot s t ∧ (t.page pnBoot).capture = some ((s.page pnBoot).capture.getD
          (BitVec.ofNat 512 (accessRecord s 6 init true bootResetAddr value.toNat)))) ∧
      (keyed → s.power.shutdown = false → idle → bits value.toNat 3 0 = 3 → bits value.toNat 11 6 < 40 →
        ∃ t, exec i s = .next t ∧ emptied t c ∧ (∀ g, g ≠ c → t.core g = s.core g) ∧ (∀ a, own c a → memByte t a = 0) ∧
          (∀ a, ¬ own c a → memByte t a = memByte s a) ∧ t.boot.resetBusy = true ∧ pnSeq c ∈ t.boot.resetPages) ∧
      (∃ t, exec .resetComplete s = .next t ∧ Changes [.boot] s t ∧
        t.boot = { s.boot with resetBusy := false, resetPages := [] })

/-- The start: boot ROM counts it, senses the fuses, derives the identity and ramps rank 2, and goes on once that is on: to stage 1
with an image that verifies, and with one that does not it logs a failure and resets; from the fourth start on it enters minimal
mode, with only BOOT, CTL and HUBFAB on. Stage 1 goes to stage 2, whose report of links, stacks and
images brings up dies, HBM and hosts, or fails; BOOT_OK clears the count; the watchdog's expiry fails the start. A record with no
valid copy is logged. Further, of
R514, R516 and R517: what each stage leaves. Whether an image verifies is an operand (log entry 76); the log is written at
once; where stage 1 is copied to is log entry 89. -/
def Obligations.StartProceeds : Prop :=
  ∀ (s : State) (init : Nat) (value : Word) (hash : BitVec 512) (strap : BitVec 3) (hashes : List (BitVec 512))
      (r : Stage2Report),
    let latest (t : State) (code : Nat) : Prop := ∃ f, t.flash.failures.getLast? = some f ∧ f.code = BitVec.ofNat 8 code
    let failed (t : State) (code : Nat) : Prop := t.boot = {} ∧ t.parts = [] ∧ latest t code
    let reps := hardRepairs s.flash.hardRows r
    let few := ((excludedAfter s reps).map onesOf).sum ≤ 8
    let c := s.flash.bootCount
    let image : BitVec 2 := if c = 0 then s.flash.prefSlot else if c = 1 then (if s.flash.prefSlot = 0 then 1 else 0)
      else if c = 2 then 2 else 3
    let ready := romReady s = true
    let goesOn := ready ∧ s.boot.begun = true ∧ rankOff s 2 = []
    (∀ verified, ready → s.boot.begun = false → rankOff s 2 ≠ [] → ∃ t, exec (.bootRom verified hash strap) s = .next t ∧
      Changes [.power, .sealU, .fuses, .boot, .flash] s t ∧ t.power.ramping = rankOff s 2 ∧
      t.boot = { s.boot with begun := true, startCount := c + 1, image := image, opKey := s.fuses.opKey } ∧
      t.fuses.identityKey = BitVec.ofNat 256 (ofLe (edPublic (leBytes 32 (identityPrivate s.fuses.secret).toNat))) ∧
      t.fuses.deviceId = deviceIdOf t.fuses.identityKey ∧ t.flash.bootCount = c + 1 ∧ t.flash.prefSlot = s.flash.prefSlot ∧
      (s.flash.boot.read.isSome = true → t.flash.failures = s.flash.failures) ∧ (s.flash.boot.read = none → latest t 9)) ∧
    (∀ verified, ready → s.boot.begun = false → rankOff s 2 = [] →
      exec (.bootRom verified hash strap) s = exec (.bootRom verified hash strap) (beginStart s strap)) ∧
    (goesOn → s.boot.image ≠ 3 →
      (∃ t, exec (.bootRom true hash strap) s = .next t ∧ Changes [.mem, .sealU, .boot] s t ∧
        t.boot = { s.boot with romDone := true, stage := 1, hostsOn := 1 } ∧ t.sealU.m0 = extend s.sealU.m0 hash) ∧
      (∃ t, exec (.bootRom false hash strap) s = .next t ∧ failed t 1 ∧ t.flash.bootCount = c)) ∧
    (∀ verified, goesOn → s.boot.image = 3 → ∃ t, exec (.bootRom verified hash strap) s = .next t ∧
      t.boot = { s.boot with romDone := true, minimal := true, image := 3, stage := 0, hostsOn := 1 } ∧
      t.power.alert = s.power.alert ||| 0x20 ∧ t.flash = s.flash ∧
      t.power.domains = s.power.domains &&& BitVec.ofNat 47 (2 ^ bootDomain + 2 ^ domCtl + 2 ^ domHubfab)) ∧
    (∀ verified, romReady s = false → exec (.bootRom verified hash strap) s = .next s) ∧
    (s.boot.stage = 1 →
      (s.flash.repair.read.isSome = true → s.flash.config.read.isSome = true →
        ∃ t, exec (.stage1 true true hash hashes) s = .next t ∧ t.boot = { s.boot with stage := 2, certOk := true } ∧
          t.sealU.m1 = extend s.sealU.m1 hash ∧ t.sealU.m3 = hashes.foldl extend s.sealU.m3 ∧
          Changes [.power, .boot, .sealU] s t) ∧
      (s.flash.repair.read = none ∨ s.flash.config.read = none →
        ∃ t, exec (.stage1 true true hash hashes) s = .next t ∧ t.boot.stage = 2 ∧ latest t 9) ∧
      (∃ t, exec (.stage1 false true hash hashes) s = .next t ∧ failed t 2) ∧
      (∃ t, exec (.stage1 true false hash hashes) s = .next t ∧ failed t 1)) ∧
    (stage2Ready s = true → failedLink r = none → failedStack r = none → few → r.imagesOk = true →
      ∃ t, exec (.stage2 r) s = .next t ∧ t.boot = { s.boot with stage := 3, hostsOn := 0xFFFF } ∧
        t.sealU.m2 = r.imageHashes.foldl extend s.sealU.m2 ∧ (∀ d, d < 4 → (t.die d).dc0.running = true ∧
          (t.die d).dc1.running = true ∧ (t.hbmc d 0).ready = true ∧ (t.hbmc d 1).ready = true) ∧ bellEn t = true) ∧
    (stage2Ready s = true → failedLink r ≠ none → ∃ t, exec (.stage2 r) s = .next t ∧ failed t 3) ∧
    (stage2Ready s = true → failedLink r = none → failedStack r ≠ none → ∃ t, exec (.stage2 r) s = .next t ∧ failed t 4) ∧
    (stage2Ready s = true → failedLink r = none → failedStack r = none → ¬ few →
      ∃ t, exec (.stage2 r) s = .next t ∧ failed t 5) ∧
    (Served s init bootOkAddr true → value.getLsbD 0 = true → s.boot.bootOk = false →
      ∃ t, exec (.bootOk ⟨init, false⟩ value) s = .next t ∧ Changes [.pages, .boot, .flash] s t ∧
        t.boot = { s.boot with bootOk := true } ∧ t.flash.bootCount = 0 ∧ t.flash.failures = s.flash.failures) ∧
    (s.power.phase = .on → s.boot.bootOk = false → s.power.shutdown = false → s.power.modRst = false →
      watchdogLimit s ≤ s.boot.watchdog → ∃ t, exec .startWatchdogExpiry s = .next t ∧ failed t 6) ∧
    (s.boot.bootOk = true → exec .startWatchdogExpiry s = .next s)

/-! ### Recovery and SMBus -/

/-- In minimal mode each Raevo request that arrives while the port is enabled is answered to its sender with its number; it
writes a slot, prefers a verified slot, clears the start counter, or resets the module. Out of minimal mode it is discarded
and counted. The bytes of unwritten flash are log entry 63, the readings of a request log entry 64; that a frame which has come
shows the link as up is log entry 98. -/
def Obligations.RaevoServes : Prop :=
  ∀ (s : State) (r : RaevoReq) (data : List Byte), domOn s domCtl = true →
    let served := mgmtOn s = true ∧ s.boot.minimal = true
    let answers (t : State) (op : Nat) (st : Byte) (bs : List Byte) : Prop :=
      t.out = s.out ++ [.raevoAnswer r.source op r.seq st bs]
    let came (t : State) (L : List Piece) : Prop := Changes (.pages :: .power :: L) s t ∧
      t.power = { s.power with mgmtUp := true } ∧ t.counter pnMgmt 0 = s.counter pnMgmt 0 + 1
    (served →
      (∃ t, exec (.info r) s = .next t ∧ came t [.out] ∧ answers t 1 0 (infoData s)) ∧
      (r.length ≤ 1024 → readable r.offset.toNat r.length = true → ∃ t, exec (.readFlash r) s = .next t ∧
        came t [.out] ∧ answers t 2 0 ((List.range r.length).map fun k => readableByte s (r.offset.toNat + k))) ∧
      (1024 < r.length → (∃ t, exec (.readFlash r) s = .next t ∧ came t [.out] ∧ answers t 2 1 []) ∧
        ∃ t, exec (.writeSlot r data true) s = .next t ∧ came t [.out] ∧ answers t 3 1 []) ∧
      (r.length ≤ 1024 → slotOffset r.offset + r.length ≤ slotSize → data.length = r.length →
        ∃ t, exec (.writeSlot r data true) s = .next t ∧ came t [.out, .flash] ∧ answers t 3 0 [] ∧
          ∀ k, k < r.length → flashByte t (slotBase r.offset + slotOffset r.offset + k) = data.getD k 0) ∧
      (∃ t, exec (.commitSlot r true) s = .next t ∧ came t [.out, .flash] ∧ answers t 4 0 [] ∧
        t.flash.bootRec = { s.flash.bootRec with prefSlot := slotOf r.offset } ∧ t.flash.log = s.flash.log ∧
        t.flash.repair = s.flash.repair ∧ t.flash.config = s.flash.config ∧ t.flash.bytes = s.flash.bytes) ∧
      (∃ t, exec (.commitSlot r false) s = .next t ∧ came t [.out] ∧ answers t 4 3 []) ∧
      (∃ t, exec (.clearCounter r) s = .next t ∧ came t [.out, .flash] ∧ answers t 5 0 [] ∧
        t.flash.bootRec = { s.flash.bootRec with count := 0 }) ∧
      (s.power.shutdown = false → ∃ t, exec (.raevoReset r) s = .next t ∧ answers t 6 0 [] ∧ t.mem = [] ∧ t.parts = [] ∧
        t.boot = {} ∧ t.flash = s.flash ∧ t.power.domains = bootOnly)) ∧
    (¬ served → ∀ i ∈ [Instr.info r, .readFlash r, .writeSlot r data true, .commitSlot r true, .clearCounter r, .raevoReset r],
      ∃ t, exec i s = .next t ∧ came t [] ∧ (∀ k, k ≠ pnMgmt → t.page k = s.page k) ∧
        t.counter pnMgmt 2 = s.counter pnMgmt 2 + 1)

/-- SMBus: each read with a good error code is answered with the device's bytes, a block read with its byte count before and
its packet error code behind them; one with a bad code only with a NACK; a
write of the cap takes it clamped, and a clear of the alert word leaves the causes that hold. The address of an alert response
stands in bits 7 to 1; bit 0 is log entry 130. -/
def Obligations.SmbusAnswers : Prop :=
  ∀ (s : State) (mask : Byte) (cap : BitVec 16), domOn s domCtl = true →
    let own : Nat := 0x58 + s.power.strap.toNat
    let block (code : Nat) (data : List Byte) : List Byte :=
      BitVec.ofNat 8 data.length :: data ++
        [pec ([BitVec.ofNat 8 (2 * own), BitVec.ofNat 8 code, BitVec.ofNat 8 (2 * own + 1)] ++ (BitVec.ofNat 8 data.length :: data))]
    let reads := [(Instr.deviceId, block 0 (leBytes 8 (shownId s).toNat)),
      (.state, block 1 (leBytes 4 (bootStatus s) ++ leBytes 4 (pwrStatus s))), (.supply, block 2 (leBytes 4 (inputW s))),
      (.temps, block 3 ((List.range 20).map (mget 0 s.power.temps) ++ List.replicate 4 0)), (.alertCause, [s.power.alert]),
      (.clocks, block 6 (leBytes 4 (qclk s))), (.fail, block 7 (lastFailure s)), (.cap none, leBytes 2 (capWatts s))]
    (∀ e ∈ reads, exec (e.1 true) s = .next (s.emit (.smbusData e.2)) ∧ exec (e.1 false) s = .next (s.emit .smbusNack)) ∧
    (∃ t, exec (.cap (some cap) true) s = .next t ∧ Changes [.out, .pages] s t ∧
      t.reg pnPwr 0x100 = BitVec.ofNat 32 (max 300 (min 1000 cap.toNat)) ∧ t.out = s.out ++ [.smbusAck]) ∧
    (∃ t, exec (.alertClear mask true) s = .next t ∧ Changes [.out, .power] s t ∧ t.out = s.out ++ [.smbusAck] ∧
      ∀ b, b < 8 → t.power.alert.getLsbD b = (s.power.alert.getLsbD b && !(mask.getLsbD b && !causeHolds s b))) ∧
    (exec (.cap (some cap) false) s = .next (s.emit .smbusNack) ∧ exec (.alertClear mask false) s = .next (s.emit .smbusNack)) ∧
    (s.power.alert ≠ 0 → ∃ t bit, bit < 2 ∧ exec .alertResponse s = .next t ∧ Changes [.free, .out] s t ∧
      t.out = s.out ++ [.smbusData [BitVec.ofNat 8 (2 * own + bit)]]) ∧
    (s.power.alert = 0 → exec .alertResponse s = .next s) ∧ exec .smbusTimeout s = .next (s.emit .smbusRelease)

/-! ### Commands of a core -/

/-- A command at the front of its queue whose dependences are met runs on a core at rest, with no unit of memory in error and
no halt at a NaN: it leaves the queue and is the latest in flight. It is refused where its slots or its chain refuse it, and
fails where it depends on a failed command. A COUCH appends its tokens or names the position that leaves its range; a member
of a decode group sends its partial and the lead, with every partial there, runs; a movement command whose source is lent asks
for its bytes. A gather request opens a group, or runs at once where it reaches the group's target. How a decode group goes
on is log entry 29. -/
def Obligations.CommandsIssue : Prop :=
  ∀ (s : State) (g : Nat) (r : CmdRec), AtRest s g → NoErrors s → (s.core g).gather = none →
    let runsWith (statuses : List Nat) (i : Instr) (q : QueueId) : Prop := ∃ t, exec i s = .next t ∧ HasRun s t g q r statuses
    let runs := runsWith [stOk, stLinkTimeout]
    let others (i : Instr) : Prop := ∀ t, exec i s = .next t → ∀ k, k ≠ g → t.core k = s.core k
    let refused (i : Instr) (why : Nat) : Prop := why ≠ 0 →
      ∃ t, exec i s = .next t ∧ Completes s t g r { status := stDescriptor, detail := why }
    let w := whoOf s g r.ctx
    let x := moverSrc r
    let y := moverDst r
    let met := depsOf r = .met
    let plain := haltsAtTile s g = false ∧ met
    let edge := (s.core g).edge r.edge
    let keep := r.accBegin == 3
    let matWhy (isT : Bool) : Nat := matRefusal ((s.core g).edge isT) (matPlan s g isT [r]).tiles 0 r
    let sizesMeet := ∀ p ∈ partialsOf r, viewNat s (keyOf s w p.base + 8) 4 = p.size
    let convSlots := slotsRefused (s.core g).bottom false (convKeys r
      (convTiles r (readMat s (planesOf s w (convOps r).x)) (readMat s (planesOf s w (convOps r).w))))
    let ws := r.words? 5
    let lead := (listMembers ws).headD 0
    let arrived (c : Nat) : List DecodePartial := (s.core c).partials.filter fun p => p.listKey == ws
    let n (op : Nat) : Nat := if op = opGather then x.rows else y.rows
    let inRange (op : Nat) : Prop := op ≠ opMove → ∀ i ∈ moverList s w r, i < n op
    let released (op : Nat) : Prop := op = opMove ∧ releaseDst s w y ≠ []
    let rows := (r.tensor? 4).elim 0 Tensor.rows
    let commands := [(Instr.matmul g, QueueId.aq, opMatmul), (.matmulT g, .aq, opMatmulT), (.accRead g, .aq, opAccRead),
      (.reduceX g, .aq, opReduceX), (.attnFwd g, .aq, opAttnFwd), (.attnBwd g, .aq, opAttnBwd),
      (.attnDecode g, .aq, opAttnDecode), (.couch g, .mq, opCouch), (.conv g, .aq, opConv), (.vec g, .vq, opVec),
      (.vecProg g, .vq, opVecProg), (.updateP1 g, .vq, opUpdateP1), (.updateP2 g, .vq, opUpdateP2), (.move g, .mq, opMove),
      (.gather g, .mq, opGather), (.scatter g, .mq, opScatter)]
    (∀ e ∈ commands, frontOf s g e.2.1 e.2.2 = some r → depsOf r = .failed →
      ∃ t, exec e.1 s = .next t ∧ Completes s t g r { status := stDepFailed }) ∧
    (∀ e ∈ commands, e.2.2 ≠ opAttnDecode → others e.1) ∧
    (frontOf s g .aq opMatmul = some r → isGatherReq s g r = false → met →
      (plain → matWhy false = 0 → runs (.matmul g) .aq) ∧ refused (.matmul g) (matWhy false)) ∧
    (frontOf s g .aq opMatmulT = some r → met →
      (plain → matWhy true = 0 → runs (.matmulT g) .aq) ∧ refused (.matmulT g) (matWhy true)) ∧
    (frontOf s g .aq opAccRead = some r → met →
      (accReadRefusal edge r = 0 → runs (.accRead g) .aq) ∧ refused (.accRead g) (accReadRefusal edge r)) ∧
    (frontOf s g .aq opReduceX = some r → met → sizesMeet →
      (plain → slotsRefusal edge keep (reduceKeys r) = 0 → runs (.reduceX g) .aq) ∧
        refused (.reduceX g) (slotsRefusal edge keep (reduceKeys r))) ∧
    (frontOf s g .aq opReduceX = some r → met → ¬ sizesMeet → refused (.reduceX g) 0x04) ∧
    (frontOf s g .aq opAttnFwd = some r → met →
      (plain → attnFwdRefusal r (s.core g) = 0 → runs (.attnFwd g) .aq) ∧ refused (.attnFwd g) (attnFwdRefusal r (s.core g))) ∧
    (frontOf s g .aq opAttnBwd = some r → met →
      (plain → attnBwdRefusal r (bwdCore r (s.core g)) = 0 → runs (.attnBwd g) .aq) ∧
        refused (.attnBwd g) (attnBwdRefusal r (bwdCore r (s.core g)))) ∧
    (∀ streams spans stalled, frontOf s g .aq opAttnDecode = some r → plain → decodeRefused r (s.core g) = false →
      (memberOf ws g = some 0 → listGroup ws ≤ (arrived g).length + 1 → (∀ p ∈ arrived g, p.failed = false) →
        walkStreams s w r 0 = .ok streams spans stalled →
        runsWith [stOk, stPageExhausted, stLinkTimeout] (.attnDecode g) .aq) ∧
      (∀ m, memberOf ws g = some m → m ≠ 0 → (∀ p ∈ arrived lead, p.member ≠ m) →
        walkStreams s w r m = .ok streams spans stalled →
        ∃ t p, exec (.attnDecode g) s = .next t ∧ (t.core lead).partials = (s.core lead).partials ++ [p] ∧
          p.listKey = ws ∧ p.member = m ∧ p.failed = false ∧ (t.core g).aq = (s.core g).aq)) ∧
    (frontOf s g .mq opCouch = some r → met → notMine s w (listEntries (r.words? 6)) = false →
      lastPageBad s w (listEntries (r.words? 6)) = false →
      (∃ t, exec (.couch g) s = .next t ∧ (HasRun s t g .mq r [stOk, stPageExhausted, stLinkTimeout] ∨
        ∃ u d, Completes u t g r { status := stPosition, detail := d })) ∧
      (∀ e, listEntries (r.words? 6) = [e] → e.count = 1 →
        let v := readSeq s (keyOf s w e.addr)
        v.stalled = false → v.ovf = false → v.count ≠ 0 → v.length ≤ 16777215 →
        (readPage s (v.entry s w (v.count - 1))).fill ≠ 128 →
        ∃ t, exec (.couch g) s = .next t ∧ HasRun s t g .mq r [stOk] ∧
          t.counter (pnDieCtlOf g) 0 = s.counter (pnDieCtlOf g) 0 + 1)) ∧
    (frontOf s g .mq opCouch = some r → met → notMine s w (listEntries (r.words? 6)) = true → refused (.couch g) 0x03) ∧
    (frontOf s g .aq opConv = some r → plain → (convOps r).empty = false → convSlots = false → runs (.conv g) .aq) ∧
    (frontOf s g .aq opConv = some r → met → (convOps r).empty = false → convSlots = true → refused (.conv g) 0x06) ∧
    (∀ e ∈ [(Instr.vec g, opVec), (.vecProg g, opVecProg)], frontOf s g .vq e.2 = some r → met →
      (plain → slotsRefusal edge keep (vecKeys r) = 0 → runs e.1 .vq) ∧ refused e.1 (slotsRefusal edge keep (vecKeys r))) ∧
    (frontOf s g .vq opUpdateP1 = some r → plain → slotsRefused edge false (normKeys r) = false →
      runsWith [stOk, stFrozenSkip, stStepSkew, stLinkTimeout] (.updateP1 g) .vq) ∧
    (frontOf s g .vq opUpdateP2 = some r → met → updateHeld s = false →
      runsWith [stOk, stFrozenSkip, stStepSkew, stLinkTimeout] (.updateP2 g) .vq) ∧
    (frontOf s g .vq opUpdateP2 = some r → met → updateHeld s = true → exec (.updateP2 g) s = .next s) ∧
    (∀ e ∈ [(Instr.move g, opMove), (.gather g, opGather), (.scatter g, opScatter)], frontOf s g .mq e.2 = some r → met →
      (¬ inRange e.2 → refused e.1 0x04) ∧
      (inRange e.2 → ¬ released e.2 → remoteSpans s w r = [] → runs e.1 .mq) ∧
      (inRange e.2 → ¬ released e.2 → remoteSpans s w r ≠ [] →
        (firstLost s w ((remoteSpans s w r).map Prod.fst) = none →
          ∃ t, exec e.1 s = .next t ∧ (t.core g).reads.isSome = true ∧ (t.core g).mq = (s.core g).mq ∧ t.mem = s.mem) ∧
        (firstLost s w ((remoteSpans s w r).map Prod.fst) ≠ none →
          ∃ t, exec e.1 s = .next t ∧ Completes s t g r { status := stLinkTimeout }))) ∧
    (frontOf s g .aq opMatmul = some r → met → isGatherReq s g r = true →
      (rows < gatherTarget s g r → ∃ t, exec (.matmul g) s = .next t ∧ (t.core g).aq = (s.core g).aq.drop 1 ∧
        (t.core g).gather = some { reqs := [r], rows := rows, since := s.bell.count } ∧ t.mem = s.mem) ∧
      (gatherTarget s g r ≤ rows → plain → matWhy false = 0 → runs (.matmul g) .aq))

/-- Gather groups. A request that matches the open group joins it below its target. A group whose oldest request has been held
for HOLD_BT bell ticks runs with the rows it has: it is open no longer, its request is in flight, and its expiry is counted;
before that nothing happens. While the core's controller is halted it does not issue, but is due. -/
def Obligations.GatherGroupExpires : Prop :=
  ∀ (s : State) (g : Nat) (r : CmdRec) (v : GatherGroup), NoErrors s → (s.core g).gather = some v → v.due = false →
    let hold := max 1 (bits (s.regN (pnSeq g) 0x100) 31 16)
    let rows := (r.tensor? 4).elim 0 Tensor.rows
    (frontOf s g .aq opMatmul = some r → depsOf r = .met → isGatherReq s g r = true → matchesOpen s g r = true →
      matWaits s g r = false → v.rows + rows < gatherTarget s g r →
      (∀ q ∈ v.reqs, ∀ k ∈ gatherRows q, k ∉ gatherRows r) →
      ∃ t, exec (.matmul g) s = .next t ∧ (t.core g).aq = (s.core g).aq.drop 1 ∧
        (t.core g).gather = some { v with reqs := v.reqs ++ [r], rows := v.rows + rows } ∧ t.mem = s.mem) ∧
    (AtRest s g → v.reqs = [r] → haltsAtTile s g = false → v.since.toNat + hold ≤ s.bell.count.toNat →
      (dieCtlOf s g).halted = false →
      matRefusal (s.core g).bottom (matPlan s g false [r]).tiles 0 r = 0 →
      ∃ t f, exec (.gatherHoldExpiry g) s = .next t ∧ (t.core g).inflight = (s.core g).inflight ++ [f] ∧ f.queue = .aq ∧
        f.cmd = r ∧ f.status.toNat ∈ [stOk, stLinkTimeout] ∧ (t.core g).aq = (s.core g).aq ∧ (t.core g).gather = none ∧
        t.counter (pnArray g) 8 = s.counter (pnArray g) 8 + 1) ∧
    ((dieCtlOf s g).halted = true → v.since.toNat + hold ≤ s.bell.count.toNat →
      ∃ t, exec (.gatherHoldExpiry g) s = .next t ∧ Changes [.pages, .cores] s t ∧ (t.core g).aq = (s.core g).aq ∧
        (t.core g).gather = some { v with due := true } ∧ t.counter (pnArray g) 8 = s.counter (pnArray g) 8 + 1) ∧
    (s.bell.count.toNat < v.since.toNat + hold → exec (.gatherHoldExpiry g) s = .next s)
end

