-- ==== Sys2Proof/Laws/Maps.lean ====
section
/-! SUPPORT. Laws of the sorted maps: reading what was set, reading elsewhere, and the canonical form. -/

-- One declaration at a time: the check of the package as one text bounds memory, which a thread a proof would pass.
set_option Elab.async false

namespace Sys2Proof.Machine

variable {α : Type}

@[simp] theorem mget?_nil (k : Nat) : mget? ([] : SMap α) k = none := rfl

@[simp] theorem mget_nil (d : α) (k : Nat) : mget d ([] : SMap α) k = d := rfl

theorem mget?_append (m n : SMap α) (k : Nat) : mget? (m ++ n) k = (mget? m k).or (mget? n k) := by
  induction m with
  | nil => rfl
  | cons e r ih =>
    obtain ⟨j, v⟩ := e
    by_cases h : j = k <;> simp [mget?, h, ih]

/-- A filter on keys keeps what it admits. -/
theorem mget?_filter_key (p : Nat → Bool) (m : SMap α) (k : Nat) :
    mget? (m.filter fun e => p e.1) k = if p k then mget? m k else none := by
  induction m with
  | nil => simp [mget?]
  | cons e r ih =>
    obtain ⟨j, v⟩ := e
    rw [List.filter_cons]
    split
    · next hp =>
      by_cases h : j = k
      · subst h; simp [mget?, hp]
      · simp only [mget?, h, if_false, ih]
    · next hp =>
      by_cases h : j = k
      · subst h; simp [ih, hp]
      · simp only [mget?, h, if_false, ih]

@[simp] theorem mget?_mput_same (m : SMap α) (k : Nat) (v : α) : mget? (mput m k v) k = some v := by
  unfold mput
  rw [mget?_append, mget?_filter_key (fun j => decide (j < k))]
  simp [mget?]

theorem mget?_mput_ne (m : SMap α) {k j : Nat} (v : α) (h : j ≠ k) : mget? (mput m k v) j = mget? m j := by
  unfold mput
  rw [mget?_append, mget?_filter_key (fun i => decide (i < k))]
  have e : mget? ((k, v) :: m.filter fun e => decide (k < e.1)) j = if k < j then mget? m j else none := by
    have hk : ¬ k = j := fun c => h c.symm
    simp only [mget?, hk, if_false]
    rw [mget?_filter_key (fun i => decide (k < i))]
    simp
  rw [e]
  by_cases h1 : j < k
  · have : ¬ k < j := by omega
    simp [h1, this]
  · have : k < j := by omega
    simp [h1, this]

@[simp] theorem mget?_merase_same (m : SMap α) (k : Nat) : mget? (merase m k) k = none := by
  unfold merase
  rw [mget?_filter_key (fun j => j != k)]
  simp

theorem mget?_merase_ne (m : SMap α) {k j : Nat} (h : j ≠ k) : mget? (merase m k) j = mget? m j := by
  unfold merase
  rw [mget?_filter_key (fun i => i != k)]
  simp [h]

/-- Reading what was set. -/
@[simp] theorem mget_mset_same [DecidableEq α] (d : α) (m : SMap α) (k : Nat) (v : α) : mget d (mset d m k v) k = v := by
  unfold mset mget
  split
  · next h => simp [h]
  · simp

/-- Reading elsewhere. -/
theorem mget_mset_ne [DecidableEq α] (d : α) (m : SMap α) {k j : Nat} (v : α) (h : j ≠ k) :
    mget d (mset d m k v) j = mget d m j := by
  unfold mset mget
  split
  · rw [mget?_merase_ne m h]
  · rw [mget?_mput_ne m v h]

@[simp] theorem mget_mput_same (d : α) (m : SMap α) (k : Nat) (v : α) : mget d (mput m k v) k = v := by simp [mget]
theorem mget_mput_ne (d : α) (m : SMap α) {k j : Nat} (v : α) (h : j ≠ k) : mget d (mput m k v) j = mget d m j := by
  simp [mget, mget?_mput_ne m v h]

/-- Reading after a set, at any key. -/
theorem mget_mset [DecidableEq α] (d : α) (m : SMap α) (k j : Nat) (v : α) :
    mget d (mset d m k v) j = if j = k then v else mget d m j := by
  by_cases h : j = k
  · subst h; simp
  · simp [h, mget_mset_ne d m v h]

/-- What a map read as through a function that keeps the keys. -/
theorem mget?_map_val (f : Nat → α → α) (m : SMap α) (k : Nat) :
    mget? (m.map fun e => (e.1, f e.1 e.2)) k = (mget? m k).map (f k) := by
  induction m with
  | nil => rfl
  | cons e r ih =>
    obtain ⟨j, v⟩ := e
    by_cases h : j = k
    · subst h; simp [mget?]
    · simp [mget?, h, ih]

/-! ### The canonical form -/

/-- Keys rise: every key lies above those before it. -/
theorem keysRise_iff (m : SMap α) : keysRise m = true ↔ m.Pairwise (fun a b => a.1 < b.1) := by
  induction m with
  | nil => simp [keysRise]
  | cons a r ih =>
    cases r with
    | nil => simp [keysRise]
    | cons b t =>
      rw [keysRise, Bool.and_eq_true, ih, decide_eq_true_iff]
      constructor
      · rintro ⟨h, hp⟩
        refine List.pairwise_cons.2 ⟨fun x hx => ?_, hp⟩
        rcases List.mem_cons.1 hx with rfl | hx
        · exact h
        · exact Nat.lt_trans h ((List.pairwise_cons.1 hp).1 x hx)
      · intro h
        exact ⟨(List.pairwise_cons.1 h).1 b (by simp), (List.pairwise_cons.1 h).2⟩

theorem keysRise_filter (p : Nat × α → Bool) (m : SMap α) (h : keysRise m = true) : keysRise (m.filter p) = true := by
  rw [keysRise_iff] at *
  exact h.filter p

theorem keysRise_merase (m : SMap α) (k : Nat) (h : keysRise m = true) : keysRise (merase m k) = true :=
  keysRise_filter _ m h

theorem keysRise_mput (m : SMap α) (k : Nat) (v : α) (h : keysRise m = true) : keysRise (mput m k v) = true := by
  rw [keysRise_iff] at *
  unfold mput
  rw [List.pairwise_append]
  refine ⟨h.filter _, ?_, ?_⟩
  · refine List.pairwise_cons.2 ⟨fun x hx => ?_, h.filter _⟩
    simpa using (List.mem_filter.1 hx).2
  · intro a ha b hb
    have h1 : a.1 < k := by simpa using (List.mem_filter.1 ha).2
    rcases List.mem_cons.1 hb with rfl | hb
    · exact h1
    · have h2 : k < b.1 := by simpa using (List.mem_filter.1 hb).2
      exact Nat.lt_trans h1 h2

/-- Setting a value keeps the keys rising. -/
theorem keysRise_mset [DecidableEq α] (d : α) (m : SMap α) (k : Nat) (v : α) (h : keysRise m = true) :
    keysRise (mset d m k v) = true := by
  unfold mset
  split
  · exact keysRise_merase m k h
  · exact keysRise_mput m k v h

end Sys2Proof.Machine
end

