-- ==== Sys2Proof/Laws/State.lean ====
section
/-! SUPPORT. The fields of the state under each of its updates: one lemma per field that an update leaves alone, and what
the accessors read after a write of their own part. -/

-- One declaration at a time: the check of the package as one text bounds memory, which a thread a proof would pass.
set_option Elab.async false

namespace Sys2Proof.Machine

variable (s : State)

/-! #### setCore -/

@[simp] theorem State.setCore_pending (g : Nat) (c : Core) : (s.setCore g c).pending = s.pending := rfl
@[simp] theorem State.setCore_free (g : Nat) (c : Core) : (s.setCore g c).free = s.free := rfl
@[simp] theorem State.setCore_out (g : Nat) (c : Core) : (s.setCore g c).out = s.out := rfl
@[simp] theorem State.setCore_mem (g : Nat) (c : Core) : (s.setCore g c).mem = s.mem := rfl
@[simp] theorem State.setCore_bad (g : Nat) (c : Core) : (s.setCore g c).bad = s.bad := rfl
@[simp] theorem State.setCore_softBad (g : Nat) (c : Core) : (s.setCore g c).softBad = s.softBad := rfl
@[simp] theorem State.setCore_hbmErr (g : Nat) (c : Core) : (s.setCore g c).hbmErr = s.hbmErr := rfl
@[simp] theorem State.setCore_burstKey (g : Nat) (c : Core) : (s.setCore g c).burstKey = s.burstKey := rfl
@[simp] theorem State.setCore_hbmStale (g : Nat) (c : Core) : (s.setCore g c).hbmStale = s.hbmStale := rfl
@[simp] theorem State.setCore_tags (g : Nat) (c : Core) : (s.setCore g c).tags = s.tags := rfl
@[simp] theorem State.setCore_pages (g : Nat) (c : Core) : (s.setCore g c).pages = s.pages := rfl
@[simp] theorem State.setCore_dies (g : Nat) (c : Core) : (s.setCore g c).dies = s.dies := rfl
@[simp] theorem State.setCore_d2d (g : Nat) (c : Core) : (s.setCore g c).d2d = s.d2d := rfl
@[simp] theorem State.setCore_bell (g : Nat) (c : Core) : (s.setCore g c).bell = s.bell := rfl
@[simp] theorem State.setCore_sched (g : Nat) (c : Core) : (s.setCore g c).sched = s.sched := rfl
@[simp] theorem State.setCore_parts (g : Nat) (c : Core) : (s.setCore g c).parts = s.parts := rfl
@[simp] theorem State.setCore_crier (g : Nat) (c : Core) : (s.setCore g c).crier = s.crier := rfl
@[simp] theorem State.setCore_links (g : Nat) (c : Core) : (s.setCore g c).links = s.links := rfl
@[simp] theorem State.setCore_sealU (g : Nat) (c : Core) : (s.setCore g c).sealU = s.sealU := rfl
@[simp] theorem State.setCore_power (g : Nat) (c : Core) : (s.setCore g c).power = s.power := rfl
@[simp] theorem State.setCore_boot (g : Nat) (c : Core) : (s.setCore g c).boot = s.boot := rfl
@[simp] theorem State.setCore_flash (g : Nat) (c : Core) : (s.setCore g c).flash = s.flash := rfl
@[simp] theorem State.setCore_fuses (g : Nat) (c : Core) : (s.setCore g c).fuses = s.fuses := rfl
@[simp] theorem State.setCore_hosts (g : Nat) (c : Core) : (s.setCore g c).hosts = s.hosts := rfl

/-! #### modCore -/

@[simp] theorem State.modCore_pending (g : Nat) (f : Core → Core) : (s.modCore g f).pending = s.pending := rfl
@[simp] theorem State.modCore_free (g : Nat) (f : Core → Core) : (s.modCore g f).free = s.free := rfl
@[simp] theorem State.modCore_out (g : Nat) (f : Core → Core) : (s.modCore g f).out = s.out := rfl
@[simp] theorem State.modCore_mem (g : Nat) (f : Core → Core) : (s.modCore g f).mem = s.mem := rfl
@[simp] theorem State.modCore_bad (g : Nat) (f : Core → Core) : (s.modCore g f).bad = s.bad := rfl
@[simp] theorem State.modCore_softBad (g : Nat) (f : Core → Core) : (s.modCore g f).softBad = s.softBad := rfl
@[simp] theorem State.modCore_hbmErr (g : Nat) (f : Core → Core) : (s.modCore g f).hbmErr = s.hbmErr := rfl
@[simp] theorem State.modCore_burstKey (g : Nat) (f : Core → Core) : (s.modCore g f).burstKey = s.burstKey := rfl
@[simp] theorem State.modCore_hbmStale (g : Nat) (f : Core → Core) : (s.modCore g f).hbmStale = s.hbmStale := rfl
@[simp] theorem State.modCore_tags (g : Nat) (f : Core → Core) : (s.modCore g f).tags = s.tags := rfl
@[simp] theorem State.modCore_pages (g : Nat) (f : Core → Core) : (s.modCore g f).pages = s.pages := rfl
@[simp] theorem State.modCore_dies (g : Nat) (f : Core → Core) : (s.modCore g f).dies = s.dies := rfl
@[simp] theorem State.modCore_d2d (g : Nat) (f : Core → Core) : (s.modCore g f).d2d = s.d2d := rfl
@[simp] theorem State.modCore_bell (g : Nat) (f : Core → Core) : (s.modCore g f).bell = s.bell := rfl
@[simp] theorem State.modCore_sched (g : Nat) (f : Core → Core) : (s.modCore g f).sched = s.sched := rfl
@[simp] theorem State.modCore_parts (g : Nat) (f : Core → Core) : (s.modCore g f).parts = s.parts := rfl
@[simp] theorem State.modCore_crier (g : Nat) (f : Core → Core) : (s.modCore g f).crier = s.crier := rfl
@[simp] theorem State.modCore_links (g : Nat) (f : Core → Core) : (s.modCore g f).links = s.links := rfl
@[simp] theorem State.modCore_sealU (g : Nat) (f : Core → Core) : (s.modCore g f).sealU = s.sealU := rfl
@[simp] theorem State.modCore_power (g : Nat) (f : Core → Core) : (s.modCore g f).power = s.power := rfl
@[simp] theorem State.modCore_boot (g : Nat) (f : Core → Core) : (s.modCore g f).boot = s.boot := rfl
@[simp] theorem State.modCore_flash (g : Nat) (f : Core → Core) : (s.modCore g f).flash = s.flash := rfl
@[simp] theorem State.modCore_fuses (g : Nat) (f : Core → Core) : (s.modCore g f).fuses = s.fuses := rfl
@[simp] theorem State.modCore_hosts (g : Nat) (f : Core → Core) : (s.modCore g f).hosts = s.hosts := rfl

/-! #### modRing -/

@[simp] theorem State.modRing_pending (g x : Nat) (f : Ring → Ring) : (s.modRing g x f).pending = s.pending := rfl
@[simp] theorem State.modRing_free (g x : Nat) (f : Ring → Ring) : (s.modRing g x f).free = s.free := rfl
@[simp] theorem State.modRing_out (g x : Nat) (f : Ring → Ring) : (s.modRing g x f).out = s.out := rfl
@[simp] theorem State.modRing_mem (g x : Nat) (f : Ring → Ring) : (s.modRing g x f).mem = s.mem := rfl
@[simp] theorem State.modRing_bad (g x : Nat) (f : Ring → Ring) : (s.modRing g x f).bad = s.bad := rfl
@[simp] theorem State.modRing_softBad (g x : Nat) (f : Ring → Ring) : (s.modRing g x f).softBad = s.softBad := rfl
@[simp] theorem State.modRing_hbmErr (g x : Nat) (f : Ring → Ring) : (s.modRing g x f).hbmErr = s.hbmErr := rfl
@[simp] theorem State.modRing_burstKey (g x : Nat) (f : Ring → Ring) : (s.modRing g x f).burstKey = s.burstKey := rfl
@[simp] theorem State.modRing_hbmStale (g x : Nat) (f : Ring → Ring) : (s.modRing g x f).hbmStale = s.hbmStale := rfl
@[simp] theorem State.modRing_tags (g x : Nat) (f : Ring → Ring) : (s.modRing g x f).tags = s.tags := rfl
@[simp] theorem State.modRing_pages (g x : Nat) (f : Ring → Ring) : (s.modRing g x f).pages = s.pages := rfl
@[simp] theorem State.modRing_dies (g x : Nat) (f : Ring → Ring) : (s.modRing g x f).dies = s.dies := rfl
@[simp] theorem State.modRing_d2d (g x : Nat) (f : Ring → Ring) : (s.modRing g x f).d2d = s.d2d := rfl
@[simp] theorem State.modRing_bell (g x : Nat) (f : Ring → Ring) : (s.modRing g x f).bell = s.bell := rfl
@[simp] theorem State.modRing_sched (g x : Nat) (f : Ring → Ring) : (s.modRing g x f).sched = s.sched := rfl
@[simp] theorem State.modRing_parts (g x : Nat) (f : Ring → Ring) : (s.modRing g x f).parts = s.parts := rfl
@[simp] theorem State.modRing_crier (g x : Nat) (f : Ring → Ring) : (s.modRing g x f).crier = s.crier := rfl
@[simp] theorem State.modRing_links (g x : Nat) (f : Ring → Ring) : (s.modRing g x f).links = s.links := rfl
@[simp] theorem State.modRing_sealU (g x : Nat) (f : Ring → Ring) : (s.modRing g x f).sealU = s.sealU := rfl
@[simp] theorem State.modRing_power (g x : Nat) (f : Ring → Ring) : (s.modRing g x f).power = s.power := rfl
@[simp] theorem State.modRing_boot (g x : Nat) (f : Ring → Ring) : (s.modRing g x f).boot = s.boot := rfl
@[simp] theorem State.modRing_flash (g x : Nat) (f : Ring → Ring) : (s.modRing g x f).flash = s.flash := rfl
@[simp] theorem State.modRing_fuses (g x : Nat) (f : Ring → Ring) : (s.modRing g x f).fuses = s.fuses := rfl
@[simp] theorem State.modRing_hosts (g x : Nat) (f : Ring → Ring) : (s.modRing g x f).hosts = s.hosts := rfl

/-! #### setPage -/

@[simp] theorem State.setPage_pending (pn : Nat) (p : Page) : (s.setPage pn p).pending = s.pending := rfl
@[simp] theorem State.setPage_free (pn : Nat) (p : Page) : (s.setPage pn p).free = s.free := rfl
@[simp] theorem State.setPage_out (pn : Nat) (p : Page) : (s.setPage pn p).out = s.out := rfl
@[simp] theorem State.setPage_mem (pn : Nat) (p : Page) : (s.setPage pn p).mem = s.mem := rfl
@[simp] theorem State.setPage_bad (pn : Nat) (p : Page) : (s.setPage pn p).bad = s.bad := rfl
@[simp] theorem State.setPage_softBad (pn : Nat) (p : Page) : (s.setPage pn p).softBad = s.softBad := rfl
@[simp] theorem State.setPage_hbmErr (pn : Nat) (p : Page) : (s.setPage pn p).hbmErr = s.hbmErr := rfl
@[simp] theorem State.setPage_burstKey (pn : Nat) (p : Page) : (s.setPage pn p).burstKey = s.burstKey := rfl
@[simp] theorem State.setPage_hbmStale (pn : Nat) (p : Page) : (s.setPage pn p).hbmStale = s.hbmStale := rfl
@[simp] theorem State.setPage_tags (pn : Nat) (p : Page) : (s.setPage pn p).tags = s.tags := rfl
@[simp] theorem State.setPage_cores (pn : Nat) (p : Page) : (s.setPage pn p).cores = s.cores := rfl
@[simp] theorem State.setPage_dies (pn : Nat) (p : Page) : (s.setPage pn p).dies = s.dies := rfl
@[simp] theorem State.setPage_d2d (pn : Nat) (p : Page) : (s.setPage pn p).d2d = s.d2d := rfl
@[simp] theorem State.setPage_bell (pn : Nat) (p : Page) : (s.setPage pn p).bell = s.bell := rfl
@[simp] theorem State.setPage_sched (pn : Nat) (p : Page) : (s.setPage pn p).sched = s.sched := rfl
@[simp] theorem State.setPage_parts (pn : Nat) (p : Page) : (s.setPage pn p).parts = s.parts := rfl
@[simp] theorem State.setPage_crier (pn : Nat) (p : Page) : (s.setPage pn p).crier = s.crier := rfl
@[simp] theorem State.setPage_links (pn : Nat) (p : Page) : (s.setPage pn p).links = s.links := rfl
@[simp] theorem State.setPage_sealU (pn : Nat) (p : Page) : (s.setPage pn p).sealU = s.sealU := rfl
@[simp] theorem State.setPage_power (pn : Nat) (p : Page) : (s.setPage pn p).power = s.power := rfl
@[simp] theorem State.setPage_boot (pn : Nat) (p : Page) : (s.setPage pn p).boot = s.boot := rfl
@[simp] theorem State.setPage_flash (pn : Nat) (p : Page) : (s.setPage pn p).flash = s.flash := rfl
@[simp] theorem State.setPage_fuses (pn : Nat) (p : Page) : (s.setPage pn p).fuses = s.fuses := rfl
@[simp] theorem State.setPage_hosts (pn : Nat) (p : Page) : (s.setPage pn p).hosts = s.hosts := rfl

/-! #### modPage -/

@[simp] theorem State.modPage_pending (pn : Nat) (f : Page → Page) : (s.modPage pn f).pending = s.pending := rfl
@[simp] theorem State.modPage_free (pn : Nat) (f : Page → Page) : (s.modPage pn f).free = s.free := rfl
@[simp] theorem State.modPage_out (pn : Nat) (f : Page → Page) : (s.modPage pn f).out = s.out := rfl
@[simp] theorem State.modPage_mem (pn : Nat) (f : Page → Page) : (s.modPage pn f).mem = s.mem := rfl
@[simp] theorem State.modPage_bad (pn : Nat) (f : Page → Page) : (s.modPage pn f).bad = s.bad := rfl
@[simp] theorem State.modPage_softBad (pn : Nat) (f : Page → Page) : (s.modPage pn f).softBad = s.softBad := rfl
@[simp] theorem State.modPage_hbmErr (pn : Nat) (f : Page → Page) : (s.modPage pn f).hbmErr = s.hbmErr := rfl
@[simp] theorem State.modPage_burstKey (pn : Nat) (f : Page → Page) : (s.modPage pn f).burstKey = s.burstKey := rfl
@[simp] theorem State.modPage_hbmStale (pn : Nat) (f : Page → Page) : (s.modPage pn f).hbmStale = s.hbmStale := rfl
@[simp] theorem State.modPage_tags (pn : Nat) (f : Page → Page) : (s.modPage pn f).tags = s.tags := rfl
@[simp] theorem State.modPage_cores (pn : Nat) (f : Page → Page) : (s.modPage pn f).cores = s.cores := rfl
@[simp] theorem State.modPage_dies (pn : Nat) (f : Page → Page) : (s.modPage pn f).dies = s.dies := rfl
@[simp] theorem State.modPage_d2d (pn : Nat) (f : Page → Page) : (s.modPage pn f).d2d = s.d2d := rfl
@[simp] theorem State.modPage_bell (pn : Nat) (f : Page → Page) : (s.modPage pn f).bell = s.bell := rfl
@[simp] theorem State.modPage_sched (pn : Nat) (f : Page → Page) : (s.modPage pn f).sched = s.sched := rfl
@[simp] theorem State.modPage_parts (pn : Nat) (f : Page → Page) : (s.modPage pn f).parts = s.parts := rfl
@[simp] theorem State.modPage_crier (pn : Nat) (f : Page → Page) : (s.modPage pn f).crier = s.crier := rfl
@[simp] theorem State.modPage_links (pn : Nat) (f : Page → Page) : (s.modPage pn f).links = s.links := rfl
@[simp] theorem State.modPage_sealU (pn : Nat) (f : Page → Page) : (s.modPage pn f).sealU = s.sealU := rfl
@[simp] theorem State.modPage_power (pn : Nat) (f : Page → Page) : (s.modPage pn f).power = s.power := rfl
@[simp] theorem State.modPage_boot (pn : Nat) (f : Page → Page) : (s.modPage pn f).boot = s.boot := rfl
@[simp] theorem State.modPage_flash (pn : Nat) (f : Page → Page) : (s.modPage pn f).flash = s.flash := rfl
@[simp] theorem State.modPage_fuses (pn : Nat) (f : Page → Page) : (s.modPage pn f).fuses = s.fuses := rfl
@[simp] theorem State.modPage_hosts (pn : Nat) (f : Page → Page) : (s.modPage pn f).hosts = s.hosts := rfl

/-! #### setReg -/

@[simp] theorem State.setReg_pending (pn off : Nat) (w : Word) : (s.setReg pn off w).pending = s.pending := rfl
@[simp] theorem State.setReg_free (pn off : Nat) (w : Word) : (s.setReg pn off w).free = s.free := rfl
@[simp] theorem State.setReg_out (pn off : Nat) (w : Word) : (s.setReg pn off w).out = s.out := rfl
@[simp] theorem State.setReg_mem (pn off : Nat) (w : Word) : (s.setReg pn off w).mem = s.mem := rfl
@[simp] theorem State.setReg_bad (pn off : Nat) (w : Word) : (s.setReg pn off w).bad = s.bad := rfl
@[simp] theorem State.setReg_softBad (pn off : Nat) (w : Word) : (s.setReg pn off w).softBad = s.softBad := rfl
@[simp] theorem State.setReg_hbmErr (pn off : Nat) (w : Word) : (s.setReg pn off w).hbmErr = s.hbmErr := rfl
@[simp] theorem State.setReg_burstKey (pn off : Nat) (w : Word) : (s.setReg pn off w).burstKey = s.burstKey := rfl
@[simp] theorem State.setReg_hbmStale (pn off : Nat) (w : Word) : (s.setReg pn off w).hbmStale = s.hbmStale := rfl
@[simp] theorem State.setReg_tags (pn off : Nat) (w : Word) : (s.setReg pn off w).tags = s.tags := rfl
@[simp] theorem State.setReg_cores (pn off : Nat) (w : Word) : (s.setReg pn off w).cores = s.cores := rfl
@[simp] theorem State.setReg_dies (pn off : Nat) (w : Word) : (s.setReg pn off w).dies = s.dies := rfl
@[simp] theorem State.setReg_d2d (pn off : Nat) (w : Word) : (s.setReg pn off w).d2d = s.d2d := rfl
@[simp] theorem State.setReg_bell (pn off : Nat) (w : Word) : (s.setReg pn off w).bell = s.bell := rfl
@[simp] theorem State.setReg_sched (pn off : Nat) (w : Word) : (s.setReg pn off w).sched = s.sched := rfl
@[simp] theorem State.setReg_parts (pn off : Nat) (w : Word) : (s.setReg pn off w).parts = s.parts := rfl
@[simp] theorem State.setReg_crier (pn off : Nat) (w : Word) : (s.setReg pn off w).crier = s.crier := rfl
@[simp] theorem State.setReg_links (pn off : Nat) (w : Word) : (s.setReg pn off w).links = s.links := rfl
@[simp] theorem State.setReg_sealU (pn off : Nat) (w : Word) : (s.setReg pn off w).sealU = s.sealU := rfl
@[simp] theorem State.setReg_power (pn off : Nat) (w : Word) : (s.setReg pn off w).power = s.power := rfl
@[simp] theorem State.setReg_boot (pn off : Nat) (w : Word) : (s.setReg pn off w).boot = s.boot := rfl
@[simp] theorem State.setReg_flash (pn off : Nat) (w : Word) : (s.setReg pn off w).flash = s.flash := rfl
@[simp] theorem State.setReg_fuses (pn off : Nat) (w : Word) : (s.setReg pn off w).fuses = s.fuses := rfl
@[simp] theorem State.setReg_hosts (pn off : Nat) (w : Word) : (s.setReg pn off w).hosts = s.hosts := rfl

/-! #### count -/

@[simp] theorem State.count_pending (pn k n : Nat) : (s.count pn k n).pending = s.pending := rfl
@[simp] theorem State.count_free (pn k n : Nat) : (s.count pn k n).free = s.free := rfl
@[simp] theorem State.count_out (pn k n : Nat) : (s.count pn k n).out = s.out := rfl
@[simp] theorem State.count_mem (pn k n : Nat) : (s.count pn k n).mem = s.mem := rfl
@[simp] theorem State.count_bad (pn k n : Nat) : (s.count pn k n).bad = s.bad := rfl
@[simp] theorem State.count_softBad (pn k n : Nat) : (s.count pn k n).softBad = s.softBad := rfl
@[simp] theorem State.count_hbmErr (pn k n : Nat) : (s.count pn k n).hbmErr = s.hbmErr := rfl
@[simp] theorem State.count_burstKey (pn k n : Nat) : (s.count pn k n).burstKey = s.burstKey := rfl
@[simp] theorem State.count_hbmStale (pn k n : Nat) : (s.count pn k n).hbmStale = s.hbmStale := rfl
@[simp] theorem State.count_tags (pn k n : Nat) : (s.count pn k n).tags = s.tags := rfl
@[simp] theorem State.count_cores (pn k n : Nat) : (s.count pn k n).cores = s.cores := rfl
@[simp] theorem State.count_dies (pn k n : Nat) : (s.count pn k n).dies = s.dies := rfl
@[simp] theorem State.count_d2d (pn k n : Nat) : (s.count pn k n).d2d = s.d2d := rfl
@[simp] theorem State.count_bell (pn k n : Nat) : (s.count pn k n).bell = s.bell := rfl
@[simp] theorem State.count_sched (pn k n : Nat) : (s.count pn k n).sched = s.sched := rfl
@[simp] theorem State.count_parts (pn k n : Nat) : (s.count pn k n).parts = s.parts := rfl
@[simp] theorem State.count_crier (pn k n : Nat) : (s.count pn k n).crier = s.crier := rfl
@[simp] theorem State.count_links (pn k n : Nat) : (s.count pn k n).links = s.links := rfl
@[simp] theorem State.count_sealU (pn k n : Nat) : (s.count pn k n).sealU = s.sealU := rfl
@[simp] theorem State.count_power (pn k n : Nat) : (s.count pn k n).power = s.power := rfl
@[simp] theorem State.count_boot (pn k n : Nat) : (s.count pn k n).boot = s.boot := rfl
@[simp] theorem State.count_flash (pn k n : Nat) : (s.count pn k n).flash = s.flash := rfl
@[simp] theorem State.count_fuses (pn k n : Nat) : (s.count pn k n).fuses = s.fuses := rfl
@[simp] theorem State.count_hosts (pn k n : Nat) : (s.count pn k n).hosts = s.hosts := rfl

/-! #### setDie -/

@[simp] theorem State.setDie_pending (d : Nat) (v : Die) : (s.setDie d v).pending = s.pending := rfl
@[simp] theorem State.setDie_free (d : Nat) (v : Die) : (s.setDie d v).free = s.free := rfl
@[simp] theorem State.setDie_out (d : Nat) (v : Die) : (s.setDie d v).out = s.out := rfl
@[simp] theorem State.setDie_mem (d : Nat) (v : Die) : (s.setDie d v).mem = s.mem := rfl
@[simp] theorem State.setDie_bad (d : Nat) (v : Die) : (s.setDie d v).bad = s.bad := rfl
@[simp] theorem State.setDie_softBad (d : Nat) (v : Die) : (s.setDie d v).softBad = s.softBad := rfl
@[simp] theorem State.setDie_hbmErr (d : Nat) (v : Die) : (s.setDie d v).hbmErr = s.hbmErr := rfl
@[simp] theorem State.setDie_burstKey (d : Nat) (v : Die) : (s.setDie d v).burstKey = s.burstKey := rfl
@[simp] theorem State.setDie_hbmStale (d : Nat) (v : Die) : (s.setDie d v).hbmStale = s.hbmStale := rfl
@[simp] theorem State.setDie_tags (d : Nat) (v : Die) : (s.setDie d v).tags = s.tags := rfl
@[simp] theorem State.setDie_pages (d : Nat) (v : Die) : (s.setDie d v).pages = s.pages := rfl
@[simp] theorem State.setDie_cores (d : Nat) (v : Die) : (s.setDie d v).cores = s.cores := rfl
@[simp] theorem State.setDie_d2d (d : Nat) (v : Die) : (s.setDie d v).d2d = s.d2d := rfl
@[simp] theorem State.setDie_bell (d : Nat) (v : Die) : (s.setDie d v).bell = s.bell := rfl
@[simp] theorem State.setDie_sched (d : Nat) (v : Die) : (s.setDie d v).sched = s.sched := rfl
@[simp] theorem State.setDie_parts (d : Nat) (v : Die) : (s.setDie d v).parts = s.parts := rfl
@[simp] theorem State.setDie_crier (d : Nat) (v : Die) : (s.setDie d v).crier = s.crier := rfl
@[simp] theorem State.setDie_links (d : Nat) (v : Die) : (s.setDie d v).links = s.links := rfl
@[simp] theorem State.setDie_sealU (d : Nat) (v : Die) : (s.setDie d v).sealU = s.sealU := rfl
@[simp] theorem State.setDie_power (d : Nat) (v : Die) : (s.setDie d v).power = s.power := rfl
@[simp] theorem State.setDie_boot (d : Nat) (v : Die) : (s.setDie d v).boot = s.boot := rfl
@[simp] theorem State.setDie_flash (d : Nat) (v : Die) : (s.setDie d v).flash = s.flash := rfl
@[simp] theorem State.setDie_fuses (d : Nat) (v : Die) : (s.setDie d v).fuses = s.fuses := rfl
@[simp] theorem State.setDie_hosts (d : Nat) (v : Die) : (s.setDie d v).hosts = s.hosts := rfl

/-! #### modDie -/

@[simp] theorem State.modDie_pending (d : Nat) (f : Die → Die) : (s.modDie d f).pending = s.pending := rfl
@[simp] theorem State.modDie_free (d : Nat) (f : Die → Die) : (s.modDie d f).free = s.free := rfl
@[simp] theorem State.modDie_out (d : Nat) (f : Die → Die) : (s.modDie d f).out = s.out := rfl
@[simp] theorem State.modDie_mem (d : Nat) (f : Die → Die) : (s.modDie d f).mem = s.mem := rfl
@[simp] theorem State.modDie_bad (d : Nat) (f : Die → Die) : (s.modDie d f).bad = s.bad := rfl
@[simp] theorem State.modDie_softBad (d : Nat) (f : Die → Die) : (s.modDie d f).softBad = s.softBad := rfl
@[simp] theorem State.modDie_hbmErr (d : Nat) (f : Die → Die) : (s.modDie d f).hbmErr = s.hbmErr := rfl
@[simp] theorem State.modDie_burstKey (d : Nat) (f : Die → Die) : (s.modDie d f).burstKey = s.burstKey := rfl
@[simp] theorem State.modDie_hbmStale (d : Nat) (f : Die → Die) : (s.modDie d f).hbmStale = s.hbmStale := rfl
@[simp] theorem State.modDie_tags (d : Nat) (f : Die → Die) : (s.modDie d f).tags = s.tags := rfl
@[simp] theorem State.modDie_pages (d : Nat) (f : Die → Die) : (s.modDie d f).pages = s.pages := rfl
@[simp] theorem State.modDie_cores (d : Nat) (f : Die → Die) : (s.modDie d f).cores = s.cores := rfl
@[simp] theorem State.modDie_d2d (d : Nat) (f : Die → Die) : (s.modDie d f).d2d = s.d2d := rfl
@[simp] theorem State.modDie_bell (d : Nat) (f : Die → Die) : (s.modDie d f).bell = s.bell := rfl
@[simp] theorem State.modDie_sched (d : Nat) (f : Die → Die) : (s.modDie d f).sched = s.sched := rfl
@[simp] theorem State.modDie_parts (d : Nat) (f : Die → Die) : (s.modDie d f).parts = s.parts := rfl
@[simp] theorem State.modDie_crier (d : Nat) (f : Die → Die) : (s.modDie d f).crier = s.crier := rfl
@[simp] theorem State.modDie_links (d : Nat) (f : Die → Die) : (s.modDie d f).links = s.links := rfl
@[simp] theorem State.modDie_sealU (d : Nat) (f : Die → Die) : (s.modDie d f).sealU = s.sealU := rfl
@[simp] theorem State.modDie_power (d : Nat) (f : Die → Die) : (s.modDie d f).power = s.power := rfl
@[simp] theorem State.modDie_boot (d : Nat) (f : Die → Die) : (s.modDie d f).boot = s.boot := rfl
@[simp] theorem State.modDie_flash (d : Nat) (f : Die → Die) : (s.modDie d f).flash = s.flash := rfl
@[simp] theorem State.modDie_fuses (d : Nat) (f : Die → Die) : (s.modDie d f).fuses = s.fuses := rfl
@[simp] theorem State.modDie_hosts (d : Nat) (f : Die → Die) : (s.modDie d f).hosts = s.hosts := rfl

/-! #### setPart -/

@[simp] theorem State.setPart_pending (p : Nat) (v : Part) : (s.setPart p v).pending = s.pending := rfl
@[simp] theorem State.setPart_free (p : Nat) (v : Part) : (s.setPart p v).free = s.free := rfl
@[simp] theorem State.setPart_out (p : Nat) (v : Part) : (s.setPart p v).out = s.out := rfl
@[simp] theorem State.setPart_mem (p : Nat) (v : Part) : (s.setPart p v).mem = s.mem := rfl
@[simp] theorem State.setPart_bad (p : Nat) (v : Part) : (s.setPart p v).bad = s.bad := rfl
@[simp] theorem State.setPart_softBad (p : Nat) (v : Part) : (s.setPart p v).softBad = s.softBad := rfl
@[simp] theorem State.setPart_hbmErr (p : Nat) (v : Part) : (s.setPart p v).hbmErr = s.hbmErr := rfl
@[simp] theorem State.setPart_burstKey (p : Nat) (v : Part) : (s.setPart p v).burstKey = s.burstKey := rfl
@[simp] theorem State.setPart_hbmStale (p : Nat) (v : Part) : (s.setPart p v).hbmStale = s.hbmStale := rfl
@[simp] theorem State.setPart_tags (p : Nat) (v : Part) : (s.setPart p v).tags = s.tags := rfl
@[simp] theorem State.setPart_pages (p : Nat) (v : Part) : (s.setPart p v).pages = s.pages := rfl
@[simp] theorem State.setPart_cores (p : Nat) (v : Part) : (s.setPart p v).cores = s.cores := rfl
@[simp] theorem State.setPart_dies (p : Nat) (v : Part) : (s.setPart p v).dies = s.dies := rfl
@[simp] theorem State.setPart_d2d (p : Nat) (v : Part) : (s.setPart p v).d2d = s.d2d := rfl
@[simp] theorem State.setPart_bell (p : Nat) (v : Part) : (s.setPart p v).bell = s.bell := rfl
@[simp] theorem State.setPart_sched (p : Nat) (v : Part) : (s.setPart p v).sched = s.sched := rfl
@[simp] theorem State.setPart_crier (p : Nat) (v : Part) : (s.setPart p v).crier = s.crier := rfl
@[simp] theorem State.setPart_links (p : Nat) (v : Part) : (s.setPart p v).links = s.links := rfl
@[simp] theorem State.setPart_sealU (p : Nat) (v : Part) : (s.setPart p v).sealU = s.sealU := rfl
@[simp] theorem State.setPart_power (p : Nat) (v : Part) : (s.setPart p v).power = s.power := rfl
@[simp] theorem State.setPart_boot (p : Nat) (v : Part) : (s.setPart p v).boot = s.boot := rfl
@[simp] theorem State.setPart_flash (p : Nat) (v : Part) : (s.setPart p v).flash = s.flash := rfl
@[simp] theorem State.setPart_fuses (p : Nat) (v : Part) : (s.setPart p v).fuses = s.fuses := rfl
@[simp] theorem State.setPart_hosts (p : Nat) (v : Part) : (s.setPart p v).hosts = s.hosts := rfl

/-! #### modPart -/

@[simp] theorem State.modPart_pending (p : Nat) (f : Part → Part) : (s.modPart p f).pending = s.pending := rfl
@[simp] theorem State.modPart_free (p : Nat) (f : Part → Part) : (s.modPart p f).free = s.free := rfl
@[simp] theorem State.modPart_out (p : Nat) (f : Part → Part) : (s.modPart p f).out = s.out := rfl
@[simp] theorem State.modPart_mem (p : Nat) (f : Part → Part) : (s.modPart p f).mem = s.mem := rfl
@[simp] theorem State.modPart_bad (p : Nat) (f : Part → Part) : (s.modPart p f).bad = s.bad := rfl
@[simp] theorem State.modPart_softBad (p : Nat) (f : Part → Part) : (s.modPart p f).softBad = s.softBad := rfl
@[simp] theorem State.modPart_hbmErr (p : Nat) (f : Part → Part) : (s.modPart p f).hbmErr = s.hbmErr := rfl
@[simp] theorem State.modPart_burstKey (p : Nat) (f : Part → Part) : (s.modPart p f).burstKey = s.burstKey := rfl
@[simp] theorem State.modPart_hbmStale (p : Nat) (f : Part → Part) : (s.modPart p f).hbmStale = s.hbmStale := rfl
@[simp] theorem State.modPart_tags (p : Nat) (f : Part → Part) : (s.modPart p f).tags = s.tags := rfl
@[simp] theorem State.modPart_pages (p : Nat) (f : Part → Part) : (s.modPart p f).pages = s.pages := rfl
@[simp] theorem State.modPart_cores (p : Nat) (f : Part → Part) : (s.modPart p f).cores = s.cores := rfl
@[simp] theorem State.modPart_dies (p : Nat) (f : Part → Part) : (s.modPart p f).dies = s.dies := rfl
@[simp] theorem State.modPart_d2d (p : Nat) (f : Part → Part) : (s.modPart p f).d2d = s.d2d := rfl
@[simp] theorem State.modPart_bell (p : Nat) (f : Part → Part) : (s.modPart p f).bell = s.bell := rfl
@[simp] theorem State.modPart_sched (p : Nat) (f : Part → Part) : (s.modPart p f).sched = s.sched := rfl
@[simp] theorem State.modPart_crier (p : Nat) (f : Part → Part) : (s.modPart p f).crier = s.crier := rfl
@[simp] theorem State.modPart_links (p : Nat) (f : Part → Part) : (s.modPart p f).links = s.links := rfl
@[simp] theorem State.modPart_sealU (p : Nat) (f : Part → Part) : (s.modPart p f).sealU = s.sealU := rfl
@[simp] theorem State.modPart_power (p : Nat) (f : Part → Part) : (s.modPart p f).power = s.power := rfl
@[simp] theorem State.modPart_boot (p : Nat) (f : Part → Part) : (s.modPart p f).boot = s.boot := rfl
@[simp] theorem State.modPart_flash (p : Nat) (f : Part → Part) : (s.modPart p f).flash = s.flash := rfl
@[simp] theorem State.modPart_fuses (p : Nat) (f : Part → Part) : (s.modPart p f).fuses = s.fuses := rfl
@[simp] theorem State.modPart_hosts (p : Nat) (f : Part → Part) : (s.modPart p f).hosts = s.hosts := rfl

/-! #### modCtx -/

@[simp] theorem State.modCtx_pending (p x : Nat) (f : Ctx → Ctx) : (s.modCtx p x f).pending = s.pending := rfl
@[simp] theorem State.modCtx_free (p x : Nat) (f : Ctx → Ctx) : (s.modCtx p x f).free = s.free := rfl
@[simp] theorem State.modCtx_out (p x : Nat) (f : Ctx → Ctx) : (s.modCtx p x f).out = s.out := rfl
@[simp] theorem State.modCtx_mem (p x : Nat) (f : Ctx → Ctx) : (s.modCtx p x f).mem = s.mem := rfl
@[simp] theorem State.modCtx_bad (p x : Nat) (f : Ctx → Ctx) : (s.modCtx p x f).bad = s.bad := rfl
@[simp] theorem State.modCtx_softBad (p x : Nat) (f : Ctx → Ctx) : (s.modCtx p x f).softBad = s.softBad := rfl
@[simp] theorem State.modCtx_hbmErr (p x : Nat) (f : Ctx → Ctx) : (s.modCtx p x f).hbmErr = s.hbmErr := rfl
@[simp] theorem State.modCtx_burstKey (p x : Nat) (f : Ctx → Ctx) : (s.modCtx p x f).burstKey = s.burstKey := rfl
@[simp] theorem State.modCtx_hbmStale (p x : Nat) (f : Ctx → Ctx) : (s.modCtx p x f).hbmStale = s.hbmStale := rfl
@[simp] theorem State.modCtx_tags (p x : Nat) (f : Ctx → Ctx) : (s.modCtx p x f).tags = s.tags := rfl
@[simp] theorem State.modCtx_pages (p x : Nat) (f : Ctx → Ctx) : (s.modCtx p x f).pages = s.pages := rfl
@[simp] theorem State.modCtx_cores (p x : Nat) (f : Ctx → Ctx) : (s.modCtx p x f).cores = s.cores := rfl
@[simp] theorem State.modCtx_dies (p x : Nat) (f : Ctx → Ctx) : (s.modCtx p x f).dies = s.dies := rfl
@[simp] theorem State.modCtx_d2d (p x : Nat) (f : Ctx → Ctx) : (s.modCtx p x f).d2d = s.d2d := rfl
@[simp] theorem State.modCtx_bell (p x : Nat) (f : Ctx → Ctx) : (s.modCtx p x f).bell = s.bell := rfl
@[simp] theorem State.modCtx_sched (p x : Nat) (f : Ctx → Ctx) : (s.modCtx p x f).sched = s.sched := rfl
@[simp] theorem State.modCtx_crier (p x : Nat) (f : Ctx → Ctx) : (s.modCtx p x f).crier = s.crier := rfl
@[simp] theorem State.modCtx_links (p x : Nat) (f : Ctx → Ctx) : (s.modCtx p x f).links = s.links := rfl
@[simp] theorem State.modCtx_sealU (p x : Nat) (f : Ctx → Ctx) : (s.modCtx p x f).sealU = s.sealU := rfl
@[simp] theorem State.modCtx_power (p x : Nat) (f : Ctx → Ctx) : (s.modCtx p x f).power = s.power := rfl
@[simp] theorem State.modCtx_boot (p x : Nat) (f : Ctx → Ctx) : (s.modCtx p x f).boot = s.boot := rfl
@[simp] theorem State.modCtx_flash (p x : Nat) (f : Ctx → Ctx) : (s.modCtx p x f).flash = s.flash := rfl
@[simp] theorem State.modCtx_fuses (p x : Nat) (f : Ctx → Ctx) : (s.modCtx p x f).fuses = s.fuses := rfl
@[simp] theorem State.modCtx_hosts (p x : Nat) (f : Ctx → Ctx) : (s.modCtx p x f).hosts = s.hosts := rfl

/-! #### setHalf -/

@[simp] theorem State.setHalf_pending (h : Nat) (v : Half) : (s.setHalf h v).pending = s.pending := rfl
@[simp] theorem State.setHalf_free (h : Nat) (v : Half) : (s.setHalf h v).free = s.free := rfl
@[simp] theorem State.setHalf_out (h : Nat) (v : Half) : (s.setHalf h v).out = s.out := rfl
@[simp] theorem State.setHalf_mem (h : Nat) (v : Half) : (s.setHalf h v).mem = s.mem := rfl
@[simp] theorem State.setHalf_bad (h : Nat) (v : Half) : (s.setHalf h v).bad = s.bad := rfl
@[simp] theorem State.setHalf_softBad (h : Nat) (v : Half) : (s.setHalf h v).softBad = s.softBad := rfl
@[simp] theorem State.setHalf_hbmErr (h : Nat) (v : Half) : (s.setHalf h v).hbmErr = s.hbmErr := rfl
@[simp] theorem State.setHalf_burstKey (h : Nat) (v : Half) : (s.setHalf h v).burstKey = s.burstKey := rfl
@[simp] theorem State.setHalf_hbmStale (h : Nat) (v : Half) : (s.setHalf h v).hbmStale = s.hbmStale := rfl
@[simp] theorem State.setHalf_tags (h : Nat) (v : Half) : (s.setHalf h v).tags = s.tags := rfl
@[simp] theorem State.setHalf_pages (h : Nat) (v : Half) : (s.setHalf h v).pages = s.pages := rfl
@[simp] theorem State.setHalf_cores (h : Nat) (v : Half) : (s.setHalf h v).cores = s.cores := rfl
@[simp] theorem State.setHalf_dies (h : Nat) (v : Half) : (s.setHalf h v).dies = s.dies := rfl
@[simp] theorem State.setHalf_d2d (h : Nat) (v : Half) : (s.setHalf h v).d2d = s.d2d := rfl
@[simp] theorem State.setHalf_bell (h : Nat) (v : Half) : (s.setHalf h v).bell = s.bell := rfl
@[simp] theorem State.setHalf_sched (h : Nat) (v : Half) : (s.setHalf h v).sched = s.sched := rfl
@[simp] theorem State.setHalf_parts (h : Nat) (v : Half) : (s.setHalf h v).parts = s.parts := rfl
@[simp] theorem State.setHalf_crier (h : Nat) (v : Half) : (s.setHalf h v).crier = s.crier := rfl
@[simp] theorem State.setHalf_sealU (h : Nat) (v : Half) : (s.setHalf h v).sealU = s.sealU := rfl
@[simp] theorem State.setHalf_power (h : Nat) (v : Half) : (s.setHalf h v).power = s.power := rfl
@[simp] theorem State.setHalf_boot (h : Nat) (v : Half) : (s.setHalf h v).boot = s.boot := rfl
@[simp] theorem State.setHalf_flash (h : Nat) (v : Half) : (s.setHalf h v).flash = s.flash := rfl
@[simp] theorem State.setHalf_fuses (h : Nat) (v : Half) : (s.setHalf h v).fuses = s.fuses := rfl
@[simp] theorem State.setHalf_hosts (h : Nat) (v : Half) : (s.setHalf h v).hosts = s.hosts := rfl

/-! #### modHalf -/

@[simp] theorem State.modHalf_pending (h : Nat) (f : Half → Half) : (s.modHalf h f).pending = s.pending := rfl
@[simp] theorem State.modHalf_free (h : Nat) (f : Half → Half) : (s.modHalf h f).free = s.free := rfl
@[simp] theorem State.modHalf_out (h : Nat) (f : Half → Half) : (s.modHalf h f).out = s.out := rfl
@[simp] theorem State.modHalf_mem (h : Nat) (f : Half → Half) : (s.modHalf h f).mem = s.mem := rfl
@[simp] theorem State.modHalf_bad (h : Nat) (f : Half → Half) : (s.modHalf h f).bad = s.bad := rfl
@[simp] theorem State.modHalf_softBad (h : Nat) (f : Half → Half) : (s.modHalf h f).softBad = s.softBad := rfl
@[simp] theorem State.modHalf_hbmErr (h : Nat) (f : Half → Half) : (s.modHalf h f).hbmErr = s.hbmErr := rfl
@[simp] theorem State.modHalf_burstKey (h : Nat) (f : Half → Half) : (s.modHalf h f).burstKey = s.burstKey := rfl
@[simp] theorem State.modHalf_hbmStale (h : Nat) (f : Half → Half) : (s.modHalf h f).hbmStale = s.hbmStale := rfl
@[simp] theorem State.modHalf_tags (h : Nat) (f : Half → Half) : (s.modHalf h f).tags = s.tags := rfl
@[simp] theorem State.modHalf_pages (h : Nat) (f : Half → Half) : (s.modHalf h f).pages = s.pages := rfl
@[simp] theorem State.modHalf_cores (h : Nat) (f : Half → Half) : (s.modHalf h f).cores = s.cores := rfl
@[simp] theorem State.modHalf_dies (h : Nat) (f : Half → Half) : (s.modHalf h f).dies = s.dies := rfl
@[simp] theorem State.modHalf_d2d (h : Nat) (f : Half → Half) : (s.modHalf h f).d2d = s.d2d := rfl
@[simp] theorem State.modHalf_bell (h : Nat) (f : Half → Half) : (s.modHalf h f).bell = s.bell := rfl
@[simp] theorem State.modHalf_sched (h : Nat) (f : Half → Half) : (s.modHalf h f).sched = s.sched := rfl
@[simp] theorem State.modHalf_parts (h : Nat) (f : Half → Half) : (s.modHalf h f).parts = s.parts := rfl
@[simp] theorem State.modHalf_crier (h : Nat) (f : Half → Half) : (s.modHalf h f).crier = s.crier := rfl
@[simp] theorem State.modHalf_sealU (h : Nat) (f : Half → Half) : (s.modHalf h f).sealU = s.sealU := rfl
@[simp] theorem State.modHalf_power (h : Nat) (f : Half → Half) : (s.modHalf h f).power = s.power := rfl
@[simp] theorem State.modHalf_boot (h : Nat) (f : Half → Half) : (s.modHalf h f).boot = s.boot := rfl
@[simp] theorem State.modHalf_flash (h : Nat) (f : Half → Half) : (s.modHalf h f).flash = s.flash := rfl
@[simp] theorem State.modHalf_fuses (h : Nat) (f : Half → Half) : (s.modHalf h f).fuses = s.fuses := rfl
@[simp] theorem State.modHalf_hosts (h : Nat) (f : Half → Half) : (s.modHalf h f).hosts = s.hosts := rfl

/-! #### setPeer -/

@[simp] theorem State.setPeer_pending (c : Nat) (v : Peer) : (s.setPeer c v).pending = s.pending := rfl
@[simp] theorem State.setPeer_free (c : Nat) (v : Peer) : (s.setPeer c v).free = s.free := rfl
@[simp] theorem State.setPeer_out (c : Nat) (v : Peer) : (s.setPeer c v).out = s.out := rfl
@[simp] theorem State.setPeer_mem (c : Nat) (v : Peer) : (s.setPeer c v).mem = s.mem := rfl
@[simp] theorem State.setPeer_bad (c : Nat) (v : Peer) : (s.setPeer c v).bad = s.bad := rfl
@[simp] theorem State.setPeer_softBad (c : Nat) (v : Peer) : (s.setPeer c v).softBad = s.softBad := rfl
@[simp] theorem State.setPeer_hbmErr (c : Nat) (v : Peer) : (s.setPeer c v).hbmErr = s.hbmErr := rfl
@[simp] theorem State.setPeer_burstKey (c : Nat) (v : Peer) : (s.setPeer c v).burstKey = s.burstKey := rfl
@[simp] theorem State.setPeer_hbmStale (c : Nat) (v : Peer) : (s.setPeer c v).hbmStale = s.hbmStale := rfl
@[simp] theorem State.setPeer_tags (c : Nat) (v : Peer) : (s.setPeer c v).tags = s.tags := rfl
@[simp] theorem State.setPeer_pages (c : Nat) (v : Peer) : (s.setPeer c v).pages = s.pages := rfl
@[simp] theorem State.setPeer_cores (c : Nat) (v : Peer) : (s.setPeer c v).cores = s.cores := rfl
@[simp] theorem State.setPeer_dies (c : Nat) (v : Peer) : (s.setPeer c v).dies = s.dies := rfl
@[simp] theorem State.setPeer_d2d (c : Nat) (v : Peer) : (s.setPeer c v).d2d = s.d2d := rfl
@[simp] theorem State.setPeer_bell (c : Nat) (v : Peer) : (s.setPeer c v).bell = s.bell := rfl
@[simp] theorem State.setPeer_sched (c : Nat) (v : Peer) : (s.setPeer c v).sched = s.sched := rfl
@[simp] theorem State.setPeer_parts (c : Nat) (v : Peer) : (s.setPeer c v).parts = s.parts := rfl
@[simp] theorem State.setPeer_crier (c : Nat) (v : Peer) : (s.setPeer c v).crier = s.crier := rfl
@[simp] theorem State.setPeer_sealU (c : Nat) (v : Peer) : (s.setPeer c v).sealU = s.sealU := rfl
@[simp] theorem State.setPeer_power (c : Nat) (v : Peer) : (s.setPeer c v).power = s.power := rfl
@[simp] theorem State.setPeer_boot (c : Nat) (v : Peer) : (s.setPeer c v).boot = s.boot := rfl
@[simp] theorem State.setPeer_flash (c : Nat) (v : Peer) : (s.setPeer c v).flash = s.flash := rfl
@[simp] theorem State.setPeer_fuses (c : Nat) (v : Peer) : (s.setPeer c v).fuses = s.fuses := rfl
@[simp] theorem State.setPeer_hosts (c : Nat) (v : Peer) : (s.setPeer c v).hosts = s.hosts := rfl

/-! #### modPeer -/

@[simp] theorem State.modPeer_pending (c : Nat) (f : Peer → Peer) : (s.modPeer c f).pending = s.pending := rfl
@[simp] theorem State.modPeer_free (c : Nat) (f : Peer → Peer) : (s.modPeer c f).free = s.free := rfl
@[simp] theorem State.modPeer_out (c : Nat) (f : Peer → Peer) : (s.modPeer c f).out = s.out := rfl
@[simp] theorem State.modPeer_mem (c : Nat) (f : Peer → Peer) : (s.modPeer c f).mem = s.mem := rfl
@[simp] theorem State.modPeer_bad (c : Nat) (f : Peer → Peer) : (s.modPeer c f).bad = s.bad := rfl
@[simp] theorem State.modPeer_softBad (c : Nat) (f : Peer → Peer) : (s.modPeer c f).softBad = s.softBad := rfl
@[simp] theorem State.modPeer_hbmErr (c : Nat) (f : Peer → Peer) : (s.modPeer c f).hbmErr = s.hbmErr := rfl
@[simp] theorem State.modPeer_burstKey (c : Nat) (f : Peer → Peer) : (s.modPeer c f).burstKey = s.burstKey := rfl
@[simp] theorem State.modPeer_hbmStale (c : Nat) (f : Peer → Peer) : (s.modPeer c f).hbmStale = s.hbmStale := rfl
@[simp] theorem State.modPeer_tags (c : Nat) (f : Peer → Peer) : (s.modPeer c f).tags = s.tags := rfl
@[simp] theorem State.modPeer_pages (c : Nat) (f : Peer → Peer) : (s.modPeer c f).pages = s.pages := rfl
@[simp] theorem State.modPeer_cores (c : Nat) (f : Peer → Peer) : (s.modPeer c f).cores = s.cores := rfl
@[simp] theorem State.modPeer_dies (c : Nat) (f : Peer → Peer) : (s.modPeer c f).dies = s.dies := rfl
@[simp] theorem State.modPeer_d2d (c : Nat) (f : Peer → Peer) : (s.modPeer c f).d2d = s.d2d := rfl
@[simp] theorem State.modPeer_bell (c : Nat) (f : Peer → Peer) : (s.modPeer c f).bell = s.bell := rfl
@[simp] theorem State.modPeer_sched (c : Nat) (f : Peer → Peer) : (s.modPeer c f).sched = s.sched := rfl
@[simp] theorem State.modPeer_parts (c : Nat) (f : Peer → Peer) : (s.modPeer c f).parts = s.parts := rfl
@[simp] theorem State.modPeer_crier (c : Nat) (f : Peer → Peer) : (s.modPeer c f).crier = s.crier := rfl
@[simp] theorem State.modPeer_sealU (c : Nat) (f : Peer → Peer) : (s.modPeer c f).sealU = s.sealU := rfl
@[simp] theorem State.modPeer_power (c : Nat) (f : Peer → Peer) : (s.modPeer c f).power = s.power := rfl
@[simp] theorem State.modPeer_boot (c : Nat) (f : Peer → Peer) : (s.modPeer c f).boot = s.boot := rfl
@[simp] theorem State.modPeer_flash (c : Nat) (f : Peer → Peer) : (s.modPeer c f).flash = s.flash := rfl
@[simp] theorem State.modPeer_fuses (c : Nat) (f : Peer → Peer) : (s.modPeer c f).fuses = s.fuses := rfl
@[simp] theorem State.modPeer_hosts (c : Nat) (f : Peer → Peer) : (s.modPeer c f).hosts = s.hosts := rfl

/-! #### setHost -/

@[simp] theorem State.setHost_pending (h : Nat) (v : HostCore) : (s.setHost h v).pending = s.pending := rfl
@[simp] theorem State.setHost_free (h : Nat) (v : HostCore) : (s.setHost h v).free = s.free := rfl
@[simp] theorem State.setHost_out (h : Nat) (v : HostCore) : (s.setHost h v).out = s.out := rfl
@[simp] theorem State.setHost_mem (h : Nat) (v : HostCore) : (s.setHost h v).mem = s.mem := rfl
@[simp] theorem State.setHost_bad (h : Nat) (v : HostCore) : (s.setHost h v).bad = s.bad := rfl
@[simp] theorem State.setHost_softBad (h : Nat) (v : HostCore) : (s.setHost h v).softBad = s.softBad := rfl
@[simp] theorem State.setHost_hbmErr (h : Nat) (v : HostCore) : (s.setHost h v).hbmErr = s.hbmErr := rfl
@[simp] theorem State.setHost_burstKey (h : Nat) (v : HostCore) : (s.setHost h v).burstKey = s.burstKey := rfl
@[simp] theorem State.setHost_hbmStale (h : Nat) (v : HostCore) : (s.setHost h v).hbmStale = s.hbmStale := rfl
@[simp] theorem State.setHost_tags (h : Nat) (v : HostCore) : (s.setHost h v).tags = s.tags := rfl
@[simp] theorem State.setHost_pages (h : Nat) (v : HostCore) : (s.setHost h v).pages = s.pages := rfl
@[simp] theorem State.setHost_cores (h : Nat) (v : HostCore) : (s.setHost h v).cores = s.cores := rfl
@[simp] theorem State.setHost_dies (h : Nat) (v : HostCore) : (s.setHost h v).dies = s.dies := rfl
@[simp] theorem State.setHost_d2d (h : Nat) (v : HostCore) : (s.setHost h v).d2d = s.d2d := rfl
@[simp] theorem State.setHost_bell (h : Nat) (v : HostCore) : (s.setHost h v).bell = s.bell := rfl
@[simp] theorem State.setHost_sched (h : Nat) (v : HostCore) : (s.setHost h v).sched = s.sched := rfl
@[simp] theorem State.setHost_parts (h : Nat) (v : HostCore) : (s.setHost h v).parts = s.parts := rfl
@[simp] theorem State.setHost_crier (h : Nat) (v : HostCore) : (s.setHost h v).crier = s.crier := rfl
@[simp] theorem State.setHost_links (h : Nat) (v : HostCore) : (s.setHost h v).links = s.links := rfl
@[simp] theorem State.setHost_sealU (h : Nat) (v : HostCore) : (s.setHost h v).sealU = s.sealU := rfl
@[simp] theorem State.setHost_power (h : Nat) (v : HostCore) : (s.setHost h v).power = s.power := rfl
@[simp] theorem State.setHost_boot (h : Nat) (v : HostCore) : (s.setHost h v).boot = s.boot := rfl
@[simp] theorem State.setHost_flash (h : Nat) (v : HostCore) : (s.setHost h v).flash = s.flash := rfl
@[simp] theorem State.setHost_fuses (h : Nat) (v : HostCore) : (s.setHost h v).fuses = s.fuses := rfl

/-! #### emit -/

@[simp] theorem State.emit_pending (o : Output) : (s.emit o).pending = s.pending := rfl
@[simp] theorem State.emit_free (o : Output) : (s.emit o).free = s.free := rfl
@[simp] theorem State.emit_mem (o : Output) : (s.emit o).mem = s.mem := rfl
@[simp] theorem State.emit_bad (o : Output) : (s.emit o).bad = s.bad := rfl
@[simp] theorem State.emit_softBad (o : Output) : (s.emit o).softBad = s.softBad := rfl
@[simp] theorem State.emit_hbmErr (o : Output) : (s.emit o).hbmErr = s.hbmErr := rfl
@[simp] theorem State.emit_burstKey (o : Output) : (s.emit o).burstKey = s.burstKey := rfl
@[simp] theorem State.emit_hbmStale (o : Output) : (s.emit o).hbmStale = s.hbmStale := rfl
@[simp] theorem State.emit_tags (o : Output) : (s.emit o).tags = s.tags := rfl
@[simp] theorem State.emit_pages (o : Output) : (s.emit o).pages = s.pages := rfl
@[simp] theorem State.emit_cores (o : Output) : (s.emit o).cores = s.cores := rfl
@[simp] theorem State.emit_dies (o : Output) : (s.emit o).dies = s.dies := rfl
@[simp] theorem State.emit_d2d (o : Output) : (s.emit o).d2d = s.d2d := rfl
@[simp] theorem State.emit_bell (o : Output) : (s.emit o).bell = s.bell := rfl
@[simp] theorem State.emit_sched (o : Output) : (s.emit o).sched = s.sched := rfl
@[simp] theorem State.emit_parts (o : Output) : (s.emit o).parts = s.parts := rfl
@[simp] theorem State.emit_crier (o : Output) : (s.emit o).crier = s.crier := rfl
@[simp] theorem State.emit_links (o : Output) : (s.emit o).links = s.links := rfl
@[simp] theorem State.emit_sealU (o : Output) : (s.emit o).sealU = s.sealU := rfl
@[simp] theorem State.emit_power (o : Output) : (s.emit o).power = s.power := rfl
@[simp] theorem State.emit_boot (o : Output) : (s.emit o).boot = s.boot := rfl
@[simp] theorem State.emit_flash (o : Output) : (s.emit o).flash = s.flash := rfl
@[simp] theorem State.emit_fuses (o : Output) : (s.emit o).fuses = s.fuses := rfl
@[simp] theorem State.emit_hosts (o : Output) : (s.emit o).hosts = s.hosts := rfl

/-! #### setCrierRing -/

@[simp] theorem State.setCrierRing_pending (k : Nat) (v : TrapRing) : (s.setCrierRing k v).pending = s.pending := rfl
@[simp] theorem State.setCrierRing_free (k : Nat) (v : TrapRing) : (s.setCrierRing k v).free = s.free := rfl
@[simp] theorem State.setCrierRing_out (k : Nat) (v : TrapRing) : (s.setCrierRing k v).out = s.out := rfl
@[simp] theorem State.setCrierRing_mem (k : Nat) (v : TrapRing) : (s.setCrierRing k v).mem = s.mem := rfl
@[simp] theorem State.setCrierRing_bad (k : Nat) (v : TrapRing) : (s.setCrierRing k v).bad = s.bad := rfl
@[simp] theorem State.setCrierRing_softBad (k : Nat) (v : TrapRing) : (s.setCrierRing k v).softBad = s.softBad := rfl
@[simp] theorem State.setCrierRing_hbmErr (k : Nat) (v : TrapRing) : (s.setCrierRing k v).hbmErr = s.hbmErr := rfl
@[simp] theorem State.setCrierRing_burstKey (k : Nat) (v : TrapRing) : (s.setCrierRing k v).burstKey = s.burstKey := rfl
@[simp] theorem State.setCrierRing_hbmStale (k : Nat) (v : TrapRing) : (s.setCrierRing k v).hbmStale = s.hbmStale := rfl
@[simp] theorem State.setCrierRing_tags (k : Nat) (v : TrapRing) : (s.setCrierRing k v).tags = s.tags := rfl
@[simp] theorem State.setCrierRing_pages (k : Nat) (v : TrapRing) : (s.setCrierRing k v).pages = s.pages := rfl
@[simp] theorem State.setCrierRing_cores (k : Nat) (v : TrapRing) : (s.setCrierRing k v).cores = s.cores := rfl
@[simp] theorem State.setCrierRing_dies (k : Nat) (v : TrapRing) : (s.setCrierRing k v).dies = s.dies := rfl
@[simp] theorem State.setCrierRing_d2d (k : Nat) (v : TrapRing) : (s.setCrierRing k v).d2d = s.d2d := rfl
@[simp] theorem State.setCrierRing_bell (k : Nat) (v : TrapRing) : (s.setCrierRing k v).bell = s.bell := rfl
@[simp] theorem State.setCrierRing_sched (k : Nat) (v : TrapRing) : (s.setCrierRing k v).sched = s.sched := rfl
@[simp] theorem State.setCrierRing_parts (k : Nat) (v : TrapRing) : (s.setCrierRing k v).parts = s.parts := rfl
@[simp] theorem State.setCrierRing_links (k : Nat) (v : TrapRing) : (s.setCrierRing k v).links = s.links := rfl
@[simp] theorem State.setCrierRing_sealU (k : Nat) (v : TrapRing) : (s.setCrierRing k v).sealU = s.sealU := rfl
@[simp] theorem State.setCrierRing_power (k : Nat) (v : TrapRing) : (s.setCrierRing k v).power = s.power := rfl
@[simp] theorem State.setCrierRing_boot (k : Nat) (v : TrapRing) : (s.setCrierRing k v).boot = s.boot := rfl
@[simp] theorem State.setCrierRing_flash (k : Nat) (v : TrapRing) : (s.setCrierRing k v).flash = s.flash := rfl
@[simp] theorem State.setCrierRing_fuses (k : Nat) (v : TrapRing) : (s.setCrierRing k v).fuses = s.fuses := rfl
@[simp] theorem State.setCrierRing_hosts (k : Nat) (v : TrapRing) : (s.setCrierRing k v).hosts = s.hosts := rfl

/-! #### memWrite -/

@[simp] theorem memWrite_pending (a : Nat) (bs : List Byte) : (memWrite s a bs).pending = s.pending := rfl
@[simp] theorem memWrite_free (a : Nat) (bs : List Byte) : (memWrite s a bs).free = s.free := rfl
@[simp] theorem memWrite_out (a : Nat) (bs : List Byte) : (memWrite s a bs).out = s.out := rfl
@[simp] theorem memWrite_bad (a : Nat) (bs : List Byte) : (memWrite s a bs).bad = s.bad := rfl
@[simp] theorem memWrite_softBad (a : Nat) (bs : List Byte) : (memWrite s a bs).softBad = s.softBad := rfl
@[simp] theorem memWrite_burstKey (a : Nat) (bs : List Byte) : (memWrite s a bs).burstKey = s.burstKey := rfl
@[simp] theorem memWrite_hbmStale (a : Nat) (bs : List Byte) : (memWrite s a bs).hbmStale = s.hbmStale := rfl
@[simp] theorem memWrite_tags (a : Nat) (bs : List Byte) : (memWrite s a bs).tags = s.tags := rfl
@[simp] theorem memWrite_pages (a : Nat) (bs : List Byte) : (memWrite s a bs).pages = s.pages := rfl
@[simp] theorem memWrite_cores (a : Nat) (bs : List Byte) : (memWrite s a bs).cores = s.cores := rfl
@[simp] theorem memWrite_dies (a : Nat) (bs : List Byte) : (memWrite s a bs).dies = s.dies := rfl
@[simp] theorem memWrite_d2d (a : Nat) (bs : List Byte) : (memWrite s a bs).d2d = s.d2d := rfl
@[simp] theorem memWrite_bell (a : Nat) (bs : List Byte) : (memWrite s a bs).bell = s.bell := rfl
@[simp] theorem memWrite_sched (a : Nat) (bs : List Byte) : (memWrite s a bs).sched = s.sched := rfl
@[simp] theorem memWrite_parts (a : Nat) (bs : List Byte) : (memWrite s a bs).parts = s.parts := rfl
@[simp] theorem memWrite_crier (a : Nat) (bs : List Byte) : (memWrite s a bs).crier = s.crier := rfl
@[simp] theorem memWrite_links (a : Nat) (bs : List Byte) : (memWrite s a bs).links = s.links := rfl
@[simp] theorem memWrite_sealU (a : Nat) (bs : List Byte) : (memWrite s a bs).sealU = s.sealU := rfl
@[simp] theorem memWrite_power (a : Nat) (bs : List Byte) : (memWrite s a bs).power = s.power := rfl
@[simp] theorem memWrite_boot (a : Nat) (bs : List Byte) : (memWrite s a bs).boot = s.boot := rfl
@[simp] theorem memWrite_flash (a : Nat) (bs : List Byte) : (memWrite s a bs).flash = s.flash := rfl
@[simp] theorem memWrite_fuses (a : Nat) (bs : List Byte) : (memWrite s a bs).fuses = s.fuses := rfl
@[simp] theorem memWrite_hosts (a : Nat) (bs : List Byte) : (memWrite s a bs).hosts = s.hosts := rfl

/-! #### What the accessors read -/

@[simp] theorem State.core_setCore (g : Nat) (v : Core) : (s.setCore g v).core g = v := mget_mset_same _ _ _ _

theorem State.core_setCore_ne (g k : Nat) (v : Core) (h : k ≠ g) : (s.setCore g v).core k = s.core k :=
  mget_mset_ne _ _ _ h

@[simp] theorem State.core_modCore (g : Nat) (f : Core → Core) : (s.modCore g f).core g = f (s.core g) :=
  mget_mset_same _ _ _ _

theorem State.core_modCore_ne (g k : Nat) (f : Core → Core) (h : k ≠ g) : (s.modCore g f).core k = s.core k :=
  mget_mset_ne _ _ _ h

@[simp] theorem State.page_setPage (g : Nat) (v : Page) : (s.setPage g v).page g = v := mget_mset_same _ _ _ _

theorem State.page_setPage_ne (g k : Nat) (v : Page) (h : k ≠ g) : (s.setPage g v).page k = s.page k :=
  mget_mset_ne _ _ _ h

@[simp] theorem State.page_modPage (g : Nat) (f : Page → Page) : (s.modPage g f).page g = f (s.page g) :=
  mget_mset_same _ _ _ _

theorem State.page_modPage_ne (g k : Nat) (f : Page → Page) (h : k ≠ g) : (s.modPage g f).page k = s.page k :=
  mget_mset_ne _ _ _ h

@[simp] theorem State.die_setDie (g : Nat) (v : Die) : (s.setDie g v).die g = v := mget_mset_same _ _ _ _

theorem State.die_setDie_ne (g k : Nat) (v : Die) (h : k ≠ g) : (s.setDie g v).die k = s.die k :=
  mget_mset_ne _ _ _ h

@[simp] theorem State.die_modDie (g : Nat) (f : Die → Die) : (s.modDie g f).die g = f (s.die g) :=
  mget_mset_same _ _ _ _

theorem State.die_modDie_ne (g k : Nat) (f : Die → Die) (h : k ≠ g) : (s.modDie g f).die k = s.die k :=
  mget_mset_ne _ _ _ h

@[simp] theorem State.part_setPart (g : Nat) (v : Part) : (s.setPart g v).part g = v := mget_mset_same _ _ _ _

theorem State.part_setPart_ne (g k : Nat) (v : Part) (h : k ≠ g) : (s.setPart g v).part k = s.part k :=
  mget_mset_ne _ _ _ h

@[simp] theorem State.part_modPart (g : Nat) (f : Part → Part) : (s.modPart g f).part g = f (s.part g) :=
  mget_mset_same _ _ _ _

theorem State.part_modPart_ne (g k : Nat) (f : Part → Part) (h : k ≠ g) : (s.modPart g f).part k = s.part k :=
  mget_mset_ne _ _ _ h

@[simp] theorem State.host_setHost (g : Nat) (v : HostCore) : (s.setHost g v).host g = v := mget_mset_same _ _ _ _

theorem State.host_setHost_ne (g k : Nat) (v : HostCore) (h : k ≠ g) : (s.setHost g v).host k = s.host k :=
  mget_mset_ne _ _ _ h

@[simp] theorem State.half_setHalf (g : Nat) (v : Half) : (s.setHalf g v).half g = v := mget_mset_same _ _ _ _

theorem State.half_setHalf_ne (g k : Nat) (v : Half) (h : k ≠ g) : (s.setHalf g v).half k = s.half k :=
  mget_mset_ne _ _ _ h

@[simp] theorem State.half_modHalf (g : Nat) (f : Half → Half) : (s.modHalf g f).half g = f (s.half g) :=
  mget_mset_same _ _ _ _

theorem State.half_modHalf_ne (g k : Nat) (f : Half → Half) (h : k ≠ g) : (s.modHalf g f).half k = s.half k :=
  mget_mset_ne _ _ _ h

@[simp] theorem State.peer_setPeer (g : Nat) (v : Peer) : (s.setPeer g v).peer g = v := mget_mset_same _ _ _ _

theorem State.peer_setPeer_ne (g k : Nat) (v : Peer) (h : k ≠ g) : (s.setPeer g v).peer k = s.peer k :=
  mget_mset_ne _ _ _ h

@[simp] theorem State.peer_modPeer (g : Nat) (f : Peer → Peer) : (s.modPeer g f).peer g = f (s.peer g) :=
  mget_mset_same _ _ _ _

theorem State.peer_modPeer_ne (g k : Nat) (f : Peer → Peer) (h : k ≠ g) : (s.modPeer g f).peer k = s.peer k :=
  mget_mset_ne _ _ _ h

@[simp] theorem State.setCore_page (g : Nat) (c : Core) (j : Nat) : (s.setCore g c).page j = s.page j := rfl
@[simp] theorem State.setCore_die (g : Nat) (c : Core) (j : Nat) : (s.setCore g c).die j = s.die j := rfl
@[simp] theorem State.setCore_part (g : Nat) (c : Core) (j : Nat) : (s.setCore g c).part j = s.part j := rfl
@[simp] theorem State.setCore_host (g : Nat) (c : Core) (j : Nat) : (s.setCore g c).host j = s.host j := rfl
@[simp] theorem State.setCore_half (g : Nat) (c : Core) (j : Nat) : (s.setCore g c).half j = s.half j := rfl
@[simp] theorem State.setCore_peer (g : Nat) (c : Core) (j : Nat) : (s.setCore g c).peer j = s.peer j := rfl
@[simp] theorem memByte_setCore (g : Nat) (c : Core) (j : Nat) : memByte (s.setCore g c) j = memByte s j := rfl
@[simp] theorem State.setCore_reg (g : Nat) (c : Core) (pn off : Nat) : (s.setCore g c).reg pn off = s.reg pn off := rfl
@[simp] theorem State.setCore_counter (g : Nat) (c : Core) (pn j : Nat) : (s.setCore g c).counter pn j = s.counter pn j := rfl
@[simp] theorem State.setCore_crierRing (g : Nat) (c : Core) (j : Nat) : (s.setCore g c).crierRing j = s.crierRing j := rfl
@[simp] theorem State.modCore_page (g : Nat) (f : Core → Core) (j : Nat) : (s.modCore g f).page j = s.page j := rfl
@[simp] theorem State.modCore_die (g : Nat) (f : Core → Core) (j : Nat) : (s.modCore g f).die j = s.die j := rfl
@[simp] theorem State.modCore_part (g : Nat) (f : Core → Core) (j : Nat) : (s.modCore g f).part j = s.part j := rfl
@[simp] theorem State.modCore_host (g : Nat) (f : Core → Core) (j : Nat) : (s.modCore g f).host j = s.host j := rfl
@[simp] theorem State.modCore_half (g : Nat) (f : Core → Core) (j : Nat) : (s.modCore g f).half j = s.half j := rfl
@[simp] theorem State.modCore_peer (g : Nat) (f : Core → Core) (j : Nat) : (s.modCore g f).peer j = s.peer j := rfl
@[simp] theorem memByte_modCore (g : Nat) (f : Core → Core) (j : Nat) : memByte (s.modCore g f) j = memByte s j := rfl
@[simp] theorem State.modCore_reg (g : Nat) (f : Core → Core) (pn off : Nat) : (s.modCore g f).reg pn off = s.reg pn off := rfl
@[simp] theorem State.modCore_counter (g : Nat) (f : Core → Core) (pn j : Nat) : (s.modCore g f).counter pn j = s.counter pn j := rfl
@[simp] theorem State.modCore_crierRing (g : Nat) (f : Core → Core) (j : Nat) : (s.modCore g f).crierRing j = s.crierRing j := rfl
@[simp] theorem State.modRing_page (g x : Nat) (f : Ring → Ring) (j : Nat) : (s.modRing g x f).page j = s.page j := rfl
@[simp] theorem State.modRing_die (g x : Nat) (f : Ring → Ring) (j : Nat) : (s.modRing g x f).die j = s.die j := rfl
@[simp] theorem State.modRing_part (g x : Nat) (f : Ring → Ring) (j : Nat) : (s.modRing g x f).part j = s.part j := rfl
@[simp] theorem State.modRing_host (g x : Nat) (f : Ring → Ring) (j : Nat) : (s.modRing g x f).host j = s.host j := rfl
@[simp] theorem State.modRing_half (g x : Nat) (f : Ring → Ring) (j : Nat) : (s.modRing g x f).half j = s.half j := rfl
@[simp] theorem State.modRing_peer (g x : Nat) (f : Ring → Ring) (j : Nat) : (s.modRing g x f).peer j = s.peer j := rfl
@[simp] theorem memByte_modRing (g x : Nat) (f : Ring → Ring) (j : Nat) : memByte (s.modRing g x f) j = memByte s j := rfl
@[simp] theorem State.modRing_reg (g x : Nat) (f : Ring → Ring) (pn off : Nat) : (s.modRing g x f).reg pn off = s.reg pn off := rfl
@[simp] theorem State.modRing_counter (g x : Nat) (f : Ring → Ring) (pn j : Nat) : (s.modRing g x f).counter pn j = s.counter pn j := rfl
@[simp] theorem State.modRing_crierRing (g x : Nat) (f : Ring → Ring) (j : Nat) : (s.modRing g x f).crierRing j = s.crierRing j := rfl
@[simp] theorem State.setPage_core (pn : Nat) (p : Page) (j : Nat) : (s.setPage pn p).core j = s.core j := rfl
@[simp] theorem State.setPage_die (pn : Nat) (p : Page) (j : Nat) : (s.setPage pn p).die j = s.die j := rfl
@[simp] theorem State.setPage_part (pn : Nat) (p : Page) (j : Nat) : (s.setPage pn p).part j = s.part j := rfl
@[simp] theorem State.setPage_host (pn : Nat) (p : Page) (j : Nat) : (s.setPage pn p).host j = s.host j := rfl
@[simp] theorem State.setPage_half (pn : Nat) (p : Page) (j : Nat) : (s.setPage pn p).half j = s.half j := rfl
@[simp] theorem State.setPage_peer (pn : Nat) (p : Page) (j : Nat) : (s.setPage pn p).peer j = s.peer j := rfl
@[simp] theorem memByte_setPage (pn : Nat) (p : Page) (j : Nat) : memByte (s.setPage pn p) j = memByte s j := rfl
@[simp] theorem State.setPage_crierRing (pn : Nat) (p : Page) (j : Nat) : (s.setPage pn p).crierRing j = s.crierRing j := rfl
@[simp] theorem State.modPage_core (pn : Nat) (f : Page → Page) (j : Nat) : (s.modPage pn f).core j = s.core j := rfl
@[simp] theorem State.modPage_die (pn : Nat) (f : Page → Page) (j : Nat) : (s.modPage pn f).die j = s.die j := rfl
@[simp] theorem State.modPage_part (pn : Nat) (f : Page → Page) (j : Nat) : (s.modPage pn f).part j = s.part j := rfl
@[simp] theorem State.modPage_host (pn : Nat) (f : Page → Page) (j : Nat) : (s.modPage pn f).host j = s.host j := rfl
@[simp] theorem State.modPage_half (pn : Nat) (f : Page → Page) (j : Nat) : (s.modPage pn f).half j = s.half j := rfl
@[simp] theorem State.modPage_peer (pn : Nat) (f : Page → Page) (j : Nat) : (s.modPage pn f).peer j = s.peer j := rfl
@[simp] theorem memByte_modPage (pn : Nat) (f : Page → Page) (j : Nat) : memByte (s.modPage pn f) j = memByte s j := rfl
@[simp] theorem State.modPage_crierRing (pn : Nat) (f : Page → Page) (j : Nat) : (s.modPage pn f).crierRing j = s.crierRing j := rfl
@[simp] theorem State.setReg_core (pn off : Nat) (w : Word) (j : Nat) : (s.setReg pn off w).core j = s.core j := rfl
@[simp] theorem State.setReg_die (pn off : Nat) (w : Word) (j : Nat) : (s.setReg pn off w).die j = s.die j := rfl
@[simp] theorem State.setReg_part (pn off : Nat) (w : Word) (j : Nat) : (s.setReg pn off w).part j = s.part j := rfl
@[simp] theorem State.setReg_host (pn off : Nat) (w : Word) (j : Nat) : (s.setReg pn off w).host j = s.host j := rfl
@[simp] theorem State.setReg_half (pn off : Nat) (w : Word) (j : Nat) : (s.setReg pn off w).half j = s.half j := rfl
@[simp] theorem State.setReg_peer (pn off : Nat) (w : Word) (j : Nat) : (s.setReg pn off w).peer j = s.peer j := rfl
@[simp] theorem memByte_setReg (pn off : Nat) (w : Word) (j : Nat) : memByte (s.setReg pn off w) j = memByte s j := rfl
@[simp] theorem State.setReg_crierRing (pn off : Nat) (w : Word) (j : Nat) : (s.setReg pn off w).crierRing j = s.crierRing j := rfl
@[simp] theorem State.count_core (pn k n : Nat) (j : Nat) : (s.count pn k n).core j = s.core j := rfl
@[simp] theorem State.count_die (pn k n : Nat) (j : Nat) : (s.count pn k n).die j = s.die j := rfl
@[simp] theorem State.count_part (pn k n : Nat) (j : Nat) : (s.count pn k n).part j = s.part j := rfl
@[simp] theorem State.count_host (pn k n : Nat) (j : Nat) : (s.count pn k n).host j = s.host j := rfl
@[simp] theorem State.count_half (pn k n : Nat) (j : Nat) : (s.count pn k n).half j = s.half j := rfl
@[simp] theorem State.count_peer (pn k n : Nat) (j : Nat) : (s.count pn k n).peer j = s.peer j := rfl
@[simp] theorem memByte_count (pn k n : Nat) (j : Nat) : memByte (s.count pn k n) j = memByte s j := rfl
@[simp] theorem State.count_crierRing (pn k n : Nat) (j : Nat) : (s.count pn k n).crierRing j = s.crierRing j := rfl
@[simp] theorem State.setDie_core (d : Nat) (v : Die) (j : Nat) : (s.setDie d v).core j = s.core j := rfl
@[simp] theorem State.setDie_page (d : Nat) (v : Die) (j : Nat) : (s.setDie d v).page j = s.page j := rfl
@[simp] theorem State.setDie_part (d : Nat) (v : Die) (j : Nat) : (s.setDie d v).part j = s.part j := rfl
@[simp] theorem State.setDie_host (d : Nat) (v : Die) (j : Nat) : (s.setDie d v).host j = s.host j := rfl
@[simp] theorem State.setDie_half (d : Nat) (v : Die) (j : Nat) : (s.setDie d v).half j = s.half j := rfl
@[simp] theorem State.setDie_peer (d : Nat) (v : Die) (j : Nat) : (s.setDie d v).peer j = s.peer j := rfl
@[simp] theorem memByte_setDie (d : Nat) (v : Die) (j : Nat) : memByte (s.setDie d v) j = memByte s j := rfl
@[simp] theorem State.setDie_reg (d : Nat) (v : Die) (pn off : Nat) : (s.setDie d v).reg pn off = s.reg pn off := rfl
@[simp] theorem State.setDie_counter (d : Nat) (v : Die) (pn j : Nat) : (s.setDie d v).counter pn j = s.counter pn j := rfl
@[simp] theorem State.setDie_crierRing (d : Nat) (v : Die) (j : Nat) : (s.setDie d v).crierRing j = s.crierRing j := rfl
@[simp] theorem State.modDie_core (d : Nat) (f : Die → Die) (j : Nat) : (s.modDie d f).core j = s.core j := rfl
@[simp] theorem State.modDie_page (d : Nat) (f : Die → Die) (j : Nat) : (s.modDie d f).page j = s.page j := rfl
@[simp] theorem State.modDie_part (d : Nat) (f : Die → Die) (j : Nat) : (s.modDie d f).part j = s.part j := rfl
@[simp] theorem State.modDie_host (d : Nat) (f : Die → Die) (j : Nat) : (s.modDie d f).host j = s.host j := rfl
@[simp] theorem State.modDie_half (d : Nat) (f : Die → Die) (j : Nat) : (s.modDie d f).half j = s.half j := rfl
@[simp] theorem State.modDie_peer (d : Nat) (f : Die → Die) (j : Nat) : (s.modDie d f).peer j = s.peer j := rfl
@[simp] theorem memByte_modDie (d : Nat) (f : Die → Die) (j : Nat) : memByte (s.modDie d f) j = memByte s j := rfl
@[simp] theorem State.modDie_reg (d : Nat) (f : Die → Die) (pn off : Nat) : (s.modDie d f).reg pn off = s.reg pn off := rfl
@[simp] theorem State.modDie_counter (d : Nat) (f : Die → Die) (pn j : Nat) : (s.modDie d f).counter pn j = s.counter pn j := rfl
@[simp] theorem State.modDie_crierRing (d : Nat) (f : Die → Die) (j : Nat) : (s.modDie d f).crierRing j = s.crierRing j := rfl
@[simp] theorem State.setPart_core (p : Nat) (v : Part) (j : Nat) : (s.setPart p v).core j = s.core j := rfl
@[simp] theorem State.setPart_page (p : Nat) (v : Part) (j : Nat) : (s.setPart p v).page j = s.page j := rfl
@[simp] theorem State.setPart_die (p : Nat) (v : Part) (j : Nat) : (s.setPart p v).die j = s.die j := rfl
@[simp] theorem State.setPart_host (p : Nat) (v : Part) (j : Nat) : (s.setPart p v).host j = s.host j := rfl
@[simp] theorem State.setPart_half (p : Nat) (v : Part) (j : Nat) : (s.setPart p v).half j = s.half j := rfl
@[simp] theorem State.setPart_peer (p : Nat) (v : Part) (j : Nat) : (s.setPart p v).peer j = s.peer j := rfl
@[simp] theorem memByte_setPart (p : Nat) (v : Part) (j : Nat) : memByte (s.setPart p v) j = memByte s j := rfl
@[simp] theorem State.setPart_reg (p : Nat) (v : Part) (pn off : Nat) : (s.setPart p v).reg pn off = s.reg pn off := rfl
@[simp] theorem State.setPart_counter (p : Nat) (v : Part) (pn j : Nat) : (s.setPart p v).counter pn j = s.counter pn j := rfl
@[simp] theorem State.setPart_crierRing (p : Nat) (v : Part) (j : Nat) : (s.setPart p v).crierRing j = s.crierRing j := rfl
@[simp] theorem State.modPart_core (p : Nat) (f : Part → Part) (j : Nat) : (s.modPart p f).core j = s.core j := rfl
@[simp] theorem State.modPart_page (p : Nat) (f : Part → Part) (j : Nat) : (s.modPart p f).page j = s.page j := rfl
@[simp] theorem State.modPart_die (p : Nat) (f : Part → Part) (j : Nat) : (s.modPart p f).die j = s.die j := rfl
@[simp] theorem State.modPart_host (p : Nat) (f : Part → Part) (j : Nat) : (s.modPart p f).host j = s.host j := rfl
@[simp] theorem State.modPart_half (p : Nat) (f : Part → Part) (j : Nat) : (s.modPart p f).half j = s.half j := rfl
@[simp] theorem State.modPart_peer (p : Nat) (f : Part → Part) (j : Nat) : (s.modPart p f).peer j = s.peer j := rfl
@[simp] theorem memByte_modPart (p : Nat) (f : Part → Part) (j : Nat) : memByte (s.modPart p f) j = memByte s j := rfl
@[simp] theorem State.modPart_reg (p : Nat) (f : Part → Part) (pn off : Nat) : (s.modPart p f).reg pn off = s.reg pn off := rfl
@[simp] theorem State.modPart_counter (p : Nat) (f : Part → Part) (pn j : Nat) : (s.modPart p f).counter pn j = s.counter pn j := rfl
@[simp] theorem State.modPart_crierRing (p : Nat) (f : Part → Part) (j : Nat) : (s.modPart p f).crierRing j = s.crierRing j := rfl
@[simp] theorem State.modCtx_core (p x : Nat) (f : Ctx → Ctx) (j : Nat) : (s.modCtx p x f).core j = s.core j := rfl
@[simp] theorem State.modCtx_page (p x : Nat) (f : Ctx → Ctx) (j : Nat) : (s.modCtx p x f).page j = s.page j := rfl
@[simp] theorem State.modCtx_die (p x : Nat) (f : Ctx → Ctx) (j : Nat) : (s.modCtx p x f).die j = s.die j := rfl
@[simp] theorem State.modCtx_host (p x : Nat) (f : Ctx → Ctx) (j : Nat) : (s.modCtx p x f).host j = s.host j := rfl
@[simp] theorem State.modCtx_half (p x : Nat) (f : Ctx → Ctx) (j : Nat) : (s.modCtx p x f).half j = s.half j := rfl
@[simp] theorem State.modCtx_peer (p x : Nat) (f : Ctx → Ctx) (j : Nat) : (s.modCtx p x f).peer j = s.peer j := rfl
@[simp] theorem memByte_modCtx (p x : Nat) (f : Ctx → Ctx) (j : Nat) : memByte (s.modCtx p x f) j = memByte s j := rfl
@[simp] theorem State.modCtx_reg (p x : Nat) (f : Ctx → Ctx) (pn off : Nat) : (s.modCtx p x f).reg pn off = s.reg pn off := rfl
@[simp] theorem State.modCtx_counter (p x : Nat) (f : Ctx → Ctx) (pn j : Nat) : (s.modCtx p x f).counter pn j = s.counter pn j := rfl
@[simp] theorem State.modCtx_crierRing (p x : Nat) (f : Ctx → Ctx) (j : Nat) : (s.modCtx p x f).crierRing j = s.crierRing j := rfl
@[simp] theorem State.setHalf_core (h : Nat) (v : Half) (j : Nat) : (s.setHalf h v).core j = s.core j := rfl
@[simp] theorem State.setHalf_page (h : Nat) (v : Half) (j : Nat) : (s.setHalf h v).page j = s.page j := rfl
@[simp] theorem State.setHalf_die (h : Nat) (v : Half) (j : Nat) : (s.setHalf h v).die j = s.die j := rfl
@[simp] theorem State.setHalf_part (h : Nat) (v : Half) (j : Nat) : (s.setHalf h v).part j = s.part j := rfl
@[simp] theorem State.setHalf_host (h : Nat) (v : Half) (j : Nat) : (s.setHalf h v).host j = s.host j := rfl
@[simp] theorem memByte_setHalf (h : Nat) (v : Half) (j : Nat) : memByte (s.setHalf h v) j = memByte s j := rfl
@[simp] theorem State.setHalf_reg (h : Nat) (v : Half) (pn off : Nat) : (s.setHalf h v).reg pn off = s.reg pn off := rfl
@[simp] theorem State.setHalf_counter (h : Nat) (v : Half) (pn j : Nat) : (s.setHalf h v).counter pn j = s.counter pn j := rfl
@[simp] theorem State.setHalf_crierRing (h : Nat) (v : Half) (j : Nat) : (s.setHalf h v).crierRing j = s.crierRing j := rfl
@[simp] theorem State.modHalf_core (h : Nat) (f : Half → Half) (j : Nat) : (s.modHalf h f).core j = s.core j := rfl
@[simp] theorem State.modHalf_page (h : Nat) (f : Half → Half) (j : Nat) : (s.modHalf h f).page j = s.page j := rfl
@[simp] theorem State.modHalf_die (h : Nat) (f : Half → Half) (j : Nat) : (s.modHalf h f).die j = s.die j := rfl
@[simp] theorem State.modHalf_part (h : Nat) (f : Half → Half) (j : Nat) : (s.modHalf h f).part j = s.part j := rfl
@[simp] theorem State.modHalf_host (h : Nat) (f : Half → Half) (j : Nat) : (s.modHalf h f).host j = s.host j := rfl
@[simp] theorem memByte_modHalf (h : Nat) (f : Half → Half) (j : Nat) : memByte (s.modHalf h f) j = memByte s j := rfl
@[simp] theorem State.modHalf_reg (h : Nat) (f : Half → Half) (pn off : Nat) : (s.modHalf h f).reg pn off = s.reg pn off := rfl
@[simp] theorem State.modHalf_counter (h : Nat) (f : Half → Half) (pn j : Nat) : (s.modHalf h f).counter pn j = s.counter pn j := rfl
@[simp] theorem State.modHalf_crierRing (h : Nat) (f : Half → Half) (j : Nat) : (s.modHalf h f).crierRing j = s.crierRing j := rfl
@[simp] theorem State.setPeer_core (c : Nat) (v : Peer) (j : Nat) : (s.setPeer c v).core j = s.core j := rfl
@[simp] theorem State.setPeer_page (c : Nat) (v : Peer) (j : Nat) : (s.setPeer c v).page j = s.page j := rfl
@[simp] theorem State.setPeer_die (c : Nat) (v : Peer) (j : Nat) : (s.setPeer c v).die j = s.die j := rfl
@[simp] theorem State.setPeer_part (c : Nat) (v : Peer) (j : Nat) : (s.setPeer c v).part j = s.part j := rfl
@[simp] theorem State.setPeer_host (c : Nat) (v : Peer) (j : Nat) : (s.setPeer c v).host j = s.host j := rfl
@[simp] theorem memByte_setPeer (c : Nat) (v : Peer) (j : Nat) : memByte (s.setPeer c v) j = memByte s j := rfl
@[simp] theorem State.setPeer_reg (c : Nat) (v : Peer) (pn off : Nat) : (s.setPeer c v).reg pn off = s.reg pn off := rfl
@[simp] theorem State.setPeer_counter (c : Nat) (v : Peer) (pn j : Nat) : (s.setPeer c v).counter pn j = s.counter pn j := rfl
@[simp] theorem State.setPeer_crierRing (c : Nat) (v : Peer) (j : Nat) : (s.setPeer c v).crierRing j = s.crierRing j := rfl
@[simp] theorem State.modPeer_core (c : Nat) (f : Peer → Peer) (j : Nat) : (s.modPeer c f).core j = s.core j := rfl
@[simp] theorem State.modPeer_page (c : Nat) (f : Peer → Peer) (j : Nat) : (s.modPeer c f).page j = s.page j := rfl
@[simp] theorem State.modPeer_die (c : Nat) (f : Peer → Peer) (j : Nat) : (s.modPeer c f).die j = s.die j := rfl
@[simp] theorem State.modPeer_part (c : Nat) (f : Peer → Peer) (j : Nat) : (s.modPeer c f).part j = s.part j := rfl
@[simp] theorem State.modPeer_host (c : Nat) (f : Peer → Peer) (j : Nat) : (s.modPeer c f).host j = s.host j := rfl
@[simp] theorem memByte_modPeer (c : Nat) (f : Peer → Peer) (j : Nat) : memByte (s.modPeer c f) j = memByte s j := rfl
@[simp] theorem State.modPeer_reg (c : Nat) (f : Peer → Peer) (pn off : Nat) : (s.modPeer c f).reg pn off = s.reg pn off := rfl
@[simp] theorem State.modPeer_counter (c : Nat) (f : Peer → Peer) (pn j : Nat) : (s.modPeer c f).counter pn j = s.counter pn j := rfl
@[simp] theorem State.modPeer_crierRing (c : Nat) (f : Peer → Peer) (j : Nat) : (s.modPeer c f).crierRing j = s.crierRing j := rfl
@[simp] theorem State.setHost_core (h : Nat) (v : HostCore) (j : Nat) : (s.setHost h v).core j = s.core j := rfl
@[simp] theorem State.setHost_page (h : Nat) (v : HostCore) (j : Nat) : (s.setHost h v).page j = s.page j := rfl
@[simp] theorem State.setHost_die (h : Nat) (v : HostCore) (j : Nat) : (s.setHost h v).die j = s.die j := rfl
@[simp] theorem State.setHost_part (h : Nat) (v : HostCore) (j : Nat) : (s.setHost h v).part j = s.part j := rfl
@[simp] theorem State.setHost_half (h : Nat) (v : HostCore) (j : Nat) : (s.setHost h v).half j = s.half j := rfl
@[simp] theorem State.setHost_peer (h : Nat) (v : HostCore) (j : Nat) : (s.setHost h v).peer j = s.peer j := rfl
@[simp] theorem memByte_setHost (h : Nat) (v : HostCore) (j : Nat) : memByte (s.setHost h v) j = memByte s j := rfl
@[simp] theorem State.setHost_reg (h : Nat) (v : HostCore) (pn off : Nat) : (s.setHost h v).reg pn off = s.reg pn off := rfl
@[simp] theorem State.setHost_counter (h : Nat) (v : HostCore) (pn j : Nat) : (s.setHost h v).counter pn j = s.counter pn j := rfl
@[simp] theorem State.setHost_crierRing (h : Nat) (v : HostCore) (j : Nat) : (s.setHost h v).crierRing j = s.crierRing j := rfl
@[simp] theorem State.emit_core (o : Output) (j : Nat) : (s.emit o).core j = s.core j := rfl
@[simp] theorem State.emit_page (o : Output) (j : Nat) : (s.emit o).page j = s.page j := rfl
@[simp] theorem State.emit_die (o : Output) (j : Nat) : (s.emit o).die j = s.die j := rfl
@[simp] theorem State.emit_part (o : Output) (j : Nat) : (s.emit o).part j = s.part j := rfl
@[simp] theorem State.emit_host (o : Output) (j : Nat) : (s.emit o).host j = s.host j := rfl
@[simp] theorem State.emit_half (o : Output) (j : Nat) : (s.emit o).half j = s.half j := rfl
@[simp] theorem State.emit_peer (o : Output) (j : Nat) : (s.emit o).peer j = s.peer j := rfl
@[simp] theorem memByte_emit (o : Output) (j : Nat) : memByte (s.emit o) j = memByte s j := rfl
@[simp] theorem State.emit_reg (o : Output) (pn off : Nat) : (s.emit o).reg pn off = s.reg pn off := rfl
@[simp] theorem State.emit_counter (o : Output) (pn j : Nat) : (s.emit o).counter pn j = s.counter pn j := rfl
@[simp] theorem State.emit_crierRing (o : Output) (j : Nat) : (s.emit o).crierRing j = s.crierRing j := rfl
@[simp] theorem State.setCrierRing_core (k : Nat) (v : TrapRing) (j : Nat) : (s.setCrierRing k v).core j = s.core j := rfl
@[simp] theorem State.setCrierRing_page (k : Nat) (v : TrapRing) (j : Nat) : (s.setCrierRing k v).page j = s.page j := rfl
@[simp] theorem State.setCrierRing_die (k : Nat) (v : TrapRing) (j : Nat) : (s.setCrierRing k v).die j = s.die j := rfl
@[simp] theorem State.setCrierRing_part (k : Nat) (v : TrapRing) (j : Nat) : (s.setCrierRing k v).part j = s.part j := rfl
@[simp] theorem State.setCrierRing_host (k : Nat) (v : TrapRing) (j : Nat) : (s.setCrierRing k v).host j = s.host j := rfl
@[simp] theorem State.setCrierRing_half (k : Nat) (v : TrapRing) (j : Nat) : (s.setCrierRing k v).half j = s.half j := rfl
@[simp] theorem State.setCrierRing_peer (k : Nat) (v : TrapRing) (j : Nat) : (s.setCrierRing k v).peer j = s.peer j := rfl
@[simp] theorem memByte_setCrierRing (k : Nat) (v : TrapRing) (j : Nat) : memByte (s.setCrierRing k v) j = memByte s j := rfl
@[simp] theorem State.setCrierRing_reg (k : Nat) (v : TrapRing) (pn off : Nat) : (s.setCrierRing k v).reg pn off = s.reg pn off := rfl
@[simp] theorem State.setCrierRing_counter (k : Nat) (v : TrapRing) (pn j : Nat) : (s.setCrierRing k v).counter pn j = s.counter pn j := rfl
@[simp] theorem memWrite_core (a : Nat) (bs : List Byte) (j : Nat) : (memWrite s a bs).core j = s.core j := rfl
@[simp] theorem memWrite_page (a : Nat) (bs : List Byte) (j : Nat) : (memWrite s a bs).page j = s.page j := rfl
@[simp] theorem memWrite_die (a : Nat) (bs : List Byte) (j : Nat) : (memWrite s a bs).die j = s.die j := rfl
@[simp] theorem memWrite_part (a : Nat) (bs : List Byte) (j : Nat) : (memWrite s a bs).part j = s.part j := rfl
@[simp] theorem memWrite_host (a : Nat) (bs : List Byte) (j : Nat) : (memWrite s a bs).host j = s.host j := rfl
@[simp] theorem memWrite_half (a : Nat) (bs : List Byte) (j : Nat) : (memWrite s a bs).half j = s.half j := rfl
@[simp] theorem memWrite_peer (a : Nat) (bs : List Byte) (j : Nat) : (memWrite s a bs).peer j = s.peer j := rfl
@[simp] theorem memWrite_reg (a : Nat) (bs : List Byte) (pn off : Nat) : (memWrite s a bs).reg pn off = s.reg pn off := rfl
@[simp] theorem memWrite_counter (a : Nat) (bs : List Byte) (pn j : Nat) : (memWrite s a bs).counter pn j = s.counter pn j := rfl
@[simp] theorem memWrite_crierRing (a : Nat) (bs : List Byte) (j : Nat) : (memWrite s a bs).crierRing j = s.crierRing j := rfl

end Sys2Proof.Machine
end

