-- ==== Sys2Proof/Laws/Memory.lean ====
section
/-! SUPPORT. Laws of memory: what is read after a store, that every other byte stays, that a store keeps the canonical form,
and that little-endian bytes spell the number they come from. -/

-- One declaration at a time: the check of the package as one text bounds memory, which a thread a proof would pass.
set_option Elab.async false

namespace Sys2Proof.Machine

/-! ### Canonical form -/

theorem zipIdx_filterMap_keys (bs : List Byte) (a : Nat) :
    ((bs.zipIdx a).filterMap fun e => if e.1 = 0 then none else some (e.2, e.1)).Pairwise
      (fun (x y : Nat × Byte) => x.1 < y.1) := by
  induction bs generalizing a with
  | nil => simp
  | cons b r ih =>
    rw [List.zipIdx_cons, List.filterMap_cons]
    split
    · exact ih (a + 1)
    · next x hx =>
      refine List.pairwise_cons.2 ⟨fun y hy => ?_, ih (a + 1)⟩
      have hx1 : x.1 = a := by
        split at hx
        · cases hx
        · cases hx; rfl
      obtain ⟨e, he, hy⟩ := List.mem_filterMap.1 hy
      have h1 := List.le_snd_of_mem_zipIdx he
      split at hy
      · cases hy
      · cases hy; simp only [hx1]; omega

theorem zipIdx_filterMap_mem {bs : List Byte} {a : Nat} {x : Nat × Byte}
    (h : x ∈ (bs.zipIdx a).filterMap fun e => if e.1 = 0 then none else some (e.2, e.1)) :
    a ≤ x.1 ∧ x.1 < a + bs.length ∧ x.2 ≠ 0 := by
  obtain ⟨e, he, hx⟩ := List.mem_filterMap.1 h
  have h1 := List.le_snd_of_mem_zipIdx he
  have h2 := List.snd_lt_add_of_mem_zipIdx he
  split at hx
  · cases hx
  · next hz => cases hx; exact ⟨h1, by simpa [Nat.add_comm] using h2, hz⟩

/-- A store keeps the canonical form of memory. -/
theorem memWf_memSplice (m : SMap Byte) (a : Nat) (bs : List Byte) (h : memWf m = true) :
    memWf (memSplice m a bs) = true := by
  unfold memWf at *
  rw [Bool.and_eq_true, keysRise_iff] at *
  obtain ⟨hp, hz⟩ := h
  rw [List.all_eq_true] at *
  unfold memSplice
  constructor
  · rw [List.append_assoc, List.pairwise_append, List.pairwise_append]
    refine ⟨hp.filter _, ⟨zipIdx_filterMap_keys bs a, hp.filter _, ?_⟩, ?_⟩
    · intro x hx y hy
      have h1 := zipIdx_filterMap_mem hx
      have h2 : a + bs.length ≤ y.1 := by simpa using (List.mem_filter.1 hy).2
      omega
    · intro x hx y hy
      have h1 : x.1 < a := by simpa using (List.mem_filter.1 hx).2
      rcases List.mem_append.1 hy with hy | hy
      · have h2 := zipIdx_filterMap_mem hy
        omega
      · have h2 : a + bs.length ≤ y.1 := by simpa using (List.mem_filter.1 hy).2
        omega
  · intro x hx
    rcases List.mem_append.1 hx with hx | hx
    · rcases List.mem_append.1 hx with hx | hx
      · exact hz x (List.mem_filter.1 hx).1
      · simpa using (zipIdx_filterMap_mem hx).2.2
    · exact hz x (List.mem_filter.1 hx).1

theorem memWf_filter (p : Nat × Byte → Bool) (m : SMap Byte) (h : memWf m = true) : memWf (m.filter p) = true := by
  unfold memWf at *
  rw [Bool.and_eq_true, List.all_eq_true] at *
  exact ⟨keysRise_filter p m h.1, fun x hx => h.2 x (List.mem_filter.1 hx).1⟩

/-- The one store of a state keeps its memory's form. -/
theorem memWf_memWrite (s : State) (a : Nat) (bs : List Byte) (h : memWf s.mem = true) :
    memWf (memWrite s a bs).mem = true := memWf_memSplice s.mem a bs h

/-! ### Reading after a store -/

theorem mget?_zipIdx (bs : List Byte) (a k : Nat) :
    mget? ((bs.zipIdx a).filterMap fun e => if e.1 = 0 then none else some (e.2, e.1)) k =
      if a ≤ k ∧ k < a + bs.length ∧ bs.getD (k - a) 0 ≠ 0 then some (bs.getD (k - a) 0) else none := by
  induction bs generalizing a with
  | nil => simp
  | cons b r ih =>
    rw [List.zipIdx_cons, List.filterMap_cons]
    by_cases hk : k = a
    · subst hk
      by_cases hb : b = 0
      · subst hb
        simp only [if_true]
        rw [ih]
        simp
      · have hb' : ¬ b = 0#8 := hb
        simp [hb', mget?]
    · have e : (if a + 1 ≤ k ∧ k < a + 1 + r.length ∧ r.getD (k - (a + 1)) 0 ≠ 0 then some (r.getD (k - (a + 1)) 0) else none) =
          if a ≤ k ∧ k < a + (b :: r).length ∧ (b :: r).getD (k - a) 0 ≠ 0 then some ((b :: r).getD (k - a) 0) else none := by
        by_cases hlt : k < a
        · have h1 : ¬ a + 1 ≤ k := by omega
          have h2 : ¬ a ≤ k := by omega
          simp [h1, h2]
        · have h3 : k - a = (k - (a + 1)) + 1 := by omega
          rw [h3, List.getD_cons_succ, List.length_cons]
          refine if_congr ?_ rfl rfl
          constructor
          · rintro ⟨_, _, h6⟩; exact ⟨by omega, by omega, h6⟩
          · rintro ⟨_, _, h6⟩; exact ⟨by omega, by omega, h6⟩
      by_cases hb : b = 0
      · subst hb
        simp only [if_true]
        rw [ih, e]
      · have hk' : ¬ a = k := fun c => hk c.symm
        simp only [hb, if_false, mget?, hk']
        rw [ih, e]

/-- What a byte reads as after a store. -/
theorem memByte_memWrite (s : State) (a : Nat) (bs : List Byte) (k : Nat) :
    memByte (memWrite s a bs) k =
      if a ≤ k ∧ k < a + bs.length then bs.getD (k - a) 0 else memByte s k := by
  unfold memByte memWrite memSplice mget
  simp only []
  rw [mget?_append, mget?_append, mget?_filter_key (fun j => decide (j < a)),
    mget?_filter_key (fun j => decide (a + bs.length ≤ j)), mget?_zipIdx]
  by_cases h1 : k < a
  · have h2 : ¬ a ≤ k := by omega
    have h3 : ¬ a + bs.length ≤ k := by omega
    simp [h1, h2, h3]
  · by_cases h3 : a + bs.length ≤ k
    · have h4 : ¬ k < a + bs.length := by omega
      simp [h1, h3, h4]
    · have h2 : a ≤ k := by omega
      have h4 : k < a + bs.length := by omega
      by_cases hz : bs.getD (k - a) 0 = 0
      · simp only [hz]
        simp [h1, h2, h3, h4]
      · rw [if_neg (by simpa using h1), if_pos ⟨h2, h4, hz⟩]
        simp [h2, h4]

/-- A store leaves every other byte. -/
theorem memByte_memWrite_out (s : State) (a : Nat) (bs : List Byte) (k : Nat) (h : k < a ∨ a + bs.length ≤ k) :
    memByte (memWrite s a bs) k = memByte s k := by
  rw [memByte_memWrite, if_neg (by omega)]

/-- A store is read back. -/
theorem memRead_memWrite (s : State) (a : Nat) (bs : List Byte) : memRead (memWrite s a bs) a bs.length = bs := by
  unfold memRead
  apply List.ext_getElem
  · simp
  · intro i h1 h2
    simp only [List.getElem_map, List.getElem_range]
    rw [memByte_memWrite]
    have h3 : a ≤ a + i ∧ a + i < a + bs.length := ⟨by omega, by omega⟩
    rw [if_pos h3]
    have h4 : a + i - a = i := by omega
    rw [h4, List.getD_eq_getElem?_getD, List.getElem?_eq_getElem h2, Option.getD_some]

theorem memRead_memWrite_len (s : State) (a : Nat) (bs : List Byte) (n : Nat) (h : bs.length = n) :
    memRead (memWrite s a bs) a n = bs := by rw [← h]; exact memRead_memWrite s a bs

/-! ### Little-endian bytes -/

@[simp] theorem leBytes_length (n v : Nat) : (leBytes n v).length = n := by
  induction n generalizing v with
  | zero => rfl
  | succ n ih => simp [leBytes, ih]

/-- Bytes spell the number they were made from, modulo their width. -/
theorem ofLe_leBytes (n v : Nat) : ofLe (leBytes n v) = v % 2 ^ (8 * n) := by
  induction n generalizing v with
  | zero => simp [leBytes, ofLe, Nat.mod_one]
  | succ n ih =>
    rw [leBytes, ofLe, ih, BitVec.toNat_ofNat, Nat.shiftRight_eq_div_pow]
    have h : (2 : Nat) ^ (8 * (n + 1)) = 2 ^ 8 * 2 ^ (8 * n) := by rw [← Nat.pow_add]; ring_nf
    rw [h, Nat.mod_mul, show (256 : Nat) = 2 ^ 8 from rfl]

end Sys2Proof.Machine
end

