-- ==== Sys2Proof/Laws/Within.lean ====
section
/-! SUPPORT. `Within`: what a command may change, and what it keeps whatever it changes; for every operation of the memory,
pages and units. -/

-- One declaration at a time: the check of the package as one text bounds memory, which a thread a proof would pass.
set_option Elab.async false

namespace Sys2Proof.Machine

set_option linter.unusedSimpArgs false
set_option linter.unusedVariables false
set_option linter.unreachableTactic false
set_option linter.unusedTactic false

/-- Membership in a list by place. -/
theorem at0 {α : Type} {a : α} {l : List α} : a ∈ a :: l := List.mem_cons_self
theorem later {α : Type} {a b : α} {l : List α} (h : a ∈ l) : a ∈ b :: l := List.mem_cons_of_mem _ h
theorem at1 {α : Type} {b0 a : α} {l : List α} : a ∈ b0 :: a :: l := later at0
theorem at2 {α : Type} {b0 b1 a : α} {l : List α} : a ∈ b0 :: b1 :: a :: l := later at1
theorem at3 {α : Type} {b0 b1 b2 a : α} {l : List α} : a ∈ b0 :: b1 :: b2 :: a :: l := later at2
theorem at4 {α : Type} {b0 b1 b2 b3 a : α} {l : List α} : a ∈ b0 :: b1 :: b2 :: b3 :: a :: l := later at3
theorem at5 {α : Type} {b0 b1 b2 b3 b4 a : α} {l : List α} : a ∈ b0 :: b1 :: b2 :: b3 :: b4 :: a :: l := later at4
theorem at6 {α : Type} {b0 b1 b2 b3 b4 b5 a : α} {l : List α} : a ∈ b0 :: b1 :: b2 :: b3 :: b4 :: b5 :: a :: l :=
    later at5
theorem at7 {α : Type} {b0 b1 b2 b3 b4 b5 b6 a : α} {l : List α} : a ∈ b0 :: b1 :: b2 :: b3 :: b4 :: b5 :: b6 :: a ::
    l := later at6
theorem at8 {α : Type} {b0 b1 b2 b3 b4 b5 b6 b7 a : α} {l : List α} : a ∈ b0 :: b1 :: b2 :: b3 :: b4 :: b5 :: b6 :: b7
    :: a :: l := later at7
theorem at9 {α : Type} {b0 b1 b2 b3 b4 b5 b6 b7 b8 a : α} {l : List α} : a ∈ b0 :: b1 :: b2 :: b3 :: b4 :: b5 :: b6 ::
    b7 :: b8 :: a :: l := later at8
theorem at10 {α : Type} {b0 b1 b2 b3 b4 b5 b6 b7 b8 b9 a : α} {l : List α} : a ∈ b0 :: b1 :: b2 :: b3 :: b4 :: b5 ::
    b6 :: b7 :: b8 :: b9 :: a :: l := later at9
theorem at11 {α : Type} {b0 b1 b2 b3 b4 b5 b6 b7 b8 b9 b10 a : α} {l : List α} : a ∈ b0 :: b1 :: b2 :: b3 :: b4 :: b5
    :: b6 :: b7 :: b8 :: b9 :: b10 :: a :: l := later at10
theorem at12 {α : Type} {b0 b1 b2 b3 b4 b5 b6 b7 b8 b9 b10 b11 a : α} {l : List α} : a ∈ b0 :: b1 :: b2 :: b3 :: b4 ::
    b5 :: b6 :: b7 :: b8 :: b9 :: b10 :: b11 :: a :: l := later at11
theorem at13 {α : Type} {b0 b1 b2 b3 b4 b5 b6 b7 b8 b9 b10 b11 b12 a : α} {l : List α} : a ∈ b0 :: b1 :: b2 :: b3 ::
    b4 :: b5 :: b6 :: b7 :: b8 :: b9 :: b10 :: b11 :: b12 :: a :: l := later at12
theorem at14 {α : Type} {b0 b1 b2 b3 b4 b5 b6 b7 b8 b9 b10 b11 b12 b13 a : α} {l : List α} : a ∈ b0 :: b1 :: b2 :: b3
    :: b4 :: b5 :: b6 :: b7 :: b8 :: b9 :: b10 :: b11 :: b12 :: b13 :: a :: l := later at13
theorem at15 {α : Type} {b0 b1 b2 b3 b4 b5 b6 b7 b8 b9 b10 b11 b12 b13 b14 a : α} {l : List α} : a ∈ b0 :: b1 :: b2 ::
    b3 :: b4 :: b5 :: b6 :: b7 :: b8 :: b9 :: b10 :: b11 :: b12 :: b13 :: b14 :: a :: l := later at14
theorem at16 {α : Type} {b0 b1 b2 b3 b4 b5 b6 b7 b8 b9 b10 b11 b12 b13 b14 b15 a : α} {l : List α} : a ∈ b0 :: b1 ::
    b2 :: b3 :: b4 :: b5 :: b6 :: b7 :: b8 :: b9 :: b10 :: b11 :: b12 :: b13 :: b14 :: b15 :: a :: l := later at15
theorem at17 {α : Type} {b0 b1 b2 b3 b4 b5 b6 b7 b8 b9 b10 b11 b12 b13 b14 b15 b16 a : α} {l : List α} : a ∈ b0 :: b1
    :: b2 :: b3 :: b4 :: b5 :: b6 :: b7 :: b8 :: b9 :: b10 :: b11 :: b12 :: b13 :: b14 :: b15 :: b16 :: a :: l :=
    later at16
theorem at18 {α : Type} {b0 b1 b2 b3 b4 b5 b6 b7 b8 b9 b10 b11 b12 b13 b14 b15 b16 b17 a : α} {l : List α} : a ∈ b0 ::
    b1 :: b2 :: b3 :: b4 :: b5 :: b6 :: b7 :: b8 :: b9 :: b10 :: b11 :: b12 :: b13 :: b14 :: b15 :: b16 :: b17 :: a ::
    l := later at17
theorem at19 {α : Type} {b0 b1 b2 b3 b4 b5 b6 b7 b8 b9 b10 b11 b12 b13 b14 b15 b16 b17 b18 a : α} {l : List α} : a ∈
    b0 :: b1 :: b2 :: b3 :: b4 :: b5 :: b6 :: b7 :: b8 :: b9 :: b10 :: b11 :: b12 :: b13 :: b14 :: b15 :: b16 :: b17
    :: b18 :: a :: l := later at18
theorem at20 {α : Type} {b0 b1 b2 b3 b4 b5 b6 b7 b8 b9 b10 b11 b12 b13 b14 b15 b16 b17 b18 b19 a : α} {l : List α} : a
    ∈ b0 :: b1 :: b2 :: b3 :: b4 :: b5 :: b6 :: b7 :: b8 :: b9 :: b10 :: b11 :: b12 :: b13 :: b14 :: b15 :: b16 :: b17
    :: b18 :: b19 :: a :: l := later at19
theorem at21 {α : Type} {b0 b1 b2 b3 b4 b5 b6 b7 b8 b9 b10 b11 b12 b13 b14 b15 b16 b17 b18 b19 b20 a : α} {l : List α}
    : a ∈ b0 :: b1 :: b2 :: b3 :: b4 :: b5 :: b6 :: b7 :: b8 :: b9 :: b10 :: b11 :: b12 :: b13 :: b14 :: b15 :: b16 ::
    b17 :: b18 :: b19 :: b20 :: a :: l := later at20
theorem at22 {α : Type} {b0 b1 b2 b3 b4 b5 b6 b7 b8 b9 b10 b11 b12 b13 b14 b15 b16 b17 b18 b19 b20 b21 a : α} {l :
    List α} : a ∈ b0 :: b1 :: b2 :: b3 :: b4 :: b5 :: b6 :: b7 :: b8 :: b9 :: b10 :: b11 :: b12 :: b13 :: b14 :: b15
    :: b16 :: b17 :: b18 :: b19 :: b20 :: b21 :: a :: l := later at21
theorem at23 {α : Type} {b0 b1 b2 b3 b4 b5 b6 b7 b8 b9 b10 b11 b12 b13 b14 b15 b16 b17 b18 b19 b20 b21 b22 a : α} {l :
    List α} : a ∈ b0 :: b1 :: b2 :: b3 :: b4 :: b5 :: b6 :: b7 :: b8 :: b9 :: b10 :: b11 :: b12 :: b13 :: b14 :: b15
    :: b16 :: b17 :: b18 :: b19 :: b20 :: b21 :: b22 :: a :: l := later at22

theorem fusesKept_refl (f : Fuses) : FusesKept f f := ⟨rfl, rfl, rfl, rfl, fun _ h => h⟩
theorem fusesKept_identity (f : Fuses) (a : Long) (b : BitVec 256) :
    FusesKept f { f with deviceId := a, identityKey := b } := ⟨rfl, rfl, rfl, rfl, fun _ h => h⟩
theorem fusesKept_trans {f g h : Fuses} (a : FusesKept f g) (b : FusesKept g h) : FusesKept f h :=
  ⟨b.1.trans a.1, b.2.1.trans a.2.1, b.2.2.1.trans a.2.2.1, b.2.2.2.1.trans a.2.2.2.1,
    fun k e => b.2.2.2.2 k (a.2.2.2.2 k e)⟩

variable {S : Piece → Prop} {z : State}
/-- A part that `S` does not name is the same. -/
def Keep {α : Type} (S : Piece → Prop) (p : Piece) (a b : α) : Prop := ¬ S p → a = b
theorem keep_of {α : Type} {p : Piece} {a b : α} (h : S p) : Keep S p a b := fun n => absurd h n
theorem keep_or {α : Type} {p : Piece} {a b c : α} (h : a = b ∨ S p) (k : Keep S p b c) : Keep S p a c :=
  fun n => (h.resolve_right n).trans (k n)
/-- Memory that has its form still has it. -/
def Formed (a b : SMap Byte) : Prop := memWf b = true → memWf a = true
theorem formed_refl (a : SMap Byte) : Formed a a := id
theorem formed_nil (a : SMap Byte) : Formed [] a := fun _ => rfl
theorem formed_filter (p : Nat × Byte → Bool) (a : SMap Byte) : Formed (a.filter p) a := memWf_filter p a
/-- The state `s` comes from `z` by what a command may do: the queue is the same, memory keeps its form, the fuses keep what
they hold, and `s` agrees with `z` outside the parts that `S` names. -/
structure Within (S : Piece → Prop) (z s : State) : Prop where
  queue : s.pending = z.pending
  form : Formed s.mem z.mem
  fuse : FusesKept z.fuses s.fuses
  free : Keep S .free s.free z.free
  out : Keep S .out s.out z.out
  mem : Keep S .mem s.mem z.mem
  bad : Keep S .bad s.bad z.bad
  softBad : Keep S .softBad s.softBad z.softBad
  hbmErr : Keep S .hbmErr s.hbmErr z.hbmErr
  burstKey : Keep S .burstKey s.burstKey z.burstKey
  hbmStale : Keep S .hbmStale s.hbmStale z.hbmStale
  tags : Keep S .tags s.tags z.tags
  pages : Keep S .pages s.pages z.pages
  cores : Keep S .cores s.cores z.cores
  dies : Keep S .dies s.dies z.dies
  d2d : Keep S .d2d s.d2d z.d2d
  bell : Keep S .bell s.bell z.bell
  sched : Keep S .sched s.sched z.sched
  parts : Keep S .parts s.parts z.parts
  crier : Keep S .crier s.crier z.crier
  links : Keep S .links s.links z.links
  sealU : Keep S .sealU s.sealU z.sealU
  power : Keep S .power s.power z.power
  boot : Keep S .boot s.boot z.boot
  flash : Keep S .flash s.flash z.flash
  fuses : Keep S .fuses s.fuses z.fuses
  hosts : Keep S .hosts s.hosts z.hosts
theorem within_mk {pending free out mem bad softBad hbmErr burstKey hbmStale tags pages cores dies d2d bell sched
    parts crier links sealU power boot flash fuses hosts} : Within S z (State.mk pending free out mem bad softBad
    hbmErr burstKey hbmStale tags pages cores dies d2d bell sched parts crier links sealU power boot flash fuses
    hosts) = (pending = z.pending ∧ Formed mem z.mem ∧ FusesKept z.fuses fuses ∧ Keep S .free free z.free ∧ Keep S
    .out out z.out ∧ Keep S .mem mem z.mem ∧ Keep S .bad bad z.bad ∧ Keep S .softBad softBad z.softBad ∧ Keep S
    .hbmErr hbmErr z.hbmErr ∧ Keep S .burstKey burstKey z.burstKey ∧ Keep S .hbmStale hbmStale z.hbmStale ∧ Keep S
    .tags tags z.tags ∧ Keep S .pages pages z.pages ∧ Keep S .cores cores z.cores ∧ Keep S .dies dies z.dies ∧ Keep S
    .d2d d2d z.d2d ∧ Keep S .bell bell z.bell ∧ Keep S .sched sched z.sched ∧ Keep S .parts parts z.parts ∧ Keep S
    .crier crier z.crier ∧ Keep S .links links z.links ∧ Keep S .sealU sealU z.sealU ∧ Keep S .power power z.power ∧
    Keep S .boot boot z.boot ∧ Keep S .flash flash z.flash ∧ Keep S .fuses fuses z.fuses ∧ Keep S .hosts hosts
    z.hosts) := propext ⟨fun h => ⟨h.queue, h.form, h.fuse, h.free, h.out, h.mem, h.bad, h.softBad, h.hbmErr,
    h.burstKey, h.hbmStale, h.tags, h.pages, h.cores, h.dies, h.d2d, h.bell, h.sched, h.parts, h.crier, h.links,
    h.sealU, h.power, h.boot, h.flash, h.fuses, h.hosts⟩, fun ⟨h0, h1, h2, h3, h4, h5, h6, h7, h8, h9, h10, h11, h12,
    h13, h14, h15, h16, h17, h18, h19, h20, h21, h22, h23, h24, h25, h26⟩ => ⟨h0, h1, h2, h3, h4, h5, h6, h7, h8, h9,
    h10, h11, h12, h13, h14, h15, h16, h17, h18, h19, h20, h21, h22, h23, h24, h25, h26⟩⟩
theorem within_upd {x : State} {apending afree aout amem abad asoftBad ahbmErr aburstKey ahbmStale atags apages acores
    adies ad2d abell asched aparts acrier alinks asealU apower aboot aflash afuses ahosts} (hq : apending = x.pending)
    (hm : Formed amem x.mem) (hf : FusesKept x.fuses afuses) (h0 : afree = x.free ∨ S .free) (h1 : aout = x.out ∨ S
    .out) (h2 : amem = x.mem ∨ S .mem) (h3 : abad = x.bad ∨ S .bad) (h4 : asoftBad = x.softBad ∨ S .softBad) (h5 :
    ahbmErr = x.hbmErr ∨ S .hbmErr) (h6 : aburstKey = x.burstKey ∨ S .burstKey) (h7 : ahbmStale = x.hbmStale ∨ S
    .hbmStale) (h8 : atags = x.tags ∨ S .tags) (h9 : apages = x.pages ∨ S .pages) (h10 : acores = x.cores ∨ S .cores)
    (h11 : adies = x.dies ∨ S .dies) (h12 : ad2d = x.d2d ∨ S .d2d) (h13 : abell = x.bell ∨ S .bell) (h14 : asched =
    x.sched ∨ S .sched) (h15 : aparts = x.parts ∨ S .parts) (h16 : acrier = x.crier ∨ S .crier) (h17 : alinks =
    x.links ∨ S .links) (h18 : asealU = x.sealU ∨ S .sealU) (h19 : apower = x.power ∨ S .power) (h20 : aboot = x.boot
    ∨ S .boot) (h21 : aflash = x.flash ∨ S .flash) (h22 : afuses = x.fuses ∨ S .fuses) (h23 : ahosts = x.hosts ∨ S
    .hosts) (h : Within S z x) : apending = z.pending ∧ Formed amem z.mem ∧ FusesKept z.fuses afuses ∧ Keep S .free
    afree z.free ∧ Keep S .out aout z.out ∧ Keep S .mem amem z.mem ∧ Keep S .bad abad z.bad ∧ Keep S .softBad asoftBad
    z.softBad ∧ Keep S .hbmErr ahbmErr z.hbmErr ∧ Keep S .burstKey aburstKey z.burstKey ∧ Keep S .hbmStale ahbmStale
    z.hbmStale ∧ Keep S .tags atags z.tags ∧ Keep S .pages apages z.pages ∧ Keep S .cores acores z.cores ∧ Keep S
    .dies adies z.dies ∧ Keep S .d2d ad2d z.d2d ∧ Keep S .bell abell z.bell ∧ Keep S .sched asched z.sched ∧ Keep S
    .parts aparts z.parts ∧ Keep S .crier acrier z.crier ∧ Keep S .links alinks z.links ∧ Keep S .sealU asealU z.sealU
    ∧ Keep S .power apower z.power ∧ Keep S .boot aboot z.boot ∧ Keep S .flash aflash z.flash ∧ Keep S .fuses afuses
    z.fuses ∧ Keep S .hosts ahosts z.hosts := ⟨hq.trans h.queue, fun k => hm (h.form k), fusesKept_trans h.fuse hf,
    keep_or h0 h.free, keep_or h1 h.out, keep_or h2 h.mem, keep_or h3 h.bad, keep_or h4 h.softBad, keep_or h5
    h.hbmErr, keep_or h6 h.burstKey, keep_or h7 h.hbmStale, keep_or h8 h.tags, keep_or h9 h.pages, keep_or h10
    h.cores, keep_or h11 h.dies, keep_or h12 h.d2d, keep_or h13 h.bell, keep_or h14 h.sched, keep_or h15 h.parts,
    keep_or h16 h.crier, keep_or h17 h.links, keep_or h18 h.sealU, keep_or h19 h.power, keep_or h20 h.boot, keep_or
    h21 h.flash, keep_or h22 h.fuses, keep_or h23 h.hosts⟩

/-- A state within the parts listed has changed nothing else. -/
theorem within_refl (S : Piece → Prop) (s : State) : Within S s s := by
  refine ⟨rfl, id, fusesKept_refl _, ?_, ?_, ?_, ?_, ?_, ?_, ?_, ?_, ?_, ?_, ?_, ?_, ?_, ?_, ?_, ?_, ?_, ?_, ?_, ?_, ?_, ?_, ?_, ?_⟩ <;> exact fun _ => rfl

/-- What lies outside the parts named is the same. -/
theorem within_same {p : Piece} {s : State} (h : Within S z s) (n : ¬ S p) : p.same z s := by
  cases p
  · exact h.queue
  · exact h.free n
  · exact h.out n
  · exact h.mem n
  · exact h.bad n
  · exact h.softBad n
  · exact h.hbmErr n
  · exact h.burstKey n
  · exact h.hbmStale n
  · exact h.tags n
  · exact h.pages n
  · exact h.cores n
  · exact h.dies n
  · exact h.d2d n
  · exact h.bell n
  · exact h.sched n
  · exact h.parts n
  · exact h.crier n
  · exact h.links n
  · exact h.sealU n
  · exact h.power n
  · exact h.boot n
  · exact h.flash n
  · exact h.fuses n
  · exact h.hosts n

/-- `Changes` from `Within`. -/
theorem changes_of {L : List Piece} {s t : State} (h : Within (· ∈ L) s t) : Changes L s t := fun _ n => within_same h n

theorem within_ite (c : Prop) [Decidable c] (a b : State) (ha : Within S z a) (hb : Within S z b) :
    Within S z (if c then a else b) := by split <;> assumption
theorem within_ite_fst {γ : Type} (c : Prop) [Decidable c] (a b : State × γ) (ha : Within S z a.1)
    (hb : Within S z b.1) : Within S z (if c then a else b).1 := by split <;> assumption
theorem within_ite_run_fst {γ : Type} (c : Prop) [Decidable c] (a b : Run × γ) (ha : Within S z a.1.s)
    (hb : Within S z b.1.s) : Within S z (if c then a else b).1.s := by split <;> assumption
theorem within_foldl {β : Type} (f : State → β → State) (l : List β) (s : State)
    (hf : ∀ s e, Within S z s → Within S z (f s e)) (h : Within S z s) : Within S z (l.foldl f s) := by
  induction l generalizing s with
  | nil => exact h
  | cons a r ih => exact ih _ (hf _ _ h)
theorem within_foldr {β : Type} (f : β → State → State) (l : List β) (s : State)
    (hf : ∀ s e, Within S z s → Within S z (f e s)) (h : Within S z s) : Within S z (l.foldr f s) := by
  induction l with
  | nil => exact h
  | cons a r ih => exact hf _ _ ih
theorem within_foldl_fst {β γ : Type} (f : State × γ → β → State × γ) (l : List β) (s : State × γ)
    (hf : ∀ s e, Within S z s.1 → Within S z (f s e).1) (h : Within S z s.1) : Within S z (l.foldl f s).1 := by
  induction l generalizing s with
  | nil => exact h
  | cons a r ih => exact ih _ (hf _ _ h)
theorem within_foldl_run_fst {β γ : Type} (f : Run × γ → β → Run × γ) (l : List β) (s : Run × γ)
    (hf : ∀ s e, Within S z s.1.s → Within S z (f s e).1.s) (h : Within S z s.1.s) :
    Within S z (l.foldl f s).1.s := by
  induction l generalizing s with
  | nil => exact h
  | cons a r ih => exact ih _ (hf _ _ h)
theorem within_elim {β : Type} (o : Option β) (a : State) (f : β → State) (ha : Within S z a)
    (hf : ∀ b, Within S z (f b)) : Within S z (o.elim a f) := by
  cases o
  · exact ha
  · exact hf _
theorem within_opt_ite (c : Prop) [Decidable c] (a b : Option State) (ha : ∀ t, a = some t → Within S z t)
    (hb : ∀ t, b = some t → Within S z t) : ∀ t, (if c then a else b) = some t → Within S z t := by
  split <;> assumption
theorem within_opt_some (x : State) (h : Within S z x) : ∀ t, some x = some t → Within S z t := by
  intro t e; cases e; exact h
theorem within_opt_none : ∀ t, (none : Option State) = some t → Within S z t := by
  intro t e; cases e
theorem within_ite_run (c : Prop) [Decidable c] (a b : Run) (ha : Within S z a.s) (hb : Within S z b.s) :
    Within S z (if c then a else b).s := by split <;> assumption
theorem within_foldl_run {β : Type} (f : Run → β → Run) (l : List β) (s : Run)
    (hf : ∀ s e, Within S z s.s → Within S z (f s e).s) (h : Within S z s.s) : Within S z (l.foldl f s).s := by
  induction l generalizing s with
  | nil => exact h
  | cons a r ih => exact ih _ (hf _ _ h)
theorem within_ite_couch (c : Prop) [Decidable c] (a b : Couch) (ha : Within S z a.s) (hb : Within S z b.s) :
    Within S z (if c then a else b).s := by split <;> assumption
theorem within_foldl_couch {β : Type} (f : Couch → β → Couch) (l : List β) (s : Couch)
    (hf : ∀ s e, Within S z s.s → Within S z (f s e).s) (h : Within S z s.s) : Within S z (l.foldl f s).s := by
  induction l generalizing s with
  | nil => exact h
  | cons a r ih => exact ih _ (hf _ _ h)
theorem within_ite_couchrun (c : Prop) [Decidable c] (a b : CouchRun) (ha : Within S z a.s) (hb : Within S z b.s) :
    Within S z (if c then a else b).s := by split <;> assumption
theorem within_foldl_couchrun {β : Type} (f : CouchRun → β → CouchRun) (l : List β) (s : CouchRun)
    (hf : ∀ s e, Within S z s.s → Within S z (f s e).s) (h : Within S z s.s) : Within S z (l.foldl f s).s := by
  induction l generalizing s with
  | nil => exact h
  | cons a r ih => exact ih _ (hf _ _ h)
theorem within_ite_effect (c : Prop) [Decidable c] (a b : Effect) (ha : Within S z a.s) (hb : Within S z b.s) :
    Within S z (if c then a else b).s := by split <;> assumption
theorem within_foldl_effect {β : Type} (f : Effect → β → Effect) (l : List β) (s : Effect)
    (hf : ∀ s e, Within S z s.s → Within S z (f s e).s) (h : Within S z s.s) : Within S z (l.foldl f s).s := by
  induction l generalizing s with
  | nil => exact h
  | cons a r ih => exact ih _ (hf _ _ h)
theorem within_ite_frame (c : Prop) [Decidable c] (a b : FrameRun) (ha : Within S z a.s) (hb : Within S z b.s) :
    Within S z (if c then a else b).s := by split <;> assumption
theorem within_foldl_frame {β : Type} (f : FrameRun → β → FrameRun) (l : List β) (s : FrameRun)
    (hf : ∀ s e, Within S z s.s → Within S z (f s e).s) (h : Within S z s.s) : Within S z (l.foldl f s).s := by
  induction l generalizing s with
  | nil => exact h
  | cons a r ih => exact ih _ (hf _ _ h)
theorem within_ite_member (c : Prop) [Decidable c] (a b : MemberPart) (ha : Within S z a.s) (hb : Within S z b.s) :
    Within S z (if c then a else b).s := by split <;> assumption
theorem within_foldl_member {β : Type} (f : MemberPart → β → MemberPart) (l : List β) (s : MemberPart)
    (hf : ∀ s e, Within S z s.s → Within S z (f s e).s) (h : Within S z s.s) : Within S z (l.foldl f s).s := by
  induction l generalizing s with
  | nil => exact h
  | cons a r ih => exact ih _ (hf _ _ h)
theorem within_ite_rounds (c : Prop) [Decidable c] (a b : Rounds) (ha : Within S z a.s) (hb : Within S z b.s) :
    Within S z (if c then a else b).s := by split <;> assumption
theorem within_foldl_rounds {β : Type} (f : Rounds → β → Rounds) (l : List β) (s : Rounds)
    (hf : ∀ s e, Within S z s.s → Within S z (f s e).s) (h : Within S z s.s) : Within S z (l.foldl f s).s := by
  induction l generalizing s with
  | nil => exact h
  | cons a r ih => exact ih _ (hf _ _ h)

theorem within_drawFree (bFree : S .free) (s : State) (h_s : Within S z s) : Within S z (drawFree s).2 := by
  unfold drawFree
  with_reducible repeat' first
      | intro _ | assumption | exact .inl rfl | exact .inr (by assumption) | exact formed_refl _
      | exact fusesKept_refl _ | (simp only [within_mk]; apply within_upd rfl)

theorem within_State_setCore (bCores : S .cores) (s : State) (g : Nat) (c : Core) (h_s : Within S z s) : Within S z
    (State.setCore s g c) := by
  unfold State.setCore
  with_reducible repeat' first
      | intro _ | assumption | exact .inl rfl | exact .inr (by assumption) | exact formed_refl _
      | exact fusesKept_refl _ | (simp only [within_mk]; apply within_upd rfl)

theorem within_State_modCore (bCores : S .cores) (s : State) (g : Nat) (f : Core → Core) (h_s : Within S z s) : Within
    S z (State.modCore s g f) := by
  unfold State.modCore
  with_reducible repeat' first
      | assumption | apply within_State_setCore

theorem within_State_setPage (bPages : S .pages) (s : State) (pn : Nat) (p : Page) (h_s : Within S z s) : Within S z
    (State.setPage s pn p) := by
  unfold State.setPage
  with_reducible repeat' first
      | intro _ | assumption | exact .inl rfl | exact .inr (by assumption) | exact formed_refl _
      | exact fusesKept_refl _ | (simp only [within_mk]; apply within_upd rfl)

theorem within_State_modPage (bPages : S .pages) (s : State) (pn : Nat) (f : Page → Page) (h_s : Within S z s) :
    Within S z (State.modPage s pn f) := by
  unfold State.modPage
  with_reducible repeat' first
      | assumption | apply within_State_setPage

theorem within_State_setDie (bDies : S .dies) (s : State) (d : Nat) (v : Die) (h_s : Within S z s) : Within S z
    (State.setDie s d v) := by
  unfold State.setDie
  with_reducible repeat' first
      | intro _ | assumption | exact .inl rfl | exact .inr (by assumption) | exact formed_refl _
      | exact fusesKept_refl _ | (simp only [within_mk]; apply within_upd rfl)

theorem within_State_modDie (bDies : S .dies) (s : State) (d : Nat) (f : Die → Die) (h_s : Within S z s) : Within S z
    (State.modDie s d f) := by
  unfold State.modDie
  with_reducible repeat' first
      | assumption | apply within_State_setDie

theorem within_State_setPart (bParts : S .parts) (s : State) (p : Nat) (v : Part) (h_s : Within S z s) : Within S z
    (State.setPart s p v) := by
  unfold State.setPart
  with_reducible repeat' first
      | intro _ | assumption | exact .inl rfl | exact .inr (by assumption) | exact formed_refl _
      | exact fusesKept_refl _ | (simp only [within_mk]; apply within_upd rfl)

theorem within_State_modPart (bParts : S .parts) (s : State) (p : Nat) (f : Part → Part) (h_s : Within S z s) : Within
    S z (State.modPart s p f) := by
  unfold State.modPart
  with_reducible repeat' first
      | assumption | apply within_State_setPart

theorem within_State_setHalf (bLinks : S .links) (s : State) (h : Nat) (v : Half) (h_s : Within S z s) : Within S z
    (State.setHalf s h v) := by
  unfold State.setHalf
  with_reducible repeat' first
      | intro _ | assumption | exact .inl rfl | exact .inr (by assumption) | exact formed_refl _
      | exact fusesKept_refl _ | (simp only [within_mk]; apply within_upd rfl)

theorem within_State_modHalf (bLinks : S .links) (s : State) (h : Nat) (f : Half → Half) (h_s : Within S z s) : Within
    S z (State.modHalf s h f) := by
  unfold State.modHalf
  with_reducible repeat' first
      | assumption | apply within_State_setHalf

theorem within_State_setPeer (bLinks : S .links) (s : State) (c : Nat) (v : Peer) (h_s : Within S z s) : Within S z
    (State.setPeer s c v) := by
  unfold State.setPeer
  with_reducible repeat' first
      | intro _ | assumption | exact .inl rfl | exact .inr (by assumption) | exact formed_refl _
      | exact fusesKept_refl _ | (simp only [within_mk]; apply within_upd rfl)

theorem within_State_modPeer (bLinks : S .links) (s : State) (c : Nat) (f : Peer → Peer) (h_s : Within S z s) : Within
    S z (State.modPeer s c f) := by
  unfold State.modPeer
  with_reducible repeat' first
      | assumption | apply within_State_setPeer

theorem within_State_setHost (bHosts : S .hosts) (s : State) (h : Nat) (v : HostCore) (h_s : Within S z s) : Within S
    z (State.setHost s h v) := by
  unfold State.setHost
  with_reducible repeat' first
      | intro _ | assumption | exact .inl rfl | exact .inr (by assumption) | exact formed_refl _
      | exact fusesKept_refl _ | (simp only [within_mk]; apply within_upd rfl)

theorem within_State_emit (bOut : S .out) (s : State) (o : Output) (h_s : Within S z s) : Within S z (State.emit s o)
    := by
  unfold State.emit
  with_reducible repeat' first
      | intro _ | assumption | exact .inl rfl | exact .inr (by assumption) | exact formed_refl _
      | exact fusesKept_refl _ | (simp only [within_mk]; apply within_upd rfl)

theorem within_State_modCtx (bParts : S .parts) (s : State) (p : Nat) (x : Nat) (f : Ctx → Ctx) (h_s : Within S z s) :
    Within S z (State.modCtx s p x f) := by
  unfold State.modCtx
  with_reducible repeat' first
      | assumption | apply within_State_modPart

theorem within_State_modRing (bCores : S .cores) (s : State) (g : Nat) (x : Nat) (f : Ring → Ring) (h_s : Within S z
    s) : Within S z (State.modRing s g x f) := by
  unfold State.modRing
  with_reducible repeat' first
      | assumption | apply within_State_modCore

theorem within_State_setCrierRing (bCrier : S .crier) (s : State) (k : Nat) (v : TrapRing) (h_s : Within S z s) :
    Within S z (State.setCrierRing s k v) := by
  unfold State.setCrierRing
  with_reducible repeat' first
      | intro _ | assumption | exact .inl rfl | exact .inr (by assumption) | exact formed_refl _
      | exact fusesKept_refl _ | (simp only [within_mk]; apply within_upd rfl)

theorem within_memWrite (bMem : S .mem) (s : State) (a : Nat) (bs : List Byte) (h_s : Within S z s) : Within S z
    (memWrite s a bs) := by
  unfold memWrite
  simp only [within_mk]
  apply within_upd rfl (memWf_memSplice _ _ _)
  with_reducible repeat' first
      | assumption | exact .inl rfl | exact .inr (by assumption) | exact fusesKept_refl _

theorem within_memWriteWord (bMem : S .mem) (s : State) (a : Nat) (v : Nat) (h_s : Within S z s) : Within S z
    (memWriteWord s a v) := by
  unfold memWriteWord
  with_reducible repeat' first
      | assumption | apply within_memWrite

theorem within_State_setReg (bPages : S .pages) (s : State) (pn : Nat) (off : Nat) (w : Word) (h_s : Within S z s) :
    Within S z (State.setReg s pn off w) := by
  unfold State.setReg
  with_reducible repeat' first
      | intro _ | assumption | apply within_State_modPage | apply within_elim

theorem within_State_count (bPages : S .pages) (s : State) (pn : Nat) (k : Nat) (n : Nat) (h_s : Within S z s) :
    Within S z (State.count s pn k n) := by
  unfold State.count
  with_reducible repeat' first
      | assumption | apply within_State_modPage

theorem within_State_countOpen (bFree : S .free) (bPages : S .pages) (s : State) (pn : Nat) (k : Nat) (h_s : Within S
    z s) : Within S z (State.countOpen s pn k) := by
  unfold State.countOpen
  with_reducible repeat' first
      | assumption | apply within_State_count | apply within_drawFree

theorem within_setDieCtlOf (bDies : S .dies) (s : State) (g : Nat) (c : DieController) (h_s : Within S z s) : Within S
    z (setDieCtlOf s g c) := by
  unfold setDieCtlOf
  with_reducible repeat' first
      | assumption | apply within_State_modDie | apply within_ite

theorem within_queueEvent (bCrier : S .crier) (s : State) (pn : Nat) (h_s : Within S z s) : Within S z (queueEvent s
    pn) := by
  unfold queueEvent
  with_reducible repeat' first
      | assumption | apply within_State_setCrierRing | apply within_ite

theorem within_setEvent (bPages : S .pages) (bCrier : S .crier) (s : State) (pn : Nat) (b : Nat) (h_s : Within S z s)
    : Within S z (setEvent s pn b) := by
  unfold setEvent
  with_reducible repeat' first
      | assumption | apply within_queueEvent | apply within_State_setPage | apply within_ite

theorem within_raiseAlert (bPages : S .pages) (bCrier : S .crier) (bPower : S .power) (s : State) (b : Nat) (h_s :
    Within S z s) : Within S z (raiseAlert s b) := by
  unfold raiseAlert
  with_reducible repeat' first
      | intro _ | assumption | exact .inl rfl | exact .inr (by assumption) | exact formed_refl _
      | exact fusesKept_refl _ | apply within_setEvent | (simp only [within_mk]; apply within_upd rfl)

theorem within_capture (bPages : S .pages) (s : State) (pn : Nat) (r : Nat) (h_s : Within S z s) : Within S z (capture
    s pn r) := by
  unfold capture
  with_reducible repeat' first
      | assumption | apply within_State_modPage

theorem within_recordRefusal (bPages : S .pages) (s : State) (reason : Nat) (init : Nat) (pn : Nat) (off : Nat) (data
    : Nat) (h_s : Within S z s) : Within S z (recordRefusal s reason init pn off data) := by
  unfold recordRefusal
  with_reducible repeat' first
      | assumption | apply within_capture

theorem within_recordLatchRefusal (bPages : S .pages) (s : State) (pn : Nat) (off : Nat) (data : Nat) (h_s : Within S
    z s) : Within S z (recordLatchRefusal s pn off data) := by
  unfold recordLatchRefusal
  with_reducible repeat' first
      | assumption | apply within_recordRefusal

theorem within_raiseTrap (bPages : S .pages) (bCrier : S .crier) (s : State) (pn : Nat) (t : TrapInfo) (h_s : Within S
    z s) : Within S z (raiseTrap s pn t) := by
  unfold raiseTrap
  with_reducible repeat' first
      | intro _ | assumption | exact .inl rfl | exact .inr (by assumption) | exact formed_refl _
      | exact fusesKept_refl _ | apply within_capture | apply within_State_count | apply within_ite
      | (simp only [within_mk]; apply within_upd rfl) | split

theorem within_failStep (bSched : S .sched) (bParts : S .parts) (s : State) (p : Nat) (x : Nat) (h_s : Within S z s) :
    Within S z (failStep s p x) := by
  unfold failStep
  with_reducible repeat' first
      | intro _ | assumption | exact .inl rfl | exact .inr (by assumption) | exact formed_refl _
      | exact fusesKept_refl _ | apply within_State_modCtx | apply within_ite | apply within_ite_fst
      | (simp only [within_mk]; apply within_upd rfl) | split

theorem within_advanceHeads (bCores : S .cores) (s : State) (g : Nat) (h_s : Within S z s) : Within S z (advanceHeads
    s g) := by
  unfold advanceHeads
  with_reducible repeat' first
      | assumption | apply within_State_modCore

theorem within_refuseAccess (bPages : S .pages) (bCrier : S .crier) (s : State) (reason : Nat) (init : Nat) (write :
    Bool) (addr : Nat) (data : Nat) (h_s : Within S z s) : Within S z (refuseAccess s reason init write addr data) :=
    by
  unfold refuseAccess
  with_reducible repeat' first
      | assumption | apply within_capture | apply within_setEvent | apply within_State_count | apply within_ite

theorem within_disarm (bPages : S .pages) (s : State) (pn : Nat) (h_s : Within S z s) : Within S z (disarm s pn) := by
  unfold disarm
  with_reducible repeat' first
      | assumption | apply within_State_modPage

theorem within_arrive (bPages : S .pages) (bCrier : S .crier) (s : State) (init : Nat) (bytes : Nat) (addr : Nat)
    (write : Bool) (data : Nat) (served : State → State) (h_s : Within S z s) (h_served : ∀ x0, Within S z x0 → Within
    S z (served x0)) : Within S z (arrive s init bytes addr write data served) := by
  unfold arrive
  with_reducible repeat' first
      | assumption | apply h_served | apply within_disarm | apply within_refuseAccess | apply within_ite | split

theorem within_holdAccess (bHosts : S .hosts) (s : State) (init : Nat) (bytes : Nat) (addr : Nat) (value : Nat) (write
    : Bool) (h_s : Within S z s) : Within S z (holdAccess s init bytes addr value write) := by
  unfold holdAccess
  with_reducible repeat' first
      | assumption | apply within_State_setHost

theorem within_ctlWrite (bPages : S .pages) (bCrier : S .crier) (bHosts : S .hosts) (s : State) (init : Nat) (addr :
    Nat) (value : Nat) (behind : Bool) (served : State → State) (h_s : Within S z s) (h_served : ∀ x0, Within S z x0 →
    Within S z (served x0)) : Within S z (ctlWrite s init addr value behind served) := by
  unfold ctlWrite
  with_reducible repeat' first
      | intro _ | assumption | apply h_served | apply within_holdAccess | apply within_arrive | apply within_ite

theorem within_ignoreWrite (bPages : S .pages) (s : State) (reason : Nat) (init : Nat) (addr : Nat) (value : Nat) (h_s
    : Within S z s) : Within S z (ignoreWrite s reason init addr value) := by
  unfold ignoreWrite
  with_reducible repeat' first
      | assumption | apply within_recordRefusal

theorem within_State_modHbmc (bDies : S .dies) (s : State) (d : Nat) (k : Nat) (f : Hbmc → Hbmc) (h_s : Within S z s)
    : Within S z (State.modHbmc s d k f) := by
  unfold State.modHbmc
  with_reducible repeat' first
      | assumption | apply within_State_modDie

theorem within_setBurstKey (bBurstKey : S .burstKey) (s : State) (b : Nat) (k : Nat) (h_s : Within S z s) : Within S z
    (setBurstKey s b k) := by
  unfold setBurstKey
  with_reducible repeat' first
      | intro _ | assumption | exact .inl rfl | exact .inr (by assumption) | exact formed_refl _
      | exact fusesKept_refl _ | (simp only [within_mk]; apply within_upd rfl)

theorem within_loseBursts (bBurstKey : S .burstKey) (bHbmStale : S .hbmStale) (s : State) (lo : Nat) (hi : Nat) (h_s :
    Within S z s) : Within S z (loseBursts s lo hi) := by
  unfold loseBursts
  with_reducible repeat' first
      | intro _ | assumption | exact .inl rfl | exact .inr (by assumption) | exact formed_refl _
      | exact fusesKept_refl _ | (simp only [within_mk]; apply within_upd rfl)

theorem within_drawKey (bSealU : S .sealU) (s : State) (h_s : Within S z s) : Within S z (drawKey s).2 := by
  unfold drawKey
  with_reducible repeat' first
      | intro _ | assumption | exact .inl rfl | exact .inr (by assumption) | exact formed_refl _
      | exact fusesKept_refl _ | (simp only [within_mk]; apply within_upd rfl)

theorem within_freshBurst (bHbmErr : S .hbmErr) (s : State) (d : Nat) (h_s : Within S z s) : Within S z (freshBurst s
    d) := by
  unfold freshBurst
  with_reducible repeat' first
      | intro _ | assumption | exact .inl rfl | exact .inr (by assumption) | exact formed_refl _
      | exact fusesKept_refl _ | (simp only [within_mk]; apply within_upd rfl)

theorem within_queueRepair (bPages : S .pages) (bDies : S .dies) (bCrier : S .crier) (bFlash : S .flash) (s : State)
    (d : Nat) (hard : Bool) (h_s : Within S z s) : Within S z (queueRepair s d hard) := by
  unfold queueRepair
  with_reducible repeat' first
      | intro _ | assumption | exact .inl rfl | exact .inr (by assumption) | exact formed_refl _
      | exact fusesKept_refl _ | apply within_State_modHbmc | apply within_setEvent | apply within_State_count
      | apply within_ite | apply within_ite_fst | (simp only [within_mk]; apply within_upd rfl)

theorem within_correctUnit (bSoftBad : S .softBad) (bPages : S .pages) (bDies : S .dies) (bCrier : S .crier) (bFlash :
    S .flash) (s : State) (u : Nat) (h_s : Within S z s) : Within S z (correctUnit s u) := by
  unfold correctUnit
  with_reducible repeat' first
      | intro _ | assumption | exact .inl rfl | exact .inr (by assumption) | exact formed_refl _
      | exact fusesKept_refl _ | apply within_queueRepair | apply within_State_modHbmc | apply within_setEvent
      | apply within_State_count | apply within_ite | (simp only [within_mk]; apply within_upd rfl) | split

theorem within_correctSpan (bSoftBad : S .softBad) (bPages : S .pages) (bDies : S .dies) (bCrier : S .crier) (bFlash :
    S .flash) (s : State) (a : Nat) (n : Nat) (h_s : Within S z s) : Within S z (correctSpan s a n) := by
  unfold correctSpan
  with_reducible repeat' first
      | intro _ | assumption | apply within_correctUnit | apply within_ite | apply within_foldl

theorem within_slabTraffic (bPages : S .pages) (s : State) (a : Nat) (n : Nat) (write : Bool) (vertical : Bool) (h_s :
    Within S z s) : Within S z (slabTraffic s a n write vertical) := by
  unfold slabTraffic
  with_reducible repeat' first
      | assumption | apply within_State_count | apply within_ite

theorem within_readSpans (bSoftBad : S .softBad) (bPages : S .pages) (bDies : S .dies) (bCrier : S .crier) (bFlash : S
    .flash) (s : State) (vertical : Bool) (spans : List (Nat × Nat)) (h_s : Within S z s) : Within S z (readSpans s
    vertical spans) := by
  unfold readSpans
  with_reducible repeat' first
      | intro _ | assumption | apply within_slabTraffic | apply within_correctSpan | apply within_foldl
      | apply within_foldl_fst

theorem within_noteBad (bPages : S .pages) (bDies : S .dies) (bCrier : S .crier) (bFlash : S .flash) (s : State) (u :
    Nat) (h_s : Within S z s) : Within S z (noteBad s u) := by
  unfold noteBad
  with_reducible repeat' first
      | assumption | apply within_queueRepair | apply within_setEvent | apply within_State_count | apply within_ite

theorem within_noteOthers (bPages : S .pages) (bDies : S .dies) (bCrier : S .crier) (bFlash : S .flash) (s : State)
    (spans : List (Nat × Nat)) (u : Nat) (h_s : Within S z s) : Within S z (noteOthers s spans u) := by
  unfold noteOthers
  with_reducible repeat' first
      | intro _ | assumption | apply within_noteBad | apply within_ite | apply within_ite_fst | apply within_foldl
      | apply within_foldl_fst

theorem within_raiseBad (bPages : S .pages) (bDies : S .dies) (bCrier : S .crier) (bFlash : S .flash) (s : State) (p :
    Nat) (x : Option Nat) (cmdId : Nat) (u : Nat) (tile : optParam (Nat × Nat) (0, 0)) (h_s : Within S z s) : Within S
    z (raiseBad s p x cmdId u tile) := by
  unfold raiseBad
  with_reducible repeat' first
      | assumption | apply within_noteBad | apply within_raiseTrap | apply within_ite | apply within_ite_fst

theorem within_raiseBadIn (bPages : S .pages) (bDies : S .dies) (bCrier : S .crier) (bFlash : S .flash) (s : State) (p
    : Nat) (x : Option Nat) (cmdId : Nat) (u : Nat) (spans : List (Nat × Nat)) (tile : optParam (Nat × Nat) (0, 0))
    (h_s : Within S z s) : Within S z (raiseBadIn s p x cmdId u spans tile) := by
  unfold raiseBadIn
  with_reducible repeat' first
      | assumption | apply within_raiseBad | apply within_noteOthers

theorem within_storePiece (bMem : S .mem) (bBad : S .bad) (bSoftBad : S .softBad) (bHbmErr : S .hbmErr) (bBurstKey : S
    .burstKey) (bPages : S .pages) (bDies : S .dies) (bCrier : S .crier) (bFlash : S .flash) (s : State) (a : Nat) (bs
    : List Byte) (h_s : Within S z s) : Within S z (storePiece s a bs).1 := by
  unfold storePiece
  with_reducible repeat' first
      | intro _ | assumption | exact .inl rfl | exact .inr (by assumption) | exact formed_refl _
      | exact fusesKept_refl _ | apply within_correctUnit | apply within_freshBurst | apply within_setBurstKey
      | apply within_memWrite | apply within_ite | apply within_ite_fst
      | (simp only [within_mk]; apply within_upd rfl) | split | dsimp only

theorem within_joinBad (bPages : S .pages) (bDies : S .dies) (bCrier : S .crier) (bFlash : S .flash) (s : State)
    (first : Option Nat) (u : Option Nat) (h_s : Within S z s) : Within S z (joinBad s first u).1 := by
  unfold joinBad
  with_reducible repeat' first
      | assumption | apply within_noteBad | apply within_ite | apply within_ite_fst | split

theorem within_storeUnits (bMem : S .mem) (bBad : S .bad) (bSoftBad : S .softBad) (bHbmErr : S .hbmErr) (bBurstKey : S
    .burstKey) (bPages : S .pages) (bDies : S .dies) (bCrier : S .crier) (bFlash : S .flash) (s : State) (a : Nat) (bs
    : List Byte) (h_s : Within S z s) : Within S z (storeUnits s a bs).1 := by
  unfold storeUnits
  with_reducible repeat' first
      | intro _ | assumption | apply within_joinBad | apply within_storePiece | apply within_memWrite
      | apply within_ite | apply within_ite_fst | apply within_foldl | apply within_foldl_fst

theorem within_memStore (bMem : S .mem) (bBad : S .bad) (bSoftBad : S .softBad) (bHbmErr : S .hbmErr) (bBurstKey : S
    .burstKey) (bPages : S .pages) (bDies : S .dies) (bCrier : S .crier) (bFlash : S .flash) (s : State) (a : Nat) (bs
    : List Byte) (h_s : Within S z s) : Within S z (memStore s a bs).1 := by
  unfold memStore
  with_reducible repeat' first
      | intro _ | assumption | apply within_storeUnits | apply within_joinBad | apply within_refuseAccess
      | apply within_capture | apply within_ite | apply within_ite_fst | apply within_foldl | apply within_foldl_fst
      | split | dsimp only

theorem within_gateStores (bMem : S .mem) (bBad : S .bad) (bSoftBad : S .softBad) (bHbmErr : S .hbmErr) (bBurstKey : S
    .burstKey) (bPages : S .pages) (bDies : S .dies) (bCrier : S .crier) (bFlash : S .flash) (s : State) (ws : List
    (Nat × List Byte)) (h_s : Within S z s) : Within S z (gateStores s ws).1 := by
  unfold gateStores
  with_reducible repeat' first
      | intro _ | assumption | apply within_storeUnits | apply within_joinBad | apply within_foldl
      | apply within_foldl_fst

theorem within_memStores (bMem : S .mem) (bBad : S .bad) (bSoftBad : S .softBad) (bHbmErr : S .hbmErr) (bBurstKey : S
    .burstKey) (bPages : S .pages) (bDies : S .dies) (bCrier : S .crier) (bFlash : S .flash) (s : State) (vertical :
    Bool) (ws : List (Nat × List Byte)) (h_s : Within S z s) : Within S z (memStores s vertical ws).1 := by
  unfold memStores
  with_reducible repeat' first
      | intro _ | assumption | apply within_memStore | apply within_joinBad | apply within_slabTraffic
      | apply within_foldl | apply within_foldl_fst

theorem within_setTags (bTags : S .tags) (s : State) (tag : Nat) (ws : List (Nat × List Byte)) (h_s : Within S z s) :
    Within S z (setTags s tag ws) := by
  unfold setTags
  with_reducible repeat' first
      | intro _ | assumption | exact .inl rfl | exact .inr (by assumption) | exact formed_refl _
      | exact fusesKept_refl _ | apply within_ite | apply within_ite_fst | apply within_foldl
      | apply within_foldl_fst | (simp only [within_mk]; apply within_upd rfl)

theorem within_memStoresBy (bMem : S .mem) (bBad : S .bad) (bSoftBad : S .softBad) (bHbmErr : S .hbmErr) (bBurstKey :
    S .burstKey) (bTags : S .tags) (bPages : S .pages) (bDies : S .dies) (bCrier : S .crier) (bFlash : S .flash) (s :
    State) (tag : Nat) (own : Option Nat) (ws : List (Nat × List Byte)) (h_s : Within S z s) : Within S z (memStoresBy
    s tag own ws).1 := by
  unfold memStoresBy
  with_reducible repeat' first
      | assumption | apply within_setTags | apply within_memStores | apply within_joinBad

theorem within_writeEntry (bMem : S .mem) (bBad : S .bad) (bSoftBad : S .softBad) (bHbmErr : S .hbmErr) (bBurstKey : S
    .burstKey) (bPages : S .pages) (bDies : S .dies) (bCrier : S .crier) (bFlash : S .flash) (s : State) (g : Nat) (r
    : CmdRec) (bs : List Byte) (h_s : Within S z s) : Within S z (writeEntry s g r bs) := by
  unfold writeEntry
  with_reducible repeat' first
      | assumption | apply within_memStores | apply within_ite | apply within_ite_fst

theorem within_completeCmd (bMem : S .mem) (bBad : S .bad) (bSoftBad : S .softBad) (bHbmErr : S .hbmErr) (bBurstKey :
    S .burstKey) (bPages : S .pages) (bCores : S .cores) (bDies : S .dies) (bSched : S .sched) (bParts : S .parts)
    (bCrier : S .crier) (bFlash : S .flash) (s : State) (g : Nat) (q : Option QueueId) (r : CmdRec) (c : Completion)
    (h_s : Within S z s) : Within S z (completeCmd s g q r c) := by
  unfold completeCmd
  with_reducible repeat' first
      | assumption | apply within_writeEntry | apply within_advanceHeads | apply within_failStep
      | apply within_State_count | apply within_State_modRing | apply within_State_modDie
      | apply within_State_modCore | apply within_ite | apply within_ite_fst | split

theorem within_refuseCmd (bMem : S .mem) (bBad : S .bad) (bSoftBad : S .softBad) (bHbmErr : S .hbmErr) (bBurstKey : S
    .burstKey) (bPages : S .pages) (bCores : S .cores) (bDies : S .dies) (bSched : S .sched) (bParts : S .parts)
    (bCrier : S .crier) (bFlash : S .flash) (s : State) (g : Nat) (q : Option QueueId) (r : CmdRec) (reason : Nat)
    (pointer : Nat) (h_s : Within S z s) : Within S z (refuseCmd s g q r reason pointer) := by
  unfold refuseCmd
  with_reducible repeat' first
      | assumption | apply within_completeCmd | apply within_raiseTrap | apply within_ite | apply within_ite_fst

theorem within_raiseAccum (bPages : S .pages) (bCrier : S .crier) (s : State) (w : Who) (r : CmdRec) (t : TrapInfo)
    (h_s : Within S z s) : Within S z (raiseAccum s w r t) := by
  unfold raiseAccum
  with_reducible repeat' first
      | assumption | apply within_raiseTrap

theorem within_addDeposits (bPages : S .pages) (bCores : S .cores) (bCrier : S .crier) (s : State) (w : Who) (r :
    CmdRec) (side : Bool) (tile : Nat × Nat) (n : Nat) (h_s : Within S z s) : Within S z (addDeposits s w r side tile
    n) := by
  unfold addDeposits
  with_reducible repeat' first
      | assumption | apply within_raiseAccum | apply within_State_modCore | apply within_ite | apply within_ite_fst

theorem within_noteNans (bPages : S .pages) (bCrier : S .crier) (s : State) (w : Who) (r : CmdRec) (side : Bool)
    (already : Bool) (l : List NanAt) (h_s : Within S z s) : Within S z (noteNans s w r side already l) := by
  unfold noteNans
  with_reducible repeat' first
      | assumption | apply within_raiseAccum | apply within_State_count | apply within_ite | split

theorem within_noteNansBoth (bPages : S .pages) (bCrier : S .crier) (s : State) (w : Who) (r : CmdRec) (side : Bool)
    (already : Bool) (own : List NanAt) (other : List NanAt) (h_s : Within S z s) : Within S z (noteNansBoth s w r
    side already own other) := by
  unfold noteNansBoth
  with_reducible repeat' first
      | assumption | apply within_noteNans | apply within_ite | split

theorem within_noteOverflows (bPages : S .pages) (bCrier : S .crier) (s : State) (w : Who) (r : CmdRec) (side : Bool)
    (already : Bool) (tile : Nat × Nat) (l : List (Nat × Nat)) (h_s : Within S z s) : Within S z (noteOverflows s w r
    side already tile l) := by
  unfold noteOverflows
  with_reducible repeat' first
      | assumption | apply within_raiseAccum | apply within_State_count | apply within_ite | apply within_ite_fst
      | split

theorem within_sendFlit (bOut : S .out) (bPages : S .pages) (bLinks : S .links) (s : State) (h : Nat) (c : Nat) (vc :
    Nat) (h_s : Within S z s) : Within S z (sendFlit s h c vc) := by
  unfold sendFlit
  with_reducible repeat' first
      | intro _ | assumption | apply within_State_count | apply within_State_emit | apply within_State_setPeer
      | apply within_State_setHalf | apply within_ite | split | dsimp only

theorem within_pumpFlits (bOut : S .out) (bPages : S .pages) (bLinks : S .links) (h : Nat) (a : Nat) (z2 : State)
    (h_z2 : Within S z z2) : Within S z (pumpFlits h a z2) := by
  induction a generalizing z2 with
  | zero =>
    unfold pumpFlits
    with_reducible repeat' first
        | assumption | apply within_sendFlit | apply within_State_modHalf | split
  | succ n ih =>
    unfold pumpFlits
    with_reducible repeat' first
        | assumption | apply ih | apply within_sendFlit | apply within_State_modHalf | split

theorem within_pumpPort (bOut : S .out) (bPages : S .pages) (bLinks : S .links) (s : State) (h : Nat) (h_s : Within S
    z s) : Within S z (pumpPort s h) := by
  unfold pumpPort
  with_reducible repeat' first
      | assumption | apply within_pumpFlits

theorem within_pumpCtx (bOut : S .out) (bPages : S .pages) (bLinks : S .links) (s : State) (c : Nat) (h_s : Within S z
    s) : Within S z (pumpCtx s c) := by
  unfold pumpCtx
  with_reducible repeat' first
      | intro _ | assumption | apply within_pumpPort | apply within_ite | split | dsimp only

theorem within_pumpAll (bOut : S .out) (bPages : S .pages) (bLinks : S .links) (s : State) (h_s : Within S z s) :
    Within S z (pumpAll s) := by
  unfold pumpAll
  with_reducible repeat' first
      | intro _ | assumption | apply within_pumpPort | apply within_ite | apply within_foldl | split | dsimp only

theorem within_sendCtl (bOut : S .out) (bPages : S .pages) (bLinks : S .links) (s : State) (c : Nat) (f : CtlFlit)
    (h_s : Within S z s) : Within S z (sendCtl s c f) := by
  unfold sendCtl
  with_reducible repeat' first
      | assumption | apply within_pumpCtx | apply within_State_modPeer

theorem within_takeFlits (bOut : S .out) (bPages : S .pages) (bLinks : S .links) (s : State) (h : Nat) (p : Peer) (vc
    : Nat) (n : Nat) (h_s : Within S z s) : Within S z (takeFlits s h p vc n) := by
  unfold takeFlits
  with_reducible repeat' first
      | assumption | apply within_State_count | apply within_State_emit | apply within_State_modHalf
      | apply within_ite

theorem within_sendMsg (bOut : S .out) (bPages : S .pages) (bLinks : S .links) (s : State) (c : Nat) (m : OutMsg) (key
    : Nat) (wt : Waiter) (h_s : Within S z s) : ∀ t, (sendMsg s c m key wt) = some t → Within S z t := by
  intro t h
  simp only [sendMsg] at h
  split at h
  · cases h
    with_reducible repeat' first
      | assumption | apply within_pumpCtx | apply within_State_setPeer
  · cases h

theorem within_sendGetD (bOut : S .out) (bPages : S .pages) (bLinks : S .links) (s0 s : State) (c : Nat) (m : OutMsg) (n : Nat) (w :
    Waiter) (h0 : Within S z s0) (h : Within S z s) : Within S z ((sendMsg s0 c m n w).getD s) := by
  cases e : sendMsg s0 c m n w with
  | none => exact h
  | some t => exact within_sendMsg (by assumption) (by assumption) (by assumption) _ _ _ _ _ h0 t e

theorem within_timeoutTrap (bPages : S .pages) (bCrier : S .crier) (s : State) (w : Who) (cmdId : Nat) (peer : Option
    Nat) (h_s : Within S z s) : Within S z (timeoutTrap s w cmdId peer) := by
  unfold timeoutTrap
  with_reducible repeat' first
      | intro _ | assumption | apply within_raiseTrap | apply within_elim

theorem within_lostTrap (bPages : S .pages) (bCrier : S .crier) (s : State) (w : Who) (cmdId : Nat) (as : List Nat)
    (h_s : Within S z s) : Within S z (lostTrap s w cmdId as) := by
  unfold lostTrap
  with_reducible repeat' first
      | intro _ | assumption | apply within_timeoutTrap | apply within_ite | apply within_ite_fst | split
      | dsimp only

theorem within_sendAll (bOut : S .out) (bPages : S .pages) (bLinks : S .links) (c : Nat) (wt : Waiter) (ms : List
    (OutMsg × Nat)) (s : State) (h_s : Within S z s) : Within S z (sendAll c wt ms s).1 := by
  unfold sendAll
  with_reducible repeat' first
      | intro _ | assumption
      | (refine within_sendMsg (by assumption) (by assumption) (by assumption) _ _ _ _ _ ?_ _ (by assumption))
      | apply within_ite | apply within_ite_fst | apply within_foldl | apply within_foldl_fst | split

theorem within_sendWrites (bOut : S .out) (bPages : S .pages) (bLinks : S .links) (s : State) (w : Who) (wt : Waiter)
    (runs : List (Nat × List Byte)) (h_s : Within S z s) : Within S z (sendWrites s w wt runs).1 := by
  unfold sendWrites
  with_reducible repeat' first
      | intro _ | assumption | apply within_sendAll | apply within_foldl | apply within_foldl_fst | split

theorem within_sendReads (bOut : S .out) (bPages : S .pages) (bLinks : S .links) (s : State) (w : Who) (wt : Waiter)
    (spans : List (Nat × Nat × Nat)) (h_s : Within S z s) : Within S z (sendReads s w wt spans).1 := by
  unfold sendReads
  with_reducible repeat' first
      | intro _ | assumption | apply within_sendAll | apply within_foldl | apply within_foldl_fst | split

theorem within_schedBad (bPages : S .pages) (bCrier : S .crier) (s : State) (u : Nat) (h_s : Within S z s) : Within S
    z (schedBad s u) := by
  unfold schedBad
  with_reducible repeat' first
      | assumption | apply within_raiseTrap

theorem within_evalRecord (bSched : S .sched) (key : Nat) (n : Nat) (s : State) (k : Nat) (h_s : Within S z s) :
    Within S z (evalRecord key n s k) := by
  unfold evalRecord
  with_reducible repeat' first
      | intro _ | assumption | exact .inl rfl | exact .inr (by assumption) | exact formed_refl _
      | exact fusesKept_refl _ | apply within_ite | (simp only [within_mk]; apply within_upd rfl)

theorem within_evalSchedule (bSoftBad : S .softBad) (bPages : S .pages) (bDies : S .dies) (bSched : S .sched) (bCrier
    : S .crier) (bFlash : S .flash) (s : State) (h_s : Within S z s) : Within S z (evalSchedule s) := by
  unfold evalSchedule
  with_reducible repeat' first
      | intro _ | assumption | apply within_evalRecord | apply within_schedBad | apply within_correctSpan
      | apply within_ite | apply within_foldl | split

theorem within_recordHard (bFlash : S .flash) (s : State) (row : Nat) (h_s : Within S z s) : Within S z (recordHard s
    row) := by
  unfold recordHard
  with_reducible repeat' first
      | intro _ | assumption | exact .inl rfl | exact .inr (by assumption) | exact formed_refl _
      | exact fusesKept_refl _ | (simp only [within_mk]; apply within_upd rfl)

theorem within_readRow (bSoftBad : S .softBad) (bPages : S .pages) (bDies : S .dies) (bCrier : S .crier) (bFlash : S
    .flash) (d : Nat) (k : Nat) (s : State) (row : Nat) (h_s : Within S z s) : Within S z (readRow d k s row) := by
  unfold readRow
  with_reducible repeat' first
      | intro _ | assumption | apply within_correctUnit | apply within_setEvent | apply within_State_count
      | apply within_ite | apply within_ite_fst | apply within_foldl | apply within_foldl_fst

theorem within_softRepair (bSoftBad : S .softBad) (bHbmErr : S .hbmErr) (bPages : S .pages) (bDies : S .dies) (bCrier
    : S .crier) (bFlash : S .flash) (d : Nat) (k : Nat) (s0 : State) (row : Nat) (h_s0 : Within S z s0) : Within S z
    (softRepair d k s0 row) := by
  unfold softRepair
  with_reducible repeat' first
      | intro _ | assumption | exact .inl rfl | exact .inr (by assumption) | exact formed_refl _
      | exact fusesKept_refl _ | apply within_readRow | apply within_recordHard | apply within_State_modHbmc
      | apply within_State_count | apply within_ite | apply within_ite_fst
      | (simp only [within_mk]; apply within_upd rfl) | split | dsimp only

theorem within_startRetrain (bDies : S .dies) (s : State) (d : Nat) (k : Nat) (h_s : Within S z s) : Within S z
    (startRetrain s d k) := by
  unfold startRetrain
  with_reducible repeat' first
      | assumption | apply within_State_modHbmc | apply within_ite | apply within_ite_fst | split

theorem within_openMaintenance (bSoftBad : S .softBad) (bHbmErr : S .hbmErr) (bPages : S .pages) (bDies : S .dies)
    (bCrier : S .crier) (bFlash : S .flash) (s : State) (d : Nat) (k : Nat) (h_s : Within S z s) : Within S z
    (openMaintenance s d k) := by
  unfold openMaintenance
  with_reducible repeat' first
      | intro _ | assumption | apply within_startRetrain | apply within_softRepair | apply within_ite
      | apply within_ite_fst | apply within_foldl | apply within_foldl_fst

theorem within_execHbmRetrainTrigger (bPages : S .pages) (bDies : S .dies) (bCrier : S .crier) (die : Nat) (ctl : Nat)
    (channel : Nat) (s : State) (h_s : Within S z s) : ∀ t, (execHbmRetrainTrigger die ctl channel s) = .next t →
    Within S z t := by
  intro t h
  unfold execHbmRetrainTrigger at h
  cases h
  with_reducible repeat' first
      | intro _ | assumption | apply within_startRetrain | apply within_State_modHbmc | apply within_setEvent
      | apply within_State_count | apply within_ite | apply within_ite_fst | split | dsimp only

theorem within_failChannel (bPages : S .pages) (bDies : S .dies) (bCrier : S .crier) (s : State) (d : Nat) (k : Nat)
    (c : Nat) (h_s : Within S z s) : Within S z (failChannel s d k c) := by
  unfold failChannel
  with_reducible repeat' first
      | assumption | apply within_State_modHbmc | apply within_setEvent | apply within_State_setReg

theorem within_execHbmRetrainEnd (bPages : S .pages) (bDies : S .dies) (bCrier : S .crier) (die : Nat) (ctl : Nat)
    (inTime : Bool) (pins0 : List Nat) (pins1 : List Nat) (s : State) (h_s : Within S z s) : ∀ t, (execHbmRetrainEnd
    die ctl inTime pins0 pins1 s) = .next t → Within S z t := by
  intro t h
  unfold execHbmRetrainEnd at h
  cases h
  with_reducible repeat' first
      | intro _ | assumption | apply within_failChannel | apply within_startRetrain | apply within_State_modHbmc
      | apply within_State_count | apply within_ite | apply within_ite_fst | split | dsimp only

theorem within_execRetrainDue (bPages : S .pages) (bCrier : S .crier) (die : Nat) (ctl : Nat) (channel : Nat) (s :
    State) (h_s : Within S z s) : ∀ t, (execRetrainDue die ctl channel s) = .next t → Within S z t := by
  intro t h
  unfold execRetrainDue at h
  cases h
  with_reducible repeat' first
      | assumption | apply within_setEvent | apply within_ite

end Sys2Proof.Machine
end

