-- ==== Sys2Proof/Laws/Pages.lean ====
section
/-! SUPPORT. Laws of the pages' shared operations: register words, counters, events, captures, traps, and control accesses. -/

-- One declaration at a time: the check of the package as one text bounds memory, which a thread a proof would pass.
set_option Elab.async false

namespace Sys2Proof.Machine

variable (s : State)

/-! ### Register words -/

theorem xor_xor_same (a b : Word) : a ^^^ b ^^^ b = a := by
  rw [BitVec.xor_assoc, BitVec.xor_self, BitVec.xor_zero]

theorem State.reg_setReg_same (pn off : Nat) (w : Word) : (s.setReg pn off w).reg pn off = w := by
  simp only [State.reg, State.setReg, State.page_modPage, mget_mset_same]
  exact xor_xor_same _ _

theorem State.reg_setReg_ne (pn off k : Nat) (w : Word) (h : k ≠ off) : (s.setReg pn off w).reg pn k = s.reg pn k := by
  simp only [State.reg, State.setReg, State.page_modPage]
  rw [mget_mset_ne _ _ _ h]

theorem State.page_setReg_ne (pn off k : Nat) (w : Word) (h : k ≠ pn) : (s.setReg pn off w).page k = s.page k :=
  State.page_modPage_ne _ _ _ _ h

theorem State.reg_of_page {s t : State} {pn : Nat} (h : (t.page pn).regs = (s.page pn).regs) (off : Nat) :
    t.reg pn off = s.reg pn off := by simp only [State.reg, h]

/-! ### Counters -/

theorem State.counter_count_same (pn k n : Nat) : (s.count pn k n).counter pn k = s.counter pn k + BitVec.ofNat 64 n := by
  simp only [State.counter, State.count, State.page_modPage, mget_mset_same]

theorem State.counter_count_ne (pn k j n : Nat) (h : j ≠ k) : (s.count pn k n).counter pn j = s.counter pn j := by
  simp only [State.counter, State.count, State.page_modPage]
  rw [mget_mset_ne _ _ _ h]

theorem State.page_count_ne (pn k n j : Nat) (h : j ≠ pn) : (s.count pn k n).page j = s.page j :=
  State.page_modPage_ne _ _ _ _ h

theorem State.counter_count_page (pn k n j i : Nat) (h : j ≠ pn) : (s.count pn k n).counter j i = s.counter j i := by
  simp only [State.counter, State.page_count_ne s pn k n j h]

@[simp] theorem State.reg_count (pn k n j off : Nat) : (s.count pn k n).reg j off = s.reg j off := by
  by_cases h : j = pn
  · subst h; simp only [State.reg, State.count, State.page_modPage]
  · simp only [State.reg, State.page_count_ne s pn k n j h]

@[simp] theorem State.evtStatus_count (pn k n j : Nat) : ((s.count pn k n).page j).evtStatus = (s.page j).evtStatus := by
  by_cases h : j = pn
  · subst h; simp only [State.count, State.page_modPage]
  · simp only [State.page_count_ne s pn k n j h]

@[simp] theorem State.capture_count (pn k n j : Nat) : ((s.count pn k n).page j).capture = (s.page j).capture := by
  by_cases h : j = pn
  · subst h; simp only [State.count, State.page_modPage]
  · simp only [State.page_count_ne s pn k n j h]

/-! ### Events and captures (R530–R532) -/

@[simp] theorem queueEvent_pages (pn : Nat) : (queueEvent s pn).pages = s.pages := rfl
@[simp] theorem queueEvent_page (pn k : Nat) : (queueEvent s pn).page k = s.page k := rfl

theorem queueEvent_eq (pn : Nat) : queueEvent s pn = { s with crier := (queueEvent s pn).crier } := rfl

/-- A set event changes its page's status bit and the crier's event queues, nothing else. -/
theorem setEvent_eq (pn b : Nat) :
    setEvent s pn b = { s with pages := (setEvent s pn b).pages, crier := (setEvent s pn b).crier } := by
  unfold setEvent
  dsimp only
  split <;> rfl

theorem setEvent_page (pn b : Nat) :
    (setEvent s pn b).page pn = { s.page pn with evtStatus := (s.page pn).evtStatus ||| BitVec.ofNat 32 (2 ^ b) } := by
  unfold setEvent
  dsimp only
  split
  · rw [queueEvent_page, State.page_setPage]
  · rw [State.page_setPage]

theorem setEvent_page_ne (pn b k : Nat) (h : k ≠ pn) : (setEvent s pn b).page k = s.page k := by
  unfold setEvent
  dsimp only
  split
  · rw [queueEvent_page, State.page_setPage_ne _ _ _ _ h]
  · rw [State.page_setPage_ne _ _ _ _ h]

@[simp] theorem setEvent_counter (pn b j k : Nat) : (setEvent s pn b).counter j k = s.counter j k := by
  by_cases h : j = pn
  · subst h; simp only [State.counter, setEvent_page]
  · simp only [State.counter, setEvent_page_ne s pn b j h]

@[simp] theorem setEvent_reg (pn b j k : Nat) : (setEvent s pn b).reg j k = s.reg j k := by
  by_cases h : j = pn
  · subst h; simp only [State.reg, setEvent_page]
  · simp only [State.reg, setEvent_page_ne s pn b j h]

@[simp] theorem setEvent_capture (pn b j : Nat) : ((setEvent s pn b).page j).capture = (s.page j).capture := by
  by_cases h : j = pn
  · subst h; simp only [setEvent_page]
  · simp only [setEvent_page_ne s pn b j h]

theorem capture_eq (pn r : Nat) : capture s pn r = { s with pages := (capture s pn r).pages } := rfl

theorem capture_page (pn r : Nat) :
    (capture s pn r).page pn = { s.page pn with capture := some ((s.page pn).capture.getD (BitVec.ofNat 512 r)) } :=
  State.page_modPage _ _ _

theorem capture_page_ne (pn r k : Nat) (h : k ≠ pn) : (capture s pn r).page k = s.page k := State.page_modPage_ne _ _ _ _ h

theorem ignoreWrite_page (reason init addr v : Nat) :
    (ignoreWrite s reason init addr v).page (addr / 0x1000) =
      { s.page (addr / 0x1000) with capture := some ((s.page (addr / 0x1000)).capture.getD
          (BitVec.ofNat 512 (accessRecord s reason init true (addr / 0x1000 * 0x1000 + addr % 0x1000) v))) } :=
  capture_page _ _ _

theorem ignoreWrite_page_ne (reason init addr v k : Nat) (h : k ≠ addr / 0x1000) :
    (ignoreWrite s reason init addr v).page k = s.page k := capture_page_ne _ _ _ _ h

/-- A trap changes the capture of its page, the counter of the core that is its source, and the crier's pending traps. -/
theorem raiseTrap_eq (pn : Nat) (t : TrapInfo) :
    raiseTrap s pn t = { s with pages := (raiseTrap s pn t).pages, crier := (raiseTrap s pn t).crier } := by
  unfold raiseTrap
  dsimp only
  split <;> rfl

theorem raiseTrap_crier (pn : Nat) (t : TrapInfo) :
    (raiseTrap s pn t).crier = { s.crier with pending := s.crier.pending ++
      [{ rings := if t.code = trapBellUnlock then [4, 0, 1, 2, 3] else [t.part.getD 4],
         record := BitVec.ofNat 512 (trapRecordBits s pn t) }] } := by
  unfold raiseTrap
  dsimp only
  split <;> rfl

/-! ### Control accesses (R28–R32, R528) -/

theorem disarm_page (pn : Nat) : (disarm s pn).page pn = { s.page pn with keyArmed := none } := State.page_modPage _ _ _

theorem disarm_page_ne (pn k : Nat) (h : k ≠ pn) : (disarm s pn).page k = s.page k := State.page_modPage_ne _ _ _ _ h

theorem disarm_eq (pn : Nat) : disarm s pn = { s with pages := (disarm s pn).pages } := rfl

@[simp] theorem disarm_reg (pn j off : Nat) : (disarm s pn).reg j off = s.reg j off := by
  by_cases h : j = pn
  · subst h; simp only [State.reg, disarm_page]
  · simp only [State.reg, disarm_page_ne s pn j h]

@[simp] theorem disarm_counter (pn j k : Nat) : (disarm s pn).counter j k = s.counter j k := by
  by_cases h : j = pn
  · subst h; simp only [State.counter, disarm_page]
  · simp only [State.counter, disarm_page_ne s pn j h]

/-- A control write that is served goes on at its page with the key disarmed. -/
theorem ctlWrite_served {s : State} {init addr : Nat} (h : Served s init addr true) (v : Nat) (f : State → State) :
    ctlWrite s init addr v false f = f (disarm s (addr / 0x1000)) := by
  obtain ⟨h1, h2, h3⟩ := h
  simp [ctlWrite, arrive, h1, h2, h3]

/-- A refused access leaves the record and the counter of the CRIER page, nothing else. -/
theorem refuseAccess_eq (reason init : Nat) (write : Bool) (addr data : Nat) :
    refuseAccess s reason init write addr data =
      { s with pages := (refuseAccess s reason init write addr data).pages,
               crier := (refuseAccess s reason init write addr data).crier } := by
  unfold refuseAccess
  split
  · simp only [State.count, State.modPage, State.setPage]
    rw [setEvent_eq]
    rfl
  · rfl

end Sys2Proof.Machine
end

