-- ==== Sys2Proof/Laws/Registers.lean ====
section
/-! SUPPORT. Laws of register writes: a write that is served, and what the common words of a page do. -/

-- One declaration at a time: the check of the package as one text bounds memory, which a thread a proof would pass.
set_option Elab.async false

namespace Sys2Proof.Machine

variable (s : State)

/-- A write that is served happens at its page with the key disarmed. -/
theorem regWrite_served {s : State} {init addr : Nat} (h : Served s init addr true) (v : Nat) :
    regWrite s init 4 addr v false =
      writeAt (disarm s (addr / 0x1000)) (s.page (addr / 0x1000)).keyArmed init (addr / 0x1000) (addr % 0x1000) v := by
  obtain ⟨h1, h2, h3⟩ := h
  simp [regWrite, writeNow, arrive, h1, h2, h3]

/-- The address of a word of a page. -/
theorem pageWordAddr_page (page off : Nat) (h : off < 0x1000) : pageWordAddr page off / 0x1000 = page / 0x1000 := by
  unfold pageWordAddr; omega
theorem pageWordAddr_off (page off : Nat) (h : off < 0x1000) : pageWordAddr page off % 0x1000 = off := by
  unfold pageWordAddr; omega

theorem partOfQuad_disarm (pn q : Nat) : partOfQuad (disarm s pn) q = partOfQuad s q := by
  simp [partOfQuad, quadsOf, State.regN]
theorem partOfCore_disarm (pn g : Nat) : partOfCore (disarm s pn) g = partOfCore s g := by
  simp [partOfCore, partOfQuad_disarm]
theorem sealedPage_disarm (pn k : Nat) : sealedPage (disarm s pn) k = sealedPage s k := by
  simp only [sealedPage, pagePart, partOfCore_disarm]
  rfl

theorem ofNat_toNat_word (w : Word) : BitVec.ofNat 32 w.toNat = w := by simp

theorem onlyPage_disarm_modPage (pn : Nat) (f : Page → Page) : OnlyPage pn s ((disarm s pn).modPage pn f) :=
  ⟨changes_of (within_State_modPage at0 _ _ _ (within_disarm at0 _ _ (within_refl _ s))),
    fun k hk => by rw [State.page_modPage_ne _ _ _ _ hk, disarm_page_ne s pn k hk]⟩

theorem onlyPage_disarm (pn : Nat) : OnlyPage pn s (disarm s pn) := 
  ⟨changes_of (within_disarm at0 _ _ (within_refl _ s)), fun k hk => disarm_page_ne s pn k hk⟩

/-- Events set one after another: the page has them all, other pages stay. -/
theorem foldl_setEvent_page (pn : Nat) (l : List Nat) :
    (l.foldl (fun (t : State) b => setEvent t pn b) s).page pn =
      { s.page pn with evtStatus := l.foldl (fun w b => w ||| BitVec.ofNat 32 (2 ^ b)) (s.page pn).evtStatus } := by
  induction l generalizing s with
  | nil => rfl
  | cons b r ih => rw [List.foldl_cons, ih, setEvent_page]; rfl

theorem foldl_setEvent_page_ne (pn k : Nat) (l : List Nat) (h : k ≠ pn) :
    (l.foldl (fun (t : State) b => setEvent t pn b) s).page k = s.page k := by
  induction l generalizing s with
  | nil => rfl
  | cons b r ih => rw [List.foldl_cons, ih, setEvent_page_ne _ _ _ _ h]

theorem within_setEvents {S : Piece → Prop} {z : State} (hp : S .pages) (hc : S .crier) (pn : Nat) (l : List Nat)
    (h : Within S z s) : Within S z (l.foldl (fun (t : State) b => setEvent t pn b) s) :=
  within_foldl _ _ _ (fun _ _ hx => within_setEvent hp hc _ _ _ hx) h

/-- The bits of a word that events were or-ed into. -/
theorem foldl_or_bit (l : List Nat) (w : Word) (k : Nat) (hk : k < 32) :
    (l.foldl (fun w b => w ||| BitVec.ofNat 32 (2 ^ b)) w).getLsbD k = (w.getLsbD k || decide (k ∈ l)) := by
  induction l generalizing w with
  | nil => simp
  | cons b r ih =>
    rw [List.foldl_cons, ih, BitVec.getLsbD_or, BitVec.getLsbD_ofNat]
    simp only [Nat.testBit_two_pow, hk, decide_true, Bool.true_and, List.mem_cons]
    by_cases e : b = k
    · subst e; simp
    · simp [e, show ¬ k = b from fun h => e h.symm]

theorem eventCount_le (ty : Nat) : eventCount ty ≤ 32 := by unfold eventCount; (repeat' split) <;> decide

theorem eventMask_bit (ty k : Nat) (hk : k < 32) : (eventMask ty).getLsbD k = decide (k < eventCount ty) := by
  unfold eventMask
  rw [BitVec.getLsbD_ofNat]
  simp [hk, Nat.testBit_two_pow_sub_one]

theorem forced_bits (ty : Nat) (w v : Word) :
    ((List.range (eventCount ty)).filter v.toNat.testBit).foldl (fun w b => w ||| BitVec.ofNat 32 (2 ^ b)) w =
      w ||| (v &&& eventMask ty) := by
  apply BitVec.eq_of_getLsbD_eq
  intro k hk
  rw [foldl_or_bit _ _ _ hk, BitVec.getLsbD_or, BitVec.getLsbD_and, eventMask_bit _ _ hk]
  congr 1
  simp only [List.mem_filter, List.mem_range, BitVec.getLsbD]
  by_cases h1 : k < eventCount ty <;> cases h2 : v.toNat.testBit k <;> simp [h1]

theorem ite_le {c : Prop} [Decidable c] {a b n : Nat} (h : a ≤ n) (k : b ≤ n) : (if c then a else b) ≤ n := by
  split <;> assumption

/-- A page type has at most sixteen counters (R526). -/
theorem counterCount_le (ty : Nat) : counterCount ty ≤ 16 := by
  unfold counterCount
  repeat' first | apply ite_le | decide

/-! ### Words of the common layout at a page -/

theorem writeAt_key {pn : Nat} {i : PageId} (h : page? pn = some i) (armed : Option Nat) (init v : Nat) :
    writeAt s armed init pn 0x008 v = writeKey s armed init pn v := by simp [writeAt, h, commonWrite?]
theorem writeAt_mode {pn : Nat} {i : PageId} (h : page? pn = some i) (armed : Option Nat) (init v : Nat) :
    writeAt s armed init pn 0x00C v = writeMode s pn v := by simp [writeAt, h, commonWrite?]
theorem writeAt_events {pn : Nat} {i : PageId} (h : page? pn = some i) (armed : Option Nat) (init v : Nat) :
    writeAt s armed init pn 0x020 v = writeEvents s pn v := by simp [writeAt, h, commonWrite?]
theorem writeAt_force {pn : Nat} {i : PageId} (h : page? pn = some i) (armed : Option Nat) (init v : Nat) :
    writeAt s armed init pn 0x028 v = forceEvents s pn i.ty v := by simp [writeAt, h, commonWrite?]
theorem writeAt_shadow {pn : Nat} {i : PageId} (h : page? pn = some i) (armed : Option Nat) (init v : Nat) :
    writeAt s armed init pn 0xF00 v = writeShadow s pn i.ty v := by simp [writeAt, h, commonWrite?]

/-- A served access of the network has a page behind it. -/
theorem page_of_served {s : State} {init addr : Nat} {w : Bool} (h : Served s init addr w) :
    ∃ i, page? (addr / 0x1000) = some i := by
  obtain ⟨-, -, h3⟩ := h
  unfold accessReason at h3
  split at h3
  · cases h3
  · split at h3
    · cases h3
    · next i hi => exact ⟨i, hi⟩

/-- A write to a word of the page at an address, served. -/
theorem regWrite_word {s : State} {init page off : Nat} (ho : off < 0x1000) (h : Served s init (pageWordAddr page off) true)
    (v : Nat) : regWrite s init 4 (pageWordAddr page off) v false =
      writeAt (disarm s (page / 0x1000)) (s.page (page / 0x1000)).keyArmed init (page / 0x1000) off v := by
  rw [regWrite_served h, pageWordAddr_page _ _ ho, pageWordAddr_off _ _ ho]

end Sys2Proof.Machine
end

