-- ==== Sys2Proof/Laws/Stores.lean ====
section
/-! SUPPORT. Laws of stores through the rules of units and control blocks (R372, R410, R461): outside their span they leave
memory as it is, they count nothing in a core's CNT page and raise no trap, and where nothing about the span needs a rule they write it. -/

-- One declaration at a time: the check of the package as one text bounds memory, which a thread a proof would pass.
set_option Elab.async false

namespace Sys2Proof.Machine

/-- From `s` to `t`, memory changes only from `a` on for `n` bytes, no counter of a core's CNT page changes, and no trap is
raised. -/
structure Stored (a n : Nat) (s t : State) : Prop where
  bytes : ∀ k, (k < a ∨ a + n ≤ k) → memByte t k = memByte s k
  count : ∀ g k, t.counter (pnCnt g) k = s.counter (pnCnt g) k
  traps : t.crier.pending = s.crier.pending

variable {a n : Nat} {s t u : State}

theorem Stored.refl : Stored a n s s := ⟨fun _ _ => rfl, fun _ _ => rfl, rfl⟩
theorem Stored.trans (h : Stored a n s t) (k : Stored a n t u) : Stored a n s u :=
  ⟨fun j hj => (k.bytes j hj).trans (h.bytes j hj), fun g j => (k.count g j).trans (h.count g j),
   k.traps.trans h.traps⟩
theorem Stored.mono {b m : Nat} (h : Stored a n s t) (hb : b ≤ a) (hm : a + n ≤ b + m) : Stored b m s t :=
  ⟨fun k hk => h.bytes k (by omega), h.count, h.traps⟩
/-- Parts other than memory and pages are no matter. -/
theorem Stored.of_eq (h : Stored a n s t) (hm : u.mem = t.mem) (hp : u.pages = t.pages)
    (hc : u.crier = t.crier) : Stored a n s u :=
  ⟨fun k hk => (show memByte u k = memByte t k by unfold memByte; rw [hm]).trans (h.bytes k hk),
   fun g k => (show u.counter (pnCnt g) k = t.counter (pnCnt g) k by unfold State.counter State.page; rw [hp]).trans
     (h.count g k), hc ▸ h.traps⟩
theorem Stored.counted (h : Stored a n s t) (pn k m : Nat) (hp : ∀ g, pn ≠ pnCnt g) : Stored a n s (t.count pn k m) :=
  ⟨h.bytes, fun g j => (State.counter_count_page t pn k m (pnCnt g) j fun e => hp g e.symm).trans (h.count g j),
   h.traps⟩
theorem Stored.event (h : Stored a n s t) (pn b : Nat) : Stored a n s (setEvent t pn b) := by
  refine ⟨fun k hk => ?_, fun g j => (setEvent_counter t pn b _ _).trans (h.count g j), ?_⟩
  rotate_left
  · unfold setEvent; dsimp only; split <;> exact h.traps
  have e : (setEvent t pn b).mem = t.mem := (within_setEvent (S := (· ∈ [Piece.pages, .crier])) (z := t) at0 at1 t pn b
    (within_refl _ t)).mem (by decide)
  unfold memByte; rw [e]; exact h.bytes k hk
theorem Stored.captured (h : Stored a n s t) (pn r : Nat) : Stored a n s (capture t pn r) := by
  refine ⟨h.bytes, fun g j => Eq.trans ?_ (h.count g j), h.traps⟩
  unfold State.counter
  by_cases e : pnCnt g = pn
  · rw [e, capture_page]
  · rw [capture_page_ne _ _ _ _ e]

theorem pnHbmc_ne_pnCnt (d k g : Nat) : pnHbmc d (k % 2) ≠ pnCnt g := by unfold pnHbmc pnDie pnCnt pnCore; omega
theorem pnSlab_ne_pnCnt (d g : Nat) : pnSlab d ≠ pnCnt g := by unfold pnSlab pnDie pnCnt pnCore; omega
theorem pnLs_ne_pnCnt (h g : Nat) : pnLs h ≠ pnCnt g := by unfold pnLs pnCnt pnCore; omega
theorem pnPart_ne_pnCnt {p : Nat} (h : p < 4) (g : Nat) : pnPart p ≠ pnCnt g := by
  unfold pnPart pnCnt pnCore; omega

theorem stored_slabTraffic (b m : Nat) (w v : Bool) (h : Stored a n s t) : Stored a n s (slabTraffic t b m w v) := by
  unfold slabTraffic
  split
  · exact (h.counted _ _ _ fun g => pnSlab_ne_pnCnt _ g).counted _ _ _ fun g => pnSlab_ne_pnCnt _ g
  · exact h

theorem stored_queueRepair (d : Nat) (hard : Bool) (h : Stored a n s t) : Stored a n s (queueRepair t d hard) := by
  unfold queueRepair
  extract_lets m die k hb row q s1
  split
  · exact h
  · split
    · have h1 : Stored a n s s1 := by
        unfold s1
        refine Stored.event ?_ _ _
        exact h.of_eq rfl rfl rfl
      split
      · refine Stored.counted ?_ _ _ _ fun g => pnHbmc_ne_pnCnt _ _ g
        exact h1.of_eq rfl rfl rfl
      · exact h1
    · refine Stored.event ?_ _ _
      exact h.of_eq rfl rfl rfl

theorem stored_noteBad (b : Nat) (h : Stored a n s t) : Stored a n s (noteBad t b) := by
  unfold noteBad
  split
  · exact stored_queueRepair _ _ ((h.counted _ _ _ fun g => pnHbmc_ne_pnCnt _ _ g).event _ _)
  · split
    · exact h
    · exact h.counted _ _ _ fun g => pnLs_ne_pnCnt _ g

theorem stored_joinBad (x y : Option Nat) (h : Stored a n s t) : Stored a n s (joinBad t x y).1 := by
  unfold joinBad
  split
  · dsimp only
    split
    · exact h
    · exact stored_noteBad _ h
  · exact h

theorem stored_correctUnit (b : Nat) (h : Stored a n s t) : Stored a n s (correctUnit t b) := by
  have h1 : Stored a n s { t with softBad := t.softBad.erase b } := h.of_eq rfl rfl rfl
  unfold correctUnit
  extract_lets s1 tier d m die k row ces s2 s3 th
  have h3 : Stored a n s s3 := by
    unfold s3
    refine Stored.event (Stored.counted ?_ _ _ _ fun g => pnHbmc_ne_pnCnt _ _ g) _ _
    exact h.of_eq rfl rfl rfl
  split
  · split
    · exact stored_queueRepair _ _ h3
    · exact h3
  · split
    · split
      · next p hp =>
        have := List.mem_range.1 (List.mem_of_find?_eq_some hp)
        exact h1.counted _ _ _ fun g => pnPart_ne_pnCnt this g
      · exact h1
    · exact h1.counted _ _ _ fun g => pnLs_ne_pnCnt _ g

theorem pnCrier_ne_pnCnt (g : Nat) : pnCrier ≠ pnCnt g := by unfold pnCrier pnCnt pnCore; omega

theorem stored_refuseAccess (reason init : Nat) (w : Bool) (addr data : Nat) (h : Stored a n s t) :
    Stored a n s (refuseAccess t reason init w addr data) := by
  unfold refuseAccess
  split
  · exact ((h.captured _ _).event _ _).counted _ _ _ fun g => pnCrier_ne_pnCnt g
  · exact h

/-- A piece outside HBM is written where it lies. -/
theorem stored_storePiece (b : Nat) (bs : List Byte) (hb : tierOf b ≠ 3) (hl : a ≤ b) (hr : b + bs.length ≤ a + n)
    (h : Stored a n s t) : Stored a n s (storePiece t b bs).1 := by
  unfold storePiece
  extract_lets v full s1 s2 c cur s3
  have h1 : Stored a n s s1 := by
    unfold s1
    split
    · exact stored_correctUnit _ h
    · exact h
  have h2 : Stored a n s s2 := by
    unfold s2
    rw [if_neg hb]
    exact h1.of_eq rfl rfl rfl
  split
  · exact h
  · exact ⟨fun k hk => (memByte_memWrite_out _ _ _ _ (by omega)).trans (h2.bytes k hk), h2.count, h2.traps⟩

theorem stored_foldl {β : Type} (f : State × Option Nat → β → State × Option Nat) (l : List β) (x : State × Option Nat)
    (hf : ∀ y, ∀ e ∈ l, Stored a n s y.1 → Stored a n s (f y e).1) (h : Stored a n s x.1) :
    Stored a n s (l.foldl f x).1 := by
  induction l generalizing x with
  | nil => exact h
  | cons e r ih =>
    exact ih _ (fun y d hd => hf y d (List.mem_cons_of_mem _ hd)) (hf _ _ List.mem_cons_self h)

/-- The pieces of a span lie within it. -/
theorem mem_unitPieces {b m : Nat} {e : Nat × Nat} (h : e ∈ unitPieces b m) :
    b ≤ e.1 ∧ e.1 + e.2 ≤ b + m := by
  unfold unitPieces at h
  obtain ⟨k, hk, rfl⟩ := List.mem_map.1 h
  have hk := List.mem_range.1 hk
  dsimp only
  unfold eccUnit at *
  split at hk <;> simp only [*, if_true, if_false] <;> omega

/-- A span lies outside HBM. -/
def OutsideHbm (a n : Nat) : Prop := ∀ k, a ≤ k → k ≤ a + n → tierOf k ≠ 3

theorem stored_storeUnits (b : Nat) (bs : List Byte) (hb : OutsideHbm b bs.length) (hl : a ≤ b)
    (hr : b + bs.length ≤ a + n) (h : Stored a n s t) : Stored a n s (storeUnits t b bs).1 := by
  unfold storeUnits
  split
  · exact ⟨fun k hk => (memByte_memWrite_out _ _ _ _ (by omega)).trans (h.bytes k hk), h.count, h.traps⟩
  · refine stored_foldl _ _ _ (fun y e he hy => stored_joinBad _ _ ?_) h
    obtain ⟨h1, h2⟩ := mem_unitPieces he
    refine stored_storePiece _ _ (hb _ h1 (by omega)) (by omega) ?_ hy
    simp only [List.length_take, List.length_drop]
    omega

theorem mem_lockedBlocks {b m : Nat} {e : Nat × Nat} (h : e ∈ lockedBlocks t b m) : e.1 < 4 := by
  unfold lockedBlocks at h
  obtain ⟨p, hp, h⟩ := List.mem_flatMap.1 h
  obtain ⟨x, -, h⟩ := List.mem_filterMap.1 h
  dsimp only at h
  split at h
  · cases h; exact List.mem_range.1 hp
  · cases h

theorem stored_memStore (b : Nat) (bs : List Byte) (hb : OutsideHbm b bs.length) (hl : a ≤ b)
    (hr : b + bs.length ≤ a + n) (h : Stored a n s t) : Stored a n s (memStore t b bs).1 := by
  unfold memStore
  extract_lets locked shut s1 s2
  have h1 : Stored a n s s1 := by
    unfold s1
    generalize locked = l
    cases l with
    | nil => exact h
    | cons => exact h.captured _ _
  have h2 : Stored a n s s2 := by
    unfold s2
    split
    · exact stored_refuseAccess _ _ _ _ _ h1
    · exact h1
  clear_value locked shut s1 s2
  split
  · exact stored_storeUnits _ _ hb hl hr h
  · refine stored_foldl _ _ _ (fun y e he hy => ?_) h2
    have hk := List.mem_range.1 he
    dsimp only
    split
    · exact hy
    · refine stored_joinBad _ _ (stored_storeUnits _ _ (fun j hj hj' => ?_) ?_ ?_ hy)
      all_goals simp only [List.length_take, List.length_drop, ceilDiv] at *
      · exact hb _ (by omega) (by omega)
      · omega
      · omega

/-- Whether a store is plain rests on no page but for its registers. -/
theorem plainStore_pages {p : SMap Page} (hr : ∀ pn off, ({ t with pages := p } : State).reg pn off = t.reg pn off)
    (h : PlainStore t a n) : PlainStore { t with pages := p } a n := by
  refine ⟨h.1, fun e => ⟨Eq.trans ?_ (h.2 e).1, Eq.trans ?_ (h.2 e).2⟩⟩
  · unfold lockedBlocks ctxPage State.regAddr State.regN
    simp only [hr]
    rfl
  · unfold meetsRelease sealWindows outsideAll hubGrant State.regN
    simp only [hr]
    rfl
theorem plainStore_count (t : State) (pn k m a n : Nat) (h : PlainStore t a n) : PlainStore (t.count pn k m) a n :=
  plainStore_pages (State.reg_count t pn k m) h

/-- Where nothing about the span needs a rule, the bytes are written. -/
theorem memStore_plain (b : Nat) (bs : List Byte) (h : PlainStore t b bs.length) :
    memStore t b bs = (memWrite t b bs, none) := by
  unfold memStore
  have e : (if tierOf b = 2 then lockedBlocks t b bs.length else []) = [] := by
    split
    · next hb => exact (h.2 hb).1
    · rfl
  have m : (tierOf b == 2 && meetsRelease t (bits b 25 0) bs.length) = false := by
    by_cases hb : tierOf b = 2
    · rw [(h.2 hb).2, Bool.and_false]
    · rw [beq_false_of_ne hb, Bool.false_and]
  simp only [e, m]
  unfold storeUnits
  rw [if_pos h.1]
  rfl

end Sys2Proof.Machine
end

