-- ==== Sys2Proof/Laws/Complete.lean ====
section
/-! SUPPORT. Laws of completion (R187, R189): what a completed record leaves in memory, in its ring and in the counters. -/

-- One declaration at a time: the check of the package as one text bounds memory, which a thread a proof would pass.
set_option Elab.async false

namespace Sys2Proof.Machine

variable (s : State)

/-- The parts that a completion changes besides memory. -/
abbrev Completing (p : Piece) : Prop := p ∈ [Piece.cores, .pages, .parts, .sched, .dies]

/-- The completion's store. -/
def entryStore (g : Nat) (r : CmdRec) (c : Completion) : State :=
  match r.recompute with
  | some _ => s
  | none => writeEntry s g r (completionEntry s r c)

theorem completionEntry_length (r : CmdRec) (c : Completion) : (completionEntry s r c).length = 16 := leBytes_length _ _

/-- The entries of a ring's completion area lie outside HBM. -/
theorem outsideHbm_ringArea (g a i l : Nat) (hl : l ≤ 12) (h : ringArea s g a (16 * 2 ^ l) = true) (hi : i < 2 ^ l) :
    OutsideHbm (a + 16 * i) 16 := by
  have hp : 2 ^ l ≤ 2 ^ 12 := Nat.pow_le_pow_right (by decide) hl
  intro k hk1 hk2
  unfold ringArea inHubGrant slabSize hubSize tierOf bits at *
  simp only [Nat.shiftRight_eq_div_pow, Bool.and_eq_true, beq_iff_eq] at *
  obtain ⟨-, h⟩ := h
  split at h
  · simp only [Bool.and_eq_true, beq_iff_eq, decide_eq_true_eq] at h
    omega
  · simp only [Bool.and_eq_true, beq_iff_eq, decide_eq_true_eq] at h
    omega

theorem ringLog2_le (g x : Nat) : ringLog2 s g x ≤ 12 := by unfold ringLog2; dsimp only; split <;> omega

/-- The entry's store changes memory in its own place alone, and no counter of a CNT page. -/
theorem stored_entryStore (g : Nat) (r : CmdRec) (c : Completion) : Stored (cplKey s g r) 16 s (entryStore s g r c) := by
  unfold entryStore cplKey
  split
  · exact Stored.refl
  · unfold writeEntry
    extract_lets n
    split
    · next h =>
      unfold memStores
      simp only [List.foldl_cons, List.foldl_nil]
      refine stored_joinBad _ _ (stored_memStore _ _ ?_ le_rfl ?_ (stored_slabTraffic _ _ _ _ Stored.refl))
      · rw [completionEntry_length]
        exact outsideHbm_ringArea s g _ _ _ (ringLog2_le s g r.ctx) h (Nat.mod_lt _ (Nat.two_pow_pos _))
      · rw [completionEntry_length]
    · exact Stored.refl

/-- The parts that an entry's store may change. -/
theorem within_entryStore (g : Nat) (r : CmdRec) (c : Completion) :
    Within (· ∈ [Piece.mem, .bad, .softBad, .hbmErr, .burstKey, .pages, .dies, .crier, .flash]) s (entryStore s g r c) := by
  have h := within_refl (· ∈ [Piece.mem, .bad, .softBad, .hbmErr, .burstKey, .pages, .dies, .crier, .flash]) s
  unfold entryStore
  split
  · exact h
  · exact within_writeEntry at0 at1 at2 at3 at4 at5 at6 at7 at8 _ _ _ _ h

theorem entryStore_core (g k : Nat) (r : CmdRec) (c : Completion) : (entryStore s g r c).core k = s.core k := by
  unfold State.core; rw [(within_entryStore s g r c).cores (by decide)]

/-- After its store a completion changes no memory. -/
theorem within_completeCmd_store (g : Nat) (q : Option QueueId) (r : CmdRec) (c : Completion) :
    Within Completing (entryStore s g r c) (completeCmd s g q r c) := by
  have h := within_refl Completing (entryStore s g r c)
  have b1 : Completing .cores := at0
  have b2 : Completing .pages := at1
  have b3 : Completing .parts := at2
  have b4 : Completing .sched := at3
  have b5 : Completing .dies := at4
  unfold completeCmd
  extract_lets fails s1 own s2 s3 s4 s5 s6 s7
  have e : s1 = entryStore s g r c := rfl
  have h1 : Within Completing (entryStore s g r c) s1 := e ▸ h
  have h2 : Within Completing (entryStore s g r c) s2 :=
    within_State_modRing b1 _ _ _ _ (within_State_modCore b1 _ _ _ h1)
  have h3 : Within Completing (entryStore s g r c) s3 := by
    cases q with
    | none => exact h2
    | some q => cases q <;> exact within_State_count b2 _ _ _ _ h2
  have h4 : Within Completing (entryStore s g r c) s4 := within_State_count b2 _ _ _ _ h3
  have h5 : Within Completing (entryStore s g r c) s5 := within_ite _ _ _ (within_State_count b2 _ _ _ _ h4) h4
  have h6 : Within Completing (entryStore s g r c) s6 := by
    unfold s6
    split
    · exact within_failStep b4 b3 _ _ _ h5
    · exact h5
  have h7 : Within Completing (entryStore s g r c) s7 := by
    unfold s7
    split
    · exact within_State_modDie b5 _ _ _ h6
    · exact h6
  exact within_advanceHeads b1 _ _ h7

/-- Memory after a completion: the record's entry, where it has a place in its ring. -/
theorem completeCmd_mem (g : Nat) (q : Option QueueId) (r : CmdRec) (c : Completion) :
    (completeCmd s g q r c).mem = (entryStore s g r c).mem :=
  (within_completeCmd_store s g q r c).mem (by decide)

theorem memByte_completeCmd (g : Nat) (q : Option QueueId) (r : CmdRec) (c : Completion) (a : Nat) :
    memByte (completeCmd s g q r c) a = memByte (entryStore s g r c) a := by
  unfold memByte; rw [completeCmd_mem]

/-! ### The ring and the counters -/

theorem Core.ring_setRing (c : Core) (x : Nat) (r : Ring) : (c.setRing x r).ring x = r := mget_mset_same _ _ _ _

theorem State.ring_modRing (g x : Nat) (f : Ring → Ring) : ((s.modRing g x f).core g).ring x = f ((s.core g).ring x) := by
  simp only [State.modRing, State.core_modCore, Core.ring_setRing]

theorem advanceHead_outstanding (c : Core) (x n : Nat) (r : Ring) :
    (advanceHead c x n r).outstanding = r.outstanding := by
  induction n generalizing r with
  | zero => rfl
  | succ n ih =>
    unfold advanceHead
    dsimp only
    split
    · exact ih _
    · rfl

theorem mget_map_val {α : Type} (f : Nat → α → α) (d : α) (m : SMap α) (k : Nat) (h : f k d = d) :
    mget d (m.map fun e => (e.1, f e.1 e.2)) k = f k (mget d m k) := by
  unfold mget
  rw [mget?_map_val]
  cases mget? m k with
  | none => exact h.symm
  | some v => rfl

theorem advanceHeads_outstanding (g x : Nat) :
    (((advanceHeads s g).core g).ring x).outstanding = (((s.core g).ring x)).outstanding := by
  unfold advanceHeads
  rw [State.core_modCore]
  unfold Core.ring
  dsimp only
  rw [mget_map_val (fun k r => advanceHead (s.core g) k r.done.length r) ({} : Ring) _ _ rfl]
  exact advanceHead_outstanding _ _ _ _

/-- What a completion does to a ring of its core before the record leaves it. -/
def Ring.settle (x i : Nat) (fails : Bool) (e : Nat) (r : Ring) : Ring :=
  { r with hold := r.hold.map (CmdRec.settle x i fails e), acting := List.map (CmdRec.settle x i fails e) r.acting }

theorem settleDeps_outstanding (c : Core) (x i k : Nat) (fails : Bool) (e : Nat) :
    ((Core.settleDeps x i fails e c).ring k).outstanding = (c.ring k).outstanding := by
  unfold Core.settleDeps Core.ring
  dsimp only
  exact (congrArg Ring.outstanding (mget_map_val (fun _ r => Ring.settle x i fails e r) ({} : Ring) _ _ rfl)).trans rfl

/-- A completed record is outstanding no longer. -/
theorem completeCmd_outstanding (g : Nat) (q : Option QueueId) (r : CmdRec) (c : Completion) :
    (((completeCmd s g q r c).core g).ring r.ctx).outstanding = ((s.core g).ring r.ctx).outstanding.erase r.idx := by
  unfold completeCmd
  extract_lets fails s1 own s2 s3 s4 s5 s6 s7
  rw [advanceHeads_outstanding]
  have e7 : s7.cores = s2.cores := by
    have h := within_refl (· ∈ [Piece.pages, .parts, .sched, .dies]) s2
    have h3 : Within (· ∈ [Piece.pages, .parts, .sched, .dies]) s2 s3 := by
      cases q with
      | none => exact h
      | some q => cases q <;> exact within_State_count at0 _ _ _ _ h
    have h4 := within_State_count at0 s3 (pnCnt g) 2 1 h3
    have h5 : Within (· ∈ [Piece.pages, .parts, .sched, .dies]) s2 s5 :=
      within_ite _ _ _ (within_State_count at0 _ _ _ _ h4) h4
    have h6 : Within (· ∈ [Piece.pages, .parts, .sched, .dies]) s2 s6 := by
      unfold s6
      split
      · exact within_failStep at2 at1 _ _ _ h5
      · exact h5
    have h7 : Within (· ∈ [Piece.pages, .parts, .sched, .dies]) s2 s7 := by
      unfold s7
      split
      · exact within_State_modDie at3 _ _ _ h6
      · exact h6
    exact h7.cores (by decide)
  have e2 : ((s2.core g).ring r.ctx).outstanding = (((s1.core g).ring r.ctx)).outstanding.erase r.idx := by
    unfold s2
    rw [State.ring_modRing]
    dsimp only
    rw [State.core_modCore, settleDeps_outstanding]
  have e1 : s1.cores = s.cores := (within_entryStore s g r c).cores (by decide)
  rw [show s7.core g = s2.core g by unfold State.core; rw [e7], e2, show s1.core g = s.core g by unfold State.core; rw [e1]]

theorem pnCnt_ne_pnSeq (g : Nat) : pnCnt g ≠ pnSeq g := by unfold pnCnt pnSeq pnCore; omega

/-- A completion counts the command, and a failed one among the failures (R547). -/
theorem completeCmd_counter (g : Nat) (q : Option QueueId) (r : CmdRec) (c : Completion) :
    (completeCmd s g q r c).counter (pnCnt g) 2 = s.counter (pnCnt g) 2 + 1 ∧
    (completeCmd s g q r c).counter (pnCnt g) 3 =
      s.counter (pnCnt g) 3 + (if statusFails c.status then 1 else 0) := by
  unfold completeCmd
  extract_lets fails s1 own s2 s3 s4 s5 s6 s7
  have e0 : ∀ k, s3.counter (pnCnt g) k = s.counter (pnCnt g) k := by
    intro k
    have e2 : s2.counter (pnCnt g) k = s.counter (pnCnt g) k := by
      unfold s2
      rw [State.modRing_counter, State.modCore_counter]
      exact (stored_entryStore s g r c).count g k
    cases q with
    | none => exact e2
    | some q => cases q <;> exact (State.counter_count_page _ _ _ _ _ _ (pnCnt_ne_pnSeq g)).trans e2
  have e5 : ∀ k, (advanceHeads s7 g).counter (pnCnt g) k = s5.counter (pnCnt g) k := by
    intro k
    have h := within_refl (· ∈ [Piece.cores, .parts, .sched, .dies]) s5
    have h6 : Within (· ∈ [Piece.cores, .parts, .sched, .dies]) s5 s6 := by
      unfold s6
      split
      · exact within_failStep at2 at1 _ _ _ h
      · exact h
    have h7 : Within (· ∈ [Piece.cores, .parts, .sched, .dies]) s5 s7 := by
      unfold s7
      split
      · exact within_State_modDie at3 _ _ _ h6
      · exact h6
    have := (within_advanceHeads at0 s7 g h7).pages (by decide)
    unfold State.counter State.page
    rw [this]
  rw [e5, e5]
  by_cases hf : fails = true
  · have hf' : statusFails c.status = true := hf
    simp only [hf', if_true, s5, hf, s4]
    refine ⟨?_, ?_⟩
    · rw [State.counter_count_ne _ _ _ _ _ (by decide), State.counter_count_same, e0]; rfl
    · rw [State.counter_count_same, State.counter_count_ne _ _ _ _ _ (by decide), e0]; rfl
  · have hf' : ¬ statusFails c.status = true := hf
    simp only [s5, hf, s4, hf']
    refine ⟨?_, ?_⟩
    · simp only [Bool.false_eq_true, if_false]; rw [State.counter_count_same, e0]; rfl
    · simp only [Bool.false_eq_true, if_false]; rw [State.counter_count_ne _ _ _ _ _ (by decide), e0]; simp

/-! ### Completion as a whole -/

theorem entryStore_read (g : Nat) (r : CmdRec) (c : Completion) (h : EntryPlaced s g r) :
    memRead (entryStore s g r c) (cplKey s g r) 16 = completionEntry s r c := by
  obtain ⟨h1, h2, h3⟩ := h
  unfold entryStore
  rw [h1]
  dsimp only
  unfold writeEntry
  rw [if_pos h2]
  have hl := completionEntry_length s r c
  have hp : PlainStore (slabTraffic s (cplKey s g r) (completionEntry s r c).length true false) (cplKey s g r)
      (completionEntry s r c).length := by
    rw [hl]
    unfold slabTraffic
    split
    · exact plainStore_count _ _ _ _ _ _ (plainStore_count _ _ _ _ _ _ h3)
    · exact h3
  show memRead (joinBad (memStore (slabTraffic s (cplKey s g r) (completionEntry s r c).length true false) (cplKey s g r)
    (completionEntry s r c)).1 none _).1 _ 16 = _
  rw [memStore_plain _ _ hp]
  exact memRead_memWrite_len _ _ _ _ hl

/-- A completed record of any queue. -/
theorem completes_completeCmd (g : Nat) (q : Option QueueId) (r : CmdRec) (c : Completion) :
    Completes s (completeCmd s g q r c) g r c where
  entry h := by
    have e : memRead (completeCmd s g q r c) (cplKey s g r) 16 = memRead (entryStore s g r c) (cplKey s g r) 16 := by
      unfold memRead
      exact List.map_congr_left fun k _ => memByte_completeCmd s g q r c _
    rw [e, entryStore_read s g r c h]
  frame a n := by
    rw [memByte_completeCmd]
    by_cases h : r.recompute = none
    · exact (stored_entryStore s g r c).bytes a (by simp only [h, true_and] at n; omega)
    · unfold entryStore
      cases e : r.recompute with
      | none => exact absurd e h
      | some v => rfl
  ring := completeCmd_outstanding s g q r c
  counted := (completeCmd_counter s g q r c).1
  failures := (completeCmd_counter s g q r c).2

/-- Completion read against a state that differs in what no part of `Completes` looks at. -/
theorem Completes.of_eq {s0 s t : State} {g : Nat} {r : CmdRec} {e : Completion} (h : Completes s t g r e)
    (hm : s.mem = s0.mem) (hp : ∀ pn off, s.reg pn off = s0.reg pn off)
    (hc : ∀ k, s.counter (pnCnt g) k = s0.counter (pnCnt g) k) (hb : s.bell = s0.bell)
    (hr : ((s.core g).ring r.ctx).outstanding = ((s0.core g).ring r.ctx).outstanding)
    (hq : EntryPlaced s0 g r → EntryPlaced s g r) : Completes s0 t g r e := by
  have hk : cplKey s g r = cplKey s0 g r := by
    unfold cplKey cplBase ringLog2 State.regAddr State.regN; simp only [hp]
  have he : completionEntry s r e = completionEntry s0 r e := by unfold completionEntry; rw [hb]
  refine ⟨fun n => ?_, fun a n => ?_, ?_, ?_, ?_⟩
  · rw [← hk, ← he]; exact h.entry (hq n)
  · rw [← hk] at n; rw [h.frame a n]; unfold memByte; rw [hm]
  · rw [← hr]; exact h.ring
  · rw [← hc]; exact h.counted
  · rw [← hc]; exact h.failures

/-- A completion does not touch which record holds the ring, but for settling its dependences. -/
theorem advanceHead_hold (c : Core) (x n : Nat) (r : Ring) :
    (advanceHead c x n r).hold = r.hold ∧ (advanceHead c x n r).stopped = r.stopped := by
  induction n generalizing r with
  | zero => exact ⟨rfl, rfl⟩
  | succ n ih =>
    unfold advanceHead
    dsimp only
    split
    · exact ih _
    · exact ⟨rfl, rfl⟩

theorem completeCmd_cores (g : Nat) (q : Option QueueId) (r : CmdRec) (c : Completion) :
    ∃ t : State, t.cores = (((entryStore s g r c).modCore g (Core.settleDeps r.ctx r.idx (statusFails c.status) c.endAt)).modRing g r.ctx fun v =>
      { v with done := if r.recompute.isNone then v.done ++ [r.idx] else v.done, outstanding := v.outstanding.erase r.idx,
               tags := if (mget? v.tags r.tag).map Prod.fst = some r.idx
                 then mput v.tags r.tag (r.idx, if statusFails c.status then .failed else .met) else v.tags }).cores ∧
      completeCmd s g q r c = advanceHeads t g := by
  unfold completeCmd
  extract_lets fails s1 own s2 s3 s4 s5 s6 s7
  refine ⟨s7, ?_, rfl⟩
  have h := within_refl (· ∈ [Piece.pages, .parts, .sched, .dies]) s2
  have h3 : Within (· ∈ [Piece.pages, .parts, .sched, .dies]) s2 s3 := by
    cases q with
    | none => exact h
    | some q => cases q <;> exact within_State_count at0 _ _ _ _ h
  have h4 := within_State_count at0 s3 (pnCnt g) 2 1 h3
  have h5 : Within (· ∈ [Piece.pages, .parts, .sched, .dies]) s2 s5 :=
    within_ite _ _ _ (within_State_count at0 _ _ _ _ h4) h4
  have h6 : Within (· ∈ [Piece.pages, .parts, .sched, .dies]) s2 s6 := by
    unfold s6
    split
    · exact within_failStep at2 at1 _ _ _ h5
    · exact h5
  have h7 : Within (· ∈ [Piece.pages, .parts, .sched, .dies]) s2 s7 := by
    unfold s7
    split
    · exact within_State_modDie at3 _ _ _ h6
    · exact h6
  exact h7.cores (by decide)

theorem advanceHeads_hold (g x : Nat) :
    (((advanceHeads s g).core g).ring x).hold = ((s.core g).ring x).hold ∧
    (((advanceHeads s g).core g).ring x).stopped = ((s.core g).ring x).stopped := by
  unfold advanceHeads
  rw [State.core_modCore]
  unfold Core.ring
  dsimp only
  rw [mget_map_val (fun k r => advanceHead (s.core g) k r.done.length r) ({} : Ring) _ _ rfl]
  exact advanceHead_hold _ _ _ _

theorem settleDeps_ring (c : Core) (x i k : Nat) (fails : Bool) (e : Nat) :
    (Core.settleDeps x i fails e c).ring k = Ring.settle x i fails e (c.ring k) :=
  mget_map_val (fun _ r => Ring.settle x i fails e r) ({} : Ring) _ _ rfl

/-- A ring that no record holds is held by none after a completion, and a ring that is stopped stays so. -/
theorem completeCmd_hold (g : Nat) (q : Option QueueId) (r : CmdRec) (c : Completion)
    (h : ((s.core g).ring r.ctx).hold = none) :
    ((((completeCmd s g q r c).core g).ring r.ctx)).hold = none ∧
    ((((completeCmd s g q r c).core g).ring r.ctx)).stopped = ((s.core g).ring r.ctx).stopped := by
  obtain ⟨t, ht, e⟩ := completeCmd_cores s g q r c
  have he := entryStore_core s g g r c
  rw [e, (advanceHeads_hold t g r.ctx).1, (advanceHeads_hold t g r.ctx).2]
  have hc : t.core g = (((entryStore s g r c).modCore g (Core.settleDeps r.ctx r.idx (statusFails c.status) c.endAt)).modRing g r.ctx fun v =>
      { v with done := if r.recompute.isNone then v.done ++ [r.idx] else v.done, outstanding := v.outstanding.erase r.idx,
               tags := if (mget? v.tags r.tag).map Prod.fst = some r.idx
                 then mput v.tags r.tag (r.idx, if statusFails c.status then .failed else .met) else v.tags }).core g := by
    unfold State.core; rw [ht]
  rw [hc, State.ring_modRing]
  dsimp only
  rw [State.core_modCore, settleDeps_ring, he]
  exact ⟨by simp only [Ring.settle, h, Option.map_none], rfl⟩

/-- Commands in flight and the landing tiles stay through a completion. -/
theorem completeCmd_inflight (g : Nat) (q : Option QueueId) (r : CmdRec) (c : Completion) :
    ((completeCmd s g q r c).core g).inflight = (s.core g).inflight := by
  obtain ⟨t, ht, e⟩ := completeCmd_cores s g q r c
  have he := entryStore_core s g g r c
  have hc : t.core g = (((entryStore s g r c).modCore g (Core.settleDeps r.ctx r.idx (statusFails c.status) c.endAt)).modRing g r.ctx fun v =>
      { v with done := if r.recompute.isNone then v.done ++ [r.idx] else v.done, outstanding := v.outstanding.erase r.idx,
               tags := if (mget? v.tags r.tag).map Prod.fst = some r.idx
                 then mput v.tags r.tag (r.idx, if statusFails c.status then .failed else .met) else v.tags }).core g := by
    unfold State.core; rw [ht]
  rw [e]
  unfold advanceHeads
  rw [State.core_modCore, hc]
  unfold State.modRing
  rw [State.core_modCore, State.core_modCore, he]
  rfl

end Sys2Proof.Machine
end

