-- ==== Sys2Proof/Laws/WithinCore.lean ====
section
/-! SUPPORT. `Within` of the operations of the cores' engines. -/

-- One declaration at a time: the check of the package as one text bounds memory, which a thread a proof would pass.
set_option Elab.async false

namespace Sys2Proof.Machine

set_option linter.unusedSimpArgs false
set_option linter.unusedVariables false
set_option linter.unreachableTactic false
set_option linter.unusedTactic false

variable {S : Piece → Prop} {z : State}

theorem within_countPass (bPages : S .pages) (s : State) (g : Nat) (q : PassReq) (load : Bool) (exposed : Nat) (busy :
    Nat) (h_s : Within S z s) : Within S z (countPass s g q load exposed busy) := by
  unfold countPass
  with_reducible repeat' first
      | assumption | apply within_State_count | apply within_ite

theorem within_countStaged (bFree : S .free) (bPages : S .pages) (s : State) (g : Nat) (n : Nat) (h_s : Within S z s)
    : Within S z (countStaged s g n) := by
  unfold countStaged
  with_reducible repeat' first
      | assumption | apply within_State_countOpen | apply within_State_count | apply within_ite

theorem within_countLoad (bFree : S .free) (bPages : S .pages) (s : State) (g : Nat) (q : PassReq) (load : Bool) (h_s
    : Within S z s) : Within S z (countLoad s g q load) := by
  unfold countLoad
  with_reducible repeat' first
      | assumption | apply within_countStaged | apply within_State_countOpen | apply within_State_count
      | apply within_ite

theorem within_readSlots (bPages : S .pages) (bCores : S .cores) (bCrier : S .crier) (r : Run) (w : Who) (cmd :
    CmdRec) (side : Bool) (keep : Bool) (tile : Nat × Nat) (ks : List (Nat × Nat × Nat)) (h_r : Within S z r.s) :
    Within S z (readSlots r w cmd side keep tile ks).1.s := by
  unfold readSlots
  with_reducible repeat' first
      | intro _ | assumption | apply within_noteOverflows | apply within_State_modCore | apply within_ite
      | apply within_ite_run | apply within_ite_run_fst | apply within_ite_fst | apply within_foldl
      | apply within_foldl_run | apply within_foldl_run_fst | apply within_foldl_fst

theorem within_Run_put (r : Run) (p : Planes) (rc : RoundCtx) (es : List OutElem) (h_r : Within S z r.s) : Within S z
    (Run.put r p rc es).s := by
  unfold Run.put
  with_reducible repeat' first
      | assumption | apply within_ite | apply within_ite_run | apply within_ite_run_fst | apply within_ite_fst

theorem within_Run_putXc (bPages : S .pages) (r : Run) (w : Who) (key : Nat) (depcnt : Nat) (qs : List Slot) (h_r :
    Within S z r.s) : Within S z (Run.putXc r w key depcnt qs).s := by
  unfold Run.putXc
  with_reducible repeat' first
      | intro _ | assumption | apply within_State_count | apply within_ite | apply within_ite_run
      | apply within_ite_run_fst | apply within_ite_fst | apply within_foldl | apply within_foldl_run
      | apply within_foldl_run_fst | apply within_foldl_fst

theorem within_takeSlotsXc (bPages : S .pages) (bCores : S .cores) (bCrier : S .crier) (r : Run) (w : Who) (cmd :
    CmdRec) (side : Bool) (keep : Bool) (tile : Nat × Nat) (ks : List (Nat × Nat × Option Nat)) (h_r : Within S z r.s)
    : Within S z (takeSlotsXc r w cmd side keep tile ks).1.s := by
  unfold takeSlotsXc
  with_reducible repeat' first
      | intro _ | assumption | apply within_noteOverflows | apply within_State_modCore | apply within_ite
      | apply within_ite_run | apply within_ite_run_fst | apply within_ite_fst | apply within_foldl
      | apply within_foldl_run | apply within_foldl_run_fst | apply within_foldl_fst

theorem within_readSlotsXc (bPages : S .pages) (bCores : S .cores) (bCrier : S .crier) (r : Run) (w : Who) (cmd :
    CmdRec) (side : Bool) (keep : Bool) (tile : Nat × Nat) (key : Nat) (ks : List (Nat × Nat × Option Nat)) (h_r :
    Within S z r.s) : Within S z (readSlotsXc r w cmd side keep tile key ks).s := by
  unfold readSlotsXc
  with_reducible repeat' first
      | assumption | apply within_takeSlotsXc | apply within_Run_putXc

theorem within_popQueue (bCores : S .cores) (s : State) (g : Nat) (q : QueueId) (h_s : Within S z s) : Within S z
    (popQueue s g q) := by
  unfold popQueue
  with_reducible repeat' first
      | assumption | apply within_State_modCore | apply within_ite

theorem within_commitRun (bFree : S .free) (bOut : S .out) (bMem : S .mem) (bBad : S .bad) (bSoftBad : S .softBad)
    (bHbmErr : S .hbmErr) (bBurstKey : S .burstKey) (bTags : S .tags) (bPages : S .pages) (bCores : S .cores) (bDies :
    S .dies) (bCrier : S .crier) (bLinks : S .links) (bFlash : S .flash) (g : Nat) (q : QueueId) (cmd : CmdRec) (w :
    Who) (r : Run) (end_ : Nat) (reserved : Nat) (h_r : Within S z r.s) : Within S z (commitRun g q cmd w r end_
    reserved) := by
  unfold commitRun
  with_reducible repeat' first
      | assumption | apply within_popQueue | apply within_sendWrites | apply within_lostTrap
      | apply within_memStoresBy | apply within_raiseBad | apply within_State_countOpen | apply within_State_count
      | apply within_State_modCore | apply within_ite | apply within_ite_run | apply within_ite_run_fst
      | apply within_ite_fst | split

theorem within_completeFront (bMem : S .mem) (bBad : S .bad) (bSoftBad : S .softBad) (bHbmErr : S .hbmErr) (bBurstKey
    : S .burstKey) (bPages : S .pages) (bCores : S .cores) (bDies : S .dies) (bSched : S .sched) (bParts : S .parts)
    (bCrier : S .crier) (bFlash : S .flash) (s : State) (g : Nat) (q : QueueId) (cmd : CmdRec) (c : Completion) (h_s :
    Within S z s) : Within S z (completeFront s g q cmd c) := by
  unfold completeFront
  with_reducible repeat' first
      | assumption | apply within_popQueue | apply within_completeCmd

theorem within_refuseFront (bMem : S .mem) (bBad : S .bad) (bSoftBad : S .softBad) (bHbmErr : S .hbmErr) (bBurstKey :
    S .burstKey) (bPages : S .pages) (bCores : S .cores) (bDies : S .dies) (bSched : S .sched) (bParts : S .parts)
    (bCrier : S .crier) (bFlash : S .flash) (s : State) (g : Nat) (q : QueueId) (cmd : CmdRec) (reason : Nat) (h_s :
    Within S z s) : Within S z (refuseFront s g q cmd reason) := by
  unfold refuseFront
  with_reducible repeat' first
      | assumption | apply within_popQueue | apply within_refuseCmd

theorem within_failBad (bMem : S .mem) (bBad : S .bad) (bSoftBad : S .softBad) (bHbmErr : S .hbmErr) (bBurstKey : S
    .burstKey) (bPages : S .pages) (bCores : S .cores) (bDies : S .dies) (bSched : S .sched) (bParts : S .parts)
    (bCrier : S .crier) (bFlash : S .flash) (s : State) (g : Nat) (q : QueueId) (cmd : CmdRec) (u : Nat) (spans : List
    (Nat × Nat)) (h_s : Within S z s) : Within S z (failBad s g q cmd u spans) := by
  unfold failBad
  with_reducible repeat' first
      | assumption | apply within_completeFront | apply within_raiseBadIn

theorem within_failDep (bMem : S .mem) (bBad : S .bad) (bSoftBad : S .softBad) (bHbmErr : S .hbmErr) (bBurstKey : S
    .burstKey) (bPages : S .pages) (bCores : S .cores) (bDies : S .dies) (bSched : S .sched) (bParts : S .parts)
    (bCrier : S .crier) (bFlash : S .flash) (s : State) (g : Nat) (q : QueueId) (cmd : CmdRec) (h_s : Within S z s) :
    Within S z (failDep s g q cmd) := by
  unfold failDep
  with_reducible repeat' first
      | assumption | apply within_completeFront

theorem within_haltCmd (bFree : S .free) (bOut : S .out) (bMem : S .mem) (bBad : S .bad) (bSoftBad : S .softBad)
    (bHbmErr : S .hbmErr) (bBurstKey : S .burstKey) (bTags : S .tags) (bPages : S .pages) (bCores : S .cores) (bDies :
    S .dies) (bParts : S .parts) (bCrier : S .crier) (bLinks : S .links) (bFlash : S .flash) (g : Nat) (q : QueueId)
    (cmd : CmdRec) (w : Who) (r : Run) (side : Bool) (end_ : Nat) (reserved : Nat) (h_r : Within S z r.s) : Within S z
    (haltCmd g q cmd w r side end_ reserved) := by
  unfold haltCmd
  with_reducible repeat' first
      | assumption | apply within_commitRun | apply within_State_modCtx | apply within_State_modCore

theorem within_enterPasses (bFree : S .free) (bPages : S .pages) (bCores : S .cores) (g : Nat) (issue : Nat) (dep :
    Nat) (qs : List PassReq) (s : State) (h_s : Within S z s) : Within S z (enterPasses g issue dep qs s).1 := by
  unfold enterPasses
  with_reducible repeat' first
      | intro _ | assumption | apply within_countLoad | apply within_countPass | apply within_State_setCore
      | apply within_foldl | apply within_foldl_fst

theorem within_enterGroup (bFree : S .free) (bPages : S .pages) (bCores : S .cores) (g : Nat) (issue : Nat) (dep :
    Nat) (qs : List PassReq) (s : State) (h_s : Within S z s) : Within S z (enterGroup g issue dep qs s).1 := by
  unfold enterGroup
  with_reducible repeat' first
      | assumption | apply within_enterPasses | apply within_ite

theorem within_runRounds (bFree : S .free) (bPages : S .pages) (bCores : S .cores) (g : Nat) (issue : Nat) (dep : Nat)
    (n : Nat) (g1 : Nat → List PassReq) (g2 : Nat → List PassReq) (sweep : Nat → Nat) (s : State) (h_s : Within S z s)
    : Within S z (runRounds g issue dep n g1 g2 sweep s).s := by
  unfold runRounds
  with_reducible repeat' first
      | intro _ | assumption | apply within_enterGroup | apply within_ite | apply within_ite_rounds
      | apply within_ite_fst | apply within_foldl | apply within_foldl_rounds | apply within_foldl_fst

theorem within_failCmd (bMem : S .mem) (bBad : S .bad) (bSoftBad : S .softBad) (bHbmErr : S .hbmErr) (bBurstKey : S
    .burstKey) (bPages : S .pages) (bCores : S .cores) (bDies : S .dies) (bSched : S .sched) (bParts : S .parts)
    (bCrier : S .crier) (bFlash : S .flash) (s : State) (g : Nat) (q : Option QueueId) (r : CmdRec) (status : Nat)
    (code : Nat) (detail : Nat) (h_s : Within S z s) : Within S z (failCmd s g q r status code detail) := by
  unfold failCmd
  with_reducible repeat' first
      | assumption | apply within_completeCmd | apply within_raiseTrap | apply within_ite

theorem within_runTile (bPages : S .pages) (bCores : S .cores) (bCrier : S .crier) (w : Mat) (isT : Bool) (c : MatCmd)
    (sc : Val) (y : Option Planes) (ms : List Nat) (t : MatTile) (first : Bool) (es : List Entered) (starts : List
    (List Nat)) (d : Nat) (xcKey : Nat) (run : Run) (h_run : Within S z run.s) : Within S z (runTile w isT c sc y ms t
    first es starts d xcKey run).s := by
  unfold runTile
  with_reducible repeat' first
      | intro _ | assumption | apply within_readSlotsXc | apply within_takeSlotsXc | apply within_Run_putXc
      | apply within_Run_put | apply within_readSlots | apply within_noteNans | apply within_addDeposits
      | apply within_State_modCore | apply within_ite | apply within_ite_run | apply within_ite_run_fst
      | apply within_ite_fst | apply within_foldl | apply within_foldl_run | apply within_foldl_run_fst
      | apply within_foldl_fst | split

theorem within_runMatTiles (bPages : S .pages) (bCores : S .cores) (bCrier : S .crier) (g : Nat) (isT : Bool) (wm :
    Mat) (d : Nat) (tes : List (MatTile × List Entered)) (i : Nat) (c : MatCmd) (st : State) (h_st : Within S z st) :
    Within S z (runMatTiles g isT wm d tes i c st).1.s := by
  unfold runMatTiles
  with_reducible repeat' first
      | intro _ | assumption | apply within_runTile | apply within_State_modCore | apply within_ite
      | apply within_ite_run | apply within_ite_run_fst | apply within_ite_fst | apply within_foldl
      | apply within_foldl_run | apply within_foldl_run_fst | apply within_foldl_fst | apply within_elim

theorem within_runMatCmd (bFree : S .free) (bOut : S .out) (bMem : S .mem) (bBad : S .bad) (bSoftBad : S .softBad)
    (bHbmErr : S .hbmErr) (bBurstKey : S .burstKey) (bTags : S .tags) (bPages : S .pages) (bCores : S .cores) (bDies :
    S .dies) (bParts : S .parts) (bCrier : S .crier) (bLinks : S .links) (bFlash : S .flash) (g : Nat) (isT : Bool)
    (wm : Mat) (d : Nat) (end_ : Nat) (tes : List (MatTile × List Entered)) (stop : Option MatStop) (i : Nat) (c :
    MatCmd) (st : State) (h_st : Within S z st) : Within S z (runMatCmd g isT wm d end_ tes stop i c st) := by
  unfold runMatCmd
  with_reducible repeat' first
      | assumption | apply within_runMatTiles | apply within_haltCmd | apply within_commitRun
      | apply within_raiseBadIn | apply within_State_modCore | apply within_ite | apply within_ite_run
      | apply within_ite_run_fst | apply within_ite_fst | split

theorem within_enterTiles (bFree : S .free) (bPages : S .pages) (bCores : S .cores) (g : Nat) (issue : Nat) (dep :
    Nat) (reqs : List (List PassReq)) (s : State) (h_s : Within S z s) : Within S z (enterTiles g issue dep reqs s).1
    := by
  unfold enterTiles
  with_reducible repeat' first
      | intro _ | assumption | apply within_enterPasses | apply within_foldl | apply within_foldl_fst

theorem within_runMatmul (bFree : S .free) (bOut : S .out) (bMem : S .mem) (bBad : S .bad) (bSoftBad : S .softBad)
    (bHbmErr : S .hbmErr) (bBurstKey : S .burstKey) (bTags : S .tags) (bPages : S .pages) (bCores : S .cores) (bDies :
    S .dies) (bSched : S .sched) (bParts : S .parts) (bCrier : S .crier) (bLinks : S .links) (bFlash : S .flash) (s :
    State) (g : Nat) (isT : Bool) (target : Option Nat) (cmds : List CmdRec) (h_s : Within S z s) : Within S z
    (runMatmul s g isT target cmds) := by
  unfold runMatmul
  with_reducible repeat' first
      | intro _ | assumption | apply within_enterTiles | apply within_runMatCmd | apply within_runMatTiles
      | apply within_failBad | apply within_refuseFront | apply within_countStaged | apply within_ite
      | apply within_ite_run | apply within_ite_run_fst | apply within_ite_fst | apply within_foldl
      | apply within_foldl_run | apply within_foldl_run_fst | apply within_foldl_fst | apply within_elim | split
      | dsimp only

theorem within_issueGather (bFree : S .free) (bOut : S .out) (bMem : S .mem) (bBad : S .bad) (bSoftBad : S .softBad)
    (bHbmErr : S .hbmErr) (bBurstKey : S .burstKey) (bTags : S .tags) (bPages : S .pages) (bCores : S .cores) (bDies :
    S .dies) (bSched : S .sched) (bParts : S .parts) (bCrier : S .crier) (bLinks : S .links) (bFlash : S .flash) (s :
    State) (g : Nat) (h_s : Within S z s) : Within S z (issueGather s g) := by
  unfold issueGather
  with_reducible repeat' first
      | assumption | apply within_runMatmul | apply within_State_modCore | apply within_ite | apply within_ite_fst
      | split

theorem within_joinGather (bFree : S .free) (bOut : S .out) (bMem : S .mem) (bBad : S .bad) (bSoftBad : S .softBad)
    (bHbmErr : S .hbmErr) (bBurstKey : S .burstKey) (bTags : S .tags) (bPages : S .pages) (bCores : S .cores) (bDies :
    S .dies) (bSched : S .sched) (bParts : S .parts) (bCrier : S .crier) (bLinks : S .links) (bFlash : S .flash) (s :
    State) (g : Nat) (r : CmdRec) (h_s : Within S z s) : Within S z (joinGather s g r) := by
  unfold joinGather
  with_reducible repeat' first
      | intro _ | assumption | apply within_issueGather | apply within_popQueue | apply within_State_modCore
      | apply within_ite | apply within_elim | split | dsimp only

theorem within_withDeps (bMem : S .mem) (bBad : S .bad) (bSoftBad : S .softBad) (bHbmErr : S .hbmErr) (bBurstKey : S
    .burstKey) (bPages : S .pages) (bCores : S .cores) (bDies : S .dies) (bSched : S .sched) (bParts : S .parts)
    (bCrier : S .crier) (bFlash : S .flash) (s : State) (g : Nat) (q : QueueId) (r : CmdRec) (f : State) (h_s : Within
    S z s) (h_f : Within S z f) : Within S z (withDeps s g q r f) := by
  unfold withDeps
  with_reducible repeat' first
      | assumption | apply within_failDep | split

theorem within_closeGather (bFree : S .free) (bOut : S .out) (bMem : S .mem) (bBad : S .bad) (bSoftBad : S .softBad)
    (bHbmErr : S .hbmErr) (bBurstKey : S .burstKey) (bTags : S .tags) (bPages : S .pages) (bCores : S .cores) (bDies :
    S .dies) (bSched : S .sched) (bParts : S .parts) (bCrier : S .crier) (bLinks : S .links) (bFlash : S .flash) (s :
    State) (g : Nat) (h_s : Within S z s) : Within S z (closeGather s g) := by
  unfold closeGather
  with_reducible repeat' first
      | assumption | apply within_issueGather

theorem within_afterGather (bFree : S .free) (bOut : S .out) (bMem : S .mem) (bBad : S .bad) (bSoftBad : S .softBad)
    (bHbmErr : S .hbmErr) (bBurstKey : S .burstKey) (bTags : S .tags) (bPages : S .pages) (bCores : S .cores) (bDies :
    S .dies) (bSched : S .sched) (bParts : S .parts) (bCrier : S .crier) (bLinks : S .links) (bFlash : S .flash) (s :
    State) (g : Nat) (f : State → State) (h_s : Within S z s) (h_f : ∀ x0, Within S z x0 → Within S z (f x0)) : Within
    S z (afterGather s g f) := by
  unfold afterGather
  with_reducible repeat' first
      | assumption | apply h_f | apply within_closeGather | apply within_ite

theorem within_issueMatmul (bFree : S .free) (bOut : S .out) (bMem : S .mem) (bBad : S .bad) (bSoftBad : S .softBad)
    (bHbmErr : S .hbmErr) (bBurstKey : S .burstKey) (bTags : S .tags) (bPages : S .pages) (bCores : S .cores) (bDies :
    S .dies) (bSched : S .sched) (bParts : S .parts) (bCrier : S .crier) (bLinks : S .links) (bFlash : S .flash) (s0 :
    State) (g : Nat) (isT : Bool) (r : CmdRec) (h_s0 : Within S z s0) : Within S z (issueMatmul s0 g isT r) := by
  unfold issueMatmul
  with_reducible repeat' first
      | intro _ | assumption | apply within_afterGather | apply within_closeGather | apply within_withDeps
      | apply within_joinGather | apply within_runMatmul | apply within_readSpans | apply within_ite

theorem within_execMatmul (bFree : S .free) (bOut : S .out) (bMem : S .mem) (bBad : S .bad) (bSoftBad : S .softBad)
    (bHbmErr : S .hbmErr) (bBurstKey : S .burstKey) (bTags : S .tags) (bPages : S .pages) (bCores : S .cores) (bDies :
    S .dies) (bSched : S .sched) (bParts : S .parts) (bCrier : S .crier) (bLinks : S .links) (bFlash : S .flash) (core
    : Nat) (s : State) (h_s : Within S z s) : ∀ t, (execMatmul core s) = .next t → Within S z t := by
  intro t h
  unfold execMatmul at h
  cases h
  with_reducible repeat' first
      | assumption | apply within_issueMatmul | split

theorem within_execMatmulT (bFree : S .free) (bOut : S .out) (bMem : S .mem) (bBad : S .bad) (bSoftBad : S .softBad)
    (bHbmErr : S .hbmErr) (bBurstKey : S .burstKey) (bTags : S .tags) (bPages : S .pages) (bCores : S .cores) (bDies :
    S .dies) (bSched : S .sched) (bParts : S .parts) (bCrier : S .crier) (bLinks : S .links) (bFlash : S .flash) (core
    : Nat) (s : State) (h_s : Within S z s) : ∀ t, (execMatmulT core s) = .next t → Within S z t := by
  intro t h
  unfold execMatmulT at h
  cases h
  with_reducible repeat' first
      | assumption | apply within_issueMatmul | split

theorem within_execGatherHoldExpiry (bFree : S .free) (bOut : S .out) (bMem : S .mem) (bBad : S .bad) (bSoftBad : S
    .softBad) (bHbmErr : S .hbmErr) (bBurstKey : S .burstKey) (bTags : S .tags) (bPages : S .pages) (bCores : S
    .cores) (bDies : S .dies) (bSched : S .sched) (bParts : S .parts) (bCrier : S .crier) (bLinks : S .links) (bFlash
    : S .flash) (core : Nat) (s : State) (h_s : Within S z s) : ∀ t, (execGatherHoldExpiry core s) = .next t → Within
    S z t := by
  intro t h
  unfold execGatherHoldExpiry at h
  cases h
  with_reducible repeat' first
      | assumption | apply within_issueGather | apply within_State_count | apply within_ite | split

theorem within_readOutAll (bPages : S .pages) (bCores : S .cores) (bCrier : S .crier) (run : Run) (w : Who) (r :
    CmdRec) (y : Tensor) (h_run : Within S z run.s) : Within S z (readOutAll run w r y).s := by
  unfold readOutAll
  with_reducible repeat' first
      | assumption | apply within_readSlotsXc | apply within_Run_put | apply within_readSlots | apply within_ite
      | apply within_ite_run | apply within_ite_run_fst | apply within_ite_fst

theorem within_holdArray (bCores : S .cores) (s : State) (g : Nat) (until_ : Nat) (h_s : Within S z s) : Within S z
    (holdArray s g until_) := by
  unfold holdArray
  with_reducible repeat' first
      | assumption | apply within_State_modCore

theorem within_execAccRead (bFree : S .free) (bOut : S .out) (bMem : S .mem) (bBad : S .bad) (bSoftBad : S .softBad)
    (bHbmErr : S .hbmErr) (bBurstKey : S .burstKey) (bTags : S .tags) (bPages : S .pages) (bCores : S .cores) (bDies :
    S .dies) (bSched : S .sched) (bParts : S .parts) (bCrier : S .crier) (bLinks : S .links) (bFlash : S .flash) (core
    : Nat) (s : State) (h_s : Within S z s) : ∀ t, (execAccRead core s) = .next t → Within S z t := by
  intro t h
  unfold execAccRead at h
  cases h
  with_reducible repeat' first
      | intro _ | assumption | apply within_holdArray | apply within_readOutAll | apply within_afterGather
      | apply within_withDeps | apply within_refuseFront | apply within_commitRun | apply within_State_modCore
      | apply within_ite | apply within_ite_run | apply within_ite_run_fst | apply within_ite_fst | split

theorem within_mergePartial (bPages : S .pages) (bCores : S .cores) (bCrier : S .crier) (run : Run) (w : Who) (r :
    CmdRec) (t : Tensor) (x : XcRead) (from_ : Nat) (h_run : Within S z run.s) : Within S z (mergePartial run w r t x
    from_).s := by
  unfold mergePartial
  with_reducible repeat' first
      | intro _ | assumption | apply within_noteNans | apply within_addDeposits | apply within_State_count
      | apply within_State_modCore | apply within_ite | apply within_ite_run | apply within_ite_run_fst
      | apply within_ite_fst | apply within_foldl | apply within_foldl_run | apply within_foldl_run_fst
      | apply within_foldl_fst

theorem within_execReduceX (bFree : S .free) (bOut : S .out) (bMem : S .mem) (bBad : S .bad) (bSoftBad : S .softBad)
    (bHbmErr : S .hbmErr) (bBurstKey : S .burstKey) (bTags : S .tags) (bPages : S .pages) (bCores : S .cores) (bDies :
    S .dies) (bSched : S .sched) (bParts : S .parts) (bCrier : S .crier) (bLinks : S .links) (bFlash : S .flash) (core
    : Nat) (s : State) (h_s : Within S z s) : ∀ t, (execReduceX core s) = .next t → Within S z t := by
  intro t h
  unfold execReduceX at h
  cases h
  with_reducible repeat' first
      | intro _ | assumption | apply within_mergePartial | apply within_holdArray | apply within_readOutAll
      | apply within_afterGather | apply within_withDeps | apply within_haltCmd | apply within_failBad
      | apply within_refuseFront | apply within_commitRun | apply within_readSpans | apply within_State_modCore
      | apply within_ite | apply within_ite_run | apply within_ite_run_fst | apply within_ite_fst
      | apply within_foldl | apply within_foldl_run | apply within_foldl_run_fst | apply within_foldl_fst
      | apply within_elim | split

theorem within_moverReads (bSoftBad : S .softBad) (bPages : S .pages) (bDies : S .dies) (bCrier : S .crier) (bFlash :
    S .flash) (s : State) (g : Nat) (spans : List (Nat × Nat)) (h_s : Within S z s) : Within S z (moverReads s g
    spans) := by
  unfold moverReads
  with_reducible repeat' first
      | assumption | apply within_readSpans

theorem within_runMover (bFree : S .free) (bOut : S .out) (bMem : S .mem) (bBad : S .bad) (bSoftBad : S .softBad)
    (bHbmErr : S .hbmErr) (bBurstKey : S .burstKey) (bTags : S .tags) (bPages : S .pages) (bCores : S .cores) (bDies :
    S .dies) (bCrier : S .crier) (bLinks : S .links) (bFlash : S .flash) (s : State) (g : Nat) (r : CmdRec) (h_s :
    Within S z s) : Within S z (runMover s g r) := by
  unfold runMover
  with_reducible repeat' first
      | intro _ | assumption | apply within_moverReads | apply within_commitRun | apply within_raiseBadIn
      | apply within_State_count | apply within_ite | apply within_ite_fst | apply within_foldl
      | apply within_foldl_fst | split

theorem within_mountReads (bMem : S .mem) (g : Nat) (spans : List (Nat × Nat)) (s : State) (h_s : Within S z s) :
    Within S z (mountReads g spans s) := by
  unfold mountReads
  with_reducible repeat' first
      | intro _ | assumption | apply within_memWrite | apply within_foldl | apply within_foldl_fst

theorem within_dropReads (bMem : S .mem) (g : Nat) (spans : List (Nat × Nat)) (s : State) (h_s : Within S z s) :
    Within S z (dropReads g spans s) := by
  unfold dropReads
  with_reducible repeat' first
      | intro _ | assumption | apply within_memWrite | apply within_foldl | apply within_foldl_fst

theorem within_finishReads (bFree : S .free) (bOut : S .out) (bMem : S .mem) (bBad : S .bad) (bSoftBad : S .softBad)
    (bHbmErr : S .hbmErr) (bBurstKey : S .burstKey) (bTags : S .tags) (bPages : S .pages) (bCores : S .cores) (bDies :
    S .dies) (bCrier : S .crier) (bLinks : S .links) (bFlash : S .flash) (s : State) (g : Nat) (r : CmdRec) (h_s :
    Within S z s) : Within S z (finishReads s g r) := by
  unfold finishReads
  with_reducible repeat' first
      | assumption | apply within_dropReads | apply within_mountReads | apply within_runMover
      | apply within_State_modCore

theorem within_startReads (bOut : S .out) (bMem : S .mem) (bBad : S .bad) (bSoftBad : S .softBad) (bHbmErr : S
    .hbmErr) (bBurstKey : S .burstKey) (bPages : S .pages) (bCores : S .cores) (bDies : S .dies) (bSched : S .sched)
    (bParts : S .parts) (bCrier : S .crier) (bLinks : S .links) (bFlash : S .flash) (s : State) (g : Nat) (r : CmdRec)
    (h_s : Within S z s) : Within S z (startReads s g r) := by
  unfold startReads
  with_reducible repeat' first
      | assumption | apply within_completeFront | apply within_sendReads | apply within_lostTrap
      | apply within_State_modCore | apply within_ite | apply within_ite_fst

theorem within_modSealed (bParts : S .parts) (s : State) (p : Nat) (f : SealedPart → SealedPart) (h_s : Within S z s)
    : Within S z (modSealed s p f) := by
  unfold modSealed
  with_reducible repeat' first
      | assumption | apply within_State_modPart

theorem within_appendLog (bMem : S .mem) (bBad : S .bad) (bSoftBad : S .softBad) (bHbmErr : S .hbmErr) (bBurstKey : S
    .burstKey) (bPages : S .pages) (bDies : S .dies) (bParts : S .parts) (bCrier : S .crier) (bFlash : S .flash) (s :
    State) (p : Nat) (entry : List Byte) (h_s : Within S z s) : Within S z (appendLog s p entry) := by
  unfold appendLog
  with_reducible repeat' first
      | assumption | apply within_memStore | apply within_State_modPart | apply within_ite

theorem within_endRelease (bFree : S .free) (bOut : S .out) (bMem : S .mem) (bBad : S .bad) (bSoftBad : S .softBad)
    (bHbmErr : S .hbmErr) (bBurstKey : S .burstKey) (bTags : S .tags) (bPages : S .pages) (bCores : S .cores) (bDies :
    S .dies) (bSched : S .sched) (bParts : S .parts) (bCrier : S .crier) (bLinks : S .links) (bFlash : S .flash) (s :
    State) (g : Nat) (r : CmdRec) (h : HeldRelease) (h_s : Within S z s) : Within S z (endRelease s g r h) := by
  unfold endRelease
  with_reducible repeat' first
      | assumption | apply within_appendLog | apply within_modSealed | apply within_completeFront
      | apply within_commitRun | apply within_gateStores | apply within_raiseTrap | apply within_State_count
      | apply within_ite | apply within_ite_fst | split

theorem within_holdRelease (bFree : S .free) (bOut : S .out) (bMem : S .mem) (bBad : S .bad) (bSoftBad : S .softBad)
    (bHbmErr : S .hbmErr) (bBurstKey : S .burstKey) (bTags : S .tags) (bPages : S .pages) (bCores : S .cores) (bDies :
    S .dies) (bSched : S .sched) (bParts : S .parts) (bCrier : S .crier) (bLinks : S .links) (bFlash : S .flash) (s :
    State) (g : Nat) (r : CmdRec) (h : HeldRelease) (h_s : Within S z s) : Within S z (holdRelease s g r h) := by
  unfold holdRelease
  with_reducible repeat' first
      | assumption | apply within_endRelease | apply within_modSealed | apply within_State_count | apply within_ite

theorem within_passRelease (bFree : S .free) (bOut : S .out) (bMem : S .mem) (bBad : S .bad) (bSoftBad : S .softBad)
    (bHbmErr : S .hbmErr) (bBurstKey : S .burstKey) (bTags : S .tags) (bPages : S .pages) (bCores : S .cores) (bDies :
    S .dies) (bSched : S .sched) (bParts : S .parts) (bCrier : S .crier) (bLinks : S .links) (bSealU : S .sealU)
    (bFlash : S .flash) (s : State) (g : Nat) (r : CmdRec) (v : SealedPart) (rule : ReleaseRule) (ri : Nat) (contrib :
    Nat) (h_s : Within S z s) : Within S z (passRelease s g r v rule ri contrib) := by
  unfold passRelease
  with_reducible repeat' first
      | intro _ | assumption | exact .inl rfl | exact .inr (by assumption) | exact formed_refl _
      | exact fusesKept_refl _ | apply within_holdRelease | apply within_modSealed | apply within_moverReads
      | apply within_failBad | apply within_State_count | apply within_ite | apply within_ite_fst
      | (simp only [within_mk]; apply within_upd rfl) | split | dsimp only

theorem within_issueRelease (bFree : S .free) (bOut : S .out) (bMem : S .mem) (bBad : S .bad) (bSoftBad : S .softBad)
    (bHbmErr : S .hbmErr) (bBurstKey : S .burstKey) (bTags : S .tags) (bPages : S .pages) (bCores : S .cores) (bDies :
    S .dies) (bSched : S .sched) (bParts : S .parts) (bCrier : S .crier) (bLinks : S .links) (bSealU : S .sealU)
    (bFlash : S .flash) (s : State) (g : Nat) (r : CmdRec) (wins : List Nat) (h_s : Within S z s) : Within S z
    (issueRelease s g r wins) := by
  unfold issueRelease
  with_reducible repeat' first
      | intro _ | assumption | apply within_passRelease | apply within_holdRelease | apply within_endRelease
      | apply within_failBad | apply within_refuseFront | apply within_ite | apply within_ite_fst | split
      | dsimp only

theorem within_issueMover (bFree : S .free) (bOut : S .out) (bMem : S .mem) (bBad : S .bad) (bSoftBad : S .softBad)
    (bHbmErr : S .hbmErr) (bBurstKey : S .burstKey) (bTags : S .tags) (bPages : S .pages) (bCores : S .cores) (bDies :
    S .dies) (bSched : S .sched) (bParts : S .parts) (bCrier : S .crier) (bLinks : S .links) (bSealU : S .sealU)
    (bFlash : S .flash) (s : State) (g : Nat) (r : CmdRec) (h_s : Within S z s) : Within S z (issueMover s g r) := by
  unfold issueMover
  with_reducible repeat' first
      | assumption | apply within_issueRelease | apply within_startReads | apply within_runMover
      | apply within_moverReads | apply within_withDeps | apply within_failBad | apply within_refuseFront
      | apply within_ite | apply within_ite_fst | split

theorem within_execMove (bFree : S .free) (bOut : S .out) (bMem : S .mem) (bBad : S .bad) (bSoftBad : S .softBad)
    (bHbmErr : S .hbmErr) (bBurstKey : S .burstKey) (bTags : S .tags) (bPages : S .pages) (bCores : S .cores) (bDies :
    S .dies) (bSched : S .sched) (bParts : S .parts) (bCrier : S .crier) (bLinks : S .links) (bSealU : S .sealU)
    (bFlash : S .flash) (core : Nat) (s : State) (h_s : Within S z s) : ∀ t, (execMove core s) = .next t → Within S z
    t := by
  intro t h
  unfold execMove at h
  cases h
  with_reducible repeat' first
      | assumption | apply within_issueMover | split

theorem within_execGather (bFree : S .free) (bOut : S .out) (bMem : S .mem) (bBad : S .bad) (bSoftBad : S .softBad)
    (bHbmErr : S .hbmErr) (bBurstKey : S .burstKey) (bTags : S .tags) (bPages : S .pages) (bCores : S .cores) (bDies :
    S .dies) (bSched : S .sched) (bParts : S .parts) (bCrier : S .crier) (bLinks : S .links) (bSealU : S .sealU)
    (bFlash : S .flash) (core : Nat) (s : State) (h_s : Within S z s) : ∀ t, (execGather core s) = .next t → Within S
    z t := by
  intro t h
  unfold execGather at h
  cases h
  with_reducible repeat' first
      | assumption | apply within_issueMover | split

theorem within_execScatter (bFree : S .free) (bOut : S .out) (bMem : S .mem) (bBad : S .bad) (bSoftBad : S .softBad)
    (bHbmErr : S .hbmErr) (bBurstKey : S .burstKey) (bTags : S .tags) (bPages : S .pages) (bCores : S .cores) (bDies :
    S .dies) (bSched : S .sched) (bParts : S .parts) (bCrier : S .crier) (bLinks : S .links) (bSealU : S .sealU)
    (bFlash : S .flash) (core : Nat) (s : State) (h_s : Within S z s) : ∀ t, (execScatter core s) = .next t → Within S
    z t := by
  intro t h
  unfold execScatter at h
  cases h
  with_reducible repeat' first
      | assumption | apply within_issueMover | split

theorem within_runVec (bFree : S .free) (bOut : S .out) (bMem : S .mem) (bBad : S .bad) (bSoftBad : S .softBad)
    (bHbmErr : S .hbmErr) (bBurstKey : S .burstKey) (bTags : S .tags) (bPages : S .pages) (bCores : S .cores) (bDies :
    S .dies) (bSched : S .sched) (bParts : S .parts) (bCrier : S .crier) (bLinks : S .links) (bFlash : S .flash) (s :
    State) (g : Nat) (r : CmdRec) (h_s : Within S z s) : Within S z (runVec s g r) := by
  unfold runVec
  extract_lets w p dims rows cols ins flat elem res reds vpr vectors tiles vecCols tileVecs tileElems elemAt side dep keys
    keep e redMade tileBad stop e1 src e2 s1 ovf nsfu vu step run nans s2 done lastRow out0 put e0 out1 out2 lanes b c lam
    fin
  have hs1 : Within S z s1 := by
    simp only [s1]
    with_reducible repeat' first
      | assumption | apply within_State_modCore | apply within_ite
  have hstep : ∀ x t, Within S z x.s → Within S z (step x t).s := by
    intro x t h
    simp only [step]
    with_reducible repeat' first
      | intro _ | assumption | apply within_State_count | apply within_addDeposits | apply within_noteNans
      | apply within_State_modCore | apply within_ite_run
  have hrun : Within S z run.s := within_foldl_run _ _ _ hstep hs1
  have hs2 : Within S z s2 := by
    simp only [s2]
    split
    · exact within_raiseTrap bPages bCrier _ _ _ hrun
    · exact hrun
  have hput : ∀ x k es, Within S z x.s → Within S z (put x k es).s := by
    intro x k es h
    simp only [put]
    split <;> exact h
  have hout1 : Within S z out1.s := by
    simp only [out1]
    split
    · exact hput _ _ _ hs2
    · split
      · exact hput _ _ _ hs2
      · exact hs2
  have hout2 : Within S z out2.s := by
    simp only [out2]
    split
    · exact hput _ _ _ hout1
    · exact hout1
  with_reducible repeat' first
      | assumption | apply within_refuseFront | apply within_failBad | apply within_haltCmd | apply within_ite
  obtain ⟨o, ho⟩ : ∃ o, stop = o := ⟨_, rfl⟩
  rw [ho]
  cases o with
  | none =>
    with_reducible repeat' first
      | assumption | apply within_commitRun
  | some t =>
    with_reducible repeat' first
      | assumption | apply within_commitRun | apply within_raiseBadIn

theorem within_issueVec (bFree : S .free) (bOut : S .out) (bMem : S .mem) (bBad : S .bad) (bSoftBad : S .softBad)
    (bHbmErr : S .hbmErr) (bBurstKey : S .burstKey) (bTags : S .tags) (bPages : S .pages) (bCores : S .cores) (bDies :
    S .dies) (bSched : S .sched) (bParts : S .parts) (bCrier : S .crier) (bLinks : S .links) (bFlash : S .flash) (s :
    State) (g : Nat) (r : CmdRec) (h_s : Within S z s) : Within S z (issueVec s g r) := by
  unfold issueVec
  with_reducible repeat' first
      | intro _ | assumption | apply within_runVec | apply within_withDeps | apply within_readSpans
      | apply within_ite | apply within_ite_fst | split | dsimp only

theorem within_execVec (bFree : S .free) (bOut : S .out) (bMem : S .mem) (bBad : S .bad) (bSoftBad : S .softBad)
    (bHbmErr : S .hbmErr) (bBurstKey : S .burstKey) (bTags : S .tags) (bPages : S .pages) (bCores : S .cores) (bDies :
    S .dies) (bSched : S .sched) (bParts : S .parts) (bCrier : S .crier) (bLinks : S .links) (bFlash : S .flash) (core
    : Nat) (s : State) (h_s : Within S z s) : ∀ t, (execVec core s) = .next t → Within S z t := by
  intro t h
  unfold execVec at h
  cases h
  with_reducible repeat' first
      | assumption | apply within_issueVec | split

theorem within_execVecProg (bFree : S .free) (bOut : S .out) (bMem : S .mem) (bBad : S .bad) (bSoftBad : S .softBad)
    (bHbmErr : S .hbmErr) (bBurstKey : S .burstKey) (bTags : S .tags) (bPages : S .pages) (bCores : S .cores) (bDies :
    S .dies) (bSched : S .sched) (bParts : S .parts) (bCrier : S .crier) (bLinks : S .links) (bFlash : S .flash) (core
    : Nat) (s : State) (h_s : Within S z s) : ∀ t, (execVecProg core s) = .next t → Within S z t := by
  intro t h
  unfold execVecProg at h
  cases h
  with_reducible repeat' first
      | assumption | apply within_issueVec | split

theorem within_countConv (bFree : S .free) (bPages : S .pages) (s : State) (c : ConvRun) (tp : List ConvPass × Nat ×
    Nat × Nat) (h_s : Within S z s) : Within S z (countConv s c tp) := by
  unfold countConv
  with_reducible repeat' first
      | assumption | apply within_countStaged | apply within_State_count | apply within_ite | apply within_ite_fst

theorem within_convTile (bFree : S .free) (bPages : S .pages) (bCores : S .cores) (bCrier : S .crier) (c : ConvRun)
    (streamed : Bool) (cols : List Nat) (ms : List Nat) (issue : Nat) (acc : Run × Nat × Nat) (h_acc : Within S z
    acc.1.s) : Within S z (convTile c streamed cols ms issue acc).1.s := by
  unfold convTile
  with_reducible repeat' first
      | intro _ | assumption | apply within_countConv | apply within_enterPasses | apply within_readSlotsXc
      | apply within_takeSlotsXc | apply within_Run_putXc | apply within_Run_put | apply within_readSlots
      | apply within_noteNans | apply within_addDeposits | apply within_State_modCore | apply within_ite
      | apply within_ite_run | apply within_ite_run_fst | apply within_ite_fst | apply within_foldl
      | apply within_foldl_run | apply within_foldl_run_fst | apply within_foldl_fst

theorem within_runConv (bFree : S .free) (bOut : S .out) (bMem : S .mem) (bBad : S .bad) (bSoftBad : S .softBad)
    (bHbmErr : S .hbmErr) (bBurstKey : S .burstKey) (bTags : S .tags) (bPages : S .pages) (bCores : S .cores) (bDies :
    S .dies) (bSched : S .sched) (bParts : S .parts) (bCrier : S .crier) (bLinks : S .links) (bFlash : S .flash) (s :
    State) (g : Nat) (r : CmdRec) (h_s : Within S z s) : Within S z (runConv s g r) := by
  unfold runConv
  with_reducible repeat' first
      | intro _ | assumption | apply within_convTile | apply within_haltCmd | apply within_failBad
      | apply within_refuseFront | apply within_commitRun | apply within_raiseBadIn | apply within_State_modCore
      | apply within_ite | apply within_ite_run | apply within_ite_run_fst | apply within_ite_fst
      | apply within_foldl | apply within_foldl_run | apply within_foldl_run_fst | apply within_foldl_fst

theorem within_execConv (bFree : S .free) (bOut : S .out) (bMem : S .mem) (bBad : S .bad) (bSoftBad : S .softBad)
    (bHbmErr : S .hbmErr) (bBurstKey : S .burstKey) (bTags : S .tags) (bPages : S .pages) (bCores : S .cores) (bDies :
    S .dies) (bSched : S .sched) (bParts : S .parts) (bCrier : S .crier) (bLinks : S .links) (bFlash : S .flash) (core
    : Nat) (s : State) (h_s : Within S z s) : ∀ t, (execConv core s) = .next t → Within S z t := by
  intro t h
  unfold execConv at h
  cases h
  with_reducible repeat' first
      | intro _ | assumption | apply within_runConv | apply within_afterGather | apply within_withDeps
      | apply within_completeFront | apply within_readSpans | apply within_State_count | apply within_ite
      | apply within_ite_fst | split

theorem within_countRot (bPages : S .pages) (s : State) (g : Nat) (rot : Option RotTable) (rows : Nat) (h_s : Within S
    z s) : Within S z (countRot s g rot rows) := by
  unfold countRot
  with_reducible repeat' first
      | assumption | apply within_State_count | split

theorem within_runAttnFwd (bFree : S .free) (bOut : S .out) (bMem : S .mem) (bBad : S .bad) (bSoftBad : S .softBad)
    (bHbmErr : S .hbmErr) (bBurstKey : S .burstKey) (bTags : S .tags) (bPages : S .pages) (bCores : S .cores) (bDies :
    S .dies) (bSched : S .sched) (bParts : S .parts) (bCrier : S .crier) (bLinks : S .links) (bFlash : S .flash) (s :
    State) (g : Nat) (r : CmdRec) (h_s : Within S z s) : Within S z (runAttnFwd s g r) := by
  unfold runAttnFwd
  with_reducible repeat' first
      | intro _ | assumption | apply within_countRot | apply within_runRounds | apply within_haltCmd
      | apply within_refuseFront | apply within_commitRun | apply within_Run_put | apply within_noteOverflows
      | apply within_noteNansBoth | apply within_addDeposits | apply within_State_count | apply within_State_modCore
      | apply within_ite | apply within_ite_run | apply within_ite_run_fst | apply within_ite_rounds
      | apply within_ite_fst | apply within_foldl | apply within_foldl_run | apply within_foldl_run_fst
      | apply within_foldl_rounds | apply within_foldl_fst

theorem within_execAttnFwd (bFree : S .free) (bOut : S .out) (bMem : S .mem) (bBad : S .bad) (bSoftBad : S .softBad)
    (bHbmErr : S .hbmErr) (bBurstKey : S .burstKey) (bTags : S .tags) (bPages : S .pages) (bCores : S .cores) (bDies :
    S .dies) (bSched : S .sched) (bParts : S .parts) (bCrier : S .crier) (bLinks : S .links) (bFlash : S .flash) (core
    : Nat) (s : State) (h_s : Within S z s) : ∀ t, (execAttnFwd core s) = .next t → Within S z t := by
  intro t h
  unfold execAttnFwd at h
  cases h
  with_reducible repeat' first
      | intro _ | assumption | apply within_runAttnFwd | apply within_afterGather | apply within_withDeps
      | apply within_failBad | apply within_readSpans | apply within_ite | apply within_ite_fst | apply within_elim
      | split

theorem within_bwdReadout (bPages : S .pages) (bCores : S .cores) (bCrier : S .crier) (run : Run) (w : Who) (r :
    CmdRec) (side : Bool) (site : Nat) (t : Tensor) (rot : Option RotTable) (keyAt : Nat → Nat → Nat) (h_run : Within
    S z run.s) : Within S z (bwdReadout run w r side site t rot keyAt).s := by
  unfold bwdReadout
  with_reducible repeat' first
      | assumption | apply within_countRot | apply within_Run_put | apply within_readSlots | split

theorem within_dqSweep (bFree : S .free) (bPages : S .pages) (bCores : S .cores) (bCrier : S .crier) (g : Nat) (r :
    CmdRec) (w : Who) (o : BwdOps) (issue : Nat) (run : Run) (h_run : Within S z run.s) : Within S z (dqSweep g r w o
    issue run).1.s := by
  unfold dqSweep
  with_reducible repeat' first
      | intro _ | assumption | apply within_bwdReadout | apply within_runRounds | apply within_noteNansBoth
      | apply within_addDeposits | apply within_State_modCore | apply within_ite | apply within_ite_run
      | apply within_ite_run_fst | apply within_ite_rounds | apply within_ite_fst | apply within_foldl
      | apply within_foldl_run | apply within_foldl_run_fst | apply within_foldl_rounds | apply within_foldl_fst
      | apply within_elim

theorem within_dkvSweep (bFree : S .free) (bPages : S .pages) (bCores : S .cores) (bCrier : S .crier) (g : Nat) (r :
    CmdRec) (w : Who) (o : BwdOps) (issue : Nat) (run : Run) (h_run : Within S z run.s) : Within S z (dkvSweep g r w o
    issue run).1.s := by
  unfold dkvSweep
  with_reducible repeat' first
      | intro _ | assumption | apply within_bwdReadout | apply within_runRounds | apply within_readSlotsXc
      | apply within_countStaged | apply within_noteNansBoth | apply within_addDeposits | apply within_State_modCore
      | apply within_ite | apply within_ite_run | apply within_ite_run_fst | apply within_ite_rounds
      | apply within_ite_fst | apply within_foldl | apply within_foldl_run | apply within_foldl_run_fst
      | apply within_foldl_rounds | apply within_foldl_fst | apply within_elim

theorem within_runAttnBwd (bFree : S .free) (bOut : S .out) (bMem : S .mem) (bBad : S .bad) (bSoftBad : S .softBad)
    (bHbmErr : S .hbmErr) (bBurstKey : S .burstKey) (bTags : S .tags) (bPages : S .pages) (bCores : S .cores) (bDies :
    S .dies) (bSched : S .sched) (bParts : S .parts) (bCrier : S .crier) (bLinks : S .links) (bFlash : S .flash) (s :
    State) (g : Nat) (r : CmdRec) (h_s : Within S z s) : Within S z (runAttnBwd s g r) := by
  unfold runAttnBwd
  with_reducible repeat' first
      | intro _ | assumption | apply within_dkvSweep | apply within_dqSweep | apply within_countRot
      | apply within_haltCmd | apply within_refuseFront | apply within_commitRun | apply within_State_count
      | apply within_State_modCore | apply within_State_setCore | apply within_ite | apply within_ite_run
      | apply within_ite_run_fst | apply within_ite_fst | apply within_foldl | apply within_foldl_run
      | apply within_foldl_run_fst | apply within_foldl_fst

theorem within_execAttnBwd (bFree : S .free) (bOut : S .out) (bMem : S .mem) (bBad : S .bad) (bSoftBad : S .softBad)
    (bHbmErr : S .hbmErr) (bBurstKey : S .burstKey) (bTags : S .tags) (bPages : S .pages) (bCores : S .cores) (bDies :
    S .dies) (bSched : S .sched) (bParts : S .parts) (bCrier : S .crier) (bLinks : S .links) (bFlash : S .flash) (core
    : Nat) (s : State) (h_s : Within S z s) : ∀ t, (execAttnBwd core s) = .next t → Within S z t := by
  intro t h
  unfold execAttnBwd at h
  cases h
  with_reducible repeat' first
      | intro _ | assumption | apply within_runAttnBwd | apply within_afterGather | apply within_withDeps
      | apply within_failBad | apply within_readSpans | apply within_ite | apply within_ite_fst | apply within_elim
      | split

theorem within_takeFree (bSoftBad : S .softBad) (bPages : S .pages) (bDies : S .dies) (bCrier : S .crier) (bFlash : S
    .flash) (w : Who) (a : Nat) (z2 : State) (h_z2 : Within S z z2) : Within S z (takeFree w a z2).1 := by
  induction a generalizing z2 with
  | zero =>
    unfold takeFree
    with_reducible repeat' first
        | intro _ | assumption | apply within_readSpans | apply within_setEvent | apply within_setDieCtlOf
        | apply within_State_count | apply within_ite | apply within_ite_fst | split | dsimp only
  | succ n ih =>
    unfold takeFree
    with_reducible repeat' first
        | intro _ | assumption | apply ih | apply within_readSpans | apply within_setEvent | apply within_setDieCtlOf
        | apply within_State_count | apply within_ite | apply within_ite_fst | split | dsimp only

theorem within_Couch_store (bMem : S .mem) (bBad : S .bad) (bSoftBad : S .softBad) (bHbmErr : S .hbmErr) (bBurstKey :
    S .burstKey) (bTags : S .tags) (bPages : S .pages) (bDies : S .dies) (bCrier : S .crier) (bFlash : S .flash) (c :
    Couch) (o : Overlay) (h_c : Within S z c.s) : Within S z (Couch.store c o).s := by
  unfold Couch.store
  with_reducible repeat' first
      | assumption | apply within_memStoresBy

theorem within_Couch_storeAt (bMem : S .mem) (bBad : S .bad) (bSoftBad : S .softBad) (bHbmErr : S .hbmErr) (bBurstKey
    : S .burstKey) (bTags : S .tags) (bPages : S .pages) (bDies : S .dies) (bCrier : S .crier) (bFlash : S .flash) (c
    : Couch) (key : Nat) (bs : List Byte) (h_c : Within S z c.s) : Within S z (Couch.storeAt c key bs).s := by
  unfold Couch.storeAt
  with_reducible repeat' first
      | assumption | apply within_memStoresBy

theorem within_Couch_reads (bSoftBad : S .softBad) (bPages : S .pages) (bDies : S .dies) (bCrier : S .crier) (bFlash :
    S .flash) (c : Couch) (spans : List (Nat × Nat)) (h_c : Within S z c.s) : Within S z (Couch.reads c spans).s := by
  unfold Couch.reads
  with_reducible repeat' first
      | assumption | apply within_readSpans | split

theorem within_releaseOldest (bMem : S .mem) (bBad : S .bad) (bSoftBad : S .softBad) (bHbmErr : S .hbmErr) (bBurstKey
    : S .burstKey) (bTags : S .tags) (bPages : S .pages) (bDies : S .dies) (bCrier : S .crier) (bFlash : S .flash) (w
    : Who) (c0 : Couch) (h_c0 : Within S z c0.s) : Within S z (releaseOldest w c0).1.s := by
  unfold releaseOldest
  with_reducible repeat' first
      | intro _ | assumption | apply within_Couch_reads | apply within_Couch_storeAt | apply within_setDieCtlOf
      | apply within_State_count | apply within_ite | apply within_ite_couch | apply within_ite_fst | split
      | dsimp only

theorem within_newSlot (bMem : S .mem) (bBad : S .bad) (bSoftBad : S .softBad) (bHbmErr : S .hbmErr) (bBurstKey : S
    .burstKey) (bTags : S .tags) (bPages : S .pages) (bDies : S .dies) (bCrier : S .crier) (bFlash : S .flash) (w :
    Who) (c : Couch) (h_c : Within S z c.s) : Within S z (newSlot w c).1.s := by
  unfold newSlot
  with_reducible repeat' first
      | intro _ | assumption | apply within_releaseOldest | apply within_takeFree | apply within_ite
      | apply within_ite_couch | apply within_ite_fst | split | dsimp only

theorem within_refillNext (bSoftBad : S .softBad) (bPages : S .pages) (bDies : S .dies) (bCrier : S .crier) (bFlash :
    S .flash) (w : Who) (c : Couch) (h_c : Within S z c.s) : Within S z (refillNext w c).s := by
  unfold refillNext
  with_reducible repeat' first
      | intro _ | assumption | apply within_takeFree | apply within_ite | apply within_ite_couch
      | apply within_ite_fst | split | dsimp only

theorem within_appendPage (bMem : S .mem) (bBad : S .bad) (bSoftBad : S .softBad) (bHbmErr : S .hbmErr) (bBurstKey : S
    .burstKey) (bTags : S .tags) (bPages : S .pages) (bDies : S .dies) (bCrier : S .crier) (bFlash : S .flash) (w :
    Who) (addr : Nat) (fill : Nat) (c : Couch) (h_c : Within S z c.s) : Within S z (appendPage w addr fill c).s := by
  unfold appendPage
  with_reducible repeat' first
      | assumption | apply within_Couch_storeAt | apply within_ite | apply within_ite_couch | apply within_ite_fst

theorem within_putOverflow (bMem : S .mem) (bBad : S .bad) (bSoftBad : S .softBad) (bHbmErr : S .hbmErr) (bBurstKey :
    S .burstKey) (bTags : S .tags) (bPages : S .pages) (bDies : S .dies) (bCrier : S .crier) (bFlash : S .flash) (c :
    Couch) (key : Nat) (mode : Nat) (k : List (Val × Nat)) (v : List (Val × Nat)) (h_c : Within S z c.s) : Within S z
    (putOverflow c key mode k v).s := by
  unfold putOverflow
  with_reducible repeat' first
      | assumption | apply within_Couch_store | apply within_ite | apply within_ite_couch | apply within_ite_fst

theorem within_moveOverflow (bMem : S .mem) (bBad : S .bad) (bSoftBad : S .softBad) (bHbmErr : S .hbmErr) (bBurstKey :
    S .burstKey) (bTags : S .tags) (bPages : S .pages) (bDies : S .dies) (bCrier : S .crier) (bFlash : S .flash) (w :
    Who) (addr : Nat) (c : Couch) (h_c : Within S z c.s) : Within S z (moveOverflow w addr c).s := by
  unfold moveOverflow
  with_reducible repeat' first
      | intro _ | assumption | apply within_Couch_store | apply within_ite | apply within_ite_couch
      | apply within_ite_fst | apply within_foldl | apply within_foldl_couch | apply within_foldl_fst

theorem within_restoreSeq (bMem : S .mem) (bBad : S .bad) (bSoftBad : S .softBad) (bHbmErr : S .hbmErr) (bBurstKey : S
    .burstKey) (bTags : S .tags) (bPages : S .pages) (bDies : S .dies) (bCrier : S .crier) (bFlash : S .flash) (w :
    Who) (c : Couch) (h_c : Within S z c.s) : Within S z (restoreSeq w c).s := by
  unfold restoreSeq
  with_reducible repeat' first
      | intro _ | assumption | apply within_moveOverflow | apply within_appendPage | apply within_refillNext
      | apply within_newSlot | apply within_Couch_reads | apply within_ite | apply within_ite_couch
      | apply within_ite_fst | split | dsimp only

theorem within_putToken (bMem : S .mem) (bBad : S .bad) (bSoftBad : S .softBad) (bHbmErr : S .hbmErr) (bBurstKey : S
    .burstKey) (bTags : S .tags) (bPages : S .pages) (bDies : S .dies) (bCrier : S .crier) (bFlash : S .flash) (w :
    Who) (r : CmdRec) (k : List (Val × Nat)) (v : List (Val × Nat)) (c0 : Couch) (h_c0 : Within S z c0.s) : Within S z
    (putToken w r k v c0).s := by
  unfold putToken
  with_reducible repeat' first
      | assumption | apply within_refillNext | apply within_Couch_reads | apply within_Couch_storeAt
      | apply within_Couch_store | apply within_State_count | apply within_ite | apply within_ite_couch
      | apply within_ite_fst

theorem within_putExhausted (bMem : S .mem) (bBad : S .bad) (bSoftBad : S .softBad) (bHbmErr : S .hbmErr) (bBurstKey :
    S .burstKey) (bTags : S .tags) (bPages : S .pages) (bDies : S .dies) (bCrier : S .crier) (bFlash : S .flash) (w :
    Who) (r : CmdRec) (k : List (Val × Nat)) (v : List (Val × Nat)) (c1 : Couch) (h_c1 : Within S z c1.s) : Within S z
    (putExhausted w r k v c1).s := by
  unfold putExhausted
  with_reducible repeat' first
      | assumption | apply within_putOverflow | apply within_raiseTrap | apply within_State_count

theorem within_couchToken (bMem : S .mem) (bBad : S .bad) (bSoftBad : S .softBad) (bHbmErr : S .hbmErr) (bBurstKey : S
    .burstKey) (bTags : S .tags) (bPages : S .pages) (bDies : S .dies) (bCrier : S .crier) (bFlash : S .flash) (w :
    Who) (r : CmdRec) (k : List (Val × Nat)) (v : List (Val × Nat)) (c0 : Couch) (h_c0 : Within S z c0.s) : Within S z
    (couchToken w r k v c0).s := by
  unfold couchToken
  with_reducible repeat' first
      | intro _ | assumption | apply within_putExhausted | apply within_putToken | apply within_restoreSeq
      | apply within_appendPage | apply within_newSlot | apply within_Couch_reads | apply within_State_count
      | apply within_ite | apply within_ite_couch | apply within_ite_fst | split | dsimp only

theorem within_runCouch (bFree : S .free) (bOut : S .out) (bMem : S .mem) (bBad : S .bad) (bSoftBad : S .softBad)
    (bHbmErr : S .hbmErr) (bBurstKey : S .burstKey) (bTags : S .tags) (bPages : S .pages) (bCores : S .cores) (bDies :
    S .dies) (bSched : S .sched) (bParts : S .parts) (bCrier : S .crier) (bLinks : S .links) (bFlash : S .flash) (s :
    State) (g : Nat) (r : CmdRec) (h_s : Within S z s) : Within S z (runCouch s g r) := by
  unfold runCouch
  with_reducible repeat' first
      | intro _ | assumption | apply within_couchToken | apply within_restoreSeq | apply within_Couch_storeAt
      | apply within_failCmd | apply within_commitRun | apply within_popQueue | apply within_raiseBad
      | apply within_ite | apply within_ite_couch | apply within_ite_couchrun | apply within_ite_fst
      | apply within_foldl | apply within_foldl_couch | apply within_foldl_couchrun | apply within_foldl_fst | split
      | dsimp only

theorem within_execCouch (bFree : S .free) (bOut : S .out) (bMem : S .mem) (bBad : S .bad) (bSoftBad : S .softBad)
    (bHbmErr : S .hbmErr) (bBurstKey : S .burstKey) (bTags : S .tags) (bPages : S .pages) (bCores : S .cores) (bDies :
    S .dies) (bSched : S .sched) (bParts : S .parts) (bCrier : S .crier) (bLinks : S .links) (bFlash : S .flash) (core
    : Nat) (s : State) (h_s : Within S z s) : ∀ t, (execCouch core s) = .next t → Within S z t := by
  intro t h
  unfold execCouch at h
  cases h
  with_reducible repeat' first
      | assumption | apply within_runCouch | apply within_withDeps | apply within_failBad | apply within_refuseFront
      | apply within_readSpans | apply within_ite | apply within_ite_fst | split

theorem within_memberPart (bFree : S .free) (bPages : S .pages) (bCores : S .cores) (bCrier : S .crier) (s : State) (g
    : Nat) (r : CmdRec) (streams : List (SeqEntry × SeqRec × List (List PageDesc) × Bool)) (h_s : Within S z s) :
    Within S z (memberPart s g r streams).s := by
  unfold memberPart
  with_reducible repeat' first
      | intro _ | assumption | apply within_countRot | apply within_runRounds | apply within_noteNansBoth
      | apply within_addDeposits | apply within_State_count | apply within_State_modCore | apply within_ite
      | apply within_ite_rounds | apply within_ite_fst | apply within_foldl | apply within_foldl_rounds
      | apply within_foldl_fst

theorem within_noteOwner (bMem : S .mem) (bBad : S .bad) (bSoftBad : S .softBad) (bHbmErr : S .hbmErr) (bBurstKey : S
    .burstKey) (bTags : S .tags) (bPages : S .pages) (bDies : S .dies) (bCrier : S .crier) (bFlash : S .flash) (s :
    State) (w : Who) (es : List SeqEntry) (stall : Bool) (h_s : Within S z s) : Within S z (noteOwner s w es stall) :=
    by
  unfold noteOwner
  with_reducible repeat' first
      | intro _ | assumption | apply within_memStoresBy | apply within_ite | apply within_ite_fst
      | apply within_foldl | apply within_foldl_fst

theorem within_markFailed (bCores : S .cores) (s : State) (ws : List Word) (m : Nat) (h_s : Within S z s) : Within S z
    (markFailed s ws m) := by
  unfold markFailed
  with_reducible repeat' first
      | assumption | apply within_State_modCore

theorem within_releaseMembers (bFree : S .free) (bOut : S .out) (bMem : S .mem) (bBad : S .bad) (bSoftBad : S
    .softBad) (bHbmErr : S .hbmErr) (bBurstKey : S .burstKey) (bTags : S .tags) (bPages : S .pages) (bCores : S
    .cores) (bDies : S .dies) (bCrier : S .crier) (bLinks : S .links) (bFlash : S .flash) (s : State) (ws : List Word)
    (ps : List DecodePartial) (lead : Nat) (status : Nat) (h_s : Within S z s) : Within S z (releaseMembers s ws ps
    lead status) := by
  unfold releaseMembers
  with_reducible repeat' first
      | intro _ | assumption | apply within_commitRun | apply within_State_modCore | apply within_ite
      | apply within_ite_fst | apply within_foldl | apply within_foldl_fst | apply within_elim | split

theorem within_dropGroup (bFree : S .free) (bOut : S .out) (bMem : S .mem) (bBad : S .bad) (bSoftBad : S .softBad)
    (bHbmErr : S .hbmErr) (bBurstKey : S .burstKey) (bTags : S .tags) (bPages : S .pages) (bCores : S .cores) (bDies :
    S .dies) (bCrier : S .crier) (bLinks : S .links) (bFlash : S .flash) (s : State) (ws : List Word) (lead : Nat)
    (h_s : Within S z s) : Within S z (dropGroup s ws lead) := by
  unfold dropGroup
  with_reducible repeat' first
      | assumption | apply within_releaseMembers | apply within_State_modCore

theorem within_decodeFailed (bFree : S .free) (bOut : S .out) (bMem : S .mem) (bBad : S .bad) (bSoftBad : S .softBad)
    (bHbmErr : S .hbmErr) (bBurstKey : S .burstKey) (bTags : S .tags) (bPages : S .pages) (bCores : S .cores) (bDies :
    S .dies) (bCrier : S .crier) (bLinks : S .links) (bFlash : S .flash) (s : State) (g : Nat) (ws : List Word) (h_s :
    Within S z s) : Within S z (decodeFailed s g ws) := by
  unfold decodeFailed
  with_reducible repeat' first
      | assumption | apply within_dropGroup | apply within_markFailed | split

theorem within_countSent (bPages : S .pages) (bCrier : S .crier) (s : State) (ws : List Word) (own : List RowPartial)
    (others : List DecodePartial) (o : DecodePartial) (h_s : Within S z s) : Within S z (countSent s ws own others o)
    := by
  unfold countSent
  with_reducible repeat' first
      | intro _ | assumption | apply within_noteOverflows | apply within_State_count | apply within_ite
      | apply within_ite_fst | split | dsimp only

theorem within_leadFinish (bFree : S .free) (bOut : S .out) (bMem : S .mem) (bBad : S .bad) (bSoftBad : S .softBad)
    (bHbmErr : S .hbmErr) (bBurstKey : S .burstKey) (bTags : S .tags) (bPages : S .pages) (bCores : S .cores) (bDies :
    S .dies) (bSched : S .sched) (bParts : S .parts) (bCrier : S .crier) (bLinks : S .links) (bFlash : S .flash) (s :
    State) (g : Nat) (r : CmdRec) (own : List RowPartial) (end_ : Nat) (seen0 : Nat) (nan : Bool) (stalled : Bool)
    (h_s : Within S z s) : Within S z (leadFinish s g r own end_ seen0 nan stalled) := by
  unfold leadFinish
  with_reducible repeat' first
      | intro _ | assumption | apply within_countSent | apply within_releaseMembers | apply within_noteOwner
      | apply within_haltCmd | apply within_completeFront | apply within_commitRun | apply within_Run_put
      | apply within_noteOverflows | apply within_noteNans | apply within_addDeposits | apply within_State_count
      | apply within_State_modCore | apply within_ite | apply within_ite_run | apply within_ite_run_fst
      | apply within_ite_fst | apply within_foldl | apply within_foldl_run | apply within_foldl_run_fst
      | apply within_foldl_fst

theorem within_decodeMember (bFree : S .free) (bOut : S .out) (bMem : S .mem) (bBad : S .bad) (bSoftBad : S .softBad)
    (bHbmErr : S .hbmErr) (bBurstKey : S .burstKey) (bTags : S .tags) (bPages : S .pages) (bCores : S .cores) (bDies :
    S .dies) (bSched : S .sched) (bParts : S .parts) (bCrier : S .crier) (bLinks : S .links) (bFlash : S .flash) (s :
    State) (g : Nat) (m : Nat) (r : CmdRec) (k : State → State) (f : MemberPart → Bool → State) (h_s : Within S z s)
    (h_k : ∀ x0, Within S z x0 → Within S z (k x0)) (h_f : ∀ x0 x1, Within S z x0.s → Within S z (f x0 x1)) : Within S
    z (decodeMember s g m r k f) := by
  unfold decodeMember
  with_reducible repeat' first
      | intro _ | assumption | apply h_k | apply h_f | apply within_noteOwner | apply within_memberPart
      | apply within_failCmd | apply within_haltCmd | apply within_failBad | apply within_refuseFront
      | apply within_popQueue | apply within_readSpans | apply within_ite | apply within_ite_member
      | apply within_ite_fst | split | dsimp only

theorem within_sendPartial (bCores : S .cores) (g : Nat) (m : Nat) (lead : Nat) (r : CmdRec) (p : MemberPart) (h_p :
    Within S z p.s) : Within S z (sendPartial g m lead r p) := by
  unfold sendPartial
  with_reducible repeat' first
      | intro _ | assumption | apply within_State_modCore | apply within_elim

theorem within_dropPartial (bCores : S .cores) (s : State) (g : Nat) (r : CmdRec) (h_s : Within S z s) : Within S z
    (dropPartial s g r) := by
  unfold dropPartial
  with_reducible repeat' first
      | assumption | apply within_State_modCore | apply within_ite

theorem within_execAttnDecode (bFree : S .free) (bOut : S .out) (bMem : S .mem) (bBad : S .bad) (bSoftBad : S
    .softBad) (bHbmErr : S .hbmErr) (bBurstKey : S .burstKey) (bTags : S .tags) (bPages : S .pages) (bCores : S
    .cores) (bDies : S .dies) (bSched : S .sched) (bParts : S .parts) (bCrier : S .crier) (bLinks : S .links) (bFlash
    : S .flash) (core : Nat) (s : State) (h_s : Within S z s) : ∀ t, (execAttnDecode core s) = .next t → Within S z t
    := by
  intro t h
  unfold execAttnDecode at h
  cases h
  with_reducible repeat' first
      | intro _ | assumption | apply within_sendPartial | apply within_decodeMember | apply within_leadFinish
      | apply within_decodeFailed | apply within_afterGather | apply within_failDep | apply within_ite
      | apply within_ite_member | apply within_ite_fst | split

theorem within_decodeChecked (bFree : S .free) (bOut : S .out) (bMem : S .mem) (bBad : S .bad) (bSoftBad : S .softBad)
    (bHbmErr : S .hbmErr) (bBurstKey : S .burstKey) (bTags : S .tags) (bPages : S .pages) (bCores : S .cores) (bDies :
    S .dies) (bCrier : S .crier) (bLinks : S .links) (bFlash : S .flash) (s : State) (g : Nat) (c : CmdRec) (h_s :
    Within S z s) : Within S z (decodeChecked s g c) := by
  unfold decodeChecked
  with_reducible repeat' first
      | intro _ | assumption | apply within_decodeFailed | apply within_ite | apply within_ite_fst | split
      | dsimp only

theorem within_noteBanks (bParts : S .parts) (s : State) (w : Who) (r : CmdRec) (h_s : Within S z s) : Within S z
    (noteBanks s w r) := by
  unfold noteBanks
  with_reducible repeat' first
      | assumption | apply within_State_modPart

theorem within_setCandidate (bMem : S .mem) (bBad : S .bad) (bSoftBad : S .softBad) (bHbmErr : S .hbmErr) (bBurstKey :
    S .burstKey) (bPages : S .pages) (bDies : S .dies) (bCrier : S .crier) (bFlash : S .flash) (s : State) (g : Nat)
    (h_s : Within S z s) : Within S z (setCandidate s g).1 := by
  unfold setCandidate
  with_reducible repeat' first
      | assumption | apply within_memStores | apply within_ite | apply within_ite_fst

theorem within_setCandidates (bMem : S .mem) (bBad : S .bad) (bSoftBad : S .softBad) (bHbmErr : S .hbmErr) (bBurstKey
    : S .burstKey) (bPages : S .pages) (bDies : S .dies) (bCrier : S .crier) (bFlash : S .flash) (s : State) (gs :
    List Nat) (h_s : Within S z s) : Within S z (setCandidates s gs).1 := by
  unfold setCandidates
  with_reducible repeat' first
      | intro _ | assumption | apply within_setCandidate | apply within_joinBad | apply within_foldl
      | apply within_foldl_fst

theorem within_raiseUpdBad (bPages : S .pages) (bDies : S .dies) (bCrier : S .crier) (bFlash : S .flash) (s : State)
    (w : Who) (r : CmdRec) (live : List (UpdEntry × Bool × Nat)) (vecs : List (Nat × Nat)) (stop : Option (Nat × List
    Nat)) (h_s : Within S z s) : Within S z (raiseUpdBad s w r live vecs stop) := by
  unfold raiseUpdBad
  with_reducible repeat' first
      | assumption | apply within_raiseBadIn | split

theorem within_noteSkips (bPages : S .pages) (bCrier : S .crier) (s : State) (w : Who) (r : CmdRec) (p : UpdPlan) (h_s
    : Within S z s) : Within S z (noteSkips s w r p) := by
  unfold noteSkips
  with_reducible repeat' first
      | assumption | apply within_raiseTrap | apply within_State_count | split

theorem within_raiseUpdNan (bPages : S .pages) (bCrier : S .crier) (s : State) (w : Who) (r : CmdRec) (p : UpdPlan)
    (vecs : List (Nat × Nat)) (made : Nat → Nat → Nat) (h_s : Within S z s) : Within S z (raiseUpdNan s w r p vecs
    made) := by
  unfold raiseUpdNan
  with_reducible repeat' first
      | intro _ | assumption | apply within_raiseTrap | apply within_ite | apply within_ite_fst | split | dsimp only

theorem within_runUpdateP1 (bFree : S .free) (bOut : S .out) (bMem : S .mem) (bBad : S .bad) (bSoftBad : S .softBad)
    (bHbmErr : S .hbmErr) (bBurstKey : S .burstKey) (bTags : S .tags) (bPages : S .pages) (bCores : S .cores) (bDies :
    S .dies) (bSched : S .sched) (bParts : S .parts) (bCrier : S .crier) (bLinks : S .links) (bFlash : S .flash) (s :
    State) (g : Nat) (r : CmdRec) (p : UpdPlan) (h_s : Within S z s) : Within S z (runUpdateP1 s g r p) := by
  unfold runUpdateP1
  with_reducible repeat' first
      | intro _ | assumption | apply within_raiseUpdNan | apply within_noteSkips | apply within_raiseUpdBad
      | apply within_haltCmd | apply within_refuseFront | apply within_commitRun | apply within_Run_putXc
      | apply within_noteOverflows | apply within_noteNans | apply within_addDeposits | apply within_State_count
      | apply within_State_modCore | apply within_ite | apply within_ite_run | apply within_ite_run_fst
      | apply within_ite_fst | apply within_foldl | apply within_foldl_run | apply within_foldl_run_fst
      | apply within_foldl_fst | apply within_elim

theorem within_updateEntry (w : Who) (r : CmdRec) (norm : List Val) (acc : Run × List (List Nat)) (xd : (UpdEntry ×
    Bool × Nat) × Nat) (h_acc : Within S z acc.1.s) : Within S z (updateEntry w r norm acc xd).1.s := by
  unfold updateEntry
  with_reducible repeat' first
      | intro _ | assumption | apply within_ite | apply within_ite_run | apply within_ite_run_fst
      | apply within_ite_fst | apply within_foldl | apply within_foldl_run | apply within_foldl_run_fst
      | apply within_foldl_fst

theorem within_countP2 (bPages : S .pages) (s : State) (g : Nat) (r : CmdRec) (live : List ((UpdEntry × Bool × Nat) ×
    Nat)) (made : List (List Nat)) (h_s : Within S z s) : Within S z (countP2 s g r live made) := by
  unfold countP2
  with_reducible repeat' first
      | assumption | apply within_State_count | apply within_ite | apply within_ite_fst

theorem within_runUpdateP2 (bFree : S .free) (bOut : S .out) (bMem : S .mem) (bBad : S .bad) (bSoftBad : S .softBad)
    (bHbmErr : S .hbmErr) (bBurstKey : S .burstKey) (bTags : S .tags) (bPages : S .pages) (bCores : S .cores) (bDies :
    S .dies) (bCrier : S .crier) (bLinks : S .links) (bFlash : S .flash) (s : State) (g : Nat) (r : CmdRec) (p :
    UpdPlan) (h_s : Within S z s) : Within S z (runUpdateP2 s g r p) := by
  unfold runUpdateP2
  with_reducible repeat' first
      | intro _ | assumption | apply within_countP2 | apply within_updateEntry | apply within_raiseUpdNan
      | apply within_noteSkips | apply within_raiseUpdBad | apply within_setCandidates | apply within_commitRun
      | apply within_raiseBad | apply within_ite | apply within_ite_run | apply within_ite_run_fst
      | apply within_ite_fst | apply within_foldl | apply within_foldl_run | apply within_foldl_run_fst
      | apply within_foldl_fst | split

theorem within_normFault (bFree : S .free) (bOut : S .out) (bMem : S .mem) (bBad : S .bad) (bSoftBad : S .softBad)
    (bHbmErr : S .hbmErr) (bBurstKey : S .burstKey) (bTags : S .tags) (bPages : S .pages) (bCores : S .cores) (bDies :
    S .dies) (bSched : S .sched) (bParts : S .parts) (bCrier : S .crier) (bLinks : S .links) (bFlash : S .flash) (s :
    State) (g : Nat) (r : CmdRec) (nan : Bool) (h_s : Within S z s) : Within S z (normFault s g r nan) := by
  unfold normFault
  with_reducible repeat' first
      | assumption | apply within_commitRun | apply within_failStep | apply within_setEvent
      | apply within_State_count | apply within_ite | apply within_ite_fst

theorem within_execUpdateP1 (bFree : S .free) (bOut : S .out) (bMem : S .mem) (bBad : S .bad) (bSoftBad : S .softBad)
    (bHbmErr : S .hbmErr) (bBurstKey : S .burstKey) (bTags : S .tags) (bPages : S .pages) (bCores : S .cores) (bDies :
    S .dies) (bSched : S .sched) (bParts : S .parts) (bCrier : S .crier) (bLinks : S .links) (bFlash : S .flash) (core
    : Nat) (s : State) (h_s : Within S z s) : ∀ t, (execUpdateP1 core s) = .next t → Within S z t := by
  intro t h
  unfold execUpdateP1 at h
  cases h
  with_reducible repeat' first
      | assumption | apply within_runUpdateP1 | apply within_withDeps | apply within_failBad | apply within_readSpans
      | apply within_ite | apply within_ite_fst | split

theorem within_execUpdateP2 (bFree : S .free) (bOut : S .out) (bMem : S .mem) (bBad : S .bad) (bSoftBad : S .softBad)
    (bHbmErr : S .hbmErr) (bBurstKey : S .burstKey) (bTags : S .tags) (bPages : S .pages) (bCores : S .cores) (bDies :
    S .dies) (bSched : S .sched) (bParts : S .parts) (bCrier : S .crier) (bLinks : S .links) (bFlash : S .flash) (core
    : Nat) (s : State) (h_s : Within S z s) : ∀ t, (execUpdateP2 core s) = .next t → Within S z t := by
  intro t h
  unfold execUpdateP2 at h
  cases h
  with_reducible repeat' first
      | intro _ | assumption | apply within_normFault | apply within_runUpdateP2 | apply within_withDeps
      | apply within_failBad | apply within_readSpans | apply within_ite | apply within_ite_fst | split | dsimp only

end Sys2Proof.Machine
end

