-- ==== Sys2Proof/Laws/WithinLinks.lean ====
section
/-! SUPPORT. `Within` of the operations of almanac, rings, boundary and links. -/

-- One declaration at a time: the check of the package as one text bounds memory, which a thread a proof would pass.
set_option Elab.async false

namespace Sys2Proof.Machine

set_option linter.unusedSimpArgs false
set_option linter.unusedVariables false
set_option linter.unreachableTactic false
set_option linter.unusedTactic false

variable {S : Piece → Prop} {z : State}

theorem within_setSem (bMem : S .mem) (bBad : S .bad) (bSoftBad : S .softBad) (bHbmErr : S .hbmErr) (bBurstKey : S
    .burstKey) (bPages : S .pages) (bDies : S .dies) (bCrier : S .crier) (bFlash : S .flash) (s : State) (p : Nat) (x
    : Nat) (n : Nat) (v : Nat) (h_s : Within S z s) : Within S z (setSem s p x n v).1 := by
  unfold setSem
  with_reducible repeat' first
      | assumption | apply within_memStore

theorem within_addSem (bMem : S .mem) (bBad : S .bad) (bSoftBad : S .softBad) (bHbmErr : S .hbmErr) (bBurstKey : S
    .burstKey) (bPages : S .pages) (bDies : S .dies) (bCrier : S .crier) (bFlash : S .flash) (s : State) (p : Nat) (x
    : Nat) (n : Nat) (v : Nat) (h_s : Within S z s) : Within S z (addSem s p x n v).1 := by
  unfold addSem
  with_reducible repeat' first
      | assumption | apply within_setSem

theorem within_modEntry (bDies : S .dies) (s : State) (d : Nat) (k : Nat) (pos : Nat) (f : Entry → Entry) (h_s :
    Within S z s) : Within S z (modEntry s d k pos f) := by
  unfold modEntry
  with_reducible repeat' first
      | assumption | apply within_State_modDie | apply within_ite

theorem within_signalDone (bMem : S .mem) (bBad : S .bad) (bSoftBad : S .softBad) (bHbmErr : S .hbmErr) (bBurstKey : S
    .burstKey) (bPages : S .pages) (bDies : S .dies) (bSched : S .sched) (bParts : S .parts) (bCrier : S .crier)
    (bFlash : S .flash) (s : State) (k : Nat) (e : Entry) (h_s : Within S z s) : Within S z (signalDone s k e) := by
  unfold signalDone
  with_reducible repeat' first
      | intro _ | assumption | apply within_addSem | apply within_raiseBad | apply within_failStep | apply within_ite
      | apply within_ite_fst | split | dsimp only

theorem within_closeEntry (bMem : S .mem) (bBad : S .bad) (bSoftBad : S .softBad) (bHbmErr : S .hbmErr) (bBurstKey : S
    .burstKey) (bPages : S .pages) (bDies : S .dies) (bSched : S .sched) (bParts : S .parts) (bCrier : S .crier)
    (bFlash : S .flash) (s : State) (d : Nat) (k : Nat) (e : Entry) (h_s : Within S z s) : Within S z (closeEntry s d
    k e) := by
  unfold closeEntry
  with_reducible repeat' first
      | assumption | apply within_signalDone | apply within_modEntry

theorem within_failedEntry (bMem : S .mem) (bBad : S .bad) (bSoftBad : S .softBad) (bHbmErr : S .hbmErr) (bBurstKey :
    S .burstKey) (bPages : S .pages) (bDies : S .dies) (bSched : S .sched) (bParts : S .parts) (bCrier : S .crier)
    (bFlash : S .flash) (s : State) (d : Nat) (k : Nat) (e : Entry) (h_s : Within S z s) : Within S z (failedEntry s d
    k e) := by
  unfold failedEntry
  with_reducible repeat' first
      | assumption | apply within_closeEntry | apply within_modEntry | apply within_failStep | apply within_setEvent
      | apply within_State_count

theorem within_refusedEntry (bMem : S .mem) (bBad : S .bad) (bSoftBad : S .softBad) (bHbmErr : S .hbmErr) (bBurstKey :
    S .burstKey) (bPages : S .pages) (bDies : S .dies) (bSched : S .sched) (bParts : S .parts) (bCrier : S .crier)
    (bFlash : S .flash) (s : State) (d : Nat) (k : Nat) (reason : Nat) (e : Entry) (h_s : Within S z s) : Within S z
    (refusedEntry s d k reason e) := by
  unfold refusedEntry
  with_reducible repeat' first
      | assumption | apply within_failedEntry | apply within_raiseTrap

theorem within_badEntry (bMem : S .mem) (bBad : S .bad) (bSoftBad : S .softBad) (bHbmErr : S .hbmErr) (bBurstKey : S
    .burstKey) (bPages : S .pages) (bDies : S .dies) (bSched : S .sched) (bParts : S .parts) (bCrier : S .crier)
    (bFlash : S .flash) (s : State) (d : Nat) (k : Nat) (u : Nat) (e : Entry) (h_s : Within S z s) : Within S z
    (badEntry s d k u e) := by
  unfold badEntry
  with_reducible repeat' first
      | assumption | apply within_failedEntry | apply within_raiseBad

theorem within_skipWindow (bMem : S .mem) (bBad : S .bad) (bSoftBad : S .softBad) (bHbmErr : S .hbmErr) (bBurstKey : S
    .burstKey) (bPages : S .pages) (bDies : S .dies) (bSched : S .sched) (bParts : S .parts) (bCrier : S .crier)
    (bFlash : S .flash) (s : State) (d : Nat) (k : Nat) (e : Entry) (h_s : Within S z s) : Within S z (skipWindow s d
    k e) := by
  unfold skipWindow
  with_reducible repeat' first
      | assumption | apply within_closeEntry | apply within_State_count

theorem within_readEntry (bMem : S .mem) (bBad : S .bad) (bSoftBad : S .softBad) (bHbmErr : S .hbmErr) (bBurstKey : S
    .burstKey) (bPages : S .pages) (bDies : S .dies) (bSched : S .sched) (bParts : S .parts) (bCrier : S .crier)
    (bFlash : S .flash) (s : State) (d : Nat) (k : Nat) (h_s : Within S z s) : Within S z (readEntry s d k) := by
  unfold readEntry
  with_reducible repeat' first
      | assumption | apply within_skipWindow | apply within_badEntry | apply within_refusedEntry
      | apply within_noteOthers | apply within_readSpans | apply within_State_modDie | apply within_ite
      | apply within_ite_fst | split

theorem within_passEntries (bDies : S .dies) (s : State) (d : Nat) (k : Nat) (h_s : Within S z s) : Within S z
    (passEntries s d k) := by
  unfold passEntries
  with_reducible repeat' first
      | assumption | apply within_State_modDie

theorem within_runRing (bMem : S .mem) (bBad : S .bad) (bSoftBad : S .softBad) (bHbmErr : S .hbmErr) (bBurstKey : S
    .burstKey) (bPages : S .pages) (bDies : S .dies) (bSched : S .sched) (bParts : S .parts) (bCrier : S .crier)
    (bFlash : S .flash) (d : Nat) (k : Nat) (a : Nat) (z3 : State) (h_z3 : Within S z z3) : Within S z (runRing d k a
    z3) := by
  induction a generalizing z3 with
  | zero =>
    unfold runRing
    with_reducible repeat' first
        | assumption | apply within_passEntries | apply within_readEntry | apply within_ite | split
  | succ n ih =>
    unfold runRing
    with_reducible repeat' first
        | assumption | apply ih | apply within_passEntries | apply within_readEntry | apply within_ite | split

theorem within_settleRing (bMem : S .mem) (bBad : S .bad) (bSoftBad : S .softBad) (bHbmErr : S .hbmErr) (bBurstKey : S
    .burstKey) (bPages : S .pages) (bDies : S .dies) (bSched : S .sched) (bParts : S .parts) (bCrier : S .crier)
    (bFlash : S .flash) (s : State) (d : Nat) (k : Nat) (h_s : Within S z s) : Within S z (settleRing s d k) := by
  unfold settleRing
  with_reducible repeat' first
      | assumption | apply within_runRing

theorem within_sampleGates (bMem : S .mem) (bBad : S .bad) (bSoftBad : S .softBad) (bHbmErr : S .hbmErr) (bBurstKey :
    S .burstKey) (bPages : S .pages) (bDies : S .dies) (bSched : S .sched) (bParts : S .parts) (bCrier : S .crier)
    (bFlash : S .flash) (s : State) (h_s : Within S z s) : Within S z (sampleGates s) := by
  unfold sampleGates
  with_reducible repeat' first
      | intro _ | assumption | exact .inl rfl | exact .inr (by assumption) | exact formed_refl _
      | exact fusesKept_refl _ | apply within_settleRing | apply within_skipWindow | apply within_foldl
      | apply within_foldl_fst | (simp only [within_mk]; apply within_upd rfl)

theorem within_finishEntry (bMem : S .mem) (bBad : S .bad) (bSoftBad : S .softBad) (bHbmErr : S .hbmErr) (bBurstKey :
    S .burstKey) (bPages : S .pages) (bDies : S .dies) (bSched : S .sched) (bParts : S .parts) (bCrier : S .crier)
    (bFlash : S .flash) (s : State) (d : Nat) (k : Nat) (e : Entry) (h_s : Within S z s) : Within S z (finishEntry s d
    k e) := by
  unfold finishEntry
  with_reducible repeat' first
      | assumption | apply within_settleRing | apply within_closeEntry

theorem within_failEntry (bMem : S .mem) (bBad : S .bad) (bSoftBad : S .softBad) (bHbmErr : S .hbmErr) (bBurstKey : S
    .burstKey) (bPages : S .pages) (bDies : S .dies) (bSched : S .sched) (bParts : S .parts) (bCrier : S .crier)
    (bFlash : S .flash) (s : State) (d : Nat) (k : Nat) (e : Entry) (h_s : Within S z s) : Within S z (failEntry s d k
    e) := by
  unfold failEntry
  with_reducible repeat' first
      | assumption | apply within_settleRing | apply within_failedEntry

theorem within_fire (bPages : S .pages) (bDies : S .dies) (s : State) (d : Nat) (k : Nat) (e : Entry) (h_s : Within S
    z s) : Within S z (fire s d k e) := by
  unfold fire
  with_reducible repeat' first
      | assumption | apply within_modEntry | apply within_State_count | apply within_ite

theorem within_countWait (bPages : S .pages) (s : State) (d : Nat) (k : Nat) (e : Entry) (h_s : Within S z s) : Within
    S z (countWait s d k e) := by
  unfold countWait
  with_reducible repeat' first
      | assumption | apply within_State_count | apply within_ite

theorem within_noteMiss (bPages : S .pages) (bCrier : S .crier) (s : State) (d : Nat) (k : Nat) (e : Entry) (deadline
    : Nat) (always : Bool) (h_s : Within S z s) : Within S z (noteMiss s d k e deadline always) := by
  unfold noteMiss
  with_reducible repeat' first
      | assumption | apply within_raiseTrap | apply within_setEvent | apply within_State_count
      | apply within_State_setReg | apply within_ite | apply within_ite_fst

theorem within_ringTail (bPages : S .pages) (bCores : S .cores) (s : State) (init : Nat) (g : Nat) (x : Nat) (value :
    Nat) (h_s : Within S z s) : Within S z (ringTail s init g x value) := by
  unfold ringTail
  with_reducible repeat' first
      | assumption | apply within_ignoreWrite | apply within_State_modRing | apply within_ite

theorem within_execDoorbell (bPages : S .pages) (bCores : S .cores) (bCrier : S .crier) (bHosts : S .hosts) (init :
    Nat) (core : Nat) (ctx : Nat) (value : Word) (behind : Bool) (s : State) (h_s : Within S z s) : ∀ t, (execDoorbell
    init core ctx value behind s) = .next t → Within S z t := by
  intro t h
  unfold execDoorbell at h
  cases h
  with_reducible repeat' first
      | intro _ | assumption | apply within_ringTail | apply within_ctlWrite

theorem within_dispatchTo (bFree : S .free) (bOut : S .out) (bMem : S .mem) (bBad : S .bad) (bSoftBad : S .softBad)
    (bHbmErr : S .hbmErr) (bBurstKey : S .burstKey) (bTags : S .tags) (bPages : S .pages) (bCores : S .cores) (bDies :
    S .dies) (bSched : S .sched) (bParts : S .parts) (bCrier : S .crier) (bLinks : S .links) (bFlash : S .flash) (s0 :
    State) (g : Nat) (c : CmdRec) (h_s0 : Within S z s0) : Within S z (dispatchTo s0 g c) := by
  unfold dispatchTo
  with_reducible repeat' first
      | assumption | apply within_closeGather | apply within_State_count | apply within_State_modRing
      | apply within_State_modCore | apply within_ite | split

theorem within_readFor (bSoftBad : S .softBad) (bPages : S .pages) (bDies : S .dies) (bCrier : S .crier) (bFlash : S
    .flash) (s : State) (w : Who) (ds : List (Nat × List Word)) (c : CmdRec) (h_s : Within S z s) : Within S z
    (readFor s w ds c) := by
  unfold readFor
  with_reducible repeat' first
      | assumption | apply within_readSpans | apply within_ite | apply within_ite_fst

theorem within_dispatchChecked (bFree : S .free) (bOut : S .out) (bMem : S .mem) (bBad : S .bad) (bSoftBad : S
    .softBad) (bHbmErr : S .hbmErr) (bBurstKey : S .burstKey) (bTags : S .tags) (bPages : S .pages) (bCores : S
    .cores) (bDies : S .dies) (bSched : S .sched) (bParts : S .parts) (bCrier : S .crier) (bLinks : S .links) (bFlash
    : S .flash) (s : State) (g : Nat) (c : CmdRec) (h_s : Within S z s) : Within S z (dispatchChecked s g c) := by
  unfold dispatchChecked
  with_reducible repeat' first
      | intro _ | assumption | apply within_readFor | apply within_dispatchTo | apply within_noteBanks
      | apply within_decodeChecked | apply within_failCmd | apply within_refuseCmd | apply within_completeCmd
      | apply within_raiseBadIn | apply within_ite | apply within_ite_fst | split | dsimp only

theorem within_fetchRecord (bFree : S .free) (bOut : S .out) (bMem : S .mem) (bBad : S .bad) (bSoftBad : S .softBad)
    (bHbmErr : S .hbmErr) (bBurstKey : S .burstKey) (bTags : S .tags) (bPages : S .pages) (bCores : S .cores) (bDies :
    S .dies) (bSched : S .sched) (bParts : S .parts) (bCrier : S .crier) (bLinks : S .links) (bFlash : S .flash) (s :
    State) (g : Nat) (x : Nat) (i : Nat) (key : Nat) (src : Option (Nat × Nat × Nat)) (took : State → State) (h_s :
    Within S z s) (h_took : ∀ x0, Within S z x0 → Within S z (took x0)) : Within S z (fetchRecord s g x i key src
    took) := by
  unfold fetchRecord
  with_reducible repeat' first
      | assumption | apply h_took | apply within_dispatchChecked | apply within_completeCmd | apply within_raiseBadIn
      | apply within_readSpans | apply within_State_modRing | apply within_ite | apply within_ite_fst | split

theorem within_execRecordFetch (bFree : S .free) (bOut : S .out) (bMem : S .mem) (bBad : S .bad) (bSoftBad : S
    .softBad) (bHbmErr : S .hbmErr) (bBurstKey : S .burstKey) (bTags : S .tags) (bPages : S .pages) (bCores : S
    .cores) (bDies : S .dies) (bSched : S .sched) (bParts : S .parts) (bCrier : S .crier) (bLinks : S .links) (bFlash
    : S .flash) (core : Nat) (ctx : Nat) (s : State) (h_s : Within S z s) : ∀ t, (execRecordFetch core ctx s) = .next
    t → Within S z t := by
  intro t h
  unfold execRecordFetch at h
  cases h
  with_reducible repeat' first
      | intro _ | assumption | apply within_ite | apply within_modEntry | apply within_fetchRecord | split
  assumption

theorem within_completeActing (bMem : S .mem) (bBad : S .bad) (bSoftBad : S .softBad) (bHbmErr : S .hbmErr) (bBurstKey
    : S .burstKey) (bPages : S .pages) (bCores : S .cores) (bDies : S .dies) (bSched : S .sched) (bParts : S .parts)
    (bCrier : S .crier) (bFlash : S .flash) (s : State) (g : Nat) (c : CmdRec) (e : Completion) (h_s : Within S z s) :
    Within S z (completeActing s g c e) := by
  unfold completeActing
  with_reducible repeat' first
      | assumption | apply within_completeCmd | apply within_State_modRing

theorem within_completeHold (bMem : S .mem) (bBad : S .bad) (bSoftBad : S .softBad) (bHbmErr : S .hbmErr) (bBurstKey :
    S .burstKey) (bPages : S .pages) (bCores : S .cores) (bDies : S .dies) (bSched : S .sched) (bParts : S .parts)
    (bCrier : S .crier) (bFlash : S .flash) (s : State) (g : Nat) (c : CmdRec) (e : Completion) (h_s : Within S z s) :
    Within S z (completeHold s g c e) := by
  unfold completeHold
  with_reducible repeat' first
      | assumption | apply within_completeCmd | apply within_State_modRing

theorem within_execNop (bMem : S .mem) (bBad : S .bad) (bSoftBad : S .softBad) (bHbmErr : S .hbmErr) (bBurstKey : S
    .burstKey) (bPages : S .pages) (bCores : S .cores) (bDies : S .dies) (bSched : S .sched) (bParts : S .parts)
    (bCrier : S .crier) (bFlash : S .flash) (core : Nat) (ctx : Nat) (s : State) (h_s : Within S z s) : ∀ t, (execNop
    core ctx s) = .next t → Within S z t := by
  intro t h
  unfold execNop at h
  cases h
  with_reducible repeat' first
      | assumption | apply within_completeActing | split

theorem within_execSignal (bMem : S .mem) (bBad : S .bad) (bSoftBad : S .softBad) (bHbmErr : S .hbmErr) (bBurstKey : S
    .burstKey) (bPages : S .pages) (bCores : S .cores) (bDies : S .dies) (bSched : S .sched) (bParts : S .parts)
    (bCrier : S .crier) (bFlash : S .flash) (core : Nat) (ctx : Nat) (s : State) (h_s : Within S z s) : ∀ t,
    (execSignal core ctx s) = .next t → Within S z t := by
  intro t h
  unfold execSignal at h
  cases h
  with_reducible repeat' first
      | assumption | apply within_completeActing | apply within_addSem | apply within_setSem | apply within_raiseBad
      | apply within_ite | apply within_ite_fst | split

theorem within_execWait (bMem : S .mem) (bBad : S .bad) (bSoftBad : S .softBad) (bHbmErr : S .hbmErr) (bBurstKey : S
    .burstKey) (bPages : S .pages) (bCores : S .cores) (bDies : S .dies) (bSched : S .sched) (bParts : S .parts)
    (bCrier : S .crier) (bFlash : S .flash) (core : Nat) (ctx : Nat) (s : State) (h_s : Within S z s) : ∀ t, (execWait
    core ctx s) = .next t → Within S z t := by
  intro t h
  unfold execWait at h
  cases h
  with_reducible repeat' first
      | intro _ | assumption | apply within_completeHold | apply within_raiseBad | apply within_ite | split
      | dsimp only

theorem within_execWaitTimeout (bMem : S .mem) (bBad : S .bad) (bSoftBad : S .softBad) (bHbmErr : S .hbmErr)
    (bBurstKey : S .burstKey) (bPages : S .pages) (bCores : S .cores) (bDies : S .dies) (bSched : S .sched) (bParts :
    S .parts) (bCrier : S .crier) (bFlash : S .flash) (core : Nat) (ctx : Nat) (s : State) (h_s : Within S z s) : ∀ t,
    (execWaitTimeout core ctx s) = .next t → Within S z t := by
  intro t h
  unfold execWaitTimeout at h
  cases h
  with_reducible repeat' first
      | assumption | apply within_completeHold | apply within_State_modRing | apply within_ite | split

theorem within_execFence (bMem : S .mem) (bBad : S .bad) (bSoftBad : S .softBad) (bHbmErr : S .hbmErr) (bBurstKey : S
    .burstKey) (bPages : S .pages) (bCores : S .cores) (bDies : S .dies) (bSched : S .sched) (bParts : S .parts)
    (bCrier : S .crier) (bFlash : S .flash) (core : Nat) (ctx : Nat) (s : State) (h_s : Within S z s) : ∀ t,
    (execFence core ctx s) = .next t → Within S z t := by
  intro t h
  unfold execFence at h
  cases h
  with_reducible repeat' first
      | assumption | apply within_completeHold | apply within_ite | split

theorem within_execBoundary (bFree : S .free) (bOut : S .out) (bMem : S .mem) (bBad : S .bad) (bSoftBad : S .softBad)
    (bHbmErr : S .hbmErr) (bBurstKey : S .burstKey) (bTags : S .tags) (bPages : S .pages) (bCores : S .cores) (bDies :
    S .dies) (bSched : S .sched) (bParts : S .parts) (bCrier : S .crier) (bLinks : S .links) (bFlash : S .flash) (core
    : Nat) (ctx : Nat) (s : State) (h_s : Within S z s) : ∀ t, (execBoundary core ctx s) = .next t → Within S z t :=
    by
  intro t h
  unfold execBoundary at h
  cases h
  with_reducible repeat' first
      | assumption | apply within_completeHold | apply within_closeGather | apply within_State_modRing
      | apply within_State_modPart | apply within_ite | split

theorem within_retryGather (bFree : S .free) (bOut : S .out) (bMem : S .mem) (bBad : S .bad) (bSoftBad : S .softBad)
    (bHbmErr : S .hbmErr) (bBurstKey : S .burstKey) (bTags : S .tags) (bPages : S .pages) (bCores : S .cores) (bDies :
    S .dies) (bSched : S .sched) (bParts : S .parts) (bCrier : S .crier) (bLinks : S .links) (bFlash : S .flash) (s :
    State) (g : Nat) (h_s : Within S z s) : Within S z (retryGather s g) := by
  unfold retryGather
  with_reducible repeat' first
      | assumption | apply within_issueGather | apply within_ite

theorem within_execTileResident (bFree : S .free) (bOut : S .out) (bMem : S .mem) (bBad : S .bad) (bSoftBad : S
    .softBad) (bHbmErr : S .hbmErr) (bBurstKey : S .burstKey) (bTags : S .tags) (bPages : S .pages) (bCores : S
    .cores) (bDies : S .dies) (bSched : S .sched) (bParts : S .parts) (bCrier : S .crier) (bLinks : S .links) (bFlash
    : S .flash) (core : Nat) (s : State) (h_s : Within S z s) : ∀ t, (execTileResident core s) = .next t → Within S z
    t := by
  intro t h
  unfold execTileResident at h
  cases h
  with_reducible repeat' first
      | assumption | apply within_retryGather | apply within_State_count | apply within_State_modCore | split

theorem within_execWritebackAck (bMem : S .mem) (bBad : S .bad) (bSoftBad : S .softBad) (bHbmErr : S .hbmErr)
    (bBurstKey : S .burstKey) (bPages : S .pages) (bCores : S .cores) (bDies : S .dies) (bSched : S .sched) (bParts :
    S .parts) (bCrier : S .crier) (bFlash : S .flash) (core : Nat) (queue : QueueId) (s : State) (h_s : Within S z s)
    : ∀ t, (execWritebackAck core queue s) = .next t → Within S z t := by
  intro t h
  unfold execWritebackAck at h
  cases h
  with_reducible repeat' first
      | assumption | apply within_completeCmd | apply within_State_modCore | apply within_ite | split

theorem within_ringRecord (bMem : S .mem) (bBad : S .bad) (bSoftBad : S .softBad) (bHbmErr : S .hbmErr) (bBurstKey : S
    .burstKey) (bPages : S .pages) (bDies : S .dies) (bCrier : S .crier) (bFlash : S .flash) (record : BitVec 512) (s
    : State) (k : Nat) (h_s : Within S z s) : Within S z (ringRecord record s k) := by
  unfold ringRecord
  with_reducible repeat' first
      | assumption | apply within_memStore | apply within_setEvent | apply within_State_setCrierRing
      | apply within_ite

theorem within_serviceTrap (bPages : S .pages) (bDies : S .dies) (bCrier : S .crier) (record : BitVec 512) (s : State)
    (h_s : Within S z s) : Within S z (serviceTrap record s) := by
  unfold serviceTrap
  with_reducible repeat' first
      | assumption | apply within_setEvent | apply within_setDieCtlOf | apply within_ite

theorem within_execTrapRecord (bMem : S .mem) (bBad : S .bad) (bSoftBad : S .softBad) (bHbmErr : S .hbmErr) (bBurstKey
    : S .burstKey) (bPages : S .pages) (bDies : S .dies) (bCrier : S .crier) (bFlash : S .flash) (s : State) (h_s :
    Within S z s) : ∀ t, (execTrapRecord s) = .next t → Within S z t := by
  intro t h
  unfold execTrapRecord at h
  cases h
  with_reducible repeat' first
      | intro _ | assumption | exact .inl rfl | exact .inr (by assumption) | exact formed_refl _
      | exact fusesKept_refl _ | apply within_serviceTrap | apply within_ringRecord | apply within_State_count
      | apply within_foldl | (simp only [within_mk]; apply within_upd rfl) | split

theorem within_dropShadow (bPages : S .pages) (s : State) (pn : Nat) (off : Nat) (h_s : Within S z s) : Within S z
    (dropShadow s pn off) := by
  unfold dropShadow
  with_reducible repeat' first
      | assumption | apply within_State_modPage

theorem within_latchIn (bPages : S .pages) (s : State) (pn : Nat) (off : Nat) (w : Word) (h_s : Within S z s) : Within
    S z (latchIn s pn off w) := by
  unfold latchIn
  with_reducible repeat' first
      | assumption | apply within_dropShadow | apply within_State_setReg

theorem within_applyWord (bPages : S .pages) (s : State) (e : Nat × Nat) (h_s : Within S z s) : Within S z (applyWord
    s e) := by
  unfold applyWord
  with_reducible repeat' first
      | assumption | apply within_latchIn | split

theorem within_applyTithe (bPages : S .pages) (bParts : S .parts) (s : State) (p : Nat) (h_s : Within S z s) : Within
    S z (applyTithe s p) := by
  unfold applyTithe
  with_reducible repeat' first
      | intro _ | assumption | apply within_latchIn | apply within_recordLatchRefusal | apply within_State_modPart
      | apply within_ite | split | dsimp only

theorem within_applyAddress (bPages : S .pages) (bCrier : S .crier) (s : State) (off : Nat) (valid : Nat → Bool) (h_s
    : Within S z s) : Within S z (applyAddress s off valid) := by
  unfold applyAddress
  with_reducible repeat' first
      | assumption | apply within_applyWord | apply within_dropShadow | apply within_recordLatchRefusal
      | apply within_setEvent | apply within_ite

theorem within_applyRot (bPages : S .pages) (bCores : S .cores) (s : State) (g : Nat) (h_s : Within S z s) : Within S
    z (applyRot s g) := by
  unfold applyRot
  with_reducible repeat' first
      | assumption | apply within_applyWord | apply within_latchIn | apply within_dropShadow
      | apply within_recordLatchRefusal | apply within_State_modCore | apply within_ite | split

theorem within_applyBoundary (bPages : S .pages) (bCores : S .cores) (bParts : S .parts) (bCrier : S .crier) (s :
    State) (p : Option Nat) (dev : Bool) (h_s : Within S z s) : Within S z (applyBoundary s p dev) := by
  unfold applyBoundary
  with_reducible repeat' first
      | intro _ | assumption | apply within_applyRot | apply within_applyAddress | apply within_applyTithe
      | apply within_applyWord | apply within_ite | apply within_ite_fst | apply within_foldl
      | apply within_foldl_fst

theorem within_clearFailed (bParts : S .parts) (s : State) (p : Nat) (h_s : Within S z s) : Within S z (clearFailed s
    p) := by
  unfold clearFailed
  with_reducible repeat' first
      | intro _ | assumption | apply within_State_modPart | apply within_foldl

theorem within_clearReleased (bParts : S .parts) (s : State) (p : Nat) (h_s : Within S z s) : Within S z
    (clearReleased s p) := by
  unfold clearReleased
  with_reducible repeat' first
      | assumption | apply within_modSealed

theorem within_releaseRings (bCores : S .cores) (s : State) (p : Nat) (here : Long → Bool) (h_s : Within S z s) :
    Within S z (releaseRings s p here) := by
  unfold releaseRings
  with_reducible repeat' first
      | intro _ | assumption | apply within_State_modCore | apply within_ite | apply within_ite_fst
      | apply within_foldl | apply within_foldl_fst | split

theorem within_partitionBoundary (bPages : S .pages) (bCores : S .cores) (bParts : S .parts) (bCrier : S .crier) (s :
    State) (p : Nat) (h_s : Within S z s) : Within S z (partitionBoundary s p) := by
  unfold partitionBoundary
  with_reducible repeat' first
      | assumption | apply within_clearReleased | apply within_clearFailed | apply within_applyBoundary
      | apply within_ite

theorem within_execPartitionBoundary (bPages : S .pages) (bCores : S .cores) (bParts : S .parts) (bCrier : S .crier)
    (part : Nat) (s : State) (h_s : Within S z s) : ∀ t, (execPartitionBoundary part s) = .next t → Within S z t := by
  intro t h
  unfold execPartitionBoundary at h
  cases h
  with_reducible repeat' first
      | assumption | apply within_partitionBoundary | apply within_releaseRings | apply within_State_modPart
      | apply within_ite | split

theorem within_jobBoundary (bPages : S .pages) (bCores : S .cores) (bParts : S .parts) (bCrier : S .crier) (s : State)
    (init : Nat) (p : Nat) (value : Nat) (h_s : Within S z s) : Within S z (jobBoundary s init p value) := by
  unfold jobBoundary
  with_reducible repeat' first
      | assumption | apply within_partitionBoundary | apply within_ignoreWrite | apply within_ite

theorem within_execJobCmdBoundary (bPages : S .pages) (bCores : S .cores) (bParts : S .parts) (bCrier : S .crier)
    (bHosts : S .hosts) (init : Sender) (part : Nat) (s : State) (h_s : Within S z s) : ∀ t, (execJobCmdBoundary init
    part s) = .next t → Within S z t := by
  intro t h
  unfold execJobCmdBoundary at h
  cases h
  with_reducible repeat' first
      | intro _ | assumption | apply within_jobBoundary | apply within_ctlWrite

theorem within_copyMapWord (bMem : S .mem) (bBad : S .bad) (bSoftBad : S .softBad) (bHbmErr : S .hbmErr) (bBurstKey :
    S .burstKey) (bPages : S .pages) (bDies : S .dies) (bCrier : S .crier) (bFlash : S .flash) (acc : State × Option
    Nat) (i : Nat) (h_acc : Within S z acc.1) : Within S z (copyMapWord acc i).1 := by
  unfold copyMapWord
  with_reducible repeat' first
      | intro _ | assumption | apply within_memStore | apply within_correctSpan | apply within_ite
      | apply within_ite_fst | split | dsimp only

theorem within_copyMap (bMem : S .mem) (bBad : S .bad) (bSoftBad : S .softBad) (bHbmErr : S .hbmErr) (bBurstKey : S
    .burstKey) (bPages : S .pages) (bDies : S .dies) (bCrier : S .crier) (bFlash : S .flash) (s : State) (h_s : Within
    S z s) : Within S z (copyMap s).1 := by
  have hr : Within S z ((List.range 1024).foldl copyMapWord (s, none)).1 := by
    with_reducible repeat' first
      | intro _ | assumption | apply within_copyMapWord | apply within_foldl_fst
  unfold copyMap
  generalize (List.range 1024).foldl copyMapWord (s, none) = r at hr ⊢
  obtain ⟨t, o⟩ := r
  cases o with
  | none => exact hr
  | some u =>
    with_reducible repeat' first
      | assumption | apply within_schedBad

theorem within_suspendTraining (bParts : S .parts) (s : State) (h_s : Within S z s) : Within S z (suspendTraining s)
    := by
  unfold suspendTraining
  with_reducible repeat' first
      | intro _ | assumption | apply within_State_modCtx | apply within_ite | apply within_foldl | split

theorem within_decideToll (bPages : S .pages) (bSched : S .sched) (bParts : S .parts) (bCrier : S .crier) (s : State)
    (h_s : Within S z s) : Within S z (decideToll s) := by
  unfold decideToll
  with_reducible repeat' first
      | intro _ | assumption | exact .inl rfl | exact .inr (by assumption) | exact formed_refl _
      | exact fusesKept_refl _ | apply within_suspendTraining | apply within_setEvent | apply within_State_count
      | apply within_ite | (simp only [within_mk]; apply within_upd rfl) | split

theorem within_clearToll (bSched : S .sched) (s : State) (h_s : Within S z s) : Within S z (clearToll s) := by
  unfold clearToll
  with_reducible repeat' first
      | intro _ | assumption | exact .inl rfl | exact .inr (by assumption) | exact formed_refl _
      | exact fusesKept_refl _ | (simp only [within_mk]; apply within_upd rfl)

theorem within_endTollEntry (bMem : S .mem) (bBad : S .bad) (bSoftBad : S .softBad) (bHbmErr : S .hbmErr) (bBurstKey :
    S .burstKey) (bPages : S .pages) (bDies : S .dies) (bSched : S .sched) (bParts : S .parts) (bCrier : S .crier)
    (bFlash : S .flash) (s : State) (boundary : Nat) (h_s : Within S z s) : Within S z (endTollEntry s boundary) := by
  unfold endTollEntry
  with_reducible repeat' first
      | assumption | apply within_noteMiss | apply within_finishEntry | apply within_ite | apply within_ite_fst
      | split

theorem within_beginStep (bParts : S .parts) (s : State) (late : List (Nat × Nat)) (mapBad : Bool) (h_s : Within S z
    s) : Within S z (beginStep s late mapBad) := by
  unfold beginStep
  with_reducible repeat' first
      | intro _ | assumption | apply within_clearFailed | apply within_State_modCtx | apply within_ite
      | apply within_ite_fst | apply within_foldl | apply within_foldl_fst | split

theorem within_closeGathers (bFree : S .free) (bOut : S .out) (bMem : S .mem) (bBad : S .bad) (bSoftBad : S .softBad)
    (bHbmErr : S .hbmErr) (bBurstKey : S .burstKey) (bTags : S .tags) (bPages : S .pages) (bCores : S .cores) (bDies :
    S .dies) (bSched : S .sched) (bParts : S .parts) (bCrier : S .crier) (bLinks : S .links) (bFlash : S .flash) (s :
    State) (p : Nat) (h_s : Within S z s) : Within S z (closeGathers s p) := by
  unfold closeGathers
  with_reducible repeat' first
      | intro _ | assumption | apply within_closeGather | apply within_foldl

theorem within_retime (bBell : S .bell) (s : State) (h_s : Within S z s) : Within S z (retime s) := by
  unfold retime
  with_reducible repeat' first
      | intro _ | assumption | exact .inl rfl | exact .inr (by assumption) | exact formed_refl _
      | exact fusesKept_refl _ | apply within_ite | (simp only [within_mk]; apply within_upd rfl)

theorem within_stepBoundary (bFree : S .free) (bOut : S .out) (bMem : S .mem) (bBad : S .bad) (bSoftBad : S .softBad)
    (bHbmErr : S .hbmErr) (bBurstKey : S .burstKey) (bTags : S .tags) (bPages : S .pages) (bCores : S .cores) (bDies :
    S .dies) (bBell : S .bell) (bSched : S .sched) (bParts : S .parts) (bCrier : S .crier) (bLinks : S .links) (bFlash
    : S .flash) (s : State) (d : Nat) (k : Nat) (pos : Nat) (time : Nat) (h_s : Within S z s) : Within S z
    (stepBoundary s d k pos time) := by
  unfold stepBoundary
  with_reducible repeat' first
      | intro _ | assumption | apply within_retime | apply within_closeGathers | apply within_beginStep
      | apply within_endTollEntry | apply within_clearToll | apply within_decideToll | apply within_copyMap
      | apply within_releaseRings | apply within_clearReleased | apply within_applyBoundary
      | apply within_evalSchedule | apply within_fire | apply within_finishEntry | apply within_State_modDie
      | apply within_ite | apply within_ite_fst | apply within_foldl | apply within_foldl_fst | apply within_elim
      | split | dsimp only

theorem within_execStepBoundary (bFree : S .free) (bOut : S .out) (bMem : S .mem) (bBad : S .bad) (bSoftBad : S
    .softBad) (bHbmErr : S .hbmErr) (bBurstKey : S .burstKey) (bTags : S .tags) (bPages : S .pages) (bCores : S
    .cores) (bDies : S .dies) (bBell : S .bell) (bSched : S .sched) (bParts : S .parts) (bCrier : S .crier) (bLinks :
    S .links) (bFlash : S .flash) (s : State) (h_s : Within S z s) : ∀ t, (execStepBoundary s) = .next t → Within S z
    t := by
  intro t h
  unfold execStepBoundary at h
  cases h
  with_reducible repeat' first
      | assumption | apply within_stepBoundary | apply within_ite | apply within_ite_fst | split

theorem within_sendToll (bOut : S .out) (bPages : S .pages) (bLinks : S .links) (s : State) (p : Nat) (j : Job) (rank
    : Nat) (op : MsgOp) (bs : List Byte) (h_s : Within S z s) : Within S z (sendToll s p j rank op bs) := by
  unfold sendToll
  with_reducible repeat' first
      | intro _ | assumption
      | (refine within_sendMsg (by assumption) (by assumption) (by assumption) _ _ _ _ _ ?_ _ (by assumption))
      | apply within_sendGetD | apply within_ite | split | dsimp only

theorem within_holdResult (bOut : S .out) (bMem : S .mem) (bBad : S .bad) (bSoftBad : S .softBad) (bHbmErr : S
    .hbmErr) (bBurstKey : S .burstKey) (bPages : S .pages) (bDies : S .dies) (bSched : S .sched) (bParts : S .parts)
    (bCrier : S .crier) (bLinks : S .links) (bFlash : S .flash) (s : State) (p : Nat) (j : Job) (r : TollResult) (h_s
    : Within S z s) : Within S z (holdResult s p j r) := by
  unfold holdResult
  with_reducible repeat' first
      | intro _ | assumption | exact .inl rfl | exact .inr (by assumption) | exact formed_refl _
      | exact fusesKept_refl _ | apply within_sendToll | apply within_finishEntry | apply within_ite
      | apply within_ite_fst | apply within_foldl | apply within_foldl_fst
      | (simp only [within_mk]; apply within_upd rfl) | split | dsimp only

theorem within_passUp (bOut : S .out) (bMem : S .mem) (bBad : S .bad) (bSoftBad : S .softBad) (bHbmErr : S .hbmErr)
    (bBurstKey : S .burstKey) (bPages : S .pages) (bDies : S .dies) (bSched : S .sched) (bParts : S .parts) (bCrier :
    S .crier) (bLinks : S .links) (bFlash : S .flash) (s : State) (p : Nat) (j : Job) (v : Vote) (h_s : Within S z s)
    : Within S z (passUp s p j v) := by
  unfold passUp
  with_reducible repeat' first
      | assumption | apply within_holdResult | apply within_sendToll | apply within_ite

theorem within_combineLevel (bOut : S .out) (bMem : S .mem) (bBad : S .bad) (bSoftBad : S .softBad) (bHbmErr : S
    .hbmErr) (bBurstKey : S .burstKey) (bPages : S .pages) (bDies : S .dies) (bSched : S .sched) (bParts : S .parts)
    (bCrier : S .crier) (bLinks : S .links) (bFlash : S .flash) (s : State) (p : Nat) (j : Job) (v : Vote) (level :
    Nat) (h_s : Within S z s) : Within S z (combineLevel s p j v level) := by
  unfold combineLevel
  with_reducible repeat' first
      | intro _ | assumption | exact .inl rfl | exact .inr (by assumption) | exact formed_refl _
      | exact fusesKept_refl _ | apply within_passUp | apply within_State_count | apply within_ite
      | apply within_ite_fst | (simp only [within_mk]; apply within_upd rfl) | split

theorem within_advanceToll (bOut : S .out) (bMem : S .mem) (bBad : S .bad) (bSoftBad : S .softBad) (bHbmErr : S
    .hbmErr) (bBurstKey : S .burstKey) (bPages : S .pages) (bDies : S .dies) (bSched : S .sched) (bParts : S .parts)
    (bCrier : S .crier) (bLinks : S .links) (bFlash : S .flash) (p : Nat) (j : Job) (a : Nat) (z3 : State) (h_z3 :
    Within S z z3) : Within S z (advanceToll p j a z3) := by
  induction a generalizing z3 with
  | zero =>
    unfold advanceToll
    with_reducible repeat' first
        | assumption | apply within_combineLevel | apply within_ite | apply within_ite_fst | split
  | succ n ih =>
    unfold advanceToll
    with_reducible repeat' first
        | assumption | apply ih | apply within_combineLevel | apply within_ite | apply within_ite_fst | split

theorem within_execToll (bOut : S .out) (bMem : S .mem) (bBad : S .bad) (bSoftBad : S .softBad) (bHbmErr : S .hbmErr)
    (bBurstKey : S .burstKey) (bPages : S .pages) (bDies : S .dies) (bSched : S .sched) (bParts : S .parts) (bCrier :
    S .crier) (bLinks : S .links) (bFlash : S .flash) (die : Nat) (ring : Nat) (s : State) (h_s : Within S z s) : ∀ t,
    (execToll die ring s) = .next t → Within S z t := by
  intro t h
  unfold execToll at h
  cases h
  with_reducible repeat' first
      | intro _ | assumption | exact .inl rfl | exact .inr (by assumption) | exact formed_refl _
      | exact fusesKept_refl _ | apply within_advanceToll | apply within_passUp | apply within_fire
      | apply within_ite | apply within_ite_fst | (simp only [within_mk]; apply within_upd rfl) | split

theorem within_execTollLevelDeadline (bOut : S .out) (bMem : S .mem) (bBad : S .bad) (bSoftBad : S .softBad) (bHbmErr
    : S .hbmErr) (bBurstKey : S .burstKey) (bPages : S .pages) (bDies : S .dies) (bSched : S .sched) (bParts : S
    .parts) (bCrier : S .crier) (bLinks : S .links) (bFlash : S .flash) (level : Nat) (s : State) (h_s : Within S z s)
    : ∀ t, (execTollLevelDeadline level s) = .next t → Within S z t := by
  intro t h
  unfold execTollLevelDeadline at h
  cases h
  with_reducible repeat' first
      | assumption | apply within_combineLevel | apply within_ite | apply within_ite_fst | split

theorem within_arriveVote (bOut : S .out) (bMem : S .mem) (bBad : S .bad) (bSoftBad : S .softBad) (bHbmErr : S
    .hbmErr) (bBurstKey : S .burstKey) (bPages : S .pages) (bDies : S .dies) (bSched : S .sched) (bParts : S .parts)
    (bCrier : S .crier) (bLinks : S .links) (bFlash : S .flash) (s : State) (rank : Nat) (v : Vote) (h_s : Within S z
    s) : Within S z (arriveVote s rank v) := by
  unfold arriveVote
  with_reducible repeat' first
      | intro _ | assumption | exact .inl rfl | exact .inr (by assumption) | exact formed_refl _
      | exact fusesKept_refl _ | apply within_advanceToll | apply within_ite | apply within_ite_fst
      | (simp only [within_mk]; apply within_upd rfl) | split

theorem within_arriveResult (bOut : S .out) (bMem : S .mem) (bBad : S .bad) (bSoftBad : S .softBad) (bHbmErr : S
    .hbmErr) (bBurstKey : S .burstKey) (bPages : S .pages) (bDies : S .dies) (bSched : S .sched) (bParts : S .parts)
    (bCrier : S .crier) (bLinks : S .links) (bFlash : S .flash) (s : State) (r : TollResult) (h_s : Within S z s) :
    Within S z (arriveResult s r) := by
  unfold arriveResult
  with_reducible repeat' first
      | assumption | apply within_holdResult | apply within_ite | apply within_ite_fst | split

theorem within_almTail (bMem : S .mem) (bBad : S .bad) (bSoftBad : S .softBad) (bHbmErr : S .hbmErr) (bBurstKey : S
    .burstKey) (bPages : S .pages) (bDies : S .dies) (bSched : S .sched) (bParts : S .parts) (bCrier : S .crier)
    (bFlash : S .flash) (s : State) (init : Nat) (d : Nat) (k : Nat) (value : Nat) (h_s : Within S z s) : Within S z
    (almTail s init d k value) := by
  unfold almTail
  with_reducible repeat' first
      | assumption | apply within_settleRing | apply within_ignoreWrite | apply within_State_modDie
      | apply within_ite

theorem within_execAlmanacTailWrite (bMem : S .mem) (bBad : S .bad) (bSoftBad : S .softBad) (bHbmErr : S .hbmErr)
    (bBurstKey : S .burstKey) (bPages : S .pages) (bDies : S .dies) (bSched : S .sched) (bParts : S .parts) (bCrier :
    S .crier) (bFlash : S .flash) (bHosts : S .hosts) (init : Sender) (die : Nat) (ring : Nat) (value : Word) (s :
    State) (h_s : Within S z s) : ∀ t, (execAlmanacTailWrite init die ring value s) = .next t → Within S z t := by
  intro t h
  unfold execAlmanacTailWrite at h
  cases h
  with_reducible repeat' first
      | intro _ | assumption | apply within_almTail | apply within_ctlWrite

theorem within_stopTransfer (bLinks : S .links) (s : State) (d : Nat) (k : Nat) (pos : Nat) (h_s : Within S z s) :
    Within S z (stopTransfer s d k pos) := by
  unfold stopTransfer
  with_reducible repeat' first
      | intro _ | assumption | exact .inl rfl | exact .inr (by assumption) | exact formed_refl _
      | exact fusesKept_refl _ | apply within_ite | apply within_ite_fst
      | (simp only [within_mk]; apply within_upd rfl)

theorem within_startCopy (bOut : S .out) (bMem : S .mem) (bBad : S .bad) (bSoftBad : S .softBad) (bHbmErr : S .hbmErr)
    (bBurstKey : S .burstKey) (bPages : S .pages) (bDies : S .dies) (bSched : S .sched) (bParts : S .parts) (bCrier :
    S .crier) (bLinks : S .links) (bFlash : S .flash) (s : State) (d : Nat) (k : Nat) (e : Entry) (source : Nat) (h_s
    : Within S z s) : Within S z (startCopy s d k e source) := by
  unfold startCopy
  with_reducible repeat' first
      | assumption | apply within_stopTransfer | apply within_failEntry | apply within_sendReads | apply within_ite
      | apply within_ite_fst

theorem within_failEntryBad (bMem : S .mem) (bBad : S .bad) (bSoftBad : S .softBad) (bHbmErr : S .hbmErr) (bBurstKey :
    S .burstKey) (bPages : S .pages) (bDies : S .dies) (bSched : S .sched) (bParts : S .parts) (bCrier : S .crier)
    (bFlash : S .flash) (s : State) (d : Nat) (k : Nat) (u : Nat) (e : Entry) (h_s : Within S z s) : Within S z
    (failEntryBad s d k u e) := by
  unfold failEntryBad
  with_reducible repeat' first
      | assumption | apply within_settleRing | apply within_badEntry

theorem within_refuseEntry (bMem : S .mem) (bBad : S .bad) (bSoftBad : S .softBad) (bHbmErr : S .hbmErr) (bBurstKey :
    S .burstKey) (bPages : S .pages) (bDies : S .dies) (bSched : S .sched) (bParts : S .parts) (bCrier : S .crier)
    (bFlash : S .flash) (s : State) (d : Nat) (k : Nat) (reason : Nat) (e : Entry) (h_s : Within S z s) : Within S z
    (refuseEntry s d k reason e) := by
  unfold refuseEntry
  with_reducible repeat' first
      | assumption | apply within_settleRing | apply within_refusedEntry

theorem within_putCopy (bOut : S .out) (bMem : S .mem) (bBad : S .bad) (bSoftBad : S .softBad) (bHbmErr : S .hbmErr)
    (bBurstKey : S .burstKey) (bTags : S .tags) (bPages : S .pages) (bDies : S .dies) (bSched : S .sched) (bParts : S
    .parts) (bCrier : S .crier) (bLinks : S .links) (bFlash : S .flash) (s : State) (d : Nat) (k : Nat) (e : Entry)
    (bs : List Byte) (h_s : Within S z s) : Within S z (putCopy s d k e bs) := by
  unfold putCopy
  with_reducible repeat' first
      | intro _ | assumption | apply within_failEntryBad | apply within_stopTransfer | apply within_failEntry
      | apply within_finishEntry | apply within_modEntry | apply within_sendWrites | apply within_setTags
      | apply within_memStores | apply within_ite | apply within_ite_fst | split | dsimp only

theorem within_runCopy (bOut : S .out) (bMem : S .mem) (bBad : S .bad) (bSoftBad : S .softBad) (bHbmErr : S .hbmErr)
    (bBurstKey : S .burstKey) (bTags : S .tags) (bPages : S .pages) (bDies : S .dies) (bSched : S .sched) (bParts : S
    .parts) (bCrier : S .crier) (bLinks : S .links) (bFlash : S .flash) (s : State) (d : Nat) (k : Nat) (e : Entry)
    (source : Nat) (h_s : Within S z s) : Within S z (runCopy s d k e source) := by
  unfold runCopy
  with_reducible repeat' first
      | assumption | apply within_putCopy | apply within_failEntryBad | apply within_finishEntry
      | apply within_noteOthers | apply within_readSpans | apply within_memWrite | apply within_ite
      | apply within_ite_fst | split

theorem within_execPrefetch (bOut : S .out) (bMem : S .mem) (bBad : S .bad) (bSoftBad : S .softBad) (bHbmErr : S
    .hbmErr) (bBurstKey : S .burstKey) (bPages : S .pages) (bDies : S .dies) (bSched : S .sched) (bParts : S .parts)
    (bCrier : S .crier) (bLinks : S .links) (bFlash : S .flash) (die : Nat) (ring : Nat) (s : State) (h_s : Within S z
    s) : ∀ t, (execPrefetch die ring s) = .next t → Within S z t := by
  intro t h
  unfold execPrefetch at h
  cases h
  with_reducible repeat' first
      | assumption | apply within_startCopy | apply within_fire | split

theorem within_execCheckpoint (bOut : S .out) (bMem : S .mem) (bBad : S .bad) (bSoftBad : S .softBad) (bHbmErr : S
    .hbmErr) (bBurstKey : S .burstKey) (bPages : S .pages) (bDies : S .dies) (bSched : S .sched) (bParts : S .parts)
    (bCrier : S .crier) (bLinks : S .links) (bFlash : S .flash) (die : Nat) (ring : Nat) (s : State) (h_s : Within S z
    s) : ∀ t, (execCheckpoint die ring s) = .next t → Within S z t := by
  intro t h
  unfold execCheckpoint at h
  cases h
  with_reducible repeat' first
      | assumption | apply within_startCopy | apply within_fire | apply within_finishEntry | apply within_State_count
      | apply within_ite | split

theorem within_execWake (bOut : S .out) (bMem : S .mem) (bBad : S .bad) (bSoftBad : S .softBad) (bHbmErr : S .hbmErr)
    (bBurstKey : S .burstKey) (bPages : S .pages) (bDies : S .dies) (bSched : S .sched) (bParts : S .parts) (bCrier :
    S .crier) (bFlash : S .flash) (die : Nat) (ring : Nat) (s : State) (h_s : Within S z s) : ∀ t, (execWake die ring
    s) = .next t → Within S z t := by
  intro t h
  unfold execWake at h
  cases h
  with_reducible repeat' first
      | assumption | apply within_fire | apply within_finishEntry | apply within_State_emit | split

theorem within_execBoundaryArm (bPages : S .pages) (bDies : S .dies) (bCrier : S .crier) (die : Nat) (ring : Nat) (s :
    State) (h_s : Within S z s) : ∀ t, (execBoundaryArm die ring s) = .next t → Within S z t := by
  intro t h
  unfold execBoundaryArm at h
  cases h
  with_reducible repeat' first
      | assumption | apply within_noteMiss | apply within_setEvent | apply within_State_modDie | apply within_ite
      | apply within_ite_fst | split

theorem within_execEvalWindow (bPages : S .pages) (bDies : S .dies) (bParts : S .parts) (die : Nat) (ring : Nat) (s :
    State) (h_s : Within S z s) : ∀ t, (execEvalWindow die ring s) = .next t → Within S z t := by
  intro t h
  unfold execEvalWindow at h
  cases h
  with_reducible repeat' first
      | assumption | apply within_fire | apply within_State_modCtx | split

theorem within_closeWindow (bParts : S .parts) (s : State) (p : Nat) (x : Nat) (entry : Nat × Nat × Nat) (h_s : Within
    S z s) : Within S z (closeWindow s p x entry) := by
  unfold closeWindow
  with_reducible repeat' first
      | assumption | apply within_State_modCtx | apply within_ite | apply within_ite_fst

theorem within_execEvalWindowClose (bMem : S .mem) (bBad : S .bad) (bSoftBad : S .softBad) (bHbmErr : S .hbmErr)
    (bBurstKey : S .burstKey) (bPages : S .pages) (bDies : S .dies) (bSched : S .sched) (bParts : S .parts) (bCrier :
    S .crier) (bFlash : S .flash) (die : Nat) (ring : Nat) (s : State) (h_s : Within S z s) : ∀ t,
    (execEvalWindowClose die ring s) = .next t → Within S z t := by
  intro t h
  unfold execEvalWindowClose at h
  cases h
  with_reducible repeat' first
      | assumption | apply within_closeWindow | apply within_finishEntry | split

theorem within_execRetrainWindow (bSoftBad : S .softBad) (bHbmErr : S .hbmErr) (bPages : S .pages) (bDies : S .dies)
    (bCrier : S .crier) (bFlash : S .flash) (die : Nat) (ring : Nat) (s : State) (h_s : Within S z s) : ∀ t,
    (execRetrainWindow die ring s) = .next t → Within S z t := by
  intro t h
  unfold execRetrainWindow at h
  cases h
  with_reducible repeat' first
      | assumption | apply within_openMaintenance | apply within_fire | apply within_State_modDie | split

theorem within_execRetrainWindowClose (bMem : S .mem) (bBad : S .bad) (bSoftBad : S .softBad) (bHbmErr : S .hbmErr)
    (bBurstKey : S .burstKey) (bPages : S .pages) (bDies : S .dies) (bSched : S .sched) (bParts : S .parts) (bCrier :
    S .crier) (bFlash : S .flash) (die : Nat) (ring : Nat) (s : State) (h_s : Within S z s) : ∀ t,
    (execRetrainWindowClose die ring s) = .next t → Within S z t := by
  intro t h
  unfold execRetrainWindowClose at h
  cases h
  with_reducible repeat' first
      | assumption | apply within_finishEntry | apply within_State_modDie | split

theorem within_endRecompute (bMem : S .mem) (bBad : S .bad) (bSoftBad : S .softBad) (bHbmErr : S .hbmErr) (bBurstKey :
    S .burstKey) (bPages : S .pages) (bDies : S .dies) (bSched : S .sched) (bParts : S .parts) (bCrier : S .crier)
    (bFlash : S .flash) (s : State) (d : Nat) (k : Nat) (e : Entry) (h_s : Within S z s) : Within S z (endRecompute s
    d k e) := by
  unfold endRecompute
  with_reducible repeat' first
      | assumption | apply within_failEntry | apply within_finishEntry | apply within_ite | apply within_ite_fst

theorem within_execEntryComplete (bOut : S .out) (bMem : S .mem) (bBad : S .bad) (bSoftBad : S .softBad) (bHbmErr : S
    .hbmErr) (bBurstKey : S .burstKey) (bTags : S .tags) (bPages : S .pages) (bDies : S .dies) (bSched : S .sched)
    (bParts : S .parts) (bCrier : S .crier) (bLinks : S .links) (bFlash : S .flash) (die : Nat) (ring : Nat) (pos :
    Nat) (ok : Bool) (s : State) (h_s : Within S z s) : ∀ t, (execEntryComplete die ring pos ok s) = .next t → Within
    S z t := by
  intro t h
  unfold execEntryComplete at h
  cases h
  with_reducible repeat' first
      | assumption | apply within_endRecompute | apply within_runCopy | apply within_stopTransfer
      | apply within_failEntry | apply within_ite | split

theorem within_runFallback (bOut : S .out) (bMem : S .mem) (bBad : S .bad) (bSoftBad : S .softBad) (bHbmErr : S
    .hbmErr) (bBurstKey : S .burstKey) (bPages : S .pages) (bDies : S .dies) (bSched : S .sched) (bParts : S .parts)
    (bCrier : S .crier) (bLinks : S .links) (bFlash : S .flash) (s : State) (d : Nat) (k : Nat) (e : Entry) (h_s :
    Within S z s) : Within S z (runFallback s d k e) := by
  unfold runFallback
  with_reducible repeat' first
      | assumption | apply within_refuseEntry | apply within_failEntryBad | apply within_startCopy
      | apply within_modEntry | apply within_noteOthers | apply within_readSpans | apply within_State_count
      | apply within_ite | apply within_ite_fst | split

theorem within_missDeadline (bOut : S .out) (bMem : S .mem) (bBad : S .bad) (bSoftBad : S .softBad) (bHbmErr : S
    .hbmErr) (bBurstKey : S .burstKey) (bPages : S .pages) (bDies : S .dies) (bSched : S .sched) (bParts : S .parts)
    (bCrier : S .crier) (bLinks : S .links) (bFlash : S .flash) (s : State) (d : Nat) (k : Nat) (e : Entry) (h_s :
    Within S z s) : Within S z (missDeadline s d k e) := by
  unfold missDeadline
  with_reducible repeat' first
      | assumption | apply within_runFallback | apply within_stopTransfer | apply within_noteMiss
      | apply within_countWait | apply within_finishEntry | apply within_modEntry | apply within_State_count
      | apply within_ite

theorem within_execDeadlineMiss (bOut : S .out) (bMem : S .mem) (bBad : S .bad) (bSoftBad : S .softBad) (bHbmErr : S
    .hbmErr) (bBurstKey : S .burstKey) (bPages : S .pages) (bDies : S .dies) (bSched : S .sched) (bParts : S .parts)
    (bCrier : S .crier) (bLinks : S .links) (bFlash : S .flash) (die : Nat) (ring : Nat) (pos : Nat) (s : State) (h_s
    : Within S z s) : ∀ t, (execDeadlineMiss die ring pos s) = .next t → Within S z t := by
  intro t h
  unfold execDeadlineMiss at h
  cases h
  with_reducible repeat' first
      | assumption | apply within_missDeadline | apply within_ite | split

theorem within_execWaitLimitExpiry (bMem : S .mem) (bBad : S .bad) (bSoftBad : S .softBad) (bHbmErr : S .hbmErr)
    (bBurstKey : S .burstKey) (bPages : S .pages) (bDies : S .dies) (bSched : S .sched) (bParts : S .parts) (bCrier :
    S .crier) (bLinks : S .links) (bFlash : S .flash) (die : Nat) (ring : Nat) (pos : Nat) (s : State) (h_s : Within S
    z s) : ∀ t, (execWaitLimitExpiry die ring pos s) = .next t → Within S z t := by
  intro t h
  unfold execWaitLimitExpiry at h
  cases h
  with_reducible repeat' first
      | assumption | apply within_stopTransfer | apply within_countWait | apply within_failEntry | apply within_ite
      | split

theorem within_sendBells (bOut : S .out) (bPages : S .pages) (bLinks : S .links) (s : State) (h_s : Within S z s) :
    Within S z (sendBells s) := by
  unfold sendBells
  with_reducible repeat' first
      | intro _ | assumption | apply within_State_count | apply within_State_emit | apply within_State_modHalf
      | apply within_foldl

theorem within_tickWaits (bCores : S .cores) (s : State) (h_s : Within S z s) : Within S z (tickWaits s) := by
  unfold tickWaits
  with_reducible repeat' first
      | intro _ | assumption | exact .inl rfl | exact .inr (by assumption) | exact formed_refl _
      | exact fusesKept_refl _ | apply within_ite | apply within_ite_fst
      | (simp only [within_mk]; apply within_upd rfl) | split

theorem within_tickHolds (bPages : S .pages) (s : State) (h_s : Within S z s) : Within S z (tickHolds s) := by
  unfold tickHolds
  with_reducible repeat' first
      | intro _ | assumption | apply within_State_count | apply within_foldl | apply within_foldl_fst

theorem within_tickPower (bPages : S .pages) (bPower : S .power) (bBoot : S .boot) (s : State) (h_s : Within S z s) :
    Within S z (tickPower s) := by
  unfold tickPower
  with_reducible repeat' first
      | intro _ | assumption | exact .inl rfl | exact .inr (by assumption) | exact formed_refl _
      | exact fusesKept_refl _ | apply within_State_count | apply within_ite
      | (simp only [within_mk]; apply within_upd rfl)

theorem within_execBellTick (bOut : S .out) (bMem : S .mem) (bBad : S .bad) (bSoftBad : S .softBad) (bHbmErr : S
    .hbmErr) (bBurstKey : S .burstKey) (bPages : S .pages) (bCores : S .cores) (bDies : S .dies) (bBell : S .bell)
    (bSched : S .sched) (bParts : S .parts) (bCrier : S .crier) (bLinks : S .links) (bPower : S .power) (bBoot : S
    .boot) (bFlash : S .flash) (s0 : State) (h_s0 : Within S z s0) : ∀ t, (execBellTick s0) = .next t → Within S z t
    := by
  intro t h
  unfold execBellTick at h
  cases h
  with_reducible repeat' first
      | intro _ | assumption | exact .inl rfl | exact .inr (by assumption) | exact formed_refl _
      | exact fusesKept_refl _ | apply within_tickPower | apply within_tickHolds | apply within_tickWaits
      | apply within_sendBells | apply within_sampleGates | apply within_State_count | apply within_ite
      | (simp only [within_mk]; apply within_upd rfl)

theorem within_setCount (bOut : S .out) (bMem : S .mem) (bBad : S .bad) (bSoftBad : S .softBad) (bHbmErr : S .hbmErr)
    (bBurstKey : S .burstKey) (bPages : S .pages) (bDies : S .dies) (bBell : S .bell) (bSched : S .sched) (bParts : S
    .parts) (bCrier : S .crier) (bLinks : S .links) (bFlash : S .flash) (s : State) (v : Nat) (h_s : Within S z s) :
    Within S z (setCount s v) := by
  unfold setCount
  with_reducible repeat' first
      | intro _ | assumption | exact .inl rfl | exact .inr (by assumption) | exact formed_refl _
      | exact fusesKept_refl _ | apply within_sendBells | apply within_sampleGates | apply within_ite
      | (simp only [within_mk]; apply within_upd rfl)

theorem within_afterLock (bBell : S .bell) (s : State) (h_s : Within S z s) : Within S z (afterLock s) := by
  unfold afterLock
  with_reducible repeat' first
      | intro _ | assumption | exact .inl rfl | exact .inr (by assumption) | exact formed_refl _
      | exact fusesKept_refl _ | apply within_ite | (simp only [within_mk]; apply within_upd rfl)

theorem within_lockAt (bOut : S .out) (bMem : S .mem) (bBad : S .bad) (bSoftBad : S .softBad) (bHbmErr : S .hbmErr)
    (bBurstKey : S .burstKey) (bPages : S .pages) (bDies : S .dies) (bBell : S .bell) (bSched : S .sched) (bParts : S
    .parts) (bCrier : S .crier) (bLinks : S .links) (bFlash : S .flash) (s : State) (ago : Nat) (h_s : Within S z s) :
    Within S z (lockAt s ago) := by
  unfold lockAt
  with_reducible repeat' first
      | intro _ | assumption | exact .inl rfl | exact .inr (by assumption) | exact formed_refl _
      | exact fusesKept_refl _ | apply within_afterLock | apply within_setCount | apply within_setEvent
      | apply within_State_count | apply within_ite | (simp only [within_mk]; apply within_upd rfl)

theorem within_takeMark (bOut : S .out) (bMem : S .mem) (bBad : S .bad) (bSoftBad : S .softBad) (bHbmErr : S .hbmErr)
    (bBurstKey : S .burstKey) (bPages : S .pages) (bDies : S .dies) (bBell : S .bell) (bSched : S .sched) (bParts : S
    .parts) (bCrier : S .crier) (bLinks : S .links) (bFlash : S .flash) (s : State) (ago : Nat) (h_s : Within S z s) :
    Within S z (takeMark s ago) := by
  unfold takeMark
  with_reducible repeat' first
      | assumption | apply within_lockAt | apply within_State_count | apply within_ite

theorem within_execEpochMark (bOut : S .out) (bMem : S .mem) (bBad : S .bad) (bSoftBad : S .softBad) (bHbmErr : S
    .hbmErr) (bBurstKey : S .burstKey) (bPages : S .pages) (bDies : S .dies) (bBell : S .bell) (bSched : S .sched)
    (bParts : S .parts) (bCrier : S .crier) (bLinks : S .links) (bFlash : S .flash) (arrived : Bool) (s : State) (h_s
    : Within S z s) : ∀ t, (execEpochMark arrived s) = .next t → Within S z t := by
  intro t h
  unfold execEpochMark at h
  cases h
  with_reducible repeat' first
      | assumption | apply within_takeMark | apply within_State_count | apply within_ite

theorem within_enterSelfTimed (bPages : S .pages) (bDies : S .dies) (bBell : S .bell) (bCrier : S .crier) (s : State)
    (h_s : Within S z s) : Within S z (enterSelfTimed s) := by
  unfold enterSelfTimed
  with_reducible repeat' first
      | intro _ | assumption | exact .inl rfl | exact .inr (by assumption) | exact formed_refl _
      | exact fusesKept_refl _ | apply within_setEvent | apply within_foldl | apply within_foldl_fst
      | (simp only [within_mk]; apply within_upd rfl)

theorem within_unlock (bPages : S .pages) (bDies : S .dies) (bBell : S .bell) (bCrier : S .crier) (bPower : S .power)
    (s : State) (cause : Nat) (ppm : BitVec 16) (h_s : Within S z s) : Within S z (unlock s cause ppm) := by
  unfold unlock
  with_reducible repeat' first
      | intro _ | assumption | exact .inl rfl | exact .inr (by assumption) | exact formed_refl _
      | exact fusesKept_refl _ | apply within_enterSelfTimed | apply within_raiseTrap | apply within_raiseAlert
      | apply within_setEvent | apply within_State_count | apply within_ite | apply within_ite_fst
      | (simp only [within_mk]; apply within_upd rfl)

theorem within_checkBellSource (bPages : S .pages) (bDies : S .dies) (bBell : S .bell) (bCrier : S .crier) (bPower : S
    .power) (s : State) (h_s : Within S z s) : Within S z (checkBellSource s) := by
  unfold checkBellSource
  with_reducible repeat' first
      | assumption | apply within_unlock | apply within_ite

theorem within_execMeasurementWindow (bPages : S .pages) (bDies : S .dies) (bBell : S .bell) (bCrier : S .crier)
    (bPower : S .power) (ppm : Int) (s : State) (h_s : Within S z s) : ∀ t, (execMeasurementWindow ppm s) = .next t →
    Within S z t := by
  intro t h
  unfold execMeasurementWindow at h
  cases h
  with_reducible repeat' first
      | intro _ | assumption | exact .inl rfl | exact .inr (by assumption) | exact formed_refl _
      | exact fusesKept_refl _ | apply within_unlock | apply within_ite
      | (simp only [within_mk]; apply within_upd rfl)

theorem within_execBellUnlock (bPages : S .pages) (bDies : S .dies) (bBell : S .bell) (bCrier : S .crier) (bPower : S
    .power) (cause : RefFault) (ppm : Int) (s : State) (h_s : Within S z s) : ∀ t, (execBellUnlock cause ppm s) =
    .next t → Within S z t := by
  intro t h
  unfold execBellUnlock at h
  cases h
  with_reducible repeat' first
      | intro _ | assumption | exact .inl rfl | exact .inr (by assumption) | exact formed_refl _
      | exact fusesKept_refl _ | apply within_unlock | apply within_ite
      | (simp only [within_mk]; apply within_upd rfl)

theorem within_execGlitch (bPages : S .pages) (s : State) (h_s : Within S z s) : ∀ t, (execGlitch s) = .next t →
    Within S z t := by
  intro t h
  unfold execGlitch at h
  cases h
  with_reducible repeat' first
      | assumption | apply within_State_count | apply within_ite

theorem within_State_modReqRing (bLinks : S .links) (s : State) (p : Nat) (f : ReqRing → ReqRing) (h_s : Within S z s)
    : Within S z (State.modReqRing s p f) := by
  unfold State.modReqRing
  with_reducible repeat' first
      | intro _ | assumption | exact .inl rfl | exact .inr (by assumption) | exact formed_refl _
      | exact fusesKept_refl _ | (simp only [within_mk]; apply within_upd rfl)

theorem within_modReq (bLinks : S .links) (s : State) (p : Nat) (pos : Nat) (f : LinkReq → LinkReq) (h_s : Within S z
    s) : Within S z (modReq s p pos f) := by
  unfold modReq
  with_reducible repeat' first
      | assumption | apply within_State_modReqRing | apply within_ite

theorem within_reqTail (bPages : S .pages) (bLinks : S .links) (s : State) (init : Nat) (p : Nat) (value : Nat) (h_s :
    Within S z s) : Within S z (reqTail s init p value) := by
  unfold reqTail
  with_reducible repeat' first
      | assumption | apply within_State_modReqRing | apply within_ignoreWrite | apply within_ite

theorem within_execLinkReqTailWrite (bPages : S .pages) (bCrier : S .crier) (bLinks : S .links) (bHosts : S .hosts)
    (init : Sender) (part : Nat) (value : Word) (s : State) (h_s : Within S z s) : ∀ t, (execLinkReqTailWrite init
    part value s) = .next t → Within S z t := by
  intro t h
  unfold execLinkReqTailWrite at h
  cases h
  with_reducible repeat' first
      | intro _ | assumption | apply within_reqTail | apply within_ctlWrite

theorem within_endReq (bLinks : S .links) (s : State) (p : Nat) (pos : Nat) (h_s : Within S z s) : Within S z (endReq
    s p pos) := by
  unfold endReq
  with_reducible repeat' first
      | assumption | apply within_modReq

theorem within_failReq (bPages : S .pages) (bSched : S .sched) (bParts : S .parts) (bCrier : S .crier) (bLinks : S
    .links) (s : State) (p : Nat) (pos : Nat) (status : Nat) (reason : Nat) (h_s : Within S z s) : Within S z (failReq
    s p pos status reason) := by
  unfold failReq
  with_reducible repeat' first
      | assumption | apply within_modReq | apply within_failStep | apply within_raiseTrap | apply within_ite
      | apply within_ite_fst | split

theorem within_failReqBad (bPages : S .pages) (bDies : S .dies) (bSched : S .sched) (bParts : S .parts) (bCrier : S
    .crier) (bLinks : S .links) (bFlash : S .flash) (s : State) (p : Nat) (r : LinkReq) (u : Nat) (h_s : Within S z s)
    : Within S z (failReqBad s p r u) := by
  unfold failReqBad
  with_reducible repeat' first
      | assumption | apply within_failReq | apply within_raiseBad

theorem within_execLinkReqComplete (bMem : S .mem) (bBad : S .bad) (bSoftBad : S .softBad) (bHbmErr : S .hbmErr)
    (bBurstKey : S .burstKey) (bPages : S .pages) (bDies : S .dies) (bCrier : S .crier) (bLinks : S .links) (bFlash :
    S .flash) (part : Nat) (pos : Nat) (s : State) (h_s : Within S z s) : ∀ t, (execLinkReqComplete part pos s) =
    .next t → Within S z t := by
  intro t h
  unfold execLinkReqComplete at h
  cases h
  with_reducible repeat' first
      | assumption | apply within_State_modReqRing | apply within_addSem | apply within_memStores | apply within_ite
      | apply within_ite_fst | split

theorem within_reqSend (bOut : S .out) (bPages : S .pages) (bSched : S .sched) (bParts : S .parts) (bCrier : S .crier)
    (bLinks : S .links) (s : State) (p : Nat) (pos : Nat) (c : Nat) (m : OutMsg) (key : Nat) (h_s : Within S z s) :
    Within S z (reqSend s p pos c m key) := by
  unfold reqSend
  with_reducible repeat' first
      | assumption | apply within_failReq | apply within_modReq
      | (refine within_sendMsg (by assumption) (by assumption) (by assumption) _ _ _ _ _ ?_ _ (by assumption))
      | split

theorem within_pushWrite (bOut : S .out) (bSoftBad : S .softBad) (bPages : S .pages) (bDies : S .dies) (bSched : S
    .sched) (bParts : S .parts) (bCrier : S .crier) (bLinks : S .links) (bFlash : S .flash) (p : Nat) (pos : Nat) (a :
    Nat) (z3 : State) (h_z3 : Within S z z3) : Within S z (pushWrite p pos a z3) := by
  induction a generalizing z3 with
  | zero =>
    unfold pushWrite
    with_reducible repeat' first
        | intro _ | assumption | apply within_reqSend | apply within_failReqBad | apply within_modReq
        | apply within_noteOthers | apply within_readSpans | apply within_ite | apply within_ite_fst | split
        | dsimp only
  | succ n ih =>
    unfold pushWrite
    with_reducible repeat' first
        | intro _ | assumption | apply ih | apply within_reqSend | apply within_failReqBad | apply within_modReq
        | apply within_noteOthers | apply within_readSpans | apply within_ite | apply within_ite_fst | split
        | dsimp only

theorem within_pushRead (bOut : S .out) (bPages : S .pages) (bSched : S .sched) (bParts : S .parts) (bCrier : S
    .crier) (bLinks : S .links) (p : Nat) (pos : Nat) (a : Nat) (z3 : State) (h_z3 : Within S z z3) : Within S z
    (pushRead p pos a z3) := by
  induction a generalizing z3 with
  | zero =>
    unfold pushRead
    with_reducible repeat' first
        | assumption | apply within_reqSend | apply within_modReq | apply within_ite | split
  | succ n ih =>
    unfold pushRead
    with_reducible repeat' first
        | assumption | apply ih | apply within_reqSend | apply within_modReq | apply within_ite | split

theorem within_pushAtomic (bOut : S .out) (bPages : S .pages) (bSched : S .sched) (bParts : S .parts) (bCrier : S
    .crier) (bLinks : S .links) (s : State) (p : Nat) (pos : Nat) (h_s : Within S z s) : Within S z (pushAtomic s p
    pos) := by
  unfold pushAtomic
  with_reducible repeat' first
      | assumption | apply within_reqSend | apply within_modReq | apply within_ite | split

theorem within_reqArrived (bLinks : S .links) (s : State) (p : Nat) (pos : Nat) (h_s : Within S z s) : Within S z
    (reqArrived s p pos) := by
  unfold reqArrived
  with_reducible repeat' first
      | intro _ | assumption | apply within_endReq | apply within_modReq | apply within_ite | split | dsimp only

theorem within_sendColl (bOut : S .out) (bPages : S .pages) (bSched : S .sched) (bParts : S .parts) (bCrier : S
    .crier) (bLinks : S .links) (s : State) (p : Nat) (r : LinkReq) (rank : Nat) (level : Nat) (k : Nat) (mark : Nat)
    (bs : List Byte) (h_s : Within S z s) : Within S z (sendColl s p r rank level k mark bs) := by
  unfold sendColl
  with_reducible repeat' first
      | intro _ | assumption | apply within_reqSend | apply within_failReq | apply within_ite | apply within_ite_fst
      | apply within_foldl | apply within_foldl_fst | split | dsimp only

theorem within_sendMarks (bOut : S .out) (bPages : S .pages) (bLinks : S .links) (s : State) (p : Nat) (c : Coll) (r :
    LinkReq) (status : Nat) (h_s : Within S z s) : Within S z (sendMarks s p c r status) := by
  unfold sendMarks
  with_reducible repeat' first
      | intro _ | assumption
      | (refine within_sendMsg (by assumption) (by assumption) (by assumption) _ _ _ _ _ ?_ _ (by assumption))
      | apply within_sendGetD | apply within_ite | apply within_foldl | split | dsimp only

theorem within_failColl (bOut : S .out) (bPages : S .pages) (bSched : S .sched) (bParts : S .parts) (bCrier : S
    .crier) (bLinks : S .links) (s : State) (p : Nat) (c : Coll) (r : LinkReq) (status : Nat) (reason : Nat) (h_s :
    Within S z s) : Within S z (failColl s p c r status reason) := by
  unfold failColl
  with_reducible repeat' first
      | assumption | apply within_sendMarks | apply within_failReq

theorem within_countElems (bPages : S .pages) (s : State) (n : Nat) (h_s : Within S z s) : Within S z (countElems s n)
    := by
  unfold countElems
  with_reducible repeat' first
      | assumption | apply within_State_count

theorem within_climbSegment (bOut : S .out) (bPages : S .pages) (bSched : S .sched) (bParts : S .parts) (bCrier : S
    .crier) (bLinks : S .links) (s : State) (p : Nat) (c : Coll) (pos : Nat) (k : Nat) (h_s : Within S z s) : Within S
    z (climbSegment s p c pos k) := by
  unfold climbSegment
  with_reducible repeat' first
      | intro _ | assumption | apply within_sendColl | apply within_modReq | apply within_ite | apply within_ite_fst
      | apply within_foldl | apply within_foldl_fst | split

theorem within_reqStore (bMem : S .mem) (bBad : S .bad) (bSoftBad : S .softBad) (bHbmErr : S .hbmErr) (bBurstKey : S
    .burstKey) (bTags : S .tags) (bPages : S .pages) (bDies : S .dies) (bSched : S .sched) (bParts : S .parts) (bCrier
    : S .crier) (bLinks : S .links) (bFlash : S .flash) (s : State) (p : Nat) (r : LinkReq) (key : Nat) (bs : List
    Byte) (h_s : Within S z s) : Within S z (reqStore s p r key bs) := by
  unfold reqStore
  with_reducible repeat' first
      | intro _ | assumption | apply within_failReqBad | apply within_setTags | apply within_memStores
      | apply within_ite | apply within_ite_fst | split | dsimp only

theorem within_noteLength (bPages : S .pages) (bCrier : S .crier) (s : State) (p : Nat) (r : LinkReq) (d : Nat) (h_s :
    Within S z s) : Within S z (noteLength s p r d) := by
  unfold noteLength
  with_reducible repeat' first
      | assumption | apply within_raiseTrap | apply within_ite

theorem within_sendRange (bOut : S .out) (bPages : S .pages) (bSched : S .sched) (bParts : S .parts) (bCrier : S
    .crier) (bLinks : S .links) (p : Nat) (c : Coll) (pos : Nat) (s : State) (e : Nat × List Byte) (h_s : Within S z
    s) : Within S z (sendRange p c pos s e) := by
  unfold sendRange
  with_reducible repeat' first
      | intro _ | assumption | apply within_sendColl | apply within_modReq | apply within_ite | apply within_ite_fst
      | apply within_foldl | apply within_foldl_fst | split

theorem within_sendRanges (bOut : S .out) (bPages : S .pages) (bSched : S .sched) (bParts : S .parts) (bCrier : S
    .crier) (bLinks : S .links) (s : State) (p : Nat) (c : Coll) (pos : Nat) (h_s : Within S z s) : Within S z
    (sendRanges s p c pos) := by
  unfold sendRanges
  with_reducible repeat' first
      | intro _ | assumption | apply within_sendRange | apply within_noteLength | apply within_ite
      | apply within_ite_fst | apply within_foldl | apply within_foldl_fst | split

theorem within_finishColl (bMem : S .mem) (bBad : S .bad) (bSoftBad : S .softBad) (bHbmErr : S .hbmErr) (bBurstKey : S
    .burstKey) (bTags : S .tags) (bPages : S .pages) (bDies : S .dies) (bSched : S .sched) (bParts : S .parts) (bCrier
    : S .crier) (bLinks : S .links) (bFlash : S .flash) (s : State) (p : Nat) (c : Coll) (pos : Nat) (h_s : Within S z
    s) : Within S z (finishColl s p c pos) := by
  unfold finishColl
  with_reducible repeat' first
      | intro _ | assumption | apply within_noteLength | apply within_reqStore | apply within_endReq
      | apply within_ite | apply within_ite_fst | apply within_foldl | apply within_foldl_fst | split | dsimp only

theorem within_startSegment (bOut : S .out) (bSoftBad : S .softBad) (bPages : S .pages) (bDies : S .dies) (bSched : S
    .sched) (bParts : S .parts) (bCrier : S .crier) (bLinks : S .links) (bFlash : S .flash) (p : Nat) (c : Coll) (pos
    : Nat) (s : State) (k : Nat) (h_s : Within S z s) : Within S z (startSegment p c pos s k) := by
  unfold startSegment
  with_reducible repeat' first
      | intro _ | assumption | apply within_failColl | apply within_modReq | apply within_raiseBadIn
      | apply within_readSpans | apply within_ite | apply within_ite_fst | split | dsimp only

theorem within_pushColl (bOut : S .out) (bMem : S .mem) (bBad : S .bad) (bSoftBad : S .softBad) (bHbmErr : S .hbmErr)
    (bBurstKey : S .burstKey) (bTags : S .tags) (bPages : S .pages) (bDies : S .dies) (bSched : S .sched) (bParts : S
    .parts) (bCrier : S .crier) (bLinks : S .links) (bFlash : S .flash) (s : State) (p : Nat) (pos : Nat) (h_s :
    Within S z s) : Within S z (pushColl s p pos) := by
  unfold pushColl
  with_reducible repeat' first
      | intro _ | assumption | apply within_startSegment | apply within_finishColl | apply within_sendRanges
      | apply within_climbSegment | apply within_ite | apply within_foldl | split | dsimp only

theorem within_takeColl (bOut : S .out) (bMem : S .mem) (bBad : S .bad) (bSoftBad : S .softBad) (bHbmErr : S .hbmErr)
    (bBurstKey : S .burstKey) (bTags : S .tags) (bPages : S .pages) (bDies : S .dies) (bSched : S .sched) (bParts : S
    .parts) (bCrier : S .crier) (bLinks : S .links) (bFlash : S .flash) (s : State) (p : Nat) (pos : Nat) (rank : Nat)
    (m : LinkMsg) (h_s : Within S z s) : Within S z (takeColl s p pos rank m) := by
  unfold takeColl
  with_reducible repeat' first
      | assumption | apply within_pushColl | apply within_countElems | apply within_failColl | apply within_failReq
      | apply within_modReq | apply within_ite | apply within_ite_fst | split

theorem within_arriveColl (bOut : S .out) (bMem : S .mem) (bBad : S .bad) (bSoftBad : S .softBad) (bHbmErr : S
    .hbmErr) (bBurstKey : S .burstKey) (bTags : S .tags) (bPages : S .pages) (bDies : S .dies) (bSched : S .sched)
    (bParts : S .parts) (bCrier : S .crier) (bLinks : S .links) (bFlash : S .flash) (s : State) (p : Nat) (x : Nat)
    (rank : Nat) (m : LinkMsg) (h_s : Within S z s) : Within S z (arriveColl s p x rank m) := by
  unfold arriveColl
  with_reducible repeat' first
      | intro _ | assumption | exact .inl rfl | exact .inr (by assumption) | exact formed_refl _
      | exact fusesKept_refl _ | apply within_takeColl | (simp only [within_mk]; apply within_upd rfl) | split

theorem within_dropWaiter (bLinks : S .links) (s : State) (w : Waiter) (h_s : Within S z s) : Within S z (dropWaiter s
    w) := by
  unfold dropWaiter
  with_reducible repeat' first
      | intro _ | assumption | exact .inl rfl | exact .inr (by assumption) | exact formed_refl _
      | exact fusesKept_refl _ | apply within_ite | apply within_ite_fst
      | (simp only [within_mk]; apply within_upd rfl)

theorem within_failWaiting (bPages : S .pages) (bSched : S .sched) (bParts : S .parts) (bCrier : S .crier) (bLinks : S
    .links) (s : State) (p : Nat) (x : Nat) (rank : Nat) (h_s : Within S z s) : Within S z (failWaiting s p x rank) :=
    by
  unfold failWaiting
  with_reducible repeat' first
      | intro _ | assumption | apply within_dropWaiter | apply within_failReq | apply within_ite | apply within_foldl
      | split

theorem within_postColl (bOut : S .out) (bMem : S .mem) (bBad : S .bad) (bSoftBad : S .softBad) (bHbmErr : S .hbmErr)
    (bBurstKey : S .burstKey) (bTags : S .tags) (bPages : S .pages) (bDies : S .dies) (bSched : S .sched) (bParts : S
    .parts) (bCrier : S .crier) (bLinks : S .links) (bFlash : S .flash) (s : State) (p : Nat) (r : LinkReq) (h_s :
    Within S z s) : Within S z (postColl s p r) := by
  unfold postColl
  with_reducible repeat' first
      | intro _ | assumption | exact .inl rfl | exact .inr (by assumption) | exact formed_refl _
      | exact fusesKept_refl _ | apply within_takeColl | apply within_pushColl | apply within_modReq
      | apply within_foldl | (simp only [within_mk]; apply within_upd rfl)

theorem within_pushReq (bOut : S .out) (bMem : S .mem) (bBad : S .bad) (bSoftBad : S .softBad) (bHbmErr : S .hbmErr)
    (bBurstKey : S .burstKey) (bTags : S .tags) (bPages : S .pages) (bDies : S .dies) (bSched : S .sched) (bParts : S
    .parts) (bCrier : S .crier) (bLinks : S .links) (bFlash : S .flash) (s : State) (p : Nat) (pos : Nat) (h_s :
    Within S z s) : Within S z (pushReq s p pos) := by
  unfold pushReq
  with_reducible repeat' first
      | assumption | apply within_pushColl | apply within_pushAtomic | apply within_pushRead | apply within_pushWrite
      | apply within_ite | split

theorem within_startReq (bOut : S .out) (bMem : S .mem) (bBad : S .bad) (bSoftBad : S .softBad) (bHbmErr : S .hbmErr)
    (bBurstKey : S .burstKey) (bTags : S .tags) (bPages : S .pages) (bDies : S .dies) (bSched : S .sched) (bParts : S
    .parts) (bCrier : S .crier) (bLinks : S .links) (bFlash : S .flash) (s : State) (p : Nat) (kind : Nat) (h_s :
    Within S z s) : Within S z (startReq s p kind) := by
  unfold startReq
  with_reducible repeat' first
      | intro _ | assumption | apply within_pushReq | apply within_postColl | apply within_failReqBad
      | apply within_failReq | apply within_State_modReqRing | apply within_correctSpan | apply within_ite
      | apply within_ite_fst | split | dsimp only

theorem within_runRequests (bOut : S .out) (bMem : S .mem) (bBad : S .bad) (bSoftBad : S .softBad) (bHbmErr : S
    .hbmErr) (bBurstKey : S .burstKey) (bTags : S .tags) (bPages : S .pages) (bDies : S .dies) (bSched : S .sched)
    (bParts : S .parts) (bCrier : S .crier) (bLinks : S .links) (bFlash : S .flash) (s : State) (p : Nat) (kind : Nat)
    (h_s : Within S z s) : Within S z (runRequests s p kind) := by
  unfold runRequests
  with_reducible repeat' first
      | intro _ | assumption | apply within_startReq | apply within_pushReq | apply within_foldl

theorem within_execLinkReqWrite (bOut : S .out) (bMem : S .mem) (bBad : S .bad) (bSoftBad : S .softBad) (bHbmErr : S
    .hbmErr) (bBurstKey : S .burstKey) (bTags : S .tags) (bPages : S .pages) (bDies : S .dies) (bSched : S .sched)
    (bParts : S .parts) (bCrier : S .crier) (bLinks : S .links) (bFlash : S .flash) (part : Nat) (s : State) (h_s :
    Within S z s) : ∀ t, (execLinkReqWrite part s) = .next t → Within S z t := by
  intro t h
  unfold execLinkReqWrite at h
  cases h
  with_reducible repeat' first
      | assumption | apply within_runRequests

theorem within_execLinkReqRead (bOut : S .out) (bMem : S .mem) (bBad : S .bad) (bSoftBad : S .softBad) (bHbmErr : S
    .hbmErr) (bBurstKey : S .burstKey) (bTags : S .tags) (bPages : S .pages) (bDies : S .dies) (bSched : S .sched)
    (bParts : S .parts) (bCrier : S .crier) (bLinks : S .links) (bFlash : S .flash) (part : Nat) (s : State) (h_s :
    Within S z s) : ∀ t, (execLinkReqRead part s) = .next t → Within S z t := by
  intro t h
  unfold execLinkReqRead at h
  cases h
  with_reducible repeat' first
      | assumption | apply within_runRequests

theorem within_execLinkReqAtomic (bOut : S .out) (bMem : S .mem) (bBad : S .bad) (bSoftBad : S .softBad) (bHbmErr : S
    .hbmErr) (bBurstKey : S .burstKey) (bTags : S .tags) (bPages : S .pages) (bDies : S .dies) (bSched : S .sched)
    (bParts : S .parts) (bCrier : S .crier) (bLinks : S .links) (bFlash : S .flash) (part : Nat) (s : State) (h_s :
    Within S z s) : ∀ t, (execLinkReqAtomic part s) = .next t → Within S z t := by
  intro t h
  unfold execLinkReqAtomic at h
  cases h
  with_reducible repeat' first
      | assumption | apply within_runRequests

theorem within_execReduceScatter (bOut : S .out) (bMem : S .mem) (bBad : S .bad) (bSoftBad : S .softBad) (bHbmErr : S
    .hbmErr) (bBurstKey : S .burstKey) (bTags : S .tags) (bPages : S .pages) (bDies : S .dies) (bSched : S .sched)
    (bParts : S .parts) (bCrier : S .crier) (bLinks : S .links) (bFlash : S .flash) (part : Nat) (s : State) (h_s :
    Within S z s) : ∀ t, (execReduceScatter part s) = .next t → Within S z t := by
  intro t h
  unfold execReduceScatter at h
  cases h
  with_reducible repeat' first
      | assumption | apply within_runRequests

theorem within_execAllGather (bOut : S .out) (bMem : S .mem) (bBad : S .bad) (bSoftBad : S .softBad) (bHbmErr : S
    .hbmErr) (bBurstKey : S .burstKey) (bTags : S .tags) (bPages : S .pages) (bDies : S .dies) (bSched : S .sched)
    (bParts : S .parts) (bCrier : S .crier) (bLinks : S .links) (bFlash : S .flash) (part : Nat) (s : State) (h_s :
    Within S z s) : ∀ t, (execAllGather part s) = .next t → Within S z t := by
  intro t h
  unfold execAllGather at h
  cases h
  with_reducible repeat' first
      | assumption | apply within_runRequests

theorem within_execAllReduce (bOut : S .out) (bMem : S .mem) (bBad : S .bad) (bSoftBad : S .softBad) (bHbmErr : S
    .hbmErr) (bBurstKey : S .burstKey) (bTags : S .tags) (bPages : S .pages) (bDies : S .dies) (bSched : S .sched)
    (bParts : S .parts) (bCrier : S .crier) (bLinks : S .links) (bFlash : S .flash) (part : Nat) (s : State) (h_s :
    Within S z s) : ∀ t, (execAllReduce part s) = .next t → Within S z t := by
  intro t h
  unfold execAllReduce at h
  cases h
  with_reducible repeat' first
      | assumption | apply within_runRequests

theorem within_flightHears (bPages : S .pages) (bCores : S .cores) (bCrier : S .crier) (s : State) (g : Nat) (q :
    QueueId) (idx : Nat) (status : Nat) (reason : Nat) (closed : Option Nat) (h_s : Within S z s) : Within S z
    (flightHears s g q idx status reason closed) := by
  unfold flightHears
  with_reducible repeat' first
      | assumption | apply within_timeoutTrap | apply within_raiseTrap | apply within_State_modCore
      | apply within_ite | apply within_ite_fst | split

theorem within_readsFail (bMem : S .mem) (bBad : S .bad) (bSoftBad : S .softBad) (bHbmErr : S .hbmErr) (bBurstKey : S
    .burstKey) (bPages : S .pages) (bCores : S .cores) (bDies : S .dies) (bSched : S .sched) (bParts : S .parts)
    (bCrier : S .crier) (bLinks : S .links) (bFlash : S .flash) (s : State) (g : Nat) (r : CmdRec) (status : Nat)
    (reason : Nat) (closed : Option Nat) (h_s : Within S z s) : Within S z (readsFail s g r status reason closed) :=
    by
  unfold readsFail
  with_reducible repeat' first
      | assumption | apply within_dropWaiter | apply within_dropReads | apply within_refuseFront
      | apply within_completeFront | apply within_timeoutTrap | apply within_State_modCore | apply within_ite

theorem within_failWaiter (bMem : S .mem) (bBad : S .bad) (bSoftBad : S .softBad) (bHbmErr : S .hbmErr) (bBurstKey : S
    .burstKey) (bPages : S .pages) (bCores : S .cores) (bDies : S .dies) (bSched : S .sched) (bParts : S .parts)
    (bCrier : S .crier) (bLinks : S .links) (bFlash : S .flash) (s : State) (u : Unacked) (status : Nat) (reason :
    Nat) (closed : Option Nat) (h_s : Within S z s) : Within S z (failWaiter s u status reason closed) := by
  unfold failWaiter
  with_reducible repeat' first
      | assumption | apply within_readsFail | apply within_flightHears | apply within_dropWaiter
      | apply within_failReq | apply within_refuseEntry | apply within_stopTransfer | apply within_failEntry
      | apply within_ite | split

theorem within_endContext (bMem : S .mem) (bBad : S .bad) (bSoftBad : S .softBad) (bHbmErr : S .hbmErr) (bBurstKey : S
    .burstKey) (bPages : S .pages) (bCores : S .cores) (bDies : S .dies) (bSched : S .sched) (bParts : S .parts)
    (bCrier : S .crier) (bLinks : S .links) (bFlash : S .flash) (s : State) (c : Nat) (phase : PeerPhase) (h_s :
    Within S z s) : Within S z (endContext s c phase) := by
  unfold endContext
  with_reducible repeat' first
      | intro _ | assumption | apply within_failWaiter | apply within_State_setPeer | apply within_ite
      | apply within_ite_fst | apply within_foldl | apply within_foldl_fst

theorem within_failRecvs (bMem : S .mem) (bBad : S .bad) (bSoftBad : S .softBad) (bHbmErr : S .hbmErr) (bBurstKey : S
    .burstKey) (bPages : S .pages) (bDies : S .dies) (bSched : S .sched) (bParts : S .parts) (bCrier : S .crier)
    (bLinks : S .links) (bFlash : S .flash) (s : State) (c : Nat) (h_s : Within S z s) : Within S z (failRecvs s c) :=
    by
  unfold failRecvs
  with_reducible repeat' first
      | intro _ | assumption | apply within_stopTransfer | apply within_failEntry | apply within_ite
      | apply within_foldl | split

theorem within_enterError (bMem : S .mem) (bBad : S .bad) (bSoftBad : S .softBad) (bHbmErr : S .hbmErr) (bBurstKey : S
    .burstKey) (bPages : S .pages) (bCores : S .cores) (bDies : S .dies) (bSched : S .sched) (bParts : S .parts)
    (bCrier : S .crier) (bLinks : S .links) (bFlash : S .flash) (s : State) (c : Nat) (h_s : Within S z s) : Within S
    z (enterError s c) := by
  unfold enterError
  with_reducible repeat' first
      | assumption | apply within_failRecvs | apply within_endContext | apply within_failWaiting
      | apply within_raiseTrap | apply within_State_count

theorem within_joinPeers (bPages : S .pages) (bLinks : S .links) (s : State) (c : Nat) (h_s : Within S z s) : Within S
    z (joinPeers s c) := by
  unfold joinPeers
  with_reducible repeat' first
      | intro _ | assumption | exact .inl rfl | exact .inr (by assumption) | exact formed_refl _
      | exact fusesKept_refl _ | apply within_State_count | apply within_State_setPeer | apply within_ite
      | apply within_ite_fst | (simp only [within_mk]; apply within_upd rfl) | split | dsimp only

theorem within_openCtx (bOut : S .out) (bSoftBad : S .softBad) (bPages : S .pages) (bDies : S .dies) (bCrier : S
    .crier) (bLinks : S .links) (bSealU : S .sealU) (bFlash : S .flash) (s : State) (c : Nat) (h_s : Within S z s) :
    Within S z (openCtx s c) := by
  unfold openCtx
  with_reducible repeat' first
      | assumption | apply within_joinPeers | apply within_pumpCtx | apply within_correctSpan | apply within_drawKey
      | apply within_State_setPeer | apply within_ite | apply within_ite_fst

theorem within_execCtxOpen (bOut : S .out) (bSoftBad : S .softBad) (bPages : S .pages) (bDies : S .dies) (bCrier : S
    .crier) (bLinks : S .links) (bSealU : S .sealU) (bFlash : S .flash) (bHosts : S .hosts) (init : Sender) (ctx :
    Nat) (s : State) (h_s : Within S z s) : ∀ t, (execCtxOpen init ctx s) = .next t → Within S z t := by
  intro t h
  unfold execCtxOpen at h
  cases h
  with_reducible repeat' first
      | intro _ | assumption | apply within_openCtx | apply within_ctlWrite

theorem within_execCtxClose (bMem : S .mem) (bBad : S .bad) (bSoftBad : S .softBad) (bHbmErr : S .hbmErr) (bBurstKey :
    S .burstKey) (bPages : S .pages) (bCores : S .cores) (bDies : S .dies) (bSched : S .sched) (bParts : S .parts)
    (bCrier : S .crier) (bLinks : S .links) (bFlash : S .flash) (bHosts : S .hosts) (init : Sender) (ctx : Nat) (s :
    State) (h_s : Within S z s) : ∀ t, (execCtxClose init ctx s) = .next t → Within S z t := by
  intro t h
  unfold execCtxClose at h
  cases h
  with_reducible repeat' first
      | intro _ | assumption | apply within_endContext | apply within_ctlWrite

theorem within_execOpenMsg (bOut : S .out) (bPages : S .pages) (bLinks : S .links) (m : LinkMsg) (s : State) (h_s :
    Within S z s) : ∀ t, (execOpenMsg m s) = .next t → Within S z t := by
  intro t h
  unfold execOpenMsg at h
  cases h
  with_reducible repeat' first
      | assumption | apply within_joinPeers | apply within_takeFlits | apply within_State_setPeer

theorem within_refusedEffect (bPages : S .pages) (s : State) (p : Peer) (a : Nat) (n : Nat) (h_s : Within S z s) :
    Within S z (refusedEffect s p a n).s := by
  unfold refusedEffect
  with_reducible repeat' first
      | assumption | apply within_State_count | apply within_ite

theorem within_countLent (bFree : S .free) (bPages : S .pages) (s : State) (p : Peer) (a : Nat) (n : Nat) (h_s :
    Within S z s) : Within S z (countLent s p a n) := by
  unfold countLent
  with_reducible repeat' first
      | assumption | apply within_State_countOpen | apply within_State_count | apply within_ite

theorem within_peerBad (bPages : S .pages) (bDies : S .dies) (bCrier : S .crier) (bFlash : S .flash) (s : State) (p :
    Peer) (u : Nat) (h_s : Within S z s) : Within S z (peerBad s p u) := by
  unfold peerBad
  with_reducible repeat' first
      | assumption | apply within_raiseBad

theorem within_effWrite (bFree : S .free) (bMem : S .mem) (bBad : S .bad) (bSoftBad : S .softBad) (bHbmErr : S
    .hbmErr) (bBurstKey : S .burstKey) (bTags : S .tags) (bPages : S .pages) (bDies : S .dies) (bCrier : S .crier)
    (bFlash : S .flash) (s : State) (p : Peer) (m : LinkMsg) (h_s : Within S z s) : Within S z (effWrite s p m).s :=
    by
  unfold effWrite
  with_reducible repeat' first
      | intro _ | assumption | apply within_peerBad | apply within_countLent | apply within_refusedEffect
      | apply within_setTags | apply within_memStores | apply within_ite | apply within_ite_effect
      | apply within_ite_fst | split | dsimp only

theorem within_answer (bOut : S .out) (bPages : S .pages) (bLinks : S .links) (s : State) (c : Nat) (op : MsgOp) (m :
    LinkMsg) (failed : Bool) (old : Nat) (bs : List Byte) (h_s : Within S z s) : Within S z (answer s c op m failed
    old bs) := by
  unfold answer
  with_reducible repeat' first
      | intro _ | assumption
      | (refine within_sendMsg (by assumption) (by assumption) (by assumption) _ _ _ _ _ ?_ _ (by assumption))
      | apply within_sendGetD | apply within_ite | split | dsimp only

theorem within_effRead (bFree : S .free) (bOut : S .out) (bSoftBad : S .softBad) (bPages : S .pages) (bDies : S .dies)
    (bCrier : S .crier) (bLinks : S .links) (bFlash : S .flash) (s : State) (c : Nat) (p : Peer) (m : LinkMsg) (h_s :
    Within S z s) : Within S z (effRead s c p m).s := by
  unfold effRead
  with_reducible repeat' first
      | intro _ | assumption | apply within_answer | apply within_peerBad | apply within_countLent
      | apply within_refusedEffect | apply within_noteOthers | apply within_readSpans | apply within_ite
      | apply within_ite_effect | apply within_ite_fst | split | dsimp only

theorem within_effAtomic (bOut : S .out) (bMem : S .mem) (bBad : S .bad) (bSoftBad : S .softBad) (bHbmErr : S .hbmErr)
    (bBurstKey : S .burstKey) (bTags : S .tags) (bPages : S .pages) (bDies : S .dies) (bCrier : S .crier) (bLinks : S
    .links) (bFlash : S .flash) (s : State) (c : Nat) (p : Peer) (m : LinkMsg) (h_s : Within S z s) : Within S z
    (effAtomic s c p m).s := by
  unfold effAtomic
  with_reducible repeat' first
      | assumption | apply within_answer | apply within_peerBad | apply within_refusedEffect | apply within_setTags
      | apply within_memStores | apply within_readSpans | apply within_ite | apply within_ite_effect
      | apply within_ite_fst | split

theorem within_readAnswered (bFree : S .free) (bOut : S .out) (bMem : S .mem) (bBad : S .bad) (bSoftBad : S .softBad)
    (bHbmErr : S .hbmErr) (bBurstKey : S .burstKey) (bTags : S .tags) (bPages : S .pages) (bCores : S .cores) (bDies :
    S .dies) (bSched : S .sched) (bParts : S .parts) (bCrier : S .crier) (bLinks : S .links) (bFlash : S .flash) (s :
    State) (g : Nat) (idx : Nat) (key : Nat) (failed : Bool) (bs : List Byte) (h_s : Within S z s) : Within S z
    (readAnswered s g idx key failed bs) := by
  unfold readAnswered
  with_reducible repeat' first
      | assumption | apply within_readsFail | apply within_finishReads | apply within_memWrite
      | apply within_State_modCore | apply within_ite | split

theorem within_requestAnswered (bMem : S .mem) (bBad : S .bad) (bSoftBad : S .softBad) (bHbmErr : S .hbmErr)
    (bBurstKey : S .burstKey) (bTags : S .tags) (bPages : S .pages) (bDies : S .dies) (bSched : S .sched) (bParts : S
    .parts) (bCrier : S .crier) (bLinks : S .links) (bFlash : S .flash) (s : State) (p : Nat) (pos : Nat) (key : Nat)
    (failed : Bool) (bs : List Byte) (h_s : Within S z s) : Within S z (requestAnswered s p pos key failed bs) := by
  unfold requestAnswered
  with_reducible repeat' first
      | assumption | apply within_dropWaiter | apply within_reqStore | apply within_reqArrived | apply within_failReq
      | apply within_ite | split

theorem within_effAnswer (bFree : S .free) (bOut : S .out) (bMem : S .mem) (bBad : S .bad) (bSoftBad : S .softBad)
    (bHbmErr : S .hbmErr) (bBurstKey : S .burstKey) (bTags : S .tags) (bPages : S .pages) (bCores : S .cores) (bDies :
    S .dies) (bSched : S .sched) (bParts : S .parts) (bCrier : S .crier) (bLinks : S .links) (bFlash : S .flash) (s :
    State) (c : Nat) (p : Peer) (op : MsgOp) (m : LinkMsg) (h_s : Within S z s) : Within S z (effAnswer s c p op m).s
    := by
  unfold effAnswer
  with_reducible repeat' first
      | intro _ | assumption | apply within_requestAnswered | apply within_readAnswered | apply within_failWaiter
      | apply within_memWrite | apply within_State_setPeer | apply within_ite | apply within_ite_effect | split
      | dsimp only

theorem within_matchRts (bOut : S .out) (bMem : S .mem) (bBad : S .bad) (bSoftBad : S .softBad) (bHbmErr : S .hbmErr)
    (bBurstKey : S .burstKey) (bPages : S .pages) (bDies : S .dies) (bSched : S .sched) (bParts : S .parts) (bCrier :
    S .crier) (bLinks : S .links) (bFlash : S .flash) (s : State) (c : Nat) (h_s : Within S z s) : Within S z
    (matchRts s c) := by
  unfold matchRts
  with_reducible repeat' first
      | intro _ | assumption | exact .inl rfl | exact .inr (by assumption) | exact formed_refl _
      | exact fusesKept_refl _ | apply within_failEntry | apply within_sendCtl | apply within_ite
      | (simp only [within_mk]; apply within_upd rfl) | split

theorem within_effRts (bOut : S .out) (bMem : S .mem) (bBad : S .bad) (bSoftBad : S .softBad) (bHbmErr : S .hbmErr)
    (bBurstKey : S .burstKey) (bPages : S .pages) (bDies : S .dies) (bSched : S .sched) (bParts : S .parts) (bCrier :
    S .crier) (bLinks : S .links) (bFlash : S .flash) (s : State) (c : Nat) (m : LinkMsg) (h_s : Within S z s) :
    Within S z (effRts s c m).s := by
  unfold effRts
  with_reducible repeat' first
      | intro _ | assumption | exact .inl rfl | exact .inr (by assumption) | exact formed_refl _
      | exact fusesKept_refl _ | apply within_matchRts | (simp only [within_mk]; apply within_upd rfl)

theorem within_effTile (bMem : S .mem) (bBad : S .bad) (bSoftBad : S .softBad) (bHbmErr : S .hbmErr) (bBurstKey : S
    .burstKey) (bTags : S .tags) (bPages : S .pages) (bDies : S .dies) (bSched : S .sched) (bParts : S .parts) (bCrier
    : S .crier) (bLinks : S .links) (bFlash : S .flash) (s : State) (c : Nat) (m : LinkMsg) (h_s : Within S z s) :
    Within S z (effTile s c m) := by
  unfold effTile
  with_reducible repeat' first
      | intro _ | assumption | exact .inl rfl | exact .inr (by assumption) | exact formed_refl _
      | exact fusesKept_refl _ | apply within_failEntryBad | apply within_stopTransfer | apply within_failEntry
      | apply within_finishEntry | apply within_setTags | apply within_memStores | apply within_ite
      | apply within_ite_fst | (simp only [within_mk]; apply within_upd rfl) | split | dsimp only

theorem within_effectOf (bFree : S .free) (bOut : S .out) (bMem : S .mem) (bBad : S .bad) (bSoftBad : S .softBad)
    (bHbmErr : S .hbmErr) (bBurstKey : S .burstKey) (bTags : S .tags) (bPages : S .pages) (bCores : S .cores) (bDies :
    S .dies) (bSched : S .sched) (bParts : S .parts) (bCrier : S .crier) (bLinks : S .links) (bFlash : S .flash) (s :
    State) (c : Nat) (op : MsgOp) (m : LinkMsg) (h_s : Within S z s) : Within S z (effectOf s c op m).s := by
  unfold effectOf
  with_reducible repeat' first
      | assumption | apply within_effTile | apply within_effRts | apply within_effAnswer | apply within_effAtomic
      | apply within_effRead | apply within_effWrite | apply within_arriveColl | apply within_arriveResult
      | apply within_arriveVote | apply within_ite | apply within_ite_effect | split

theorem within_takeMsg (bFree : S .free) (bOut : S .out) (bMem : S .mem) (bBad : S .bad) (bSoftBad : S .softBad)
    (bHbmErr : S .hbmErr) (bBurstKey : S .burstKey) (bTags : S .tags) (bPages : S .pages) (bCores : S .cores) (bDies :
    S .dies) (bSched : S .sched) (bParts : S .parts) (bCrier : S .crier) (bLinks : S .links) (bFlash : S .flash) (s :
    State) (c : Nat) (op : MsgOp) (m : LinkMsg) (h_s : Within S z s) : Within S z (takeMsg s c op m) := by
  unfold takeMsg
  with_reducible repeat' first
      | assumption | apply within_effectOf | apply within_sendCtl | apply within_State_setPeer | apply within_ite
      | apply within_ite_effect | split

theorem within_tagFailure (bMem : S .mem) (bBad : S .bad) (bSoftBad : S .softBad) (bHbmErr : S .hbmErr) (bBurstKey : S
    .burstKey) (bPages : S .pages) (bCores : S .cores) (bDies : S .dies) (bSched : S .sched) (bParts : S .parts)
    (bCrier : S .crier) (bLinks : S .links) (bFlash : S .flash) (s : State) (c : Nat) (h_s : Within S z s) : Within S
    z (tagFailure s c) := by
  unfold tagFailure
  with_reducible repeat' first
      | assumption | apply within_enterError | apply within_State_count | apply within_State_setPeer
      | apply within_ite

theorem within_discardFlits (bPages : S .pages) (s : State) (p : Peer) (m : LinkMsg) (h_s : Within S z s) : Within S z
    (discardFlits s p m) := by
  unfold discardFlits
  with_reducible repeat' first
      | assumption | apply within_State_count

theorem within_park (bFree : S .free) (bMem : S .mem) (bBad : S .bad) (bSoftBad : S .softBad) (bHbmErr : S .hbmErr)
    (bBurstKey : S .burstKey) (bTags : S .tags) (bPages : S .pages) (bDies : S .dies) (bParts : S .parts) (bCrier : S
    .crier) (bFlash : S .flash) (s : State) (c : Nat) (op : MsgOp) (m : LinkMsg) (h_s : Within S z s) : Within S z
    (park s c op m) := by
  unfold park
  with_reducible repeat' first
      | intro _ | assumption | exact .inl rfl | exact .inr (by assumption) | exact formed_refl _
      | exact fusesKept_refl _ | apply within_discardFlits | apply within_setTags | apply within_memStores
      | apply within_setEvent | apply within_State_count | apply within_State_modPart | apply within_ite
      | apply within_ite_fst | (simp only [within_mk]; apply within_upd rfl)

theorem within_arriveMsg (bFree : S .free) (bOut : S .out) (bMem : S .mem) (bBad : S .bad) (bSoftBad : S .softBad)
    (bHbmErr : S .hbmErr) (bBurstKey : S .burstKey) (bTags : S .tags) (bPages : S .pages) (bCores : S .cores) (bDies :
    S .dies) (bSched : S .sched) (bParts : S .parts) (bCrier : S .crier) (bLinks : S .links) (bFlash : S .flash) (s0 :
    State) (op : MsgOp) (m : LinkMsg) (h_s0 : Within S z s0) : Within S z (arriveMsg s0 op m) := by
  unfold arriveMsg
  with_reducible repeat' first
      | assumption | apply within_park | apply within_discardFlits | apply within_tagFailure | apply within_takeMsg
      | apply within_takeFlits | apply within_sendCtl | apply within_State_count | apply within_ite

theorem within_deliverParked (bFree : S .free) (bOut : S .out) (bMem : S .mem) (bBad : S .bad) (bSoftBad : S .softBad)
    (bHbmErr : S .hbmErr) (bBurstKey : S .burstKey) (bTags : S .tags) (bPages : S .pages) (bCores : S .cores) (bDies :
    S .dies) (bSched : S .sched) (bParts : S .parts) (bCrier : S .crier) (bLinks : S .links) (bFlash : S .flash) (s :
    State) (p : Nat) (x : Nat) (h_s : Within S z s) : Within S z (deliverParked s p x) := by
  unfold deliverParked
  with_reducible repeat' first
      | intro _ | assumption | apply within_takeMsg | apply within_State_modPart | apply within_ite
      | apply within_foldl

theorem within_execWrite (bFree : S .free) (bOut : S .out) (bMem : S .mem) (bBad : S .bad) (bSoftBad : S .softBad)
    (bHbmErr : S .hbmErr) (bBurstKey : S .burstKey) (bTags : S .tags) (bPages : S .pages) (bCores : S .cores) (bDies :
    S .dies) (bSched : S .sched) (bParts : S .parts) (bCrier : S .crier) (bLinks : S .links) (bFlash : S .flash) (m :
    LinkMsg) (s : State) (h_s : Within S z s) : ∀ t, (execWrite m s) = .next t → Within S z t := by
  intro t h
  unfold execWrite at h
  cases h
  with_reducible repeat' first
      | assumption | apply within_arriveMsg

theorem within_execRead (bFree : S .free) (bOut : S .out) (bMem : S .mem) (bBad : S .bad) (bSoftBad : S .softBad)
    (bHbmErr : S .hbmErr) (bBurstKey : S .burstKey) (bTags : S .tags) (bPages : S .pages) (bCores : S .cores) (bDies :
    S .dies) (bSched : S .sched) (bParts : S .parts) (bCrier : S .crier) (bLinks : S .links) (bFlash : S .flash) (m :
    LinkMsg) (s : State) (h_s : Within S z s) : ∀ t, (execRead m s) = .next t → Within S z t := by
  intro t h
  unfold execRead at h
  cases h
  with_reducible repeat' first
      | assumption | apply within_arriveMsg

theorem within_execReadResp (bFree : S .free) (bOut : S .out) (bMem : S .mem) (bBad : S .bad) (bSoftBad : S .softBad)
    (bHbmErr : S .hbmErr) (bBurstKey : S .burstKey) (bTags : S .tags) (bPages : S .pages) (bCores : S .cores) (bDies :
    S .dies) (bSched : S .sched) (bParts : S .parts) (bCrier : S .crier) (bLinks : S .links) (bFlash : S .flash) (m :
    LinkMsg) (s : State) (h_s : Within S z s) : ∀ t, (execReadResp m s) = .next t → Within S z t := by
  intro t h
  unfold execReadResp at h
  cases h
  with_reducible repeat' first
      | assumption | apply within_arriveMsg

theorem within_execAtomic (bFree : S .free) (bOut : S .out) (bMem : S .mem) (bBad : S .bad) (bSoftBad : S .softBad)
    (bHbmErr : S .hbmErr) (bBurstKey : S .burstKey) (bTags : S .tags) (bPages : S .pages) (bCores : S .cores) (bDies :
    S .dies) (bSched : S .sched) (bParts : S .parts) (bCrier : S .crier) (bLinks : S .links) (bFlash : S .flash) (m :
    LinkMsg) (s : State) (h_s : Within S z s) : ∀ t, (execAtomic m s) = .next t → Within S z t := by
  intro t h
  unfold execAtomic at h
  cases h
  with_reducible repeat' first
      | assumption | apply within_arriveMsg

theorem within_execAtomicResp (bFree : S .free) (bOut : S .out) (bMem : S .mem) (bBad : S .bad) (bSoftBad : S
    .softBad) (bHbmErr : S .hbmErr) (bBurstKey : S .burstKey) (bTags : S .tags) (bPages : S .pages) (bCores : S
    .cores) (bDies : S .dies) (bSched : S .sched) (bParts : S .parts) (bCrier : S .crier) (bLinks : S .links) (bFlash
    : S .flash) (m : LinkMsg) (s : State) (h_s : Within S z s) : ∀ t, (execAtomicResp m s) = .next t → Within S z t :=
    by
  intro t h
  unfold execAtomicResp at h
  cases h
  with_reducible repeat' first
      | assumption | apply within_arriveMsg

theorem within_execTileRts (bFree : S .free) (bOut : S .out) (bMem : S .mem) (bBad : S .bad) (bSoftBad : S .softBad)
    (bHbmErr : S .hbmErr) (bBurstKey : S .burstKey) (bTags : S .tags) (bPages : S .pages) (bCores : S .cores) (bDies :
    S .dies) (bSched : S .sched) (bParts : S .parts) (bCrier : S .crier) (bLinks : S .links) (bFlash : S .flash) (m :
    LinkMsg) (s : State) (h_s : Within S z s) : ∀ t, (execTileRts m s) = .next t → Within S z t := by
  intro t h
  unfold execTileRts at h
  cases h
  with_reducible repeat' first
      | assumption | apply within_arriveMsg

theorem within_execTileData (bFree : S .free) (bOut : S .out) (bMem : S .mem) (bBad : S .bad) (bSoftBad : S .softBad)
    (bHbmErr : S .hbmErr) (bBurstKey : S .burstKey) (bTags : S .tags) (bPages : S .pages) (bCores : S .cores) (bDies :
    S .dies) (bSched : S .sched) (bParts : S .parts) (bCrier : S .crier) (bLinks : S .links) (bFlash : S .flash) (m :
    LinkMsg) (s : State) (h_s : Within S z s) : ∀ t, (execTileData m s) = .next t → Within S z t := by
  intro t h
  unfold execTileData at h
  cases h
  with_reducible repeat' first
      | assumption | apply within_arriveMsg

theorem within_execCollective (bFree : S .free) (bOut : S .out) (bMem : S .mem) (bBad : S .bad) (bSoftBad : S
    .softBad) (bHbmErr : S .hbmErr) (bBurstKey : S .burstKey) (bTags : S .tags) (bPages : S .pages) (bCores : S
    .cores) (bDies : S .dies) (bSched : S .sched) (bParts : S .parts) (bCrier : S .crier) (bLinks : S .links) (bFlash
    : S .flash) (m : LinkMsg) (s : State) (h_s : Within S z s) : ∀ t, (execCollective m s) = .next t → Within S z t :=
    by
  intro t h
  unfold execCollective at h
  cases h
  with_reducible repeat' first
      | assumption | apply within_arriveMsg

theorem within_execVote (bFree : S .free) (bOut : S .out) (bMem : S .mem) (bBad : S .bad) (bSoftBad : S .softBad)
    (bHbmErr : S .hbmErr) (bBurstKey : S .burstKey) (bTags : S .tags) (bPages : S .pages) (bCores : S .cores) (bDies :
    S .dies) (bSched : S .sched) (bParts : S .parts) (bCrier : S .crier) (bLinks : S .links) (bFlash : S .flash) (m :
    LinkMsg) (s : State) (h_s : Within S z s) : ∀ t, (execVote m s) = .next t → Within S z t := by
  intro t h
  unfold execVote at h
  cases h
  with_reducible repeat' first
      | assumption | apply within_arriveMsg

theorem within_execResult (bFree : S .free) (bOut : S .out) (bMem : S .mem) (bBad : S .bad) (bSoftBad : S .softBad)
    (bHbmErr : S .hbmErr) (bBurstKey : S .burstKey) (bTags : S .tags) (bPages : S .pages) (bCores : S .cores) (bDies :
    S .dies) (bSched : S .sched) (bParts : S .parts) (bCrier : S .crier) (bLinks : S .links) (bFlash : S .flash) (m :
    LinkMsg) (s : State) (h_s : Within S z s) : ∀ t, (execResult m s) = .next t → Within S z t := by
  intro t h
  unfold execResult at h
  cases h
  with_reducible repeat' first
      | assumption | apply within_arriveMsg

theorem within_sendTile (bOut : S .out) (bMem : S .mem) (bBad : S .bad) (bSoftBad : S .softBad) (bHbmErr : S .hbmErr)
    (bBurstKey : S .burstKey) (bPages : S .pages) (bDies : S .dies) (bSched : S .sched) (bParts : S .parts) (bCrier :
    S .crier) (bLinks : S .links) (bFlash : S .flash) (s : State) (c : Nat) (d : Nat) (k : Nat) (pos : Nat) (h_s :
    Within S z s) : Within S z (sendTile s c d k pos) := by
  unfold sendTile
  with_reducible repeat' first
      | intro _ | assumption | apply within_failEntryBad | apply within_stopTransfer | apply within_failEntry
      | apply within_sendAll
      | (refine within_sendMsg (by assumption) (by assumption) (by assumption) _ _ _ _ _ ?_ _ (by assumption))
      | apply within_noteOthers | apply within_readSpans | apply within_sendGetD | apply within_ite
      | apply within_ite_fst | split | dsimp only

theorem within_hearAck (bOut : S .out) (bMem : S .mem) (bBad : S .bad) (bSoftBad : S .softBad) (bHbmErr : S .hbmErr)
    (bBurstKey : S .burstKey) (bTags : S .tags) (bPages : S .pages) (bCores : S .cores) (bDies : S .dies) (bSched : S
    .sched) (bParts : S .parts) (bCrier : S .crier) (bLinks : S .links) (bFlash : S .flash) (s : State) (c : Nat) (u :
    Unacked) (h_s : Within S z s) : Within S z (hearAck s c u) := by
  unfold hearAck
  with_reducible repeat' first
      | assumption | apply within_sendTile | apply within_flightHears | apply within_pushColl
      | apply within_reqArrived | apply within_finishEntry | apply within_ite | split

theorem within_execMsgAck (bOut : S .out) (bMem : S .mem) (bBad : S .bad) (bSoftBad : S .softBad) (bHbmErr : S
    .hbmErr) (bBurstKey : S .burstKey) (bTags : S .tags) (bPages : S .pages) (bCores : S .cores) (bDies : S .dies)
    (bSched : S .sched) (bParts : S .parts) (bCrier : S .crier) (bLinks : S .links) (bFlash : S .flash) (ctx : Nat)
    (mseq : BitVec 24) (s0 : State) (h_s0 : Within S z s0) : ∀ t, (execMsgAck ctx mseq s0) = .next t → Within S z t :=
    by
  intro t h
  unfold execMsgAck at h
  cases h
  with_reducible repeat' first
      | intro _ | assumption | apply within_hearAck | apply within_takeFlits | apply within_pumpCtx
      | apply within_State_setPeer | apply within_ite | split | dsimp only

theorem within_resend (bOut : S .out) (bPages : S .pages) (bLinks : S .links) (s : State) (c : Nat) (which : Unacked →
    Bool) (h_s : Within S z s) : Within S z (resend s c which) := by
  unfold resend
  with_reducible repeat' first
      | assumption | apply within_pumpCtx | apply within_State_count | apply within_State_setPeer | apply within_ite

theorem within_execMsgNak (bOut : S .out) (bMem : S .mem) (bBad : S .bad) (bSoftBad : S .softBad) (bHbmErr : S
    .hbmErr) (bBurstKey : S .burstKey) (bPages : S .pages) (bCores : S .cores) (bDies : S .dies) (bSched : S .sched)
    (bParts : S .parts) (bCrier : S .crier) (bLinks : S .links) (bFlash : S .flash) (ctx : Nat) (mseq : BitVec 24)
    (kind : NakKind) (s0 : State) (h_s0 : Within S z s0) : ∀ t, (execMsgNak ctx mseq kind s0) = .next t → Within S z t
    := by
  intro t h
  unfold execMsgNak at h
  cases h
  with_reducible repeat' first
      | assumption | apply within_resend | apply within_failWaiter | apply within_takeFlits | apply within_pumpCtx
      | apply within_State_setPeer | apply within_ite | split

theorem within_execRetransmit (bOut : S .out) (bPages : S .pages) (bLinks : S .links) (ctx : Nat) (mseq : BitVec 24)
    (s : State) (h_s : Within S z s) : ∀ t, (execRetransmit ctx mseq s) = .next t → Within S z t := by
  intro t h
  unfold execRetransmit at h
  cases h
  with_reducible repeat' first
      | assumption | apply within_resend | apply within_ite

theorem within_execContextTimeout (bMem : S .mem) (bBad : S .bad) (bSoftBad : S .softBad) (bHbmErr : S .hbmErr)
    (bBurstKey : S .burstKey) (bPages : S .pages) (bCores : S .cores) (bDies : S .dies) (bSched : S .sched) (bParts :
    S .parts) (bCrier : S .crier) (bLinks : S .links) (bFlash : S .flash) (ctx : Nat) (s : State) (h_s : Within S z s)
    : ∀ t, (execContextTimeout ctx s) = .next t → Within S z t := by
  intro t h
  unfold execContextTimeout at h
  cases h
  with_reducible repeat' first
      | assumption | apply within_enterError | apply within_ite

theorem within_execDrainCut (bPages : S .pages) (bLinks : S .links) (ctx : Nat) (s : State) (h_s : Within S z s) : ∀
    t, (execDrainCut ctx s) = .next t → Within S z t := by
  intro t h
  unfold execDrainCut at h
  cases h
  with_reducible repeat' first
      | assumption | apply within_State_count | apply within_State_setPeer | apply within_ite

theorem within_execSend (bOut : S .out) (bMem : S .mem) (bBad : S .bad) (bSoftBad : S .softBad) (bHbmErr : S .hbmErr)
    (bBurstKey : S .burstKey) (bPages : S .pages) (bDies : S .dies) (bSched : S .sched) (bParts : S .parts) (bCrier :
    S .crier) (bLinks : S .links) (bFlash : S .flash) (die : Nat) (ring : Nat) (s : State) (h_s : Within S z s) : ∀ t,
    (execSend die ring s) = .next t → Within S z t := by
  intro t h
  unfold execSend at h
  cases h
  with_reducible repeat' first
      | assumption | apply within_refuseEntry | apply within_fire | apply within_failEntry
      | (refine within_sendMsg (by assumption) (by assumption) (by assumption) _ _ _ _ _ ?_ _ (by assumption))
      | apply within_ite | split

theorem within_execRecvExpect (bOut : S .out) (bMem : S .mem) (bBad : S .bad) (bSoftBad : S .softBad) (bHbmErr : S
    .hbmErr) (bBurstKey : S .burstKey) (bPages : S .pages) (bDies : S .dies) (bSched : S .sched) (bParts : S .parts)
    (bCrier : S .crier) (bLinks : S .links) (bFlash : S .flash) (die : Nat) (ring : Nat) (s : State) (h_s : Within S z
    s) : ∀ t, (execRecvExpect die ring s) = .next t → Within S z t := by
  intro t h
  unfold execRecvExpect at h
  cases h
  with_reducible repeat' first
      | intro _ | assumption | exact .inl rfl | exact .inr (by assumption) | exact formed_refl _
      | exact fusesKept_refl _ | apply within_matchRts | apply within_refuseEntry | apply within_fire
      | apply within_failEntry | apply within_ite | (simp only [within_mk]; apply within_upd rfl) | split

theorem within_takeOwn (bPages : S .pages) (bLinks : S .links) (s : State) (h : Nat) (h_s : Within S z s) : Within S z
    (takeOwn s h) := by
  unfold takeOwn
  with_reducible repeat' first
      | assumption | apply within_State_count | apply within_State_modHalf | apply within_ite

theorem within_trainHalf (bOut : S .out) (bPages : S .pages) (bCrier : S .crier) (bLinks : S .links) (s : State) (h :
    Nat) (ok : Bool) (delay : Word) (credits : List Nat) (h_s : Within S z s) : Within S z (trainHalf s h ok delay
    credits) := by
  unfold trainHalf
  with_reducible repeat' first
      | intro _ | assumption | apply within_setEvent | apply within_State_count | apply within_State_emit
      | apply within_State_setHalf | apply within_ite | apply within_ite_fst | apply within_foldl
      | apply within_foldl_fst

theorem within_stopHalf (bLinks : S .links) (s : State) (h : Nat) (h_s : Within S z s) : Within S z (stopHalf s h) :=
    by
  unfold stopHalf
  with_reducible repeat' first
      | assumption | apply within_State_setHalf

theorem within_enableHalf (bOut : S .out) (bPages : S .pages) (bCrier : S .crier) (bLinks : S .links) (s : State) (h :
    Nat) (was : Bool) (is : Bool) (report : Option (Bool × Word × List Nat)) (h_s : Within S z s) : Within S z
    (enableHalf s h was is report) := by
  unfold enableHalf
  with_reducible repeat' first
      | assumption | apply within_stopHalf | apply within_trainHalf | apply within_State_modHalf | apply within_ite
      | apply within_ite_fst | split

theorem within_writeLinkCtl (bOut : S .out) (bPages : S .pages) (bDies : S .dies) (bBell : S .bell) (bCrier : S
    .crier) (bLinks : S .links) (bPower : S .power) (s : State) (init : Nat) (n : Nat) (value : Nat) (a : Option (Bool
    × Word × List Nat)) (b : Option (Bool × Word × List Nat)) (h_s : Within S z s) : Within S z (writeLinkCtl s init n
    value a b) := by
  unfold writeLinkCtl
  with_reducible repeat' first
      | assumption | apply within_enableHalf | apply within_checkBellSource | apply within_ignoreWrite
      | apply within_State_setReg | apply within_ite | apply within_ite_fst

theorem within_execPortTraining (bOut : S .out) (bPages : S .pages) (bDies : S .dies) (bBell : S .bell) (bCrier : S
    .crier) (bLinks : S .links) (bPower : S .power) (bHosts : S .hosts) (init : Sender) (port : Nat) (value : Word)
    (report : TrainReport) (s : State) (h_s : Within S z s) : ∀ t, (execPortTraining init port value report s) = .next
    t → Within S z t := by
  intro t h
  unfold execPortTraining at h
  cases h
  with_reducible repeat' first
      | intro _ | assumption | apply within_writeLinkCtl | apply within_ctlWrite

theorem within_execNegotiate (bOut : S .out) (bPages : S .pages) (bCrier : S .crier) (bLinks : S .links) (port : Nat)
    (low : Nat) (high : Nat) (s0 : State) (h_s0 : Within S z s0) : ∀ t, (execNegotiate port low high s0) = .next t →
    Within S z t := by
  intro t h
  unfold execNegotiate at h
  cases h
  with_reducible repeat' first
      | assumption | apply within_takeOwn | apply within_pumpAll | apply within_setEvent | apply within_State_modHalf
      | apply within_ite

theorem within_takeLack (bOut : S .out) (bPages : S .pages) (bLinks : S .links) (s : State) (h : Nat) (lack : BitVec
    12) (lnak : Bool) (h_s : Within S z s) : Within S z (takeLack s h lack lnak) := by
  unfold takeLack
  with_reducible repeat' first
      | assumption | apply within_State_count | apply within_State_emit | apply within_State_setHalf
      | apply within_ite

theorem within_execLinkCtl (bOut : S .out) (bPages : S .pages) (bLinks : S .links) (port : Nat) (lack : BitVec 12)
    (lnak : Bool) (s : State) (h_s : Within S z s) : ∀ t, (execLinkCtl port lack lnak s) = .next t → Within S z t :=
    by
  intro t h
  unfold execLinkCtl at h
  cases h
  with_reducible repeat' first
      | assumption | apply within_takeLack | apply within_takeOwn | apply within_pumpPort
      | apply within_State_modHalf | apply within_ite

theorem within_execIdle (bOut : S .out) (bPages : S .pages) (bLinks : S .links) (port : Nat) (lack : BitVec 12) (lnak
    : Bool) (crVc : Nat) (crPart : Nat) (crCount : Nat) (s : State) (h_s : Within S z s) : ∀ t, (execIdle port lack
    lnak crVc crPart crCount s) = .next t → Within S z t := by
  intro t h
  unfold execIdle at h
  cases h
  with_reducible repeat' first
      | assumption | apply within_takeLack | apply within_pumpPort | apply within_State_count
      | apply within_State_modHalf | apply within_ite

theorem within_execLinkReplay (bOut : S .out) (bLinks : S .links) (port : Nat) (s : State) (h_s : Within S z s) : ∀ t,
    (execLinkReplay port s) = .next t → Within S z t := by
  intro t h
  unfold execLinkReplay at h
  cases h
  with_reducible repeat' first
      | assumption | apply within_State_emit | apply within_State_modHalf | apply within_ite

theorem within_execFecUncorrectable (bPages : S .pages) (bLinks : S .links) (port : Nat) (s : State) (h_s : Within S z
    s) : ∀ t, (execFecUncorrectable port s) = .next t → Within S z t := by
  intro t h
  unfold execFecUncorrectable at h
  cases h
  with_reducible repeat' first
      | assumption | apply within_State_count | apply within_State_setHalf

theorem within_moveContexts (bOut : S .out) (bPages : S .pages) (bLinks : S .links) (s : State) (h : Nat) (h_s :
    Within S z s) : Within S z (moveContexts s h) := by
  unfold moveContexts
  with_reducible repeat' first
      | intro _ | assumption | apply within_resend | apply within_foldl | apply within_foldl_fst

theorem within_execLinkRetrain (bOut : S .out) (bPages : S .pages) (bCrier : S .crier) (bLinks : S .links) (port :
    Nat) (s : State) (h_s : Within S z s) : ∀ t, (execLinkRetrain port s) = .next t → Within S z t := by
  intro t h
  unfold execLinkRetrain at h
  cases h
  with_reducible repeat' first
      | assumption | apply within_moveContexts | apply within_setEvent | apply within_State_count
      | apply within_State_modHalf | apply within_ite

theorem within_execLinkRetrainDone (bFree : S .free) (bOut : S .out) (bPages : S .pages) (bDies : S .dies) (bBell : S
    .bell) (bCrier : S .crier) (bLinks : S .links) (bPower : S .power) (port : Nat) (ok : Bool) (s : State) (h_s :
    Within S z s) : ∀ t, (execLinkRetrainDone port ok s) = .next t → Within S z t := by
  intro t h
  unfold execLinkRetrainDone at h
  cases h
  with_reducible repeat' first
      | assumption | apply within_trainHalf | apply within_checkBellSource | apply within_pumpAll
      | apply within_setEvent | apply within_State_count | apply within_State_setHalf | apply within_drawFree
      | apply within_ite

theorem within_execFrame (bPages : S .pages) (f : LinkFrame) (s : State) (h_s : Within S z s) : ∀ t, (execFrame f s) =
    .next t → Within S z t := by
  intro t h
  unfold execFrame at h
  cases h
  with_reducible repeat' first
      | assumption | apply within_State_count | apply within_ite

theorem within_execPriorityPause (bLinks : S .links) (port : Nat) (priority : Nat) (s : State) (h_s : Within S z s) :
    ∀ t, (execPriorityPause port priority s) = .next t → Within S z t := by
  intro t h
  unfold execPriorityPause at h
  cases h
  with_reducible repeat' first
      | assumption | apply within_State_modHalf | apply within_ite

theorem within_execPriorityPauseExpiry (bOut : S .out) (bPages : S .pages) (bLinks : S .links) (port : Nat) (priority
    : Nat) (s : State) (h_s : Within S z s) : ∀ t, (execPriorityPauseExpiry port priority s) = .next t → Within S z t
    := by
  intro t h
  unfold execPriorityPauseExpiry at h
  rw [← Host.Outcome.next.inj h]
  exact within_pumpAll (by assumption) (by assumption) (by assumption) _ (within_State_modHalf (by assumption) _ _ _ h_s)

theorem within_execBell (bOut : S .out) (bMem : S .mem) (bBad : S .bad) (bSoftBad : S .softBad) (bHbmErr : S .hbmErr)
    (bBurstKey : S .burstKey) (bPages : S .pages) (bDies : S .dies) (bBell : S .bell) (bSched : S .sched) (bParts : S
    .parts) (bCrier : S .crier) (bLinks : S .links) (bPower : S .power) (bFlash : S .flash) (port : Nat) (count :
    Long) (locked : Bool) (s0 : State) (h_s0 : Within S z s0) : ∀ t, (execBell port count locked s0) = .next t →
    Within S z t := by
  intro t h
  unfold execBell at h
  cases h
  with_reducible repeat' first
      | assumption | apply within_takeOwn | apply within_checkBellSource | apply within_takeMark
      | apply within_State_setHalf | apply within_ite

theorem within_setD2d (bD2d : S .d2d) (s : State) (port : Nat) (v : D2d) (h_s : Within S z s) : Within S z (setD2d s
    port v) := by
  unfold setD2d
  with_reducible repeat' first
      | intro _ | assumption | exact .inl rfl | exact .inr (by assumption) | exact formed_refl _
      | exact fusesKept_refl _ | (simp only [within_mk]; apply within_upd rfl)

theorem within_stopJobs (bSched : S .sched) (bParts : S .parts) (s : State) (h_s : Within S z s) : Within S z
    (stopJobs s) := by
  unfold stopJobs
  with_reducible repeat' first
      | intro _ | assumption | apply within_failStep | apply within_State_modCtx | apply within_ite
      | apply within_foldl

theorem within_execD2dReplay (bPages : S .pages) (bD2d : S .d2d) (bSched : S .sched) (bParts : S .parts) (bCrier : S
    .crier) (port : Nat) (ok : Bool) (s : State) (h_s : Within S z s) : ∀ t, (execD2dReplay port ok s) = .next t →
    Within S z t := by
  intro t h
  unfold execD2dReplay at h
  cases h
  with_reducible repeat' first
      | assumption | apply within_stopJobs | apply within_setD2d | apply within_raiseTrap | apply within_setEvent
      | apply within_State_count | apply within_ite | apply within_ite_fst

end Sys2Proof.Machine
end

