-- ==== Sys2Proof/Laws/WithinModule.lean ====
section
/-! SUPPORT. `Within` of the operations of the module: jobs, seals, registers, resets, start, and every command of them. -/

-- One declaration at a time: the check of the package as one text bounds memory, which a thread a proof would pass.
set_option Elab.async false

namespace Sys2Proof.Machine

set_option linter.unusedSimpArgs false
set_option linter.unusedVariables false
set_option linter.unreachableTactic false
set_option linter.unusedTactic false

variable {S : Piece → Prop} {z : State}

theorem within_copyMapRegs (bPages : S .pages) (s : State) (g : Nat) (m : BitVec 260) (h_s : Within S z s) : Within S
    z (copyMapRegs s g m) := by
  unfold copyMapRegs
  with_reducible repeat' first
      | intro _ | assumption | apply within_State_setReg | apply within_foldl

theorem within_applyMap (bPages : S .pages) (bCores : S .cores) (s : State) (g : Nat) (m : BitVec 260) (h_s : Within S
    z s) : Within S z (applyMap s g m) := by
  unfold applyMap
  with_reducible repeat' first
      | assumption | apply within_copyMapRegs | apply within_State_modCore | apply within_ite

theorem within_clearMem (bMem : S .mem) (bBad : S .bad) (bSoftBad : S .softBad) (s : State) (gone : Nat → Bool) (h_s :
    Within S z s) : Within S z (clearMem s gone) := by
  unfold clearMem
  with_reducible repeat' first
      | intro _ | assumption | exact .inl rfl | exact .inr (by assumption) | exact formed_refl _
      | exact fusesKept_refl _ | exact formed_filter _ _ | exact formed_nil _ | apply within_ite
      | (simp only [within_mk]; apply within_upd rfl) | split | dsimp only

theorem within_clearPages (bPages : S .pages) (s : State) (gone : Nat → Bool) (h_s : Within S z s) : Within S z
    (clearPages s gone) := by
  unfold clearPages
  with_reducible repeat' first
      | intro _ | assumption | exact .inl rfl | exact .inr (by assumption) | exact formed_refl _
      | exact fusesKept_refl _ | (simp only [within_mk]; apply within_upd rfl)

theorem within_resetCore (bMem : S .mem) (bBad : S .bad) (bSoftBad : S .softBad) (bPages : S .pages) (bCores : S
    .cores) (s : State) (g : Nat) (h_s : Within S z s) : Within S z (resetCore s g) := by
  unfold resetCore
  with_reducible repeat' first
      | assumption | apply within_clearPages | apply within_clearMem | apply within_applyMap
      | apply within_State_setCore

theorem within_dropQuad (bMem : S .mem) (bBad : S .bad) (bSoftBad : S .softBad) (bPages : S .pages) (bCores : S
    .cores) (s : State) (q : Nat) (h_s : Within S z s) : Within S z (dropQuad s q) := by
  unfold dropQuad
  with_reducible repeat' first
      | intro _ | assumption | apply within_resetCore | apply within_foldl

theorem within_dropPort (bPages : S .pages) (bDies : S .dies) (bBell : S .bell) (bCrier : S .crier) (bLinks : S
    .links) (bPower : S .power) (s : State) (n : Nat) (h_s : Within S z s) : Within S z (dropPort s n) := by
  unfold dropPort
  with_reducible repeat' first
      | assumption | apply within_clearPages | apply within_checkBellSource | apply within_State_setHalf

theorem within_loadRepair (bPages : S .pages) (bCores : S .cores) (s : State) (h_s : Within S z s) : Within S z
    (loadRepair s) := by
  unfold loadRepair
  with_reducible repeat' first
      | intro _ | assumption | apply within_applyMap | apply within_State_modCore | apply within_foldl
      | apply within_foldl_fst

theorem within_bareState (bMem : S .mem) (bBad : S .bad) (bSoftBad : S .softBad) (bHbmErr : S .hbmErr) (bBurstKey : S
    .burstKey) (bHbmStale : S .hbmStale) (bTags : S .tags) (bPages : S .pages) (bCores : S .cores) (bDies : S .dies)
    (bD2d : S .d2d) (bBell : S .bell) (bSched : S .sched) (bParts : S .parts) (bCrier : S .crier) (bLinks : S .links)
    (bSealU : S .sealU) (bPower : S .power) (bBoot : S .boot) (bHosts : S .hosts) (s : State) (p : Power) (h_s :
    Within S z s) : Within S z (bareState s p) := by
  unfold bareState
  with_reducible repeat' first
      | intro _ | assumption | exact .inl rfl | exact .inr (by assumption) | exact formed_refl _
      | exact fusesKept_refl _ | exact formed_filter _ _ | exact formed_nil _ | apply within_loadRepair
      | apply within_ite | apply within_ite_fst | (simp only [within_mk]; apply within_upd rfl) | split | dsimp only

theorem within_powerOff (bMem : S .mem) (bBad : S .bad) (bSoftBad : S .softBad) (bHbmErr : S .hbmErr) (bBurstKey : S
    .burstKey) (bHbmStale : S .hbmStale) (bTags : S .tags) (bPages : S .pages) (bCores : S .cores) (bDies : S .dies)
    (bD2d : S .d2d) (bBell : S .bell) (bSched : S .sched) (bParts : S .parts) (bCrier : S .crier) (bLinks : S .links)
    (bSealU : S .sealU) (bPower : S .power) (bBoot : S .boot) (bHosts : S .hosts) (s : State) (h_s : Within S z s) :
    Within S z (powerOff s) := by
  unfold powerOff
  with_reducible repeat' first
      | assumption | apply within_bareState

theorem within_powerOn (bMem : S .mem) (bBad : S .bad) (bSoftBad : S .softBad) (bHbmErr : S .hbmErr) (bBurstKey : S
    .burstKey) (bHbmStale : S .hbmStale) (bTags : S .tags) (bPages : S .pages) (bCores : S .cores) (bDies : S .dies)
    (bD2d : S .d2d) (bBell : S .bell) (bSched : S .sched) (bParts : S .parts) (bCrier : S .crier) (bLinks : S .links)
    (bSealU : S .sealU) (bPower : S .power) (bBoot : S .boot) (bHosts : S .hosts) (s : State) (centivolts : Nat) (h_s
    : Within S z s) : Within S z (powerOn s centivolts) := by
  unfold powerOn
  with_reducible repeat' first
      | assumption | apply within_bareState

theorem within_moduleReset (bMem : S .mem) (bBad : S .bad) (bSoftBad : S .softBad) (bHbmErr : S .hbmErr) (bBurstKey :
    S .burstKey) (bHbmStale : S .hbmStale) (bTags : S .tags) (bPages : S .pages) (bCores : S .cores) (bDies : S .dies)
    (bD2d : S .d2d) (bBell : S .bell) (bSched : S .sched) (bParts : S .parts) (bCrier : S .crier) (bLinks : S .links)
    (bSealU : S .sealU) (bPower : S .power) (bBoot : S .boot) (bHosts : S .hosts) (s : State) (h_s : Within S z s) :
    Within S z (moduleReset s) := by
  unfold moduleReset
  with_reducible repeat' first
      | assumption | apply within_bareState

theorem within_setExcluded (bBurstKey : S .burstKey) (bHbmStale : S .hbmStale) (bPages : S .pages) (bDies : S .dies)
    (s : State) (ws : List Word) (h_s : Within S z s) : Within S z (setExcluded s ws) := by
  unfold setExcluded
  with_reducible repeat' first
      | intro _ | assumption | exact .inl rfl | exact .inr (by assumption) | exact formed_refl _
      | exact fusesKept_refl _ | apply within_loseBursts | apply within_State_modHbmc | apply within_State_setReg
      | apply within_ite | apply within_ite_fst | apply within_foldl | apply within_foldl_fst
      | (simp only [within_mk]; apply within_upd rfl)

theorem within_moduleResetHbm (bMem : S .mem) (bBad : S .bad) (bSoftBad : S .softBad) (bHbmErr : S .hbmErr) (bBurstKey
    : S .burstKey) (bHbmStale : S .hbmStale) (bTags : S .tags) (bPages : S .pages) (bCores : S .cores) (bDies : S
    .dies) (bD2d : S .d2d) (bBell : S .bell) (bSched : S .sched) (bParts : S .parts) (bCrier : S .crier) (bLinks : S
    .links) (bSealU : S .sealU) (bPower : S .power) (bBoot : S .boot) (bHosts : S .hosts) (s : State) (h_s : Within S
    z s) : Within S z (moduleResetHbm s) := by
  unfold moduleResetHbm
  with_reducible repeat' first
      | assumption | apply within_setExcluded | apply within_moduleReset

theorem within_warmReset (bMem : S .mem) (bBad : S .bad) (bSoftBad : S .softBad) (bHbmErr : S .hbmErr) (bBurstKey : S
    .burstKey) (bHbmStale : S .hbmStale) (bTags : S .tags) (bPages : S .pages) (bCores : S .cores) (bDies : S .dies)
    (bD2d : S .d2d) (bBell : S .bell) (bSched : S .sched) (bParts : S .parts) (bCrier : S .crier) (bLinks : S .links)
    (bSealU : S .sealU) (bPower : S .power) (bBoot : S .boot) (bHosts : S .hosts) (s : State) (h_s : Within S z s) :
    Within S z (warmReset s) := by
  unfold warmReset
  extract_lets pw t t1 t2
  have ht : Within S z t := by
    with_reducible repeat' first
      | assumption | apply within_bareState
  have h1 : Within S z t1 := by
    simp only [t1, within_mk]
    exact ⟨ht.queue, fun k => memWf_filter _ _ (h_s.form k), ht.fuse, ht.free, ht.out, keep_of bMem, ht.bad, ht.softBad,
      keep_of bHbmErr, keep_of bBurstKey, keep_of bHbmStale, ht.tags, ht.pages, ht.cores, ht.dies, keep_of bD2d, ht.bell,
      ht.sched, ht.parts, ht.crier, ht.links, ht.sealU, ht.power, ht.boot, ht.flash, ht.fuses, ht.hosts⟩
  have h2 : Within S z t2 := within_foldl _ _ _ (fun x _ hx => within_State_modHbmc bDies x _ _ _ hx) h1
  with_reducible repeat' first
      | assumption | apply within_setExcluded

theorem within_resetDie (bMem : S .mem) (bBad : S .bad) (bSoftBad : S .softBad) (bPages : S .pages) (bCores : S
    .cores) (bDies : S .dies) (s : State) (d : Nat) (h_s : Within S z s) : Within S z (resetDie s d) := by
  unfold resetDie
  with_reducible repeat' first
      | intro _ | assumption | apply within_resetCore | apply within_clearPages | apply within_State_modDie
      | apply within_State_modPage | apply within_foldl | apply within_foldl_fst

theorem within_softReset (bPages : S .pages) (bPower : S .power) (bBoot : S .boot) (s : State) (init : Nat) (value :
    Nat) (pages : List Nat) (f : State → State) (h_s : Within S z s) (h_f : ∀ x0, Within S z x0 → Within S z (f x0)) :
    Within S z (softReset s init value pages f) := by
  unfold softReset
  with_reducible repeat' first
      | intro _ | assumption | exact .inl rfl | exact .inr (by assumption) | exact formed_refl _
      | exact fusesKept_refl _ | apply h_f | apply within_ignoreWrite | apply within_ite
      | (simp only [within_mk]; apply within_upd rfl)

theorem within_writeReset (bMem : S .mem) (bBad : S .bad) (bSoftBad : S .softBad) (bHbmErr : S .hbmErr) (bBurstKey : S
    .burstKey) (bHbmStale : S .hbmStale) (bTags : S .tags) (bPages : S .pages) (bCores : S .cores) (bDies : S .dies)
    (bD2d : S .d2d) (bBell : S .bell) (bSched : S .sched) (bParts : S .parts) (bCrier : S .crier) (bLinks : S .links)
    (bSealU : S .sealU) (bPower : S .power) (bBoot : S .boot) (bHosts : S .hosts) (s : State) (init : Nat) (value :
    Nat) (h_s : Within S z s) : Within S z (writeReset s init value) := by
  unfold writeReset
  with_reducible repeat' first
      | intro _ | assumption | apply within_softReset | apply within_resetDie | apply within_warmReset
      | apply within_resetCore | apply within_ignoreWrite | apply within_ite

theorem within_execWarmReset (bMem : S .mem) (bBad : S .bad) (bSoftBad : S .softBad) (bHbmErr : S .hbmErr) (bBurstKey
    : S .burstKey) (bHbmStale : S .hbmStale) (bTags : S .tags) (bPages : S .pages) (bCores : S .cores) (bDies : S
    .dies) (bD2d : S .d2d) (bBell : S .bell) (bSched : S .sched) (bParts : S .parts) (bCrier : S .crier) (bLinks : S
    .links) (bSealU : S .sealU) (bPower : S .power) (bBoot : S .boot) (bHosts : S .hosts) (init : Sender) (value :
    Word) (s : State) (h_s : Within S z s) : ∀ t, (execWarmReset init value s) = .next t → Within S z t := by
  intro t h
  unfold execWarmReset at h
  cases h
  with_reducible repeat' first
      | intro _ | assumption | apply within_writeReset | apply within_ctlWrite

theorem within_execDieReset (bMem : S .mem) (bBad : S .bad) (bSoftBad : S .softBad) (bHbmErr : S .hbmErr) (bBurstKey :
    S .burstKey) (bHbmStale : S .hbmStale) (bTags : S .tags) (bPages : S .pages) (bCores : S .cores) (bDies : S .dies)
    (bD2d : S .d2d) (bBell : S .bell) (bSched : S .sched) (bParts : S .parts) (bCrier : S .crier) (bLinks : S .links)
    (bSealU : S .sealU) (bPower : S .power) (bBoot : S .boot) (bHosts : S .hosts) (init : Sender) (value : Word) (s :
    State) (h_s : Within S z s) : ∀ t, (execDieReset init value s) = .next t → Within S z t := by
  intro t h
  unfold execDieReset at h
  cases h
  with_reducible repeat' first
      | intro _ | assumption | apply within_writeReset | apply within_ctlWrite

theorem within_execCoreReset (bMem : S .mem) (bBad : S .bad) (bSoftBad : S .softBad) (bHbmErr : S .hbmErr) (bBurstKey
    : S .burstKey) (bHbmStale : S .hbmStale) (bTags : S .tags) (bPages : S .pages) (bCores : S .cores) (bDies : S
    .dies) (bD2d : S .d2d) (bBell : S .bell) (bSched : S .sched) (bParts : S .parts) (bCrier : S .crier) (bLinks : S
    .links) (bSealU : S .sealU) (bPower : S .power) (bBoot : S .boot) (bHosts : S .hosts) (init : Sender) (value :
    Word) (s : State) (h_s : Within S z s) : ∀ t, (execCoreReset init value s) = .next t → Within S z t := by
  intro t h
  unfold execCoreReset at h
  cases h
  with_reducible repeat' first
      | intro _ | assumption | apply within_writeReset | apply within_ctlWrite

theorem within_execResetComplete (bBoot : S .boot) (s : State) (h_s : Within S z s) : ∀ t, (execResetComplete s) =
    .next t → Within S z t := by
  intro t h
  unfold execResetComplete at h
  cases h
  with_reducible repeat' first
      | intro _ | assumption | exact .inl rfl | exact .inr (by assumption) | exact formed_refl _
      | exact fusesKept_refl _ | (simp only [within_mk]; apply within_upd rfl)

theorem within_unlessHot (bPower : S .power) (s : State) (reset : State → State) (h_s : Within S z s) (h_reset : ∀ x0,
    Within S z x0 → Within S z (reset x0)) : Within S z (unlessHot s reset) := by
  unfold unlessHot
  with_reducible repeat' first
      | intro _ | assumption | exact .inl rfl | exact .inr (by assumption) | exact formed_refl _
      | exact fusesKept_refl _ | apply h_reset | apply within_ite | (simp only [within_mk]; apply within_upd rfl)

theorem within_readVolts (bPower : S .power) (s : State) (centivolts : Nat) (h_s : Within S z s) : Within S z
    (readVolts s centivolts) := by
  unfold readVolts
  with_reducible repeat' first
      | intro _ | assumption | exact .inl rfl | exact .inr (by assumption) | exact formed_refl _
      | exact fusesKept_refl _ | (simp only [within_mk]; apply within_upd rfl)

theorem within_execPwrEnAssert (bMem : S .mem) (bBad : S .bad) (bSoftBad : S .softBad) (bHbmErr : S .hbmErr)
    (bBurstKey : S .burstKey) (bHbmStale : S .hbmStale) (bTags : S .tags) (bPages : S .pages) (bCores : S .cores)
    (bDies : S .dies) (bD2d : S .d2d) (bBell : S .bell) (bSched : S .sched) (bParts : S .parts) (bCrier : S .crier)
    (bLinks : S .links) (bSealU : S .sealU) (bPower : S .power) (bBoot : S .boot) (bHosts : S .hosts) (centivolts :
    Nat) (s : State) (h_s : Within S z s) : ∀ t, (execPwrEnAssert centivolts s) = .next t → Within S z t := by
  intro t h
  unfold execPwrEnAssert at h
  cases h
  with_reducible repeat' first
      | intro _ | assumption | exact .inl rfl | exact .inr (by assumption) | exact formed_refl _
      | exact fusesKept_refl _ | apply within_readVolts | apply within_unlessHot | apply within_powerOn
      | apply within_ite | (simp only [within_mk]; apply within_upd rfl)

theorem within_execSupplyValid (bMem : S .mem) (bBad : S .bad) (bSoftBad : S .softBad) (bHbmErr : S .hbmErr)
    (bBurstKey : S .burstKey) (bHbmStale : S .hbmStale) (bTags : S .tags) (bPages : S .pages) (bCores : S .cores)
    (bDies : S .dies) (bD2d : S .d2d) (bBell : S .bell) (bSched : S .sched) (bParts : S .parts) (bCrier : S .crier)
    (bLinks : S .links) (bSealU : S .sealU) (bPower : S .power) (bBoot : S .boot) (bHosts : S .hosts) (centivolts :
    Nat) (s : State) (h_s : Within S z s) : ∀ t, (execSupplyValid centivolts s) = .next t → Within S z t := by
  intro t h
  unfold execSupplyValid at h
  cases h
  with_reducible repeat' first
      | intro _ | assumption | apply within_readVolts | apply within_unlessHot | apply within_powerOn
      | apply within_ite

theorem within_powerDown (bMem : S .mem) (bBad : S .bad) (bSoftBad : S .softBad) (bHbmErr : S .hbmErr) (bBurstKey : S
    .burstKey) (bHbmStale : S .hbmStale) (bTags : S .tags) (bPages : S .pages) (bCores : S .cores) (bDies : S .dies)
    (bD2d : S .d2d) (bBell : S .bell) (bSched : S .sched) (bParts : S .parts) (bCrier : S .crier) (bLinks : S .links)
    (bSealU : S .sealU) (bPower : S .power) (bBoot : S .boot) (bHosts : S .hosts) (s : State) (h_s : Within S z s) :
    Within S z (powerDown s) := by
  unfold powerDown
  with_reducible repeat' first
      | intro _ | assumption | exact .inl rfl | exact .inr (by assumption) | exact formed_refl _
      | exact fusesKept_refl _ | apply within_powerOff | apply within_ite
      | (simp only [within_mk]; apply within_upd rfl)

theorem within_execPwrEnDeassert (bMem : S .mem) (bBad : S .bad) (bSoftBad : S .softBad) (bHbmErr : S .hbmErr)
    (bBurstKey : S .burstKey) (bHbmStale : S .hbmStale) (bTags : S .tags) (bPages : S .pages) (bCores : S .cores)
    (bDies : S .dies) (bD2d : S .d2d) (bBell : S .bell) (bSched : S .sched) (bParts : S .parts) (bCrier : S .crier)
    (bLinks : S .links) (bSealU : S .sealU) (bPower : S .power) (bBoot : S .boot) (bHosts : S .hosts) (s : State) (h_s
    : Within S z s) : ∀ t, (execPwrEnDeassert s) = .next t → Within S z t := by
  intro t h
  unfold execPwrEnDeassert at h
  cases h
  with_reducible repeat' first
      | intro _ | assumption | exact .inl rfl | exact .inr (by assumption) | exact formed_refl _
      | exact fusesKept_refl _ | apply within_powerDown | (simp only [within_mk]; apply within_upd rfl)

theorem within_execUndervoltage (bMem : S .mem) (bBad : S .bad) (bSoftBad : S .softBad) (bHbmErr : S .hbmErr)
    (bBurstKey : S .burstKey) (bHbmStale : S .hbmStale) (bTags : S .tags) (bPages : S .pages) (bCores : S .cores)
    (bDies : S .dies) (bD2d : S .d2d) (bBell : S .bell) (bSched : S .sched) (bParts : S .parts) (bCrier : S .crier)
    (bLinks : S .links) (bSealU : S .sealU) (bPower : S .power) (bBoot : S .boot) (bHosts : S .hosts) (s : State) (h_s
    : Within S z s) : ∀ t, (execUndervoltage s) = .next t → Within S z t := by
  intro t h
  unfold execUndervoltage at h
  cases h
  with_reducible repeat' first
      | assumption | apply within_powerDown

theorem within_execOvervoltage (bMem : S .mem) (bBad : S .bad) (bSoftBad : S .softBad) (bHbmErr : S .hbmErr)
    (bBurstKey : S .burstKey) (bHbmStale : S .hbmStale) (bTags : S .tags) (bPages : S .pages) (bCores : S .cores)
    (bDies : S .dies) (bD2d : S .d2d) (bBell : S .bell) (bSched : S .sched) (bParts : S .parts) (bCrier : S .crier)
    (bLinks : S .links) (bSealU : S .sealU) (bPower : S .power) (bBoot : S .boot) (bHosts : S .hosts) (s : State) (h_s
    : Within S z s) : ∀ t, (execOvervoltage s) = .next t → Within S z t := by
  intro t h
  unfold execOvervoltage at h
  cases h
  with_reducible repeat' first
      | assumption | apply within_powerDown

theorem within_execModRstNAssert (bMem : S .mem) (bBad : S .bad) (bSoftBad : S .softBad) (bHbmErr : S .hbmErr)
    (bBurstKey : S .burstKey) (bHbmStale : S .hbmStale) (bTags : S .tags) (bPages : S .pages) (bCores : S .cores)
    (bDies : S .dies) (bD2d : S .d2d) (bBell : S .bell) (bSched : S .sched) (bParts : S .parts) (bCrier : S .crier)
    (bLinks : S .links) (bSealU : S .sealU) (bPower : S .power) (bBoot : S .boot) (bHosts : S .hosts) (s : State) (h_s
    : Within S z s) : ∀ t, (execModRstNAssert s) = .next t → Within S z t := by
  intro t h
  unfold execModRstNAssert at h
  cases h
  with_reducible repeat' first
      | intro _ | assumption | exact .inl rfl | exact .inr (by assumption) | exact formed_refl _
      | exact fusesKept_refl _ | apply within_unlessHot | apply within_moduleResetHbm | apply within_ite
      | (simp only [within_mk]; apply within_upd rfl)

theorem within_execModRstNRelease (bPower : S .power) (s : State) (h_s : Within S z s) : ∀ t, (execModRstNRelease s) =
    .next t → Within S z t := by
  intro t h
  unfold execModRstNRelease at h
  cases h
  with_reducible repeat' first
      | intro _ | assumption | exact .inl rfl | exact .inr (by assumption) | exact formed_refl _
      | exact fusesKept_refl _ | (simp only [within_mk]; apply within_upd rfl)

theorem within_execHeldResetRelease (bMem : S .mem) (bBad : S .bad) (bSoftBad : S .softBad) (bHbmErr : S .hbmErr)
    (bBurstKey : S .burstKey) (bHbmStale : S .hbmStale) (bTags : S .tags) (bPages : S .pages) (bCores : S .cores)
    (bDies : S .dies) (bD2d : S .d2d) (bBell : S .bell) (bSched : S .sched) (bParts : S .parts) (bCrier : S .crier)
    (bLinks : S .links) (bSealU : S .sealU) (bPower : S .power) (bBoot : S .boot) (bHosts : S .hosts) (s : State) (h_s
    : Within S z s) : ∀ t, (execHeldResetRelease s) = .next t → Within S z t := by
  intro t h
  unfold execHeldResetRelease at h
  cases h
  with_reducible repeat' first
      | intro _ | assumption | exact .inl rfl | exact .inr (by assumption) | exact formed_refl _
      | exact fusesKept_refl _ | apply within_moduleResetHbm | apply within_powerOn | apply within_ite
      | (simp only [within_mk]; apply within_upd rfl)

theorem within_setDroop (bPower : S .power) (s : State) (q : Nat) (v : Droop) (h_s : Within S z s) : Within S z
    (setDroop s q v) := by
  unfold setDroop
  with_reducible repeat' first
      | intro _ | assumption | exact .inl rfl | exact .inr (by assumption) | exact formed_refl _
      | exact fusesKept_refl _ | (simp only [within_mk]; apply within_upd rfl)

theorem within_execDroopSag (bPages : S .pages) (bPower : S .power) (die : Nat) (quad : Nat) (s : State) (h_s : Within
    S z s) : ∀ t, (execDroopSag die quad s) = .next t → Within S z t := by
  intro t h
  unfold execDroopSag at h
  cases h
  with_reducible repeat' first
      | assumption | apply within_setDroop | apply within_State_count | apply within_ite

theorem within_execDroopDeep (bPages : S .pages) (bPower : S .power) (die : Nat) (quad : Nat) (s : State) (h_s :
    Within S z s) : ∀ t, (execDroopDeep die quad s) = .next t → Within S z t := by
  intro t h
  unfold execDroopDeep at h
  cases h
  with_reducible repeat' first
      | assumption | apply within_setDroop | apply within_State_count | apply within_ite

theorem within_execDroopRecover (bPower : S .power) (die : Nat) (quad : Nat) (s : State) (h_s : Within S z s) : ∀ t,
    (execDroopRecover die quad s) = .next t → Within S z t := by
  intro t h
  unfold execDroopRecover at h
  cases h
  with_reducible repeat' first
      | assumption | apply within_setDroop | apply within_ite

theorem within_execDroopHoldEnd (bPower : S .power) (die : Nat) (quad : Nat) (s : State) (h_s : Within S z s) : ∀ t,
    (execDroopHoldEnd die quad s) = .next t → Within S z t := by
  intro t h
  unfold execDroopHoldEnd at h
  cases h
  with_reducible repeat' first
      | assumption | apply within_setDroop | apply within_ite

theorem within_settleThrottle (bPower : S .power) (s : State) (h_s : Within S z s) : Within S z (settleThrottle s) :=
    by
  unfold settleThrottle
  with_reducible repeat' first
      | intro _ | assumption | exact .inl rfl | exact .inr (by assumption) | exact formed_refl _
      | exact fusesKept_refl _ | apply within_ite | (simp only [within_mk]; apply within_upd rfl)

theorem within_execThrottleNAssert (bPower : S .power) (fast : Bool) (s : State) (h_s : Within S z s) : ∀ t,
    (execThrottleNAssert fast s) = .next t → Within S z t := by
  intro t h
  unfold execThrottleNAssert at h
  cases h
  with_reducible repeat' first
      | intro _ | assumption | exact .inl rfl | exact .inr (by assumption) | exact formed_refl _
      | exact fusesKept_refl _ | (simp only [within_mk]; apply within_upd rfl)

theorem within_execThrottleNDeassert (bPower : S .power) (fast : Bool) (quiet : Bool) (s : State) (h_s : Within S z s)
    : ∀ t, (execThrottleNDeassert fast quiet s) = .next t → Within S z t := by
  intro t h
  unfold execThrottleNDeassert at h
  cases h
  with_reducible repeat' first
      | intro _ | assumption | exact .inl rfl | exact .inr (by assumption) | exact formed_refl _
      | exact fusesKept_refl _ | apply within_settleThrottle | (simp only [within_mk]; apply within_upd rfl)

theorem within_execThrottleLong (bPages : S .pages) (bCrier : S .crier) (bPower : S .power) (s : State) (h_s : Within
    S z s) : ∀ t, (execThrottleLong s) = .next t → Within S z t := by
  intro t h
  unfold execThrottleLong at h
  cases h
  with_reducible repeat' first
      | assumption | apply within_raiseAlert | apply within_ite

theorem within_stepCap (bPages : S .pages) (bCrier : S .crier) (bPower : S .power) (s : State) (p : Nat) (h_s : Within
    S z s) : Within S z (stepCap s p) := by
  unfold stepCap
  with_reducible repeat' first
      | intro _ | assumption | exact .inl rfl | exact .inr (by assumption) | exact formed_refl _
      | exact fusesKept_refl _ | apply within_raiseAlert | apply within_ite
      | (simp only [within_mk]; apply within_upd rfl)

theorem within_stepThermal (bPages : S .pages) (bCrier : S .crier) (bPower : S .power) (s : State) (q : Nat) (t : Int)
    (h_s : Within S z s) : Within S z (stepThermal s q t) := by
  unfold stepThermal
  with_reducible repeat' first
      | intro _ | assumption | exact .inl rfl | exact .inr (by assumption) | exact formed_refl _
      | exact fusesKept_refl _ | apply within_raiseAlert | apply within_ite
      | (simp only [within_mk]; apply within_upd rfl)

theorem within_execCapPeriod (bPages : S .pages) (bCrier : S .crier) (bPower : S .power) (watts : Nat) (centivolts :
    Nat) (quadT : List Int) (hubT : List Int) (stackT : List Int) (regT : List Int) (s : State) (h_s : Within S z s) :
    ∀ t, (execCapPeriod watts centivolts quadT hubT stackT regT s) = .next t → Within S z t := by
  intro t h
  unfold execCapPeriod at h
  cases h
  with_reducible repeat' first
      | intro _ | assumption | exact .inl rfl | exact .inr (by assumption) | exact formed_refl _
      | exact fusesKept_refl _ | apply within_stepThermal | apply within_stepCap | apply within_ite
      | apply within_ite_fst | apply within_foldl | apply within_foldl_fst
      | (simp only [within_mk]; apply within_upd rfl)

theorem within_execFastLimit (bPages : S .pages) (bPower : S .power) (s : State) (h_s : Within S z s) : ∀ t,
    (execFastLimit s) = .next t → Within S z t := by
  intro t h
  unfold execFastLimit at h
  cases h
  with_reducible repeat' first
      | intro _ | assumption | exact .inl rfl | exact .inr (by assumption) | exact formed_refl _
      | exact fusesKept_refl _ | apply within_State_count | apply within_ite
      | (simp only [within_mk]; apply within_upd rfl)

theorem within_execSupplyWarn (bPages : S .pages) (bCrier : S .crier) (bPower : S .power) (s : State) (h_s : Within S
    z s) : ∀ t, (execSupplyWarn s) = .next t → Within S z t := by
  intro t h
  unfold execSupplyWarn at h
  cases h
  with_reducible repeat' first
      | intro _ | assumption | exact .inl rfl | exact .inr (by assumption) | exact formed_refl _
      | exact fusesKept_refl _ | apply within_raiseAlert | apply within_ite
      | (simp only [within_mk]; apply within_upd rfl)

theorem within_addFailure (bFlash : S .flash) (s : State) (code : Nat) (die : Nat) (detail : Nat) (h_s : Within S z s)
    : Within S z (addFailure s code die detail) := by
  unfold addFailure
  with_reducible repeat' first
      | intro _ | assumption | exact .inl rfl | exact .inr (by assumption) | exact formed_refl _
      | exact fusesKept_refl _ | apply within_ite | (simp only [within_mk]; apply within_upd rfl)

theorem within_shutDomains (bMem : S .mem) (bBad : S .bad) (bSoftBad : S .softBad) (bHbmErr : S .hbmErr) (bBurstKey :
    S .burstKey) (bTags : S .tags) (bPages : S .pages) (bCores : S .cores) (bDies : S .dies) (bD2d : S .d2d) (bSched :
    S .sched) (bParts : S .parts) (bCrier : S .crier) (bLinks : S .links) (bPower : S .power) (bHosts : S .hosts) (s :
    State) (h_s : Within S z s) : Within S z (shutDomains s) := by
  unfold shutDomains
  with_reducible repeat' first
      | intro _ | assumption | exact .inl rfl | exact .inr (by assumption) | exact formed_refl _
      | exact fusesKept_refl _ | exact formed_filter _ _ | exact formed_nil _ | apply within_clearPages
      | apply within_ite | apply within_ite_fst | (simp only [within_mk]; apply within_upd rfl) | split | dsimp only

theorem within_execThermalShutdown (bMem : S .mem) (bBad : S .bad) (bSoftBad : S .softBad) (bHbmErr : S .hbmErr)
    (bBurstKey : S .burstKey) (bTags : S .tags) (bPages : S .pages) (bCores : S .cores) (bDies : S .dies) (bD2d : S
    .d2d) (bSched : S .sched) (bParts : S .parts) (bCrier : S .crier) (bLinks : S .links) (bPower : S .power) (bFlash
    : S .flash) (bHosts : S .hosts) (s : State) (h_s : Within S z s) : ∀ t, (execThermalShutdown s) = .next t → Within
    S z t := by
  intro t h
  unfold execThermalShutdown at h
  cases h
  with_reducible repeat' first
      | assumption | apply within_shutDomains | apply within_addFailure | apply within_raiseAlert | apply within_ite

theorem within_ramp (bPower : S .power) (s : State) (l : List Nat) (h_s : Within S z s) : Within S z (ramp s l) := by
  unfold ramp
  with_reducible repeat' first
      | intro _ | assumption | exact .inl rfl | exact .inr (by assumption) | exact formed_refl _
      | exact fusesKept_refl _ | (simp only [within_mk]; apply within_upd rfl)

theorem within_execDomainRegulation (bPower : S .power) (s : State) (h_s : Within S z s) : ∀ t, (execDomainRegulation
    s) = .next t → Within S z t := by
  intro t h
  unfold execDomainRegulation at h
  cases h
  with_reducible repeat' first
      | intro _ | assumption | exact .inl rfl | exact .inr (by assumption) | exact formed_refl _
      | exact fusesKept_refl _ | apply within_ramp | apply within_ite | (simp only [within_mk]; apply within_upd rfl)

theorem within_failStart (bMem : S .mem) (bBad : S .bad) (bSoftBad : S .softBad) (bHbmErr : S .hbmErr) (bBurstKey : S
    .burstKey) (bHbmStale : S .hbmStale) (bTags : S .tags) (bPages : S .pages) (bCores : S .cores) (bDies : S .dies)
    (bD2d : S .d2d) (bBell : S .bell) (bSched : S .sched) (bParts : S .parts) (bCrier : S .crier) (bLinks : S .links)
    (bSealU : S .sealU) (bPower : S .power) (bBoot : S .boot) (bFlash : S .flash) (bHosts : S .hosts) (s : State)
    (code : Nat) (die : Nat) (detail : Nat) (h_s : Within S z s) : Within S z (failStart s code die detail) := by
  unfold failStart
  with_reducible repeat' first
      | assumption | apply within_addFailure | apply within_warmReset

theorem within_beginStart (bSealU : S .sealU) (bPower : S .power) (bBoot : S .boot) (bFlash : S .flash) (bFuses : S
    .fuses) (s : State) (strap : BitVec 3) (h_s : Within S z s) : Within S z (beginStart s strap) := by
  unfold beginStart
  with_reducible repeat' first
      | intro _ | assumption | exact .inl rfl | exact .inr (by assumption) | exact formed_refl _
      | exact fusesKept_refl _ | exact fusesKept_identity _ _ _ | apply within_ramp | apply within_addFailure
      | apply within_ite | (simp only [within_mk]; apply within_upd rfl) | split | dsimp only

theorem within_onlyRankTwo (bMem : S .mem) (bBad : S .bad) (bSoftBad : S .softBad) (bHbmErr : S .hbmErr) (bBurstKey :
    S .burstKey) (bCores : S .cores) (bDies : S .dies) (bD2d : S .d2d) (bLinks : S .links) (bPower : S .power) (s :
    State) (h_s : Within S z s) : Within S z (onlyRankTwo s) := by
  unfold onlyRankTwo
  with_reducible repeat' first
      | intro _ | assumption | exact .inl rfl | exact .inr (by assumption) | exact formed_refl _
      | exact fusesKept_refl _ | exact formed_filter _ _ | exact formed_nil _
      | (simp only [within_mk]; apply within_upd rfl)

theorem within_enterMinimal (bMem : S .mem) (bBad : S .bad) (bSoftBad : S .softBad) (bHbmErr : S .hbmErr) (bBurstKey :
    S .burstKey) (bPages : S .pages) (bCores : S .cores) (bDies : S .dies) (bD2d : S .d2d) (bCrier : S .crier) (bLinks
    : S .links) (bSealU : S .sealU) (bPower : S .power) (bBoot : S .boot) (s : State) (h_s : Within S z s) : Within S
    z (enterMinimal s) := by
  unfold enterMinimal
  with_reducible repeat' first
      | intro _ | assumption | exact .inl rfl | exact .inr (by assumption) | exact formed_refl _
      | exact fusesKept_refl _ | apply within_onlyRankTwo | apply within_raiseAlert
      | (simp only [within_mk]; apply within_upd rfl)

theorem within_copyStage1 (bMem : S .mem) (s : State) (h_s : Within S z s) : Within S z (copyStage1 s) := by
  unfold copyStage1
  with_reducible repeat' first
      | assumption | apply within_memWrite | apply within_ite | apply within_ite_fst

theorem within_finishRom (bMem : S .mem) (bBad : S .bad) (bSoftBad : S .softBad) (bHbmErr : S .hbmErr) (bBurstKey : S
    .burstKey) (bHbmStale : S .hbmStale) (bTags : S .tags) (bPages : S .pages) (bCores : S .cores) (bDies : S .dies)
    (bD2d : S .d2d) (bBell : S .bell) (bSched : S .sched) (bParts : S .parts) (bCrier : S .crier) (bLinks : S .links)
    (bSealU : S .sealU) (bPower : S .power) (bBoot : S .boot) (bFlash : S .flash) (bHosts : S .hosts) (s : State)
    (verified : Bool) (imageHash : BitVec 512) (h_s : Within S z s) : Within S z (finishRom s verified imageHash) :=
    by
  unfold finishRom
  with_reducible repeat' first
      | intro _ | assumption | exact .inl rfl | exact .inr (by assumption) | exact formed_refl _
      | exact fusesKept_refl _ | apply within_copyStage1 | apply within_enterMinimal | apply within_failStart
      | apply within_ite | (simp only [within_mk]; apply within_upd rfl)

theorem within_execBootRom (bMem : S .mem) (bBad : S .bad) (bSoftBad : S .softBad) (bHbmErr : S .hbmErr) (bBurstKey :
    S .burstKey) (bHbmStale : S .hbmStale) (bTags : S .tags) (bPages : S .pages) (bCores : S .cores) (bDies : S .dies)
    (bD2d : S .d2d) (bBell : S .bell) (bSched : S .sched) (bParts : S .parts) (bCrier : S .crier) (bLinks : S .links)
    (bSealU : S .sealU) (bPower : S .power) (bBoot : S .boot) (bFlash : S .flash) (bFuses : S .fuses) (bHosts : S
    .hosts) (verified : Bool) (imageHash : BitVec 512) (strap : BitVec 3) (s : State) (h_s : Within S z s) : ∀ t,
    (execBootRom verified imageHash strap s) = .next t → Within S z t := by
  intro t h
  unfold execBootRom at h
  cases h
  with_reducible repeat' first
      | assumption | apply within_finishRom | apply within_beginStart | apply within_ite

theorem within_execStage1 (bMem : S .mem) (bBad : S .bad) (bSoftBad : S .softBad) (bHbmErr : S .hbmErr) (bBurstKey : S
    .burstKey) (bHbmStale : S .hbmStale) (bTags : S .tags) (bPages : S .pages) (bCores : S .cores) (bDies : S .dies)
    (bD2d : S .d2d) (bBell : S .bell) (bSched : S .sched) (bParts : S .parts) (bCrier : S .crier) (bLinks : S .links)
    (bSealU : S .sealU) (bPower : S .power) (bBoot : S .boot) (bFlash : S .flash) (bHosts : S .hosts) (certOk : Bool)
    (verified : Bool) (imageHash : BitVec 512) (configHashes : List (BitVec 512)) (s0 : State) (h_s0 : Within S z s0)
    : ∀ t, (execStage1 certOk verified imageHash configHashes s0) = .next t → Within S z t := by
  intro t h
  unfold execStage1 at h
  cases h
  with_reducible repeat' first
      | intro _ | assumption | exact .inl rfl | exact .inr (by assumption) | exact formed_refl _
      | exact fusesKept_refl _ | apply within_failStart | apply within_ramp | apply within_addFailure
      | apply within_ite | apply within_foldl | (simp only [within_mk]; apply within_upd rfl)

theorem within_loseRow (bHbmErr : S .hbmErr) (bBurstKey : S .burstKey) (s : State) (row : Nat) (h_s : Within S z s) :
    Within S z (loseRow s row) := by
  unfold loseRow
  with_reducible repeat' first
      | intro _ | assumption | exact .inl rfl | exact .inr (by assumption) | exact formed_refl _
      | exact fusesKept_refl _ | apply within_setBurstKey | apply within_foldl | apply within_foldl_fst
      | (simp only [within_mk]; apply within_upd rfl)

theorem within_bringUpHbm (bHbmErr : S .hbmErr) (bBurstKey : S .burstKey) (bHbmStale : S .hbmStale) (bPages : S
    .pages) (bDies : S .dies) (bFlash : S .flash) (s : State) (r : Stage2Report) (f : Repairs) (ex : List Word) (h_s :
    Within S z s) : Within S z (bringUpHbm s r f ex) := by
  unfold bringUpHbm
  with_reducible repeat' first
      | intro _ | assumption | exact .inl rfl | exact .inr (by assumption) | exact formed_refl _
      | exact fusesKept_refl _ | apply within_loseRow | apply within_setExcluded | apply within_State_modHbmc
      | apply within_ite | apply within_foldl | (simp only [within_mk]; apply within_upd rfl)

theorem within_bringUpDies (bDies : S .dies) (bD2d : S .d2d) (s : State) (h_s : Within S z s) : Within S z
    (bringUpDies s) := by
  unfold bringUpDies
  with_reducible repeat' first
      | intro _ | assumption | apply within_setD2d | apply within_State_modDie | apply within_foldl

theorem within_bringUpPort (bOut : S .out) (bPages : S .pages) (bCrier : S .crier) (bLinks : S .links) (r :
    Stage2Report) (s : State) (n : Nat) (h_s : Within S z s) : Within S z (bringUpPort r s n) := by
  unfold bringUpPort
  with_reducible repeat' first
      | assumption | apply within_enableHalf | apply within_State_setReg

theorem within_bringUp (bOut : S .out) (bHbmErr : S .hbmErr) (bBurstKey : S .burstKey) (bHbmStale : S .hbmStale)
    (bPages : S .pages) (bDies : S .dies) (bD2d : S .d2d) (bCrier : S .crier) (bLinks : S .links) (bSealU : S .sealU)
    (bBoot : S .boot) (bFlash : S .flash) (s : State) (r : Stage2Report) (f : Repairs) (ex : List Word) (h_s : Within
    S z s) : Within S z (bringUp s r f ex) := by
  unfold bringUp
  with_reducible repeat' first
      | intro _ | assumption | exact .inl rfl | exact .inr (by assumption) | exact formed_refl _
      | exact fusesKept_refl _ | apply within_bringUpPort | apply within_bringUpDies | apply within_bringUpHbm
      | apply within_State_setReg | apply within_foldl | apply within_foldl_fst
      | (simp only [within_mk]; apply within_upd rfl)

theorem within_execStage2 (bOut : S .out) (bMem : S .mem) (bBad : S .bad) (bSoftBad : S .softBad) (bHbmErr : S
    .hbmErr) (bBurstKey : S .burstKey) (bHbmStale : S .hbmStale) (bTags : S .tags) (bPages : S .pages) (bCores : S
    .cores) (bDies : S .dies) (bD2d : S .d2d) (bBell : S .bell) (bSched : S .sched) (bParts : S .parts) (bCrier : S
    .crier) (bLinks : S .links) (bSealU : S .sealU) (bPower : S .power) (bBoot : S .boot) (bFlash : S .flash) (bHosts
    : S .hosts) (report : Stage2Report) (s : State) (h_s : Within S z s) : ∀ t, (execStage2 report s) = .next t →
    Within S z t := by
  intro t h
  unfold execStage2 at h
  cases h
  with_reducible repeat' first
      | assumption | apply within_bringUp | apply within_bringUpHbm | apply within_failStart | apply within_ite
      | apply within_ite_fst | split

theorem within_writeBootOk (bBoot : S .boot) (bFlash : S .flash) (s : State) (value : Nat) (h_s : Within S z s) :
    Within S z (writeBootOk s value) := by
  unfold writeBootOk
  with_reducible repeat' first
      | intro _ | assumption | exact .inl rfl | exact .inr (by assumption) | exact formed_refl _
      | exact fusesKept_refl _ | apply within_ite | (simp only [within_mk]; apply within_upd rfl)

theorem within_execBootOk (bPages : S .pages) (bCrier : S .crier) (bBoot : S .boot) (bFlash : S .flash) (bHosts : S
    .hosts) (init : Sender) (value : Word) (s : State) (h_s : Within S z s) : ∀ t, (execBootOk init value s) = .next t
    → Within S z t := by
  intro t h
  unfold execBootOk at h
  cases h
  with_reducible repeat' first
      | intro _ | assumption | apply within_writeBootOk | apply within_ctlWrite

theorem within_execStartWatchdogExpiry (bMem : S .mem) (bBad : S .bad) (bSoftBad : S .softBad) (bHbmErr : S .hbmErr)
    (bBurstKey : S .burstKey) (bHbmStale : S .hbmStale) (bTags : S .tags) (bPages : S .pages) (bCores : S .cores)
    (bDies : S .dies) (bD2d : S .d2d) (bBell : S .bell) (bSched : S .sched) (bParts : S .parts) (bCrier : S .crier)
    (bLinks : S .links) (bSealU : S .sealU) (bPower : S .power) (bBoot : S .boot) (bFlash : S .flash) (bHosts : S
    .hosts) (s : State) (h_s : Within S z s) : ∀ t, (execStartWatchdogExpiry s) = .next t → Within S z t := by
  intro t h
  unfold execStartWatchdogExpiry at h
  cases h
  with_reducible repeat' first
      | assumption | apply within_failStart | apply within_ite

theorem within_writeFlash (bFlash : S .flash) (s : State) (o : Nat) (bs : List Byte) (h_s : Within S z s) : Within S z
    (writeFlash s o bs) := by
  unfold writeFlash
  with_reducible repeat' first
      | intro _ | assumption | exact .inl rfl | exact .inr (by assumption) | exact formed_refl _
      | exact fusesKept_refl _ | apply within_foldl | apply within_foldl_fst
      | (simp only [within_mk]; apply within_upd rfl)

theorem within_mgmtFrame (bPages : S .pages) (bPower : S .power) (s : State) (h_s : Within S z s) : Within S z
    (mgmtFrame s) := by
  unfold mgmtFrame
  with_reducible repeat' first
      | intro _ | assumption | exact .inl rfl | exact .inr (by assumption) | exact formed_refl _
      | exact fusesKept_refl _ | apply within_State_count | (simp only [within_mk]; apply within_upd rfl)

theorem within_serveRaevo (bOut : S .out) (bPages : S .pages) (bPower : S .power) (s : State) (op : Nat) (r :
    RaevoReq) (act : State → State × Nat × List Byte) (h_s : Within S z s) (h_act : ∀ x0, Within S z x0 → Within S z
    (act x0).1) : Within S z (serveRaevo s op r act) := by
  unfold serveRaevo
  with_reducible repeat' first
      | assumption | apply h_act | apply within_mgmtFrame | apply within_State_count | apply within_State_emit
      | apply within_ite | apply within_ite_fst

theorem within_execInfo (bOut : S .out) (bPages : S .pages) (bPower : S .power) (r : RaevoReq) (s : State) (h_s :
    Within S z s) : ∀ t, (execInfo r s) = .next t → Within S z t := by
  intro t h
  unfold execInfo at h
  cases h
  with_reducible repeat' first
      | intro _ | assumption | apply within_serveRaevo

theorem within_execReadFlash (bOut : S .out) (bPages : S .pages) (bPower : S .power) (r : RaevoReq) (s : State) (h_s :
    Within S z s) : ∀ t, (execReadFlash r s) = .next t → Within S z t := by
  intro t h
  unfold execReadFlash at h
  cases h
  with_reducible repeat' first
      | intro _ | assumption | apply within_serveRaevo | apply within_ite | apply within_ite_fst

theorem within_execWriteSlot (bFree : S .free) (bOut : S .out) (bPages : S .pages) (bPower : S .power) (bFlash : S
    .flash) (r : RaevoReq) (data : List Byte) (flashOk : Bool) (s : State) (h_s : Within S z s) : ∀ t, (execWriteSlot
    r data flashOk s) = .next t → Within S z t := by
  intro t h
  unfold execWriteSlot at h
  cases h
  with_reducible repeat' first
      | intro _ | assumption | exact .inl rfl | exact .inr (by assumption) | exact formed_refl _
      | exact fusesKept_refl _ | apply within_serveRaevo | apply within_writeFlash | apply within_ite
      | apply within_ite_fst | (simp only [within_mk]; apply within_upd rfl)

theorem within_execCommitSlot (bOut : S .out) (bPages : S .pages) (bPower : S .power) (bFlash : S .flash) (r :
    RaevoReq) (verified : Bool) (s : State) (h_s : Within S z s) : ∀ t, (execCommitSlot r verified s) = .next t →
    Within S z t := by
  intro t h
  unfold execCommitSlot at h
  cases h
  with_reducible repeat' first
      | intro _ | assumption | exact .inl rfl | exact .inr (by assumption) | exact formed_refl _
      | exact fusesKept_refl _ | apply within_serveRaevo | apply within_ite | apply within_ite_fst
      | (simp only [within_mk]; apply within_upd rfl)

theorem within_execClearCounter (bOut : S .out) (bPages : S .pages) (bPower : S .power) (bFlash : S .flash) (r :
    RaevoReq) (s : State) (h_s : Within S z s) : ∀ t, (execClearCounter r s) = .next t → Within S z t := by
  intro t h
  unfold execClearCounter at h
  cases h
  with_reducible repeat' first
      | intro _ | assumption | exact .inl rfl | exact .inr (by assumption) | exact formed_refl _
      | exact fusesKept_refl _ | apply within_serveRaevo | (simp only [within_mk]; apply within_upd rfl)

theorem within_execRaevoReset (bOut : S .out) (bMem : S .mem) (bBad : S .bad) (bSoftBad : S .softBad) (bHbmErr : S
    .hbmErr) (bBurstKey : S .burstKey) (bHbmStale : S .hbmStale) (bTags : S .tags) (bPages : S .pages) (bCores : S
    .cores) (bDies : S .dies) (bD2d : S .d2d) (bBell : S .bell) (bSched : S .sched) (bParts : S .parts) (bCrier : S
    .crier) (bLinks : S .links) (bSealU : S .sealU) (bPower : S .power) (bBoot : S .boot) (bHosts : S .hosts) (r :
    RaevoReq) (s : State) (h_s : Within S z s) : ∀ t, (execRaevoReset r s) = .next t → Within S z t := by
  intro t h
  unfold execRaevoReset at h
  cases h
  with_reducible repeat' first
      | intro _ | assumption | apply within_serveRaevo | apply within_unlessHot | apply within_moduleResetHbm
      | apply within_ite | apply within_ite_fst

theorem within_wideValue (bFree : S .free) (bPages : S .pages) (s : State) (pn : Nat) (i : PageId) (b : Nat) (h_s :
    Within S z s) : Within S z (wideValue s pn i b).1 := by
  unfold wideValue
  with_reducible repeat' first
      | assumption | apply within_State_countOpen | apply within_ite | apply within_ite_fst

theorem within_readWide (bFree : S .free) (bPages : S .pages) (s : State) (init : Nat) (pn : Nat) (i : PageId) (b :
    Nat) (off : Nat) (h_s : Within S z s) : Within S z (readWide s init pn i b off).1 := by
  unfold readWide
  with_reducible repeat' first
      | assumption | apply within_wideValue | apply within_State_modPage | apply within_ite | apply within_ite_fst
      | split

theorem within_afterRead (bPages : S .pages) (bDies : S .dies) (bCrier : S .crier) (s : State) (pn : Nat) (i : PageId)
    (off : Nat) (h_s : Within S z s) : Within S z (afterRead s pn i off) := by
  unfold afterRead
  with_reducible repeat' first
      | assumption | apply within_State_setReg | apply within_State_setCrierRing | apply within_State_modDie
      | apply within_ite

theorem within_readAt (bFree : S .free) (bPages : S .pages) (bDies : S .dies) (bCrier : S .crier) (s : State) (init :
    Nat) (pn : Nat) (off : Nat) (h_s : Within S z s) : Within S z (readAt s init pn off).1 := by
  unfold readAt
  with_reducible repeat' first
      | assumption | apply within_afterRead | apply within_readWide | apply within_ite | apply within_ite_fst | split

theorem within_serveRead (bFree : S .free) (bPages : S .pages) (bDies : S .dies) (bCrier : S .crier) (s : State) (init
    : Nat) (bytes : Nat) (addr : Nat) (h_s : Within S z s) : Within S z (serveRead s init bytes addr).1 := by
  unfold serveRead
  with_reducible repeat' first
      | assumption | apply within_readAt | apply within_disarm | apply within_refuseAccess | split

theorem within_answerRead (bFree : S .free) (bOut : S .out) (bPages : S .pages) (bDies : S .dies) (bCrier : S .crier)
    (s : State) (init : Nat) (bytes : Nat) (addr : Nat) (h_s : Within S z s) : Within S z (answerRead s init bytes
    addr) := by
  unfold answerRead
  with_reducible repeat' first
      | assumption | apply within_serveRead | apply within_State_emit

theorem within_ctlRead (bFree : S .free) (bOut : S .out) (bPages : S .pages) (bDies : S .dies) (bCrier : S .crier)
    (bHosts : S .hosts) (s : State) (init : Nat) (bytes : Nat) (addr : Nat) (h_s : Within S z s) : Within S z (ctlRead
    s init bytes addr) := by
  unfold ctlRead
  with_reducible repeat' first
      | assumption | apply within_answerRead | apply within_holdAccess | apply within_ite

theorem within_execRcRead (bFree : S .free) (bOut : S .out) (bPages : S .pages) (bDies : S .dies) (bCrier : S .crier)
    (bHosts : S .hosts) (init : Reader) (address : Word) (s : State) (h_s : Within S z s) : ∀ t, (execRcRead init
    address s) = .next t → Within S z t := by
  intro t h
  unfold execRcRead at h
  cases h
  with_reducible repeat' first
      | assumption | apply within_ctlRead

theorem within_execCounterLowRead (bFree : S .free) (bOut : S .out) (bPages : S .pages) (bDies : S .dies) (bCrier : S
    .crier) (bHosts : S .hosts) (init : Reader) (address : Word) (s : State) (h_s : Within S z s) : ∀ t,
    (execCounterLowRead init address s) = .next t → Within S z t := by
  intro t h
  unfold execCounterLowRead at h
  cases h
  with_reducible repeat' first
      | assumption | apply within_ctlRead

theorem within_refuseJob (bPages : S .pages) (bParts : S .parts) (bCrier : S .crier) (s : State) (p : Nat) (reason :
    Nat) (bad : Option Nat) (h_s : Within S z s) : Within S z (refuseJob s p reason bad) := by
  unfold refuseJob
  with_reducible repeat' first
      | intro _ | assumption | apply within_raiseTrap | apply within_setEvent | apply within_State_modPart
      | apply within_foldl | apply within_foldl_fst | split

theorem within_rankOf (bFree : S .free) (s : State) (l : List DevEntry) (h_s : Within S z s) : Within S z (rankOf s
    l).2 := by
  unfold rankOf
  with_reducible repeat' first
      | assumption | apply within_drawFree | split

theorem within_admitStart (bFree : S .free) (bSoftBad : S .softBad) (bPages : S .pages) (bDies : S .dies) (bParts : S
    .parts) (bCrier : S .crier) (bFlash : S .flash) (s : State) (p : Nat) (h_s : Within S z s) : Within S z
    (admitStart s p) := by
  unfold admitStart
  with_reducible repeat' first
      | intro _ | assumption | apply within_rankOf | apply within_refuseJob | apply within_readSpans
      | apply within_State_modPart | apply within_ite | apply within_ite_fst | apply within_foldl
      | apply within_foldl_fst | split

theorem within_jobAdmit (bFree : S .free) (bSoftBad : S .softBad) (bPages : S .pages) (bDies : S .dies) (bParts : S
    .parts) (bCrier : S .crier) (bFlash : S .flash) (s : State) (init : Nat) (p : Nat) (value : Nat) (h_s : Within S z
    s) : Within S z (jobAdmit s init p value) := by
  unfold jobAdmit
  with_reducible repeat' first
      | assumption | apply within_admitStart | apply within_ignoreWrite | apply within_ite

theorem within_execAdmitJob (bFree : S .free) (bSoftBad : S .softBad) (bPages : S .pages) (bDies : S .dies) (bParts :
    S .parts) (bCrier : S .crier) (bFlash : S .flash) (bHosts : S .hosts) (init : Sender) (part : Nat) (s : State)
    (h_s : Within S z s) : ∀ t, (execAdmitJob init part s) = .next t → Within S z t := by
  intro t h
  unfold execAdmitJob at h
  cases h
  with_reducible repeat' first
      | intro _ | assumption | apply within_jobAdmit | apply within_ctlWrite

theorem within_changeCycle (bParts : S .parts) (s : State) (t : State) (p : Nat) (h_s : Within S z s) (h_t : Within S
    z t) : Within S z (changeCycle s t p) := by
  unfold changeCycle
  with_reducible repeat' first
      | assumption | apply within_State_modPart | apply within_ite | apply within_ite_fst

theorem within_switchIn (bCores : S .cores) (bParts : S .parts) (s : State) (p : Nat) (x : Option Nat) (h_s : Within S
    z s) : Within S z (switchIn s p x) := by
  unfold switchIn
  with_reducible repeat' first
      | intro _ | assumption | apply within_State_modPart | apply within_State_modCore | apply within_foldl

theorem within_clearSems (bMem : S .mem) (bBad : S .bad) (bSoftBad : S .softBad) (bHbmErr : S .hbmErr) (bBurstKey : S
    .burstKey) (bPages : S .pages) (bDies : S .dies) (bCrier : S .crier) (bFlash : S .flash) (s : State) (p : Nat) (x
    : Nat) (h_s : Within S z s) : Within S z (clearSems s p x) := by
  unfold clearSems
  with_reducible repeat' first
      | assumption | apply within_memStore

theorem within_admitDone (bMem : S .mem) (bBad : S .bad) (bSoftBad : S .softBad) (bHbmErr : S .hbmErr) (bBurstKey : S
    .burstKey) (bPages : S .pages) (bCores : S .cores) (bDies : S .dies) (bParts : S .parts) (bCrier : S .crier)
    (bFlash : S .flash) (s : State) (p : Nat) (j : Job) (h_s : Within S z s) : Within S z (admitDone s p j) := by
  unfold admitDone
  with_reducible repeat' first
      | intro _ | assumption | apply within_clearSems | apply within_switchIn | apply within_changeCycle
      | apply within_setEvent | apply within_State_modPart | apply within_ite | apply within_foldl

theorem within_execAdmitDigestDone (bMem : S .mem) (bBad : S .bad) (bSoftBad : S .softBad) (bHbmErr : S .hbmErr)
    (bBurstKey : S .burstKey) (bPages : S .pages) (bCores : S .cores) (bDies : S .dies) (bParts : S .parts) (bCrier :
    S .crier) (bFlash : S .flash) (part : Nat) (allMatch : Bool) (s : State) (h_s : Within S z s) : ∀ t,
    (execAdmitDigestDone part allMatch s) = .next t → Within S z t := by
  intro t h
  unfold execAdmitDigestDone at h
  cases h
  with_reducible repeat' first
      | assumption | apply within_admitDone | apply within_refuseJob | apply within_ite | split

theorem within_execAdmitTimeout (bPages : S .pages) (bParts : S .parts) (bCrier : S .crier) (part : Nat) (s : State)
    (h_s : Within S z s) : ∀ t, (execAdmitTimeout part s) = .next t → Within S z t := by
  intro t h
  unfold execAdmitTimeout at h
  cases h
  with_reducible repeat' first
      | assumption | apply within_refuseJob | apply within_ite | split

theorem within_abortNext (bMem : S .mem) (bBad : S .bad) (bSoftBad : S .softBad) (bHbmErr : S .hbmErr) (bBurstKey : S
    .burstKey) (bPages : S .pages) (bCores : S .cores) (bDies : S .dies) (bSched : S .sched) (bParts : S .parts)
    (bCrier : S .crier) (bFlash : S .flash) (s : State) (g : Nat) (x : Nat) (h_s : Within S z s) : Within S z
    (abortNext s g x) := by
  unfold abortNext
  with_reducible repeat' first
      | assumption | apply within_completeCmd | apply within_readSpans | apply within_State_modRing
      | apply within_ite | apply within_ite_fst

theorem within_abortUnfetched (bMem : S .mem) (bBad : S .bad) (bSoftBad : S .softBad) (bHbmErr : S .hbmErr) (bBurstKey
    : S .burstKey) (bPages : S .pages) (bCores : S .cores) (bDies : S .dies) (bSched : S .sched) (bParts : S .parts)
    (bCrier : S .crier) (bFlash : S .flash) (g : Nat) (x : Nat) (a : Nat) (z3 : State) (h_z3 : Within S z z3) : Within
    S z (abortUnfetched g x a z3) := by
  induction a generalizing z3 with
  | zero =>
    unfold abortUnfetched
    with_reducible repeat' first
        | intro _ | assumption | apply within_abortNext | apply within_ite | split | dsimp only
  | succ n ih =>
    unfold abortUnfetched
    with_reducible repeat' first
        | intro _ | assumption | apply ih | apply within_abortNext | apply within_ite | split | dsimp only

theorem within_dropFrontReads (bMem : S .mem) (bCores : S .cores) (bLinks : S .links) (s : State) (g : Nat) (h_s :
    Within S z s) : Within S z (dropFrontReads s g) := by
  unfold dropFrontReads
  with_reducible repeat' first
      | assumption | apply within_dropWaiter | apply within_dropReads | apply within_State_modCore | split

theorem within_dropHeld (bParts : S .parts) (s : State) (p : Nat) (g : Nat) (h_s : Within S z s) : Within S z
    (dropHeld s p g) := by
  unfold dropHeld
  with_reducible repeat' first
      | assumption | apply within_modSealed

theorem within_discardOn (bMem : S .mem) (bBad : S .bad) (bSoftBad : S .softBad) (bHbmErr : S .hbmErr) (bBurstKey : S
    .burstKey) (bPages : S .pages) (bCores : S .cores) (bDies : S .dies) (bSched : S .sched) (bParts : S .parts)
    (bCrier : S .crier) (bLinks : S .links) (bFlash : S .flash) (s : State) (p : Nat) (x : Nat) (g : Nat) (h_s :
    Within S z s) : Within S z (discardOn s p x g) := by
  unfold discardOn
  with_reducible repeat' first
      | intro _ | assumption | apply within_dropHeld | apply within_dropFrontReads | apply within_abortUnfetched
      | apply within_dropWaiter | apply within_completeCmd | apply within_State_modCore | apply within_ite
      | apply within_ite_fst | apply within_foldl | apply within_foldl_fst | split

theorem within_stopEntries (bMem : S .mem) (bBad : S .bad) (bSoftBad : S .softBad) (bHbmErr : S .hbmErr) (bBurstKey :
    S .burstKey) (bPages : S .pages) (bDies : S .dies) (bSched : S .sched) (bParts : S .parts) (bCrier : S .crier)
    (bLinks : S .links) (bFlash : S .flash) (s : State) (p : Nat) (x : Nat) (all : Bool) (h_s : Within S z s) : Within
    S z (stopEntries s p x all) := by
  unfold stopEntries
  with_reducible repeat' first
      | intro _ | assumption | apply within_stopTransfer | apply within_countWait | apply within_settleRing
      | apply within_modEntry | apply within_State_modDie | apply within_ite | apply within_ite_fst
      | apply within_foldl | apply within_foldl_fst

theorem within_discardCtx (bMem : S .mem) (bBad : S .bad) (bSoftBad : S .softBad) (bHbmErr : S .hbmErr) (bBurstKey : S
    .burstKey) (bPages : S .pages) (bCores : S .cores) (bDies : S .dies) (bSched : S .sched) (bParts : S .parts)
    (bCrier : S .crier) (bLinks : S .links) (bFlash : S .flash) (s : State) (p : Nat) (x : Nat) (h_s : Within S z s) :
    Within S z (discardCtx s p x) := by
  unfold discardCtx
  with_reducible repeat' first
      | intro _ | assumption | exact .inl rfl | exact .inr (by assumption) | exact formed_refl _
      | exact fusesKept_refl _ | apply within_stopEntries | apply within_discardOn | apply within_State_modCtx
      | apply within_foldl | apply within_foldl_fst | (simp only [within_mk]; apply within_upd rfl)

theorem within_ctxAction (bPages : S .pages) (s : State) (init : Nat) (p : Nat) (x : Nat) (value : Nat) (act : State →
    State) (h_s : Within S z s) (h_act : ∀ x0, Within S z x0 → Within S z (act x0)) : Within S z (ctxAction s init p x
    value act) := by
  unfold ctxAction
  with_reducible repeat' first
      | assumption | apply h_act | apply within_ignoreWrite | apply within_ite

theorem within_doSuspend (bParts : S .parts) (s : State) (p : Nat) (x : Nat) (h_s : Within S z s) : Within S z
    (doSuspend s p x) := by
  unfold doSuspend
  with_reducible repeat' first
      | assumption | apply within_State_modCtx

theorem within_doResume (bCores : S .cores) (bParts : S .parts) (s : State) (p : Nat) (x : Nat) (h_s : Within S z s) :
    Within S z (doResume s p x) := by
  unfold doResume
  with_reducible repeat' first
      | intro _ | assumption | apply within_State_modRing | apply within_State_modCtx | apply within_foldl

theorem within_doDiscard (bMem : S .mem) (bBad : S .bad) (bSoftBad : S .softBad) (bHbmErr : S .hbmErr) (bBurstKey : S
    .burstKey) (bPages : S .pages) (bCores : S .cores) (bDies : S .dies) (bSched : S .sched) (bParts : S .parts)
    (bCrier : S .crier) (bLinks : S .links) (bFlash : S .flash) (s : State) (p : Nat) (x : Nat) (h_s : Within S z s) :
    Within S z (doDiscard s p x) := by
  unfold doDiscard
  with_reducible repeat' first
      | assumption | apply within_discardCtx | apply within_State_modCtx

theorem within_execSuspend (bPages : S .pages) (bParts : S .parts) (bCrier : S .crier) (bHosts : S .hosts) (init :
    Sender) (part : Nat) (ctx : Nat) (s : State) (h_s : Within S z s) : ∀ t, (execSuspend init part ctx s) = .next t →
    Within S z t := by
  intro t h
  unfold execSuspend at h
  cases h
  with_reducible repeat' first
      | intro _ | assumption | apply within_doSuspend | apply within_ctxAction | apply within_ctlWrite

theorem within_execResume (bPages : S .pages) (bCores : S .cores) (bParts : S .parts) (bCrier : S .crier) (bHosts : S
    .hosts) (init : Sender) (part : Nat) (ctx : Nat) (s : State) (h_s : Within S z s) : ∀ t, (execResume init part ctx
    s) = .next t → Within S z t := by
  intro t h
  unfold execResume at h
  cases h
  with_reducible repeat' first
      | intro _ | assumption | apply within_doResume | apply within_ctxAction | apply within_ctlWrite

theorem within_execDiscard (bMem : S .mem) (bBad : S .bad) (bSoftBad : S .softBad) (bHbmErr : S .hbmErr) (bBurstKey :
    S .burstKey) (bPages : S .pages) (bCores : S .cores) (bDies : S .dies) (bSched : S .sched) (bParts : S .parts)
    (bCrier : S .crier) (bLinks : S .links) (bFlash : S .flash) (bHosts : S .hosts) (init : Sender) (part : Nat) (ctx
    : Nat) (s : State) (h_s : Within S z s) : ∀ t, (execDiscard init part ctx s) = .next t → Within S z t := by
  intro t h
  unfold execDiscard at h
  cases h
  with_reducible repeat' first
      | intro _ | assumption | apply within_doDiscard | apply within_ctxAction | apply within_ctlWrite

theorem within_stopReqs (bLinks : S .links) (s : State) (p : Nat) (x : Nat) (h_s : Within S z s) : Within S z
    (stopReqs s p x) := by
  unfold stopReqs
  with_reducible repeat' first
      | intro _ | assumption | apply within_dropWaiter | apply within_State_modReqRing | apply within_foldl

theorem within_closePeers (bMem : S .mem) (bBad : S .bad) (bSoftBad : S .softBad) (bHbmErr : S .hbmErr) (bBurstKey : S
    .burstKey) (bPages : S .pages) (bCores : S .cores) (bDies : S .dies) (bSched : S .sched) (bParts : S .parts)
    (bCrier : S .crier) (bLinks : S .links) (bFlash : S .flash) (s : State) (p : Nat) (x : Nat) (h_s : Within S z s) :
    Within S z (closePeers s p x) := by
  unfold closePeers
  with_reducible repeat' first
      | intro _ | assumption | apply within_endContext | apply within_foldl | apply within_foldl_fst

theorem within_endCtx (bMem : S .mem) (bBad : S .bad) (bSoftBad : S .softBad) (bHbmErr : S .hbmErr) (bBurstKey : S
    .burstKey) (bPages : S .pages) (bCores : S .cores) (bDies : S .dies) (bSched : S .sched) (bParts : S .parts)
    (bCrier : S .crier) (bLinks : S .links) (bFlash : S .flash) (s : State) (p : Nat) (x : Nat) (h_s : Within S z s) :
    Within S z (endCtx s p x) := by
  unfold endCtx
  with_reducible repeat' first
      | assumption | apply within_closePeers | apply within_stopReqs | apply within_discardCtx
      | apply within_stopEntries | apply within_clearSems | apply within_State_modPart

theorem within_endTraining (bDies : S .dies) (bBell : S .bell) (bSched : S .sched) (s : State) (h_s : Within S z s) :
    Within S z (endTraining s) := by
  unfold endTraining
  with_reducible repeat' first
      | intro _ | assumption | exact .inl rfl | exact .inr (by assumption) | exact formed_refl _
      | exact fusesKept_refl _ | apply within_retime | apply within_clearToll
      | (simp only [within_mk]; apply within_upd rfl)

theorem within_endOf (bMem : S .mem) (bBad : S .bad) (bSoftBad : S .softBad) (bHbmErr : S .hbmErr) (bBurstKey : S
    .burstKey) (bPages : S .pages) (bCores : S .cores) (bDies : S .dies) (bBell : S .bell) (bSched : S .sched) (bParts
    : S .parts) (bCrier : S .crier) (bLinks : S .links) (bFlash : S .flash) (s : State) (p : Nat) (j : Job) (h_s :
    Within S z s) : Within S z (endOf s p j) := by
  unfold endOf
  with_reducible repeat' first
      | intro _ | assumption | apply within_endTraining | apply within_endCtx | apply within_switchIn
      | apply within_changeCycle | apply within_State_modPart | apply within_ite | apply within_ite_fst
      | apply within_foldl | apply within_foldl_fst

theorem within_jobEnd (bMem : S .mem) (bBad : S .bad) (bSoftBad : S .softBad) (bHbmErr : S .hbmErr) (bBurstKey : S
    .burstKey) (bPages : S .pages) (bCores : S .cores) (bDies : S .dies) (bBell : S .bell) (bSched : S .sched) (bParts
    : S .parts) (bCrier : S .crier) (bLinks : S .links) (bFlash : S .flash) (s : State) (init : Nat) (p : Nat) (mask :
    Nat) (value : Nat) (h_s : Within S z s) : Within S z (jobEnd s init p mask value) := by
  unfold jobEnd
  with_reducible repeat' first
      | assumption | apply within_endOf | apply within_ignoreWrite | split

theorem within_execEndJob (bMem : S .mem) (bBad : S .bad) (bSoftBad : S .softBad) (bHbmErr : S .hbmErr) (bBurstKey : S
    .burstKey) (bPages : S .pages) (bCores : S .cores) (bDies : S .dies) (bBell : S .bell) (bSched : S .sched) (bParts
    : S .parts) (bCrier : S .crier) (bLinks : S .links) (bFlash : S .flash) (bHosts : S .hosts) (init : Sender) (part
    : Nat) (ctxMask : BitVec 8) (s : State) (h_s : Within S z s) : ∀ t, (execEndJob init part ctxMask s) = .next t →
    Within S z t := by
  intro t h
  unfold execEndJob at h
  cases h
  with_reducible repeat' first
      | intro _ | assumption | apply within_jobEnd | apply within_ctlWrite

theorem within_sealDone (bSealU : S .sealU) (s : State) (h_s : Within S z s) : Within S z (sealDone s) := by
  unfold sealDone
  with_reducible repeat' first
      | intro _ | assumption | exact .inl rfl | exact .inr (by assumption) | exact formed_refl _
      | exact fusesKept_refl _ | (simp only [within_mk]; apply within_upd rfl)

theorem within_sealRefused (bSealU : S .sealU) (s : State) (reason : Nat) (h_s : Within S z s) : Within S z
    (sealRefused s reason) := by
  unfold sealRefused
  with_reducible repeat' first
      | intro _ | assumption | exact .inl rfl | exact .inr (by assumption) | exact formed_refl _
      | exact fusesKept_refl _ | (simp only [within_mk]; apply within_upd rfl)

theorem within_sealUnread (bPages : S .pages) (bCrier : S .crier) (bSealU : S .sealU) (s : State) (p : Nat) (u : Nat)
    (h_s : Within S z s) : Within S z (sealUnread s p u) := by
  unfold sealUnread
  with_reducible repeat' first
      | assumption | apply within_sealRefused | apply within_raiseTrap

theorem within_zeroPart (bMem : S .mem) (bBad : S .bad) (bSoftBad : S .softBad) (bTags : S .tags) (bCores : S .cores)
    (s : State) (p : Nat) (h_s : Within S z s) : Within S z (zeroPart s p) := by
  unfold zeroPart
  with_reducible repeat' first
      | intro _ | assumption | exact .inl rfl | exact .inr (by assumption) | exact formed_refl _
      | exact fusesKept_refl _ | exact formed_filter _ _ | exact formed_nil _ | apply within_State_modCore
      | apply within_ite | apply within_ite_fst | apply within_foldl | apply within_foldl_fst
      | (simp only [within_mk]; apply within_upd rfl) | split | dsimp only

theorem within_lockPages (bPages : S .pages) (s : State) (p : Nat) (h_s : Within S z s) : Within S z (lockPages s p)
    := by
  unfold lockPages
  with_reducible repeat' first
      | intro _ | assumption | apply within_State_modPage | apply within_ite | apply within_ite_fst
      | apply within_foldl | apply within_foldl_fst

theorem within_endOpenContexts (bMem : S .mem) (bBad : S .bad) (bSoftBad : S .softBad) (bHbmErr : S .hbmErr)
    (bBurstKey : S .burstKey) (bPages : S .pages) (bCores : S .cores) (bDies : S .dies) (bSched : S .sched) (bParts :
    S .parts) (bCrier : S .crier) (bLinks : S .links) (bFlash : S .flash) (s : State) (p : Nat) (h_s : Within S z s) :
    Within S z (endOpenContexts s p) := by
  unfold endOpenContexts
  with_reducible repeat' first
      | intro _ | assumption | apply within_endContext | apply within_foldl | apply within_foldl_fst

theorem within_sealPart (bMem : S .mem) (bBad : S .bad) (bSoftBad : S .softBad) (bHbmErr : S .hbmErr) (bBurstKey : S
    .burstKey) (bHbmStale : S .hbmStale) (bTags : S .tags) (bPages : S .pages) (bCores : S .cores) (bDies : S .dies)
    (bSched : S .sched) (bParts : S .parts) (bCrier : S .crier) (bLinks : S .links) (bSealU : S .sealU) (bFlash : S
    .flash) (s : State) (p : Nat) (m : Manifest) (h_s : Within S z s) : Within S z (sealPart s p m) := by
  unfold sealPart
  with_reducible repeat' first
      | intro _ | assumption | exact .inl rfl | exact .inr (by assumption) | exact formed_refl _
      | exact fusesKept_refl _ | apply within_endOpenContexts | apply within_lockPages | apply within_zeroPart
      | apply within_sealDone | apply within_loseBursts | apply within_State_setReg | apply within_State_modPart
      | (simp only [within_mk]; apply within_upd rfl)

theorem within_doSeal (bMem : S .mem) (bBad : S .bad) (bSoftBad : S .softBad) (bHbmErr : S .hbmErr) (bBurstKey : S
    .burstKey) (bHbmStale : S .hbmStale) (bTags : S .tags) (bPages : S .pages) (bCores : S .cores) (bDies : S .dies)
    (bSched : S .sched) (bParts : S .parts) (bCrier : S .crier) (bLinks : S .links) (bSealU : S .sealU) (bFlash : S
    .flash) (s : State) (p : Nat) (h_s : Within S z s) : Within S z (doSeal s p) := by
  unfold doSeal
  with_reducible repeat' first
      | assumption | apply within_sealPart | apply within_sealUnread | apply within_sealRefused
      | apply within_correctSpan | apply within_ite | split

theorem within_execSeal (bMem : S .mem) (bBad : S .bad) (bSoftBad : S .softBad) (bHbmErr : S .hbmErr) (bBurstKey : S
    .burstKey) (bHbmStale : S .hbmStale) (bTags : S .tags) (bPages : S .pages) (bCores : S .cores) (bDies : S .dies)
    (bSched : S .sched) (bParts : S .parts) (bCrier : S .crier) (bLinks : S .links) (bSealU : S .sealU) (bFlash : S
    .flash) (bHosts : S .hosts) (init : Sender) (part : Nat) (s : State) (h_s : Within S z s) : ∀ t, (execSeal init
    part s) = .next t → Within S z t := by
  intro t h
  unfold execSeal at h
  cases h
  with_reducible repeat' first
      | intro _ | assumption | apply within_doSeal | apply within_ctlWrite

theorem within_doUnseal (bMem : S .mem) (bBad : S .bad) (bSoftBad : S .softBad) (bTags : S .tags) (bCores : S .cores)
    (bParts : S .parts) (bSealU : S .sealU) (s : State) (p : Nat) (h_s : Within S z s) : Within S z (doUnseal s p) :=
    by
  unfold doUnseal
  with_reducible repeat' first
      | assumption | apply within_zeroPart | apply within_sealRefused | apply within_sealDone
      | apply within_State_modPart | apply within_ite

theorem within_execUnseal (bMem : S .mem) (bBad : S .bad) (bSoftBad : S .softBad) (bTags : S .tags) (bPages : S
    .pages) (bCores : S .cores) (bParts : S .parts) (bCrier : S .crier) (bSealU : S .sealU) (bHosts : S .hosts) (init
    : Sender) (part : Nat) (s : State) (h_s : Within S z s) : ∀ t, (execUnseal init part s) = .next t → Within S z t
    := by
  intro t h
  unfold execUnseal at h
  cases h
  with_reducible repeat' first
      | intro _ | assumption | apply within_doUnseal | apply within_ctlWrite

theorem within_loadProgram (bMem : S .mem) (bBad : S .bad) (bSoftBad : S .softBad) (bHbmErr : S .hbmErr) (bBurstKey :
    S .burstKey) (bTags : S .tags) (bPages : S .pages) (bDies : S .dies) (bParts : S .parts) (bCrier : S .crier)
    (bSealU : S .sealU) (bFlash : S .flash) (s : State) (p : Nat) (dest : Nat) (image : List Byte) (hash : BitVec 512)
    (i : Nat) (h_s : Within S z s) : Within S z (loadProgram s p dest image hash i) := by
  unfold loadProgram
  with_reducible repeat' first
      | assumption | apply within_sealDone | apply within_modSealed | apply within_setTags | apply within_memStores
      | apply within_ite | apply within_ite_fst

theorem within_doLoad (bMem : S .mem) (bBad : S .bad) (bSoftBad : S .softBad) (bHbmErr : S .hbmErr) (bBurstKey : S
    .burstKey) (bTags : S .tags) (bPages : S .pages) (bDies : S .dies) (bParts : S .parts) (bCrier : S .crier) (bSealU
    : S .sealU) (bFlash : S .flash) (s : State) (p : Nat) (h_s : Within S z s) : Within S z (doLoad s p) := by
  unfold doLoad
  with_reducible repeat' first
      | intro _ | assumption | apply within_loadProgram | apply within_sealUnread | apply within_sealRefused
      | apply within_correctSpan | apply within_ite | split | dsimp only

theorem within_execLoad (bMem : S .mem) (bBad : S .bad) (bSoftBad : S .softBad) (bHbmErr : S .hbmErr) (bBurstKey : S
    .burstKey) (bTags : S .tags) (bPages : S .pages) (bDies : S .dies) (bParts : S .parts) (bCrier : S .crier) (bSealU
    : S .sealU) (bFlash : S .flash) (bHosts : S .hosts) (init : Sender) (part : Nat) (s : State) (h_s : Within S z s)
    : ∀ t, (execLoad init part s) = .next t → Within S z t := by
  intro t h
  unfold execLoad at h
  cases h
  with_reducible repeat' first
      | intro _ | assumption | apply within_doLoad | apply within_ctlWrite

theorem within_doAttest (bMem : S .mem) (bBad : S .bad) (bSoftBad : S .softBad) (bHbmErr : S .hbmErr) (bBurstKey : S
    .burstKey) (bPages : S .pages) (bDies : S .dies) (bCrier : S .crier) (bSealU : S .sealU) (bFlash : S .flash) (s :
    State) (p : Nat) (h_s : Within S z s) : Within S z (doAttest s p) := by
  unfold doAttest
  with_reducible repeat' first
      | assumption | apply within_sealUnread | apply within_sealRefused | apply within_sealDone
      | apply within_memStores | apply within_correctSpan | apply within_State_count | apply within_ite
      | apply within_ite_fst | split

theorem within_execAttest (bMem : S .mem) (bBad : S .bad) (bSoftBad : S .softBad) (bHbmErr : S .hbmErr) (bBurstKey : S
    .burstKey) (bPages : S .pages) (bDies : S .dies) (bCrier : S .crier) (bSealU : S .sealU) (bFlash : S .flash)
    (bHosts : S .hosts) (init : Sender) (part : Nat) (s : State) (h_s : Within S z s) : ∀ t, (execAttest init part s)
    = .next t → Within S z t := by
  intro t h
  unfold execAttest at h
  cases h
  with_reducible repeat' first
      | intro _ | assumption | apply within_doAttest | apply within_ctlWrite

theorem within_leaveCtx (bParts : S .parts) (s : State) (p : Nat) (x : Option Nat) (h_s : Within S z s) : Within S z
    (leaveCtx s p x) := by
  unfold leaveCtx
  with_reducible repeat' first
      | assumption | apply within_State_modCtx | apply within_ite | split

theorem within_endSwitch (bFree : S .free) (bOut : S .out) (bMem : S .mem) (bBad : S .bad) (bSoftBad : S .softBad)
    (bHbmErr : S .hbmErr) (bBurstKey : S .burstKey) (bTags : S .tags) (bPages : S .pages) (bCores : S .cores) (bDies :
    S .dies) (bSched : S .sched) (bParts : S .parts) (bCrier : S .crier) (bLinks : S .links) (bFlash : S .flash) (s :
    State) (p : Nat) (h_s : Within S z s) : Within S z (endSwitch s p) := by
  unfold endSwitch
  with_reducible repeat' first
      | intro _ | assumption | apply within_deliverParked | apply within_pumpAll | apply within_State_count
      | apply within_State_modPart | apply within_ite | apply within_elim | split

theorem within_beginSwitch (bFree : S .free) (bOut : S .out) (bMem : S .mem) (bBad : S .bad) (bSoftBad : S .softBad)
    (bHbmErr : S .hbmErr) (bBurstKey : S .burstKey) (bTags : S .tags) (bPages : S .pages) (bCores : S .cores) (bDies :
    S .dies) (bSched : S .sched) (bParts : S .parts) (bCrier : S .crier) (bLinks : S .links) (bFlash : S .flash) (s :
    State) (p : Nat) (x : Nat) (h_s : Within S z s) : Within S z (beginSwitch s p x) := by
  unfold beginSwitch
  with_reducible repeat' first
      | intro _ | assumption | apply within_endSwitch | apply within_leaveCtx | apply within_closeGathers
      | apply within_State_count | apply within_State_modPart | apply within_State_modCore | apply within_foldl

theorem within_execSliceStart (bFree : S .free) (bOut : S .out) (bMem : S .mem) (bBad : S .bad) (bSoftBad : S
    .softBad) (bHbmErr : S .hbmErr) (bBurstKey : S .burstKey) (bTags : S .tags) (bPages : S .pages) (bCores : S
    .cores) (bDies : S .dies) (bSched : S .sched) (bParts : S .parts) (bCrier : S .crier) (bLinks : S .links) (bFlash
    : S .flash) (part : Nat) (s : State) (h_s : Within S z s) : ∀ t, (execSliceStart part s) = .next t → Within S z t
    := by
  intro t h
  unfold execSliceStart at h
  cases h
  with_reducible repeat' first
      | assumption | apply within_beginSwitch | apply within_ite | split

theorem within_requeue (bCores : S .cores) (bDies : S .dies) (g : Nat) (s : State) (e : CmdRec × Option Nat) (h_s :
    Within S z s) : Within S z (requeue g s e) := by
  unfold requeue
  with_reducible repeat' first
      | intro _ | assumption | apply within_modEntry | apply within_State_modRing | apply within_State_modCore
      | apply within_ite | apply within_ite_fst | split | dsimp only

theorem within_waitAfter (bCores : S .cores) (g : Nat) (r : CmdRec) (i : Nat) (s : State) (h_s : Within S z s) :
    Within S z (waitAfter g r i s) := by
  unfold waitAfter
  with_reducible repeat' first
      | assumption | apply within_State_modCore | apply within_ite | split

theorem within_killChain (bCores : S .cores) (bDies : S .dies) (g : Nat) (r : CmdRec) (s : State) (side : Bool) (h_s :
    Within S z s) : Within S z (killChain g r s side) := by
  unfold killChain
  with_reducible repeat' first
      | intro _ | assumption | apply within_waitAfter | apply within_requeue | apply within_State_modCore
      | apply within_ite | apply within_ite_fst | apply within_foldl | apply within_foldl_fst | apply within_elim
      | split | dsimp only

theorem within_killTile (bMem : S .mem) (bCores : S .cores) (bDies : S .dies) (bLinks : S .links) (s : State) (g :
    Nat) (q : QueueId) (r : CmdRec) (h_s : Within S z s) : Within S z (killTile s g q r) := by
  unfold killTile
  with_reducible repeat' first
      | intro _ | assumption | apply within_killChain | apply within_dropFrontReads | apply within_dropPartial
      | apply within_ite | apply within_foldl

theorem within_noteKill (bPages : S .pages) (bParts : S .parts) (bCrier : S .crier) (s : State) (p : Nat) (x : Nat)
    (h_s : Within S z s) : Within S z (noteKill s p x) := by
  unfold noteKill
  with_reducible repeat' first
      | assumption | apply within_setEvent | apply within_State_count | apply within_State_modCtx | apply within_ite

theorem within_execTileKill (bMem : S .mem) (bPages : S .pages) (bCores : S .cores) (bDies : S .dies) (bParts : S
    .parts) (bCrier : S .crier) (bLinks : S .links) (core : Nat) (queue : QueueId) (s : State) (h_s : Within S z s) :
    ∀ t, (execTileKill core queue s) = .next t → Within S z t := by
  intro t h
  unfold execTileKill at h
  cases h
  with_reducible repeat' first
      | assumption | apply within_noteKill | apply within_killTile | apply within_State_count
      | apply within_State_modCore | apply within_ite | split

theorem within_writeSave (bFree : S .free) (bMem : S .mem) (bBad : S .bad) (bSoftBad : S .softBad) (bHbmErr : S
    .hbmErr) (bBurstKey : S .burstKey) (bPages : S .pages) (bDies : S .dies) (bCrier : S .crier) (bFlash : S .flash)
    (s : State) (g : Nat) (c : Ctx) (v : SavedCtx) (h_s : Within S z s) : Within S z (writeSave s g c v).1 := by
  unfold writeSave
  with_reducible repeat' first
      | intro _ | assumption | exact .inl rfl | exact .inr (by assumption) | exact formed_refl _
      | exact fusesKept_refl _ | apply within_memStores | apply within_ite | apply within_ite_fst
      | apply within_foldl | apply within_foldl_fst | (simp only [within_mk]; apply within_upd rfl)

theorem within_saveOut (bFree : S .free) (bMem : S .mem) (bBad : S .bad) (bSoftBad : S .softBad) (bHbmErr : S .hbmErr)
    (bBurstKey : S .burstKey) (bPages : S .pages) (bCores : S .cores) (bDies : S .dies) (bCrier : S .crier) (bFlash :
    S .flash) (s : State) (p : Nat) (g : Nat) (h_s : Within S z s) : Within S z (saveOut s p g) := by
  unfold saveOut
  with_reducible repeat' first
      | intro _ | assumption | apply within_writeSave | apply within_State_count | apply within_State_modCore
      | apply within_ite | apply within_ite_fst | split | dsimp only

theorem within_restoreIn (bSoftBad : S .softBad) (bPages : S .pages) (bCores : S .cores) (bDies : S .dies) (bCrier : S
    .crier) (bFlash : S .flash) (s : State) (p : Nat) (g : Nat) (y : Option Nat) (h_s : Within S z s) : Within S z
    (restoreIn s p g y) := by
  unfold restoreIn
  with_reducible repeat' first
      | intro _ | assumption | apply within_readSpans | apply within_State_count | apply within_State_modCore
      | apply within_ite | apply within_ite_fst | apply within_elim

theorem within_countFree (bFree : S .free) (bPages : S .pages) (s : State) (pn : Nat) (k : Nat) (h_s : Within S z s) :
    Within S z (countFree s pn k) := by
  unfold countFree
  with_reducible repeat' first
      | assumption | apply within_State_count | apply within_drawFree

theorem within_execSaveRestore (bFree : S .free) (bOut : S .out) (bMem : S .mem) (bBad : S .bad) (bSoftBad : S
    .softBad) (bHbmErr : S .hbmErr) (bBurstKey : S .burstKey) (bTags : S .tags) (bPages : S .pages) (bCores : S
    .cores) (bDies : S .dies) (bSched : S .sched) (bParts : S .parts) (bCrier : S .crier) (bLinks : S .links) (bFlash
    : S .flash) (core : Nat) (checkOk : Bool) (s : State) (h_s : Within S z s) : ∀ t, (execSaveRestore core checkOk s)
    = .next t → Within S z t := by
  intro t h
  unfold execSaveRestore at h
  cases h
  with_reducible repeat' first
      | assumption | apply within_countFree | apply within_restoreIn | apply within_saveOut | apply within_endSwitch
      | apply within_doDiscard | apply within_discardCtx | apply within_dropFrontReads | apply within_setEvent
      | apply within_State_count | apply within_ite | split

theorem within_writeEvents (bPages : S .pages) (s : State) (pn : Nat) (value : Nat) (h_s : Within S z s) : Within S z
    (writeEvents s pn value) := by
  unfold writeEvents
  with_reducible repeat' first
      | assumption | apply within_State_modPage | apply within_ite

theorem within_forceEvents (bPages : S .pages) (bCrier : S .crier) (s : State) (pn : Nat) (ty : Nat) (value : Nat)
    (h_s : Within S z s) : Within S z (forceEvents s pn ty value) := by
  unfold forceEvents
  with_reducible repeat' first
      | intro _ | assumption | apply within_setEvent | apply within_foldl

theorem within_writeKey (bPages : S .pages) (s : State) (armed : Option Nat) (init : Nat) (pn : Nat) (value : Nat)
    (h_s : Within S z s) : Within S z (writeKey s armed init pn value) := by
  unfold writeKey
  with_reducible repeat' first
      | assumption | apply within_State_modPage | apply within_ite

theorem within_writeMode (bPages : S .pages) (s : State) (pn : Nat) (value : Nat) (h_s : Within S z s) : Within S z
    (writeMode s pn value) := by
  unfold writeMode
  with_reducible repeat' first
      | assumption | apply within_State_modPage | apply within_ite

theorem within_writeShadow (bPages : S .pages) (s : State) (pn : Nat) (ty : Nat) (value : Nat) (h_s : Within S z s) :
    Within S z (writeShadow s pn ty value) := by
  unfold writeShadow
  with_reducible repeat' first
      | assumption | apply within_State_modPage | apply within_ite | apply within_ite_fst

theorem within_storeWord (bPages : S .pages) (s : State) (pn : Nat) (r : RegSpec) (value : Nat) (h_s : Within S z s) :
    Within S z (storeWord s pn r value) := by
  unfold storeWord
  with_reducible repeat' first
      | assumption | apply within_State_setReg | apply within_State_modPage | apply within_ite

theorem within_bellEnable (bPages : S .pages) (bDies : S .dies) (bBell : S .bell) (bCrier : S .crier) (s : State) (was
    : Bool) (h_s : Within S z s) : Within S z (bellEnable s was) := by
  unfold bellEnable
  with_reducible repeat' first
      | intro _ | assumption | exact .inl rfl | exact .inr (by assumption) | exact formed_refl _
      | exact fusesKept_refl _ | apply within_enterSelfTimed | apply within_ite
      | (simp only [within_mk]; apply within_upd rfl)

theorem within_crierEnable (bPages : S .pages) (s : State) (init : Nat) (off : Nat) (v : Nat) (was : Bool) (h_s :
    Within S z s) : Within S z (crierEnable s init off v was) := by
  unfold crierEnable
  with_reducible repeat' first
      | assumption | apply within_ignoreWrite | apply within_State_setReg | apply within_ite

theorem within_afterWrite (bMem : S .mem) (bBad : S .bad) (bSoftBad : S .softBad) (bHbmErr : S .hbmErr) (bBurstKey : S
    .burstKey) (bPages : S .pages) (bDies : S .dies) (bBell : S .bell) (bSched : S .sched) (bParts : S .parts) (bCrier
    : S .crier) (bPower : S .power) (bFlash : S .flash) (old : State) (s : State) (init : Nat) (pn : Nat) (i : PageId)
    (off : Nat) (v : Nat) (h_old : Within S z old) (h_s : Within S z s) : Within S z (afterWrite old s init pn i off
    v) := by
  unfold afterWrite
  with_reducible repeat' first
      | assumption | apply within_crierEnable | apply within_bellEnable | apply within_checkBellSource
      | apply within_settleRing | apply within_State_modPart | apply within_ite

theorem within_writeOff (bPages : S .pages) (bPower : S .power) (s : State) (init : Nat) (off : Nat) (v : Nat) (n :
    Nat) (may : Nat → Bool) (dom : Nat → Nat) (drop : State → Nat → State) (h_s : Within S z s) (h_drop : ∀ x0 x1,
    Within S z x0 → Within S z (drop x0 x1)) : Within S z (writeOff s init off v n may dom drop) := by
  unfold writeOff
  with_reducible repeat' first
      | intro _ | assumption | exact .inl rfl | exact .inr (by assumption) | exact formed_refl _
      | exact fusesKept_refl _ | apply h_drop | apply within_ignoreWrite | apply within_State_setReg
      | apply within_ite | apply within_foldl | (simp only [within_mk]; apply within_upd rfl)

theorem within_writeQoff (bMem : S .mem) (bBad : S .bad) (bSoftBad : S .softBad) (bPages : S .pages) (bCores : S
    .cores) (bPower : S .power) (s : State) (init : Nat) (v : Nat) (h_s : Within S z s) : Within S z (writeQoff s init
    v) := by
  unfold writeQoff
  with_reducible repeat' first
      | intro _ | assumption | apply within_writeOff | apply within_dropQuad

theorem within_writeLpoff (bPages : S .pages) (bDies : S .dies) (bBell : S .bell) (bCrier : S .crier) (bLinks : S
    .links) (bPower : S .power) (s : State) (init : Nat) (v : Nat) (h_s : Within S z s) : Within S z (writeLpoff s
    init v) := by
  unfold writeLpoff
  with_reducible repeat' first
      | intro _ | assumption | apply within_writeOff | apply within_dropPort

theorem within_burnKey (bPages : S .pages) (bBoot : S .boot) (bFuses : S .fuses) (s : State) (init : Nat) (v : Nat)
    (h_s : Within S z s) : Within S z (burnKey s init v) := by
  unfold burnKey
  split
  · next hc =>
    simp only [within_mk]
    refine ⟨h_s.queue, h_s.form, ?_, h_s.free, h_s.out, h_s.mem, h_s.bad, h_s.softBad, h_s.hbmErr, h_s.burstKey,
      h_s.hbmStale, h_s.tags, h_s.pages, h_s.cores, h_s.dies, h_s.d2d, h_s.bell, h_s.sched, h_s.parts, h_s.crier,
      h_s.links, h_s.sealU, h_s.power, keep_of bBoot, h_s.flash, keep_of bFuses, h_s.hosts⟩
    refine ⟨h_s.fuse.1, h_s.fuse.2.1, h_s.fuse.2.2.1, h_s.fuse.2.2.2.1, fun k hk => ?_⟩
    have h := h_s.fuse.2.2.2.2 k hk
    rw [h] at hc
    exact absurd hc.2.2.2.1 (by simp)
  · with_reducible repeat' first
      | assumption | apply within_ignoreWrite

theorem within_writeSealCmd (bMem : S .mem) (bBad : S .bad) (bSoftBad : S .softBad) (bHbmErr : S .hbmErr) (bBurstKey :
    S .burstKey) (bHbmStale : S .hbmStale) (bTags : S .tags) (bPages : S .pages) (bCores : S .cores) (bDies : S .dies)
    (bSched : S .sched) (bParts : S .parts) (bCrier : S .crier) (bLinks : S .links) (bSealU : S .sealU) (bFlash : S
    .flash) (s : State) (init : Nat) (v : Nat) (h_s : Within S z s) : Within S z (writeSealCmd s init v) := by
  unfold writeSealCmd
  with_reducible repeat' first
      | assumption | apply within_doAttest | apply within_doLoad | apply within_doUnseal | apply within_doSeal
      | apply within_ignoreWrite | apply within_ite

theorem within_writeJobCmd (bFree : S .free) (bMem : S .mem) (bBad : S .bad) (bSoftBad : S .softBad) (bHbmErr : S
    .hbmErr) (bBurstKey : S .burstKey) (bPages : S .pages) (bCores : S .cores) (bDies : S .dies) (bBell : S .bell)
    (bSched : S .sched) (bParts : S .parts) (bCrier : S .crier) (bLinks : S .links) (bFlash : S .flash) (s : State)
    (init : Nat) (p : Nat) (v : Nat) (h_s : Within S z s) : Within S z (writeJobCmd s init p v) := by
  unfold writeJobCmd
  with_reducible repeat' first
      | assumption | apply within_jobEnd | apply within_jobAdmit | apply within_jobBoundary
      | apply within_ignoreWrite | apply within_ite

theorem within_writeCtxCmd (bMem : S .mem) (bBad : S .bad) (bSoftBad : S .softBad) (bHbmErr : S .hbmErr) (bBurstKey :
    S .burstKey) (bPages : S .pages) (bCores : S .cores) (bDies : S .dies) (bSched : S .sched) (bParts : S .parts)
    (bCrier : S .crier) (bLinks : S .links) (bFlash : S .flash) (s : State) (init : Nat) (p : Nat) (v : Nat) (h_s :
    Within S z s) : Within S z (writeCtxCmd s init p v) := by
  unfold writeCtxCmd
  with_reducible repeat' first
      | intro _ | assumption | apply within_doDiscard | apply within_doResume | apply within_doSuspend
      | apply within_ctxAction | apply within_ignoreWrite | apply within_ite

theorem within_writeLinkCmd (bOut : S .out) (bMem : S .mem) (bBad : S .bad) (bSoftBad : S .softBad) (bHbmErr : S
    .hbmErr) (bBurstKey : S .burstKey) (bPages : S .pages) (bCores : S .cores) (bDies : S .dies) (bSched : S .sched)
    (bParts : S .parts) (bCrier : S .crier) (bLinks : S .links) (bSealU : S .sealU) (bFlash : S .flash) (s : State)
    (init : Nat) (v : Nat) (h_s : Within S z s) : Within S z (writeLinkCmd s init v) := by
  unfold writeLinkCmd
  with_reducible repeat' first
      | assumption | apply within_openCtx | apply within_endContext | apply within_ignoreWrite | apply within_ite

theorem within_writeTrapHead (bPages : S .pages) (bCrier : S .crier) (s : State) (init : Nat) (k : Nat) (v : Nat) (h_s
    : Within S z s) : Within S z (writeTrapHead s init k v) := by
  unfold writeTrapHead
  with_reducible repeat' first
      | assumption | apply within_ignoreWrite | apply within_State_setCrierRing | apply within_ite

theorem within_writeFreeTail (bPages : S .pages) (bDies : S .dies) (s : State) (init : Nat) (d : Nat) (k : Nat) (p :
    Nat) (v : Nat) (h_s : Within S z s) : Within S z (writeFreeTail s init d k p v) := by
  unfold writeFreeTail
  with_reducible repeat' first
      | assumption | apply within_ignoreWrite | apply within_State_modDie | apply within_ite

theorem within_writeEpoch (bPages : S .pages) (bSched : S .sched) (s : State) (init : Nat) (off : Nat) (v : Nat) (h_s
    : Within S z s) : Within S z (writeEpoch s init off v) := by
  unfold writeEpoch
  with_reducible repeat' first
      | intro _ | assumption | exact .inl rfl | exact .inr (by assumption) | exact formed_refl _
      | exact fusesKept_refl _ | apply within_ignoreWrite | apply within_ite
      | (simp only [within_mk]; apply within_upd rfl)

theorem within_hubWrite? (bFree : S .free) (bOut : S .out) (bMem : S .mem) (bBad : S .bad) (bSoftBad : S .softBad)
    (bHbmErr : S .hbmErr) (bBurstKey : S .burstKey) (bHbmStale : S .hbmStale) (bTags : S .tags) (bPages : S .pages)
    (bCores : S .cores) (bDies : S .dies) (bD2d : S .d2d) (bBell : S .bell) (bSched : S .sched) (bParts : S .parts)
    (bCrier : S .crier) (bLinks : S .links) (bSealU : S .sealU) (bPower : S .power) (bBoot : S .boot) (bFlash : S
    .flash) (bFuses : S .fuses) (bHosts : S .hosts) (s : State) (init : Nat) (i : PageId) (off : Nat) (v : Nat) (h_s :
    Within S z s) : ∀ t, (hubWrite? s init i off v) = some t → Within S z t := by
  unfold hubWrite?
  repeat' first
    | exact within_opt_none
    | with_reducible refine within_opt_ite _ _ _ ?_ ?_
    | with_reducible refine within_opt_some _ ?_
  all_goals with_reducible repeat' first
      | assumption | exact .inl rfl | exact .inr (by assumption) | exact formed_refl _ | exact fusesKept_refl _
      | apply within_writeReset
      | apply within_writeBootOk
      | apply within_burnKey
      | apply within_writeSealCmd
      | apply within_writeEpoch
      | apply within_State_setReg
      | apply within_writeQoff
      | apply within_writeLpoff
      | apply within_writeJobCmd
      | apply within_writeCtxCmd
      | apply within_writeTrapHead
      | apply within_writeLinkCtl
      | apply within_writeLinkCmd
      | apply within_reqTail
      | (simp only [within_mk]; apply within_upd rfl)

theorem within_dieWrite? (bMem : S .mem) (bBad : S .bad) (bSoftBad : S .softBad) (bHbmErr : S .hbmErr) (bBurstKey : S
    .burstKey) (bPages : S .pages) (bCores : S .cores) (bDies : S .dies) (bSched : S .sched) (bParts : S .parts)
    (bCrier : S .crier) (bFlash : S .flash) (s : State) (init : Nat) (i : PageId) (off : Nat) (v : Nat) (h_s : Within
    S z s) : ∀ t, (dieWrite? s init i off v) = some t → Within S z t := by
  intro t h
  unfold dieWrite? at h
  (repeat' split at h) <;> cases h
  all_goals with_reducible repeat' first
      | assumption | exact .inl rfl | exact .inr (by assumption) | exact formed_refl _ | exact fusesKept_refl _
      | apply within_almTail
      | apply within_writeFreeTail
      | apply within_ringTail
      | apply within_State_modCore

theorem within_commonWrite? (bPages : S .pages) (bCrier : S .crier) (s : State) (armed : Option Nat) (init : Nat) (pn
    : Nat) (ty : Nat) (off : Nat) (v : Nat) (h_s : Within S z s) : ∀ t, (commonWrite? s armed init pn ty off v) = some
    t → Within S z t := by
  intro t h
  unfold commonWrite? at h
  (repeat' split at h) <;> cases h
  all_goals with_reducible repeat' first
      | assumption | exact .inl rfl | exact .inr (by assumption) | exact formed_refl _ | exact fusesKept_refl _
      | apply within_writeKey
      | apply within_writeMode
      | apply within_writeEvents
      | apply within_State_modPage
      | apply within_forceEvents
      | apply within_writeShadow

theorem within_pageWrite (bFree : S .free) (bOut : S .out) (bMem : S .mem) (bBad : S .bad) (bSoftBad : S .softBad)
    (bHbmErr : S .hbmErr) (bBurstKey : S .burstKey) (bHbmStale : S .hbmStale) (bTags : S .tags) (bPages : S .pages)
    (bCores : S .cores) (bDies : S .dies) (bD2d : S .d2d) (bBell : S .bell) (bSched : S .sched) (bParts : S .parts)
    (bCrier : S .crier) (bLinks : S .links) (bSealU : S .sealU) (bPower : S .power) (bBoot : S .boot) (bFlash : S
    .flash) (bFuses : S .fuses) (bHosts : S .hosts) (s : State) (init : Nat) (pn : Nat) (i : PageId) (off : Nat) (v :
    Nat) (h_s : Within S z s) : Within S z (pageWrite s init pn i off v) := by
  unfold pageWrite
  split
  · next t ht =>
    cases e : hubWrite? s init i off v with
    | some u =>
      rw [e] at ht; cases ht
      refine within_hubWrite? (by assumption) (by assumption) (by assumption) (by assumption) (by assumption) (by assumption) (by assumption) (by assumption) (by assumption) (by assumption) (by assumption) (by assumption) (by assumption) (by assumption) (by assumption) (by assumption) (by assumption) (by assumption) (by assumption) (by assumption) (by assumption) (by assumption) (by assumption) (by assumption) _ _ _ _ _ h_s _ e
    | none =>
      rw [e] at ht
      refine within_dieWrite? (by assumption) (by assumption) (by assumption) (by assumption) (by assumption) (by assumption) (by assumption) (by assumption) (by assumption) (by assumption) (by assumption) (by assumption) _ _ _ _ _ h_s _ ht
  · with_reducible repeat' first
      | intro _ | assumption | apply within_afterWrite | apply within_storeWord | apply within_ignoreWrite
      | apply within_ite | split

theorem within_writeAt (bFree : S .free) (bOut : S .out) (bMem : S .mem) (bBad : S .bad) (bSoftBad : S .softBad)
    (bHbmErr : S .hbmErr) (bBurstKey : S .burstKey) (bHbmStale : S .hbmStale) (bTags : S .tags) (bPages : S .pages)
    (bCores : S .cores) (bDies : S .dies) (bD2d : S .d2d) (bBell : S .bell) (bSched : S .sched) (bParts : S .parts)
    (bCrier : S .crier) (bLinks : S .links) (bSealU : S .sealU) (bPower : S .power) (bBoot : S .boot) (bFlash : S
    .flash) (bFuses : S .fuses) (bHosts : S .hosts) (s : State) (armed : Option Nat) (init : Nat) (pn : Nat) (off :
    Nat) (v : Nat) (h_s : Within S z s) : Within S z (writeAt s armed init pn off v) := by
  unfold writeAt
  with_reducible repeat' first
      | assumption | apply within_pageWrite
      | (refine within_commonWrite? (by assumption) (by assumption) _ _ _ _ _ _ _ ?_ _ (by assumption))
      | apply within_ignoreWrite | apply within_ite | split

theorem within_writeNow (bFree : S .free) (bOut : S .out) (bMem : S .mem) (bBad : S .bad) (bSoftBad : S .softBad)
    (bHbmErr : S .hbmErr) (bBurstKey : S .burstKey) (bHbmStale : S .hbmStale) (bTags : S .tags) (bPages : S .pages)
    (bCores : S .cores) (bDies : S .dies) (bD2d : S .d2d) (bBell : S .bell) (bSched : S .sched) (bParts : S .parts)
    (bCrier : S .crier) (bLinks : S .links) (bSealU : S .sealU) (bPower : S .power) (bBoot : S .boot) (bFlash : S
    .flash) (bFuses : S .fuses) (bHosts : S .hosts) (s : State) (init : Nat) (bytes : Nat) (addr : Nat) (v : Nat) (h_s
    : Within S z s) : Within S z (writeNow s init bytes addr v) := by
  unfold writeNow
  with_reducible repeat' first
      | intro _ | assumption | apply within_writeAt | apply within_arrive

theorem within_regWrite (bFree : S .free) (bOut : S .out) (bMem : S .mem) (bBad : S .bad) (bSoftBad : S .softBad)
    (bHbmErr : S .hbmErr) (bBurstKey : S .burstKey) (bHbmStale : S .hbmStale) (bTags : S .tags) (bPages : S .pages)
    (bCores : S .cores) (bDies : S .dies) (bD2d : S .d2d) (bBell : S .bell) (bSched : S .sched) (bParts : S .parts)
    (bCrier : S .crier) (bLinks : S .links) (bSealU : S .sealU) (bPower : S .power) (bBoot : S .boot) (bFlash : S
    .flash) (bFuses : S .fuses) (bHosts : S .hosts) (s : State) (init : Nat) (bytes : Nat) (addr : Nat) (v : Nat)
    (behind : Bool) (h_s : Within S z s) : Within S z (regWrite s init bytes addr v behind) := by
  unfold regWrite
  with_reducible repeat' first
      | assumption | apply within_writeNow | apply within_holdAccess | apply within_ite

theorem within_execRegisterWrite (bFree : S .free) (bOut : S .out) (bMem : S .mem) (bBad : S .bad) (bSoftBad : S
    .softBad) (bHbmErr : S .hbmErr) (bBurstKey : S .burstKey) (bHbmStale : S .hbmStale) (bTags : S .tags) (bPages : S
    .pages) (bCores : S .cores) (bDies : S .dies) (bD2d : S .d2d) (bBell : S .bell) (bSched : S .sched) (bParts : S
    .parts) (bCrier : S .crier) (bLinks : S .links) (bSealU : S .sealU) (bPower : S .power) (bBoot : S .boot) (bFlash
    : S .flash) (bFuses : S .fuses) (bHosts : S .hosts) (init : Nat) (bytes : Nat) (address : Word) (value : Word)
    (behind : Bool) (s : State) (h_s : Within S z s) : ∀ t, (execRegisterWrite init bytes address value behind s) =
    .next t → Within S z t := by
  intro t h
  unfold execRegisterWrite at h
  cases h
  with_reducible repeat' first
      | assumption | apply within_regWrite

theorem within_execExpertKey (bFree : S .free) (bOut : S .out) (bMem : S .mem) (bBad : S .bad) (bSoftBad : S .softBad)
    (bHbmErr : S .hbmErr) (bBurstKey : S .burstKey) (bHbmStale : S .hbmStale) (bTags : S .tags) (bPages : S .pages)
    (bCores : S .cores) (bDies : S .dies) (bD2d : S .d2d) (bBell : S .bell) (bSched : S .sched) (bParts : S .parts)
    (bCrier : S .crier) (bLinks : S .links) (bSealU : S .sealU) (bPower : S .power) (bBoot : S .boot) (bFlash : S
    .flash) (bFuses : S .fuses) (bHosts : S .hosts) (init : Sender) (page : Word) (value : Word) (s : State) (h_s :
    Within S z s) : ∀ t, (execExpertKey init page value s) = .next t → Within S z t := by
  intro t h
  unfold execExpertKey at h
  cases h
  with_reducible repeat' first
      | assumption | apply within_regWrite

theorem within_execExpertLock (bFree : S .free) (bOut : S .out) (bMem : S .mem) (bBad : S .bad) (bSoftBad : S
    .softBad) (bHbmErr : S .hbmErr) (bBurstKey : S .burstKey) (bHbmStale : S .hbmStale) (bTags : S .tags) (bPages : S
    .pages) (bCores : S .cores) (bDies : S .dies) (bD2d : S .d2d) (bBell : S .bell) (bSched : S .sched) (bParts : S
    .parts) (bCrier : S .crier) (bLinks : S .links) (bSealU : S .sealU) (bPower : S .power) (bBoot : S .boot) (bFlash
    : S .flash) (bFuses : S .fuses) (bHosts : S .hosts) (init : Sender) (page : Word) (value : Word) (s : State) (h_s
    : Within S z s) : ∀ t, (execExpertLock init page value s) = .next t → Within S z t := by
  intro t h
  unfold execExpertLock at h
  cases h
  with_reducible repeat' first
      | assumption | apply within_regWrite

theorem within_execEvtStatusWrite (bFree : S .free) (bOut : S .out) (bMem : S .mem) (bBad : S .bad) (bSoftBad : S
    .softBad) (bHbmErr : S .hbmErr) (bBurstKey : S .burstKey) (bHbmStale : S .hbmStale) (bTags : S .tags) (bPages : S
    .pages) (bCores : S .cores) (bDies : S .dies) (bD2d : S .d2d) (bBell : S .bell) (bSched : S .sched) (bParts : S
    .parts) (bCrier : S .crier) (bLinks : S .links) (bSealU : S .sealU) (bPower : S .power) (bBoot : S .boot) (bFlash
    : S .flash) (bFuses : S .fuses) (bHosts : S .hosts) (init : Sender) (page : Word) (value : Word) (s : State) (h_s
    : Within S z s) : ∀ t, (execEvtStatusWrite init page value s) = .next t → Within S z t := by
  intro t h
  unfold execEvtStatusWrite at h
  cases h
  with_reducible repeat' first
      | assumption | apply within_regWrite

theorem within_execEvtForce (bFree : S .free) (bOut : S .out) (bMem : S .mem) (bBad : S .bad) (bSoftBad : S .softBad)
    (bHbmErr : S .hbmErr) (bBurstKey : S .burstKey) (bHbmStale : S .hbmStale) (bTags : S .tags) (bPages : S .pages)
    (bCores : S .cores) (bDies : S .dies) (bD2d : S .d2d) (bBell : S .bell) (bSched : S .sched) (bParts : S .parts)
    (bCrier : S .crier) (bLinks : S .links) (bSealU : S .sealU) (bPower : S .power) (bBoot : S .boot) (bFlash : S
    .flash) (bFuses : S .fuses) (bHosts : S .hosts) (init : Sender) (page : Word) (value : Word) (s : State) (h_s :
    Within S z s) : ∀ t, (execEvtForce init page value s) = .next t → Within S z t := by
  intro t h
  unfold execEvtForce at h
  cases h
  with_reducible repeat' first
      | assumption | apply within_regWrite

theorem within_execShadowDiscard (bFree : S .free) (bOut : S .out) (bMem : S .mem) (bBad : S .bad) (bSoftBad : S
    .softBad) (bHbmErr : S .hbmErr) (bBurstKey : S .burstKey) (bHbmStale : S .hbmStale) (bTags : S .tags) (bPages : S
    .pages) (bCores : S .cores) (bDies : S .dies) (bD2d : S .d2d) (bBell : S .bell) (bSched : S .sched) (bParts : S
    .parts) (bCrier : S .crier) (bLinks : S .links) (bSealU : S .sealU) (bPower : S .power) (bBoot : S .boot) (bFlash
    : S .flash) (bFuses : S .fuses) (bHosts : S .hosts) (init : Sender) (page : Word) (value : Word) (s : State) (h_s
    : Within S z s) : ∀ t, (execShadowDiscard init page value s) = .next t → Within S z t := by
  intro t h
  unfold execShadowDiscard at h
  cases h
  with_reducible repeat' first
      | assumption | apply within_regWrite

theorem within_execOpkeyBurn (bFree : S .free) (bOut : S .out) (bMem : S .mem) (bBad : S .bad) (bSoftBad : S .softBad)
    (bHbmErr : S .hbmErr) (bBurstKey : S .burstKey) (bHbmStale : S .hbmStale) (bTags : S .tags) (bPages : S .pages)
    (bCores : S .cores) (bDies : S .dies) (bD2d : S .d2d) (bBell : S .bell) (bSched : S .sched) (bParts : S .parts)
    (bCrier : S .crier) (bLinks : S .links) (bSealU : S .sealU) (bPower : S .power) (bBoot : S .boot) (bFlash : S
    .flash) (bFuses : S .fuses) (bHosts : S .hosts) (init : Sender) (value : Word) (s : State) (h_s : Within S z s) :
    ∀ t, (execOpkeyBurn init value s) = .next t → Within S z t := by
  intro t h
  unfold execOpkeyBurn at h
  cases h
  with_reducible repeat' first
      | assumption | apply within_regWrite

theorem within_serveHeld (bFree : S .free) (bOut : S .out) (bMem : S .mem) (bBad : S .bad) (bSoftBad : S .softBad)
    (bHbmErr : S .hbmErr) (bBurstKey : S .burstKey) (bHbmStale : S .hbmStale) (bTags : S .tags) (bPages : S .pages)
    (bCores : S .cores) (bDies : S .dies) (bD2d : S .d2d) (bBell : S .bell) (bSched : S .sched) (bParts : S .parts)
    (bCrier : S .crier) (bLinks : S .links) (bSealU : S .sealU) (bPower : S .power) (bBoot : S .boot) (bFlash : S
    .flash) (bFuses : S .fuses) (bHosts : S .hosts) (h : Nat) (s : State) (a : HeldAccess) (h_s : Within S z s) :
    Within S z (serveHeld h s a) := by
  unfold serveHeld
  with_reducible repeat' first
      | assumption | apply within_writeNow | apply within_answerRead | apply within_ite

theorem within_execHeldWriteRelease (bFree : S .free) (bOut : S .out) (bMem : S .mem) (bBad : S .bad) (bSoftBad : S
    .softBad) (bHbmErr : S .hbmErr) (bBurstKey : S .burstKey) (bHbmStale : S .hbmStale) (bTags : S .tags) (bPages : S
    .pages) (bCores : S .cores) (bDies : S .dies) (bD2d : S .d2d) (bBell : S .bell) (bSched : S .sched) (bParts : S
    .parts) (bCrier : S .crier) (bLinks : S .links) (bSealU : S .sealU) (bPower : S .power) (bBoot : S .boot) (bFlash
    : S .flash) (bFuses : S .fuses) (bHosts : S .hosts) (host : Nat) (s : State) (h_s : Within S z s) : ∀ t,
    (execHeldWriteRelease host s) = .next t → Within S z t := by
  intro t h
  unfold execHeldWriteRelease at h
  cases h
  with_reducible repeat' first
      | intro _ | assumption | apply within_serveHeld | apply within_State_setHost | apply within_foldl | split

theorem within_runEntry (bFree : S .free) (bOut : S .out) (bMem : S .mem) (bBad : S .bad) (bSoftBad : S .softBad)
    (bHbmErr : S .hbmErr) (bBurstKey : S .burstKey) (bHbmStale : S .hbmStale) (bTags : S .tags) (bPages : S .pages)
    (bCores : S .cores) (bDies : S .dies) (bD2d : S .d2d) (bBell : S .bell) (bSched : S .sched) (bParts : S .parts)
    (bCrier : S .crier) (bLinks : S .links) (bSealU : S .sealU) (bPower : S .power) (bBoot : S .boot) (bFlash : S
    .flash) (bFuses : S .fuses) (bHosts : S .hosts) (f : FrameRun) (e : AccessEntry) (h_f : Within S z f.s) : Within S
    z (runEntry f e).s := by
  unfold runEntry
  with_reducible repeat' first
      | assumption | apply within_writeNow | apply within_serveRead | apply within_State_count | apply within_ite
      | apply within_ite_frame | apply within_ite_fst

theorem within_execRegisterAccessFrame (bFree : S .free) (bOut : S .out) (bMem : S .mem) (bBad : S .bad) (bSoftBad : S
    .softBad) (bHbmErr : S .hbmErr) (bBurstKey : S .burstKey) (bHbmStale : S .hbmStale) (bTags : S .tags) (bPages : S
    .pages) (bCores : S .cores) (bDies : S .dies) (bD2d : S .d2d) (bBell : S .bell) (bSched : S .sched) (bParts : S
    .parts) (bCrier : S .crier) (bLinks : S .links) (bSealU : S .sealU) (bPower : S .power) (bBoot : S .boot) (bFlash
    : S .flash) (bFuses : S .fuses) (bHosts : S .hosts) (f : MgmtFrame) (s : State) (h_s : Within S z s) : ∀ t,
    (execRegisterAccessFrame f s) = .next t → Within S z t := by
  intro t h
  unfold execRegisterAccessFrame at h
  cases h
  with_reducible repeat' first
      | intro _ | assumption | apply within_runEntry | apply within_mgmtFrame | apply within_State_count
      | apply within_State_emit | apply within_ite | apply within_ite_frame | apply within_foldl
      | apply within_foldl_frame

theorem within_smbus (bOut : S .out) (s : State) (pecOk : Bool) (act : State → State) (h_s : Within S z s) (h_act : ∀
    x0, Within S z x0 → Within S z (act x0)) : Within S z (smbus s pecOk act) := by
  unfold smbus
  with_reducible repeat' first
      | assumption | apply h_act | apply within_State_emit | apply within_ite

theorem within_smbusBlockRead (bOut : S .out) (s : State) (pecOk : Bool) (code : Nat) (data : State → List Byte) (h_s
    : Within S z s) : Within S z (smbusBlockRead s pecOk code data) := by
  unfold smbusBlockRead
  with_reducible repeat' first
      | intro _ | assumption | apply within_smbus | apply within_State_emit

theorem within_smbusRead (bOut : S .out) (s : State) (pecOk : Bool) (data : State → List Byte) (h_s : Within S z s) :
    Within S z (smbusRead s pecOk data) := by
  unfold smbusRead
  with_reducible repeat' first
      | intro _ | assumption | apply within_smbus | apply within_State_emit

theorem within_execDeviceId (bOut : S .out) (pecOk : Bool) (s : State) (h_s : Within S z s) : ∀ t, (execDeviceId pecOk
    s) = .next t → Within S z t := by
  intro t h
  unfold execDeviceId at h
  cases h
  with_reducible repeat' first
      | assumption | apply within_smbusBlockRead

theorem within_execState (bOut : S .out) (pecOk : Bool) (s : State) (h_s : Within S z s) : ∀ t, (execState pecOk s) =
    .next t → Within S z t := by
  intro t h
  unfold execState at h
  cases h
  with_reducible repeat' first
      | assumption | apply within_smbusBlockRead

theorem within_execSupply (bOut : S .out) (pecOk : Bool) (s : State) (h_s : Within S z s) : ∀ t, (execSupply pecOk s)
    = .next t → Within S z t := by
  intro t h
  unfold execSupply at h
  cases h
  with_reducible repeat' first
      | assumption | apply within_smbusBlockRead

theorem within_execTemps (bOut : S .out) (pecOk : Bool) (s : State) (h_s : Within S z s) : ∀ t, (execTemps pecOk s) =
    .next t → Within S z t := by
  intro t h
  unfold execTemps at h
  cases h
  with_reducible repeat' first
      | assumption | apply within_smbusBlockRead

theorem within_execAlertCause (bOut : S .out) (pecOk : Bool) (s : State) (h_s : Within S z s) : ∀ t, (execAlertCause
    pecOk s) = .next t → Within S z t := by
  intro t h
  unfold execAlertCause at h
  cases h
  with_reducible repeat' first
      | assumption | apply within_smbusRead

theorem within_execClocks (bOut : S .out) (pecOk : Bool) (s : State) (h_s : Within S z s) : ∀ t, (execClocks pecOk s)
    = .next t → Within S z t := by
  intro t h
  unfold execClocks at h
  cases h
  with_reducible repeat' first
      | assumption | apply within_smbusBlockRead

theorem within_execFail (bOut : S .out) (pecOk : Bool) (s : State) (h_s : Within S z s) : ∀ t, (execFail pecOk s) =
    .next t → Within S z t := by
  intro t h
  unfold execFail at h
  cases h
  with_reducible repeat' first
      | assumption | apply within_smbusBlockRead

theorem within_execAlertClear (bOut : S .out) (bPower : S .power) (mask : Byte) (pecOk : Bool) (s : State) (h_s :
    Within S z s) : ∀ t, (execAlertClear mask pecOk s) = .next t → Within S z t := by
  intro t h
  unfold execAlertClear at h
  cases h
  with_reducible repeat' first
      | intro _ | assumption | exact .inl rfl | exact .inr (by assumption) | exact formed_refl _
      | exact fusesKept_refl _ | apply within_smbus | apply within_State_emit
      | (simp only [within_mk]; apply within_upd rfl)

theorem within_execCap (bOut : S .out) (bPages : S .pages) (value : Option (BitVec 16)) (pecOk : Bool) (s : State)
    (h_s : Within S z s) : ∀ t, (execCap value pecOk s) = .next t → Within S z t := by
  intro t h
  unfold execCap at h
  cases h
  with_reducible repeat' first
      | intro _ | assumption | apply within_smbusRead | apply within_smbus | apply within_State_setReg
      | apply within_State_emit | split

theorem within_execAlertResponse (bFree : S .free) (bOut : S .out) (s : State) (h_s : Within S z s) : ∀ t,
    (execAlertResponse s) = .next t → Within S z t := by
  intro t h
  unfold execAlertResponse at h
  cases h
  with_reducible repeat' first
      | assumption | apply within_State_emit | apply within_drawFree | apply within_ite | apply within_ite_fst

theorem within_execSmbusTimeout (bOut : S .out) (s : State) (h_s : Within S z s) : ∀ t, (execSmbusTimeout s) = .next t
    → Within S z t := by
  intro t h
  unfold execSmbusTimeout at h
  cases h
  with_reducible repeat' first
      | assumption | apply within_State_emit | apply within_ite

end Sys2Proof.Machine
end

