-- ==== Sys2Proof/Laws/Events.lean ====
section
/-! SUPPORT. What a set event, a capture, a trap, a completed control write leave as they are. -/

-- One declaration at a time: the check of the package as one text bounds memory, which a thread a proof would pass.
set_option Elab.async false

namespace Sys2Proof.Machine

variable (s : State)

@[simp] theorem setEvent_pending (pn b : Nat) : (setEvent s pn b).pending = s.pending := by rw [setEvent_eq]
@[simp] theorem setEvent_free (pn b : Nat) : (setEvent s pn b).free = s.free := by rw [setEvent_eq]
@[simp] theorem setEvent_out (pn b : Nat) : (setEvent s pn b).out = s.out := by rw [setEvent_eq]
@[simp] theorem setEvent_mem (pn b : Nat) : (setEvent s pn b).mem = s.mem := by rw [setEvent_eq]
@[simp] theorem setEvent_bad (pn b : Nat) : (setEvent s pn b).bad = s.bad := by rw [setEvent_eq]
@[simp] theorem setEvent_softBad (pn b : Nat) : (setEvent s pn b).softBad = s.softBad := by rw [setEvent_eq]
@[simp] theorem setEvent_hbmErr (pn b : Nat) : (setEvent s pn b).hbmErr = s.hbmErr := by rw [setEvent_eq]
@[simp] theorem setEvent_burstKey (pn b : Nat) : (setEvent s pn b).burstKey = s.burstKey := by rw [setEvent_eq]
@[simp] theorem setEvent_hbmStale (pn b : Nat) : (setEvent s pn b).hbmStale = s.hbmStale := by rw [setEvent_eq]
@[simp] theorem setEvent_tags (pn b : Nat) : (setEvent s pn b).tags = s.tags := by rw [setEvent_eq]
@[simp] theorem setEvent_cores (pn b : Nat) : (setEvent s pn b).cores = s.cores := by rw [setEvent_eq]
@[simp] theorem setEvent_dies (pn b : Nat) : (setEvent s pn b).dies = s.dies := by rw [setEvent_eq]
@[simp] theorem setEvent_d2d (pn b : Nat) : (setEvent s pn b).d2d = s.d2d := by rw [setEvent_eq]
@[simp] theorem setEvent_bell (pn b : Nat) : (setEvent s pn b).bell = s.bell := by rw [setEvent_eq]
@[simp] theorem setEvent_sched (pn b : Nat) : (setEvent s pn b).sched = s.sched := by rw [setEvent_eq]
@[simp] theorem setEvent_parts (pn b : Nat) : (setEvent s pn b).parts = s.parts := by rw [setEvent_eq]
@[simp] theorem setEvent_links (pn b : Nat) : (setEvent s pn b).links = s.links := by rw [setEvent_eq]
@[simp] theorem setEvent_sealU (pn b : Nat) : (setEvent s pn b).sealU = s.sealU := by rw [setEvent_eq]
@[simp] theorem setEvent_power (pn b : Nat) : (setEvent s pn b).power = s.power := by rw [setEvent_eq]
@[simp] theorem setEvent_boot (pn b : Nat) : (setEvent s pn b).boot = s.boot := by rw [setEvent_eq]
@[simp] theorem setEvent_flash (pn b : Nat) : (setEvent s pn b).flash = s.flash := by rw [setEvent_eq]
@[simp] theorem setEvent_fuses (pn b : Nat) : (setEvent s pn b).fuses = s.fuses := by rw [setEvent_eq]
@[simp] theorem setEvent_hosts (pn b : Nat) : (setEvent s pn b).hosts = s.hosts := by rw [setEvent_eq]
@[simp] theorem setEvent_core (pn b : Nat) (k : Nat) : (setEvent s pn b).core k = s.core k := by rw [setEvent_eq]; rfl
@[simp] theorem setEvent_die (pn b : Nat) (k : Nat) : (setEvent s pn b).die k = s.die k := by rw [setEvent_eq]; rfl
@[simp] theorem setEvent_part (pn b : Nat) (k : Nat) : (setEvent s pn b).part k = s.part k := by rw [setEvent_eq]; rfl
@[simp] theorem setEvent_peer (pn b : Nat) (k : Nat) : (setEvent s pn b).peer k = s.peer k := by rw [setEvent_eq]; rfl
@[simp] theorem setEvent_half (pn b : Nat) (k : Nat) : (setEvent s pn b).half k = s.half k := by rw [setEvent_eq]; rfl
@[simp] theorem setEvent_host (pn b : Nat) (k : Nat) : (setEvent s pn b).host k = s.host k := by rw [setEvent_eq]; rfl
@[simp] theorem memByte_setEvent (pn b : Nat) (k : Nat) : memByte (setEvent s pn b) k = memByte s k := by rw [setEvent_eq]; rfl
@[simp] theorem capture_pending (pn r : Nat) : (capture s pn r).pending = s.pending := by rw [capture_eq]
@[simp] theorem capture_free (pn r : Nat) : (capture s pn r).free = s.free := by rw [capture_eq]
@[simp] theorem capture_out (pn r : Nat) : (capture s pn r).out = s.out := by rw [capture_eq]
@[simp] theorem capture_mem (pn r : Nat) : (capture s pn r).mem = s.mem := by rw [capture_eq]
@[simp] theorem capture_bad (pn r : Nat) : (capture s pn r).bad = s.bad := by rw [capture_eq]
@[simp] theorem capture_softBad (pn r : Nat) : (capture s pn r).softBad = s.softBad := by rw [capture_eq]
@[simp] theorem capture_hbmErr (pn r : Nat) : (capture s pn r).hbmErr = s.hbmErr := by rw [capture_eq]
@[simp] theorem capture_burstKey (pn r : Nat) : (capture s pn r).burstKey = s.burstKey := by rw [capture_eq]
@[simp] theorem capture_hbmStale (pn r : Nat) : (capture s pn r).hbmStale = s.hbmStale := by rw [capture_eq]
@[simp] theorem capture_tags (pn r : Nat) : (capture s pn r).tags = s.tags := by rw [capture_eq]
@[simp] theorem capture_cores (pn r : Nat) : (capture s pn r).cores = s.cores := by rw [capture_eq]
@[simp] theorem capture_dies (pn r : Nat) : (capture s pn r).dies = s.dies := by rw [capture_eq]
@[simp] theorem capture_d2d (pn r : Nat) : (capture s pn r).d2d = s.d2d := by rw [capture_eq]
@[simp] theorem capture_bell (pn r : Nat) : (capture s pn r).bell = s.bell := by rw [capture_eq]
@[simp] theorem capture_sched (pn r : Nat) : (capture s pn r).sched = s.sched := by rw [capture_eq]
@[simp] theorem capture_parts (pn r : Nat) : (capture s pn r).parts = s.parts := by rw [capture_eq]
@[simp] theorem capture_crier (pn r : Nat) : (capture s pn r).crier = s.crier := by rw [capture_eq]
@[simp] theorem capture_links (pn r : Nat) : (capture s pn r).links = s.links := by rw [capture_eq]
@[simp] theorem capture_sealU (pn r : Nat) : (capture s pn r).sealU = s.sealU := by rw [capture_eq]
@[simp] theorem capture_power (pn r : Nat) : (capture s pn r).power = s.power := by rw [capture_eq]
@[simp] theorem capture_boot (pn r : Nat) : (capture s pn r).boot = s.boot := by rw [capture_eq]
@[simp] theorem capture_flash (pn r : Nat) : (capture s pn r).flash = s.flash := by rw [capture_eq]
@[simp] theorem capture_fuses (pn r : Nat) : (capture s pn r).fuses = s.fuses := by rw [capture_eq]
@[simp] theorem capture_hosts (pn r : Nat) : (capture s pn r).hosts = s.hosts := by rw [capture_eq]
@[simp] theorem capture_core (pn r : Nat) (k : Nat) : (capture s pn r).core k = s.core k := by rw [capture_eq]; rfl
@[simp] theorem capture_die (pn r : Nat) (k : Nat) : (capture s pn r).die k = s.die k := by rw [capture_eq]; rfl
@[simp] theorem capture_part (pn r : Nat) (k : Nat) : (capture s pn r).part k = s.part k := by rw [capture_eq]; rfl
@[simp] theorem capture_peer (pn r : Nat) (k : Nat) : (capture s pn r).peer k = s.peer k := by rw [capture_eq]; rfl
@[simp] theorem capture_half (pn r : Nat) (k : Nat) : (capture s pn r).half k = s.half k := by rw [capture_eq]; rfl
@[simp] theorem capture_host (pn r : Nat) (k : Nat) : (capture s pn r).host k = s.host k := by rw [capture_eq]; rfl
@[simp] theorem memByte_capture (pn r : Nat) (k : Nat) : memByte (capture s pn r) k = memByte s k := by rw [capture_eq]; rfl
@[simp] theorem raiseTrap_pending (pn : Nat) (t : TrapInfo) : (raiseTrap s pn t).pending = s.pending := by rw [raiseTrap_eq]
@[simp] theorem raiseTrap_free (pn : Nat) (t : TrapInfo) : (raiseTrap s pn t).free = s.free := by rw [raiseTrap_eq]
@[simp] theorem raiseTrap_out (pn : Nat) (t : TrapInfo) : (raiseTrap s pn t).out = s.out := by rw [raiseTrap_eq]
@[simp] theorem raiseTrap_mem (pn : Nat) (t : TrapInfo) : (raiseTrap s pn t).mem = s.mem := by rw [raiseTrap_eq]
@[simp] theorem raiseTrap_bad (pn : Nat) (t : TrapInfo) : (raiseTrap s pn t).bad = s.bad := by rw [raiseTrap_eq]
@[simp] theorem raiseTrap_softBad (pn : Nat) (t : TrapInfo) : (raiseTrap s pn t).softBad = s.softBad := by rw [raiseTrap_eq]
@[simp] theorem raiseTrap_hbmErr (pn : Nat) (t : TrapInfo) : (raiseTrap s pn t).hbmErr = s.hbmErr := by rw [raiseTrap_eq]
@[simp] theorem raiseTrap_burstKey (pn : Nat) (t : TrapInfo) : (raiseTrap s pn t).burstKey = s.burstKey := by rw [raiseTrap_eq]
@[simp] theorem raiseTrap_hbmStale (pn : Nat) (t : TrapInfo) : (raiseTrap s pn t).hbmStale = s.hbmStale := by rw [raiseTrap_eq]
@[simp] theorem raiseTrap_tags (pn : Nat) (t : TrapInfo) : (raiseTrap s pn t).tags = s.tags := by rw [raiseTrap_eq]
@[simp] theorem raiseTrap_cores (pn : Nat) (t : TrapInfo) : (raiseTrap s pn t).cores = s.cores := by rw [raiseTrap_eq]
@[simp] theorem raiseTrap_dies (pn : Nat) (t : TrapInfo) : (raiseTrap s pn t).dies = s.dies := by rw [raiseTrap_eq]
@[simp] theorem raiseTrap_d2d (pn : Nat) (t : TrapInfo) : (raiseTrap s pn t).d2d = s.d2d := by rw [raiseTrap_eq]
@[simp] theorem raiseTrap_bell (pn : Nat) (t : TrapInfo) : (raiseTrap s pn t).bell = s.bell := by rw [raiseTrap_eq]
@[simp] theorem raiseTrap_sched (pn : Nat) (t : TrapInfo) : (raiseTrap s pn t).sched = s.sched := by rw [raiseTrap_eq]
@[simp] theorem raiseTrap_parts (pn : Nat) (t : TrapInfo) : (raiseTrap s pn t).parts = s.parts := by rw [raiseTrap_eq]
@[simp] theorem raiseTrap_links (pn : Nat) (t : TrapInfo) : (raiseTrap s pn t).links = s.links := by rw [raiseTrap_eq]
@[simp] theorem raiseTrap_sealU (pn : Nat) (t : TrapInfo) : (raiseTrap s pn t).sealU = s.sealU := by rw [raiseTrap_eq]
@[simp] theorem raiseTrap_power (pn : Nat) (t : TrapInfo) : (raiseTrap s pn t).power = s.power := by rw [raiseTrap_eq]
@[simp] theorem raiseTrap_boot (pn : Nat) (t : TrapInfo) : (raiseTrap s pn t).boot = s.boot := by rw [raiseTrap_eq]
@[simp] theorem raiseTrap_flash (pn : Nat) (t : TrapInfo) : (raiseTrap s pn t).flash = s.flash := by rw [raiseTrap_eq]
@[simp] theorem raiseTrap_fuses (pn : Nat) (t : TrapInfo) : (raiseTrap s pn t).fuses = s.fuses := by rw [raiseTrap_eq]
@[simp] theorem raiseTrap_hosts (pn : Nat) (t : TrapInfo) : (raiseTrap s pn t).hosts = s.hosts := by rw [raiseTrap_eq]
@[simp] theorem raiseTrap_core (pn : Nat) (t : TrapInfo) (k : Nat) : (raiseTrap s pn t).core k = s.core k := by rw [raiseTrap_eq]; rfl
@[simp] theorem raiseTrap_die (pn : Nat) (t : TrapInfo) (k : Nat) : (raiseTrap s pn t).die k = s.die k := by rw [raiseTrap_eq]; rfl
@[simp] theorem raiseTrap_part (pn : Nat) (t : TrapInfo) (k : Nat) : (raiseTrap s pn t).part k = s.part k := by rw [raiseTrap_eq]; rfl
@[simp] theorem raiseTrap_peer (pn : Nat) (t : TrapInfo) (k : Nat) : (raiseTrap s pn t).peer k = s.peer k := by rw [raiseTrap_eq]; rfl
@[simp] theorem raiseTrap_half (pn : Nat) (t : TrapInfo) (k : Nat) : (raiseTrap s pn t).half k = s.half k := by rw [raiseTrap_eq]; rfl
@[simp] theorem raiseTrap_host (pn : Nat) (t : TrapInfo) (k : Nat) : (raiseTrap s pn t).host k = s.host k := by rw [raiseTrap_eq]; rfl
@[simp] theorem memByte_raiseTrap (pn : Nat) (t : TrapInfo) (k : Nat) : memByte (raiseTrap s pn t) k = memByte s k := by rw [raiseTrap_eq]; rfl
@[simp] theorem disarm_pending (pn : Nat) : (disarm s pn).pending = s.pending := by rw [disarm_eq]
@[simp] theorem disarm_free (pn : Nat) : (disarm s pn).free = s.free := by rw [disarm_eq]
@[simp] theorem disarm_out (pn : Nat) : (disarm s pn).out = s.out := by rw [disarm_eq]
@[simp] theorem disarm_mem (pn : Nat) : (disarm s pn).mem = s.mem := by rw [disarm_eq]
@[simp] theorem disarm_bad (pn : Nat) : (disarm s pn).bad = s.bad := by rw [disarm_eq]
@[simp] theorem disarm_softBad (pn : Nat) : (disarm s pn).softBad = s.softBad := by rw [disarm_eq]
@[simp] theorem disarm_hbmErr (pn : Nat) : (disarm s pn).hbmErr = s.hbmErr := by rw [disarm_eq]
@[simp] theorem disarm_burstKey (pn : Nat) : (disarm s pn).burstKey = s.burstKey := by rw [disarm_eq]
@[simp] theorem disarm_hbmStale (pn : Nat) : (disarm s pn).hbmStale = s.hbmStale := by rw [disarm_eq]
@[simp] theorem disarm_tags (pn : Nat) : (disarm s pn).tags = s.tags := by rw [disarm_eq]
@[simp] theorem disarm_cores (pn : Nat) : (disarm s pn).cores = s.cores := by rw [disarm_eq]
@[simp] theorem disarm_dies (pn : Nat) : (disarm s pn).dies = s.dies := by rw [disarm_eq]
@[simp] theorem disarm_d2d (pn : Nat) : (disarm s pn).d2d = s.d2d := by rw [disarm_eq]
@[simp] theorem disarm_bell (pn : Nat) : (disarm s pn).bell = s.bell := by rw [disarm_eq]
@[simp] theorem disarm_sched (pn : Nat) : (disarm s pn).sched = s.sched := by rw [disarm_eq]
@[simp] theorem disarm_parts (pn : Nat) : (disarm s pn).parts = s.parts := by rw [disarm_eq]
@[simp] theorem disarm_crier (pn : Nat) : (disarm s pn).crier = s.crier := by rw [disarm_eq]
@[simp] theorem disarm_links (pn : Nat) : (disarm s pn).links = s.links := by rw [disarm_eq]
@[simp] theorem disarm_sealU (pn : Nat) : (disarm s pn).sealU = s.sealU := by rw [disarm_eq]
@[simp] theorem disarm_power (pn : Nat) : (disarm s pn).power = s.power := by rw [disarm_eq]
@[simp] theorem disarm_boot (pn : Nat) : (disarm s pn).boot = s.boot := by rw [disarm_eq]
@[simp] theorem disarm_flash (pn : Nat) : (disarm s pn).flash = s.flash := by rw [disarm_eq]
@[simp] theorem disarm_fuses (pn : Nat) : (disarm s pn).fuses = s.fuses := by rw [disarm_eq]
@[simp] theorem disarm_hosts (pn : Nat) : (disarm s pn).hosts = s.hosts := by rw [disarm_eq]
@[simp] theorem disarm_core (pn : Nat) (k : Nat) : (disarm s pn).core k = s.core k := by rw [disarm_eq]; rfl
@[simp] theorem disarm_die (pn : Nat) (k : Nat) : (disarm s pn).die k = s.die k := by rw [disarm_eq]; rfl
@[simp] theorem disarm_part (pn : Nat) (k : Nat) : (disarm s pn).part k = s.part k := by rw [disarm_eq]; rfl
@[simp] theorem disarm_peer (pn : Nat) (k : Nat) : (disarm s pn).peer k = s.peer k := by rw [disarm_eq]; rfl
@[simp] theorem disarm_half (pn : Nat) (k : Nat) : (disarm s pn).half k = s.half k := by rw [disarm_eq]; rfl
@[simp] theorem disarm_host (pn : Nat) (k : Nat) : (disarm s pn).host k = s.host k := by rw [disarm_eq]; rfl
@[simp] theorem memByte_disarm (pn : Nat) (k : Nat) : memByte (disarm s pn) k = memByte s k := by rw [disarm_eq]; rfl

@[simp] theorem capture_reg (pn r j k : Nat) : (capture s pn r).reg j k = s.reg j k := by
  by_cases h : j = pn
  · subst h; simp only [State.reg, capture_page]
  · simp only [State.reg, capture_page_ne s pn r j h]
@[simp] theorem capture_counter (pn r j k : Nat) : (capture s pn r).counter j k = s.counter j k := by
  by_cases h : j = pn
  · subst h; simp only [State.counter, capture_page]
  · simp only [State.counter, capture_page_ne s pn r j h]
@[simp] theorem capture_evtStatus (pn r j : Nat) : ((capture s pn r).page j).evtStatus = (s.page j).evtStatus := by
  by_cases h : j = pn
  · subst h; simp only [capture_page]
  · simp only [capture_page_ne s pn r j h]
@[simp] theorem raiseTrap_reg (pn : Nat) (t : TrapInfo) (j k : Nat) : (raiseTrap s pn t).reg j k = s.reg j k := by
  unfold raiseTrap
  dsimp only
  split
  · rw [State.reg_count]; exact capture_reg s _ _ _ _
  · exact capture_reg s _ _ _ _
@[simp] theorem raiseTrap_evtStatus (pn : Nat) (t : TrapInfo) (j : Nat) :
    ((raiseTrap s pn t).page j).evtStatus = (s.page j).evtStatus := by
  unfold raiseTrap
  dsimp only
  split
  · rw [State.evtStatus_count]; exact capture_evtStatus s _ _ _
  · exact capture_evtStatus s _ _ _
/-- A trap counts on the core that is its source, in counter 6 of its CNT page. -/
theorem raiseTrap_counter (pn : Nat) (t : TrapInfo) (j k : Nat) (h : ∀ g, t.core = some g → j = pnCnt g → k ≠ 6) :
    (raiseTrap s pn t).counter j k = s.counter j k := by
  unfold raiseTrap
  dsimp only
  split
  · next g e =>
    by_cases hj : j = pnCnt g
    · subst hj; rw [State.counter_count_ne _ _ _ _ _ (h g e rfl)]; exact capture_counter s _ _ _ _
    · rw [State.counter_count_page _ _ _ _ _ _ hj]; exact capture_counter s _ _ _ _
  · exact capture_counter s _ _ _ _
@[simp] theorem disarm_evtStatus (pn j : Nat) : ((disarm s pn).page j).evtStatus = (s.page j).evtStatus := by
  by_cases h : j = pn
  · subst h; simp only [disarm_page]
  · simp only [disarm_page_ne s pn j h]
@[simp] theorem disarm_regs (pn j : Nat) : ((disarm s pn).page j).regs = (s.page j).regs := by
  by_cases h : j = pn
  · subst h; simp only [disarm_page]
  · simp only [disarm_page_ne s pn j h]
@[simp] theorem disarm_capture (pn j : Nat) : ((disarm s pn).page j).capture = (s.page j).capture := by
  by_cases h : j = pn
  · subst h; simp only [disarm_page]
  · simp only [disarm_page_ne s pn j h]
@[simp] theorem regN_disarm (pn j k : Nat) : (disarm s pn).regN j k = s.regN j k := by simp only [State.regN, disarm_reg]
theorem evtStatus_setEvent (pn b j : Nat) : ((setEvent s pn b).page j).evtStatus =
    if j = pn then (s.page j).evtStatus ||| BitVec.ofNat 32 (2 ^ b) else (s.page j).evtStatus := by
  by_cases h : j = pn
  · subst h; rw [if_pos rfl, setEvent_page]
  · rw [if_neg h, setEvent_page_ne s pn b j h]
theorem counter_count (pn k n j i : Nat) : (s.count pn k n).counter j i =
    if j = pn ∧ i = k then s.counter j i + BitVec.ofNat 64 n else s.counter j i := by
  by_cases h : j = pn
  · subst h
    by_cases hi : i = k
    · subst hi; rw [if_pos ⟨rfl, rfl⟩, State.counter_count_same]
    · rw [if_neg (fun x => hi x.2), State.counter_count_ne _ _ _ _ _ hi]
  · rw [if_neg (fun x => h x.1), State.counter_count_page _ _ _ _ _ _ h]
/-- Readers that look at the register words only. -/
theorem ringLog2_congr {s t : State} (h : ∀ pn off, t.reg pn off = s.reg pn off) (g x : Nat) : ringLog2 t g x = ringLog2 s g x := by
  unfold ringLog2 State.regN; rw [h]
theorem partOfQuad_congr {s t : State} (h : ∀ pn off, t.reg pn off = s.reg pn off) (q : Nat) : partOfQuad t q = partOfQuad s q := by
  unfold partOfQuad quadsOf State.regN; simp only [h]
theorem partOfCore_congr {s t : State} (h : ∀ pn off, t.reg pn off = s.reg pn off) (g : Nat) : partOfCore t g = partOfCore s g := by
  unfold partOfCore; rw [partOfQuad_congr h]
theorem correctSpan_none {s : State} {a : Nat} (h : cleanTier s (tierOf a) = true) (n : Nat) : correctSpan s a n = s := by
  unfold correctSpan; rw [if_pos h]

/-- The trap raised stands last among those the crier has yet to record. -/
theorem raiseTrap_queued (pn : Nat) (t : TrapInfo) : ∃ tr : Trap, (raiseTrap s pn t).crier.pending = s.crier.pending ++ [tr] ∧
    tr.rings = if t.code = trapBellUnlock then [4, 0, 1, 2, 3] else [t.part.getD 4] :=
  ⟨_, by rw [raiseTrap_crier], rfl⟩
/-- A completion raises no trap. -/
theorem completeCmd_traps (g : Nat) (q : Option QueueId) (r : CmdRec) (c : Completion) :
    (completeCmd s g q r c).crier.pending = s.crier.pending := by
  rw [(within_completeCmd_store s g q r c).crier (by decide)]
  exact (stored_entryStore s g r c).traps

end Sys2Proof.Machine
end

