-- ==== Sys2Proof/WellFormed.lean ====
section
/-! DEFINITION. Which commands are well formed: the operands that come from outside lie in the ranges that the manual
gives the parts they name (R5, R20, R42, R350, R421, R436, R456, R531). -/

namespace Sys2Proof

/-- A command whose operands lie in their ranges. -/
def Instr.wf (i : Instr) : Bool :=
  match i with
  | .doorbell init core ctx _ _ => decide (init < 25 ∧ core < 160 ∧ ctx < 8)
  | .heldWriteRelease host => decide (host < 16)
  | .recordFetch core ctx => decide (core < 160 ∧ ctx < 8)
  | .nop core ctx => decide (core < 160 ∧ ctx < 8)
  | .matmul core => decide (core < 160)
  | .gatherHoldExpiry core => decide (core < 160)
  | .matmulT core => decide (core < 160)
  | .accRead core => decide (core < 160)
  | .reduceX core => decide (core < 160)
  | .attnFwd core => decide (core < 160)
  | .attnBwd core => decide (core < 160)
  | .attnDecode core => decide (core < 160)
  | .couch core => decide (core < 160)
  | .conv core => decide (core < 160)
  | .vec core => decide (core < 160)
  | .vecProg core => decide (core < 160)
  | .updateP1 core => decide (core < 160)
  | .updateP2 core => decide (core < 160)
  | .move core => decide (core < 160)
  | .gather core => decide (core < 160)
  | .scatter core => decide (core < 160)
  | .signal core ctx => decide (core < 160 ∧ ctx < 8)
  | .wait core ctx => decide (core < 160 ∧ ctx < 8)
  | .waitTimeout core ctx => decide (core < 160 ∧ ctx < 8)
  | .fence core ctx => decide (core < 160 ∧ ctx < 8)
  | .boundary core ctx => decide (core < 160 ∧ ctx < 8)
  | .partitionBoundary part => decide (part < 4)
  | .tileResident core => decide (core < 160)
  | .writebackAck core _ => decide (core < 160)
  | .trapRecord => true
  | .almanacTailWrite init die ring _ => decide (init.id < 25 ∧ die < 4 ∧ ring < 32)
  | .prefetch die ring => decide (die < 4 ∧ ring < 32)
  | .send die ring => decide (die < 4 ∧ ring < 32)
  | .recvExpect die ring => decide (die < 4 ∧ ring < 32)
  | .boundaryArm die ring => decide (die < 4 ∧ ring < 32)
  | .stepBoundary => true
  | .toll die ring => decide (die < 4 ∧ ring < 32)
  | .tollLevelDeadline _ => true
  | .evalWindow die ring => decide (die < 4 ∧ ring < 32)
  | .evalWindowClose die ring => decide (die < 4 ∧ ring < 32)
  | .retrainWindow die ring => decide (die < 4 ∧ ring < 32)
  | .retrainWindowClose die ring => decide (die < 4 ∧ ring < 32)
  | .checkpoint die ring => decide (die < 4 ∧ ring < 32)
  | .wake die ring => decide (die < 4 ∧ ring < 32)
  | .entryComplete die ring pos _ => decide (die < 4 ∧ ring < 32 ∧ pos < 131072)
  | .deadlineMiss die ring pos => decide (die < 4 ∧ ring < 32 ∧ pos < 131072)
  | .waitLimitExpiry die ring pos => decide (die < 4 ∧ ring < 32 ∧ pos < 131072)
  | .bellTick => true
  | .epochMark _ => true
  | .measurementWindow _ => true
  | .bellUnlock _ _ => true
  | .glitch => true
  | .write m => decide (m.port < 24 ∧ m.ctx < 4096)
  | .read m => decide (m.port < 24 ∧ m.ctx < 4096)
  | .readResp m => decide (m.port < 24 ∧ m.ctx < 4096)
  | .atomic m => decide (m.port < 24 ∧ m.ctx < 4096)
  | .atomicResp m => decide (m.port < 24 ∧ m.ctx < 4096)
  | .tileRts m => decide (m.port < 24 ∧ m.ctx < 4096)
  | .tileData m => decide (m.port < 24 ∧ m.ctx < 4096)
  | .collective m => decide (m.port < 24 ∧ m.ctx < 4096)
  | .vote m => decide (m.port < 24 ∧ m.ctx < 4096)
  | .result m => decide (m.port < 24 ∧ m.ctx < 4096)
  | .openMsg m => decide (m.port < 24 ∧ m.ctx < 4096)
  | .msgAck ctx _ => decide (ctx < 4096)
  | .msgNak ctx _ _ => decide (ctx < 4096)
  | .bell port _ _ => decide (port < 24)
  | .negotiate port low high => decide (port < 24 ∧ low < 16 ∧ high < 16)
  | .linkCtl port _ _ => decide (port < 24)
  | .idle port _ _ crVc crPart crCount => decide (port < 24 ∧ crVc < 4 ∧ crPart < 4 ∧ crCount < 1024)
  | .linkReplay port => decide (port < 24)
  | .fecUncorrectable port => decide (port < 24)
  | .frame f => decide (f.port < 24)
  | .priorityPause port priority => decide (port < 24 ∧ priority < 8)
  | .priorityPauseExpiry port priority => decide (port < 24 ∧ priority < 8)
  | .retransmit ctx _ => decide (ctx < 4096)
  | .contextTimeout ctx => decide (ctx < 4096)
  | .linkRetrain port => decide (port < 24)
  | .linkRetrainDone port _ => decide (port < 24)
  | .portTraining init port _ _ => decide (init.id < 25 ∧ port < 12)
  | .ctxOpen init ctx => decide (init.id < 25 ∧ ctx < 4096)
  | .ctxClose init ctx => decide (init.id < 25 ∧ ctx < 4096)
  | .linkReqTailWrite init part _ => decide (init.id < 25 ∧ part < 4)
  | .linkReqWrite part => decide (part < 4)
  | .linkReqRead part => decide (part < 4)
  | .linkReqAtomic part => decide (part < 4)
  | .reduceScatter part => decide (part < 4)
  | .allGather part => decide (part < 4)
  | .allReduce part => decide (part < 4)
  | .linkReqComplete part pos => decide (part < 4 ∧ pos < 8192)
  | .d2dReplay port _ => decide (port < 16)
  | .hbmRetrainTrigger die ctl channel => decide (die < 4 ∧ ctl < 2 ∧ channel < 32)
  | .hbmRetrainEnd die ctl _ pins0 pins1 => decide (die < 4 ∧ ctl < 2 ∧ pins0.length ≤ 64 ∧ pins1.length ≤ 64)
  | .retrainDue die ctl channel => decide (die < 4 ∧ ctl < 2 ∧ channel < 32)
  | .admitJob init part => decide (init.id < 25 ∧ part < 4)
  | .admitDigestDone part _ => decide (part < 4)
  | .admitTimeout part => decide (part < 4)
  | .endJob init part _ => decide (init.id < 25 ∧ part < 4)
  | .jobCmdBoundary init part => decide (init.id < 25 ∧ part < 4)
  | .suspend init part ctx => decide (init.id < 25 ∧ part < 4 ∧ ctx < 8)
  | .resume init part ctx => decide (init.id < 25 ∧ part < 4 ∧ ctx < 8)
  | .discard init part ctx => decide (init.id < 25 ∧ part < 4 ∧ ctx < 8)
  | .sliceStart part => decide (part < 4)
  | .tileKill core _ => decide (core < 160)
  | .saveRestore core _ => decide (core < 160)
  | .drainCut ctx => decide (ctx < 4096)
  | .seal init part => decide (init.id < 25 ∧ part < 4)
  | .unseal init part => decide (init.id < 25 ∧ part < 4)
  | .load init part => decide (init.id < 25 ∧ part < 4)
  | .attest init part => decide (init.id < 25 ∧ part < 4)
  | .pwrEnAssert centivolts => decide (centivolts < 65536)
  | .pwrEnDeassert => true
  | .undervoltage => true
  | .overvoltage => true
  | .domainRegulation => true
  | .modRstNAssert => true
  | .modRstNRelease => true
  | .throttleNAssert _ => true
  | .throttleNDeassert _ _ => true
  | .throttleLong => true
  | .droopSag die quad => decide (die < 4 ∧ quad < 4)
  | .droopDeep die quad => decide (die < 4 ∧ quad < 4)
  | .droopRecover die quad => decide (die < 4 ∧ quad < 4)
  | .droopHoldEnd die quad => decide (die < 4 ∧ quad < 4)
  | .capPeriod watts centivolts quadT hubT stackT _ => decide (watts < 65536 ∧ centivolts < 65536 ∧ quadT.length = 16 ∧ hubT.length = 4 ∧ stackT.length = 8)
  | .fastLimit => true
  | .thermalShutdown => true
  | .supplyWarn => true
  | .heldResetRelease => true
  | .warmReset init _ => decide (init.id < 25)
  | .dieReset init _ => decide (init.id < 25)
  | .coreReset init _ => decide (init.id < 25)
  | .resetComplete => true
  | .bootRom _ _ _ => true
  | .stage1 _ _ _ _ => true
  | .stage2 _ => true
  | .bootOk init _ => decide (init.id < 25)
  | .startWatchdogExpiry => true
  | .info r => decide (r.length < 4294967296)
  | .readFlash r => decide (r.length < 4294967296)
  | .writeSlot r _ _ => decide (r.length < 4294967296)
  | .commitSlot r _ => decide (r.length < 4294967296)
  | .clearCounter r => decide (r.length < 4294967296)
  | .raevoReset r => decide (r.length < 4294967296)
  | .registerAccessFrame f => decide (f.entries.length ≤ 127)
  | .deviceId _ => true
  | .state _ => true
  | .supply _ => true
  | .temps _ => true
  | .alertCause _ => true
  | .alertClear _ _ => true
  | .clocks _ => true
  | .fail _ => true
  | .cap _ _ => true
  | .alertResponse => true
  | .smbusTimeout => true
  | .expertKey init _ _ => decide (init.id < 25)
  | .expertLock init _ _ => decide (init.id < 25)
  | .evtStatusWrite init _ _ => decide (init.id < 25)
  | .evtForce init _ _ => decide (init.id < 25)
  | .shadowDiscard init _ _ => decide (init.id < 25)
  | .rcRead init _ => decide (init.id < 25 ∧ init.bytes ≤ 8)
  | .counterLowRead init _ => decide (init.id < 25 ∧ init.bytes ≤ 8)
  | .opkeyBurn init _ => decide (init.id < 25)
  | .registerWrite init bytes _ _ _ => decide (init < 25 ∧ bytes ≤ 8)
  | .supplyValid centivolts => decide (centivolts < 65536)

end Sys2Proof
end

