-- ==== Sys2Proof/Laws/PerInstr.lean ====
section
/-! SUPPORT. Statements made once per command: what each command may change (`touches`). -/

-- One declaration at a time: the check of the package as one text bounds memory, which a thread a proof would pass.
set_option Elab.async false

namespace Sys2Proof.Machine

/-- A command that changes nothing outside the parts named keeps every other part. -/
theorem same_of_within {c : Instr} {s t : State} {L : List Piece} {p : Piece} (h : Within (· ∈ L) s s → Within (· ∈ L) s t)
    (e : touches c = L) (n : p ∉ touches c) : p.same s t :=
  within_same (h (within_refl _ s)) (by rw [← e]; exact n)

end Sys2Proof.Machine

/-- A command changes no part of the state but those that `touches` lists for it. -/
def Sys2Proof.Laws.Touches.Statement (c : Sys2Proof.Instr) : Prop :=
  ∀ s t : Sys2Proof.Machine.State,
    Sys2Proof.Machine.exec c s = .next t → Sys2Proof.Machine.Changes (Sys2Proof.Machine.touches c) s t

open Sys2Proof Sys2Proof.Machine

theorem Sys2Proof.Laws.Touches.doorbell (init core ctx : Nat) (value : Word) (behind : Bool) :
    Sys2Proof.Laws.Touches.Statement (.doorbell init core ctx value behind) :=
  fun _ t e _ n => same_of_within (fun h => within_execDoorbell at0 at1 at2 at3 _ _ _ _ _ _ h t e) rfl n
theorem Sys2Proof.Laws.Touches.heldWriteRelease (host : Nat) : Sys2Proof.Laws.Touches.Statement (.heldWriteRelease
    host) :=
  fun _ t e _ n => same_of_within (fun h => within_execHeldWriteRelease at0 at1 at2 at3 at4 at5 at6 at7 at8 at9 at10
    at11 at12 at13 at14 at15 at16 at17 at18 at19 at20 at21 at22 at23 _ _ h t e) rfl n
theorem Sys2Proof.Laws.Touches.recordFetch (core ctx : Nat) : Sys2Proof.Laws.Touches.Statement (.recordFetch core ctx)
    :=
  fun _ t e _ n => same_of_within (fun h => within_execRecordFetch at0 at1 at2 at3 at4 at5 at6 at7 at8 at9 at10 at11
    at12 at13 at14 at15 _ _ _ h t e) rfl n
theorem Sys2Proof.Laws.Touches.nop (core ctx : Nat) : Sys2Proof.Laws.Touches.Statement (.nop core ctx) :=
  fun _ t e _ n => same_of_within (fun h => within_execNop at0 at1 at2 at3 at4 at5 at6 at7 at8 at9 at10 at11 _ _ _ h t
    e) rfl n
theorem Sys2Proof.Laws.Touches.matmul (core : Nat) : Sys2Proof.Laws.Touches.Statement (.matmul core) :=
  fun _ t e _ n => same_of_within (fun h => within_execMatmul at0 at1 at2 at3 at4 at5 at6 at7 at8 at9 at10 at11 at12
    at13 at14 at15 _ _ h t e) rfl n
theorem Sys2Proof.Laws.Touches.gatherHoldExpiry (core : Nat) : Sys2Proof.Laws.Touches.Statement (.gatherHoldExpiry
    core) :=
  fun _ t e _ n => same_of_within (fun h => within_execGatherHoldExpiry at0 at1 at2 at3 at4 at5 at6 at7 at8 at9 at10
    at11 at12 at13 at14 at15 _ _ h t e) rfl n
theorem Sys2Proof.Laws.Touches.matmulT (core : Nat) : Sys2Proof.Laws.Touches.Statement (.matmulT core) :=
  fun _ t e _ n => same_of_within (fun h => within_execMatmulT at0 at1 at2 at3 at4 at5 at6 at7 at8 at9 at10 at11 at12
    at13 at14 at15 _ _ h t e) rfl n
theorem Sys2Proof.Laws.Touches.accRead (core : Nat) : Sys2Proof.Laws.Touches.Statement (.accRead core) :=
  fun _ t e _ n => same_of_within (fun h => within_execAccRead at0 at1 at2 at3 at4 at5 at6 at7 at8 at9 at10 at11 at12
    at13 at14 at15 _ _ h t e) rfl n
theorem Sys2Proof.Laws.Touches.reduceX (core : Nat) : Sys2Proof.Laws.Touches.Statement (.reduceX core) :=
  fun _ t e _ n => same_of_within (fun h => within_execReduceX at0 at1 at2 at3 at4 at5 at6 at7 at8 at9 at10 at11 at12
    at13 at14 at15 _ _ h t e) rfl n
theorem Sys2Proof.Laws.Touches.attnFwd (core : Nat) : Sys2Proof.Laws.Touches.Statement (.attnFwd core) :=
  fun _ t e _ n => same_of_within (fun h => within_execAttnFwd at0 at1 at2 at3 at4 at5 at6 at7 at8 at9 at10 at11 at12
    at13 at14 at15 _ _ h t e) rfl n
theorem Sys2Proof.Laws.Touches.attnBwd (core : Nat) : Sys2Proof.Laws.Touches.Statement (.attnBwd core) :=
  fun _ t e _ n => same_of_within (fun h => within_execAttnBwd at0 at1 at2 at3 at4 at5 at6 at7 at8 at9 at10 at11 at12
    at13 at14 at15 _ _ h t e) rfl n
theorem Sys2Proof.Laws.Touches.attnDecode (core : Nat) : Sys2Proof.Laws.Touches.Statement (.attnDecode core) :=
  fun _ t e _ n => same_of_within (fun h => within_execAttnDecode at0 at1 at2 at3 at4 at5 at6 at7 at8 at9 at10 at11
    at12 at13 at14 at15 _ _ h t e) rfl n
theorem Sys2Proof.Laws.Touches.couch (core : Nat) : Sys2Proof.Laws.Touches.Statement (.couch core) :=
  fun _ t e _ n => same_of_within (fun h => within_execCouch at0 at1 at2 at3 at4 at5 at6 at7 at8 at9 at10 at11 at12
    at13 at14 at15 _ _ h t e) rfl n
theorem Sys2Proof.Laws.Touches.conv (core : Nat) : Sys2Proof.Laws.Touches.Statement (.conv core) :=
  fun _ t e _ n => same_of_within (fun h => within_execConv at0 at1 at2 at3 at4 at5 at6 at7 at8 at9 at10 at11 at12
    at13 at14 at15 _ _ h t e) rfl n
theorem Sys2Proof.Laws.Touches.vec (core : Nat) : Sys2Proof.Laws.Touches.Statement (.vec core) :=
  fun _ t e _ n => same_of_within (fun h => within_execVec at0 at1 at2 at3 at4 at5 at6 at7 at8 at9 at10 at11 at12 at13
    at14 at15 _ _ h t e) rfl n
theorem Sys2Proof.Laws.Touches.vecProg (core : Nat) : Sys2Proof.Laws.Touches.Statement (.vecProg core) :=
  fun _ t e _ n => same_of_within (fun h => within_execVecProg at0 at1 at2 at3 at4 at5 at6 at7 at8 at9 at10 at11 at12
    at13 at14 at15 _ _ h t e) rfl n
theorem Sys2Proof.Laws.Touches.updateP1 (core : Nat) : Sys2Proof.Laws.Touches.Statement (.updateP1 core) :=
  fun _ t e _ n => same_of_within (fun h => within_execUpdateP1 at0 at1 at2 at3 at4 at5 at6 at7 at8 at9 at10 at11 at12
    at13 at14 at15 _ _ h t e) rfl n
theorem Sys2Proof.Laws.Touches.updateP2 (core : Nat) : Sys2Proof.Laws.Touches.Statement (.updateP2 core) :=
  fun _ t e _ n => same_of_within (fun h => within_execUpdateP2 at0 at1 at2 at3 at4 at5 at6 at7 at8 at9 at10 at11 at12
    at13 at14 at15 _ _ h t e) rfl n
theorem Sys2Proof.Laws.Touches.move (core : Nat) : Sys2Proof.Laws.Touches.Statement (.move core) :=
  fun _ t e _ n => same_of_within (fun h => within_execMove at0 at1 at2 at3 at4 at5 at6 at7 at8 at9 at10 at11 at12
    at13 at14 at15 at16 _ _ h t e) rfl n
theorem Sys2Proof.Laws.Touches.gather (core : Nat) : Sys2Proof.Laws.Touches.Statement (.gather core) :=
  fun _ t e _ n => same_of_within (fun h => within_execGather at0 at1 at2 at3 at4 at5 at6 at7 at8 at9 at10 at11 at12
    at13 at14 at15 at16 _ _ h t e) rfl n
theorem Sys2Proof.Laws.Touches.scatter (core : Nat) : Sys2Proof.Laws.Touches.Statement (.scatter core) :=
  fun _ t e _ n => same_of_within (fun h => within_execScatter at0 at1 at2 at3 at4 at5 at6 at7 at8 at9 at10 at11 at12
    at13 at14 at15 at16 _ _ h t e) rfl n
theorem Sys2Proof.Laws.Touches.signal (core ctx : Nat) : Sys2Proof.Laws.Touches.Statement (.signal core ctx) :=
  fun _ t e _ n => same_of_within (fun h => within_execSignal at0 at1 at2 at3 at4 at5 at6 at7 at8 at9 at10 at11 _ _ _
    h t e) rfl n
theorem Sys2Proof.Laws.Touches.wait (core ctx : Nat) : Sys2Proof.Laws.Touches.Statement (.wait core ctx) :=
  fun _ t e _ n => same_of_within (fun h => within_execWait at0 at1 at2 at3 at4 at5 at6 at7 at8 at9 at10 at11 _ _ _ h
    t e) rfl n
theorem Sys2Proof.Laws.Touches.waitTimeout (core ctx : Nat) : Sys2Proof.Laws.Touches.Statement (.waitTimeout core ctx)
    :=
  fun _ t e _ n => same_of_within (fun h => within_execWaitTimeout at0 at1 at2 at3 at4 at5 at6 at7 at8 at9 at10 at11 _
    _ _ h t e) rfl n
theorem Sys2Proof.Laws.Touches.fence (core ctx : Nat) : Sys2Proof.Laws.Touches.Statement (.fence core ctx) :=
  fun _ t e _ n => same_of_within (fun h => within_execFence at0 at1 at2 at3 at4 at5 at6 at7 at8 at9 at10 at11 _ _ _ h
    t e) rfl n
theorem Sys2Proof.Laws.Touches.boundary (core ctx : Nat) : Sys2Proof.Laws.Touches.Statement (.boundary core ctx) :=
  fun _ t e _ n => same_of_within (fun h => within_execBoundary at0 at1 at2 at3 at4 at5 at6 at7 at8 at9 at10 at11 at12
    at13 at14 at15 _ _ _ h t e) rfl n
theorem Sys2Proof.Laws.Touches.partitionBoundary (part : Nat) : Sys2Proof.Laws.Touches.Statement (.partitionBoundary
    part) :=
  fun _ t e _ n => same_of_within (fun h => within_execPartitionBoundary at0 at1 at2 at3 _ _ h t e) rfl n
theorem Sys2Proof.Laws.Touches.tileResident (core : Nat) : Sys2Proof.Laws.Touches.Statement (.tileResident core) :=
  fun _ t e _ n => same_of_within (fun h => within_execTileResident at0 at1 at2 at3 at4 at5 at6 at7 at8 at9 at10 at11
    at12 at13 at14 at15 _ _ h t e) rfl n
theorem Sys2Proof.Laws.Touches.writebackAck (core : Nat) (queue : QueueId) : Sys2Proof.Laws.Touches.Statement
    (.writebackAck core queue) :=
  fun _ t e _ n => same_of_within (fun h => within_execWritebackAck at0 at1 at2 at3 at4 at5 at6 at7 at8 at9 at10 at11
    _ _ _ h t e) rfl n
theorem Sys2Proof.Laws.Touches.trapRecord : Sys2Proof.Laws.Touches.Statement .trapRecord :=
  fun _ t e _ n => same_of_within (fun h => within_execTrapRecord at0 at1 at2 at3 at4 at5 at6 at7 at8 _ h t e) rfl n
theorem Sys2Proof.Laws.Touches.almanacTailWrite (init : Sender) (die ring : Nat) (value : Word) :
    Sys2Proof.Laws.Touches.Statement (.almanacTailWrite init die ring value) :=
  fun _ t e _ n => same_of_within (fun h => within_execAlmanacTailWrite at0 at1 at2 at3 at4 at5 at6 at7 at8 at9 at10
    at11 _ _ _ _ _ h t e) rfl n
theorem Sys2Proof.Laws.Touches.prefetch (die ring : Nat) : Sys2Proof.Laws.Touches.Statement (.prefetch die ring) :=
  fun _ t e _ n => same_of_within (fun h => within_execPrefetch at0 at1 at2 at3 at4 at5 at6 at7 at8 at9 at10 at11 at12
    _ _ _ h t e) rfl n
theorem Sys2Proof.Laws.Touches.send (die ring : Nat) : Sys2Proof.Laws.Touches.Statement (.send die ring) :=
  fun _ t e _ n => same_of_within (fun h => within_execSend at0 at1 at2 at3 at4 at5 at6 at7 at8 at9 at10 at11 at12 _ _
    _ h t e) rfl n
theorem Sys2Proof.Laws.Touches.recvExpect (die ring : Nat) : Sys2Proof.Laws.Touches.Statement (.recvExpect die ring)
    :=
  fun _ t e _ n => same_of_within (fun h => within_execRecvExpect at0 at1 at2 at3 at4 at5 at6 at7 at8 at9 at10 at11
    at12 _ _ _ h t e) rfl n
theorem Sys2Proof.Laws.Touches.boundaryArm (die ring : Nat) : Sys2Proof.Laws.Touches.Statement (.boundaryArm die ring)
    :=
  fun _ t e _ n => same_of_within (fun h => within_execBoundaryArm at0 at1 at2 _ _ _ h t e) rfl n
theorem Sys2Proof.Laws.Touches.stepBoundary : Sys2Proof.Laws.Touches.Statement .stepBoundary :=
  fun _ t e _ n => same_of_within (fun h => within_execStepBoundary at0 at1 at2 at3 at4 at5 at6 at7 at8 at9 at10 at11
    at12 at13 at14 at15 at16 _ h t e) rfl n
theorem Sys2Proof.Laws.Touches.toll (die ring : Nat) : Sys2Proof.Laws.Touches.Statement (.toll die ring) :=
  fun _ t e _ n => same_of_within (fun h => within_execToll at0 at1 at2 at3 at4 at5 at6 at7 at8 at9 at10 at11 at12 _ _
    _ h t e) rfl n
theorem Sys2Proof.Laws.Touches.tollLevelDeadline (level : Nat) : Sys2Proof.Laws.Touches.Statement (.tollLevelDeadline
    level) :=
  fun _ t e _ n => same_of_within (fun h => within_execTollLevelDeadline at0 at1 at2 at3 at4 at5 at6 at7 at8 at9 at10
    at11 at12 _ _ h t e) rfl n
theorem Sys2Proof.Laws.Touches.evalWindow (die ring : Nat) : Sys2Proof.Laws.Touches.Statement (.evalWindow die ring)
    :=
  fun _ t e _ n => same_of_within (fun h => within_execEvalWindow at0 at1 at2 _ _ _ h t e) rfl n
theorem Sys2Proof.Laws.Touches.evalWindowClose (die ring : Nat) : Sys2Proof.Laws.Touches.Statement (.evalWindowClose
    die ring) :=
  fun _ t e _ n => same_of_within (fun h => within_execEvalWindowClose at0 at1 at2 at3 at4 at5 at6 at7 at8 at9 at10 _
    _ _ h t e) rfl n
theorem Sys2Proof.Laws.Touches.retrainWindow (die ring : Nat) : Sys2Proof.Laws.Touches.Statement (.retrainWindow die
    ring) :=
  fun _ t e _ n => same_of_within (fun h => within_execRetrainWindow at0 at1 at2 at3 at4 at5 _ _ _ h t e) rfl n
theorem Sys2Proof.Laws.Touches.retrainWindowClose (die ring : Nat) : Sys2Proof.Laws.Touches.Statement
    (.retrainWindowClose die ring) :=
  fun _ t e _ n => same_of_within (fun h => within_execRetrainWindowClose at0 at1 at2 at3 at4 at5 at6 at7 at8 at9 at10
    _ _ _ h t e) rfl n
theorem Sys2Proof.Laws.Touches.checkpoint (die ring : Nat) : Sys2Proof.Laws.Touches.Statement (.checkpoint die ring)
    :=
  fun _ t e _ n => same_of_within (fun h => within_execCheckpoint at0 at1 at2 at3 at4 at5 at6 at7 at8 at9 at10 at11
    at12 _ _ _ h t e) rfl n
theorem Sys2Proof.Laws.Touches.wake (die ring : Nat) : Sys2Proof.Laws.Touches.Statement (.wake die ring) :=
  fun _ t e _ n => same_of_within (fun h => within_execWake at0 at1 at2 at3 at4 at5 at6 at7 at8 at9 at10 at11 _ _ _ h
    t e) rfl n
theorem Sys2Proof.Laws.Touches.entryComplete (die ring pos : Nat) (ok : Bool) : Sys2Proof.Laws.Touches.Statement
    (.entryComplete die ring pos ok) :=
  fun _ t e _ n => same_of_within (fun h => within_execEntryComplete at0 at1 at2 at3 at4 at5 at6 at7 at8 at9 at10 at11
    at12 at13 _ _ _ _ _ h t e) rfl n
theorem Sys2Proof.Laws.Touches.deadlineMiss (die ring pos : Nat) : Sys2Proof.Laws.Touches.Statement (.deadlineMiss die
    ring pos) :=
  fun _ t e _ n => same_of_within (fun h => within_execDeadlineMiss at0 at1 at2 at3 at4 at5 at6 at7 at8 at9 at10 at11
    at12 _ _ _ _ h t e) rfl n
theorem Sys2Proof.Laws.Touches.waitLimitExpiry (die ring pos : Nat) : Sys2Proof.Laws.Touches.Statement
    (.waitLimitExpiry die ring pos) :=
  fun _ t e _ n => same_of_within (fun h => within_execWaitLimitExpiry at0 at1 at2 at3 at4 at5 at6 at7 at8 at9 at10
    at11 _ _ _ _ h t e) rfl n
theorem Sys2Proof.Laws.Touches.bellTick : Sys2Proof.Laws.Touches.Statement .bellTick :=
  fun _ t e _ n => same_of_within (fun h => within_execBellTick at0 at1 at2 at3 at4 at5 at6 at7 at8 at9 at10 at11 at12
    at13 at14 at15 at16 _ h t e) rfl n
theorem Sys2Proof.Laws.Touches.epochMark (arrived : Bool) : Sys2Proof.Laws.Touches.Statement (.epochMark arrived) :=
  fun _ t e _ n => same_of_within (fun h => within_execEpochMark at0 at1 at2 at3 at4 at5 at6 at7 at8 at9 at10 at11
    at12 at13 _ _ h t e) rfl n
theorem Sys2Proof.Laws.Touches.measurementWindow (ppm : Int) : Sys2Proof.Laws.Touches.Statement (.measurementWindow
    ppm) :=
  fun _ t e _ n => same_of_within (fun h => within_execMeasurementWindow at0 at1 at2 at3 at4 _ _ h t e) rfl n
theorem Sys2Proof.Laws.Touches.bellUnlock (cause : RefFault) (ppm : Int) : Sys2Proof.Laws.Touches.Statement
    (.bellUnlock cause ppm) :=
  fun _ t e _ n => same_of_within (fun h => within_execBellUnlock at0 at1 at2 at3 at4 _ _ _ h t e) rfl n
theorem Sys2Proof.Laws.Touches.glitch : Sys2Proof.Laws.Touches.Statement .glitch :=
  fun _ t e _ n => same_of_within (fun h => within_execGlitch at0 _ h t e) rfl n
theorem Sys2Proof.Laws.Touches.write (m : LinkMsg) : Sys2Proof.Laws.Touches.Statement (.write m) :=
  fun _ t e _ n => same_of_within (fun h => within_execWrite at0 at1 at2 at3 at4 at5 at6 at7 at8 at9 at10 at11 at12
    at13 at14 at15 _ _ h t e) rfl n
theorem Sys2Proof.Laws.Touches.read (m : LinkMsg) : Sys2Proof.Laws.Touches.Statement (.read m) :=
  fun _ t e _ n => same_of_within (fun h => within_execRead at0 at1 at2 at3 at4 at5 at6 at7 at8 at9 at10 at11 at12
    at13 at14 at15 _ _ h t e) rfl n
theorem Sys2Proof.Laws.Touches.readResp (m : LinkMsg) : Sys2Proof.Laws.Touches.Statement (.readResp m) :=
  fun _ t e _ n => same_of_within (fun h => within_execReadResp at0 at1 at2 at3 at4 at5 at6 at7 at8 at9 at10 at11 at12
    at13 at14 at15 _ _ h t e) rfl n
theorem Sys2Proof.Laws.Touches.atomic (m : LinkMsg) : Sys2Proof.Laws.Touches.Statement (.atomic m) :=
  fun _ t e _ n => same_of_within (fun h => within_execAtomic at0 at1 at2 at3 at4 at5 at6 at7 at8 at9 at10 at11 at12
    at13 at14 at15 _ _ h t e) rfl n
theorem Sys2Proof.Laws.Touches.atomicResp (m : LinkMsg) : Sys2Proof.Laws.Touches.Statement (.atomicResp m) :=
  fun _ t e _ n => same_of_within (fun h => within_execAtomicResp at0 at1 at2 at3 at4 at5 at6 at7 at8 at9 at10 at11
    at12 at13 at14 at15 _ _ h t e) rfl n
theorem Sys2Proof.Laws.Touches.tileRts (m : LinkMsg) : Sys2Proof.Laws.Touches.Statement (.tileRts m) :=
  fun _ t e _ n => same_of_within (fun h => within_execTileRts at0 at1 at2 at3 at4 at5 at6 at7 at8 at9 at10 at11 at12
    at13 at14 at15 _ _ h t e) rfl n
theorem Sys2Proof.Laws.Touches.tileData (m : LinkMsg) : Sys2Proof.Laws.Touches.Statement (.tileData m) :=
  fun _ t e _ n => same_of_within (fun h => within_execTileData at0 at1 at2 at3 at4 at5 at6 at7 at8 at9 at10 at11 at12
    at13 at14 at15 _ _ h t e) rfl n
theorem Sys2Proof.Laws.Touches.collective (m : LinkMsg) : Sys2Proof.Laws.Touches.Statement (.collective m) :=
  fun _ t e _ n => same_of_within (fun h => within_execCollective at0 at1 at2 at3 at4 at5 at6 at7 at8 at9 at10 at11
    at12 at13 at14 at15 _ _ h t e) rfl n
theorem Sys2Proof.Laws.Touches.vote (m : LinkMsg) : Sys2Proof.Laws.Touches.Statement (.vote m) :=
  fun _ t e _ n => same_of_within (fun h => within_execVote at0 at1 at2 at3 at4 at5 at6 at7 at8 at9 at10 at11 at12
    at13 at14 at15 _ _ h t e) rfl n
theorem Sys2Proof.Laws.Touches.result (m : LinkMsg) : Sys2Proof.Laws.Touches.Statement (.result m) :=
  fun _ t e _ n => same_of_within (fun h => within_execResult at0 at1 at2 at3 at4 at5 at6 at7 at8 at9 at10 at11 at12
    at13 at14 at15 _ _ h t e) rfl n
theorem Sys2Proof.Laws.Touches.openMsg (m : LinkMsg) : Sys2Proof.Laws.Touches.Statement (.openMsg m) :=
  fun _ t e _ n => same_of_within (fun h => within_execOpenMsg at0 at1 at2 _ _ h t e) rfl n
theorem Sys2Proof.Laws.Touches.msgAck (ctx : Nat) (mseq : BitVec 24) : Sys2Proof.Laws.Touches.Statement (.msgAck ctx
    mseq) :=
  fun _ t e _ n => same_of_within (fun h => within_execMsgAck at0 at1 at2 at3 at4 at5 at6 at7 at8 at9 at10 at11 at12
    at13 at14 _ _ _ h t e) rfl n
theorem Sys2Proof.Laws.Touches.msgNak (ctx : Nat) (mseq : BitVec 24) (kind : NakKind) :
    Sys2Proof.Laws.Touches.Statement (.msgNak ctx mseq kind) :=
  fun _ t e _ n => same_of_within (fun h => within_execMsgNak at0 at1 at2 at3 at4 at5 at6 at7 at8 at9 at10 at11 at12
    at13 _ _ _ _ h t e) rfl n
theorem Sys2Proof.Laws.Touches.bell (port : Nat) (count : Long) (locked : Bool) : Sys2Proof.Laws.Touches.Statement
    (.bell port count locked) :=
  fun _ t e _ n => same_of_within (fun h => within_execBell at0 at1 at2 at3 at4 at5 at6 at7 at8 at9 at10 at11 at12
    at13 at14 _ _ _ _ h t e) rfl n
theorem Sys2Proof.Laws.Touches.negotiate (port low high : Nat) : Sys2Proof.Laws.Touches.Statement (.negotiate port low
    high) :=
  fun _ t e _ n => same_of_within (fun h => within_execNegotiate at0 at1 at2 at3 _ _ _ _ h t e) rfl n
theorem Sys2Proof.Laws.Touches.linkCtl (port : Nat) (lack : BitVec 12) (lnak : Bool) :
    Sys2Proof.Laws.Touches.Statement (.linkCtl port lack lnak) :=
  fun _ t e _ n => same_of_within (fun h => within_execLinkCtl at0 at1 at2 _ _ _ _ h t e) rfl n
theorem Sys2Proof.Laws.Touches.idle (port : Nat) (lack : BitVec 12) (lnak : Bool) (crVc crPart crCount : Nat) :
    Sys2Proof.Laws.Touches.Statement (.idle port lack lnak crVc crPart crCount) :=
  fun _ t e _ n => same_of_within (fun h => within_execIdle at0 at1 at2 _ _ _ _ _ _ _ h t e) rfl n
theorem Sys2Proof.Laws.Touches.linkReplay (port : Nat) : Sys2Proof.Laws.Touches.Statement (.linkReplay port) :=
  fun _ t e _ n => same_of_within (fun h => within_execLinkReplay at0 at1 _ _ h t e) rfl n
theorem Sys2Proof.Laws.Touches.fecUncorrectable (port : Nat) : Sys2Proof.Laws.Touches.Statement (.fecUncorrectable
    port) :=
  fun _ t e _ n => same_of_within (fun h => within_execFecUncorrectable at0 at1 _ _ h t e) rfl n
theorem Sys2Proof.Laws.Touches.frame (f : LinkFrame) : Sys2Proof.Laws.Touches.Statement (.frame f) :=
  fun _ t e _ n => same_of_within (fun h => within_execFrame at0 _ _ h t e) rfl n
theorem Sys2Proof.Laws.Touches.priorityPause (port priority : Nat) : Sys2Proof.Laws.Touches.Statement (.priorityPause
    port priority) :=
  fun _ t e _ n => same_of_within (fun h => within_execPriorityPause at0 _ _ _ h t e) rfl n
theorem Sys2Proof.Laws.Touches.priorityPauseExpiry (port priority : Nat) : Sys2Proof.Laws.Touches.Statement
    (.priorityPauseExpiry port priority) :=
  fun _ t e _ n => same_of_within (fun h => within_execPriorityPauseExpiry at0 at1 at2 _ _ _ h t e) rfl n
theorem Sys2Proof.Laws.Touches.retransmit (ctx : Nat) (mseq : BitVec 24) : Sys2Proof.Laws.Touches.Statement
    (.retransmit ctx mseq) :=
  fun _ t e _ n => same_of_within (fun h => within_execRetransmit at0 at1 at2 _ _ _ h t e) rfl n
theorem Sys2Proof.Laws.Touches.contextTimeout (ctx : Nat) : Sys2Proof.Laws.Touches.Statement (.contextTimeout ctx) :=
  fun _ t e _ n => same_of_within (fun h => within_execContextTimeout at0 at1 at2 at3 at4 at5 at6 at7 at8 at9 at10
    at11 at12 _ _ h t e) rfl n
theorem Sys2Proof.Laws.Touches.linkRetrain (port : Nat) : Sys2Proof.Laws.Touches.Statement (.linkRetrain port) :=
  fun _ t e _ n => same_of_within (fun h => within_execLinkRetrain at0 at1 at2 at3 _ _ h t e) rfl n
theorem Sys2Proof.Laws.Touches.linkRetrainDone (port : Nat) (ok : Bool) : Sys2Proof.Laws.Touches.Statement
    (.linkRetrainDone port ok) :=
  fun _ t e _ n => same_of_within (fun h => within_execLinkRetrainDone at0 at1 at2 at3 at4 at5 at6 at7 _ _ _ h t e)
    rfl n
theorem Sys2Proof.Laws.Touches.portTraining (init : Sender) (port : Nat) (value : Word) (report : TrainReport) :
    Sys2Proof.Laws.Touches.Statement (.portTraining init port value report) :=
  fun _ t e _ n => same_of_within (fun h => within_execPortTraining at0 at1 at2 at3 at4 at5 at6 at7 _ _ _ _ _ h t e)
    rfl n
theorem Sys2Proof.Laws.Touches.ctxOpen (init : Sender) (ctx : Nat) : Sys2Proof.Laws.Touches.Statement (.ctxOpen init
    ctx) :=
  fun _ t e _ n => same_of_within (fun h => within_execCtxOpen at0 at1 at2 at3 at4 at5 at6 at7 at8 _ _ _ h t e) rfl n
theorem Sys2Proof.Laws.Touches.ctxClose (init : Sender) (ctx : Nat) : Sys2Proof.Laws.Touches.Statement (.ctxClose init
    ctx) :=
  fun _ t e _ n => same_of_within (fun h => within_execCtxClose at0 at1 at2 at3 at4 at5 at6 at7 at8 at9 at10 at11 at12
    at13 _ _ _ h t e) rfl n
theorem Sys2Proof.Laws.Touches.linkReqTailWrite (init : Sender) (part : Nat) (value : Word) :
    Sys2Proof.Laws.Touches.Statement (.linkReqTailWrite init part value) :=
  fun _ t e _ n => same_of_within (fun h => within_execLinkReqTailWrite at0 at1 at2 at3 _ _ _ _ h t e) rfl n
theorem Sys2Proof.Laws.Touches.linkReqWrite (part : Nat) : Sys2Proof.Laws.Touches.Statement (.linkReqWrite part) :=
  fun _ t e _ n => same_of_within (fun h => within_execLinkReqWrite at0 at1 at2 at3 at4 at5 at6 at7 at8 at9 at10 at11
    at12 at13 _ _ h t e) rfl n
theorem Sys2Proof.Laws.Touches.linkReqRead (part : Nat) : Sys2Proof.Laws.Touches.Statement (.linkReqRead part) :=
  fun _ t e _ n => same_of_within (fun h => within_execLinkReqRead at0 at1 at2 at3 at4 at5 at6 at7 at8 at9 at10 at11
    at12 at13 _ _ h t e) rfl n
theorem Sys2Proof.Laws.Touches.linkReqAtomic (part : Nat) : Sys2Proof.Laws.Touches.Statement (.linkReqAtomic part) :=
  fun _ t e _ n => same_of_within (fun h => within_execLinkReqAtomic at0 at1 at2 at3 at4 at5 at6 at7 at8 at9 at10 at11
    at12 at13 _ _ h t e) rfl n
theorem Sys2Proof.Laws.Touches.reduceScatter (part : Nat) : Sys2Proof.Laws.Touches.Statement (.reduceScatter part) :=
  fun _ t e _ n => same_of_within (fun h => within_execReduceScatter at0 at1 at2 at3 at4 at5 at6 at7 at8 at9 at10 at11
    at12 at13 _ _ h t e) rfl n
theorem Sys2Proof.Laws.Touches.allGather (part : Nat) : Sys2Proof.Laws.Touches.Statement (.allGather part) :=
  fun _ t e _ n => same_of_within (fun h => within_execAllGather at0 at1 at2 at3 at4 at5 at6 at7 at8 at9 at10 at11
    at12 at13 _ _ h t e) rfl n
theorem Sys2Proof.Laws.Touches.allReduce (part : Nat) : Sys2Proof.Laws.Touches.Statement (.allReduce part) :=
  fun _ t e _ n => same_of_within (fun h => within_execAllReduce at0 at1 at2 at3 at4 at5 at6 at7 at8 at9 at10 at11
    at12 at13 _ _ h t e) rfl n
theorem Sys2Proof.Laws.Touches.linkReqComplete (part pos : Nat) : Sys2Proof.Laws.Touches.Statement (.linkReqComplete
    part pos) :=
  fun _ t e _ n => same_of_within (fun h => within_execLinkReqComplete at0 at1 at2 at3 at4 at5 at6 at7 at8 at9 _ _ _ h
    t e) rfl n
theorem Sys2Proof.Laws.Touches.d2dReplay (port : Nat) (ok : Bool) : Sys2Proof.Laws.Touches.Statement (.d2dReplay port
    ok) :=
  fun _ t e _ n => same_of_within (fun h => within_execD2dReplay at0 at1 at2 at3 at4 _ _ _ h t e) rfl n
theorem Sys2Proof.Laws.Touches.hbmRetrainTrigger (die ctl channel : Nat) : Sys2Proof.Laws.Touches.Statement
    (.hbmRetrainTrigger die ctl channel) :=
  fun _ t e _ n => same_of_within (fun h => within_execHbmRetrainTrigger at0 at1 at2 _ _ _ _ h t e) rfl n
theorem Sys2Proof.Laws.Touches.hbmRetrainEnd (die ctl : Nat) (inTime : Bool) (pins0 pins1 : List Nat) :
    Sys2Proof.Laws.Touches.Statement (.hbmRetrainEnd die ctl inTime pins0 pins1) :=
  fun _ t e _ n => same_of_within (fun h => within_execHbmRetrainEnd at0 at1 at2 _ _ _ _ _ _ h t e) rfl n
theorem Sys2Proof.Laws.Touches.retrainDue (die ctl channel : Nat) : Sys2Proof.Laws.Touches.Statement (.retrainDue die
    ctl channel) :=
  fun _ t e _ n => same_of_within (fun h => within_execRetrainDue at0 at1 _ _ _ _ h t e) rfl n
theorem Sys2Proof.Laws.Touches.admitJob (init : Sender) (part : Nat) : Sys2Proof.Laws.Touches.Statement (.admitJob
    init part) :=
  fun _ t e _ n => same_of_within (fun h => within_execAdmitJob at0 at1 at2 at3 at4 at5 at6 at7 _ _ _ h t e) rfl n
theorem Sys2Proof.Laws.Touches.admitDigestDone (part : Nat) (allMatch : Bool) : Sys2Proof.Laws.Touches.Statement
    (.admitDigestDone part allMatch) :=
  fun _ t e _ n => same_of_within (fun h => within_execAdmitDigestDone at0 at1 at2 at3 at4 at5 at6 at7 at8 at9 at10 _
    _ _ h t e) rfl n
theorem Sys2Proof.Laws.Touches.admitTimeout (part : Nat) : Sys2Proof.Laws.Touches.Statement (.admitTimeout part) :=
  fun _ t e _ n => same_of_within (fun h => within_execAdmitTimeout at0 at1 at2 _ _ h t e) rfl n
theorem Sys2Proof.Laws.Touches.endJob (init : Sender) (part : Nat) (ctxMask : BitVec 8) :
    Sys2Proof.Laws.Touches.Statement (.endJob init part ctxMask) :=
  fun _ t e _ n => same_of_within (fun h => within_execEndJob at0 at1 at2 at3 at4 at5 at6 at7 at8 at9 at10 at11 at12
    at13 at14 _ _ _ _ h t e) rfl n
theorem Sys2Proof.Laws.Touches.jobCmdBoundary (init : Sender) (part : Nat) : Sys2Proof.Laws.Touches.Statement
    (.jobCmdBoundary init part) :=
  fun _ t e _ n => same_of_within (fun h => within_execJobCmdBoundary at0 at1 at2 at3 at4 _ _ _ h t e) rfl n
theorem Sys2Proof.Laws.Touches.suspend (init : Sender) (part ctx : Nat) : Sys2Proof.Laws.Touches.Statement (.suspend
    init part ctx) :=
  fun _ t e _ n => same_of_within (fun h => within_execSuspend at0 at1 at2 at3 _ _ _ _ h t e) rfl n
theorem Sys2Proof.Laws.Touches.resume (init : Sender) (part ctx : Nat) : Sys2Proof.Laws.Touches.Statement (.resume
    init part ctx) :=
  fun _ t e _ n => same_of_within (fun h => within_execResume at0 at1 at2 at3 at4 _ _ _ _ h t e) rfl n
theorem Sys2Proof.Laws.Touches.discard (init : Sender) (part ctx : Nat) : Sys2Proof.Laws.Touches.Statement (.discard
    init part ctx) :=
  fun _ t e _ n => same_of_within (fun h => within_execDiscard at0 at1 at2 at3 at4 at5 at6 at7 at8 at9 at10 at11 at12
    at13 _ _ _ _ h t e) rfl n
theorem Sys2Proof.Laws.Touches.sliceStart (part : Nat) : Sys2Proof.Laws.Touches.Statement (.sliceStart part) :=
  fun _ t e _ n => same_of_within (fun h => within_execSliceStart at0 at1 at2 at3 at4 at5 at6 at7 at8 at9 at10 at11
    at12 at13 at14 at15 _ _ h t e) rfl n
theorem Sys2Proof.Laws.Touches.tileKill (core : Nat) (queue : QueueId) : Sys2Proof.Laws.Touches.Statement (.tileKill
    core queue) :=
  fun _ t e _ n => same_of_within (fun h => within_execTileKill at0 at1 at2 at3 at4 at5 at6 _ _ _ h t e) rfl n
theorem Sys2Proof.Laws.Touches.saveRestore (core : Nat) (checkOk : Bool) : Sys2Proof.Laws.Touches.Statement
    (.saveRestore core checkOk) :=
  fun _ t e _ n => same_of_within (fun h => within_execSaveRestore at0 at1 at2 at3 at4 at5 at6 at7 at8 at9 at10 at11
    at12 at13 at14 at15 _ _ _ h t e) rfl n
theorem Sys2Proof.Laws.Touches.drainCut (ctx : Nat) : Sys2Proof.Laws.Touches.Statement (.drainCut ctx) :=
  fun _ t e _ n => same_of_within (fun h => within_execDrainCut at0 at1 _ _ h t e) rfl n
theorem Sys2Proof.Laws.Touches.seal (init : Sender) (part : Nat) : Sys2Proof.Laws.Touches.Statement (.seal init part)
    :=
  fun _ t e _ n => same_of_within (fun h => within_execSeal at0 at1 at2 at3 at4 at5 at6 at7 at8 at9 at10 at11 at12
    at13 at14 at15 at16 _ _ _ h t e) rfl n
theorem Sys2Proof.Laws.Touches.unseal (init : Sender) (part : Nat) : Sys2Proof.Laws.Touches.Statement (.unseal init
    part) :=
  fun _ t e _ n => same_of_within (fun h => within_execUnseal at0 at1 at2 at3 at4 at5 at6 at7 at8 at9 _ _ _ h t e) rfl
    n
theorem Sys2Proof.Laws.Touches.load (init : Sender) (part : Nat) : Sys2Proof.Laws.Touches.Statement (.load init part)
    :=
  fun _ t e _ n => same_of_within (fun h => within_execLoad at0 at1 at2 at3 at4 at5 at6 at7 at8 at9 at10 at11 at12 _ _
    _ h t e) rfl n
theorem Sys2Proof.Laws.Touches.attest (init : Sender) (part : Nat) : Sys2Proof.Laws.Touches.Statement (.attest init
    part) :=
  fun _ t e _ n => same_of_within (fun h => within_execAttest at0 at1 at2 at3 at4 at5 at6 at7 at8 at9 at10 _ _ _ h t
    e) rfl n
theorem Sys2Proof.Laws.Touches.pwrEnAssert (centivolts : Nat) : Sys2Proof.Laws.Touches.Statement (.pwrEnAssert
    centivolts) :=
  fun _ t e _ n => same_of_within (fun h => within_execPwrEnAssert at0 at1 at2 at3 at4 at5 at6 at7 at8 at9 at10 at11
    at12 at13 at14 at15 at16 at17 at18 at19 _ _ h t e) rfl n
theorem Sys2Proof.Laws.Touches.pwrEnDeassert : Sys2Proof.Laws.Touches.Statement .pwrEnDeassert :=
  fun _ t e _ n => same_of_within (fun h => within_execPwrEnDeassert at0 at1 at2 at3 at4 at5 at6 at7 at8 at9 at10 at11
    at12 at13 at14 at15 at16 at17 at18 at19 _ h t e) rfl n
theorem Sys2Proof.Laws.Touches.undervoltage : Sys2Proof.Laws.Touches.Statement .undervoltage :=
  fun _ t e _ n => same_of_within (fun h => within_execUndervoltage at0 at1 at2 at3 at4 at5 at6 at7 at8 at9 at10 at11
    at12 at13 at14 at15 at16 at17 at18 at19 _ h t e) rfl n
theorem Sys2Proof.Laws.Touches.overvoltage : Sys2Proof.Laws.Touches.Statement .overvoltage :=
  fun _ t e _ n => same_of_within (fun h => within_execOvervoltage at0 at1 at2 at3 at4 at5 at6 at7 at8 at9 at10 at11
    at12 at13 at14 at15 at16 at17 at18 at19 _ h t e) rfl n
theorem Sys2Proof.Laws.Touches.domainRegulation : Sys2Proof.Laws.Touches.Statement .domainRegulation :=
  fun _ t e _ n => same_of_within (fun h => within_execDomainRegulation at0 _ h t e) rfl n
theorem Sys2Proof.Laws.Touches.modRstNAssert : Sys2Proof.Laws.Touches.Statement .modRstNAssert :=
  fun _ t e _ n => same_of_within (fun h => within_execModRstNAssert at0 at1 at2 at3 at4 at5 at6 at7 at8 at9 at10 at11
    at12 at13 at14 at15 at16 at17 at18 at19 _ h t e) rfl n
theorem Sys2Proof.Laws.Touches.modRstNRelease : Sys2Proof.Laws.Touches.Statement .modRstNRelease :=
  fun _ t e _ n => same_of_within (fun h => within_execModRstNRelease at0 _ h t e) rfl n
theorem Sys2Proof.Laws.Touches.throttleNAssert (fast : Bool) : Sys2Proof.Laws.Touches.Statement (.throttleNAssert
    fast) :=
  fun _ t e _ n => same_of_within (fun h => within_execThrottleNAssert at0 _ _ h t e) rfl n
theorem Sys2Proof.Laws.Touches.throttleNDeassert (fast quiet : Bool) : Sys2Proof.Laws.Touches.Statement
    (.throttleNDeassert fast quiet) :=
  fun _ t e _ n => same_of_within (fun h => within_execThrottleNDeassert at0 _ _ _ h t e) rfl n
theorem Sys2Proof.Laws.Touches.throttleLong : Sys2Proof.Laws.Touches.Statement .throttleLong :=
  fun _ t e _ n => same_of_within (fun h => within_execThrottleLong at0 at1 at2 _ h t e) rfl n
theorem Sys2Proof.Laws.Touches.droopSag (die quad : Nat) : Sys2Proof.Laws.Touches.Statement (.droopSag die quad) :=
  fun _ t e _ n => same_of_within (fun h => within_execDroopSag at0 at1 _ _ _ h t e) rfl n
theorem Sys2Proof.Laws.Touches.droopDeep (die quad : Nat) : Sys2Proof.Laws.Touches.Statement (.droopDeep die quad) :=
  fun _ t e _ n => same_of_within (fun h => within_execDroopDeep at0 at1 _ _ _ h t e) rfl n
theorem Sys2Proof.Laws.Touches.droopRecover (die quad : Nat) : Sys2Proof.Laws.Touches.Statement (.droopRecover die
    quad) :=
  fun _ t e _ n => same_of_within (fun h => within_execDroopRecover at0 _ _ _ h t e) rfl n
theorem Sys2Proof.Laws.Touches.droopHoldEnd (die quad : Nat) : Sys2Proof.Laws.Touches.Statement (.droopHoldEnd die
    quad) :=
  fun _ t e _ n => same_of_within (fun h => within_execDroopHoldEnd at0 _ _ _ h t e) rfl n
theorem Sys2Proof.Laws.Touches.capPeriod (watts centivolts : Nat) (quadT hubT stackT regT : List Int) :
    Sys2Proof.Laws.Touches.Statement (.capPeriod watts centivolts quadT hubT stackT regT) :=
  fun _ t e _ n => same_of_within (fun h => within_execCapPeriod at0 at1 at2 _ _ _ _ _ _ _ h t e) rfl n
theorem Sys2Proof.Laws.Touches.fastLimit : Sys2Proof.Laws.Touches.Statement .fastLimit :=
  fun _ t e _ n => same_of_within (fun h => within_execFastLimit at0 at1 _ h t e) rfl n
theorem Sys2Proof.Laws.Touches.thermalShutdown : Sys2Proof.Laws.Touches.Statement .thermalShutdown :=
  fun _ t e _ n => same_of_within (fun h => within_execThermalShutdown at0 at1 at2 at3 at4 at5 at6 at7 at8 at9 at10
    at11 at12 at13 at14 at15 at16 _ h t e) rfl n
theorem Sys2Proof.Laws.Touches.supplyWarn : Sys2Proof.Laws.Touches.Statement .supplyWarn :=
  fun _ t e _ n => same_of_within (fun h => within_execSupplyWarn at0 at1 at2 _ h t e) rfl n
theorem Sys2Proof.Laws.Touches.heldResetRelease : Sys2Proof.Laws.Touches.Statement .heldResetRelease :=
  fun _ t e _ n => same_of_within (fun h => within_execHeldResetRelease at0 at1 at2 at3 at4 at5 at6 at7 at8 at9 at10
    at11 at12 at13 at14 at15 at16 at17 at18 at19 _ h t e) rfl n
theorem Sys2Proof.Laws.Touches.warmReset (init : Sender) (value : Word) : Sys2Proof.Laws.Touches.Statement (.warmReset
    init value) :=
  fun _ t e _ n => same_of_within (fun h => within_execWarmReset at0 at1 at2 at3 at4 at5 at6 at7 at8 at9 at10 at11
    at12 at13 at14 at15 at16 at17 at18 at19 _ _ _ h t e) rfl n
theorem Sys2Proof.Laws.Touches.dieReset (init : Sender) (value : Word) : Sys2Proof.Laws.Touches.Statement (.dieReset
    init value) :=
  fun _ t e _ n => same_of_within (fun h => within_execDieReset at0 at1 at2 at3 at4 at5 at6 at7 at8 at9 at10 at11 at12
    at13 at14 at15 at16 at17 at18 at19 _ _ _ h t e) rfl n
theorem Sys2Proof.Laws.Touches.coreReset (init : Sender) (value : Word) : Sys2Proof.Laws.Touches.Statement (.coreReset
    init value) :=
  fun _ t e _ n => same_of_within (fun h => within_execCoreReset at0 at1 at2 at3 at4 at5 at6 at7 at8 at9 at10 at11
    at12 at13 at14 at15 at16 at17 at18 at19 _ _ _ h t e) rfl n
theorem Sys2Proof.Laws.Touches.resetComplete : Sys2Proof.Laws.Touches.Statement .resetComplete :=
  fun _ t e _ n => same_of_within (fun h => within_execResetComplete at0 _ h t e) rfl n
theorem Sys2Proof.Laws.Touches.bootRom (verified : Bool) (imageHash : BitVec 512) (strap : BitVec 3) :
    Sys2Proof.Laws.Touches.Statement (.bootRom verified imageHash strap) :=
  fun _ t e _ n => same_of_within (fun h => within_execBootRom at0 at1 at2 at3 at4 at5 at6 at7 at8 at9 at10 at11 at12
    at13 at14 at15 at16 at17 at18 at19 at20 at21 _ _ _ _ h t e) rfl n
theorem Sys2Proof.Laws.Touches.stage1 (certOk verified : Bool) (imageHash : BitVec 512) (configHashes : List (BitVec
    512)) : Sys2Proof.Laws.Touches.Statement (.stage1 certOk verified imageHash configHashes) :=
  fun _ t e _ n => same_of_within (fun h => within_execStage1 at0 at1 at2 at3 at4 at5 at6 at7 at8 at9 at10 at11 at12
    at13 at14 at15 at16 at17 at18 at19 at20 _ _ _ _ _ h t e) rfl n
theorem Sys2Proof.Laws.Touches.stage2 (report : Stage2Report) : Sys2Proof.Laws.Touches.Statement (.stage2 report) :=
  fun _ t e _ n => same_of_within (fun h => within_execStage2 at0 at1 at2 at3 at4 at5 at6 at7 at8 at9 at10 at11 at12
    at13 at14 at15 at16 at17 at18 at19 at20 at21 _ _ h t e) rfl n
theorem Sys2Proof.Laws.Touches.bootOk (init : Sender) (value : Word) : Sys2Proof.Laws.Touches.Statement (.bootOk init
    value) :=
  fun _ t e _ n => same_of_within (fun h => within_execBootOk at0 at1 at2 at3 at4 _ _ _ h t e) rfl n
theorem Sys2Proof.Laws.Touches.startWatchdogExpiry : Sys2Proof.Laws.Touches.Statement .startWatchdogExpiry :=
  fun _ t e _ n => same_of_within (fun h => within_execStartWatchdogExpiry at0 at1 at2 at3 at4 at5 at6 at7 at8 at9
    at10 at11 at12 at13 at14 at15 at16 at17 at18 at19 at20 _ h t e) rfl n
theorem Sys2Proof.Laws.Touches.info (r : RaevoReq) : Sys2Proof.Laws.Touches.Statement (.info r) :=
  fun _ t e _ n => same_of_within (fun h => within_execInfo at0 at1 at2 _ _ h t e) rfl n
theorem Sys2Proof.Laws.Touches.readFlash (r : RaevoReq) : Sys2Proof.Laws.Touches.Statement (.readFlash r) :=
  fun _ t e _ n => same_of_within (fun h => within_execReadFlash at0 at1 at2 _ _ h t e) rfl n
theorem Sys2Proof.Laws.Touches.writeSlot (r : RaevoReq) (data : List Byte) (flashOk : Bool) :
    Sys2Proof.Laws.Touches.Statement (.writeSlot r data flashOk) :=
  fun _ t e _ n => same_of_within (fun h => within_execWriteSlot at0 at1 at2 at3 at4 _ _ _ _ h t e) rfl n
theorem Sys2Proof.Laws.Touches.commitSlot (r : RaevoReq) (verified : Bool) : Sys2Proof.Laws.Touches.Statement
    (.commitSlot r verified) :=
  fun _ t e _ n => same_of_within (fun h => within_execCommitSlot at0 at1 at2 at3 _ _ _ h t e) rfl n
theorem Sys2Proof.Laws.Touches.clearCounter (r : RaevoReq) : Sys2Proof.Laws.Touches.Statement (.clearCounter r) :=
  fun _ t e _ n => same_of_within (fun h => within_execClearCounter at0 at1 at2 at3 _ _ h t e) rfl n
theorem Sys2Proof.Laws.Touches.raevoReset (r : RaevoReq) : Sys2Proof.Laws.Touches.Statement (.raevoReset r) :=
  fun _ t e _ n => same_of_within (fun h => within_execRaevoReset at0 at1 at2 at3 at4 at5 at6 at7 at8 at9 at10 at11
    at12 at13 at14 at15 at16 at17 at18 at19 at20 _ _ h t e) rfl n
theorem Sys2Proof.Laws.Touches.registerAccessFrame (f : MgmtFrame) : Sys2Proof.Laws.Touches.Statement
    (.registerAccessFrame f) :=
  fun _ t e _ n => same_of_within (fun h => within_execRegisterAccessFrame at0 at1 at2 at3 at4 at5 at6 at7 at8 at9
    at10 at11 at12 at13 at14 at15 at16 at17 at18 at19 at20 at21 at22 at23 _ _ h t e) rfl n
theorem Sys2Proof.Laws.Touches.deviceId (pecOk : Bool) : Sys2Proof.Laws.Touches.Statement (.deviceId pecOk) :=
  fun _ t e _ n => same_of_within (fun h => within_execDeviceId at0 _ _ h t e) rfl n
theorem Sys2Proof.Laws.Touches.state (pecOk : Bool) : Sys2Proof.Laws.Touches.Statement (.state pecOk) :=
  fun _ t e _ n => same_of_within (fun h => within_execState at0 _ _ h t e) rfl n
theorem Sys2Proof.Laws.Touches.supply (pecOk : Bool) : Sys2Proof.Laws.Touches.Statement (.supply pecOk) :=
  fun _ t e _ n => same_of_within (fun h => within_execSupply at0 _ _ h t e) rfl n
theorem Sys2Proof.Laws.Touches.temps (pecOk : Bool) : Sys2Proof.Laws.Touches.Statement (.temps pecOk) :=
  fun _ t e _ n => same_of_within (fun h => within_execTemps at0 _ _ h t e) rfl n
theorem Sys2Proof.Laws.Touches.alertCause (pecOk : Bool) : Sys2Proof.Laws.Touches.Statement (.alertCause pecOk) :=
  fun _ t e _ n => same_of_within (fun h => within_execAlertCause at0 _ _ h t e) rfl n
theorem Sys2Proof.Laws.Touches.alertClear (mask : Byte) (pecOk : Bool) : Sys2Proof.Laws.Touches.Statement (.alertClear
    mask pecOk) :=
  fun _ t e _ n => same_of_within (fun h => within_execAlertClear at0 at1 _ _ _ h t e) rfl n
theorem Sys2Proof.Laws.Touches.clocks (pecOk : Bool) : Sys2Proof.Laws.Touches.Statement (.clocks pecOk) :=
  fun _ t e _ n => same_of_within (fun h => within_execClocks at0 _ _ h t e) rfl n
theorem Sys2Proof.Laws.Touches.fail (pecOk : Bool) : Sys2Proof.Laws.Touches.Statement (.fail pecOk) :=
  fun _ t e _ n => same_of_within (fun h => within_execFail at0 _ _ h t e) rfl n
theorem Sys2Proof.Laws.Touches.cap (value : Option (BitVec 16)) (pecOk : Bool) : Sys2Proof.Laws.Touches.Statement
    (.cap value pecOk) :=
  fun _ t e _ n => same_of_within (fun h => within_execCap at0 at1 _ _ _ h t e) rfl n
theorem Sys2Proof.Laws.Touches.alertResponse : Sys2Proof.Laws.Touches.Statement .alertResponse :=
  fun _ t e _ n => same_of_within (fun h => within_execAlertResponse at0 at1 _ h t e) rfl n
theorem Sys2Proof.Laws.Touches.smbusTimeout : Sys2Proof.Laws.Touches.Statement .smbusTimeout :=
  fun _ t e _ n => same_of_within (fun h => within_execSmbusTimeout at0 _ h t e) rfl n
theorem Sys2Proof.Laws.Touches.expertKey (init : Sender) (page value : Word) : Sys2Proof.Laws.Touches.Statement
    (.expertKey init page value) :=
  fun _ t e _ n => same_of_within (fun h => within_execExpertKey at0 at1 at2 at3 at4 at5 at6 at7 at8 at9 at10 at11
    at12 at13 at14 at15 at16 at17 at18 at19 at20 at21 at22 at23 _ _ _ _ h t e) rfl n
theorem Sys2Proof.Laws.Touches.expertLock (init : Sender) (page value : Word) : Sys2Proof.Laws.Touches.Statement
    (.expertLock init page value) :=
  fun _ t e _ n => same_of_within (fun h => within_execExpertLock at0 at1 at2 at3 at4 at5 at6 at7 at8 at9 at10 at11
    at12 at13 at14 at15 at16 at17 at18 at19 at20 at21 at22 at23 _ _ _ _ h t e) rfl n
theorem Sys2Proof.Laws.Touches.evtStatusWrite (init : Sender) (page value : Word) : Sys2Proof.Laws.Touches.Statement
    (.evtStatusWrite init page value) :=
  fun _ t e _ n => same_of_within (fun h => within_execEvtStatusWrite at0 at1 at2 at3 at4 at5 at6 at7 at8 at9 at10
    at11 at12 at13 at14 at15 at16 at17 at18 at19 at20 at21 at22 at23 _ _ _ _ h t e) rfl n
theorem Sys2Proof.Laws.Touches.evtForce (init : Sender) (page value : Word) : Sys2Proof.Laws.Touches.Statement
    (.evtForce init page value) :=
  fun _ t e _ n => same_of_within (fun h => within_execEvtForce at0 at1 at2 at3 at4 at5 at6 at7 at8 at9 at10 at11 at12
    at13 at14 at15 at16 at17 at18 at19 at20 at21 at22 at23 _ _ _ _ h t e) rfl n
theorem Sys2Proof.Laws.Touches.shadowDiscard (init : Sender) (page value : Word) : Sys2Proof.Laws.Touches.Statement
    (.shadowDiscard init page value) :=
  fun _ t e _ n => same_of_within (fun h => within_execShadowDiscard at0 at1 at2 at3 at4 at5 at6 at7 at8 at9 at10 at11
    at12 at13 at14 at15 at16 at17 at18 at19 at20 at21 at22 at23 _ _ _ _ h t e) rfl n
theorem Sys2Proof.Laws.Touches.rcRead (init : Reader) (address : Word) : Sys2Proof.Laws.Touches.Statement (.rcRead
    init address) :=
  fun _ t e _ n => same_of_within (fun h => within_execRcRead at0 at1 at2 at3 at4 at5 _ _ _ h t e) rfl n
theorem Sys2Proof.Laws.Touches.counterLowRead (init : Reader) (address : Word) : Sys2Proof.Laws.Touches.Statement
    (.counterLowRead init address) :=
  fun _ t e _ n => same_of_within (fun h => within_execCounterLowRead at0 at1 at2 at3 at4 at5 _ _ _ h t e) rfl n
theorem Sys2Proof.Laws.Touches.opkeyBurn (init : Sender) (value : Word) : Sys2Proof.Laws.Touches.Statement (.opkeyBurn
    init value) :=
  fun _ t e _ n => same_of_within (fun h => within_execOpkeyBurn at0 at1 at2 at3 at4 at5 at6 at7 at8 at9 at10 at11
    at12 at13 at14 at15 at16 at17 at18 at19 at20 at21 at22 at23 _ _ _ h t e) rfl n
theorem Sys2Proof.Laws.Touches.registerWrite (init bytes : Nat) (address value : Word) (behind : Bool) :
    Sys2Proof.Laws.Touches.Statement (.registerWrite init bytes address value behind) :=
  fun _ t e _ n => same_of_within (fun h => within_execRegisterWrite at0 at1 at2 at3 at4 at5 at6 at7 at8 at9 at10 at11
    at12 at13 at14 at15 at16 at17 at18 at19 at20 at21 at22 at23 _ _ _ _ _ _ h t e) rfl n
theorem Sys2Proof.Laws.Touches.supplyValid (centivolts : Nat) : Sys2Proof.Laws.Touches.Statement (.supplyValid
    centivolts) :=
  fun _ t e _ n => same_of_within (fun h => within_execSupplyValid at0 at1 at2 at3 at4 at5 at6 at7 at8 at9 at10 at11
    at12 at13 at14 at15 at16 at17 at18 at19 _ _ h t e) rfl n
end

