-- ==== Sys2Proof/Laws/Pump.lean ====
section
/-! SUPPORT. What the sending of flits leaves as it was: every message of a context but for the flits it has left. -/

-- One declaration at a time: the check of the package as one text bounds memory, which a thread a proof would pass.
set_option Elab.async false

namespace Sys2Proof.Machine

/-- A message but for its flits and when they left. -/
def Unacked.still (u : Unacked) : Unacked := { u with left := 0, sentAt := none, resent := 0 }

@[simp] theorem Unacked.still_sendOne (now : Long) (u : Unacked) : (u.sendOne now).still = u.still := rfl

/-- Two peers are the same but for the flits left, the control flits and the port. -/
structure Peer.Alike (p q : Peer) : Prop where
  same : q = { p with unacked := q.unacked, ctl := q.ctl, port := q.port }
  left : q.unacked.map Unacked.still = p.unacked.map Unacked.still

theorem Peer.Alike.refl (p : Peer) : p.Alike p := ⟨rfl, rfl⟩
theorem Peer.Alike.trans {p q r : Peer} (h : p.Alike q) (k : q.Alike r) : p.Alike r :=
  ⟨by rw [k.same, h.same], k.left.trans h.left⟩

theorem Peer.Alike.phase {p q : Peer} (h : p.Alike q) : q.phase = p.phase := by rw [h.same]
theorem Peer.Alike.words {p q : Peer} (h : p.Alike q) : q.words = p.words := by rw [h.same]
theorem Peer.Alike.reason {p q : Peer} (h : p.Alike q) : q.reason = p.reason := by rw [h.same]
theorem Peer.Alike.peerOpen {p q : Peer} (h : p.Alike q) : q.peerOpen = p.peerOpen := by rw [h.same]
theorem Peer.Alike.sendSeq {p q : Peer} (h : p.Alike q) : q.sendSeq = p.sendSeq := by rw [h.same]
theorem Peer.Alike.recvSeq {p q : Peer} (h : p.Alike q) : q.recvSeq = p.recvSeq := by rw [h.same]
theorem Peer.Alike.asked {p q : Peer} (h : p.Alike q) : q.asked = p.asked := by rw [h.same]
theorem Peer.Alike.tagFails {p q : Peer} (h : p.Alike q) : q.tagFails = p.tagFails := by rw [h.same]
theorem Peer.Alike.keys {p q : Peer} (h : p.Alike q) : q.keys = p.keys := by rw [h.same]
theorem Peer.Alike.msgs {p q : Peer} (h : p.Alike q) : q.unacked.map (·.msg) = p.unacked.map (·.msg) := by
  have := congrArg (List.map Unacked.msg) h.left
  rw [List.map_map, List.map_map] at this
  exact this

/-- The last of a peer's messages stands in a peer alike. -/
theorem Peer.Alike.last {p q : Peer} (h : p.Alike q) {l : List Unacked} {v : Unacked} (e : p.unacked = l ++ [v]) :
    ∃ u ∈ q.unacked, u.still = v.still := by
  have hm : v.still ∈ q.unacked.map Unacked.still := by
    rw [h.left, e]; exact List.mem_map_of_mem (List.mem_append_right _ (List.mem_singleton.2 rfl))
  obtain ⟨u, hu, hs⟩ := List.mem_map.1 hm
  exact ⟨u, hu, hs⟩

/-- Two states differ in what is sent alone: peers alike, the counters of pages and the half-ports. -/
structure Pumped (s t : State) : Prop where
  rest  : Changes [.out, .pages, .links] s t
  peers : ∀ c, (s.peer c).Alike (t.peer c)
  recvs : t.links.recvs = s.links.recvs
  rts   : t.links.rtsWaits = s.links.rtsWaits
  early : t.links.early = s.links.early
  colls : t.links.collCount = s.links.collCount
  reqs  : t.links.reqs = s.links.reqs

theorem Pumped.refl (s : State) : Pumped s s :=
  ⟨fun p n => by cases p <;> rfl, fun _ => Peer.Alike.refl _, rfl, rfl, rfl, rfl, rfl⟩
theorem Changes.trans {L : List Piece} {s t u : State} (h : Changes L s t) (k : Changes L t u) : Changes L s u := by
  intro p n
  have a := h p n
  have b := k p n
  cases p <;> exact Eq.trans b a
theorem Pumped.trans {s t u : State} (h : Pumped s t) (k : Pumped t u) : Pumped s u :=
  ⟨h.rest.trans k.rest, fun c => (h.peers c).trans (k.peers c), k.recvs.trans h.recvs, k.rts.trans h.rts,
    k.early.trans h.early, k.colls.trans h.colls, k.reqs.trans h.reqs⟩

theorem pumped_emit (s : State) (o : Output) : Pumped s (s.emit o) :=
  ⟨fun p n => by cases p <;> first | rfl | exact (n (by decide)).elim, fun _ => Peer.Alike.refl _, rfl, rfl, rfl, rfl, rfl⟩
theorem pumped_count (s : State) (pn k n : Nat) : Pumped s (s.count pn k n) :=
  ⟨fun p n => by cases p <;> first | rfl | exact (n (by decide)).elim, fun _ => Peer.Alike.refl _, rfl, rfl, rfl, rfl, rfl⟩
theorem pumped_setHalf (s : State) (h : Nat) (v : Half) : Pumped s (s.setHalf h v) :=
  ⟨fun p n => by cases p <;> first | rfl | exact (n (by decide)).elim, fun _ => Peer.Alike.refl _, rfl, rfl, rfl, rfl, rfl⟩

/-- A peer alike takes the place of a peer. -/
theorem pumped_alike {s : State} {c : Nat} {q : Peer} (h : (s.peer c).Alike q) : Pumped s (s.setPeer c q) := by
  refine ⟨fun p n => by cases p <;> first | rfl | exact (n (by decide)).elim, fun k => ?_, rfl, rfl, rfl, rfl, rfl⟩
  by_cases hk : k = c
  · subst hk; rw [State.peer_setPeer]; exact h
  · rw [State.peer_setPeer_ne _ _ _ _ hk]; exact Peer.Alike.refl _

/-- A flit leaves: of control, or of a message. -/
theorem pumped_sendFlit (s : State) (h c vc : Nat) : Pumped s (sendFlit s h c vc) := by
  unfold sendFlit
  extract_lets p v way s1
  have h1 : Pumped s s1 := (pumped_count s _ _ _).trans (pumped_setHalf _ _ _)
  have e1 : s1.peer c = p := rfl
  clear_value s1
  split
  · refine (h1.trans (pumped_alike ?_)).trans (pumped_emit _ _)
    rw [e1]; exact ⟨rfl, rfl⟩
  · split
    · exact Pumped.refl s
    · extract_lets s2
      have h2 : Pumped s s2 := by
        refine h1.trans (pumped_alike ?_)
        rw [e1]
        refine ⟨rfl, ?_⟩
        dsimp only
        rw [List.map_map]
        refine List.map_congr_left fun w _ => ?_
        dsimp only [Function.comp]
        split <;> rfl
      split
      · exact h2.trans (pumped_emit _ _)
      · exact h2

theorem pumped_pumpFlits (h n : Nat) (s : State) : Pumped s (pumpFlits h n s) := by
  induction n generalizing s with
  | zero => exact Pumped.refl s
  | succ n ih =>
    unfold pumpFlits
    split
    · exact Pumped.refl s
    · split
      · exact Pumped.refl s
      · exact ((pumped_setHalf _ _ _).trans (pumped_sendFlit _ _ _ _)).trans (ih _)

theorem pumped_pumpPort (s : State) (h : Nat) : Pumped s (pumpPort s h) := pumped_pumpFlits _ _ _

theorem pumped_pumpCtx (s : State) (c : Nat) : Pumped s (pumpCtx s c) := by
  unfold pumpCtx
  split
  · exact Pumped.refl s
  · exact pumped_pumpPort _ _

/-- What a context sends after it has changed. -/
theorem pumped_setPeer (s : State) (c : Nat) (p : Peer) :
    Changes [.out, .pages, .links] s (pumpCtx (s.setPeer c p) c) ∧ p.Alike ((pumpCtx (s.setPeer c p) c).peer c) ∧
      Pumped (s.setPeer c p) (pumpCtx (s.setPeer c p) c) := by
  have k := pumped_pumpCtx (s.setPeer c p) c
  have h := k.peers c
  rw [State.peer_setPeer] at h
  refine ⟨Changes.trans ?_ k.rest, h, k⟩
  intro p n; cases p <;> first | rfl | exact (n (by decide)).elim

/-- A message that a READY context takes stands last among those not acknowledged, under the context's next MSEQ. -/
theorem sendMsg_some {s : State} {c : Nat} (h : (s.peer c).phase = .ready) (m : OutMsg) (key : Nat) (w : Waiter) :
    ∃ t, sendMsg s c m key w = some t ∧ Changes [.out, .pages, .links] s t ∧ (t.peer c).sendSeq = (s.peer c).sendSeq + 1 ∧
      (t.peer c).phase = .ready ∧ (t.peer c).recvSeq = (s.peer c).recvSeq ∧ t.links.recvs = s.links.recvs ∧
      t.links.rtsWaits = s.links.rtsWaits ∧ t.links.reqs = s.links.reqs ∧
      ∃ u ∈ (t.peer c).unacked, u.waiter = w ∧ u.key = key ∧ u.msg = { m with
        ctx := c, mseq := (s.peer c).sendSeq,
        reqTag := if m.op == .read || m.op == .atomic then BitVec.ofNat 64 (s.peer c).sendSeq.toNat else m.reqTag } := by
  unfold sendMsg
  dsimp only
  rw [if_pos h]
  refine ⟨_, rfl, ?_⟩
  obtain ⟨hc, ha, k⟩ := pumped_setPeer s c _
  refine ⟨hc, ha.sendSeq, ha.phase.trans h, ha.recvSeq, k.recvs, k.rts,
    k.reqs, ?_⟩
  obtain ⟨u, hu, hs⟩ := ha.last rfl
  exact ⟨u, hu, congrArg Unacked.waiter hs, congrArg Unacked.key hs, congrArg Unacked.msg hs⟩

end Sys2Proof.Machine
end

