-- ==== Sys2Proof/Tests/Slice0.lean ====
section
/-! SUPPORT. Tests of the model by hand, and the witnesses of the statements' hypotheses: wit_<Name> shows states and
operands that meet the hypotheses of each clause of Obligations.<Name>, at the ends of their ranges where they have any. -/

-- One declaration at a time: the check of the package as one text bounds memory, which a thread a proof would pass.
set_option Elab.async false

namespace Sys2Proof.Tests
open Sys2Proof.Machine

/-! ### Small states -/

/-- A module that runs with every domain on. -/
def up : State :=
  { power := { domains := BitVec.allOnes 47 }, boot := { stage := 3, hostsOn := 0xFFFF } }

/-- The same with partition 0: the quadrants of die 0, host core 0, 16 MiB of hub SRAM with the context pages first, and
context 0 runnable and switched in on core 0. -/
def run : State :=
  let x : Ctx := { phase := .runnable, stageLo := 0x680000, stageHi := 0xD80000, vscrLo := 0xD80000, vscrHi := 0x1000000 }
  let grants : Page := { regs := [(0x100, 0xF), (0x104, 1), (0x10C, 0x100), (0x114, 0x2000)] }
  { up with
    pages := [(pnPart 0, grants)],
    parts := [(0, { ctxs := [(0, x)], cur := some 0 })],
    cores := [(0, { cur := some 0 })],
    dies := [(0, { dc0 := { running := true } })] }

/-- A command record of context 0 with the words given. -/
def cmd (op : Nat) (ws : List (Nat × Nat)) : CmdRec :=
  { ctx := 0, idx := 0, words := (List.range 16).map fun k => BitVec.ofNat 32 (mget (if k = 0 then op else 0) ws k) }

/-- Core 0 with a record that holds its ring, or acts in it. -/
def holding (c : CmdRec) : State := run.modRing 0 0 fun r => { r with hold := some c, outstanding := [c.idx] }
def acting (c : CmdRec) : State := run.modRing 0 0 fun r => { r with acting := [c], outstanding := [c.idx] }
/-- Core 0 with a record at the front of a queue. -/
def front (q : QueueId) (c : CmdRec) : State := run.modCore 0 fun k => k.setQueue q [c]

/-! ### The step and the invariants -/

theorem wit_StepRunsFront : ({ up with pending := [.glitch, .bellTick] } : State).pending = .glitch :: [.bellTick] := rfl

theorem wit_StepKeepsInvariants : step up = .next up ∧ MemOk up := ⟨rfl, by unfold MemOk; decide⟩

theorem wit_ResetState : ∃ i r, page? pnBell = some i ∧ regSpec? i.ty 0x010 = some r := ⟨_, _, rfl, rfl⟩

/-! ### Accumulation -/

/-- The largest held sum, the first one past the guard, and the two signs of an overflow. -/
theorem wit_AccumulationExact_deposit :
    (let q : Slot := { x := 1 }
     q.ovf = false ∧ (-guardLimit ≤ q.x + (guardLimit - 2) ∧ q.x + (guardLimit - 2) < guardLimit) ∧
       ¬ (-guardLimit ≤ q.x + (guardLimit - 1) ∧ q.x + (guardLimit - 1) < guardLimit) ∧
       ¬ (-guardLimit ≤ q.x + (-guardLimit - 2) ∧ q.x + (-guardLimit - 2) < guardLimit)) ∧
    ({ ovf := true } : Slot).ovf = true := by decide +kernel

theorem wit_AccumulationExact_order : ∃ (q : Slot) (vs ws : List Int), q.ovf = false ∧ vs.Perm ws ∧
    ∀ us ∈ [vs, ws], ∀ n, -guardLimit ≤ q.x + (us.take n).sum ∧ q.x + (us.take n).sum < guardLimit := by
  refine ⟨{}, [1, -1], [-1, 1], rfl, .swap .., ?_⟩
  intro us hu n
  simp only [List.mem_cons, List.not_mem_nil, or_false] at hu
  rcases hu with rfl | rfl <;> rcases n with _ | _ | _ | n <;> simp <;> decide +kernel

theorem wit_AccumulationExact_rescale : ({ x := -1 } : Slot).ovf = false ∧ Int.fdiv (-1) ((2 ^ 3 : Nat) : Int) = -1 := by decide

theorem wit_AccumulationExact_read : (({ x := 5 } : Slot).nan = false ∧ ({ x := 5 } : Slot).pinf = false ∧
    ({ x := 5 } : Slot).ninf = false ∧ ({ x := 5 } : Slot).ovf = false) ∧ (({ x := 5 } : Slot).xc128).isSome = true := by
  decide +kernel

/-! ### Control accesses -/

theorem wit_CommonWordsWritten : (page? (0x3000 / 0x1000)).isSome = true ∧ Served up 0 (pageWordAddr 0x3000 0x020) true ∧
    Served up 0 (pageWordAddr 0x3000 0x00C) true ∧ Served up 0 (pageWordAddr 0x3000 0xF00) true := by
  unfold Served; decide

theorem wit_ExpertKeyWritten : Served up 0 (pageWordAddr 0x3000 0x008) true := by unfold Served; decide

theorem wit_EventsForced : (page? (0x3000 / 0x1000)).isSome = true ∧ Served up 0 (pageWordAddr 0x3000 0x028) true ∧
    (up.page 3).evtEnable &&& 1#32 &&& eventMask ptBell &&& ~~~(up.page 3).evtStatus = 0 := by unfold Served; decide

/-- With every condition of R537, and from a host core, which has none. -/
theorem wit_OperatorKeyBurnt :
    let s := up.modPage pnFuse fun p => { p with expertEn := true }
    let v : Word := 0x0F5E0001
    (Served s 0 (pnFuse * 0x1000 + 0x840) true ∧ Served s 1 (pnFuse * 0x1000 + 0x840) true ∧
      (s.page pnFuse).expertEn = true) ∧ (v.getLsbD 0 = true ∧ v.extractLsb' 16 16 = 0x0F5E#16 ∧ s.fuses.opKey = none ∧
      anySealed s = false) := by
  unfold Served; decide

/-- `SEQ.CTL`, a /B word. -/
theorem wit_RegisterWordsWritten : ∃ i r,
    let a : Word := 0x01800010
    let s0 := disarm up 0x1800
    Served up 0 a.toNat true ∧ page? 0x1800 = some i ∧ regSpec? i.ty 0x010 = some r ∧ r.latch ≠ 0 ∧
    0x010 ≠ 0xF00 ∧ i.ty ∉ [ptBell, ptAlmanac, ptCrier, ptPart] ∧ (hubWrite? s0 0 i 0x010 1).or (dieWrite? s0 0 i 0x010 1) = none ∧
    writeGuard s0 0 0x1800 i 0x010 1 = 0 :=
  ⟨_, _, by unfold Served; decide, rfl, rfl, by decide, by decide, by decide, by decide, by decide⟩

theorem wit_RefusedAccessRecorded : (domOn up domCtl = true ∧ domOn up domHubfab = true ∧ mustHold up 0 false = false) ∧
    accessReason up 0 8 0x3000 true = some 1 ∧ accessReason up 0 4 0x20000000 false = some 0 := by decide

/-- A write that waits alone at the hub for the highest host core. -/
def held : State := up.setHost 15 { held := [{ bytes := 4, address := 0x8100, value := 1, write := true }] }
theorem wit_HostWritesHeld : (15 < 16) ∧
    (held.host 15).held = [{ bytes := 4, address := 0x8100, value := 1, write := true }] := by decide

theorem wit_CounterHalvesRead :
    let s := up.modPage pnBell fun p => { p with latches := [(latchKey 0 0x080, 7)] }
    (∃ i, page? pnBell = some i ∧ 0 < counterCount i.ty ∧ openCounter s i 0 = false) ∧
    (0x3080 = pnBell * 0x1000 + 0x080 + 8 * 0 ∧ Served s 0 0x3080 false ∧ Served s 0 0x3084 false) ∧
    mget? (s.page pnBell).latches (latchKey 0 (0x080 + 8 * 0)) = some 7 ∧
    (4 < 5 ∧ Served s 0 (pnCrier * 0x1000 + 0x210 + 4 * 0x20) false) := by
  refine ⟨⟨_, rfl, by decide, by decide⟩, ?_⟩
  unfold Served; decide

/-- A frame for this port, one with a bad header, and one that fails its check. -/
def frameOf (fcs reserved : Bool) : MgmtFrame :=
  { dest := 0, source := 5, etherType := 0x88B7, fcsOk := fcs, seq := 1, lengthOk := true, reservedOk := reserved,
    entries := [{ address := 0x3014, data := 0, write := false }] }
theorem wit_ManagementFrameAnswered : domOn up domCtl = true ∧
    (∀ good ∈ [true, false], let f := frameOf true good
      mgmtOn up = true ∧ up.boot.minimal = false ∧ f.fcsOk = true ∧ f.etherType = 0x88B7#16 ∧ f.dest = up.fuses.mgmtMac ∧
        frameGood f = good) ∧
    (frameOf false true).fcsOk = false := by decide

/-- The last core and context, and tails at the ring's size and one past it. -/
theorem wit_DoorbellMovesTail : Served up 0 (tailAddr 159 7) true ∧
    (BitVec.ofNat 16 128 - ((up.core 159).ring 7).head).toNat ≤ 2 ^ ringLog2 up 159 7 ∧
    2 ^ ringLog2 up 159 7 < (BitVec.ofNat 16 129 - ((up.core 159).ring 7).head).toNat := by unfold Served; decide

/-- Core 0 with one record in its ring: an ACC_READ with its descriptor in vector scratch, or one without it. -/
def ringed (desc : Nat) : State :=
  let s := { run with pages := run.pages ++ [(pnSeq 0, { regs := [(0x204, 0x2000), (0x200, 0x10000)] })] }
  let s1 := memWrite (memWrite s (hubAddr 0x10000) (leBytes 4 opAccRead)) (hubAddr 0x10018) (leBytes 4 desc)
  let words : List Nat := [0, 0, 0xD81000, 0, 0, 0, 0, 0, 1, 1, 1, 1]
  let s2 := memWrite s1 (lsAddr 0 0xD80000) (words.flatMap fun v => leBytes 4 v)
  s2.modRing 0 0 fun r => { r with tail := 1 }
theorem wit_RecordDispatched :
    let next (s : State) : CmdRec :=
      let ring := (s.core 0).ring 0
      resolveDeps ring { ctx := 0, idx := 0, words := viewWords s (recordKey s 0 0 0) 16, latched := mget [] ring.latched 0 }
    let check (s : State) : Fetch :=
      let s1 := s.modRing 0 0 (enroll (next s))
      checkRecord s1 (whoOf s1 0 0) (next s)
    let accepts (s : State) : Bool := match check s with | .ok _ => true | _ => false
    let refuses (s : State) : Bool := match check s with | .refuse _ _ => true | _ => false
    (∀ desc ∈ [0xD80000, 0], let s := ringed desc
      (recomputeNext s 0 0).isNone = true ∧ mayDispatch s 0 0 = true ∧ ringWaits s 0 0 = true ∧ ringPlaced s 0 0 = true ∧
        (s.core 0).gather = none ∧ NoErrors s ∧ queueRoom s 0 (next s) = true ∧ (next s).queue? = some .aq ∧
        accepts s = decide (desc ≠ 0) ∧ refuses s = decide (desc = 0)) ∧
    (∀ op ∈ [opNop, opFence], let s := memWrite (ringed 0) (hubAddr 0x10000) (leBytes 4 op ++ List.replicate 60 0)
      queueRoom s 0 (next s) = true ∧ (next s).queue? = none ∧ (next s).opcode = op ∧ accepts s = true) := by
  unfold NoErrors; decide +kernel

/-! ### Command rings -/

/-- NOP, FENCE and WAIT, each where its clause has it: the condition just met, and just not; the timeout just passed. -/
theorem wit_RingCommandsComplete :
    let n := cmd opNop []
    let based := { acting n with pages := mset {} run.pages (pnSeq 0) { regs := [(0x210, 0x20000), (0x214, 0x2000)] } }
    let w := cmd opWait [(4, 255), (5, 0)]
    let v := cmd opWait [(4, 255), (5, 1), (6, 7)]
    let s := (holding v).modRing 0 0 fun r => { r with waited := 7 }
    n.ctx = 0 ∧ EntryPlaced based 0 n ∧
    (actingRec (acting n) 0 0 opNop = some n ∧ depsOf n ≠ .waiting) ∧
    (actingRec (acting { n with depFailed := true }) 0 0 opNop).isSome = true ∧
    (holdingRec (holding (cmd opFence [])) 0 0 opFence = some (cmd opFence []) ∧
      earlierDone (holding (cmd opFence [])) 0 (cmd opFence []) = true) ∧
    (holdingRec (holding w) 0 0 opWait = some w ∧ depsOf w = .met ∧ waitHolds (holding w) 0 w = true ∧
      badUnit (holding w) (semKey (holding w) 0 0 255) 4 = none) ∧
    (holdingRec s 0 0 opWait = some v ∧ depsOf v = .met ∧ waitHolds s 0 v = false ∧ v.w 6 ≠ 0 ∧
      v.w 6 ≤ ((s.core 0).ring 0).waited ∧ badUnit s (semKey s 0 0 255) 4 = none) := by
  unfold EntryPlaced PlainStore; decide +kernel

/-- The last semaphore, added to and set. -/
theorem wit_SignalWritesSemaphore : ∀ op ∈ [0, 256], let c := cmd opSignal [(4, op + 255), (5, 0xFFFFFFFF)]
    c.ctx = 0 ∧ c.recompute = none ∧ actingRec (acting c) 0 0 opSignal = some c ∧ earlierDone (acting c) 0 c = true ∧
      PlainStore (acting c) (semKey (acting c) 0 0 255) 4 ∧ badUnit (acting c) (semKey (acting c) 0 0 255) 4 = none := by
  unfold PlainStore; decide +kernel

/-- A TRAINING job of `n` devices, this one of rank `r`, on context 0 of partition 0, at bell count 1000. -/
def job (n r : Nat) : Job :=
  { jobId := 1, training := true, level := 2, ctxMask := 1, evalMask := 0, mapping := List.replicate 8 0x10000,
    devlist := List.replicate n { deviceId := 0, node := 0, slot := 0 }, granary := [], rank := r, pendingAt := 0 }
def timed : State := { run with bell := { count := 1000, locked := true, selfTimed := false } }
def trains (n r : Nat) : State := timed.modPart 0 fun p => { p with jobs := [job n r] }

theorem wit_BoundariesPass_released : ∀ n ∈ [999, 1000],
    let c := cmd opBoundary []
    let u := timed.modRing 0 0 fun r => { r with hold := some c, outstanding := [0], released := true, boundaryAt := some (BitVec.ofNat 64 n) }
    holdingRec u 0 0 opBoundary = some c ∧ ((u.core 0).ring 0).released = true ∧
      decide (((u.core 0).ring 0).boundaryAt.getD 0 < u.bell.count) = (n == 999) := by decide +kernel

theorem wit_BoundariesPass :
    let c := cmd opBoundary []
    let s := holding c
    let t := (trains 1 0).modRing 0 0 fun r => { r with hold := some c, outstanding := [0] }
    let due := timed.modPart 3 fun p => { p with boundaries := [1000] }
    let first (s : State) : Bool := holdingRec s 0 0 opBoundary == some c && !((s.core 0).ring 0).released &&
      ((s.core 0).ring 0).boundaryAt.isNone && earlierDone s 0 c && (s.core 0).gather.isNone
    (first s = true ∧ trainingPart s ≠ some 0) ∧ (first t = true ∧ trainingPart t = some 0) ∧
    ((due.part 3).boundaries = [1000] ∧ (1000 : Long) ≤ due.bell.count ∧ trainingPart due ≠ some 3) ∧
    Served up 0 (jobCmdAddr 3) true := by unfold Served; decide +kernel

theorem wit_TilesLandAndWriteBacksEnd :
    let f : InFlight := { queue := .mq, cmd := cmd opMove [], status := 0 }
    let s := run.modCore 159 fun k => { k with landing := [(0, 64)], inflight := [f] }
    (s.core 159).landing = [(0, 64)] ∧ (s.core 159).gather.any GatherGroup.due = false ∧ oldestFlight s 159 .mq = some f ∧ f.linkWait = 0 := by decide +kernel

/-- A ring of 64 records of the last partition at `base`, with `tail` written. -/
def trapped (base tail : Nat) : State :=
  { run with
    crier := { pending := [{ rings := [3], record := 1 }], rings := [(3, { tail := BitVec.ofNat 17 tail })] },
    pages := mset {} run.pages pnCrier { regs := [(0x260, BitVec.ofNat 32 base), (0x264, 0x80062000)] } }
/-- One place left, and a full ring; and one whose place lies in another partition's grant. -/
theorem wit_TrapRecorded : ∀ e ∈ [(0x1800000, 63), (0x1800000, 64), (0x20000, 63)], let s := trapped e.1 e.2
    let key := s.regAddr pnCrier (0x200 + 3 * 0x20) + 64 * (e.2 % 2 ^ trapRingLog2 s 3)
    s.crier.pending = [{ rings := [3], record := 1 }] ∧
      ((trapRingHi s 3).testBit 31 && ((s.crierRing 3).tail - (s.crierRing 3).head).toNat != 2 ^ trapRingLog2 s 3 &&
        !slotForeign s 3 key) = (e == (0x1800000, 63)) ∧ PlainStore s key 64 := by unfold PlainStore; decide +kernel

/-! ### The almanac -/

/-- An entry with its word 3 and the words after it. -/
def ent (time deadline w3 : Nat) (ws : List Nat) : Entry :=
  { pos := 0, words := ([time, 0, deadline, w3] ++ ws).map (BitVec.ofNat 32) }
/-- A state with one entry in ring 0 of die 0. -/
def withEntry (s : State) (e : Entry) : State := s.modDie 0 fun v => v.setRing 0 { v.ring 0 with entries := [e] }

/-- The last ring, off, and switched on with one entry that its check accepts: a WAKE in the slab of its die. -/
theorem wit_AlmanacTailMoves :
    let on := { run with pages := mset {} run.pages (pnAlm 0) { regs := [(0x200, 0x10000), (0x204, 0x80061000)] } }
    let key := on.regAddr (pnAlm 0) (almReg 0 0)
    let s := memWrite on (key + 12) (leBytes 4 actWake)
    let s1 := (disarm s (pnAlm 0)).modDie 0 fun v => v.setRing 0 { tail := 1 }
    (Served up 0 (almTailAddr 3 31) true ∧ almOn up 3 31 = false ∧ 2 ^ almLog2 up 3 31 < (65 : BitVec 17).toNat ∧
      (64 : BitVec 17).toNat ≤ 2 ^ almLog2 up 3 31) ∧
    (Served s 0 (almTailAddr 0 0) true ∧ ((s.die 0).ring 0).entries = [] ∧ almOn s 0 0 = true ∧ tierOf key = 1 ∧
      bits key 43 36 / 40 = 0 ∧ inGrants s1 (entryWho 0 0) false key 32 = true ∧ s.bad = [] ∧ s.softBad = [] ∧
      ((s.die 0).ring 0).fetched + 1 = 1 ∧
      checkEntry s1 0 0 0 (sampleGate s1 0 { pos := 0, words := viewWords s1 key 8 }) = 0) := by
  unfold Served; decide +kernel

/-- One entry to read, a window whose gate was not met at its time. -/
theorem wit_AlmanacTailMoves_skipped :
    let on := { timed with pages := mset {} run.pages (pnAlm 0) { regs := [(0x200, 0x10000), (0x204, 0x80061000)] } }
    let key := on.regAddr (pnAlm 0) (almReg 0 0)
    let s := memWrite on key (leBytes 4 1000 ++ leBytes 4 0 ++ leBytes 4 0 ++ leBytes 4 (actRetrain + 65536))
    let s1 := (disarm s (pnAlm 0)).modDie 0 fun v => v.setRing 0 { tail := 1 }
    let e := sampleGate s1 0 { pos := 0, words := viewWords s1 key 8 }
    Served s 0 (almTailAddr 0 0) true ∧ ((s.die 0).ring 0).entries = [] ∧ almOn s 0 0 = true ∧ tierOf key = 1 ∧
      inGrants s1 (entryWho 0 0) false key 32 = true ∧ checkEntry s1 0 0 0 e = 0 ∧ isSkipped e = true ∧ Signals s 0 e := by
  unfold Served Signals PlainStore; decide +kernel

/-- A READY context of partition 0, not sealed, at level 2, with the rank given. -/
def peerWords (rank : Nat) : List Word :=
  (List.range 16).map fun k => if k = 0 then 0x200 else if k = 4 then BitVec.ofNat 32 (0x8000 + rank) else 0
def readyPeer (s : State) (c rank : Nat) : State :=
  { s with links := { s.links with peers := mset {} s.links.peers c { phase := .ready, words := peerWords rank } } }

/-- The same, with a job of two devices in which rank 1 lends 64 KiB of slab under handle 0. -/
def lent : State :=
  readyPeer (timed.modPart 0 fun p => { p with jobs := [{ job 2 0 with granary := [[1, 1, 0, 0x1000, 1, 0, 0, 0]] }] }) 7 1

theorem wit_EntriesFire :
    let wake := ent 1000 0 actWake [255 * 256]
    let copy := ent 1000 0 actPrefetch [0x10000, 0, 0x2000, 0x20]
    let far := ent 1000 0 actPrefetch [0x10000, 0, 0x2000, 0x40000000]
    let point := ent 1000 0 actCheckpoint [0x10000, 0, 0x2000, 0x20]
    let skips := withEntry timed point
    let writes := { skips with sched := { skips.sched with tollResult := 1 } }
    (firing (withEntry timed wake) 0 0 actWake true = some wake ∧ Signals (withEntry timed wake) 0 wake) ∧
    (firing (withEntry timed copy) 0 0 actPrefetch true = some copy ∧
      keyRemote (entryKey (withEntry timed copy) 0 0 copy.source) = false) ∧
    (firing (withEntry lent far) 0 0 actPrefetch true = some far ∧
      keyRemote (entryKey (withEntry lent far) 0 0 far.source) = true ∧
      lenderCtxs (withEntry lent far) (entryWho 0 0) far.source ≠ []) ∧
    (firing writes 0 0 actCheckpoint true = some point ∧ writes.sched.tollResult = 1 ∧
      keyRemote (entryKey writes 0 0 point.source) = false) ∧
    (firing skips 0 0 actCheckpoint true = some point ∧ skips.sched.tollResult ≠ 1 ∧ Signals skips 0 point) := by
  unfold Signals PlainStore; decide +kernel

/-- From hub SRAM to hub SRAM, in flight; and one that has waited the whole WAIT_LIMIT. -/
theorem wit_CopiesLandOrFail :
    let e := { ent 1000 0 actPrefetch [0x10000, 0x20000, 0x00002000, 0x20000001] with phase := .inFlight }
    let s := withEntry timed e
    let old := { ent 0 0 actPrefetch [0x10000, 0x20000, 0x00002000, 0x20000001] with phase := .inFlight, missed := true }
    let late := { withEntry timed old with bell := { timed.bell with count := BitVec.ofNat 64 (s.regN (pnAlm 0) 0x100) } }
    (entryOf s 0 0 0 = some e ∧ Signals s 0 e ∧ ringRuns s 0 = true ∧ keyRemote (entryKey s 0 0 e.source) = false ∧
      keyRemote (entryKey s 0 0 e.target) = false ∧ badUnit s (entryKey s 0 0 e.source) e.bytes = none ∧
      PlainStore s (entryKey s 0 0 e.target) e.bytes) ∧
    (e.phase = .inFlight ∧ e.action = actPrefetch ∧ e.copying = none ∧ e.moved = false ∧ e.missed = false ∧
      movesData e.action = true) ∧
    (entryOf late 0 0 0 = some old ∧ Signals late 0 old ∧ old.phase ≠ .done ∧ old.fallback = fbWait ∧
      ringSelfTimed late 0 = false ∧ old.deadline + late.regN (pnAlm 0) 0x100 ≤ late.bell.count.toNat) := by
  unfold Signals PlainStore; decide +kernel

/-- One tick past the deadline of a WAKE and of a copy, with each fallback of the statement. -/
theorem wit_DeadlineMissed_wake : let e := ent 999 0 actWake [0]
    let s := withEntry timed e
    entryOf s 0 0 0 = some e ∧ hasDeadline e = true ∧ e.phase ≠ .done ∧ e.missed = false ∧ ¬ movesData e.action = true ∧
      ringSelfTimed s 0 = false ∧ e.deadline < s.bell.count.toNat := by decide +kernel

theorem wit_DeadlineMissed_recompute : let e := ent 999 0 (actPrefetch + 16 * fbRecompute) [0x10000, 0, 0x2000, 0x20]
    let s0 := withEntry { timed with pages := timed.pages ++ [(pnAlm 0, { regs := [(0x210, 0x10000), (0x214, 0x2000)] })] } e
    let s := memWrite s0 0x200000010000 (leBytes 4 0x20000 ++ leBytes 4 0x2000 ++ leBytes 4 1)
    let who := entryWho 0 0
    let at_ := fallbackKey s 0 0 e
    let ws := viewWords s (keyOf s who at_) 4
    entryOf s 0 0 0 = some e ∧ hasDeadline e = true ∧ e.missed = false ∧ e.deadline < s.bell.count.toNat ∧
      ringSelfTimed s 0 = false ∧ movesData e.action = true ∧ e.fallback = fbRecompute ∧ tierOf at_ ≠ 4 ∧ e.phase = .waiting ∧
      granted s who false at_ 16 = true ∧ badUnit s (keyOf s who at_) 16 = none ∧ bits (wordAt ws 1) 31 24 = 0 ∧
      bits (wordAt ws 2) 31 12 = 0 ∧ bits (wordAt ws 2) 11 0 = 1 ∧ wordAt ws 3 = 0 ∧ wordAt ws 0 + 2 ^ 32 * bits (wordAt ws 1) 15 0 = 0x200000020000 ∧
      granted s who false 0x200000020000 64 = true ∧ bits (wordAt ws 1) 23 16 = 0 ∧ partOfCore s 0 = some who.part := by
  decide +kernel

theorem wit_DeadlineMissed : ∀ fb ∈ [fbWait, fbSkip], let e := ent 999 0 (actPrefetch + 16 * fb) [0x10000, 0, 0x2000, 0x20]
    let s := withEntry timed e
    entryOf s 0 0 0 = some e ∧ hasDeadline e = true ∧ movesData e.action = true ∧ e.phase ≠ .done ∧ e.missed = false ∧
      ringSelfTimed s 0 = false ∧ e.deadline + 1 = s.bell.count.toNat ∧ e.fallback = fb ∧ Signals s 0 e ∧
      (s.page (pnAlm 0)).evtStatus.getLsbD 0 = false := by
  unfold Signals PlainStore; decide +kernel

theorem wit_SendAndReceiveArm :
    let e := ent 1000 0 actSend [0x10000, 4095, 0, 0x20]
    let r := ent 1000 0 actRecv [0x10000, 0x20000, 0x0FFF2000, 0]
    let s := readyPeer (withEntry timed e) 4095 0
    let u := readyPeer (withEntry timed r) 4095 0
    (firing s 0 0 actSend true = some e ∧ e.target = 4095 ∧ (s.peer 4095).phase = .ready ∧ (s.peer 4095).part = ringPart 0) ∧
    (firing (withEntry timed e) 0 0 actSend true = some e ∧ ((withEntry timed e).peer e.target).phase ≠ .ready ∧
      Signals (withEntry timed e) 0 e) ∧
    (firing u 0 0 actRecv true = some r ∧ r.source = 4095 ∧ (u.peer 4095).phase = .ready ∧ (u.peer 4095).part = ringPart 0 ∧
      (u.links.rtsWaits.find? fun w => w.ctx == r.source) = none) := by
  unfold Signals PlainStore; decide +kernel

/-- An entry of partition 1, for a context of partition 0. -/
theorem wit_SendAndReceiveArm_foreign :
    let at_ (e : Entry) : State :=
      let s := (timed.modDie 0 fun v => v.setRing 8 { entries := [e] }).modPart 1 fun p => { p with ctxs := [(0, { phase := .runnable })], cur := some 0 }
      readyPeer s 4095 0
    let e := ent 1000 0 actSend [0x10000, 4095, 0, 0x20]
    let r := ent 1000 0 actRecv [0x10000, 0x20000, 0x0FFF2000, 0]
    ringPart 8 = 1 ∧
    (∀ v ∈ [(e, actSend, 4095), (r, actRecv, 4095)], firing (at_ v.1) 0 8 v.2.1 true = some v.1 ∧
      entryCtxOk (at_ v.1) 8 v.2.2 = false ∧ Signals (at_ v.1) 8 v.1) ∧ e.target = 4095 ∧ r.source = 4095 := by
  unfold Signals PlainStore; decide +kernel

/-- With 256 ticks to go, with 255, and self-timed. -/
theorem wit_BoundaryArmed :
    (∀ t ∈ [1256, 1255], armable (withEntry (trains 1 0) (ent t 0 actBoundary [])) 0 0 = some (ent t 0 actBoundary []) ∧
      ringSelfTimed (trains 1 0) 0 = false ∧ ((withEntry (trains 1 0) (ent t 0 actBoundary [])).die 0).armed = none) ∧
    armable (withEntry run (ent 0 0 actBoundary [])) 0 0 = some (ent 0 0 actBoundary []) ∧ ringSelfTimed run 0 = true := by
  decide +kernel

theorem wit_StepBoundaryDecides : ∀ r ∈ [none, some TollResult.commit, some .fail, some .split],
    let s := (trains 1 0).modDie 0 fun v => { v with armed := some (1000, 0, 0) }
    let t := { s with sched := { s.sched with held := r } }
    trainingPart t = some 0 ∧ leadDie t 0 = some 0 ∧ (t.die 0).armed = some (1000, 0, 0) ∧
      boundaryDue t 0 1000 = true := by decide +kernel

/-- The root of a tree of four with a child to come, a leaf, a device alone, and a level's deadline with the vote and
without it. -/
theorem wit_TollVotes :
    let e := ent 1000 0 actToll [0]
    let root := withEntry (trains 4 0) e
    let leaf := readyPeer (withEntry (trains 4 3) e) 7 2
    let alone := withEntry (trains 1 0) e
    let v : Vote := { result := .commit, epoch := 0, crc := 0 }
    let at_ (votes : SMap Vote) : State :=
      { root with sched := { root.sched with combined := some (v, 0), tollTime := some (BitVec.ofNat 64 (1000 - tollHop root)),
                                             childVotes := votes } }
    (trainingJob root = some (0, job 4 0) ∧ tollDue root 0 0 = some e ∧ ringSelfTimed root 0 = false ∧ topLevel 4 0 ≠ 0) ∧
    (trainingJob leaf = some (0, job 4 3) ∧ tollDue leaf 0 0 = some e ∧ topLevel 4 3 = 0 ∧
      jobRankCtx leaf 0 (job 4 3) (parentRank 4 3) = some 7 ∧ (leaf.peer 7).phase = .ready) ∧
    (trainingJob alone = some (0, job 1 0) ∧ tollDue alone 0 0 = some e ∧ topLevel 1 0 = 0 ∧ e.phase = .waiting) ∧
    (0 + 1 < topLevel 4 0 ∧ childAt 4 0 1 = some 1 ∧ (at_ []).sched.selfTimed = false ∧
      (1000 - tollHop root) + (0 + 1) * tollHop root ≤ (at_ []).bell.count.toNat ∧
      mget? (at_ [(1, v)]).sched.childVotes 1 = some v ∧ mget? (at_ []).sched.childVotes 1 = none) := by decide +kernel

theorem wit_WindowsOpenAndClose :
    let e := ent 1000 0 actEval [0]
    let r := ent 1000 0 actRetrain [0]
    let flies (e : Entry) : Entry := { e with phase := .inFlight }
    let open_ := (withEntry timed (flies r)).modDie 0 fun v => { v with retrainOpen := [(0, 0)] }
    let s := (withEntry timed r).modDie 0 fun v => { v with hbm0 := { ready := true }, hbm1 := { ready := true } }
    (firing (withEntry timed e) 0 0 actEval (ringSelfTimed timed 0) = some e) ∧
    (windowEnds (withEntry timed (flies e)) 0 0 actEval = some (flies e) ∧ Signals (withEntry timed (flies e)) 0 (flies e)) ∧
    (firing s 0 0 actRetrain (ringSelfTimed s 0) = some r ∧
      ∀ k, k < 2 → (s.hbmc 0 k).ready = true ∧ (s.hbmc 0 k).repairQ = [] ∧ (s.hbmc 0 k).retraining = none ∧
        (s.hbmc 0 k).trigWait = [] ∧ nextChannel (s.hbmc 0 k) (s.hbmc 0 k).nextCh = some 0) ∧
    (windowEnds open_ 0 0 actRetrain = some (flies r) ∧ Signals open_ 0 (flies r) ∧ (open_.die 0).retrainOpen = [(0, (flies r).pos)]) := by
  unfold Signals PlainStore; decide +kernel

/-! ### The bell -/

/-- The domain BOOT on and off, a pause, and a WAIT of the context that runs. -/
theorem wit_BellCounts :
    let w := cmd opWait []
    (domOn up bootDomain = true ∧ up.power.modRst = false ∧ up.bell.pauseLeft = 0) ∧
    ¬ domOn { up with power := {} } bootDomain = true ∧
    ({ up with bell := { pauseLeft := 1 } } : State).bell.pauseLeft ≠ 0 ∧
    (((holding w).core 0).ring 0).hold = some w ∧ w.opcode = opWait ∧ ((holding w).core 0).cur = some 0 ∧
      ((holding w).core 0).incoming = none ∧
    ({ up with bell := { count := 0xFFFFFE } } : State).bell.count + 1 = 0xFFFFFF ∧ up.dies = [] := by decide +kernel

/-- The one entry of ring 0, a window whose time is the next tick's and whose gate is not met, and the same with its gate met. -/
theorem wit_BellCounts_skipped : ∀ gate ∈ [65536, 0],
    let e := ent 1001 0 (actRetrain + gate) [0]
    let s := withEntry timed e
    let now : State := { s with bell := { s.bell with count := s.bell.count + 1, ticks := s.bell.ticks + 1 } }
    let settled (d k : Nat) : List Entry := ((s.die d).ring k).entries.map (sampleGate now k)
    let skipped := s.dies.flatMap fun d => d.2.rings.flatMap fun r =>
      ((r.2.entries.map (sampleGate now r.1)).filter isSkipped).map fun e => (d.1, r.1, e)
    let v := sampleGate now 0 e
    skipped = (if gate = 0 then [] else [(0, 0, v)]) ∧ settled 0 0 = [v] ∧ v.gate = some (gate == 0) ∧
      ((s.die 0).ring 0).fetched = ((s.die 0).ring 0).tail ∧ Signals s 0 v ∧ s.bell.pauseLeft = 0 := by
  unfold Signals PlainStore; decide +kernel

/-- An enabled unit that may lock, with the epoch number 1 loaded; and a locked one on its multiple and off it. -/
def referenced (b : Bell) : State :=
  { run with pages := mset {} run.pages pnBell { regs := [(0x010, 1), (0x108, 1)] }, bell := b }
def epochNumber (s : State) : Nat := s.regN pnBell 0x108 + 2 ^ 32 * bits (s.regN pnBell 0x10C) 7 0
theorem wit_EpochMarksLock :
    (bellEn (referenced {}) = true ∧ bellSrcPort (referenced {}) = false) ∧
    (epochNumber (referenced { goodWindows := 2 }) * 2 ^ 24 % 2 ^ 64 = 0x1000000 ∧
      (referenced { goodWindows := 2 }).bell.everLocked = false ∧ trainingPart (referenced { goodWindows := 2 }) = none ∧
      (referenced { goodWindows := 2 }).bell.count.toNat ≤ 0x1000000 ∧ ∀ d ∈ (referenced { goodWindows := 2 }).dies, d.2.rings = []) ∧
    (referenced { count := 0x1000000, goodWindows := 2 }).bell.count.toNat = 0x1000000 ∧
    (referenced { goodWindows := 1 }).bell.goodWindows < 2 ∧
    ((referenced { count := 1, locked := true }).bell.count.toNat % 2 ^ 24 ≠ 0 ∧
      (referenced { locked := true }).bell.count.toNat % 2 ^ 24 = 0 ∧ (referenced { locked := true }).bell.pauseLeft = 0) := by
  decide +kernel

theorem wit_ReferenceFails : (∀ ppm ∈ [(-200 : Int), 200], -200 ≤ ppm ∧ ppm ≤ 200) ∧
    (∀ ppm ∈ [(-201 : Int), 201], ppm < -200 ∨ 200 < ppm) ∧ timed.bell.locked = true ∧ up.bell.locked = false ∧
    (up.power.modRst = false ∧ domOn up bootDomain = true) ∧ ¬ domOn { up with power := {} } bootDomain = true := by decide

/-! ### Messages of the links -/

/-- A message for context 4095 at level 2. -/
def msg (addr operand : Nat) (bs : List Byte := []) : LinkMsg :=
  { port := 0, ctx := 4095, mseq := 0, level := 2, subop := 0, address := BitVec.ofNat 48 addr,
    operand := BitVec.ofNat 64 operand, operand2 := 0, reqTag := 0, data := bs, tagOk := true }
def linked : State := readyPeer timed 4095 1

/-- Not READY, a bad tag in a sealed context, another level, the oldest duplicate, the nearest one, and one ahead. -/
theorem wit_MessagesKeepOrder :
    let m := msg 0 0
    let sealedCtx : State := { timed with links := { peers := [(4095, { phase := .ready, words := [0x280] })] } }
    let p := sealedCtx.peer 4095
    (up.peer 4095).phase ≠ .ready ∧
    (p.phase = .ready ∧ p.sealedCtx = true ∧
      (p.tagFails.filter fun t => decide (sealedCtx.bell.count.toNat ≤ t.toNat + p.timeout)).length < 3) ∧
    ((linked.peer 4095).phase = .ready ∧ (linked.peer 4095).sealedCtx = false ∧
      ({ m with level := 3 } : LinkMsg).level.toNat ≠ (linked.peer 4095).level ∧ m.level.toNat = (linked.peer 4095).level) ∧
    (∀ n ∈ [0x800000, 0xFFFFFF], 2 ^ 23 ≤ (BitVec.ofNat 24 n - (linked.peer 4095).recvSeq).toNat) ∧
    (∀ r ∈ linked.links.rtsWaits, r.ctx ≠ 4095) ∧
    (∀ n ∈ [1, 0x7FFFFF], parkedFor linked 4095 < (BitVec.ofNat 24 n - (linked.peer 4095).recvSeq).toNat ∧
      (BitVec.ofNat 24 n - (linked.peer 4095).recvSeq).toNat < 2 ^ 23) := by decide +kernel

/-- A message that is parked while its context is out, with a buffer that has room, and that has been full. -/
theorem wit_MessagesKeepOrder_parked : ∀ full ∈ [false, true], let s := linked.modPart 0 fun p => { p with cur := some 1, parkFull := full }
    let m := msg 0x200000010000 0
    (s.peer 4095).phase = .ready ∧ (s.peer 4095).sealedCtx = false ∧ m.level.toNat = (s.peer 4095).level ∧
      (s.peer 4095).fabric = false ∧ parks s 4095 .write m = true ∧ (s.part (s.peer 4095).part).parkFull = full := by decide +kernel

/-- The last bytes of the grant, and one byte past it. -/
theorem wit_WriteMessageStores_unwritten : let s := { linked with bad := [0x200000FFFFF8] }
    let m := msg 0x200000FFFFFE 0 [1, 2]
    Taken s .write m ∧ linkTarget s (peerWho (s.peer 4095)) 0x200000FFFFFE 2 = some 0x200000FFFFFE ∧
      (memStores (countLent (s.setPeer 4095 { s.peer 4095 with recvSeq := 1 }) (s.peer 4095) 0x200000FFFFFE 2) false
        [(0x200000FFFFFE, [1, 2])]).2 = some 0x200000FFFFF8 := by unfold Taken; decide +kernel

theorem wit_WriteMessageStores : ∀ a ∈ [0x200000FFFFFE, 0x200000FFFFFF], let m := msg a 0 [1, 2]
    let w := peerWho (linked.peer 4095)
    Taken linked .write m ∧ ((linkTarget linked w a 2).isSome = true ↔ a = 0x200000FFFFFE) ∧ keyOf linked w a = a ∧
      PlainStore linked (keyOf linked w a) 2 := by
  unfold Taken PlainStore; decide +kernel

theorem wit_ReadsAndAtomicsAnswered :
    let w := peerWho (linked.peer 4095)
    let a := 0x200000FFFFF8
    let marred := { linked with bad := [a] }
    (Taken linked .read (msg a 8) ∧ linkTarget linked w a 8 = some a ∧ badUnit linked a 8 = none) ∧
    (Taken marred .read (msg a 8) ∧ linkTarget marred w a 8 = some a ∧ badUnit marred a 8 = some a) ∧
    (Taken linked .read (msg a 9) ∧ linkTarget linked w a 9 = none) ∧
    (Taken linked .atomic (msg a 8) ∧ a % 8 = 0 ∧ tierOf a = 2 ∧ (linkTarget linked w a 8).isSome = true ∧
      (msg a 8).subop.toNat ≤ atomicTop (linked.peer 4095) ∧ atomicTop (linked.peer 4095) < 2 ∧ badUnit linked a 8 = none ∧ PlainStore linked a 8) ∧
    (Taken linked .atomic (msg (a - 4) 8) ∧ ¬ (a - 4) % 8 = 0) := by
  unfold Taken PlainStore; decide +kernel

/-- A message of a context that waits for its answer. -/
def asks (op : MsgOp) (w : Waiter) : Unacked :=
  { msg := { ctx := 4095, op := op, mseq := 0 }, sentAt := some 0, resent := 0, waiter := w, flits := 1, left := 0,
    key := 0x200000100000 }
def asking (s : State) (u : Unacked) : State :=
  { s with links := { s.links with peers := mset {} s.links.peers 4095 { s.peer 4095 with asked := [u] } } }
/-- A link request of partition 0 that waits for its one message. -/
def req (kind : Nat) (f : LinkReq → LinkReq := id) : LinkReq :=
  f { pos := 0, words := (List.range 16).map fun k => if k = 0 then BitVec.ofNat 32 (kind + 4095 * 65536) else 0 }
def requested (s : State) (r : LinkReq) : State := s.modReqRing 0 fun v => { v with inFlight := [r] }

theorem wit_AnswersTaken :
    let m := msg 0 7
    let c := cmd opGather []
    let uc := asks .read (.command 0 .mq 0)
    let ue := asks .read (.entry 0 0 0)
    let uq := asks .atomic (.request 0 0)
    let r := req kindAtomic fun r => { r with waiting := 1, sent := 1 }
    let sc := asking (linked.modCore 0 fun k => { k with mq := [c], reads := some 2 }) uc
    let se := asking (withEntry linked (ent 0 0 0 [])) ue
    let sq := asking (requested linked r) uq
    m.subop = 0 ∧
    (Taken sc .readResp m ∧ ((sc.peer 4095).asked.find? fun v => v.msg.op == .read && v.msg.reqTag == m.reqTag) = some uc ∧
      (sc.core 0).reads = some (0 + 2) ∧ frontOfMq sc 0 0 = some c) ∧
    (Taken se .readResp m ∧ ((se.peer 4095).asked.find? fun v => v.msg.op == .read && v.msg.reqTag == m.reqTag) = some ue ∧
      entryOf se 0 0 0 = some (ent 0 0 0 [])) ∧
    (Taken sq .atomicResp m ∧
      ((sq.peer 4095).asked.find? fun v => v.msg.op == .atomic && v.msg.reqTag == m.reqTag) = some uq ∧
      reqOf sq 0 0 = some r ∧ r.finished = false ∧ r.waiting = 1 ∧ r.sent = 1 ∧ r.kind = kindAtomic ∧
      PlainStore sq uq.key 8) := by
  unfold Taken PlainStore; decide +kernel

/-- A data message that says its tile could not be read. -/
theorem wit_TilesTransferred_lost :
    let r : Recv := { die := 0, ring := 0, pos := 0, ctx := 4095, target := 0x200000100000, size := 2, matched := some 2 }
    let e := { ent 1000 0 actRecv [0] with phase := .inFlight }
    let s0 := withEntry linked e
    let s := { s0 with links := { s0.links with recvs := [r] } }
    let m := { msg 0 0 with subop := 1 }
    Taken s .tileData m ∧ m.subop ≠ 0 ∧ (s.links.recvs.find? fun r => r.ctx == 4095 && r.matched.isSome) = some r ∧
      r.dead = false ∧ entryOf s 0 0 0 = some e ∧ Signals s 0 e := by
  unfold Signals Taken PlainStore; decide +kernel

/-- A reception of two bytes: not armed, armed, and with its last byte to come or both. -/
theorem wit_TilesTransferred :
    let r : Recv := { die := 0, ring := 0, pos := 0, ctx := 4095, target := 0x200000100000, size := 2 }
    let matched := { r with matched := some 2 }
    let e := { ent 1000 0 actRecv [0] with phase := .inFlight }
    let armed (r : Recv) : State := let s := withEntry linked e; { s with links := { s.links with recvs := [r] } }
    let s := armed matched
    (Taken linked .tileRts (msg 0 2) ∧ (∀ w ∈ linked.links.rtsWaits, w.ctx ≠ 4095) ∧
      (linked.links.recvs.find? fun r => r.ctx == 4095 && r.matched.isNone) = none) ∧
    (Taken (armed r) .tileRts (msg 0 2) ∧ ((armed r).links.recvs.find? fun r => r.ctx == 4095 && r.matched.isNone) = some r ∧
      r.size = (msg 0 2).operand.toNat) ∧
    (Taken s .tileData (msg 0 0 [1]) ∧ (s.links.recvs.find? fun r => r.ctx == 4095 && r.matched.isSome) = some matched ∧
      matched.dead = false ∧ entryOf s 0 0 0 = some e ∧ PlainStore s (entryKey s 0 0 0x200000100000) 1 ∧
      matched.landed + ([1] : List Byte).length < matched.matched.getD 0) ∧
    (Taken s .tileData (msg 0 0 [1, 2, 3]) ∧ PlainStore s (entryKey s 0 0 0x200000100000) 2 ∧
      matched.matched.getD 0 ≤ matched.landed + (([1, 2, 3] : List Byte).take (matched.matched.getD 0 - matched.landed)).length ∧
      Signals s 0 e) := by
  unfold Signals Taken PlainStore; decide +kernel

theorem wit_CollectivesAndVotesArrive :
    let m := msg 0 0
    let r := req kindReduce
    let s := readyPeer (trains 2 0) 4095 1
    let u := requested s r
    let seen := { s with sched := { s.sched with tollSeen := true } }
    (Taken s .collective m ∧ collFor s 0 0 m = none) ∧
    (Taken u .collective m ∧ collFor u 0 0 m = some r ∧ reqOf u 0 0 = some r ∧ jobOf u 0 0 = some (job 2 0) ∧
      r.finished = false ∧ m.reqTag.toNat % 2 ^ 48 ≠ collHeader r 0) ∧
    (trainingJob s = some (0, job 2 0) ∧ (s.peer 4095).rankValid = true ∧ Taken s .vote m ∧ s.sched.selfTimed = false) ∧
    (Taken seen .result m ∧ seen.sched.tollSeen = true ∧ seen.sched.held = none) ∧
    ({ seen with sched := { seen.sched with held := some .commit } } : State).sched.held ≠ none := by
  unfold Taken; decide +kernel

/-! ### Peer contexts and ports -/

/-- A context table in hub SRAM, with a record that opens and one that does not. -/
def tabled (w0 : Nat) : State :=
  let s := { run with pages := mset {} run.pages pnLinkCtx { regs := [(0x100, 0x10000), (0x104, 0x2000)] } }
  let h := s.setHalf 0 { state := .up, level := 2 }
  memWrite (memWrite h (ctxTableKey h 0) (leBytes 4 w0)) (ctxTableKey h 0 + 4) (leBytes 4 1)

theorem wit_PeerContextsOpenAndClose :
    let rec_ (s : State) : Peer := { words := ctxRecord (disarm s pnLinkCtx) 0 }
    (∀ w ∈ [0x201, 0x200], let s := tabled w
      Served s 0 linkCmdAddr true ∧ (s.peer 0).phase = .closed ∧ tierOf (ctxTableKey s 0) = 2 ∧
        bits (ctxTableKey s 0) 43 26 = 0 ∧ badUnit (disarm s pnLinkCtx) (ctxTableKey s 0) 64 = none ∧
        (openRefusal (disarm s pnLinkCtx) (rec_ s) = 0 ↔ w = 0x201) ∧ (s.peer 0).peerOpen = none) ∧
    (Served linked 0 linkCmdAddr true ∧ (linked.peer 4095).phase ≠ .closed ∧
      ∀ u ∈ (linked.peer 4095).unacked ++ (linked.peer 4095).asked, u.waiter = .nobody) ∧
    (let s : State := { up with links := { peers := [(4095, { phase := .opening, words := [0x200] })] } }
     (s.peer 4095).phase = .opening ∧ (msg 0 0).level.toNat = (s.peer 4095).level ∧ (s.peer 4095).sealedCtx = false ∧
       ({ msg 0 0 with level := 3 } : LinkMsg).level.toNat ≠ (s.peer 4095).level) ∧
    (up.peer 4095).phase = .closed := by unfold Served; decide +kernel

theorem wit_MessagesRetired :
    let sends (s : State) (u : Unacked) : State :=
      { s with links := { s.links with peers := mset {} s.links.peers 4095 { s.peer 4095 with unacked := [u] } } }
    let u := asks .write .nobody
    let v := asks .write (.command 0 .mq 0)
    let f : InFlight := { queue := .mq, cmd := cmd opMove [], status := 0, linkWait := 1 }
    let s := sends linked u
    let sv := sends (linked.modCore 0 fun k => { k with inflight := [f] }) v
    let rto := max 1 (bits (s.regN pnLinkCtx 0x114) 15 0)
    let due (n : Nat) : State := { s with bell := { s.bell with count := BitVec.ofNat 64 n } }
    let out (n : Nat) : State := { (sends linked { u with left := 1, flits := 2 }).modPart 0 fun p => { p with cur := some 1 } with
      bell := { count := BitVec.ofNat 64 n } }
    (((s.peer 4095).unacked.find? fun u => u.msg.mseq == 0) = some u ∧ u.waiter = .nobody ∧ (s.peer 4095).phase = .ready) ∧
    (((sv.peer 4095).unacked.find? fun u => u.msg.mseq == 0) = some v ∧ v.msg.op = .write ∧
      ((sv.core 0).inflight.find? fun f => f.queue == .mq && f.cmd.idx == 0) = some f) ∧
    (∀ n ∈ [rto, rto - 1], (((due n).peer 4095).unacked.any fun u => u.msg.mseq == 0 && u.left == 0 &&
      decide (u.resent.toNat + rto ≤ (due n).bell.count.toNat)) = decide (n = rto)) ∧
    (let t := due (s.peer 4095).timeout
     u ∈ (t.peer 4095).unacked ∧ (t.peer 4095).phase = .ready ∧ u.msg.op ≠ .tileRts ∧
      (u.sentAt.getD 0).toNat + (t.peer 4095).timeout ≤ t.bell.count.toNat ∧
      (∀ v ∈ (t.peer 4095).unacked ++ (t.peer 4095).asked, v.waiter = .nobody) ∧ (∀ r ∈ t.links.recvs, r.ctx ≠ 4095) ∧ (t.reqRing (t.peer 4095).part).inFlight = []) ∧
    (∀ n ∈ [7812, 7813], drainOver (out n) ((out n).peer 4095).part = decide (n = 7813) ∧
      peerOut (out n) ((out n).peer 4095) = true ∧
      ((out n).peer 4095).unacked.any (fun u => u.started && u.left != 0) = true) := by
  decide +kernel

theorem wit_PortsTrain :
    let r : TrainReport := { okA := true, okB := true, delay := 5, credits := [] }
    let on := up.modPage (pnLink 11) fun p => { p with regs := [(0x010, 1)] }
    let n := up.setHalf 22 { state := .negotiating }
    (Served on 0 (linkCtlAddr 11) true ∧ ctlLocked (on.regN (pnLink 11) 0x010) 0x11 = true) ∧
    (Served up 0 (linkCtlAddr 11) true ∧ ctlLocked (up.regN (pnLink 11) 0x010) 1 = false ∧
      (up.regN (pnLink 11) 0x010).testBit 0 = false ∧ (1 : Word).getLsbD 0 = true) ∧
    (r.okA = true ∧ ({ r with okA := false } : TrainReport).okA = false) ∧
    ((n.half 22).state = .negotiating ∧ (∀ h ∈ [2, 3], max 2 0 ≤ min 3 h) ∧ min 3 1 < max 2 0) ∧
    (up.half 22).state ≠ .negotiating := by unfold Served; decide +kernel

theorem wit_FlitsTaken :
    let s := up.setHalf 23 { state := .up }
    let fab := (up.modPage (pnLink 11) fun p => { p with regs := [(0x010, 0xC)] }).setHalf 22 { state := .up }
    let f : LinkFrame := { port := 22, dest := halfMac fab 22, fcsOk := true, flits := [],
                           etherType := BitVec.ofNat 16 (bits (fab.regN (halfPage 22) 0x100) 15 0) }
    (halfUp s 23 = true ∧ s.links.peers = [] ∧ halfUp up 23 = false) ∧
    ((fab.half f.port).state = .up ∧ halfFabric fab f.port = true ∧ f.fcsOk = true ∧
      f.etherType.toNat = bits (fab.regN (halfPage f.port) 0x100) 15 0 ∧ f.dest = halfMac fab f.port) ∧
    (halfFabric s 23 = false ∧ (s.half 23).state = .up ∧ bellSource s ≠ some 23 ∧ bellSrcPort s = false) ∧
    (let b : State := { s with bell := { locked := true }, pages := mset {} s.pages pnBell { regs := [(0x010, 0x02)] } }.setHalf 0 { state := .up }
     halfFabric b 0 = false ∧ (b.half 0).state = .up ∧ bellSource b = some 0 ∧ b.bell.locked = true) := by decide +kernel

theorem wit_PortsRetrain :
    let s (run : Nat) (due : Bool) : State := up.setHalf 23 { state := .up, replayRun := run, retrainDue := due }
    let r (n : Nat) : State := up.setHalf 23 { state := .retraining, failedRetrains := n }
    (((s 0 true).half 23).state = .up ∧ wantsRetrain (s 0 true) 23 = true ∧ halfFabric (s 0 true) 23 = false ∧
      wantsRetrain (s 8 false) 23 = true ∧ wantsRetrain (s 7 false) 23 = false) ∧
    (((r 1).half 23).state = .retraining ∧ ((r 1).half 23).failedRetrains < 2 ∧ 2 ≤ ((r 2).half 23).failedRetrains) := by
  decide +kernel

theorem wit_DieLinkReplays : ∀ n ∈ [14, 15], let s := setD2d run 15 { replays := n, replaying := true }
    (d2dOf s 15).down = false ∧ ((d2dOf s 15).replays < 15 ∨ 15 ≤ (d2dOf s 15).replays) ∧
      ((s.part 0).ctx 0).phase ≠ .free := by decide +kernel

/-! ### Link requests -/

/-- Words in memory. -/
def place (s : State) (a : Nat) (ws : List (Nat × Nat)) : State :=
  ws.foldl (fun (t : State) e => memWrite t (a + 4 * e.1) (leBytes 4 e.2)) s

/-- Partition 0 with a link request ring at 0x30000 that holds one record, and a READY context 7 with rank 1. -/
def asked (ws : List (Nat × Nat)) : State :=
  let s := readyPeer (trains 2 0) 7 1
  let r := { s with pages := mset {} s.pages pnLinkCtx { regs := [(0x200, 0x30000), (0x204, 0x2000)] } }
  place (r.modReqRing 0 fun v => { v with tail := 1 }) 0x200000030000 ws
def firstReq (s : State) : LinkReq := { pos := 0, words := viewWords s (reqKey s 0 0) 16 }

theorem wit_RequestsStart :
    let body := [(2, 0x40000), (3, 0x2000), (4, 0x50000), (5, 0x2000)]
    let starts (s : State) : Bool :=
      let r := firstReq s
      badUnit s (reqKey s 0 0) 64 == none && s.softBad == [] && !reqReserved r && checkTransfer s 0 r == 0 &&
        segOpen s 0 r 0 && (s.peer r.ctx).phase == .ready && reqPlaced s 0 && (s.reqRing 0).inFlight == [] &&
        decide ((s.reqRing 0).started ≠ (s.reqRing 0).tail)
    (∀ k ∈ [kindWrite, kindRead], let s := asked ([(0, k + 7 * 65536), (6, 65536)] ++ body)
      starts s = true ∧ (firstReq s).kind = k ∧ (firstReq s).length ≤ 65536 ∧
        badUnit s (keyOf s (reqWho 0 (firstReq s)) (firstReq s).localAt) 65536 = none) ∧
    (let s := asked ([(0, kindAtomic + 7 * 65536)] ++ body)
     starts s = true ∧ (firstReq s).kind = kindAtomic) ∧
    (let s := asked [(14, 1)]
     (s.reqRing 0).inFlight = [] ∧ reqPlaced s 0 = true ∧ (s.reqRing 0).started ≠ (s.reqRing 0).tail ∧ ((s.reqRing 0).tail - (s.reqRing 0).started).toNat ≤ 2 ^ reqLog2 s 0 ∧
      badUnit s (reqKey s 0 0) 64 = none ∧ reqReserved (firstReq s) = true) ∧
    (Served up 0 (reqTailAddr 3) true ∧ (16 : BitVec 13).toNat ≤ 2 ^ reqLog2 up 3 ∧ 2 ^ reqLog2 up 3 < (17 : BitVec 13).toNat) := by
  unfold Served; decide +kernel

theorem wit_CollectivesPostAndComplete :
    let r := req kindReduce fun r => { r with finished := true }
    let s := requested (asked []) r
    let at_ := reqKey s 0 0 + 52
    (∀ k ∈ [kindReduce, kindGather, kindAllReduce], ∀ n ∈ [0, 16],
      let s := asked [(0, k), (2, 0x40000), (3, 0x2000), (4, 0x50000), (5, 0x2000), (6, n)]
      badUnit s (reqKey s 0 0) 64 = none ∧ s.softBad = [] ∧ reqPlaced s 0 = true ∧ reqReserved (firstReq s) = false ∧
        (firstReq s).isCollective = true ∧ (firstReq s).kind = k ∧ (s.reqRing 0).inFlight = [] ∧
        (checkColl s 0 (firstReq s) = 0 ↔ n = 16)) ∧
    (reqOf s 0 0 = some r ∧ reqPlaced s 0 = true ∧ r.finished = true ∧ PlainStore s at_ 4 ∧ PlainStore s (semKey s 0 0 0) 4) := by
  unfold PlainStore; decide +kernel

/-! ### HBM maintenance -/

theorem wit_ChannelsRetrain :
    let s (h : Hbmc) : State := up.modDie 3 fun v => { v with hbm1 := h }
    let busy : Hbmc := { ready := true, retraining := some (31, true) }
    let due := { s { ready := true } with bell := { ticks := up.regN (pnHbmc 3 1) 0x108 } }
    (((s { ready := true }).hbmc 3 1).ready = true ∧ ((s { ready := true }).hbmc 3 1).chExcluded.getLsbD 31 = false ∧
      ((s { ready := true }).hbmc 3 1).retraining = none ∧ ((s { ready := true }).hbmc 3 1).trigWait = []) ∧
    (((s busy).hbmc 3 1).retraining = some (31, true) ∧ ((s busy).hbmc 3 1).trigWait = [] ∧ ((s busy).die 3).retrainOpen = [] ∧
      (pinsAfter busy 62 [0, 1]).length = 2 ∧ (pinsAfter busy 63 [0, 1, 2]).length = 3) ∧
    ((due.hbmc 3 1).ready = true ∧
      due.regN (pnHbmc 3 1) 0x108 ≤ due.bell.ticks - mget 0 (due.hbmc 3 1).lastRetrain 31) ∧
    (trigThresh up 3 1 = 16 ∧ ∀ n ∈ [14, 15], let h : Hbmc := { ready := true, errors := [(31, 0 :: List.replicate n 1)] }
      let t := { s h with bell := { ticks := 65536 } }
      (((mget [] (t.hbmc 3 1).errors 31).filter fun k => decide (t.bell.ticks < k + 2 ^ 16)) ++ [t.bell.ticks]).length = n + 1) := by decide +kernel

/-! ### Jobs, contexts and slices -/

/-- Partition 0 without a context, with a record of a TRAINING job of this device alone on context 0. -/
def offered : State :=
  let grants : Page := { regs := [(0x100, 0xF), (0x104, 1), (0x10C, 0x100), (0x114, 0x2000), (0x118, 0x400000), (0x11C, 0x2000),
    (0x120, 0x21000), (0x124, 0x2000)] }
  let s := { up with pages := mset {} [(pnPart 0, grants)] pnSched { regs := [(0x114, 0x2000)] } }
  place (place s 0x200000020000
    [(0, 0x8004), (1, 0x810001), (8, 0x20100), (9, 0x2000)]) 0x200000021000 [(0, 0x120), (1, 7), (2, 0x20000), (3, 0x2000)]

theorem wit_JobsAdmitted :
    let s := offered
    let s0 := disarm s (pnPart 0)
    let at_ := s.regAddr (pnPart 0) 0x120
    let ws := viewWords s0 at_ 16
    let m := readMapping s0 0 ws
    let listed := m.2.2.findIdx? fun e => e.deviceId == s.fuses.deviceId
    let waits := { s.modPart 3 fun p => { p with admission := .pending, pendingJob := some (job 1 0) } with
      bell := { count := 156249999 } }
    (Served s 0 (jobCmdAddr 0) true ∧ (s.part 0).admission ≠ .pending ∧ quadsOf s 0 ≠ 0 ∧ (hubGrant s 0).2 ≠ 0 ∧
      partArea s0 0 at_ 64 64 = true ∧ badUnit s0 at_ 64 = none) ∧
    (checkAdmission s0 0 ws = 0 ∧ m.1.reason = 0 ∧ (readGranary s0 0 m.2.1.ranks listed).1.reason = 0 ∧
      (readBlocks s0 0 ws m.2.1.seed).1.reason = 0 ∧ sealedBad s0 0 ws m.2.2 = false ∧ listed = some 0) ∧
    (Served up 0 (jobCmdAddr 3) true ∧ (up.part 3).admission ≠ .pending ∧ quadsOf up 3 = 0) ∧ s.boot.minimal = false ∧
    (Served waits 0 (jobCmdAddr 3) true ∧ (waits.part 3).admission = .pending ∧ (waits.part 3).pendingJob = some (job 1 0) ∧
      waits.bell.count.toNat < (job 1 0).pendingAt.toNat + 156250000 ∧
      (job 1 0).pendingAt.toNat + 156250000 ≤ (156250000 : Long).toNat) := by unfold Served; decide +kernel

theorem wit_ContextsCommanded :
    let s := trains 1 0
    (Served s 1 (ctxCmdAddr 0) true ∧ ((s.part 0).ctx 0).phase ≠ .free) ∧
    (Served up 0 (ctxCmdAddr 3) true ∧ ((up.part 3).ctx 7).phase = .free) ∧
    (Served up 0 (jobCmdAddr 3) true ∧ ((up.part 3).jobs.find? fun j => j.ctxMask == 0) = none) ∧
    (Served s 0 (jobCmdAddr 0) true ∧ ((s.part 0).jobs.find? fun j => j.ctxMask == 1) = some (job 1 0) ∧
      maskCtxs (1 : BitVec 8).toNat = [0]) := by unfold Served; decide +kernel

/-- Contexts 0 and 1 in slices of 15625 ticks, at the first tick of the second slice and one before it. -/
def sliced (at_ : Nat) : State :=
  let a : Ctx := { phase := .runnable, sliceBt := 15625, saveOffset := 0x10000 }
  { run.modPart 0 fun p => { p with ctxs := [(0, a), (1, a)] } with bell := { count := BitVec.ofNat 64 at_ } }

theorem wit_SlicesSwitch :
    let s := sliced 15625
    let r := cmd opMatmul [(3, 16 + 4096)]
    let c : Chain := { slots := [1], cmds := [r] }
    let killed (n : Nat) : State := ((sliced n).modPart 0 fun p => { p with switchAt := some 15625 }).modCore 0 fun k =>
      { k with incoming := some (some 1), aq := [r], bottom := { slots := [(1, {})], chains := [c] } }
    let goes := (({ sliced 15625 with parts := [] }.setPart 0 { cur := some 1, ctxs := [(0, { phase := .runnable }), (1, { phase := .runnable })] })).modCore 39
      fun k => { k with cur := some 0, incoming := some (some 1) }
    (ctxDue s 0 = some 1 ∧ (s.part 0).cur = some 0 ∧ coresOfPart s 0 ≠ [] ∧
      ∀ g ∈ coresOfPart s 0, (s.core g).gather = none) ∧
    (ctxDue (sliced 15624) 0 = some 0 ∧ ((sliced 15624).part 0).cur = some 0) ∧
    (∀ n ∈ [15625, 15626, 18749, 18750], ((killed n).core 0).incoming ≠ none ∧ partOfCore (killed n) 0 = some 0 ∧
      ((killed n).core 0).queue .aq = [r] ∧ ((killed n).core 0).cur = some r.ctx ∧ r.edges = [false] ∧
      chainOf (((killed n).core 0).edge false) r = some c ∧ c.cmds = [r] ∧ ((killed n).core 0).atBoundary = [] ∧
      killDue (killed n) 0 = (n == 15625 || n == 18750)) ∧
    ((goes.core 39).incoming = some (some 1) ∧ partOfCore goes 39 = some 0 ∧ (goes.core 39).cur = some 0 ∧
      (goes.core 39).reads = none ∧ ((goes.part 0).ctx 0).phase ≠ .free ∧ ((goes.part 0).ctx 1).phase ≠ .free ∧
      (goes.part 0).parked = [] ∧ saveIntact (saveOut goes 0 39) 0 39 (some 1) = true) := by decide +kernel

/-- A save area one of whose units cannot be read. -/
theorem wit_SlicesSwitch_lost :
    let v : SavedCtx := { check := some (0, 0), bottom := { slots := [(0, {})] } }
    let goes := ((sliced 15625).modPart 0 fun p => { p with ctxs := mset {} p.ctxs 0 { phase := .runnable } }).modCore 39 fun k =>
      { k with cur := some 0, incoming := some (some 1), saved := [(1, v)] }
    let at_ := (saveSpans 39 ((goes.part 0).ctx 1) v).headD (0, 0)
    let s := { goes with bad := [at_.1] }
    saveIntact (saveOut s 0 39) 0 39 (some 1) = false ∧ (s.core 39).incoming = some (some 1) := by decide +kernel

/-! ### The seal unit -/

/-- A sealed partition with the programs given. -/
def bare (ps : List (BitVec 512)) : SealedPart :=
  { manifestHash := 0, level := 2, programs := ps, rules := [], peers := [], keyId := 1 }
/-- The seal unit's operands, past every grant of `run`: a manifest at 0x1100000, a report or an image beside it. -/
def sealing (s : State) (arg2 : Nat) : State :=
  let words : SMap Word :=
    [(0x104, 0x1100000), (0x108, 0x2000), (0x10C, BitVec.ofNat 32 arg2), (0x110, BitVec.ofNat 32 (arg2 / 2 ^ 32))]
  place { s with pages := mset {} s.pages pnSeal { regs := words } } 0x200001100000
    [(0, 0x4C374E47), (1, 0x314E414D), (2, 0x4000), (3, 1)]

theorem wit_SealUnitCommands :
    let closed (s : State) : State := s.modPart 0 fun p => { p with sealedPart := some (bare []) }
    let s := sealing run 0
    let s0 := disarm s pnSeal
    let head : Manifest := { bytes := viewBytes s0 (sealArg s) (manifestBody 0) }
    let n := manifestBody head.npeer + 64
    (Served s 0 sealCmdAddr true ∧ isSealed s 0 = false ∧ s.boot.minimal = false ∧ jobAdmitted s 0 = false ∧ s.sealU.identity = false) ∧
    (isSealed (closed s) 0 = true ∧ jobAdmitted (closed s) 0 = false) ∧
    (isSealed (trains 1 0) 0 = false ∧ (trains 1 0).boot.minimal = false ∧ jobAdmitted (trains 1 0) 0 = true) ∧
    (outsideGrants s0 (sealArg s) (manifestBody 1) = true ∧ badUnit s0 (sealArg s) (manifestBody 1) = none ∧
      manifestBad head = false ∧ slotsBad head = false ∧ outsideGrants s0 (sealArg s) n = true ∧
      badUnit s0 (sealArg s) n = none ∧ s.softBad = [] ∧ s.links.peers = []) := by unfold Served; decide +kernel

/-- A point that stands for the neutral one. -/
def Neutral (p : EdPoint) : Prop := p.x = 0 ∧ p.t = 0 ∧ p.y = p.z

theorem neutral_add (p q : EdPoint) (hp : Neutral p) (hq : Neutral q) : Neutral (p.add q) := by
  obtain ⟨px, pt, py⟩ := hp
  obtain ⟨qx, qt, qy⟩ := hq
  have hP : 0 < edP := by decide
  have hs (y : Nat) : edSub y 0 = y % edP := by simp [edSub]
  have hb (a : Nat) : edSub (a % edP) (a % edP) = 0 := by
    have := Nat.mod_lt a hP
    simp [edSub]
  have e1 : p.y % edP * (q.y % edP) % edP = p.y * q.y % edP := (Nat.mul_mod ..).symm
  have e2 : p.z * 2 * q.z % edP = (p.y * q.y % edP + p.y * q.y % edP) % edP := by
    rw [← Nat.add_mod, py, qy]; congr 1; ring
  simp only [Neutral, EdPoint.add, px, pt, qx, qt, hs, Nat.add_zero, e1, hb, e2]
  simp [hs]

theorem neutral_mul (n : Nat) : ∀ (p : EdPoint) (k : Nat), Neutral p → Neutral (p.mul n k) := by
  induction n with
  | zero => intro p k _; exact ⟨rfl, rfl, rfl⟩
  | succ n ih =>
    intro p k hp
    have h := ih (p.add p) (k / 2) (neutral_add p p hp hp)
    simp only [EdPoint.mul]
    split
    · exact neutral_add _ _ h hp
    · exact h

theorem edMul_zero (n : Nat) : ∀ p : EdPoint, p.mul n 0 = edZero := by
  induction n with
  | zero => intro p; rfl
  | succ n ih => intro p; simp [EdPoint.mul, ih]

/-- With the neutral point as key and as the first half of the signature, and 0 as its second, the signature of every message
holds. -/
theorem verify_neutral (msg : List Byte) : edVerify (leBytes 32 1) msg (leBytes 64 1) = true := by
  have h1 : edDecode (leBytes 32 1) = some edZero := by decide +kernel
  have h2 : edDecode (leBytes 64 1) = some edZero := by decide +kernel
  have h3 : ((leBytes 64 1).length == 64 && (leBytes 32 1).length == 32 && decide (ofLe ((leBytes 64 1).drop 32) < edL)) = true ∧
      ofLe ((leBytes 64 1).drop 32) = 0 := by decide +kernel
  have hz : Neutral edZero := ⟨rfl, rfl, rfl⟩
  have hs (p q : EdPoint) (hp : Neutral p) (hq : Neutral q) : p.same q = true := by
    obtain ⟨px, pt, py⟩ := hp
    obtain ⟨qx, qt, qy⟩ := hq
    simp [EdPoint.same, px, qx, py, qy, Nat.mul_comm]
  simp only [edVerify, h1, h2]
  rw [h3.1, Bool.true_and, h3.2, edMul_zero]
  exact hs _ _ (neutral_mul _ _ _ hz) (neutral_mul _ _ _ (neutral_add _ _ hz (neutral_mul _ _ _ hz)))

/-- The manifest of `sealing` with such a key, and `half` as the signature's first half, as SEAL reads it. -/
def signedAs (half : Nat) : Manifest :=
  let s := memWrite (memWrite (sealing run 0) (0x200001100000 + 16) (leBytes 32 1)) (0x200001100000 + manifestBody 1) (leBytes 64 half)
  { bytes := viewBytes (disarm s pnSeal) (sealArg s) (manifestBody 1 + 64) }

/-- The signature holds, and one whose first half is no point does not. -/
theorem wit_SealUnitCommands_signature :
    edVerify (signedAs 1).owner (signedAs 1).signed (signedAs 1).signature = true ∧
    edVerify (signedAs (2 ^ 256 - 1)).owner (signedAs (2 ^ 256 - 1)).signed (signedAs (2 ^ 256 - 1)).signature = false := by
  constructor
  · have h1 : (signedAs 1).owner = leBytes 32 1 := by decide +kernel
    have h2 : (signedAs 1).signature = leBytes 64 1 := by decide +kernel
    rw [h1, h2]
    exact verify_neutral _
  · have h : edDecode (signedAs (2 ^ 256 - 1)).signature = none := by decide +kernel
    simp only [edVerify, h]
    split <;> simp_all

theorem wit_SealUnitCommands_program (image : List Byte) :
    ((bare [shaOf [image]]).programs.findIdx? fun h => h == shaOf [image]) = some 0 ∧
      ((bare []).programs.findIdx? fun h => h == shaOf [image]) = none := by simp [bare, List.findIdx?_cons]

theorem wit_SealUnitCommands_load :
    let mine (ps : List (BitVec 512)) : State :=
      let s := sealing (run.modPart 0 fun p => { p with sealedPart := some (bare ps) }) (2 ^ 48 + 0x200000FFF000)
      { s with mem := [] }
    let s := mine []
    let s0 := disarm s pnSeal
    Served s 0 sealCmdAddr true ∧ outsideGrants s0 (sealArg s) 4096 = true ∧ tierOf (bits (sealArg2 s) 47 0) = 2 ∧
      bits (sealArg2 s) 63 48 = 1 ∧ bits (bits (sealArg2 s) 47 0) 43 26 = 0 ∧ bits (sealArg2 s) 47 0 % 4096 = 0 ∧
      inHubGrant s0 0 (bits (bits (sealArg2 s) 47 0) 25 0) 4096 = true ∧ badUnit s0 (sealArg s) 4096 = none ∧ s.softBad = [] ∧
      PlainStore s0 (hubAddr (bits (bits (sealArg2 s) 47 0) 25 0)) 4096 := by
  unfold Served PlainStore; decide +kernel

theorem wit_SealUnitCommands_attest :
    let s := sealing { run with sealU := { identity := true } } 0x200001200000
    let s0 := disarm s pnSeal
    Served s 0 sealCmdAddr true ∧ s.sealU.identity = true ∧ outsideGrants s0 (sealArg s) 64 = true ∧
      reportPlace s0 (bits (sealArg2 s) 47 0) 672 = true ∧ badUnit s0 (sealArg s) 64 = none ∧ s.softBad = [] ∧
      PlainStore s0 (bits (sealArg2 s) 47 0) 672 := by unfold Served PlainStore; decide +kernel

/-! ### Power, resets and the start -/

/-- The ends of the input range, and one step outside them; a module off, on, and held after a thermal shutdown. -/
theorem wit_SupplyStartsAndStops :
    let off : State := { power := { phase := .off, pwrEn := true, heldReset := true, ramping := [46] } }
    (∀ v ∈ [4000, 5900], supplyGood v = true) ∧ (∀ v ∈ [3999, 5901], supplyGood v = false) ∧
    (off.power.phase = .off ∧ off.power.shutdown = false ∧ off.power.pwrEn = true ∧ off.power.heldReset = true) ∧
    (up.power.phase = .on ∧ up.power.shutdown = false ∧ up.power.heldReset = false) ∧
    (off.boot.stage ≠ 2 ∧ off.power.ramping ≠ [] ∧ (46 ∈ off.power.ramping ∧ 46 < 47)) ∧
    (let five : State := { off with power := { off.power with ramping := [1, 2, 3, 4, 5] } }
     rampingNow five = [1, 2, 3, 4] ∧ rampingLater five = [5]) ∧
    (∀ v ∈ [3999, 4000], let held : State := { off with power := { off.power with centivolts := BitVec.ofNat 16 v } }
     (held.power.pwrEn && supplyGood held.power.centivolts.toNat) = (v == 4000)) ∧
    (∀ hot ∈ [false, true], let held : State := { up with power := { up.power with heldReset := true, shutdown := true, hot := hot } }
     held.power.heldReset = true ∧ held.power.phase = .on ∧ held.power.hot = hot) := by decide

theorem wit_ClocksLimited :
    let s (d : Droop) : State := { up with power := { up.power with droop := [(15, d)] } }
    let long (n : Nat) : State := { up with power := { up.power with throttleSeen := true, throttleBt := n } }
    (domOn up (domQ 15) = true ∧ (droopOf up 15).below = false ∧ (droopOf up 15).rate = .full) ∧
    (droopOf (s { rate := .threeQuarter, below := true }) 15).below = true ∧
    ((droopOf (s { hold := true }) 15).below = false ∧ (droopOf (s { hold := true }) 15).hold = true) ∧
    (throttleIsLong (long (throttleLimit + 1)) = true ∧ throttleIsLong (long throttleLimit) = false) ∧
    (bootRuns up = true ∧ bootRuns { power := {} } = false ∧ capWatts up < capWatts up + 1 ∧ (95 : Int) < 96 ∧ (90 : Int) ≤ 95) ∧
    (up.power.phase = .on ∧ up.power.shutdown = false) := by decide +kernel

/-- Without the key, with each kind, in shutdown, and with a job; the last core of the last die. -/
theorem wit_ResetsReach :
    let v (k : Nat) : Word := BitVec.ofNat 32 (0xA5C30000 + k)
    let hot := { up with power := { up.power with shutdown := true } }
    (Served up 0 bootResetAddr true ∧ Served hot 0 bootResetAddr true ∧ Served (trains 1 0) 0 bootResetAddr true) ∧
    (¬ (1 : Word).extractLsb' 16 16 = 0xA5C3#16 ∧ hot.power.shutdown = true ∧ up.power.shutdown = false) ∧
    (∀ k ∈ [1, 2, 3], (v k).extractLsb' 16 16 = 0xA5C3#16 ∧ bits (v k).toNat 3 0 = k) ∧
    (bits (v (3 + 48 + 39 * 64)).toNat 3 0 = 3 ∧ bits (v (3 + 48 + 39 * 64)).toNat 11 6 < 40 ∧
      40 * bits (v (3 + 48 + 39 * 64)).toNat 5 4 + bits (v (3 + 48 + 39 * 64)).toNat 11 6 = 159) ∧
    (anySealed up = false ∧ anyJobAdmitted up = false ∧ anyJobAdmitted (trains 1 0) = true) := by
  unfold Served; decide +kernel

/-- A report of stage 2 with everything up but what the lists leave out. -/
def report (links hbm : List Bool) : Stage2Report :=
  { d2dTrained := links, stacksOk := hbm, pprHard := [], pprSoft := [], portsTrained := [], portDelay := [], portCredits := [],
    imagesOk := true, imageHashes := [] }
theorem wit_StartProceeds :
    let s (n : Nat) : State := { State.reset with flash := { boot := ⟨some (0, { count := n }), none⟩ } }
    let blank : State := { State.reset with flash := { boot := ⟨none, none⟩ } }
    let on (n : Nat) : State :=
      { s n with power := { domains := BitVec.allOnes 47 }, boot := { begun := true, image := BitVec.ofNat 2 (min 3 n) } }
    let one : State := { up with boot := { stage := 1 } }
    let two : State := { up with boot := { stage := 2 } }
    let eight := List.replicate 8 true
    let late : State := { up with boot := { up.boot with watchdog := 600 * 156250000 } }
    (∀ n ∈ [0, 1, 2, 3], romReady (s n) = true ∧ (s n).flash.bootCount = n ∧ (s n).boot.begun = false ∧ rankOff (s n) 2 ≠ [] ∧
      (s n).flash.boot.read.isSome = true) ∧ (romReady blank = true ∧ blank.flash.boot.read = none) ∧
    (∀ n ∈ [0, 1, 2, 3], romReady (on n) = true ∧ (on n).boot.begun = true ∧ rankOff (on n) 2 = [] ∧
      ((on n).boot.image = 3 ↔ n = 3)) ∧
    ({ on 0 with boot := {} } : State).boot.begun = false ∧ romReady { power := {} } = false ∧
    (one.boot.stage = 1 ∧ one.flash.repair.read.isSome = true ∧ one.flash.config.read.isSome = true ∧
      ({ one with flash := { config := ⟨none, none⟩ } } : State).flash.config.read = none) ∧
    (stage2Ready two = true ∧ failedLink (report eight eight) = none ∧ failedStack (report eight eight) = none ∧
      ((excludedAfter two (hardRepairs two.flash.hardRows (report eight eight))).map onesOf).sum ≤ 8 ∧
      (report eight eight).imagesOk = true) ∧
    (let many : State := { two with flash := { repair := ⟨some (0, { hardRows := (List.range 9).map fun k => k * 2 ^ 21 }), none⟩ } }
     stage2Ready many = true ∧ 8 < ((excludedAfter many (hardRepairs many.flash.hardRows (report eight eight))).map onesOf).sum) ∧
    (failedLink (report [] eight) ≠ none ∧ failedStack (report eight []) ≠ none) ∧
    (Served up 0 bootOkAddr true ∧ (1 : Word).getLsbD 0 = true ∧ up.boot.bootOk = false) ∧
    (late.power.phase = .on ∧ late.boot.bootOk = false ∧ late.power.shutdown = false ∧ late.power.modRst = false ∧
      watchdogLimit late ≤ late.boot.watchdog) ∧
    ({ up with boot := { bootOk := true } } : State).boot.bootOk = true := by unfold Served; decide +kernel

/-! ### Recovery and SMBus -/

theorem wit_RaevoServes :
    let s := { up with boot := { up.boot with minimal := true } }
    let r (n off : Nat) : RaevoReq := { source := 5, seq := 1, length := n, offset := BitVec.ofNat 64 off }
    (domOn s domCtl = true ∧ mgmtOn s = true ∧ s.boot.minimal = true ∧ s.power.shutdown = false) ∧
    ((r 1024 certBase).length ≤ 1024 ∧ readable (r 1024 certBase).offset.toNat (r 1024 certBase).length = true) ∧
    1024 < (r 1025 0).length ∧
    ((r 1 0x01FFFFFF).length ≤ 1024 ∧ slotOffset (r 1 0x01FFFFFF).offset + (r 1 0x01FFFFFF).length ≤ slotSize ∧
      ([7] : List Byte).length = (r 1 0x01FFFFFF).length) ∧
    ¬ (mgmtOn up = true ∧ up.boot.minimal = true) := by decide +kernel

theorem wit_SmbusAnswers : domOn up domCtl = true ∧ up.power.alert = 0 ∧
    ({ up with power := { up.power with alert := 1 } } : State).power.alert ≠ 0 := by decide +kernel

/-! ### Commands of a core -/

/-- A command whose tensors have one element each, and whose program deposits it. -/
def small (op : Nat) : CmdRec :=
  let t : List Word := [0, 0, 0xD81000, 0, 0, 0, 0, 0, 1, 1, 1, 1]
  let ws := if op = opAttnBwd then [(5, 1), (6, 1), (11, 1), (12, 1), (13, 1)] else [(5, 1), (6, 1), (10, 0x60000000), (11, 0x101)]
  let prog : List Word := (List.range 32).map fun k => if k = 0 then 0x101 else if k = 16 then 0x60000000 else 0
  { cmd op ws with descs := (10, prog) :: [4, 5, 6, 7].map fun k => (k, t) }

/-- The first slot of both edges of core 0 is HELD by a chain of `n` commands. -/
def chained (n : Nat) (s : State) : State :=
  let e : Edge := { slots := [(0, {})], chains := [{ slots := [0], cmds := List.replicate n (cmd opMatmul []) }] }
  s.modCore 0 fun k => { k with bottom := e, side := e }

/-- Core 0 is at rest, memory has no error, no group is open, and a command whose dependences are met may issue. -/
def issues (s : State) (q : QueueId) (r : CmdRec) : Bool :=
  (s.core 0).inflight.isEmpty && (s.core 0).landing.isEmpty && (s.core 0).reads.isNone && s.bad.isEmpty && s.softBad.isEmpty &&
    s.hbmErr.isEmpty && noneFailed s && (s.core 0).gather.isNone && frontOf s 0 q r.opcode == some r &&
    decide (depsOf r = .met) && !haltsAtTile s 0

theorem wit_CommandsIssue_rest : ∀ e ∈ [(QueueId.aq, opMatmul), (.aq, opMatmulT), (.aq, opAccRead), (.aq, opReduceX),
      (.aq, opAttnFwd), (.aq, opAttnBwd), (.aq, opAttnDecode), (.mq, opCouch), (.aq, opConv), (.vq, opVec), (.vq, opVecProg),
      (.vq, opUpdateP1), (.vq, opUpdateP2), (.mq, opMove), (.mq, opGather), (.mq, opScatter)],
    let r := small e.2
    let d := { r with depFailed := true }
    issues (front e.1 r) e.1 r = true ∧ issues (chained 1 (front e.1 r)) e.1 r = true ∧
      frontOf (front e.1 d) 0 e.1 e.2 = some d ∧ depsOf d = .failed := by decide +kernel

/-- Slots that are FREE, and HELD: why each command is refused. -/
theorem wit_CommandsIssue_slots : ∀ n ∈ [0, 1],
    let at_ (q : QueueId) (op : Nat) : State := if n = 0 then front q (small op) else chained n (front q (small op))
    let core (op : Nat) : Core := (at_ .aq op).core 0
    let mat (isT : Bool) (op : Nat) : Nat :=
      matRefusal ((core op).edge isT) (matPlan (at_ .aq op) 0 isT [small op]).tiles 0 (small op)
    let conv := small opConv
    let read (t : Tensor) : Mat := readMat (at_ .aq opConv) (planesOf (at_ .aq opConv) (whoOf (at_ .aq opConv) 0 0) t)
    let tiles := convTiles conv (read (convOps conv).x) (read (convOps conv).w)
    [mat false opMatmul, mat true opMatmulT, slotsRefusal (core opReduceX).bottom false (reduceKeys (small opReduceX)),
      attnFwdRefusal (small opAttnFwd) (core opAttnFwd), attnBwdRefusal (small opAttnBwd) (bwdCore (small opAttnBwd) (core opAttnBwd)),
      slotsRefusal (core opVec).bottom false (vecKeys (small opVec)),
      slotsRefusal (core opVecProg).bottom false (vecKeys (small opVecProg))] = List.replicate 7 (6 * n) ∧
    (convOps conv).empty = false ∧ slotsRefused (core opConv).bottom false (convKeys conv tiles) = (n == 1) ∧
    slotsRefused (core opUpdateP1).bottom false (normKeys (small opUpdateP1)) = false ∧
    isGatherReq (at_ .aq opMatmul) 0 (small opMatmul) = false := by decide +kernel

/-- A chain of 65 and of 66 commands read out; a partial whose size does not meet its tile's, and one that does. -/
theorem wit_CommandsIssue_chains :
    let r := small opAccRead
    let e (n : Nat) : Edge := ((chained n (front .aq r)).core 0).edge r.edge
    let x := small opReduceX
    let y := { x with descs := [(4, [0, 0, 0xD81000])] }
    let meets (c : CmdRec) : Bool := let s := front .aq c
      (partialsOf c).all fun p => viewNat s (keyOf s (whoOf s 0 c.ctx) p.base + 8) 4 == p.size
    accReadRefusal (e 65) r = 0 ∧ accReadRefusal (e 66) r ≠ 0 ∧ meets x = false ∧ issues (front .aq y) .aq y = true ∧
      meets y = true ∧ slotsRefusal {} false (reduceKeys y) = 0 := by decide +kernel

/-- A decode group of this core alone, and one that it is the second member of. -/
theorem wit_CommandsIssue_decode : ∀ e ∈ [(0x100, 0, 0), (0x200, 1, 1)],
    let r := { cmd opAttnDecode [] with descs := [(5, [BitVec.ofNat 32 e.1, 0, BitVec.ofNat 32 e.2.1, 0])] }
    let s := front .aq r
    let ws := r.words? 5
    let walks : Bool := match walkStreams s (whoOf s 0 0) r e.2.2 with
      | .ok _ _ _ => true
      | _ => false
    issues s .aq r = true ∧ decodeRefused r (s.core 0) = false ∧ memberOf ws 0 = some e.2.2 ∧ walks = true ∧
      (e.2.2 = 0 → listGroup ws ≤ (s.core 0).partials.length + 1) ∧ (s.core ((listMembers ws).headD 0)).partials = [] := by
  decide +kernel

/-- One token of a stream whose last page has room; a record that the other die owns; a bank held by a window. -/
theorem wit_CommandsIssue_couch :
    let r := { cmd opCouch [] with descs := [(6, [1, 0, 0, 0, 0x20000, 0x2000, 0x100, 0])] }
    let record (w1 : Nat) : List Byte := [0, w1, 0x20040, 0x2000, 1, 0, 1, 0, 0, 0, 0, 0x400000].flatMap (leBytes 4)
    let s (w1 : Nat) : State := memWrite (front .mq r) (hubAddr 0x20000) (record w1)
    let w := whoOf (s 0) 0 0
    let v := readSeq (s 0) (keyOf (s 0) w 0x200000020000)
    let u := small opUpdateP2
    let t := (trains 1 0).modCore 0 fun k => k.setQueue .vq [u]
    let shut := t.modPart 0 fun p => { p with ctxs := [(0, { p.ctx 0 with evalWins := [{ entry := (0, 0, 0), map := [] }] })] }
    (issues (s 0) .mq r = true ∧ notMine (s 0) w (listEntries (r.words? 6)) = false ∧
      lastPageBad (s 0) w (listEntries (r.words? 6)) = false ∧
      (listEntries (r.words? 6)).map (fun e => (e.addr, e.count)) = [(0x200000020000, 1)] ∧
      v.stalled = false ∧ v.ovf = false ∧ v.count ≠ 0 ∧ v.length ≤ 16777215 ∧ (readPage (s 0) (v.entry (s 0) w (v.count - 1))).fill ≠ 128) ∧
    (issues (s 0xF0000000) .mq r = true ∧ notMine (s 0xF0000000) w (listEntries (r.words? 6)) = true) ∧
    (issues t .vq u = true ∧ updateHeld t = false ∧ issues shut .vq u = true ∧ updateHeld shut = true) := by decide +kernel

/-- Movement from memory of this device, from a lent region whose lender is READY, and from one that has none; an index past
the rows; a gather request below its target, and one at it. -/
theorem wit_CommandsIssue_moves :
    let t (e1 hi : Nat) : List Word := [0, 0, 0xD81000, BitVec.ofNat 32 hi, 0, 0, 0, 0, 1, BitVec.ofNat 32 e1, 1, 1]
    let r (op n hi : Nat) : CmdRec := { cmd op [(7, n)] with descs := [4, 5, 6].map fun k => (k, t 1 hi) }
    let far (base : State) (c : CmdRec) : State := base.modCore 0 fun k => k.setQueue .mq [c]
    let out (op : Nat) : CmdRec := { cmd op [(7, 1)] with descs := [] }
    let g (rows : Nat) : CmdRec := { cmd opMatmul [(3, 2 ^ 11 + 17)] with descs := [(4, t rows 0), (5, t 1 0), (6, t rows 0)] }
    let gathers (n : Nat) : State := { front .aq (g n) with pages := mset {} run.pages (pnSeq 0) { regs := [(0x100, 1)] } }
    let w := whoOf run 0 0
    let spans (base : State) (op : Nat) : List (Nat × Nat) := remoteSpans (far base (r op 0 0x4000)) w (r op 0 0x4000)
    (∀ op ∈ [opMove, opGather, opScatter], issues (front .mq (r op 0 0)) .mq (r op 0 0) = true ∧
      remoteSpans (front .mq (r op 0 0)) w (r op 0 0) = [] ∧ (∀ i ∈ moverList (front .mq (r op 0 0)) w (r op 0 0), i < 1) ∧
      releaseDst (front .mq (r op 0 0)) w (moverDst (r op 0 0)) = []) ∧
    (∀ op ∈ [opMove, opGather, opScatter], issues (far lent (r op 0 0x4000)) .mq (r op 0 0x4000) = true ∧ spans lent op ≠ [] ∧
      firstLost (far lent (r op 0 0x4000)) w ((spans lent op).map Prod.fst) = none ∧
      firstLost (far run (r op 0 0x4000)) w ((spans run op).map Prod.fst) ≠ none) ∧
    (∀ op ∈ [opGather, opScatter], issues (front .mq (out op)) .mq (out op) = true ∧
      ∃ i ∈ moverList (front .mq (out op)) w (out op), ¬ i < (moverSrc (out op)).rows ∧ ¬ i < (moverDst (out op)).rows) ∧
    (∀ n ∈ [63, 64], issues (gathers n) .aq (g n) = true ∧ isGatherReq (gathers n) 0 (g n) = true ∧
      decide (((g n).tensor? 4).elim 0 Tensor.rows < gatherTarget (gathers n) 0 (g n)) = (n == 63) ∧
      matRefusal ((gathers n).core 0).bottom (matPlan (gathers n) 0 false [g n]).tiles 0 (g n) = 0) := by decide +kernel

/-- A request that joins an open group, and that group one tick before it expires and then. -/
theorem wit_GatherGroupExpires :
    let x : List Word := [0, 0, 0xD81000, 0, 0, 0, 0, 0, 1, 1, 1, 1]
    let r (slot : Nat) : CmdRec := { cmd opMatmul [(3, 2 ^ 11 + slot * 2 ^ 12)] with descs := [(4, x), (5, x), (6, x)] }
    let v : GatherGroup := { reqs := [r 0], rows := 1, since := 0 }
    let s (n : Nat) : State := { run.modCore 0 fun k => { k.setQueue .aq [r 1] with gather := some v } with
      bell := { count := BitVec.ofNat 64 n }, pages := mset {} run.pages (pnSeq 0) { regs := [(0x100, 1)] } }
    let hold := max 1 (bits ((s 0).regN (pnSeq 0) 0x100) 31 16)
    v.due = false ∧
    (∀ n ∈ [hold - 1, hold], (issues ((s n).modCore 0 fun k => { k with gather := none }) .aq (r 1) = true ∧ ((s n).core 0).gather = some v) ∧
      decide (v.since.toNat + hold ≤ (s n).bell.count.toNat) = (n == hold)) ∧
    (isGatherReq (s 1) 0 (r 1) = true ∧ matchesOpen (s 1) 0 (r 1) = true ∧ matWaits (s 1) 0 (r 1) = false ∧
      v.rows + ((r 1).tensor? 4).elim 0 Tensor.rows < gatherTarget (s 1) 0 (r 1) ∧
      (∀ q ∈ v.reqs, ∀ k ∈ gatherRows q, k ∉ gatherRows (r 1))) ∧
    matRefusal ((s 2).core 0).bottom (matPlan (s 2) 0 false [r 0]).tiles 0 (r 0) = 0 ∧
    (dieCtlOf (s hold) 0).halted = false ∧
    (dieCtlOf ((s hold).modDie 0 fun d => { d with dc0 := { running := true, halted := true } }) 0).halted = true := by decide +kernel

/-! ### Worked examples of the manual, and known answers -/

/-- "An E4M3 element 0x4C in a block whose scale is X = 0x7A": 0.1875. -/
theorem test_e4m3_element : (decodeIn fmtE4m3 0x4C 0x7A).eq (.fin 3 (-4)) = true := by decide

/-- "A streaming BF16 block has its largest element 1.5 × 2^21 and its smallest nonzero element 2^-3": two bands. -/
theorem test_bf16_bands : ((bandsOf fmtBf16 127 [.fin 3 20, .fin 3 9, .fin 1 (-3)]).top,
    (bandsOf fmtBf16 127 [.fin 3 20, .fin 3 9, .fin 1 (-3)]).count) = (some 21, 2) := by decide

/-- "9 × 2^-136 becomes 2^-133" in BF16, the smallest subnormal. -/
theorem test_bf16_subnormal : roundScalar fmtBf16 rmRne 0 (.fin 9 (-136)) = (0x0001, false) := by decide +kernel

/-- "One tail, one exact answer": +2^20, +2^-60 and −2^20 leave 2^-60, as XC128 with POS 340 and WINDOW 1, in BF16 0x2180. -/
theorem test_one_tail :
    let q := [(2 : Int) ^ 420, 2 ^ 340, -(2 ^ 420)].foldl (fun (a : Slot) v => a.deposit v {}) {}
    q.xc128 = some (340 * 2 ^ 96 + 1) ∧ roundScalar fmtBf16 rmRne 0 q.value = (0x2180, false) ∧ q.summary = 0 := by
  decide +kernel

/-- The published answer of Philox4x32-10 for counter and key 0, x0 lowest. -/
theorem test_philox : philox 0 0 0 0 0 = 0x9B00DBD8BC57AC4CE169C58D6627E8D5 := by decide +kernel

/-- The check value of CRC-32: "123456789". -/
theorem test_crc32 : crc32 [0x31, 0x32, 0x33, 0x34, 0x35, 0x36, 0x37, 0x38, 0x39] = 0xCBF43926 := by decide +kernel

/-- FIPS 180-4: the first and last bytes of SHA-512 of "abc". -/
theorem test_sha512 : (sha512 [0x61, 0x62, 0x63]).take 4 = [0xDD, 0xAF, 0x35, 0xA1] ∧
    (sha512 [0x61, 0x62, 0x63]).drop 60 = [0xA5, 0x4C, 0xA4, 0x9F] := by decide +kernel

/-- RFC 8032, 7.1, test 1: the public key, and the signature of no bytes. -/
theorem test_ed25519 :
    let key := beBytes 32 0x9d61b19deffd5a60ba844af492ec2cc44449c5697b326919703bac031cae7f60
    edPublic key = beBytes 32 0xd75a980182b10ab7d54bfed3c964073a0ee172f3daa62325af021a68f707511a ∧
    edSign key [] = beBytes 32 0xe5564300c360ac729086e2cc806e828a84877f1eb8e5d974d873e06522490155 ++
      beBytes 32 0x5fb8821590a33bacc61e39701cf9b46bd25bf5f0595bbe24655141438e7a100b := by decide +kernel

/-- RFC 7748, 5.2, the first vector. -/
theorem test_x25519 : x25519 (beBytes 32 0xa546e36bf0527c9d3b16154b82465edd62144c0ac1fc5a18506a2244ba449ac4)
    (beBytes 32 0xe6db6867583030db3594c1a424b15f7c726624ec26b3353b10a903a6d0ab1c4c) =
    beBytes 32 0xc3da55379de9c6908e94ea4df28d084f32eccf03491c71f754b4075577a28552 := by decide +kernel

/-- FIPS 197, C.3: AES-256 of one block. -/
theorem test_aes256 : aesEncrypt ((List.range 32).map (BitVec.ofNat 8)) ((List.range 16).map fun k => BitVec.ofNat 8 (17 * k)) =
    beBytes 16 0x8ea2b7ca516745bfeafc49904b496089 := by decide +kernel

/-! ### Single steps -/

/-- The state that a step answers, if it answers one. -/
def after (i : Instr) (s : State) : State :=
  match step { s with pending := [i] } with
  | .next t => t
  | _ => s

/-- From reset: nothing waits, and the first command of a start counts it, for slot A; with rank 2 on it goes to stage 1 (R514,
R515). -/
theorem test_start : step State.reset = .next State.reset ∧ (after (.bootRom true 1 3) State.reset).boot.stage = 0 ∧
    (after (.bootRom true 1 3) State.reset).flash.bootCount = 1 ∧
    (after (.bootRom true 1 3) { State.reset with power := { domains := BitVec.allOnes 47 } }).boot.stage = 1 :=
  ⟨rfl, by decide +kernel, by decide +kernel, by decide +kernel⟩

/-- SIGNAL in ADD mode wraps at 2^32, and its completion entry says so to its ring (R187, R198). -/
theorem test_signal_wraps :
    let c := cmd opSignal [(1, 0xABCD), (4, 2), (5, 0xFFFFFFFF)]
    let s := memWrite (acting c) (semKey run 0 0 2) (leBytes 4 2)
    semValue (after (.signal 0 0) s) 0 0 2 = 1 ∧ (((after (.signal 0 0) s).core 0).ring 0).acting = [] := by
  decide +kernel

/-- A MOVE of two BF16 rows from vector scratch to hub SRAM, widened to FP32: 1.5 and -2.0. -/
theorem test_move_widens :
    let desc (fmt base hi : Nat) : List Word :=
      (List.range 16).map fun k => BitVec.ofNat 32 (mget 0 [(0, fmt + 128), (2, base), (3, hi), (8, 1), (9, 2), (10, 1), (11, 1), (12, 64)] k)
    let c := { cmd opMove [(4, 1), (5, 2)] with descs := [(4, desc fmtBf16 0xD80000 0), (5, desc fmtFp32 0x50000 0x2000)] }
    let s := memWrite (memWrite (front .mq c) (lsAddr 0 0xD80000) [0xC0, 0x3F]) (lsAddr 0 0xD80080) [0x00, 0xC0]
    viewNat (after (.move 0) s) 0x200000050000 4 = 0x3FC00000 ∧ viewNat (after (.move 0) s) 0x200000050100 4 = 0xC0000000 := by
  decide +kernel

/-- EVT_STATUS is cleared by the bits written, and by no others. -/
theorem test_event_cleared :
    ((after (.evtStatusWrite ⟨0, false⟩ 0x3000 1) (up.modPage 3 fun p => { p with evtStatus := 3 })).page 3).evtStatus = 2 := by
  decide +kernel

/-- At thermal shutdown only BOOT and CTL stay on (R507). -/
theorem test_shutdown : domOn (after .thermalShutdown up) bootDomain = true ∧ domOn (after .thermalShutdown up) domCtl = true ∧
    domOn (after .thermalShutdown up) domHubfab = false := by decide +kernel

/-- A bell tick carries out of the low word. -/
theorem test_bell_carries : (after .bellTick { up with bell := { count := 0xFFFFFFFF } }).bell.count = 0x100000000 := by
  decide +kernel

/-! ### Ill-formed commands, one for each range -/

theorem test_wf_init : (Instr.evtForce ⟨25, false⟩ 0 0).wf = false ∧ (Instr.evtForce ⟨24, false⟩ 0 0).wf = true := by decide
theorem test_wf_core : (Instr.matmul 160).wf = false ∧ (Instr.matmul 159).wf = true := by decide
theorem test_wf_ctx : (Instr.nop 0 8).wf = false ∧ (Instr.nop 0 7).wf = true := by decide
theorem test_wf_host : (Instr.heldWriteRelease 16).wf = false := by decide
theorem test_wf_part : (Instr.sliceStart 4).wf = false ∧ (Instr.discard ⟨0, false⟩ 0 8).wf = false := by decide
theorem test_wf_entry : (Instr.prefetch 4 0).wf = false ∧ (Instr.prefetch 0 32).wf = false ∧
    (Instr.deadlineMiss 0 0 131072).wf = false := by decide
theorem test_wf_peer : (Instr.write { msg 0 0 with ctx := 4096 }).wf = false ∧
    (Instr.write { msg 0 0 with port := 24 }).wf = false ∧ (Instr.msgAck 4096 0).wf = false := by decide
theorem test_wf_port : (Instr.negotiate 24 2 3).wf = false ∧ (Instr.negotiate 0 2 16).wf = false ∧
    (Instr.portTraining ⟨0, false⟩ 12 0 { okA := true, okB := true, delay := 0, credits := [] }).wf = false ∧
    (Instr.priorityPause 0 8).wf = false ∧ (Instr.d2dReplay 16 true).wf = false := by decide
theorem test_wf_credits : (Instr.idle 0 0 false 4 0 0).wf = false ∧ (Instr.idle 0 0 false 0 4 0).wf = false ∧
    (Instr.idle 0 0 false 0 0 1024).wf = false := by decide
theorem test_wf_request : (Instr.linkReqComplete 0 8192).wf = false := by decide
theorem test_wf_hbm : (Instr.retrainDue 0 2 0).wf = false ∧ (Instr.retrainDue 0 0 32).wf = false ∧
    (Instr.hbmRetrainEnd 0 0 true (List.replicate 65 0) []).wf = false := by decide
theorem test_wf_power : (Instr.pwrEnAssert 65536).wf = false ∧ (Instr.droopSag 0 4).wf = false ∧
    (Instr.capPeriod 0 0 [] [] [] []).wf = false := by decide
theorem test_wf_frames : (Instr.info { source := 0, seq := 0, length := 2 ^ 32, offset := 0 }).wf = false ∧
    (Instr.registerAccessFrame { frameOf true true with entries := List.replicate 128 { address := 0, data := 0, write := false } }).wf = false ∧
    (Instr.registerWrite 0 9 0 0 false).wf = false := by decide +kernel

/-- No row of the table has bits: no word spells a command, and none is put in front. -/
theorem test_no_bits : decodeTableWord 32 0xFFFFFFFF = none ∧ State.reset.withFetchWord 32 1 = State.reset := ⟨rfl, rfl⟩

end Sys2Proof.Tests
end

/-! Register words that take their value (R12–R14). -/

namespace Sys2Proof.Machine

variable (s : State)

/-- The entry found for an offset is the entry of that offset. -/
theorem regSpec?_off {ty off : Nat} {r : RegSpec} (h : regSpec? ty off = some r) : r.off = off := by
  simpa using List.find?_some h

/-- The common layout has no word at 0x010, nor any from 0x100 on but PAGE_SHADOW (R525). -/
theorem commonWrite?_eq_none (armed : Option Nat) (init pn ty v : Nat) {off : Nat} (h : 0x100 ≤ off ∨ off = 0x010)
    (hs : off ≠ 0xF00) : commonWrite? s armed init pn ty off v = none := by
  unfold commonWrite?
  rw [if_neg (by omega), if_neg (by omega), if_neg (by omega), if_neg (by omega), if_neg (by omega), if_neg hs,
    if_neg (by omega)]

/-- Nothing follows the write of a word that only takes its value. -/
theorem afterWrite_eq_self (old : State) (init pn v : Nat) {i : PageId} {off : Nat} (hb : ¬ (i.ty = ptBell ∧ off = 0x010))
    (ha : ¬ (i.ty = ptAlmanac ∧ 0x200 ≤ off ∧ off % 0x20 = 4)) (hc : ¬ (i.ty = ptCrier ∧ off % 0x20 = 4))
    (hp : ¬ (i.ty = ptPart ∧ off = 0x168)) : afterWrite old s init pn i off v = s := by
  unfold afterWrite
  rw [if_neg hb, if_neg ha, if_neg hc, if_neg fun h => hp ⟨h.1, h.2.1⟩]

/-- A write at a page of a word that is none of the common layout, unlocked if it is an expert word, is the page's own. -/
theorem writeAt_eq_pageWrite {pn : Nat} {i : PageId} (h : page? pn = some i) (armed : Option Nat) (init v : Nat) {off : Nat}
    (ho : 0x100 ≤ off ∨ off = 0x010) (hs : off ≠ 0xF00) (he : 0x800 ≤ off → (s.page pn).expertEn = true) :
    writeAt s armed init pn off v = pageWrite s init pn i off v := by
  simp only [writeAt, h, commonWrite?_eq_none s armed init pn i.ty v ho hs]
  exact if_neg fun ⟨h8, _, hf⟩ => Bool.false_ne_true (hf.symm.trans (he h8))

/-- A word that no unit acts on and no rule guards is stored. -/
theorem pageWrite_eq_storeWord {init pn off v : Nat} {i : PageId} {r : RegSpec}
    (hw : (hubWrite? s init i off v).or (dieWrite? s init i off v) = none) (hr : regSpec? i.ty off = some r)
    (hg : writeGuard s init pn i off v = 0) :
    pageWrite s init pn i off v = afterWrite s (storeWord s pn r v) init pn i off v := by
  simp only [pageWrite, hw, hr, hg, if_true]

/-! ### What a stored word leaves -/

/-- What a register word of this entry holds once a value has been written over `old`: RW bits take it, the others stay. -/
def RegSpec.written (r : RegSpec) (old : Word) (v : Nat) : Word :=
  (old &&& ~~~(BitVec.ofNat 32 r.rw)) ||| (BitVec.ofNat 32 v &&& BitVec.ofNat 32 r.rw)

/-- The stored word takes its RW bits at once; the page changes only there and in the shadow of a /B word. -/
theorem storeWord_page (pn : Nat) (r : RegSpec) (v : Nat) :
    (storeWord s pn r v).page pn =
      { (s.setReg pn r.off (r.written (s.reg pn r.off) v)).page pn with
        shadow := if r.latch = 0 then (s.page pn).shadow
          else mput (s.page pn).shadow r.off (BitVec.ofNat 32 v &&& BitVec.ofNat 32 r.latch) } := by
  unfold storeWord
  dsimp only
  split <;> simp only [RegSpec.written, State.setReg, State.page_modPage]

theorem storeWord_page_ne (pn : Nat) (r : RegSpec) (v : Nat) {k : Nat} (h : k ≠ pn) :
    (storeWord s pn r v).page k = s.page k := by
  unfold storeWord
  dsimp only
  split
  · exact State.page_setReg_ne _ _ _ _ _ h
  · exact (State.page_modPage_ne _ _ _ _ h).trans (State.page_setReg_ne _ _ _ _ _ h)

theorem storeWord_reg (pn : Nat) (r : RegSpec) (v k : Nat) :
    (storeWord s pn r v).reg pn k = (s.setReg pn r.off (r.written (s.reg pn r.off) v)).reg pn k :=
  State.reg_of_page (by rw [storeWord_page]) k

theorem storeWord_reg_same (pn : Nat) (r : RegSpec) (v : Nat) :
    (storeWord s pn r v).reg pn r.off = r.written (s.reg pn r.off) v := by
  rw [storeWord_reg, State.reg_setReg_same]

theorem storeWord_reg_ne (pn : Nat) (r : RegSpec) (v : Nat) {k : Nat} (h : k ≠ r.off) :
    (storeWord s pn r v).reg pn k = s.reg pn k := by
  rw [storeWord_reg, State.reg_setReg_ne _ _ _ _ _ h]

theorem onlyPage_disarm_storeWord (pn : Nat) (r : RegSpec) (v : Nat) : OnlyPage pn s (storeWord (disarm s pn) pn r v) :=
  ⟨changes_of (within_storeWord at0 _ _ _ _ (within_disarm at0 _ _ (within_refl _ s))),
    fun k hk => by rw [storeWord_page_ne _ _ _ _ hk, disarm_page_ne s pn k hk]⟩

/-- Settles O10: the access goes on at its page with the key disarmed, and comes down to storing the word. -/
theorem registerWordsWritten : Obligations.RegisterWordsWritten := by
  unfold Obligations.RegisterWordsWritten
  intro s init address value i r pn off s0 hserved hpage hspec hshadow hoff hexpert hbell halm hcrier hpart hunit hguard
  have hexp : 0x800 ≤ off → (s0.page pn).expertEn = true := fun h => by
    rw [disarm_page]; exact hexpert h
  have hrun : regWrite s init 4 address.toNat value.toNat false = storeWord s0 pn r value.toNat :=
    calc regWrite s init 4 address.toNat value.toNat false
      _ = writeAt s0 (s.page pn).keyArmed init pn off value.toNat := regWrite_served hserved _
      _ = pageWrite s0 init pn i off value.toNat := writeAt_eq_pageWrite s0 hpage _ _ _ hoff hshadow hexp
      _ = afterWrite s0 (storeWord s0 pn r value.toNat) init pn i off value.toNat := pageWrite_eq_storeWord s0 hunit hspec hguard
      _ = storeWord s0 pn r value.toNat := afterWrite_eq_self _ _ _ _ _ hbell halm hcrier hpart
  have hro : r.off = off := regSpec?_off hspec
  refine ⟨_, congrArg Host.Outcome.next hrun, onlyPage_disarm_storeWord s pn r _, ?_, fun k hk => ?_, ?_, ?_, ?_⟩
  · have h := storeWord_reg_same s0 pn r value.toNat
    rwa [hro, disarm_reg, RegSpec.written, ofNat_toNat_word] at h
  · rw [storeWord_reg_ne _ _ _ _ (hro ▸ hk), disarm_reg]
  · rw [storeWord_page, hro, ofNat_toNat_word, disarm_page]
  all_goals rw [storeWord_page, State.setReg, State.page_modPage, disarm_page]

end Sys2Proof.Machine

/-! Boundaries: what a partition boundary leaves, and what BOUNDARY does (R16, R189, R200, R363). -/

namespace Sys2Proof.Machine

variable (s : State)

/-! ### What a boundary leaves -/

/-- From `s` to `t` a boundary may have passed: no register word has changed but those with boundary-latched bits, no ring of
a core, and none of the partition boundaries under way. -/
structure BoundaryFrame (s t : State) : Prop where
  reg        : ∀ pn off, latchMask pn off = 0#32 → t.reg pn off = s.reg pn off
  ring       : ∀ g x, (t.core g).ring x = (s.core g).ring x
  boundaries : ∀ p, (t.part p).boundaries = (s.part p).boundaries

variable {s} {t u : State}

theorem BoundaryFrame.refl : BoundaryFrame s s := ⟨fun _ _ _ => rfl, fun _ _ => rfl, fun _ => rfl⟩

theorem BoundaryFrame.trans (h : BoundaryFrame s t) (k : BoundaryFrame t u) : BoundaryFrame s u :=
  ⟨fun pn off hl => (k.reg pn off hl).trans (h.reg pn off hl), fun g x => (k.ring g x).trans (h.ring g x),
    fun p => (k.boundaries p).trans (h.boundaries p)⟩

/-- A step that leaves the cores and the partitions alone. -/
theorem BoundaryFrame.of_pages (hr : ∀ pn off, latchMask pn off = 0#32 → t.reg pn off = s.reg pn off) (hc : t.cores = s.cores)
    (hp : t.parts = s.parts) : BoundaryFrame s t :=
  ⟨hr, fun g x => by unfold State.core; rw [hc], fun p => by unfold State.part; rw [hp]⟩

theorem BoundaryFrame.foldl {β : Type} (f : State → β → State) (hf : ∀ v b, BoundaryFrame v (f v b)) (l : List β) :
    BoundaryFrame s (l.foldl f s) := by
  induction l generalizing s with
  | nil => exact .refl
  | cons b r ih => exact (hf s b).trans ih

variable (s)

theorem boundaryFrame_modCore (g : Nat) (f : Core → Core) (hf : ∀ c x, (f c).ring x = c.ring x) :
    BoundaryFrame s (s.modCore g f) := by
  refine ⟨fun _ _ _ => rfl, fun j x => ?_, fun _ => rfl⟩
  by_cases h : j = g
  · subst h; rw [State.core_modCore, hf]
  · rw [State.core_modCore_ne _ _ _ _ h]

theorem boundaryFrame_modPart (p : Nat) (f : Part → Part) (hf : ∀ v, (f v).boundaries = v.boundaries) :
    BoundaryFrame s (s.modPart p f) := by
  refine ⟨fun _ _ _ => rfl, fun _ _ => rfl, fun q => ?_⟩
  by_cases h : q = p
  · subst h; rw [State.part_modPart, hf]
  · rw [State.part_modPart_ne _ _ _ _ h]

theorem dropShadow_reg (pn off j k : Nat) : (dropShadow s pn off).reg j k = s.reg j k := by
  by_cases h : j = pn
  · subst h; exact State.reg_of_page (by rw [dropShadow, State.page_modPage]) k
  · exact State.reg_of_page (by rw [dropShadow, State.page_modPage_ne _ _ _ _ h]) k

theorem boundaryFrame_dropShadow (pn off : Nat) : BoundaryFrame s (dropShadow s pn off) :=
  .of_pages (fun j k _ => dropShadow_reg s pn off j k) rfl rfl

/-- A word without latched bits takes its own value again. -/
theorem latchIn_reg (pn off : Nat) (w : Word) {j k : Nat} (h : latchMask j k = 0#32) :
    (latchIn s pn off w).reg j k = s.reg j k := by
  unfold latchIn
  by_cases hj : j = pn
  · subst hj
    by_cases hk : k = off
    · subst hk
      rw [State.reg_setReg_same, h, BitVec.and_zero, BitVec.or_zero, BitVec.not_zero, BitVec.and_allOnes]
    · rw [State.reg_setReg_ne _ _ _ _ _ hk, dropShadow_reg]
  · rw [State.reg_of_page (s := dropShadow s pn off) (by rw [State.page_setReg_ne _ _ _ _ _ hj]), dropShadow_reg]

theorem boundaryFrame_latchIn (pn off : Nat) (w : Word) : BoundaryFrame s (latchIn s pn off w) :=
  .of_pages (fun _ _ h => latchIn_reg s pn off w h) rfl rfl

theorem boundaryFrame_applyWord (e : Nat × Nat) : BoundaryFrame s (applyWord s e) := by
  unfold applyWord
  split
  · exact .refl
  · exact boundaryFrame_latchIn s _ _ _

theorem boundaryFrame_recordLatchRefusal (pn off v : Nat) : BoundaryFrame s (recordLatchRefusal s pn off v) :=
  .of_pages (fun _ _ _ => capture_reg s _ _ _ _) rfl rfl

theorem boundaryFrame_setEvent (pn b : Nat) : BoundaryFrame s (setEvent s pn b) :=
  .of_pages (fun _ _ _ => setEvent_reg s _ _ _ _) (setEvent_cores s _ _) (setEvent_parts s _ _)

theorem boundaryFrame_applyTithe (p : Nat) : BoundaryFrame s (applyTithe s p) := by
  unfold applyTithe
  extract_lets pn
  split
  · exact .refl
  · extract_lets s1
    split
    · exact boundaryFrame_latchIn s _ _ _
    · have hlatched : BoundaryFrame s s1 := boundaryFrame_latchIn s _ _ _
      refine (hlatched.trans (boundaryFrame_modPart s1 p _ ?_)).trans (boundaryFrame_recordLatchRefusal _ _ _ _)
      exact fun _ => rfl

theorem boundaryFrame_applyAddress (off : Nat) (valid : Nat → Bool) : BoundaryFrame s (applyAddress s off valid) := by
  unfold applyAddress
  extract_lets lo hi l h s1
  have hdropped : BoundaryFrame s s1 := (boundaryFrame_dropShadow s _ _).trans (boundaryFrame_dropShadow _ _ _)
  split
  · exact .refl
  · split
    · exact (boundaryFrame_applyWord s _).trans (boundaryFrame_applyWord _ _)
    · refine BoundaryFrame.trans ?_ (boundaryFrame_setEvent _ _ _)
      split <;> exact hdropped.trans (boundaryFrame_recordLatchRefusal s1 _ _ _)

theorem boundaryFrame_applyRot (g : Nat) : BoundaryFrame s (applyRot s g) := by
  unfold applyRot
  extract_lets pn s1 s2 ctl
  split
  · exact .refl
  · have h1 : BoundaryFrame s s1 := boundaryFrame_applyWord s _
    have h2 : BoundaryFrame s1 s2 := by
      unfold s2
      split
      · exact .refl
      · split
        · exact boundaryFrame_latchIn s1 _ _ _
        · refine ((boundaryFrame_dropShadow s1 _ _).trans (boundaryFrame_modCore _ _ _ ?_)).trans
            (boundaryFrame_recordLatchRefusal _ _ _ _)
          exact fun _ _ => rfl
    refine (h1.trans h2).trans (boundaryFrame_modCore s2 g _ ?_)
    exact fun _ _ => rfl

theorem boundaryFrame_applyBoundary (p : Option Nat) (dev : Bool) : BoundaryFrame s (applyBoundary s p dev) := by
  unfold applyBoundary
  extract_lets todo s1 s2 rots s3
  have h1 : BoundaryFrame s s1 := by
    unfold s1
    split
    · exact .foldl _ boundaryFrame_applyTithe _
    · exact .refl
  have h2 : BoundaryFrame s1 s2 := by
    unfold s2
    split
    · exact (boundaryFrame_applyAddress s1 _ _).trans (boundaryFrame_applyAddress _ _ _)
    · exact .refl
  have h3 : BoundaryFrame s2 s3 := .foldl _ boundaryFrame_applyRot _
  exact ((h1.trans h2).trans h3).trans (.foldl _ boundaryFrame_applyWord _)

theorem boundaryFrame_clearFailed (p : Nat) : BoundaryFrame s (clearFailed s p) := boundaryFrame_modPart s p _ fun _ => rfl

theorem boundaryFrame_clearReleased (p : Nat) : BoundaryFrame s (clearReleased s p) := by
  unfold clearReleased modSealed
  exact boundaryFrame_modPart s p _ fun _ => rfl

theorem boundaryFrame_partitionBoundary (p : Nat) : BoundaryFrame s (partitionBoundary s p) := by
  unfold partitionBoundary
  extract_lets dev s1 s2
  have h2 : BoundaryFrame s s2 := (boundaryFrame_applyBoundary s (some p) dev).trans (boundaryFrame_clearFailed s1 p)
  split
  · exact h2.trans (boundaryFrame_clearReleased s2 p)
  · exact h2

/-- The quadrants that a partition owns are no latched word, so its cores stay its cores through a boundary. -/
theorem latchMask_quads {p : Nat} (h : p < 4) : latchMask (pnPart p) 0x100 = 0#32 := by
  revert p; decide

theorem BoundaryFrame.coresOfPart {s t : State} (h : BoundaryFrame s t) {p : Nat} (hp : p < 4) :
    coresOfPart t p = coresOfPart s p := by
  unfold Machine.coresOfPart quadsOf State.regN
  rw [h.reg _ _ (latchMask_quads hp)]

/-! ### The step-failed state (R189) -/

/-- Contexts cleared one after another: each that is listed, and each that was clear, is clear. -/
theorem foldl_clear_stepFailed (l : List Nat) (m : SMap Ctx) (x : Nat) (h : x ∈ l ∨ (mget {} m x).stepFailed = false) :
    (mget {} (l.foldl (fun m y => mset {} m y { mget {} m y with stepFailed := false }) m) x).stepFailed = false := by
  induction l generalizing m with
  | nil => simpa using h
  | cons y r ih =>
    refine ih _ ?_
    rw [mget_mset]
    split
    · exact .inr rfl
    · next hy => exact h.imp_left fun hm => (List.mem_cons.1 hm).resolve_left hy

theorem clearFailed_stepFailed (p : Nat) {x : Nat} (h : x < 8) : (((clearFailed s p).part p).ctx x).stepFailed = false := by
  unfold clearFailed Part.ctx
  rw [State.part_modPart]
  dsimp only
  exact foldl_clear_stepFailed _ _ _ (.inl (List.mem_range.2 h))

theorem clearReleased_ctx (p x : Nat) : ((clearReleased s p).part p).ctx x = (s.part p).ctx x := by
  unfold clearReleased modSealed Part.ctx
  rw [State.part_modPart]

theorem partitionBoundary_stepFailed (p : Nat) {x : Nat} (h : x < 8) :
    (((partitionBoundary s p).part p).ctx x).stepFailed = false := by
  unfold partitionBoundary
  extract_lets dev s1 s2
  split
  · rw [clearReleased_ctx]; exact clearFailed_stepFailed s1 p h
  · exact clearFailed_stepFailed s1 p h

/-! ### The release of waiting BOUNDARY records (R200) -/

/-- What a boundary at `now` does to a ring: a BOUNDARY that waits for it is released. -/
def Ring.release (here : Long → Bool) (now : Long) (r : Ring) : Ring :=
  match r.boundaryAt with
  | some at_ => if here at_ then { r with released := true, boundaryAt := some now } else r
  | none => r

theorem Ring.release_waiting {here : Long → Bool} {at_ : Long} {r : Ring} (h : r.boundaryAt = some at_) (hh : here at_ = true)
    (now : Long) : r.release here now = { r with released := true, boundaryAt := some now } := by
  simp only [Ring.release, h, hh, if_true]

/-- One function applied to each core of a list without repeats. -/
theorem foldl_modCore_core (f : Core → Core) (l : List Nat) (hn : l.Nodup) (g : Nat) :
    (l.foldl (fun (t : State) j => t.modCore j f) s).core g = if g ∈ l then f (s.core g) else s.core g := by
  induction l generalizing s with
  | nil => simp
  | cons j r ih =>
    obtain ⟨hj, hr⟩ := List.nodup_cons.1 hn
    rw [List.foldl_cons, ih _ hr]
    by_cases h : g = j
    · subst h; simp [hj]
    · simp [h, State.core_modCore_ne s j g f h]

theorem coresOfPart_nodup (p : Nat) : (coresOfPart s p).Nodup := List.nodup_range.filter _

theorem releaseRings_ring (p : Nat) (here : Long → Bool) {g : Nat} (hg : g ∈ coresOfPart s p) (x : Nat) :
    ((releaseRings s p here).core g).ring x = ((s.core g).ring x).release here s.bell.count := by
  have hcore : (releaseRings s p here).core g =
      { s.core g with rings := (s.core g).rings.map fun e => (e.1, e.2.release here s.bell.count) } :=
    (foldl_modCore_core s (fun c => { c with rings := c.rings.map fun e => (e.1, e.2.release here s.bell.count) }) _
      (coresOfPart_nodup s p) g).trans (if_pos hg)
  rw [hcore]
  exact mget_map_val (fun _ r => r.release here s.bell.count) ({} : Ring) _ x rfl

theorem releaseRings_part (p q : Nat) (here : Long → Bool) : (releaseRings s p here).part q = s.part q := by
  have h : (releaseRings s p here).parts = s.parts :=
    (within_releaseRings (S := (· ∈ [Piece.cores])) at0 s p here (within_refl _ s)).parts (by decide)
  unfold State.part; rw [h]

/-! ### A partition boundary that is due -/

theorem execPartitionBoundary_due {s : State} {p : Nat} {at_ : Long} {rest : List Long} (hb : (s.part p).boundaries = at_ :: rest)
    (hd : at_ ≤ s.bell.count) (ht : trainingPart s ≠ some p) :
    execPartitionBoundary p s =
      .next (releaseRings (partitionBoundary (s.modPart p fun v => { v with boundaries := rest }) p) p fun b => b == at_) := by
  unfold execPartitionBoundary
  simp only [hb, if_pos hd, if_neg ht]

/-- The boundary that is due leaves those under way, clears the partition's failed steps and releases who waited for it. -/
theorem partitionBoundary_passes {p : Nat} (hp : p < 4) (at_ : Long) (rest : List Long) :
    let t := releaseRings (partitionBoundary (s.modPart p fun v => { v with boundaries := rest }) p) p fun b => b == at_
    (t.part p).boundaries = rest ∧ (∀ x, x < 8 → ((t.part p).ctx x).stepFailed = false) ∧
      ∀ g x, g ∈ coresOfPart s p → ((s.core g).ring x).boundaryAt = some at_ →
        ((t.core g).ring x).released = true ∧ ((t.core g).ring x).boundaryAt = some s.bell.count := by
  extract_lets t
  set s1 := s.modPart p fun v => { v with boundaries := rest } with hs1
  have hframe : BoundaryFrame s1 (partitionBoundary s1 p) := boundaryFrame_partitionBoundary s1 p
  have hpart : t.part p = (partitionBoundary s1 p).part p := releaseRings_part _ p p _
  have hbell : (partitionBoundary s1 p).bell = s.bell :=
    (within_partitionBoundary (S := (· ∈ [Piece.pages, .cores, .parts, .crier])) at0 at1 at2 at3 s1 p (within_refl _ s1)).bell
      (by decide)
  refine ⟨?_, fun x hx => ?_, fun g x hg hw => ?_⟩
  · rw [hpart, hframe.boundaries, hs1, State.part_modPart]
  · rw [hpart]; exact partitionBoundary_stepFailed s1 p hx
  · have hcores : g ∈ coresOfPart (partitionBoundary s1 p) p := by rw [hframe.coresOfPart hp]; exact hg
    have hring : (t.core g).ring x = ((s.core g).ring x).release (fun b => b == at_) s.bell.count := by
      rw [show (t.core g).ring x = _ from releaseRings_ring _ p _ hcores x, hframe.ring, hbell]
      rfl
    rw [hring, Ring.release_waiting (here := fun b => b == at_) hw (beq_self_eq_true at_)]
    exact ⟨rfl, rfl⟩

/-! ### A boundary made through JOB_CMD (R474) -/

theorem jobCmdAddr_page (p : Nat) : jobCmdAddr p / 0x1000 = pnPart p := by unfold jobCmdAddr; omega

theorem trainingPart_disarm (pn : Nat) : trainingPart (disarm s pn) = trainingPart s := rfl

theorem execJobCmdBoundary_served {s : State} {init p : Nat} (h : Served s init (jobCmdAddr p) true)
    (ht : trainingPart s ≠ some p) :
    execJobCmdBoundary ⟨init, false⟩ p s = .next (partitionBoundary (disarm s (pnPart p)) p) := by
  have hw := ctlWrite_served h 3 fun t => jobBoundary t init p 3
  rw [jobCmdAddr_page, jobBoundary, trainingPart_disarm, if_neg ht] at hw
  exact congrArg Host.Outcome.next hw

/-! ### BOUNDARY (R200, R363) -/

/-- The ring of a record that is about to complete holds nothing any more. -/
theorem completes_completeHold (g : Nat) (c : CmdRec) (e : Completion) : Completes s (completeHold s g c e) g c e :=
  (completes_completeCmd _ g none c e).of_eq rfl (fun _ _ => rfl) (fun _ => rfl) rfl
    (by rw [State.ring_modRing]) fun h => h

theorem completeHold_hold (g : Nat) (c : CmdRec) (e : Completion) : ((completeHold s g c e).core g |>.ring c.ctx).hold = none :=
  (completeCmd_hold _ g none c e (by rw [State.ring_modRing])).1

/-- A core without a gather group has none to close. -/
theorem closeGather_eq_self {g : Nat} (h : (s.core g).gather = none) : closeGather s g = s := by
  simp only [closeGather, issueGather, h]

section
variable {s} {core ctx : Nat} {c : CmdRec} (hold : holdingRec s core ctx opBoundary = some c)
include hold

theorem execBoundary_released (hr : ((s.core core).ring ctx).released = true) :
    execBoundary core ctx s =
      .next (if ((s.core core).ring ctx).boundaryAt.getD 0 < s.bell.count then completeHold s core c {} else s) := by
  unfold execBoundary
  simp only [hold, hr, if_true]

variable (hr : ((s.core core).ring ctx).released = false) (hb : ((s.core core).ring ctx).boundaryAt = none)
  (he : earlierDone s core c = true) (hg : (s.core core).gather = none)
include hr hb he hg

theorem execBoundary_training (ht : trainingPart s = some ((partOfCore s core).getD 4)) :
    execBoundary core ctx s = .next (s.modRing core ctx fun r => { r with boundaryAt := some s.bell.count }) := by
  simp [execBoundary, hold, hr, hb, he, closeGather_eq_self s hg, ht]

theorem execBoundary_schedules (ht : trainingPart s ≠ some ((partOfCore s core).getD 4)) :
    let due : Long := if ((s.core core).ring ctx).holdAt + 256 ≤ s.bell.count then s.bell.count
      else ((s.core core).ring ctx).holdAt + 256
    execBoundary core ctx s =
      .next ((s.modRing core ctx fun r => { r with boundaryAt := some due }).modPart ((partOfCore s core).getD 4) fun v =>
        { v with boundaries := insertDue due v.boundaries }) := by
  simp [execBoundary, hold, hr, hb, he, closeGather_eq_self s hg, ht]

end

/-- Settles O19: BOUNDARY by what the record waits for, and the partition boundary by what it leaves. -/
theorem boundariesPass : Obligations.BoundariesPass := by
  unfold Obligations.BoundariesPass
  intro s core ctx part init at_ rest c p ring holds due
  refine ⟨fun ⟨hc, hold⟩ hr hlt => ?_, fun ⟨_, hold⟩ hr hlt => ?_, fun ⟨_, hold⟩ hr hb he hg => ?_,
    fun hp ht hb hd => ?_, fun hp ht hserved => ?_⟩
  · subst hc
    exact ⟨_, (execBoundary_released hold hr).trans (congrArg _ (if_pos hlt)), completes_completeHold s core c {},
      completeHold_hold s core c {}⟩
  · exact (execBoundary_released hold hr).trans (congrArg _ (if_neg hlt))
  · by_cases ht : trainingPart s = some p
    · exact ⟨_, execBoundary_training hold hr hb he hg ht,
        changes_of (within_State_modRing at0 _ _ _ _ (within_refl _ s)),
        fun _ => ⟨State.ring_modRing s core ctx _, rfl⟩, fun hn => absurd ht hn⟩
    · exact ⟨_, execBoundary_schedules hold hr hb he hg ht,
        changes_of (within_State_modPart at1 _ _ _ (within_State_modRing at0 _ _ _ _ (within_refl _ s))),
        fun hy => absurd hy ht, fun _ => ⟨by rw [State.modPart_core, State.ring_modRing], State.part_modPart _ p _⟩⟩
  · have hrun := execPartitionBoundary_due hb hd ht
    exact ⟨_, hrun, changes_of (within_execPartitionBoundary at0 at1 at2 at3 part s (within_refl _ s) _ hrun),
      partitionBoundary_passes s hp at_ rest⟩
  · have hframe := boundaryFrame_partitionBoundary (disarm s (pnPart part)) part
    refine ⟨_, execJobCmdBoundary_served hserved ht,
      changes_of (within_partitionBoundary at0 at1 at2 at3 _ part (within_disarm at0 _ _ (within_refl _ s))), ?_,
      fun x hx => partitionBoundary_stepFailed _ part hx⟩
    rw [hframe.boundaries, disarm_part]

end Sys2Proof.Machine

/-! The crier's trap rings: what the record of a trap leaves (R205, R206, R539, R540). -/

namespace Sys2Proof.Machine

variable (s : State)

/-! ### A record and its ring -/

/-- The memory key of the next record of a trap ring. -/
def trapKey (k : Nat) : Nat :=
  s.regAddr pnCrier (0x200 + k * 0x20) + 64 * ((s.crierRing k).tail.toNat % 2 ^ trapRingLog2 s k)

/-- A trap ring takes a further record: it is on and not full, and the record's place meets no other partition's hub SRAM. -/
def TrapRoom (k : Nat) : Prop :=
  (trapRingHi s k).testBit 31 = true ∧ ((s.crierRing k).tail - (s.crierRing k).head).toNat ≠ 2 ^ trapRingLog2 s k ∧
    slotForeign s k (trapKey s k) = false

/-- A ring with a record dropped. -/
def TrapRing.drop (r : TrapRing) : TrapRing :=
  { r with dropped := if r.dropped = BitVec.allOnes 32 then r.dropped else r.dropped + 1 }

theorem ringRecord_of_room {s : State} {k : Nat} (h : TrapRoom s k) (hp : PlainStore s (trapKey s k) 64) (record : BitVec 512) :
    ringRecord record s k = (memWrite s (trapKey s k) (leBytes 64 record.toNat)).setCrierRing k
      { s.crierRing k with tail := (s.crierRing k).tail + 1 } := by
  obtain ⟨hon, hfull, hown⟩ := h
  unfold trapKey at hown
  have hstore : memStore s (trapKey s k) (leBytes 64 record.toNat) = (memWrite s (trapKey s k) (leBytes 64 record.toNat), none) :=
    memStore_plain _ _ (by rwa [leBytes_length])
  unfold trapKey at hstore ⊢
  unfold ringRecord
  simp only [hon, beq_false_of_ne hfull, hown, hstore, Bool.not_false, Bool.and_self, if_true]

theorem ringRecord_of_no_room {s : State} {k : Nat} (h : ¬ TrapRoom s k) (record : BitVec 512) :
    ringRecord record s k = setEvent (s.setCrierRing k (s.crierRing k).drop) pnCrier 1 := by
  unfold ringRecord
  refine if_neg fun hc => h ?_
  simp only [Bool.and_eq_true, Bool.not_eq_true', beq_eq_false_iff_ne] at hc
  obtain ⟨⟨hon, hfull⟩, hown⟩ := hc
  exact ⟨hon, hfull, hown⟩

/-! ### The trap that is taken -/

/-- The state in which the crier has taken the oldest trap from those pending, and counted it. -/
def takeTrap (rest : List Trap) : State :=
  ({ s with crier := { s.crier with pending := rest } } : State).count pnCrier 0 1

theorem execTrapRecord_single {s : State} {tr : Trap} {rest : List Trap} {k : Nat} (hp : s.crier.pending = tr :: rest)
    (hk : tr.rings = [k]) :
    execTrapRecord s = .next (serviceTrap tr.record (ringRecord tr.record (takeTrap s rest) k)) := by
  simp only [execTrapRecord, hp, hk, List.foldl_cons, List.foldl_nil, takeTrap]

theorem takeTrap_reg (rest : List Trap) (pn off : Nat) : (takeTrap s rest).reg pn off = s.reg pn off :=
  State.reg_count _ _ _ _ _ _

theorem takeTrap_crierRing (rest : List Trap) (k : Nat) : (takeTrap s rest).crierRing k = s.crierRing k := rfl

theorem takeTrap_counter (rest : List Trap) : (takeTrap s rest).counter pnCrier 0 = s.counter pnCrier 0 + 1 :=
  State.counter_count_same _ _ _ _

theorem within_takeTrap (rest : List Trap) {S : Piece → Prop} (hp : S .pages) (hc : S .crier) :
    Within S s (takeTrap s rest) :=
  within_State_count hp _ _ _ _ { within_refl S s with crier := keep_of hc }

theorem plainStore_takeTrap (rest : List Trap) {a n : Nat} (h : PlainStore s a n) : PlainStore (takeTrap s rest) a n :=
  plainStore_count _ _ _ _ _ _ h

theorem trapRingHi_takeTrap (rest : List Trap) (k : Nat) : trapRingHi (takeTrap s rest) k = trapRingHi s k := by
  simp only [trapRingHi, State.regN, takeTrap_reg]

theorem trapRingLog2_takeTrap (rest : List Trap) (k : Nat) : trapRingLog2 (takeTrap s rest) k = trapRingLog2 s k := by
  simp only [trapRingLog2, trapRingHi_takeTrap]

theorem trapKey_takeTrap (rest : List Trap) (k : Nat) : trapKey (takeTrap s rest) k = trapKey s k := by
  simp only [trapKey, State.regAddr, State.regN, takeTrap_reg, takeTrap_crierRing, trapRingLog2_takeTrap]

theorem trapRoom_takeTrap (rest : List Trap) (k : Nat) : TrapRoom (takeTrap s rest) k ↔ TrapRoom s k := by
  simp only [TrapRoom, trapRingHi_takeTrap, trapRingLog2_takeTrap, trapKey_takeTrap, takeTrap_crierRing, slotForeign, hubGrant,
    State.regN, takeTrap_reg]

/-! ### The controller that serves the trap's core (R21, R542) -/

/-- The core that a trap record names as its source. -/
def trapCore (record : BitVec 512) : Nat := bits record.toNat 31 24

/-- A trap that its controller can service halts none. -/
theorem serviceTrap_eq_self {record : BitVec 512} (h : trapCore record < 160 → Config.cannotService record = false) :
    serviceTrap record s = s := by
  unfold serviceTrap
  refine if_neg fun hc => ?_
  simp only [Bool.and_eq_true, decide_eq_true_eq] at hc
  obtain ⟨⟨hcore, hcannot⟩, _⟩ := hc
  exact Bool.false_ne_true ((h hcore).symm.trans hcannot)

theorem frontOf_of_halted {g : Nat} (h : (dieCtlOf s g).halted = true) (q : QueueId) (op : Nat) : frontOf s g q op = none := by
  have hfront : frontCmd s g q = none := by
    unfold frontCmd
    split
    · rfl
    · simp [h]
  rw [frontOf, hfront, Option.bind_none]

theorem eventRing_dieCtl {g : Nat} (h : g < 160) : eventRing s (pnDieCtlOf g) = 4 := by
  have hpage : page? (pnDieCtlOf g) =
      some { ty := ptDieCtl, inst := pnDieCtlOf g % 0x1000, die := pnDieCtlOf g / 0x1000 - 1 } := by
    unfold page? diePage?
    unfold pnDieCtlOf pnDieCtl pnDie
    rw [if_neg (by omega), if_pos (by omega), if_pos (by omega)]
  simp only [eventRing, hpage]
  exact if_neg (by decide)

/-! ### Events and the rings -/

theorem State.crierRing_setCrierRing (k : Nat) (v : TrapRing) : (s.setCrierRing k v).crierRing k = v := mget_mset_same _ _ _ _

theorem State.crierRing_setCrierRing_ne {k j : Nat} (v : TrapRing) (h : j ≠ k) :
    (s.setCrierRing k v).crierRing j = s.crierRing j :=
  mget_mset_ne _ _ _ h

/-- A queued event moves no trap ring's tail and drops no trap record. -/
theorem queueEvent_crierRing (pn k : Nat) : ((queueEvent s pn).crierRing k).tail = (s.crierRing k).tail ∧
    ((queueEvent s pn).crierRing k).dropped = (s.crierRing k).dropped := by
  unfold queueEvent
  dsimp only
  by_cases h : k = eventRing s pn
  · subst h
    rw [State.crierRing_setCrierRing]
    split <;> exact ⟨rfl, rfl⟩
  · rw [State.crierRing_setCrierRing_ne s _ h]
    exact ⟨rfl, rfl⟩

theorem setEvent_crierRing (pn b k : Nat) : ((setEvent s pn b).crierRing k).tail = (s.crierRing k).tail ∧
    ((setEvent s pn b).crierRing k).dropped = (s.crierRing k).dropped := by
  unfold setEvent
  dsimp only
  split
  · exact queueEvent_crierRing _ pn k
  · exact ⟨rfl, rfl⟩

theorem setEvent_traps (pn b : Nat) : (setEvent s pn b).crier.pending = s.crier.pending := by
  unfold setEvent
  dsimp only
  split <;> rfl

/-- An event that is enabled and was not set joins its ring's queue, where that has room. -/
theorem setEvent_events {pn b k : Nat} (hk : ∀ t : State, eventRing t pn = k) (he : (s.page pn).evtEnable.getLsbD b = true)
    (hs : (s.page pn).evtStatus.getLsbD b = false) (hr : (s.crierRing k).events.length < 64) :
    ((setEvent s pn b).crierRing k).events = (s.crierRing k).events ++ [pn * 0x1000] := by
  unfold setEvent
  simp only [he, hs, Bool.not_false, Bool.and_self, if_true, queueEvent, hk, State.crierRing_setCrierRing]
  exact congrArg TrapRing.events (if_pos hr)

/-- A trap that its controller cannot service halts it, and where the page's HALTED event is enabled the device ring hears. -/
theorem serviceTrap_events {record : BitVec 512} (hc : trapCore record < 160) (hn : Config.cannotService record = true)
    (hh : (dieCtlOf s (trapCore record)).halted = false)
    (he : (s.page (pnDieCtlOf (trapCore record))).evtEnable.getLsbD 0 = true)
    (hs : (s.page (pnDieCtlOf (trapCore record))).evtStatus.getLsbD 0 = false) (hr : (s.crierRing 4).events.length < 64) :
    ((serviceTrap record s).crierRing 4).events = (s.crierRing 4).events ++ [pnDieCtlOf (trapCore record) * 0x1000] := by
  have hrun : serviceTrap record s = setEvent (setDieCtlOf s (trapCore record)
      { dieCtlOf s (trapCore record) with halted := true, haltCode := BitVec.ofNat 8 record.toNat })
      (pnDieCtlOf (trapCore record)) 0 := by
    unfold trapCore at hc hh ⊢
    simp only [serviceTrap, hc, hn, hh, decide_true, Bool.not_false, Bool.and_self, if_true]
  rw [hrun]
  exact setEvent_events _ (fun t => eventRing_dieCtl t hc) he hs hr

/-! ### A trap that halts its controller -/

/-- The device ring is on, at key 0, and empty. -/
def deviceRingOn : State := { pages := [(pnCrier, { regs := [(0x284, 0x80000000)] })] }

theorem deviceRingOn_room : TrapRoom deviceRingOn 4 ∧ trapKey deviceRingOn 4 = 0 := by unfold TrapRoom; decide

/-- The same, with a trap of this record pending, and the HALTED event enabled of the controller that serves the trap's core. -/
def haltWaits (record : BitVec 512) : State :=
  { deviceRingOn with
    crier := { pending := [{ rings := [4], record := record }] },
    pages := deviceRingOn.pages ++ [(pnDieCtlOf (trapCore record), { evtEnable := 1 })] }

theorem pnDieCtlOf_ne_pnCrier (g : Nat) : pnDieCtlOf g ≠ pnCrier := by unfold pnCrier pnDieCtlOf pnDieCtl pnDie; omega

theorem haltWaits_page (record : BitVec 512) :
    (haltWaits record).page (pnDieCtlOf (trapCore record)) = { evtEnable := 1 } := by
  simp [State.page, haltWaits, deviceRingOn, mget, mget?, (pnDieCtlOf_ne_pnCrier _).symm]

theorem haltWaits_reg (record : BitVec 512) (off : Nat) : (haltWaits record).reg pnCrier off = deviceRingOn.reg pnCrier off :=
  State.reg_of_page rfl off

theorem haltWaits_trapRingHi (record : BitVec 512) : trapRingHi (haltWaits record) 4 = trapRingHi deviceRingOn 4 := by
  simp only [trapRingHi, State.regN, haltWaits_reg]

theorem haltWaits_trapRingLog2 (record : BitVec 512) : trapRingLog2 (haltWaits record) 4 = trapRingLog2 deviceRingOn 4 := by
  simp only [trapRingLog2, haltWaits_trapRingHi]

theorem haltWaits_crierRing (record : BitVec 512) : (haltWaits record).crierRing 4 = {} := rfl

theorem haltWaits_key (record : BitVec 512) : trapKey (haltWaits record) 4 = 0 := by
  refine Eq.trans ?_ deviceRingOn_room.2
  simp only [trapKey, State.regAddr, State.regN, haltWaits_reg, haltWaits_trapRingLog2, haltWaits_crierRing]
  rfl

theorem haltWaits_room (record : BitVec 512) : TrapRoom (haltWaits record) 4 := by
  obtain ⟨⟨hon, hfull, -⟩, -⟩ := deviceRingOn_room
  exact ⟨by rwa [haltWaits_trapRingHi], by rwa [haltWaits_trapRingLog2], rfl⟩

theorem haltWaits_plain (record : BitVec 512) : PlainStore (haltWaits record) (trapKey (haltWaits record) 4) 64 := by
  rw [haltWaits_key]
  exact ⟨rfl, fun h => absurd h (by decide)⟩

theorem dieCtlOf_not_halted {s : State} (h : s.dies = []) (g : Nat) : (dieCtlOf s g).halted = false := by
  unfold dieCtlOf State.die
  rw [h]
  split <;> rfl

/-- In that state the record is written, but the ring does not stand as the record alone left it: the halt's event is queued
in the same ring. -/
theorem haltWaits_events {record : BitVec 512} (hc : trapCore record < 160) (hn : Config.cannotService record = true) {t : State}
    (ht : execTrapRecord (haltWaits record) = .next t) : (t.crierRing 4).events = [pnDieCtlOf (trapCore record) * 0x1000] := by
  set u := takeTrap (haltWaits record) [] with hu
  have hroom : TrapRoom u 4 := (trapRoom_takeTrap _ [] 4).2 (haltWaits_room record)
  have hplain : PlainStore u (trapKey u 4) 64 := by
    rw [hu, trapKey_takeTrap]
    exact plainStore_takeTrap _ [] (haltWaits_plain record)
  have hpage : u.page (pnDieCtlOf (trapCore record)) = { evtEnable := 1 } := by
    rw [hu, takeTrap, State.page_count_ne _ _ _ _ _ (pnDieCtlOf_ne_pnCrier _)]
    exact haltWaits_page record
  rw [execTrapRecord_single (k := 4) rfl rfl, ← hu, ringRecord_of_room hroom hplain] at ht
  cases ht
  have hring : ∀ v : State, ∀ r, (v.setCrierRing 4 r).crierRing 4 = r := fun v r => State.crierRing_setCrierRing v 4 r
  refine (serviceTrap_events _ hc hn ?_ ?_ ?_ ?_).trans ?_
  · exact dieCtlOf_not_halted rfl _
  · rw [State.setCrierRing_page, memWrite_page, hpage]; decide
  · rw [State.setCrierRing_page, memWrite_page, hpage]; decide
  · rw [hring]; exact Nat.succ_pos 63
  · rw [hring]; rfl

/-! ### How the obligation on trap records stands -/

theorem halts_of_same_dies {s t : State} (h : t.dies = s.dies) {record : BitVec 512} (g : Nat) (q : QueueId) (op : Nat)
    (hh : (dieCtlOf t g).halted = true) : frontOf t g q op = none ∧ ((dieCtlOf s g).halted = true ∨
      (bits record.toNat 31 24 / 20 = g / 20 ∧ (dieCtlOf t g).haltCode = record.setWidth 8)) := by
  refine ⟨frontOf_of_halted t hh q op, .inl ?_⟩
  have hd : dieCtlOf t g = dieCtlOf s g := by unfold dieCtlOf State.die; rw [h]
  exact hd ▸ hh

/-- O21 (unsettled) says exactly that no trap with a source core halts its controller: its clause on a written record keeps
the device ring's event queue, and the HALTED event of a halt joins that queue (R530). Which traps halt one is open (log 95):
`Config.cannotService` is opaque, so neither side of the equivalence, nor its negation, can be proved of the model. -/
theorem trapRecorded_iff_no_trap_halts :
    Obligations.TrapRecorded ↔ ∀ record, trapCore record < 160 → Config.cannotService record = false := by
  unfold Obligations.TrapRecorded
  constructor
  · intro h record hc
    by_contra hn
    rw [Bool.not_eq_false] at hn
    obtain ⟨t, ht, -, -, -, -, hring, -⟩ := (h (haltWaits record) { rings := [4], record := record } [] 4 rfl rfl).1
      (haltWaits_room record) (haltWaits_plain record)
    have hevents := haltWaits_events hc hn ht
    rw [hring] at hevents
    exact absurd hevents (List.cons_ne_nil _ _).symm
  · intro h s tr rest k hpend hrings r n key halts room
    have hrun : exec .trapRecord s = .next (ringRecord tr.record (takeTrap s rest) k) :=
      (execTrapRecord_single hpend hrings).trans (congrArg _ (serviceTrap_eq_self _ (h tr.record)))
    refine ⟨fun hroom hplain => ?_, fun hroom => ?_⟩
    · rw [ringRecord_of_room ((trapRoom_takeTrap s rest k).2 hroom)
        (by rw [trapKey_takeTrap]; exact plainStore_takeTrap s rest hplain), trapKey_takeTrap] at hrun
      refine ⟨_, hrun,
        changes_of (within_State_setCrierRing at3 _ _ _ (within_memWrite at0 _ _ _ (within_takeTrap s rest at1 at3))),
        fun g q op _ => halts_of_same_dies rfl g q op, rfl, takeTrap_counter s rest,
        State.crierRing_setCrierRing _ _ _, fun a => ?_⟩
      rw [memByte_setCrierRing, memByte_memWrite, memByte_memWrite]
      rfl
    · rw [ringRecord_of_no_room (mt (trapRoom_takeTrap s rest k).1 hroom)] at hrun
      have hring := setEvent_crierRing ((takeTrap s rest).setCrierRing k ((takeTrap s rest).crierRing k).drop) pnCrier 1 k
      rw [State.crierRing_setCrierRing] at hring
      refine ⟨_, hrun,
        changes_of (within_setEvent at0 at2 _ _ _ (within_State_setCrierRing at2 _ _ _ (within_takeTrap s rest at0 at2))),
        fun g q op _ => halts_of_same_dies (setEvent_dies _ _ _) g q op, setEvent_traps _ _ _, ?_, hring.1, hring.2⟩
      rw [setEvent_counter]
      exact takeTrap_counter s rest

end Sys2Proof.Machine

/-! What every command keeps to: a next state, and the parts that `touches` lists for it (R29; log 2). -/

namespace Sys2Proof.Laws.Touches

/-- The laws of the single commands, in the order of the table. -/
theorem holds (c : Instr) : Statement c :=
  Instr.casesOn (motive := Statement) c doorbell heldWriteRelease recordFetch nop matmul gatherHoldExpiry matmulT
    accRead reduceX attnFwd attnBwd attnDecode couch conv vec vecProg updateP1 updateP2 move gather scatter signal wait
    waitTimeout fence boundary partitionBoundary tileResident writebackAck trapRecord almanacTailWrite prefetch send
    recvExpect boundaryArm stepBoundary toll tollLevelDeadline evalWindow evalWindowClose retrainWindow
    retrainWindowClose checkpoint wake entryComplete deadlineMiss waitLimitExpiry bellTick epochMark measurementWindow
    bellUnlock glitch write read readResp atomic atomicResp tileRts tileData collective vote result openMsg msgAck
    msgNak bell negotiate linkCtl idle linkReplay fecUncorrectable frame priorityPause priorityPauseExpiry retransmit
    contextTimeout linkRetrain linkRetrainDone portTraining ctxOpen ctxClose linkReqTailWrite linkReqWrite linkReqRead
    linkReqAtomic reduceScatter allGather allReduce linkReqComplete d2dReplay hbmRetrainTrigger hbmRetrainEnd retrainDue
    admitJob admitDigestDone admitTimeout endJob jobCmdBoundary suspend resume discard sliceStart tileKill saveRestore
    drainCut Touches.seal Touches.unseal load attest pwrEnAssert pwrEnDeassert undervoltage overvoltage
    domainRegulation modRstNAssert modRstNRelease throttleNAssert throttleNDeassert throttleLong droopSag droopDeep
    droopRecover droopHoldEnd capPeriod fastLimit thermalShutdown supplyWarn heldResetRelease warmReset dieReset coreReset
    resetComplete bootRom stage1 stage2 bootOk startWatchdogExpiry info readFlash writeSlot commitSlot clearCounter
    raevoReset registerAccessFrame deviceId state supply temps alertCause alertClear clocks fail cap alertResponse
    smbusTimeout expertKey expertLock evtStatusWrite evtForce shadowDiscard rcRead counterLowRead opkeyBurn
    registerWrite supplyValid

end Sys2Proof.Laws.Touches

namespace Sys2Proof.Machine

/-- No command stops the block or lacks a meaning. -/
theorem exec_eq_next (c : Instr) (s : State) : ∃ t, exec c s = .next t := by
  cases c <;> exact ⟨_, rfl⟩

/-- Settles O3: the effect of each command is a next state, and the law of the command says what it leaves. -/
theorem commandTouches : Obligations.CommandTouches := by
  unfold Obligations.CommandTouches
  intro c s
  obtain ⟨t, ht⟩ := exec_eq_next c s
  exact ⟨t, ht, Laws.Touches.holds c s t ht⟩

end Sys2Proof.Machine

/-! Control writes of host cores held at the hub, and their release (R31). -/

namespace Sys2Proof.Machine

variable (s : State)

theorem hostOf?_succ {host : Nat} (h : host < 16) : hostOf? (host + 1) = some host := if_pos (by omega)

/-- An access behind stream writes of its own host core waits. -/
theorem mustHold_behind {host : Nat} (h : host < 16) : mustHold s (host + 1) true = true := by
  simp only [mustHold, hostOf?_succ h, Bool.true_or]

/-- An access of a host core none of whose accesses waits, behind no stream write, goes on. -/
theorem mustHold_of_held_nil {s : State} {host : Nat} (h : host < 16) (he : (s.host host).held = []) :
    mustHold s (host + 1) false = false := by
  simp only [mustHold, hostOf?_succ h, he, List.isEmpty_nil, Bool.not_true, Bool.or_false]

theorem regWrite_behind {host : Nat} (h : host < 16) (bytes addr v : Nat) :
    regWrite s (host + 1) bytes addr v true = holdAccess s (host + 1) bytes addr v true := if_pos (mustHold_behind s h)

theorem ctlWrite_behind {host : Nat} (h : host < 16) (addr v : Nat) (served : State → State) :
    ctlWrite s (host + 1) addr v true served = holdAccess s (host + 1) 4 addr v true := if_pos (mustHold_behind s h)

/-- The access that waits is of 32-bit words. -/
theorem holdAccess_ofNat (init bytes addr v : Nat) (write : Bool) :
    holdAccess s init bytes (BitVec.ofNat 32 addr).toNat (BitVec.ofNat 32 v).toNat write =
      holdAccess s init bytes addr v write := by
  simp only [holdAccess, ofNat_toNat_word]

/-- What waits joins the host core's own accesses that wait, last. -/
theorem holdAccess_held (host bytes : Nat) (address value : Word) (write : Bool) :
    ((holdAccess s (host + 1) bytes address.toNat value.toNat write).host host).held =
      (s.host host).held ++ [{ bytes := bytes, address := address, value := value, write := write }] := by
  rw [holdAccess, Nat.add_sub_cancel, State.host_setHost, ofNat_toNat_word, ofNat_toNat_word]

theorem holdAccess_host_ne (host bytes addr v : Nat) (write : Bool) {k : Nat} (h : k ≠ host) :
    (holdAccess s (host + 1) bytes addr v write).host k = s.host k :=
  State.host_setHost_ne _ _ _ _ h

/-- A write that waits alone goes to its page with nothing left to wait. -/
theorem execHeldWriteRelease_singleton {s : State} {host : Nat} {a : HeldAccess} (h : (s.host host).held = [a]) :
    execHeldWriteRelease host s = .next (serveHeld host (s.setHost host {}) a) := by
  simp only [execHeldWriteRelease, h, List.takeWhile_nil, List.drop_nil, List.foldl_cons, List.foldl_nil]

/-- A released write has the effect that the host core's write would have with none of its accesses waiting. -/
theorem serveHeld_eq_regWrite {s : State} {host : Nat} (h : host < 16) (he : (s.host host).held = []) (bytes : Nat)
    (address value : Word) :
    serveHeld host s { bytes := bytes, address := address, value := value, write := true } =
      regWrite s (host + 1) bytes address.toNat value.toNat false := by
  rw [regWrite, mustHold_of_held_nil h he]
  rfl

/-- Settles O12: every command that writes a register waits as the same access. -/
theorem hostWritesHeld : Obligations.HostWritesHeld := by
  unfold Obligations.HostWritesHeld
  intro s host bytes core ctx address value hhost
  have byReg (addr v : Nat) : .next (regWrite s (host + 1) 4 addr v true) =
      exec (.registerWrite (host + 1) 4 (BitVec.ofNat 32 addr) (BitVec.ofNat 32 v) true) s :=
    congrArg Host.Outcome.next (by rw [regWrite_behind s hhost, regWrite_behind s hhost, holdAccess_ofNat])
  have byCtl (addr v : Nat) (f : State → State) : .next (ctlWrite s (host + 1) addr v true f) =
      exec (.registerWrite (host + 1) 4 (BitVec.ofNat 32 addr) (BitVec.ofNat 32 v) true) s := by
    rw [← byReg, regWrite_behind s hhost, ctlWrite_behind s hhost]
  refine ⟨fun _ _ => ?_, ?_, fun hheld => ?_, fun part mask report => ?_⟩
  · have h := byCtl (tailAddr core ctx) value.toNat fun t => ringTail t (host + 1) core ctx value.toNat
    rwa [ofNat_toNat_word] at h
  · exact ⟨_, congrArg Host.Outcome.next (regWrite_behind s hhost _ _ _),
      changes_of (within_holdAccess at0 _ _ _ _ _ _ (within_refl _ s)), holdAccess_held s host bytes address value true,
      fun k hk => holdAccess_host_ne s host _ _ _ _ hk⟩
  · have hempty : ((s.setHost host {}).host host).held = [] := by rw [State.host_setHost]
    exact ⟨_, execHeldWriteRelease_singleton hheld,
      congrArg Host.Outcome.next (serveHeld_eq_regWrite hhost hempty bytes address value).symm⟩
  · simp only [List.forall_mem_cons]
    exact ⟨byReg _ _, byReg _ _, byReg _ _, byReg _ _, byReg _ _, byReg _ _, byCtl _ _ _, byCtl _ _ _, byCtl _ _ _,
      byCtl _ _ _, byCtl _ _ _, byCtl _ _ _, byCtl _ _ _, byCtl _ _ _, byCtl _ _ _, byCtl _ _ _, byCtl _ _ _,
      byCtl _ _ _, byCtl _ _ _, byCtl _ _ _, byCtl _ _ _, byCtl _ _ _, byCtl _ _ _, byCtl _ _ _, byCtl _ _ _,
      List.forall_mem_nil _⟩

end Sys2Proof.Machine

/-! Die-to-die ports: replays, and what a port that goes down stops (R38, R544). -/

namespace Sys2Proof.Machine

variable (s : State)

/-! ### Jobs stopped -/

/-- A context as it is once its job is stopped: suspended, its step failed; a FREE one stays. -/
def Ctx.stopped (c : Ctx) : Ctx := if c.phase = .free then c else { c with phase := .suspended, stepFailed := true }

theorem Ctx.stopped_stopped (c : Ctx) : c.stopped.stopped = c.stopped := by
  unfold Ctx.stopped
  split <;> rfl

/-- The stop of one context, as `stopJobs` does it. -/
def stopCtx (s : State) (p x : Nat) : State :=
  if ((s.part p).ctx x).phase = .free then s else (failStep s p x).modCtx p x fun c => { c with phase := .suspended }

theorem stopJobs_eq : stopJobs s = (List.range 4).foldl (fun t p => (List.range 8).foldl (fun t x => stopCtx t p x) t) s :=
  rfl

theorem ctx_modCtx (p x q y : Nat) (f : Ctx → Ctx) : ((s.modCtx p x f).part q).ctx y =
    if q = p ∧ y = x then f ((s.part q).ctx y) else (s.part q).ctx y := by
  by_cases hq : q = p
  · subst hq
    rw [State.modCtx, State.part_modPart, Part.ctx, Part.setCtx, mget_mset]
    by_cases hy : y = x
    · subst hy; rw [if_pos rfl, if_pos ⟨rfl, rfl⟩]
    · rw [if_neg hy, if_neg fun h => hy h.2]; rfl
  · rw [State.modCtx, State.part_modPart_ne _ _ _ _ hq, if_neg fun h => hq h.1]

theorem ctx_failStep (p x q y : Nat) : ((failStep s p x).part q).ctx y =
    if q = p ∧ y = x then { (s.part q).ctx y with stepFailed := true } else (s.part q).ctx y := by
  rw [← ctx_modCtx s p x q y fun c => { c with stepFailed := true }]
  unfold failStep
  extract_lets s1 late
  split <;> rfl

theorem ctx_stopCtx (p x q y : Nat) : ((stopCtx s p x).part q).ctx y =
    if q = p ∧ y = x then ((s.part q).ctx y).stopped else (s.part q).ctx y := by
  unfold stopCtx Ctx.stopped
  by_cases h : q = p ∧ y = x
  · obtain ⟨rfl, rfl⟩ := h
    split
    · simp
    · rw [ctx_modCtx, ctx_failStep]; simp
  · rw [if_neg h]
    split
    · rfl
    · rw [ctx_modCtx, if_neg h, ctx_failStep, if_neg h]

/-- Steps one after another, of which those that meet a context stop it: one is enough, and more change nothing. -/
theorem foldl_ctx_stopped {β : Type} (f : State → β → State) (meets : β → Prop) [DecidablePred meets] (q y : Nat)
    (hf : ∀ t b, ((f t b).part q).ctx y = if meets b then ((t.part q).ctx y).stopped else (t.part q).ctx y) (l : List β) :
    ((l.foldl f s).part q).ctx y = if ∃ b ∈ l, meets b then ((s.part q).ctx y).stopped else (s.part q).ctx y := by
  induction l generalizing s with
  | nil => simp
  | cons b r ih =>
    rw [List.foldl_cons, ih, hf]
    by_cases hb : meets b
    · simp [hb, Ctx.stopped_stopped]
    · simp [hb]

/-- Every context of the device is stopped. -/
theorem stopJobs_ctx {p x : Nat} (hp : p < 4) (hx : x < 8) :
    ((stopJobs s).part p).ctx x = ((s.part p).ctx x).stopped := by
  have hpart (t : State) (q : Nat) : (((List.range 8).foldl (fun t y => stopCtx t q y) t).part p).ctx x =
      if p = q then ((t.part p).ctx x).stopped else (t.part p).ctx x := by
    rw [foldl_ctx_stopped t (fun t y => stopCtx t q y) (fun y => p = q ∧ x = y) p x fun t y => ctx_stopCtx t q y p x]
    simp [hx]
  rw [stopJobs_eq, foldl_ctx_stopped s _ (fun q => p = q) p x hpart]
  simp [hp]

/-- The stop of every job changes contexts, and what a late failure of a step leaves. -/
theorem within_stopJobs_self : Within (· ∈ [Piece.sched, .parts]) s (stopJobs s) :=
  within_stopJobs at0 at1 _ (within_refl _ s)

theorem stopJobs_d2dOf (port : Nat) : d2dOf (stopJobs s) port = d2dOf s port := by
  rw [d2dOf, (within_stopJobs_self s).d2d (by decide)]; rfl
theorem stopJobs_page (pn : Nat) : (stopJobs s).page pn = s.page pn := by
  rw [State.page, (within_stopJobs_self s).pages (by decide)]; rfl
theorem stopJobs_crier : (stopJobs s).crier = s.crier := (within_stopJobs_self s).crier (by decide)

/-! ### A replay -/

/-- A flit of a port has failed: it is counted, with the port's error event (R544). -/
def flitFailed (s : State) (pn : Nat) : State := setEvent (s.count pn 2 1) pn 1

/-- A replay at a port: it is counted, and the flit that it replays has failed where the run starts with it. -/
def replayed (s : State) (port : Nat) : State :=
  (if (d2dOf s port).replaying then s else flitFailed s (d2dPage port)).count (d2dPage port) 3 1

/-- The replay has failed as well. -/
def replayFailed (s : State) (port : Nat) : State := flitFailed (replayed s port) (d2dPage port)

/-- The port has failed for good: it is down, with its event. -/
def portDown (s : State) (port : Nat) : State :=
  setEvent (setD2d (replayFailed s port) port { d2dOf s port with replaying := false, replays := 0, down := true })
    (d2dPage port) 0

theorem d2dOf_setD2d (port : Nat) (v : D2d) : d2dOf (setD2d s port v) port = v := mget_mset_same _ _ _ _

theorem flitFailed_counter (pn : Nat) : (flitFailed s pn).counter pn 3 = s.counter pn 3 := by
  rw [flitFailed, setEvent_counter, State.counter_count_ne _ _ _ _ _ (by decide)]

theorem replayed_counter (port : Nat) : (replayed s port).counter (d2dPage port) 3 = s.counter (d2dPage port) 3 + 1 := by
  rw [replayed, State.counter_count_same]
  split
  · rfl
  · rw [flitFailed_counter]; rfl

theorem replayFailed_counter (port : Nat) :
    (replayFailed s port).counter (d2dPage port) 3 = s.counter (d2dPage port) 3 + 1 :=
  (flitFailed_counter _ _).trans (replayed_counter s port)

theorem within_flitFailed {S : Piece → Prop} {z s : State} (hp : S .pages) (hc : S .crier) (pn : Nat) (h : Within S z s) :
    Within S z (flitFailed s pn) :=
  within_setEvent hp hc _ _ _ (within_State_count hp _ _ _ _ h)

theorem within_replayed (port : Nat) : Within (· ∈ [Piece.pages, .d2d, .crier]) s (replayed s port) :=
  within_State_count at0 _ _ _ _ (within_ite _ _ _ (within_refl _ s) (within_flitFailed at0 at2 _ (within_refl _ s)))

theorem within_replayFailed (port : Nat) : Within (· ∈ [Piece.pages, .d2d, .crier]) s (replayFailed s port) :=
  within_flitFailed at0 at2 _ (within_replayed s port)

/-- No trap is raised until the port is down. -/
theorem replayFailed_traps (port : Nat) : (replayFailed s port).crier.pending = s.crier.pending := by
  refine (setEvent_traps _ _ _).trans ?_
  unfold replayed
  split
  · rfl
  · exact setEvent_traps _ _ _

theorem portDown_d2dOf (port : Nat) : (d2dOf (portDown s port) port).down = true := by
  rw [portDown, d2dOf, setEvent_d2d]
  exact congrArg D2d.down (d2dOf_setD2d (replayFailed s port) port _)

theorem portDown_event (port : Nat) : ((portDown s port).page (d2dPage port)).evtStatus.getLsbD 0 = true := by
  rw [portDown, setEvent_page]
  simp

theorem portDown_traps (port : Nat) : (portDown s port).crier.pending = s.crier.pending :=
  (setEvent_traps _ _ _).trans (replayFailed_traps s port)

theorem portDown_part (port p : Nat) : (portDown s port).part p = s.part p := by
  have h : Within (· ∈ [Piece.pages, .d2d, .crier]) s (portDown s port) :=
    within_setEvent at0 at2 _ _ _ (within_setD2d at1 _ _ _ (within_replayFailed s port))
  rw [State.part, h.parts (by decide)]
  rfl

section
variable {s} {port : Nat} (hup : (d2dOf s port).down = false)
include hup

theorem execD2dReplay_passed : execD2dReplay port true s =
    .next (setD2d (replayed s port) port { d2dOf s port with replaying := false, replays := 0 }) := by
  simp only [execD2dReplay, hup, Bool.false_eq_true, if_false, if_true]
  rfl

theorem execD2dReplay_failed (hr : (d2dOf s port).replays < 15) : execD2dReplay port false s =
    .next (setD2d (replayFailed s port) port
      { d2dOf s port with replaying := true, replays := (d2dOf s port).replays + 1 }) := by
  simp only [execD2dReplay, hup, Bool.false_eq_true, if_false, if_neg (Nat.not_le.2 hr)]
  rfl

/-- The sixteenth failure in a row. -/
theorem execD2dReplay_down (hr : 15 ≤ (d2dOf s port).replays) :
    ∃ tr : TrapInfo, tr.part = none ∧ tr.code ≠ trapBellUnlock ∧
      execD2dReplay port false s = .next (stopJobs (raiseTrap (portDown s port) (d2dPage port) tr)) := by
  simp only [execD2dReplay, hup, Bool.false_eq_true, if_false, if_pos hr]
  exact ⟨_, rfl, (by decide : trapLinkTimeout ≠ trapBellUnlock), rfl⟩

end

/-- Settles O45: by what the replay ends in; the port that goes down raises its trap and stops every job. -/
theorem dieLinkReplays : Obligations.DieLinkReplays := by
  unfold Obligations.DieLinkReplays
  intro s port _ hup v pn
  refine ⟨?_, fun hr => ?_, fun hr => ?_⟩
  · exact ⟨_, execD2dReplay_passed hup, changes_of (within_setD2d at1 _ _ _ (within_replayed s port)),
      d2dOf_setD2d _ _ _, replayed_counter s port⟩
  · exact ⟨_, execD2dReplay_failed hup hr, changes_of (within_setD2d at1 _ _ _ (within_replayFailed s port)),
      d2dOf_setD2d _ _ _, replayFailed_counter s port⟩
  · obtain ⟨tr, hpart, hcode, hrun⟩ := execD2dReplay_down hup hr
    obtain ⟨trap, hqueued, hrings⟩ := raiseTrap_queued (portDown s port) pn tr
    rw [if_neg hcode, hpart] at hrings
    refine ⟨_, hrun, ?_, ?_, ⟨trap, ?_, hrings⟩, fun p x hp hx hjob => ?_⟩
    · rw [stopJobs_d2dOf, d2dOf, raiseTrap_d2d]
      exact portDown_d2dOf s port
    · rw [stopJobs_page, raiseTrap_evtStatus]
      exact portDown_event s port
    · rw [stopJobs_crier, hqueued, portDown_traps]
    · rw [stopJobs_ctx _ hp hx, raiseTrap_part, portDown_part, Ctx.stopped, if_neg hjob]
      exact ⟨rfl, rfl⟩

end Sys2Proof.Machine

/-! Gather groups: what a command at work in the array leaves as it is, and the group's expiry (R107, R108, R115). -/

namespace Sys2Proof.Machine

variable (s : State)

/-! ### What work on a core keeps -/

/-- The parts of the state of which `CoreWorks` speaks. -/
def State.underWork (s : State) : SMap Page × SMap Core × SMap Die × List Nat × List Nat × SMap (BitVec 36) :=
  (s.pages, s.cores, s.dies, s.bad, s.softBad, s.hbmErr)

/-- From `s` to `t` core `g` has worked on a command that stays where it is: the core differs in its edges, its pipeline and the
cycle of its next issue alone and every other core in nothing, no register word has changed, nor counter 8 of a page, which in an
ARRAY page counts the expiries of gather groups (R115), and memory without errors is still without. -/
structure CoreWorks (g : Nat) (s t : State) : Prop where
  regs     : ∀ pn off, t.reg pn off = s.reg pn off
  expiries : ∀ pn, t.counter pn 8 = s.counter pn 8
  clean    : NoErrors s → NoErrors t
  others   : ∀ k, k ≠ g → t.core k = s.core k
  own      : t.core g = { s.core g with bottom := (t.core g).bottom, side := (t.core g).side, pipe := (t.core g).pipe,
                                        issueAt := (t.core g).issueAt }

variable {s} {t u : State} {g : Nat}

theorem NoErrors.of_eq (h : NoErrors s) (hb : t.bad = s.bad) (hs : t.softBad = s.softBad) (he : t.hbmErr = s.hbmErr)
    (hd : t.dies = s.dies) : NoErrors t := by
  obtain ⟨h1, h2, h3, h4⟩ := h
  refine ⟨hb.trans h1, hs.trans h2, he.trans h3, Eq.trans ?_ h4⟩
  simp only [noneFailed, State.hbmc, State.die, hd]

theorem CoreWorks.trans (h : CoreWorks g s t) (k : CoreWorks g t u) : CoreWorks g s u where
  regs pn off := (k.regs pn off).trans (h.regs pn off)
  expiries pn := (k.expiries pn).trans (h.expiries pn)
  clean hs := k.clean (h.clean hs)
  others j hj := (k.others j hj).trans (h.others j hj)
  own := by rw [k.own, h.own]

/-- A change of pages that keeps their register words and counter 8. -/
theorem CoreWorks.of_pages (hc : t.cores = s.cores) (hd : t.dies = s.dies) (hb : t.bad = s.bad) (hs : t.softBad = s.softBad)
    (he : t.hbmErr = s.hbmErr) (regs : ∀ pn off, t.reg pn off = s.reg pn off)
    (expiries : ∀ pn, t.counter pn 8 = s.counter pn 8) : CoreWorks g s t where
  regs := regs
  expiries := expiries
  clean h := h.of_eq hb hs he hd
  others _ _ := by rw [State.core, hc]; rfl
  own := by rw [State.core, hc]; rfl

/-- Parts of which `CoreWorks` does not speak may change. -/
theorem CoreWorks.of_underWork (h : t.underWork = s.underWork) : CoreWorks g s t := by
  obtain ⟨hp, hc, hd, hb, hs, he⟩ : t.pages = s.pages ∧ t.cores = s.cores ∧ t.dies = s.dies ∧ t.bad = s.bad ∧
      t.softBad = s.softBad ∧ t.hbmErr = s.hbmErr := by simpa [State.underWork] using h
  exact .of_pages hc hd hb hs he (fun _ _ => by simp only [State.reg, State.page, hp])
    fun _ => by simp only [State.counter, State.page, hp]

theorem CoreWorks.refl : CoreWorks g s s := .of_underWork rfl

/-- Steps one after another, each of which is work of the core on the state that `st` finds in what is carried along. -/
theorem CoreWorks.foldl {α β : Type} (st : α → State) (f : α → β → α) (hf : ∀ a b, CoreWorks g (st a) (st (f a b))) (l : List β)
    (a : α) : CoreWorks g (st a) (st (l.foldl f a)) := by
  induction l generalizing a with
  | nil => exact .refl
  | cons b r ih => exact (hf a b).trans (ih _)

theorem CoreWorks.ite {c : Prop} [Decidable c] (h : CoreWorks g s t) (k : CoreWorks g s u) :
    CoreWorks g s (if c then t else u) := by
  split <;> assumption

/-- A state that is the first of a pair. -/
theorem CoreWorks.fst {α : Type} (x : α) (h : CoreWorks g s t) : CoreWorks g s (t, x).1 := h

variable (s)

theorem coreWorks_count (pn k n : Nat) (hk : k ≠ 8 := by decide) : CoreWorks g s (s.count pn k n) := by
  refine .of_pages rfl rfl rfl rfl rfl (State.reg_count s pn k n) fun j => ?_
  rw [counter_count, if_neg fun h => hk h.2.symm]

theorem coreWorks_countOpen (pn k : Nat) (hk : k ≠ 8 := by decide) : CoreWorks g s (s.countOpen pn k) := by
  have drawn : CoreWorks g s (drawFree s).2 := .of_underWork rfl
  exact drawn.trans (coreWorks_count _ _ _ _ hk)

variable {s} in
theorem CoreWorks.count (h : CoreWorks g s t) (pn k n : Nat) (hk : k ≠ 8 := by decide) : CoreWorks g s (t.count pn k n) :=
  h.trans (coreWorks_count t pn k n hk)

theorem coreWorks_setEvent (pn b : Nat) : CoreWorks g s (setEvent s pn b) :=
  .of_pages (setEvent_cores s pn b) (setEvent_dies s pn b) (setEvent_bad s pn b) (setEvent_softBad s pn b)
    (setEvent_hbmErr s pn b) (setEvent_reg s pn b) fun j => setEvent_counter s pn b j 8

theorem coreWorks_capture (pn r : Nat) : CoreWorks g s (capture s pn r) :=
  .of_pages rfl rfl rfl rfl rfl (capture_reg s pn r) fun j => capture_counter s pn r j 8

theorem coreWorks_raiseTrap (pn : Nat) (v : TrapInfo) : CoreWorks g s (raiseTrap s pn v) :=
  .of_pages (raiseTrap_cores s pn v) (raiseTrap_dies s pn v) (raiseTrap_bad s pn v) (raiseTrap_softBad s pn v)
    (raiseTrap_hbmErr s pn v) (raiseTrap_reg s pn v) fun j => raiseTrap_counter s pn v j 8 fun _ _ _ => by decide

/-- The core takes new edges, a new pipeline and a new cycle of issue. -/
theorem coreWorks_setCore (c : Core)
    (hc : c = { s.core g with bottom := c.bottom, side := c.side, pipe := c.pipe, issueAt := c.issueAt }) :
    CoreWorks g s (s.setCore g c) where
  regs _ _ := rfl
  expiries _ := rfl
  clean h := h
  others k hk := State.core_setCore_ne s g k c hk
  own := by rw [State.core_setCore]; exact hc

theorem coreWorks_setEdge (side : Bool) (e : Core → Edge) : CoreWorks g s (s.modCore g fun c => c.setEdge side (e c)) := by
  cases side <;> exact coreWorks_setCore s _ rfl

theorem coreWorks_putEdge (side : Bool) (e : Edge) : CoreWorks g s (s.modCore g fun c => c.setEdge side e) :=
  coreWorks_setEdge s side fun _ => e

/-! ### Passes (R96, R115, R119, R374) -/

theorem coreWorks_countPass (q : PassReq) (load : Bool) (exposed busy : Nat) :
    CoreWorks g s (countPass s g q load exposed busy) := by
  unfold countPass
  extract_lets pn f s1 s2
  have h1 : CoreWorks g s s1 := ((coreWorks_count s _ _ _).count _ _ _).count _ _ _
  have h2 : CoreWorks g s s2 := ((h1.count _ _ _).count _ _ _).count _ _ _
  exact ((h2.count _ _ _).count _ _ _).count _ _ _

theorem coreWorks_countStaged (j n : Nat) : CoreWorks g s (countStaged s j n) := by
  unfold countStaged
  extract_lets s1
  have h1 : CoreWorks g s s1 := (coreWorks_count s _ _ _).count _ _ _
  exact h1.trans (.ite .refl (coreWorks_countOpen s1 _ _))

theorem coreWorks_countLoad (j : Nat) (q : PassReq) (load : Bool) : CoreWorks g s (countLoad s j q load) := by
  unfold countLoad
  extract_lets s1
  have h1 : CoreWorks g s s1 := (coreWorks_countStaged s _ _).trans (coreWorks_countOpen _ _ _)
  exact h1.trans (.ite (((coreWorks_countOpen s1 _ _).count _ _ _).count _ _ _) .refl)

theorem coreWorks_enterPasses (issue dep : Nat) (qs : List PassReq) : CoreWorks g s (enterPasses g issue dep qs s).1 := by
  unfold enterPasses
  refine CoreWorks.foldl Prod.fst _ (fun a q => ?_) qs (s, [])
  extract_lets c r busy s1
  have h1 : CoreWorks g a.1 s1 := (coreWorks_setCore a.1 _ rfl).trans (coreWorks_countPass _ _ _ _ _)
  exact h1.trans (coreWorks_countLoad s1 g q _)

theorem coreWorks_enterTiles (issue dep : Nat) (reqs : List (List PassReq)) :
    CoreWorks g s (enterTiles g issue dep reqs s).1 := by
  unfold enterTiles
  exact CoreWorks.foldl Prod.fst _ (fun a qs => by exact coreWorks_enterPasses a.1 issue dep qs) reqs (s, [])

/-! ### Flags and traps of a command (R127–R130, R142) -/

theorem coreWorks_addDeposits {w : Who} (hw : w.core = g) (r : CmdRec) (side : Bool) (tile : Nat × Nat) (n : Nat) :
    CoreWorks g s (addDeposits s w r side tile n) := by
  subst hw
  unfold addDeposits
  extract_lets e s1
  have h1 : CoreWorks w.core s s1 := coreWorks_setEdge s side _
  exact h1.trans (.ite (coreWorks_raiseTrap s1 _ _) .refl)

theorem coreWorks_noteNans (w : Who) (r : CmdRec) (side already : Bool) (l : List NanAt) :
    CoreWorks g s (noteNans s w r side already l) := by
  unfold noteNans
  split
  · exact .refl
  · exact (coreWorks_count s _ _ _).trans (.ite .refl (coreWorks_raiseTrap _ _ _))

theorem coreWorks_noteOverflows (w : Who) (r : CmdRec) (side already : Bool) (tile : Nat × Nat) (l : List (Nat × Nat)) :
    CoreWorks g s (noteOverflows s w r side already tile l) := by
  unfold noteOverflows
  split
  · exact .refl
  · exact (coreWorks_count s _ _ _).trans (.ite .refl (coreWorks_raiseTrap _ _ _))

end Sys2Proof.Machine

/-! ### Tiles (R134, R142, R143) -/

namespace Sys2Proof.Machine

/-- Core `g` has taken a command from `a` on to `b`: its status is as it was, and where NAN_ACTION is not HALT_AT_TILE it has
not halted. -/
structure RunGoes (g : Nat) (a b : Run) : Prop where
  works  : CoreWorks g a.s b.s
  status : b.status = a.status
  halted : haltsAtTile a.s g = false → b.halted = a.halted

variable {s t : State} {g : Nat} {a b c : Run}

theorem CoreWorks.haltsAtTile (h : CoreWorks g s t) : haltsAtTile t g = haltsAtTile s g := by
  simp only [Machine.haltsAtTile, h.regs]

theorem RunGoes.refl : RunGoes g a a := ⟨.refl, rfl, fun _ => rfl⟩

theorem RunGoes.trans (h : RunGoes g a b) (k : RunGoes g b c) : RunGoes g a c where
  works := h.works.trans k.works
  status := k.status.trans h.status
  halted hs := (k.halted (h.works.haltsAtTile.trans hs)).trans (h.halted hs)

theorem RunGoes.foldl {α β : Type} (run : α → Run) (f : α → β → α) (hf : ∀ x y, RunGoes g (run x) (run (f x y))) (l : List β)
    (x : α) : RunGoes g (run x) (run (l.foldl f x)) := by
  induction l generalizing x with
  | nil => exact .refl
  | cons y r ih => exact (hf x y).trans (ih _)

/-- What a run carries besides its state, its status and its halt may change with its state. -/
theorem RunGoes.of_works (h : CoreWorks g a.s b.s) (hs : b.status = a.status) (hh : b.halted = a.halted) : RunGoes g a b :=
  ⟨h, hs, fun _ => hh⟩

variable (a)

theorem runGoes_put (p : Planes) (rc : RoundCtx) (es : List OutElem) : RunGoes g a (a.put p rc es) := .of_works .refl rfl rfl

theorem runGoes_putXc (w : Who) (key depcnt : Nat) (qs : List Slot) : RunGoes g a (a.putXc w key depcnt qs) :=
  .of_works (coreWorks_count _ _ _ _) rfl rfl

section
variable {w : Who} (hw : w.core = g)
include hw

theorem runGoes_readSlots (cmd : CmdRec) (side keep : Bool) (tile : Nat × Nat) (ks : List (Nat × Nat × Nat)) :
    RunGoes g a (readSlots a w cmd side keep tile ks).1 := by
  subst hw
  unfold readSlots
  extract_lets e qs ovfs s1 s2
  have h1 : CoreWorks w.core a.s s1 := coreWorks_noteOverflows _ _ _ _ _ _ _
  exact .of_works (h1.trans (.ite .refl (coreWorks_setEdge s1 side _))) rfl rfl

theorem runGoes_takeSlotsXc (cmd : CmdRec) (side keep : Bool) (tile : Nat × Nat) (ks : List (Nat × Nat × Option Nat)) :
    RunGoes g a (takeSlotsXc a w cmd side keep tile ks).1 := by
  subst hw
  unfold takeSlotsXc
  extract_lets qs ovfs s1 s2
  have h1 : CoreWorks w.core a.s s1 := coreWorks_noteOverflows _ _ _ _ _ _ _
  exact .of_works (h1.trans (.ite .refl (coreWorks_setEdge s1 side _))) rfl rfl

theorem runGoes_readSlotsXc (cmd : CmdRec) (side keep : Bool) (tile : Nat × Nat) (key : Nat)
    (ks : List (Nat × Nat × Option Nat)) : RunGoes g a (readSlotsXc a w cmd side keep tile key ks) :=
  (runGoes_takeSlotsXc a hw cmd side keep tile ks).trans (runGoes_putXc _ _ _ _ _)

end

/-- A tile runs; it halts at a NaN only where NAN_ACTION says so. -/
theorem runGoes_runTile {m : MatCmd} (hw : m.who.core = g) (w : Mat) (isT : Bool) (sc : Val) (y : Option Planes) (ms : List Nat)
    (t : MatTile) (first : Bool) (es : List Entered) (starts : List (List Nat)) (d xcKey : Nat) :
    RunGoes g a (runTile w isT m sc y ms t first es starts d xcKey a) := by
  subst hw
  unfold runTile
  extract_lets side gr core r0 tile begun rowStep passStep keys start passed mid nans counted s2 src r2 keep rd done
  have hstart : RunGoes core a start := .of_works (.ite .refl (coreWorks_setEdge a.s side _)) rfl rfl
  have hrow (x) (e : Nat × Nat) : RunGoes core x.1 (rowStep x e).1 := by
    unfold rowStep
    extract_lets dep src r1 rd rd'
    have h1 : RunGoes core x.1 r1 := .of_works (coreWorks_putEdge _ _ _) rfl rfl
    split
    · exact h1.trans (runGoes_takeSlotsXc r1 rfl _ _ _ _ _)
    · exact h1.trans (runGoes_readSlots r1 rfl _ _ _ _ _)
  have hpass (x) (e) : RunGoes core x.1 (passStep x e).1 := .of_works (coreWorks_putEdge _ _ _) rfl rfl
  have hpassed : RunGoes core start passed.1 := .foldl Prod.fst _ hpass _ (start, [])
  have hmid : RunGoes core start mid.1 := by
    unfold mid
    split
    · exact .foldl Prod.fst _ hrow _ (start, [], [], [])
    · exact hpassed
  have hcounted : CoreWorks core mid.1.s counted := by
    unfold counted
    split
    · exact .foldl id _ (fun x e => coreWorks_addDeposits x rfl _ _ _ _) _ _
    · exact .refl
  have hr2 : RunGoes core a r2 :=
    (hstart.trans hmid).trans (.of_works (hcounted.trans (coreWorks_noteNans _ _ _ _ _ _)) rfl rfl)
  split
  · next h =>
    refine ⟨hr2.works, hr2.status, fun hs => ?_⟩
    have off := hr2.works.haltsAtTile.trans hs
    rw [Bool.and_eq_true] at h
    exact absurd (h.2.symm.trans off) (by decide)
  · have hdone : RunGoes core r2 done := by
      unfold done
      split
      · exact .refl
      · extract_lets rc
        split
        · split
          · exact runGoes_putXc _ _ _ _ _
          · exact runGoes_readSlotsXc _ rfl _ _ _ _ _ _
        · split
          · exact runGoes_put _ _ _ _
          · exact (runGoes_readSlots r2 rfl _ _ _ _ _).trans (runGoes_put _ _ _ _)
    exact (hr2.trans hdone).trans (.of_works .refl rfl rfl)

/-- The tiles of one command run. -/
theorem runGoes_runMatTiles {m : MatCmd} (hw : m.who.core = g) (isT : Bool) (wm : Mat) (d : Nat)
    (tes : List (MatTile × List Entered)) (i : Nat) (s : State) :
    RunGoes g { s := s } (runMatTiles g isT wm d tes i m s).1 := by
  unfold runMatTiles
  extract_lets r keep keys sc e1 e2 y init out
  have hinit : RunGoes g { s := s } init := .of_works (coreWorks_putEdge s isT _) rfl rfl
  refine hinit.trans (RunGoes.foldl Prod.fst _ (fun x te => ?_) tes (init, 0, 0))
  split
  · exact .refl
  · extract_lets mine ms starts
    split
    · exact .refl
    · exact runGoes_runTile x.1 hw _ _ _ _ _ _ _ _ _ _ _

end Sys2Proof.Machine

/-! ### Reads and write-backs where no unit of memory has an error (R372, R407–R411) -/

namespace Sys2Proof.Machine

variable (s : State) {g : Nat}

theorem slotTable_getD_lt (k : Nat) : (slotTable s).getD k 0 < 512 := by
  rw [List.getD_eq_getElem?_getD]
  cases hk : (slotTable s)[k]? with
  | none => exact (by decide : 0 < 512)
  | some n => exact List.mem_range.1 (List.mem_filter.1 (List.mem_of_getElem? hk)).1

/-- The pseudo-channel that a device address maps to is one of the eight stacks'. -/
theorem hbmPlace_lt (d : Nat) : (hbmPlace s d).1 < 512 := by
  unfold hbmPlace healthyPcs
  by_cases hall : noneExcluded s = true
  · simp only [hall, if_true]
    exact Nat.mod_lt _ (by decide)
  · simp only [hall, Bool.false_eq_true, if_false]
    exact slotTable_getD_lt s _

section
variable {s} (hn : NoErrors s)
include hn

theorem NoErrors.chFailed (d : Nat) : hbmChFailed s d = false := by
  have hlt := hbmPlace_lt s d
  have hall := List.all_eq_true.1 hn.2.2.2 ((hbmPlace s d).1 / 64) (List.mem_range.2 (by omega))
  rw [show (hbmPlace s d).1 / 64 / 2 = (hbmPlace s d).1 / 128 by omega, beq_iff_eq] at hall
  rw [hbmChFailed, hall]
  exact BitVec.getLsbD_zero

theorem NoErrors.burst (d : Nat) : burstState s d = .clean := by
  simp [burstState, hn.2.2.1, decodeBurst]

theorem NoErrors.cleanTier (t : Nat) : cleanTier s t = true := by
  obtain ⟨hb, hs, he, hf⟩ := hn
  unfold Machine.cleanTier
  split <;> simp [hb, hs, he, hf]

theorem NoErrors.unitBad (u : Nat) : unitBad s u = false := by
  simp [Machine.unitBad, hn.chFailed, hn.burst, hn.1]

theorem NoErrors.unitSoft (u : Nat) : unitSoft s u = false := by
  simp [Machine.unitSoft, hn.burst, hn.2.1]

end

theorem coreWorks_slabTraffic (a n : Nat) (write vertical : Bool) : CoreWorks g s (slabTraffic s a n write vertical) := by
  unfold slabTraffic
  refine .ite ((coreWorks_count s _ _ _ ?_).trans (coreWorks_count _ _ _ _ ?_)) .refl <;> split <;> decide

theorem changes_slabTraffic (a n : Nat) (write vertical : Bool) : Changes [.pages] s (slabTraffic s a n write vertical) :=
  changes_of (within_slabTraffic at0 s a n write vertical (within_refl _ s))

/-- Reads meet no error: they move the counters of the slab ports alone. -/
theorem readSpans_of_noErrors (vertical : Bool) (spans : List (Nat × Nat)) {s : State} (hn : NoErrors s) :
    CoreWorks g s (readSpans s vertical spans) ∧ Changes [.pages] s (readSpans s vertical spans) := by
  unfold readSpans
  induction spans generalizing s with
  | nil => exact ⟨.refl, changes_of (within_refl _ s)⟩
  | cons e r ih =>
    rw [List.foldl_cons, correctSpan_none (hn.cleanTier _)]
    have hw : CoreWorks g s (slabTraffic s e.1 e.2 false vertical) := coreWorks_slabTraffic s _ _ _ _
    obtain ⟨hworks, hchanges⟩ := ih (hw.clean hn)
    exact ⟨hw.trans hworks, (changes_slabTraffic s _ _ _ _).trans hchanges⟩

/-- Stores on a memory without errors: every unit takes its bytes, and the core is at work. -/
def StoresAll (g : Nat) (s : State) (r : State × Option Nat) : Prop := CoreWorks g s r.1 ∧ r.2 = none

variable {s}

theorem StoresAll.after {t : State} {r : State × Option Nat} (h : StoresAll g t r) (hw : CoreWorks g s t) : StoresAll g s r :=
  ⟨hw.trans h.1, h.2⟩

/-- Stores one after another, the units that could not be written joined. -/
theorem StoresAll.foldl {β : Type} (f : State × Option Nat → β → State × Option Nat)
    (hf : ∀ t b, NoErrors t → StoresAll g t (f (t, none) b)) (l : List β) (hn : NoErrors s) :
    StoresAll g s (l.foldl f (s, none)) := by
  induction l generalizing s with
  | nil => exact ⟨.refl, rfl⟩
  | cons b r ih =>
    obtain ⟨h1, h2⟩ := hf s b hn
    have e : f (s, none) b = ((f (s, none) b).1, none) := Prod.ext rfl h2
    rw [List.foldl_cons, e]
    exact (ih (h1.clean hn)).after h1

theorem StoresAll.join {r : State × Option Nat} (h : StoresAll g s r) : StoresAll g s (joinBad r.1 none r.2) := by
  obtain ⟨h1, h2⟩ := h
  rw [h2]
  exact ⟨h1, rfl⟩

theorem coreWorks_freshBurst (hn : NoErrors s) (d : Nat) : CoreWorks g s (freshBurst s d) := by
  refine .of_underWork ?_
  simp only [State.underWork, freshBurst, hn.2.2.1]
  generalize hbmBurst s d = k
  rfl

theorem coreWorks_memWrite (t : State) (a : Nat) (bs : List Byte) : CoreWorks g t (memWrite t a bs) := .of_underWork rfl

theorem coreWorks_setBurstKey (t : State) (b k : Nat) : CoreWorks g t (setBurstKey t b k) := .of_underWork rfl

theorem storesAll_storePiece (hn : NoErrors s) (a : Nat) (bs : List Byte) : StoresAll g s (storePiece s a bs) := by
  unfold storePiece
  extract_lets u full s1 s2 b cur s3
  have hs1 : s1 = s := by simp only [s1, hn.unitSoft, Bool.false_eq_true, false_and, if_false]
  have hs2 : CoreWorks g s s2 := by
    unfold s2
    rw [hs1]
    refine .ite (coreWorks_freshBurst hn _) (.of_underWork ?_)
    simp only [State.underWork, hn.1, hn.2.1, List.erase_nil]
  have hs3 : CoreWorks g s s3 := hs2.trans (.ite .refl ((coreWorks_setBurstKey _ _ _).trans (coreWorks_memWrite _ _ _)))
  rw [if_neg (by simp [hn.chFailed, hn.unitBad])]
  split
  · exact ⟨hs3.trans (coreWorks_memWrite _ _ _), rfl⟩
  · exact ⟨hs2.trans (coreWorks_memWrite _ _ _), rfl⟩

theorem storesAll_storeUnits (hn : NoErrors s) (a : Nat) (bs : List Byte) : StoresAll g s (storeUnits s a bs) := by
  unfold storeUnits
  split
  · exact ⟨coreWorks_memWrite _ _ _, rfl⟩
  · exact .foldl _ (fun t e ht => (storesAll_storePiece ht _ _).join) _ hn

theorem coreWorks_refuseAccess (reason init : Nat) (write : Bool) (addr data : Nat) :
    CoreWorks g s (refuseAccess s reason init write addr data) :=
  .ite (((coreWorks_capture s _ _).trans (coreWorks_setEvent _ _ _)).count _ _ _) .refl

theorem storesAll_memStore (hn : NoErrors s) (a : Nat) (bs : List Byte) : StoresAll g s (memStore s a bs) := by
  unfold memStore
  extract_lets locked shut s1 s2
  have hs1 : CoreWorks g s s1 := by
    unfold s1
    cases locked
    · exact .refl
    · exact coreWorks_capture s _ _
  have hs2 : CoreWorks g s s2 := hs1.trans (.ite (coreWorks_refuseAccess _ _ _ _ _) .refl)
  split
  · exact storesAll_storeUnits hn a bs
  · refine (StoresAll.foldl _ (fun t k ht => ?_) _ (hs2.clean hn)).after hs2
    dsimp only
    split
    · exact ⟨.refl, rfl⟩
    · exact (storesAll_storeUnits ht _ _).join

theorem storesAll_memStores (hn : NoErrors s) (vertical : Bool) (ws : List (Nat × List Byte)) :
    StoresAll g s (memStores s vertical ws) := by
  refine .foldl _ (fun t e ht => ?_) ws hn
  have hw : CoreWorks g t (slabTraffic t e.1 e.2.length true vertical) := coreWorks_slabTraffic t _ _ _ _
  exact (storesAll_memStore (hw.clean ht) e.1 e.2).join.after hw

theorem coreWorks_setTags (tag : Nat) (ws : List (Nat × List Byte)) : CoreWorks g s (setTags s tag ws) := by
  have h : Changes [.tags] s (setTags s tag ws) := changes_of (within_setTags at0 s tag ws (within_refl _ s))
  refine .of_underWork ?_
  rw [State.underWork, h .pages (by decide), h .cores (by decide), h .dies (by decide), h .bad (by decide),
    h .softBad (by decide), h .hbmErr (by decide)]
  rfl

theorem storesAll_memStoresBy (hn : NoErrors s) (tag : Nat) (own : Option Nat) (ws : List (Nat × List Byte)) :
    StoresAll g s (memStoresBy s tag own ws) := by
  unfold memStoresBy
  extract_lets vert r1 r2 out
  obtain ⟨h1, n1⟩ : StoresAll g s r1 := storesAll_memStores hn _ _
  have hr2 : StoresAll g r1.1 r2 := storesAll_memStores (h1.clean hn) _ _
  obtain ⟨h2, n2⟩ : StoresAll g r1.1 out := by
    unfold out
    rw [n1]
    exact hr2.join
  exact ⟨(h1.trans h2).trans (coreWorks_setTags _ _), n2⟩

end Sys2Proof.Machine

/-! ### Messages that a command sends (R428, R430, R438) -/

namespace Sys2Proof.Machine

variable (s : State) {g : Nat}

theorem coreWorks_emit (o : Output) : CoreWorks g s (s.emit o) := .of_underWork rfl

theorem coreWorks_setHalf (h : Nat) (v : Half) : CoreWorks g s (s.setHalf h v) := .of_underWork rfl

theorem coreWorks_setPeer (c : Nat) (p : Peer) : CoreWorks g s (s.setPeer c p) := .of_underWork rfl

theorem coreWorks_sendFlit (h c vc : Nat) : CoreWorks g s (sendFlit s h c vc) := by
  unfold sendFlit
  extract_lets p v way s1
  have h1 : CoreWorks g s s1 := (coreWorks_count s (halfPage h) 0 1).trans (coreWorks_setHalf _ _ _)
  split
  · exact (h1.trans (coreWorks_setPeer _ _ _)).trans (coreWorks_emit _ _)
  · split
    · exact .refl
    · exact (h1.trans (coreWorks_setPeer _ _ _)).trans (.ite (coreWorks_emit _ _) .refl)

theorem coreWorks_pumpFlits (h n : Nat) : CoreWorks g s (pumpFlits h n s) := by
  induction n generalizing s with
  | zero => exact .refl
  | succ n ih =>
    unfold pumpFlits
    split
    · exact .refl
    · split
      · exact .refl
      · exact ((coreWorks_setHalf _ _ _).trans (coreWorks_sendFlit _ _ _ _)).trans (ih _)

theorem coreWorks_pumpCtx (c : Nat) : CoreWorks g s (pumpCtx s c) := by
  unfold pumpCtx
  split
  · exact .refl
  · exact coreWorks_pumpFlits s _ _

theorem coreWorks_sendMsg {c key : Nat} {m : OutMsg} {wt : Waiter} {t : State} (h : sendMsg s c m key wt = some t) :
    CoreWorks g s t := by
  unfold sendMsg at h
  extract_lets p asks tag n u at h
  split at h
  · cases h
    exact (coreWorks_setPeer _ _ _).trans (coreWorks_pumpCtx _ _)
  · cases h

theorem coreWorks_sendAll (c : Nat) (wt : Waiter) (ms : List (OutMsg × Nat)) : CoreWorks g s (sendAll c wt ms s).1 := by
  unfold sendAll
  refine CoreWorks.foldl Prod.fst _ (fun a m => ?_) ms (s, 0, true)
  split
  · split
    · next h => exact coreWorks_sendMsg _ h
    · exact .refl
  · exact .refl

theorem coreWorks_sendWrites (w : Who) (wt : Waiter) (runs : List (Nat × List Byte)) :
    CoreWorks g s (sendWrites s w wt runs).1 := by
  unfold sendWrites
  refine CoreWorks.foldl Prod.fst _ (fun a e => ?_) runs (s, 0, true)
  split
  · exact .refl
  · exact (coreWorks_sendAll a.1 _ _ _).fst _

theorem coreWorks_lostTrap (w : Who) (cmdId : Nat) (as : List Nat) : CoreWorks g s (lostTrap s w cmdId as) := by
  unfold lostTrap
  split
  · exact .refl
  · extract_lets rank
    split
    · exact .ite .refl (coreWorks_raiseTrap s _ _)
    · exact coreWorks_raiseTrap s _ _

/-! ### A command that has run (R202) -/

/-- From `s` to `t` core `g` has run the front command of a queue, as `HasRun` says; its gather group is as it was, and no counter
of expiries has moved. -/
structure RunsFront (s t : State) (g : Nat) (q : QueueId) (r : CmdRec) (statuses : List Nat) : Prop extends
    HasRun s t g q r statuses where
  gather   : (t.core g).gather = (s.core g).gather
  expiries : ∀ pn, t.counter pn 8 = s.counter pn 8
  others   : ∀ k, k ≠ g → t.core k = s.core k

variable {s} {t u : State} {q : QueueId} {r : CmdRec} {l : List Nat}

theorem CoreWorks.queue (h : CoreWorks g s t) (q : QueueId) : (t.core g).queue q = (s.core g).queue q := by
  rw [h.own]
  cases q <;> rfl

/-- Work before the command runs. -/
theorem RunsFront.after (k : RunsFront t u g q r l) (h : CoreWorks g s t) : RunsFront s u g q r l where
  flight := by
    obtain ⟨f, hf, hrest⟩ := k.flight
    refine ⟨f, hf.trans ?_, hrest⟩
    rw [h.own]
  queue := by rw [k.queue, h.queue]
  rings := by rw [k.rings, h.own]
  gather := by rw [k.gather, h.own]
  expiries pn := (k.expiries pn).trans (h.expiries pn)
  others j hj := (k.others j hj).trans (h.others j hj)

/-- The front command leaves its queue, the core works, and the command joins those in flight. -/
theorem runsFront_of_popQueue (h : CoreWorks g (popQueue s g q) t) (f : InFlight) (hq : f.queue = q) (hr : f.cmd = r)
    (hs : f.status.toNat ∈ l) (landed : List (Nat × Nat)) (end_ : Nat) :
    RunsFront s (t.modCore g fun c => { c with inflight := c.inflight ++ [f], landing := landed, aclk := end_ }) g q r l := by
  have hpop : (popQueue s g q).core g = { (s.core g).setQueue q (((s.core g).queue q).drop 1) with
      atBoundary := if (s.core g).incoming.isSome then q :: (s.core g).atBoundary else (s.core g).atBoundary } :=
    State.core_modCore _ _ _
  have hown := h.own
  rw [hpop] at hown
  refine ⟨⟨⟨f, ?_, hq, hr, hs⟩, ?_, ?_⟩, ?_, h.expiries, fun k hk => ?others⟩
  case others =>
    rw [State.core_modCore_ne _ _ _ _ hk, h.others k hk]
    exact State.core_modCore_ne _ _ _ _ hk
  all_goals
    rw [State.core_modCore, hown]
    cases q <;> rfl

/-- A run that has met no failure commits: the command is in flight with OK, or with LINK_TIMEOUT where a lender is lost. -/
theorem runsFront_commitRun {run : Run} (hn : NoErrors run.s) (hs : run.status = 0) (q : QueueId) (r : CmdRec) (w : Who)
    (end_ reserved : Nat) :
    RunsFront run.s (commitRun g q r w run end_ reserved) g q r [stOk, stLinkTimeout] := by
  unfold commitRun
  extract_lets st s1 s2 sent status s3 s4
  obtain ⟨hst, hnone⟩ : StoresAll g run.s st := storesAll_memStoresBy hn _ _ _
  have hcounted : CoreWorks g run.s (st.1.count (pnCnt g) 4 run.tiles) := hst.count _ _ _
  have hs2 : s2 = s1 := by simp only [s2, hnone]
  have h3 : CoreWorks g s1 s3 := by
    have hsent : CoreWorks g s1 sent.1 := hs2 ▸ coreWorks_sendWrites s2 _ _ _
    exact hsent.trans (.ite (coreWorks_lostTrap _ _ _ _) .refl)
  have h4 : CoreWorks g s1 s4 := h3.trans (.ite .refl (coreWorks_countOpen _ _ _))
  have hstatus : status = stOk ∨ status = stLinkTimeout := by
    simp only [status, hs, hnone, ne_eq, not_true, false_and, if_false, Option.isSome_none, Bool.false_eq_true]
    split
    · exact .inl rfl
    · exact .inr rfl
  refine (runsFront_of_popQueue h4 _ rfl rfl ?_ _ _).after hcounted
  dsimp only
  obtain e | e := hstatus <;> rw [e] <;> decide

/-! ### A command of the array alone, or alone in its gather group (R89, R109, R133) -/

theorem matStop_of_noErrors (hn : NoErrors s) (isT : Bool) (tiles : List MatTile) (i : Nat) (m : MatCmd) :
    matStop s isT tiles i m = none := by
  simp only [matStop, hn.1, List.isEmpty_nil, if_true]

section
variable {isT : Bool} (hn : NoErrors s) (hh : haltsAtTile s g = false)
include hn hh

/-- A command of a plan that no unit stops runs over its tiles and commits. -/
theorem runsFront_runMatCmd {m : MatCmd} (hw : m.who.core = g) (wm : Mat) (d end_ : Nat) (tes : List (MatTile × List Entered))
    (i : Nat) : RunsFront s (runMatCmd g isT wm d end_ tes none i m s) g .aq m.cmd [stOk, stLinkTimeout] := by
  have hrun : RunGoes g { s := s } (runMatTiles g isT wm d tes i m s).1 := runGoes_runMatTiles hw isT wm d tes i s
  unfold runMatCmd
  extract_lets r run s1
  have hs1 : CoreWorks g s s1 := hrun.works.trans (coreWorks_setEdge _ _ _)
  rw [if_neg (by rw [hrun.halted hh]; exact Bool.false_ne_true)]
  exact (runsFront_commitRun (run := { run with s := s1 }) (hs1.clean hn) hrun.status _ _ _ _ _).after hs1

/-- A command that its slots do not refuse runs as the front command of the array queue. -/
theorem runsFront_runMatmul {r : CmdRec} (hr : matRefusal ((s.core g).edge isT) (matPlan s g isT [r]).tiles 0 r = 0)
    (target : Option Nat) : RunsFront s (runMatmul s g isT target [r]) g .aq r [stOk, stLinkTimeout] := by
  unfold runMatmul
  extract_lets e all why good lead plan stops tiles xt wt d reqs issue dep dry ran ent s1 end_
  have hwhy : why = [(r, 0)] := by simp only [why, List.zipIdx_cons, List.zipIdx_nil, List.map_cons, List.map_nil, e, all, hr]
  have hgood : good = [r] := by simp only [good, hwhy]; rfl
  obtain ⟨m, hm, hcmd, hwho⟩ : ∃ m, plan.cs = [m] ∧ m.cmd = r ∧ m.who.core = g := by
    simp only [plan, hgood]
    exact ⟨_, rfl, rfl, rfl⟩
  have hstops : stops = [none] := by
    simp only [stops, hm, List.zipIdx_cons, List.zipIdx_nil, List.map_cons, List.map_nil, matStop_of_noErrors hn]
  have hs1 : CoreWorks g s s1 := (coreWorks_enterTiles s _ _ _).trans (coreWorks_countStaged _ _ _)
  have hrun : RunsFront s (runMatCmd g isT plan.wm d end_ (tiles.zip ent.2) none 0 m s1) g .aq m.cmd [stOk, stLinkTimeout] :=
    (runsFront_runMatCmd (hs1.clean hn) (hs1.haltsAtTile.trans hh) hwho _ _ _ _ _).after hs1
  rw [hcmd] at hrun
  rw [hwhy, hm, hstops]
  exact hrun

end

end Sys2Proof.Machine

/-! ### What a command reads rests on no counter and no core -/

namespace Sys2Proof.Machine

/-- Two states have the same of all that the operands of a command are read from: register words, memory, the keys of its bursts,
and the jobs (R386, R397, R416). -/
structure ReadsAlike (s t : State) : Prop where
  regs     : ∀ pn off, t.reg pn off = s.reg pn off
  mem      : t.mem = s.mem
  burstKey : t.burstKey = s.burstKey
  hbmStale : t.hbmStale = s.hbmStale
  parts    : t.parts = s.parts

section
variable {s t : State} (h : ReadsAlike s t)
include h

theorem ReadsAlike.part : t.part = s.part := by
  funext p
  rw [State.part, h.parts]
  rfl

theorem ReadsAlike.regN : t.regN = s.regN := by
  funext pn off
  rw [State.regN, h.regs]
  rfl

theorem ReadsAlike.hbmRegion : hbmRegion t = hbmRegion s := by
  funext p
  unfold Machine.hbmRegion
  rw [h.regN]

/-- Shown of the functions, not at an address: there the kernel would run the search among the regions on which `hbmKey` matches. -/
theorem ReadsAlike.hbmKey : hbmKey t = hbmKey s := by
  delta Machine.hbmKey
  rw [h.hbmRegion, h.part]

theorem ReadsAlike.memByte : memByte t = memByte s := by
  funext a
  rw [Machine.memByte, h.mem]
  rfl

theorem ReadsAlike.storedKey : storedKey t = storedKey s := by
  funext b
  unfold Machine.storedKey unlistedKey
  rw [h.burstKey, h.hbmStale]

theorem ReadsAlike.rawBurst : rawBurst t = rawBurst s := by
  funext b stored
  unfold Machine.rawBurst memRead
  rw [h.memByte]

theorem ReadsAlike.viewByte : viewByte t = viewByte s := by
  funext a
  unfold Machine.viewByte
  rw [h.storedKey, h.hbmKey, h.memByte, h.rawBurst]

theorem ReadsAlike.codeAt : codeAt t = codeAt s := by
  funext key b i
  unfold Machine.codeAt viewNat viewBytes
  rw [h.viewByte]

theorem ReadsAlike.readMat : readMat t = readMat s := by
  funext x
  unfold Machine.readMat Planes.val Planes.code Planes.scaleByte
  rw [h.codeAt, h.viewByte]

theorem ReadsAlike.keyOf : keyOf t = keyOf s := by
  funext w a
  unfold Machine.keyOf granaryEntry jobOf
  rw [h.hbmRegion, h.part]

theorem ReadsAlike.planesOf : planesOf t = planesOf s := by
  funext w x
  unfold Machine.planesOf
  rw [h.keyOf]

theorem ReadsAlike.whoOf (g x : Nat) : whoOf t g x = whoOf s g x := by
  rw [Machine.whoOf, partOfCore_congr h.regs]
  rfl

theorem ReadsAlike.matPlan (g : Nat) (isT : Bool) (l : List CmdRec) : matPlan t g isT l = matPlan s g isT l := by
  have hwho : Machine.whoOf t g = Machine.whoOf s g := funext (h.whoOf g)
  unfold Machine.matPlan readPreload
  rw [hwho, h.planesOf, h.readMat]

theorem ReadsAlike.gatherTarget (g : Nat) (r : CmdRec) : gatherTarget t g r = gatherTarget s g r := by
  unfold Machine.gatherTarget
  rw [h.whoOf, h.planesOf, h.readMat]

end

theorem readsAlike_modCore (s : State) (g : Nat) (f : Core → Core) : ReadsAlike s (s.modCore g f) :=
  ⟨fun _ _ => rfl, rfl, rfl, rfl, rfl⟩

/-! ### Gather groups (R107, R108) -/

/-- Bell ticks for which a core holds a request (R108). -/
def gatherHold (s : State) (g : Nat) : Nat := max 1 (bits (s.regN (pnSeq g) 0x100) 31 16)

/-- The front command of the array queue has joined the group `v`. -/
def joinedGroup (s : State) (g : Nat) (v : GatherGroup) (r : CmdRec) : State :=
  (popQueue s g .aq).modCore g fun c =>
    { c with gather := some { v with reqs := v.reqs ++ [r], rows := v.rows + (r.tensor? 4).elim 0 Tensor.rows } }

/-- The group `v` is called to issue and cannot yet. -/
def dueGroup (s : State) (g : Nat) (v : GatherGroup) : State :=
  s.modCore g fun c => { c with gather := some { v with due := true } }

/-- The group `v` is open no longer, and its requests stand at the front of the array queue. -/
def takenGroup (s : State) (g : Nat) (v : GatherGroup) : State :=
  s.modCore g fun c => { c with gather := none, aq := v.reqs ++ c.aq }

section
variable (s : State) (g : Nat) (v : GatherGroup)

theorem joinedGroup_core (r : CmdRec) : ((joinedGroup s g v r).core g).aq = (s.core g).aq.drop 1 ∧
    ((joinedGroup s g v r).core g).gather =
      some { v with reqs := v.reqs ++ [r], rows := v.rows + (r.tensor? 4).elim 0 Tensor.rows } := by
  rw [joinedGroup, State.core_modCore, popQueue, State.core_modCore]
  exact ⟨rfl, rfl⟩

theorem joinedGroup_mem (r : CmdRec) : (joinedGroup s g v r).mem = s.mem := rfl

theorem dueGroup_core : ((dueGroup s g v).core g).aq = (s.core g).aq ∧
    ((dueGroup s g v).core g).gather = some { v with due := true } := by
  rw [dueGroup, State.core_modCore]
  exact ⟨rfl, rfl⟩

theorem takenGroup_core : (takenGroup s g v).core g = { s.core g with gather := none, aq := v.reqs ++ (s.core g).aq } :=
  State.core_modCore _ _ _

theorem takenGroup_counter (pn k : Nat) : (takenGroup s g v).counter pn k = s.counter pn k := rfl

end

/-- A request at the queue's front whose dependences are met and that matches the open group joins it as `joinGather` says, once
its operands are read. -/
theorem execMatmul_request {s : State} {g : Nat} {r : CmdRec} (hfront : frontOf s g .aq opMatmul = some r) (hdeps : depsOf r = .met)
    (hreq : isGatherReq s g r = true) (hm : matchesOpen s g r = true) (hw : matWaits s g r = false) :
    execMatmul g s = .next (joinGather (readSpans s true (matSpans s (whoOf s g r.ctx) r)) g r) := by
  simp only [execMatmul, hfront, issueMatmul, Bool.not_false, Bool.true_and, hreq, if_true, hm, withDeps, hdeps, hw,
    Bool.false_eq_true, if_false]

section
variable {s : State} {g : Nat} {v : GatherGroup} (hv : (s.core g).gather = some v)
include hv

/-- A request that matches the open group, fits below its target and shares no slot with it joins it. -/
theorem joinGather_below {r : CmdRec} (hdue : v.due = false) (hm : matchesOpen s g r = true)
    (hlt : v.rows + (r.tensor? 4).elim 0 Tensor.rows < gatherTarget s g r)
    (hslots : ∀ q ∈ v.reqs, ∀ k ∈ gatherRows q, k ∉ gatherRows r) : joinGather s g r = joinedGroup s g v r := by
  have hapart : (v.reqs.any fun q => (gatherRows q).any (gatherRows r).contains) = false := by
    simpa using hslots
  simp only [joinGather, hv, Option.all_some, hdue, hapart, hm, Bool.not_false, Bool.and_true, hlt.le, decide_true, if_true,
    Bool.false_eq_true, if_false, if_neg hlt.not_ge, joinedGroup]

/-- Before its oldest request has been held for HOLD_BT the group stays as it is. -/
theorem execGatherHoldExpiry_early (h : s.bell.count.toNat < v.since.toNat + gatherHold s g) :
    execGatherHoldExpiry g s = .next s := by
  simp only [execGatherHoldExpiry, hv, gatherHold] at h ⊢
  rw [if_pos (.inl h)]

/-- Then it is called to issue, and the expiry is counted (R115). -/
theorem execGatherHoldExpiry_held (hdue : v.due = false) (h : v.since.toNat + gatherHold s g ≤ s.bell.count.toNat) :
    execGatherHoldExpiry g s = .next ((issueGather s g).count (pnArray g) 8 1) := by
  simp only [execGatherHoldExpiry, hv, gatherHold, hdue, Bool.false_eq_true, or_false] at h ⊢
  rw [if_neg h.not_gt]

theorem issueGather_halted (hh : (dieCtlOf s g).halted = true) : issueGather s g = dueGroup s g v := by
  simp only [issueGather, hv, hh, Bool.or_true, if_true, dueGroup]

theorem issueGather_ready (hl : (s.core g).landing = []) (hh : (dieCtlOf s g).halted = false) :
    issueGather s g = runMatmul (takenGroup s g v) g false
      (some (gatherTarget s g (v.reqs.headD { ctx := 0, idx := 0, words := [] }))) v.reqs := by
  have hlanding : v.reqs.any (tilesLanding s g) = false := by
    simp [tilesLanding, landingMeets, hl]
  simp only [issueGather, hv, hlanding, hh, Bool.or_false, Bool.false_eq_true, if_false, takenGroup]

/-- A group of one request that its slots do not refuse runs. -/
theorem issueGather_single {r : CmdRec} (hl : (s.core g).landing = []) (hn : NoErrors s) (hreqs : v.reqs = [r])
    (htile : haltsAtTile s g = false) (hh : (dieCtlOf s g).halted = false)
    (hslots : matRefusal (s.core g).bottom (matPlan s g false [r]).tiles 0 r = 0) :
    RunsFront (takenGroup s g v) (issueGather s g) g .aq r [stOk, stLinkTimeout] := by
  have hplan : matPlan (takenGroup s g v) g false [r] = matPlan s g false [r] := (readsAlike_modCore s g _).matPlan g false [r]
  have hn' : NoErrors (takenGroup s g v) := hn.of_eq rfl rfl rfl rfl
  rw [issueGather_ready hv hl hh, hreqs]
  refine runsFront_runMatmul hn' htile ?_ _
  rw [hplan, takenGroup_core]
  exact hslots

end

/-- Settles O60: a request joins before its group runs; the expiry calls the group to issue, which runs its one request, or is due
while the controller is halted; before it nothing happens. -/
theorem gatherGroupExpires : Obligations.GatherGroupExpires := by
  unfold Obligations.GatherGroupExpires
  intro s g r v hn hv hdue hold rows
  refine ⟨fun hfront hdeps hreq hm hw hlt hslots => ?_, fun hrest hreqs htile hheld hh hslots => ?_, fun hh hheld => ?_,
    fun hearly => execGatherHoldExpiry_early hv hearly⟩
  · obtain ⟨hworks, hsame⟩ := readSpans_of_noErrors (g := g) true (matSpans s (whoOf s g r.ctx) r) hn
    have hexec := execMatmul_request hfront hdeps hreq hm hw
    generalize readSpans s true (matSpans s (whoOf s g r.ctx) r) = u at hworks hsame hexec
    have hread : ReadsAlike s u := ⟨hworks.regs, hsame .mem (by decide), hsame .burstKey (by decide),
      hsame .hbmStale (by decide), hsame .parts (by decide)⟩
    have hcore : u.core g = s.core g := congrArg (mget Core.init · g) (hsame .cores (by decide))
    have hmatch : matchesOpen u g r = true := by rw [matchesOpen, hcore]; exact hm
    have hbelow : v.rows + rows < gatherTarget u g r := by rw [hread.gatherTarget]; exact hlt
    obtain ⟨haq, hgather⟩ := joinedGroup_core u g v r
    rw [joinGather_below (by rw [hcore]; exact hv) hdue hmatch hbelow hslots] at hexec
    rw [hcore] at haq
    exact ⟨_, hexec, haq, hgather, (joinedGroup_mem u g v r).trans hread.mem⟩
  · have hrun := issueGather_single hv hrest.landing hn hreqs htile hh hslots
    obtain ⟨f, hflight, hq, hcmd, hstatus⟩ := hrun.flight
    have haq := hrun.queue
    have hgather := hrun.gather
    simp only [takenGroup_core, Core.queue, hreqs] at hflight haq hgather
    refine ⟨_, f, execGatherHoldExpiry_held hv hdue hheld, hflight, hq, hcmd, hstatus, haq, hgather, ?_⟩
    rw [State.counter_count_same, hrun.expiries, takenGroup_counter]
    rfl
  · refine ⟨_, execGatherHoldExpiry_held hv hdue hheld, ?_⟩
    obtain ⟨haq, hgather⟩ := dueGroup_core s g v
    rw [issueGather_halted hv hh, State.counter_count_same]
    exact ⟨changes_of (within_State_count at0 _ _ _ _ (within_State_modCore at1 _ _ _ (within_refl _ s))), haq, hgather, rfl⟩

end Sys2Proof.Machine

/-! What reset leaves (R508): every part of the state at its initial value, and BOOT the one domain that is on. -/

namespace Sys2Proof.Machine

theorem regReset_eq {ty off : Nat} {r : RegSpec} (h : regSpec? ty off = some r) :
    regReset ty off = BitVec.ofNat 32 r.reset := by
  rw [regReset, h]

/-- A page that stores no word reads as its reset words. -/
theorem reset_reg {pn off : Nat} {i : PageId} {r : RegSpec} (hi : page? pn = some i) (hr : regSpec? i.ty off = some r) :
    State.reset.reg pn off = BitVec.ofNat 32 r.reset := by
  rw [State.reg, hi, Option.elim_some, regReset_eq hr]
  exact BitVec.zero_xor

theorem domOn_reset (k : Nat) : domOn State.reset k = decide (k = bootDomain) := by
  have hbit : domOn State.reset k = (decide (k < 47) && decide (bootDomain = k)) := by
    simp only [domOn, State.reset, BitVec.getLsbD_ofNat, Nat.testBit_two_pow]
  by_cases hk : k = bootDomain
  · rw [hbit, hk]; rfl
  · simp [hbit, hk, Ne.symm hk]

/-- Settles O4: each part is read at its initial value, the domains by their bits, a register word by its table entry. -/
theorem resetState : Obligations.ResetState := by
  unfold Obligations.ResetState
  refine ⟨rfl, rfl, rfl, fun _ _ => ⟨rfl, rfl⟩, fun g q => ?queues, fun _ _ => ⟨rfl, rfl⟩, rfl, rfl, fun _ => rfl,
    fun _ => ⟨rfl, rfl⟩, rfl, rfl, rfl, domOn_reset, fun _ _ => rfl, fun _ => ⟨rfl, rfl, rfl⟩, fun _ _ _ _ => reset_reg⟩
  case queues => cases q <;> rfl

end Sys2Proof.Machine

/-! Deposits into a slot (R125, R126, R139). -/

namespace Sys2Proof.Machine

/-- The guard holds a sum (R125). -/
abbrev InGuard (x : Int) : Prop := -guardLimit ≤ x ∧ x < guardLimit

/-- The slot with the class flags of a deposit gathered, its value as it was (R125). -/
def Slot.gather (q : Slot) (c : Cls) : Slot :=
  { q with nan := q.nan || c.nan, pinf := q.pinf || c.pinf, ninf := q.ninf || c.ninf }

@[simp] theorem Slot.gather_none (q : Slot) : q.gather {} = q := by simp [Slot.gather]

variable {q : Slot} {v : Int} {c : Cls}

theorem Slot.deposit_overflowed (hq : q.ovf = true) : q.deposit v c = q.gather c := by
  simp [Slot.deposit, Slot.gather, hq]

theorem Slot.deposit_held (hq : q.ovf = false) (h : InGuard (q.x + v)) :
    q.deposit v c = { q.gather c with x := q.x + v } := by
  have hin : ¬ (q.x + v < -guardLimit ∨ guardLimit ≤ q.x + v) := by
    rintro (hlt | hle)
    · exact hlt.not_ge h.1
    · exact hle.not_gt h.2
  simp only [Slot.deposit, Slot.gather, hq, Bool.false_eq_true, if_false, if_neg hin]

theorem Slot.deposit_beyond (hq : q.ovf = false) (h : ¬ InGuard (q.x + v)) :
    q.deposit v c = (q.gather c).overflow (decide (q.x + v < 0)) := by
  have hout : q.x + v < -guardLimit ∨ guardLimit ≤ q.x + v := by
    by_contra hno
    exact h ⟨not_lt.1 fun hlt => hno (.inl hlt), not_le.1 fun hle => hno (.inr hle)⟩
  simp only [Slot.deposit, Slot.gather, hq, Bool.false_eq_true, if_false, if_pos hout]

theorem Slot.deposit_flags (q : Slot) (v : Int) (c : Cls) : (q.deposit v c).nan = (q.nan || c.nan) ∧
    (q.deposit v c).pinf = (q.pinf || c.pinf) ∧ (q.deposit v c).ninf = (q.ninf || c.ninf) := by
  by_cases hq : q.ovf = true
  · rw [Slot.deposit_overflowed hq]; exact ⟨rfl, rfl, rfl⟩
  · rw [Bool.not_eq_true] at hq
    by_cases h : InGuard (q.x + v)
    · rw [Slot.deposit_held hq h]; exact ⟨rfl, rfl, rfl⟩
    · rw [Slot.deposit_beyond hq h]; exact ⟨rfl, rfl, rfl⟩

/-- The quotient that a rescale keeps is the floor, since 2^Δ is positive (R139). -/
theorem Slot.rescale_x (hq : q.ovf = false) (delta : Nat) :
    (q.rescale delta).x = q.x.fdiv ((2 ^ delta : Nat) : Int) := by
  rw [Int.fdiv_eq_ediv_of_nonneg _ (Int.natCast_nonneg _), Slot.rescale, if_neg (by simp [hq])]

theorem Slot.rescale_flags (q : Slot) (delta : Nat) : (q.rescale delta).ovf = q.ovf ∧ (q.rescale delta).nan = q.nan ∧
    (q.rescale delta).pinf = q.pinf ∧ (q.rescale delta).ninf = q.ninf := by
  unfold Slot.rescale
  split <;> exact ⟨rfl, rfl, rfl, rfl⟩

/-- Finite deposits whose partial sums the guard holds add up exactly (R128). -/
theorem Slot.foldl_deposit_held (vs : List Int) (hq : q.ovf = false) (h : ∀ n, InGuard (q.x + (vs.take n).sum)) :
    vs.foldl (fun a v => a.deposit v {}) q = { q with x := q.x + vs.sum } := by
  induction vs generalizing q with
  | nil => simp
  | cons v vs ih =>
    have hfirst : InGuard (q.x + v) := by simpa using h 1
    have hrest : ∀ n, InGuard (q.x + v + (vs.take n).sum) := fun n => by simpa [add_assoc] using h (n + 1)
    rw [List.foldl_cons, Slot.deposit_held hq hfirst, Slot.gather_none, ih (q := { q with x := q.x + v }) hq hrest,
      List.sum_cons, add_assoc]

end Sys2Proof.Machine

/-! What a slot reads as, swept (R123, R130, R136). -/

namespace Sys2Proof.Machine

variable {q : Slot}

/-- VALUE holds a sum (R123). -/
abbrev InValue (x : Int) : Prop := -valueLimit ≤ x ∧ x < valueLimit

theorem inValue_zero : InValue 0 := by unfold InValue valueLimit; decide +kernel

theorem Slot.swept_inValue (hx : InValue q.x) : q.swept = q := by
  unfold Slot.swept
  rw [if_pos hx, ite_self]

theorem Slot.swept_overflowed (hq : q.ovf = true) : q.swept = q := if_pos hq

theorem Slot.swept_beyond (hq : q.ovf = false) (hx : ¬ InValue q.x) : q.swept = q.overflow (decide (q.x < 0)) := by
  unfold Slot.swept
  rw [if_neg (by simp [hq]), if_neg hx]

/-- A swept slot is overflowed or lies in VALUE. -/
theorem Slot.swept_range (q : Slot) : q.swept.ovf = true ∨ InValue q.swept.x := by
  by_cases hq : q.ovf = true
  · exact .inl (by rwa [Slot.swept_overflowed hq])
  · by_cases hx : InValue q.x
    · exact .inr (by rwa [Slot.swept_inValue hx])
    · exact .inl (by rw [Slot.swept_beyond (by simpa using hq) hx]; rfl)

@[simp] theorem Slot.swept_swept (q : Slot) : q.swept.swept = q.swept := by
  rcases q.swept_range with ho | hx
  · exact Slot.swept_overflowed ho
  · exact Slot.swept_inValue hx

theorem Slot.swept_scales (q : Slot) : q.swept.scaleM = q.scaleM ∧ q.swept.scaleE = q.scaleE := by
  unfold Slot.swept
  split
  · exact ⟨rfl, rfl⟩
  · split <;> exact ⟨rfl, rfl⟩

/-- A slot that is overflowed or lies in VALUE reads as it stands. -/
theorem Slot.value_of_range (h : q.ovf = true ∨ InValue q.x) : q.value =
    if q.nanLike then .nan else if q.pinf then .inf false else if q.ninf then .inf true
    else if q.ovf then .inf q.ovfNeg else .fin (q.x * q.scaleM) (q.scaleE - 400) := by
  have hs : q.swept = q := h.elim Slot.swept_overflowed Slot.swept_inValue
  rw [Slot.value, hs]

/-- A readout sees nothing of a slot but its sweep. -/
theorem Slot.value_swept (q : Slot) : q.swept.value = q.value := by simp only [Slot.value, Slot.swept_swept]

/-- A slot without class flags reads as its sum under its scales if VALUE holds that, and only then not as an infinity. -/
theorem Slot.value_finite (hn : q.nan = false) (hp : q.pinf = false) (hi : q.ninf = false) (ho : q.ovf = false) :
    q.value = if -valueLimit ≤ q.x ∧ q.x < valueLimit then .fin (q.x * q.scaleM) (q.scaleE - 400)
      else .inf (decide (q.x < 0)) := by
  by_cases hx : InValue q.x
  · rw [if_pos hx]
    simp [Slot.value, Slot.swept_inValue hx, Slot.nanLike, hn, hp, hi, ho]
  · rw [if_neg hx]
    simp [Slot.value, Slot.swept_beyond ho hx, Slot.nanLike, Slot.overflow, hn, hp, hi]

/-- The slot read out under the scales of another: an exchanged element carries none (R54, R136; log 21). -/
def Slot.scaledAs (e q : Slot) : Slot := { e with scaleM := q.scaleM, scaleE := q.scaleE }

end Sys2Proof.Machine

/-! The slot image gives the slot's value back (R121, R144). -/

namespace Sys2Proof.Machine

/-- A two's-complement field spells the number that it was made from. -/
theorem signed_emod {n : Nat} {v : Int} (hlo : -((2 ^ n : Nat) : Int) ≤ v) (hhi : v < ((2 ^ n : Nat) : Int)) :
    signed (n + 1) (v % ((2 ^ (n + 1) : Nat) : Int)).toNat = v := by
  have hpow : 2 ^ (n + 1) = 2 * 2 ^ n := pow_succ' 2 n
  unfold signed
  rw [Nat.add_sub_cancel, hpow]
  generalize 2 ^ n = p at hlo hhi
  have hmod : v % ((2 * p : Nat) : Int) = if v < 0 then v + ((2 * p : Nat) : Int) else v := by
    split
    · rw [← Int.add_emod_right, Int.emod_eq_of_lt] <;> omega
    · rw [Int.emod_eq_of_lt] <;> omega
  rw [hmod]
  by_cases hv : v < 0
  · rw [if_pos hv, Nat.mod_eq_of_lt (by omega), if_neg (by omega)]; omega
  · rw [if_neg hv, Nat.mod_eq_of_lt (by omega), if_pos (by omega)]; omega

/-- The flag byte of an image spells its seven flags. -/
theorem image_flags : ∀ n p i o s l b : Bool,
    let f := ofLe ((leBytes 8 ((if n then 2 ^ 0 else 0) + (if p then 2 ^ 1 else 0) + (if i then 2 ^ 2 else 0) +
      (if o then 2 ^ 3 else 0) + (if s then 2 ^ 4 else 0) + (if l then 2 ^ 5 else 0) + (if b then 2 ^ 6 else 0))).take 1)
    f.testBit 0 = n ∧ f.testBit 1 = p ∧ f.testBit 2 = i ∧ f.testBit 3 = o ∧ f.testBit 4 = s ∧ f.testBit 5 = l ∧
      f.testBit 6 = b := by
  decide

theorem ofLe_leBytes_emod (n : Nat) (v : Int) : ofLe (leBytes n (v % ((2 ^ (8 * n) : Nat) : Int)).toNat) =
    (v % ((2 ^ (8 * n) : Nat) : Int)).toNat := by
  have hpos : (0 : Int) < ((2 ^ (8 * n) : Nat) : Int) := Int.natCast_pos.2 (Nat.two_pow_pos _)
  rw [ofLe_leBytes, Nat.mod_eq_of_lt]
  exact (Int.toNat_lt (Int.emod_nonneg _ hpos.ne')).2 (Int.emod_lt_of_pos _ hpos)

/-- An overflowed slot's VALUE is its sign alone (R123). -/
theorem testBit_overflowed_value (neg : Bool) :
    ((if neg then -valueLimit else 0) % ((2 ^ 768 : Nat) : Int)).toNat.testBit 767 = neg := by
  cases neg <;> decide +kernel

/-- The slot that an image spells is the swept slot, without its scales. -/
theorem slotOfImage_image (q : Slot) : slotOfImage q.image =
    { q.swept with
      x := if q.swept.ovf then 0 else q.swept.x, ovfNeg := q.swept.ovf && q.swept.ovfNeg, scaleM := 1, scaleE := 0 } := by
  have hrange := q.swept_range
  unfold slotOfImage Slot.image
  generalize q.swept = w at hrange
  obtain ⟨hn, hp, hi, ho, hs, hl, hb⟩ := image_flags w.nan w.pinf w.ninf w.ovf w.shiftLoss w.long w.biased
  have hvalue := ofLe_leBytes_emod 96
  simp only [Nat.reduceMul] at hvalue
  rw [List.take_left' (leBytes_length _ _), List.drop_left' (leBytes_length _ _)]
  simp only [hn, hp, hi, ho, hs, hl, hb, hvalue]
  cases hw : w.ovf
  · have hx : InValue w.x := hrange.resolve_left (by simp [hw])
    simp only [Bool.false_eq_true, if_false, Bool.false_and, signed_emod hx.1 hx.2]
  · simp only [if_true, Bool.true_and, testBit_overflowed_value]

theorem Slot.value_slotOfImage (q : Slot) : ((slotOfImage q.image).scaledAs q).value = q.value := by
  obtain ⟨hm, he⟩ := q.swept_scales
  have hrange := q.swept_range
  rw [slotOfImage_image, ← q.value_swept, Slot.value_of_range hrange]
  simp only [Slot.scaledAs, ← hm, ← he]
  generalize q.swept = w at hrange
  cases hw : w.ovf
  · have hx : InValue w.x := hrange.resolve_left (by simp [hw])
    rw [Slot.value_of_range]
    · simp [Slot.nanLike]
    · exact .inr hx
  · rw [Slot.value_of_range]
    · simp [Slot.nanLike]
    · exact .inl rfl

end Sys2Proof.Machine

/-! The exact-compact form gives the slot's value back (R145, R146). -/

namespace Sys2Proof.Machine

/-- The marks of an element from bit 108 on: special, and the slot's history (R145). -/
def xcMarks (special : Bool) (q : Slot) : Nat :=
  (if special then 1 else 0) + (if q.shiftLoss then 2 else 0) + (if q.long then 4 else 0) + (if q.biased then 8 else 0)

theorem xcMarks_lt (special : Bool) (q : Slot) : xcMarks special q < 16 := by
  unfold xcMarks
  split_ifs <;> decide

theorem xcMarks_bits (special : Bool) (q : Slot) : (xcMarks special q).testBit 0 = special ∧
    (xcMarks special q).testBit 1 = q.shiftLoss ∧ (xcMarks special q).testBit 2 = q.long ∧
    (xcMarks special q).testBit 3 = q.biased := by
  unfold xcMarks
  generalize q.shiftLoss = s, q.long = l, q.biased = b
  revert special s l b
  decide

/-- An XC128 element from its significand or class, its position and its marks (R145). -/
def xcWord (w pos : Nat) (special : Bool) (q : Slot) : Nat := w + pos * 2 ^ 96 + xcMarks special q * 2 ^ 108

/-- The element as the model adds it up. -/
theorem xcWord_eq (w pos : Nat) (special : Bool) (q : Slot) : xcWord w pos special q =
    w + pos * 2 ^ 96 + (if special then 2 ^ 108 else 0) +
      ((if q.shiftLoss then 2 ^ 109 else 0) + (if q.long then 2 ^ 110 else 0) + (if q.biased then 2 ^ 111 else 0)) := by
  unfold xcWord xcMarks
  split_ifs <;> omega

theorem xcWord_fields {w pos : Nat} (hw : w < 2 ^ 96) (hp : pos < 2 ^ 12) (special : Bool) (q : Slot) :
    bits (xcWord w pos special q) 95 0 = w ∧ bits (xcWord w pos special q) 107 96 = pos ∧
      bits (xcWord w pos special q) 127 112 = 0 := by
  have hmarks := xcMarks_lt special q
  simp only [bits, xcWord, Nat.shiftRight_eq_div_pow]
  refine ⟨?_, ?_, ?_⟩ <;> omega

theorem xcWord_flags {w pos : Nat} (hw : w < 2 ^ 96) (hp : pos < 2 ^ 12) (special : Bool) (q : Slot) :
    (xcWord w pos special q).testBit 108 = special ∧ (xcWord w pos special q).testBit 109 = q.shiftLoss ∧
      (xcWord w pos special q).testBit 110 = q.long ∧ (xcWord w pos special q).testBit 111 = q.biased := by
  have hbit (k : Nat) : (xcWord w pos special q).testBit (108 + k) = (xcMarks special q).testBit k := by
    have hmarks : xcWord w pos special q >>> 108 = xcMarks special q := by
      rw [Nat.shiftRight_eq_div_pow, xcWord]
      omega
    rw [← Nat.testBit_shiftRight, hmarks]
  obtain ⟨hspecial, hs, hl, hb⟩ := xcMarks_bits special q
  exact ⟨(hbit 0).trans hspecial, (hbit 1).trans hs, (hbit 2).trans hl, (hbit 3).trans hb⟩

/-- The class that a swept slot is sent as, none if it is finite (R145). -/
def Slot.xcClass (w : Slot) : Option Nat :=
  if w.nanLike then some 0 else if w.pinf then some 1 else if w.ninf then some 2
  else if w.ovf then some (if w.ovfNeg then 7 else 3) else none

/-- The history flags alone: a received slot keeps no other mark of the sender's (R145). -/
def Slot.history (q : Slot) : Slot := { shiftLoss := q.shiftLoss, long := q.long, biased := q.biased }

theorem lowBit_le (n v : Nat) : lowBit n v ≤ n := by
  induction n generalizing v with
  | zero => exact le_rfl
  | succ n ih => rw [lowBit]; split <;> [omega; exact Nat.succ_le_succ (ih _)]

/-- A number is a multiple of its lowest set bit. -/
theorem two_pow_lowBit_dvd (n v : Nat) : 2 ^ lowBit n v ∣ v := by
  induction n generalizing v with
  | zero => exact one_dvd v
  | succ n ih =>
    rw [lowBit]
    split
    · exact one_dvd v
    · have hhalf : v = v / 2 * 2 := by omega
      rw [pow_succ, hhalf, Nat.mul_div_cancel _ two_pos]
      exact Nat.mul_dvd_mul_right (ih _) 2

/-- What an element that fits is: a class of the swept slot, or its value as a significand at a position (R145). -/
theorem Slot.xc128_eq_some {q : Slot} {n : Nat} (h : q.xc128 = some n) :
    (∃ c, q.swept.xcClass = some c ∧ n = xcWord c 0 true q.swept) ∨
      ∃ (v : Int) (pos : Nat), q.swept.xcClass = none ∧ pos ≤ 672 ∧ q.swept.x = shl v pos ∧
        (-((2 ^ 95 : Nat) : Int) ≤ v ∧ v < ((2 ^ 95 : Nat) : Int)) ∧
        n = xcWord (v % ((2 ^ 96 : Nat) : Int)).toNat pos false q.swept := by
  unfold Slot.xc128 at h
  change (match q.swept.xcClass with | some c => _ | none => _) = some n at h
  generalize q.swept = w at h
  cases hc : w.xcClass with
  | some c =>
    simp only [hc, Option.some.injEq] at h
    exact .inl ⟨c, rfl, by rw [← h, xcWord_eq, zero_mul, add_zero, if_pos rfl]⟩
  | none =>
    simp only [hc] at h
    split at h
    · next hx =>
      refine .inr ⟨0, 0, rfl, by omega, by simp [hx, shl], by decide, ?_⟩
      rw [← Option.some.inj h, xcWord_eq]
      simp
    · split at h
      · next hv =>
        refine .inr ⟨_, lowBit 672 w.x.natAbs, rfl, lowBit_le _ _, ?_, hv, ?_⟩
        · exact (Int.ediv_mul_cancel (Int.natCast_dvd.2 (two_pow_lowBit_dvd _ _))).symm
        · rw [← Option.some.inj h, xcWord_eq, if_neg Bool.false_ne_true, add_zero]
      · cases h

theorem slotOfXc128_finite {m pos : Nat} (hm : m < 2 ^ 96) (hpos : pos ≤ 672) (w : Slot) :
    slotOfXc128 (xcWord m pos false w) = ({ w.history with x := shl (signed 96 m) pos }, false) := by
  obtain ⟨hword, hp, hreserved⟩ := xcWord_fields hm (by omega : pos < 2 ^ 12) false w
  obtain ⟨hspecial, hs, hl, hb⟩ := xcWord_flags hm (by omega : pos < 2 ^ 12) false w
  simp [slotOfXc128, hword, hp, hreserved, hspecial, hs, hl, hb, hpos.not_gt, Slot.history]

/-- The slot that an element of a class stands for (R145). -/
def Slot.ofXcClass (w : Slot) (c : Nat) : Slot :=
  if c = 0 then { w.history with nan := true } else if c = 1 then { w.history with pinf := true }
  else if c = 2 then { w.history with ninf := true } else w.history.overflow (c == 7)

theorem slotOfXc128_class {c : Nat} (hc : c ∈ [0, 1, 2, 3, 7]) (w : Slot) :
    slotOfXc128 (xcWord c 0 true w) = (w.ofXcClass c, false) := by
  have hsmall : c < 2 ^ 96 ∧ bits c 2 0 = c ∧ bits c 95 3 = 0 ∧ ¬ (4 ≤ c ∧ c ≤ 6) := by
    revert c; decide
  obtain ⟨hw, hclass, hrest, hvalid⟩ := hsmall
  obtain ⟨hword, hp, hreserved⟩ := xcWord_fields hw (by omega : 0 < 2 ^ 12) true w
  obtain ⟨hspecial, hs, hl, hb⟩ := xcWord_flags hw (by omega : 0 < 2 ^ 12) true w
  simp [slotOfXc128, hword, hp, hreserved, hspecial, hs, hl, hb, hclass, hrest, hvalid, Slot.ofXcClass, Slot.history]

theorem Slot.xcClass_mem {w : Slot} {c : Nat} (h : w.xcClass = some c) : c ∈ [0, 1, 2, 3, 7] := by
  unfold Slot.xcClass at h
  split_ifs at h <;> cases h <;> decide

theorem Slot.xcClass_eq_none {w : Slot} (h : w.xcClass = none) :
    w.nanLike = false ∧ w.pinf = false ∧ w.ninf = false ∧ w.ovf = false := by
  unfold Slot.xcClass at h
  split_ifs at h with hnan hp hi ho
  simp_all

/-- An element of a class reads as the slot that it was made from, under any scales. -/
theorem Slot.value_ofXcClass {w : Slot} (hrange : w.ovf = true ∨ InValue w.x) {c : Nat} (h : w.xcClass = some c) (q : Slot) :
    ((w.ofXcClass c).scaledAs q).value = w.value := by
  have hzero : ((w.ofXcClass c).scaledAs q).x = 0 := by
    unfold Slot.ofXcClass
    split_ifs <;> rfl
  rw [Slot.value_of_range hrange, Slot.value_of_range (.inr (hzero ▸ inValue_zero))]
  unfold Slot.xcClass at h
  split_ifs at h with hnan hp hi ho hneg <;> cases h
  · rw [if_pos hnan]
    simp [Slot.ofXcClass, Slot.scaledAs, Slot.nanLike]
  · rw [if_neg hnan, if_pos hp]
    simp [Slot.ofXcClass, Slot.scaledAs, Slot.history, Slot.nanLike]
  · rw [if_neg hnan, if_neg hp, if_pos hi]
    simp [Slot.ofXcClass, Slot.scaledAs, Slot.history, Slot.nanLike]
  · rw [if_neg hnan, if_neg hp, if_neg hi, if_pos ho, hneg]
    simp [Slot.ofXcClass, Slot.scaledAs, Slot.history, Slot.nanLike, Slot.overflow]
  · rw [if_neg hnan, if_neg hp, if_neg hi, if_pos ho, Bool.eq_false_of_not_eq_true hneg]
    simp [Slot.ofXcClass, Slot.scaledAs, Slot.history, Slot.nanLike, Slot.overflow]

/-- An element of a finite value reads as the slot that it was made from. -/
theorem Slot.value_finiteElement {w : Slot} (hrange : w.ovf = true ∨ InValue w.x) (h : w.xcClass = none) :
    ({ w.history with x := w.x, scaleM := w.scaleM, scaleE := w.scaleE } : Slot).value = w.value := by
  obtain ⟨hnan, hp, hi, ho⟩ := Slot.xcClass_eq_none h
  have hx : InValue w.x := hrange.resolve_left (by simp [ho])
  rw [Slot.value_of_range hrange, Slot.value_of_range]
  · rw [hnan, hp, hi, ho]
    simp [Slot.history, Slot.nanLike]
  · exact .inr hx

theorem Slot.value_slotOfXc128 {q : Slot} {n : Nat} (h : q.xc128 = some n) :
    (slotOfXc128 n).2 = false ∧ ((slotOfXc128 n).1.scaledAs q).value = q.value := by
  obtain ⟨hm, he⟩ := q.swept_scales
  rcases Slot.xc128_eq_some h with ⟨c, hc, rfl⟩ | ⟨v, pos, hc, hpos, hx, ⟨hlo, hhi⟩, rfl⟩
  · rw [slotOfXc128_class (Slot.xcClass_mem hc), ← q.value_swept]
    exact ⟨rfl, Slot.value_ofXcClass q.swept_range hc q⟩
  · rw [slotOfXc128_finite (by omega) hpos, signed_emod hlo hhi, ← hx, ← q.value_swept, Slot.scaledAs, ← hm, ← he]
    exact ⟨rfl, Slot.value_finiteElement q.swept_range hc⟩

end Sys2Proof.Machine

/-! What holds of accumulation, and what does not. -/

namespace Sys2Proof.Machine

/-- Deposits and exchanges as R125 to R128, R136 and R144 have them: the statement of O5 with the INT8 scales, which a finite
readout multiplies by and an exchanged element does not carry (R54; log 21). -/
theorem accumulation_exact_under_scales :
    (∀ (q : Slot) (v : Int) (c : Cls),
      let d := q.deposit v c
      d.nan = (q.nan || c.nan) ∧ d.pinf = (q.pinf || c.pinf) ∧ d.ninf = (q.ninf || c.ninf) ∧
        (q.ovf = true → d.ovf = true ∧ d.ovfNeg = q.ovfNeg ∧ d.x = q.x) ∧
        (q.ovf = false → InGuard (q.x + v) → d.ovf = false ∧ d.x = q.x + v) ∧
        (q.ovf = false → ¬ InGuard (q.x + v) → d.ovf = true ∧ d.ovfNeg = decide (q.x + v < 0))) ∧
    (∀ (q : Slot) (delta : Nat) (v : Int) (c : Cls), q.ovf = false → ∃ r : Slot, r.x = q.x.fdiv ((2 ^ delta : Nat) : Int) ∧
      r.ovf = false ∧ (r.nan, r.pinf, r.ninf) = (q.nan, q.pinf, q.ninf) ∧ (q.rescale delta).deposit v c = r.deposit v c) ∧
    (∀ (q : Slot) (vs ws : List Int), q.ovf = false → vs.Perm ws →
      (∀ us ∈ [vs, ws], ∀ n, InGuard (q.x + (us.take n).sum)) →
      vs.foldl (fun a v => a.deposit v {}) q = { q with x := q.x + vs.sum } ∧
        ws.foldl (fun a v => a.deposit v {}) q = vs.foldl (fun a v => a.deposit v {}) q) ∧
    (∀ q : Slot, q.nan = false → q.pinf = false → q.ninf = false → q.ovf = false →
      q.value = if InValue q.x then .fin (q.x * q.scaleM) (q.scaleE - 400) else .inf (decide (q.x < 0))) ∧
    (∀ (q : Slot) (n : Nat), q.xc128 = some n →
      (slotOfXc128 n).2 = false ∧ ((slotOfXc128 n).1.scaledAs q).value = q.value) ∧
    ∀ q : Slot, ((slotOfImage q.image).scaledAs q).value = q.value := by
  refine ⟨fun q v c => ?deposit, fun q delta v c hq => ?rescale, fun q vs ws hq hperm hheld => ?order,
    fun q hn hp hi ho => Slot.value_finite hn hp hi ho, fun q n => Slot.value_slotOfXc128, Slot.value_slotOfImage⟩
  case deposit =>
    obtain ⟨hn, hp, hi⟩ := q.deposit_flags v c
    refine ⟨hn, hp, hi, fun hq => ?_, fun hq h => ?_, fun hq h => ?_⟩
    · rw [Slot.deposit_overflowed hq]; exact ⟨hq, rfl, rfl⟩
    · rw [Slot.deposit_held hq h]; exact ⟨hq, rfl⟩
    · rw [Slot.deposit_beyond hq h]; exact ⟨rfl, rfl⟩
  case rescale =>
    obtain ⟨ho, hn, hp, hi⟩ := q.rescale_flags delta
    exact ⟨q.rescale delta, Slot.rescale_x hq delta, ho.trans hq, by rw [hn, hp, hi], rfl⟩
  case order =>
    have hv := Slot.foldl_deposit_held vs hq (hheld vs (by simp))
    have hw := Slot.foldl_deposit_held ws hq (hheld ws (by simp))
    exact ⟨hv, by rw [hv, hw, hperm.sum_eq]⟩

/-- A slot that holds 1, of a command whose operands have INT8 scales with the product 3. -/
def tripled : Slot := ({ x := 1 } : Slot).withScale (.fin 3 0)

theorem tripled_value : tripled.value = .fin 3 (-400) := by decide +kernel

/-- Refutes O5: its fourth clause reads a sum in the range of VALUE as the sum itself, but a readout multiplies it by the
slot's INT8 scales (R54, R136; log 21). A slot that holds 1 under the scale 3 reads as 3, not as 1. The two exchange clauses
leave the scales out as well; with the scales in place every clause holds: `accumulation_exact_under_scales`. -/
theorem not_accumulationExact : ¬ Obligations.AccumulationExact := by
  unfold Obligations.AccumulationExact
  rintro ⟨-, -, -, hread, -, -⟩
  have hone : tripled.value = if InValue 1 then .fin 1 (-400) else .inf (decide ((1 : Int) < 0)) :=
    hread tripled rfl rfl rfl rfl
  rw [tripled_value] at hone
  revert hone
  decide +kernel

end Sys2Proof.Machine

/-! What a completion leaves of its ring, and what it changes where its entry has a place (R187, R189, R196). -/

namespace Sys2Proof.Machine

variable (s : State)

/-- A ring's head moves on over completed records; nothing else of the ring changes but the list of these. -/
theorem advanceHead_eq (c : Core) (x n : Nat) (r : Ring) :
    ∃ head done, advanceHead c x n r = { r with head := head, done := done } := by
  induction n generalizing r with
  | zero => exact ⟨r.head, r.done, rfl⟩
  | succ n ih =>
    unfold advanceHead
    dsimp only
    split
    · obtain ⟨head, done, h⟩ := ih { r with head := r.head + 1, done := r.done.erase r.head.toNat }
      exact ⟨head, done, h⟩
    · exact ⟨r.head, r.done, rfl⟩

theorem advanceHeads_ring (g x : Nat) :
    ∃ head done, ((advanceHeads s g).core g).ring x = { (s.core g).ring x with head := head, done := done } := by
  have hmap : ((advanceHeads s g).core g).ring x =
      advanceHead (s.core g) x ((s.core g).ring x).done.length ((s.core g).ring x) := by
    rw [advanceHeads, State.core_modCore]
    exact mget_map_val (fun k r => advanceHead (s.core g) k r.done.length r) ({} : Ring) _ x rfl
  rw [hmap]
  exact advanceHead_eq _ _ _ _

/-- What the completion of a record does to its ring, once those that waited for the record are settled and but for its head:
the record is done and outstanding no longer, and its tag stands met or failed. -/
def Ring.finish (r : CmdRec) (fails : Bool) (v : Ring) : Ring :=
  { v with done := if r.recompute.isNone then v.done ++ [r.idx] else v.done, outstanding := v.outstanding.erase r.idx,
           tags := if (mget? v.tags r.tag).map Prod.fst = some r.idx
             then mput v.tags r.tag (r.idx, if fails then .failed else .met) else v.tags }

theorem completeCmd_ring (g : Nat) (q : Option QueueId) (r : CmdRec) (c : Completion) :
    ∃ head done, ((completeCmd s g q r c).core g).ring r.ctx =
      { (((s.core g).ring r.ctx).settle r.ctx r.idx (statusFails c.status) c.endAt).finish r (statusFails c.status) with
        head := head, done := done } := by
  obtain ⟨t, ht, e⟩ := completeCmd_cores s g q r c
  obtain ⟨head, done, hring⟩ := advanceHeads_ring t g r.ctx
  have hmid : (t.core g).ring r.ctx =
      (((s.core g).ring r.ctx).settle r.ctx r.idx (statusFails c.status) c.endAt).finish r (statusFails c.status) := by
    rw [State.core, ht]
    refine (State.ring_modRing _ g r.ctx _).trans ?_
    rw [State.core_modCore, settleDeps_ring, entryStore_core]
    rfl
  exact ⟨head, done, by rw [e, hring, hmid]⟩

theorem completeCmd_fetched (g : Nat) (q : Option QueueId) (r : CmdRec) (c : Completion) :
    (((completeCmd s g q r c).core g).ring r.ctx).fetched = ((s.core g).ring r.ctx).fetched := by
  obtain ⟨head, done, h⟩ := completeCmd_ring s g q r c
  rw [h]
  rfl

/-- Settling leaves each record of a list its number. -/
theorem idx_of_mem_settled {x i at_ : Nat} {fails : Bool} {l : List CmdRec} {k : CmdRec}
    (h : k ∈ l.map (CmdRec.settle x i fails at_)) : ∃ v ∈ l, v.idx = k.idx := by
  obtain ⟨v, hv, rfl⟩ := List.mem_map.1 h
  refine ⟨v, hv, ?_⟩
  unfold CmdRec.settle
  split <;> rfl

/-- After a completion the records that act in the ring are those that did. -/
theorem completeCmd_acting {g : Nat} {q : Option QueueId} {r : CmdRec} {c : Completion} {k : CmdRec}
    (h : k ∈ (((completeCmd s g q r c).core g).ring r.ctx).acting) :
    ∃ v ∈ ((s.core g).ring r.ctx).acting, v.idx = k.idx := by
  obtain ⟨head, done, e⟩ := completeCmd_ring s g q r c
  rw [e] at h
  exact idx_of_mem_settled h

/-! ### What changes -/

/-- An entry with a place is written there, and counted at the slab port. -/
theorem entryStore_placed {g : Nat} {r : CmdRec} (c : Completion) (h : EntryPlaced s g r) :
    entryStore s g r c = memWrite (slabTraffic s (cplKey s g r) 16 true false) (cplKey s g r) (completionEntry s r c) := by
  obtain ⟨hown, harea, hplain⟩ := h
  have hl := completionEntry_length s r c
  have hp : PlainStore (slabTraffic s (cplKey s g r) 16 true false) (cplKey s g r) (completionEntry s r c).length := by
    rw [hl]
    unfold slabTraffic
    split
    · exact plainStore_count _ _ _ _ _ _ (plainStore_count _ _ _ _ _ _ hplain)
    · exact hplain
  simp only [entryStore, hown, writeEntry, harea, if_true, memStores, List.foldl_cons, List.foldl_nil, hl]
  rw [show cplBase s g r.ctx + 16 * (r.idx % 2 ^ ringLog2 s g r.ctx) = cplKey s g r from rfl, memStore_plain _ _ hp]
  rfl

/-- The parts that the completion of a record of a ring changes, where its entry has a place. -/
abbrev Finishing : List Piece := [.mem, .pages, .cores, .sched, .parts]

theorem within_entryStore_placed {g : Nat} {r : CmdRec} (c : Completion) (h : EntryPlaced s g r) :
    Within (· ∈ Finishing) s (entryStore s g r c) := by
  rw [entryStore_placed s c h]
  exact within_memWrite at0 _ _ _ (within_slabTraffic at1 _ _ _ _ _ (within_refl _ s))

/-- A completion changes the dies only where an almanac fallback dispatched the record. -/
theorem completeCmd_dies (g : Nat) (q : Option QueueId) {r : CmdRec} (c : Completion) (h : r.recompute = none) :
    (completeCmd s g q r c).dies = (entryStore s g r c).dies := by
  unfold completeCmd
  extract_lets fails s1 own s2 s3 s4 s5 s6 s7
  have h3 : s3.dies = s1.dies := by
    unfold s3
    split <;> rfl
  have h5 : s5.dies = s3.dies := by
    unfold s5
    split <;> rfl
  have h6 : s6.dies = s5.dies := by
    unfold s6
    split
    · exact (within_failStep (S := (· ∈ [Piece.sched, .parts])) at0 at1 _ _ _ (within_refl _ s5)).dies (by decide)
    · rfl
  have h7 : s7 = s6 := by simp only [s7, h]
  exact (congrArg State.dies h7).trans (h6.trans (h5.trans h3))

theorem changes_completeCmd {g : Nat} (q : Option QueueId) {r : CmdRec} (c : Completion) (h : EntryPlaced s g r) :
    Changes Finishing s (completeCmd s g q r c) := by
  have hstore := within_entryStore_placed s c h
  have hrest := within_completeCmd_store s g q r c
  intro p hp
  by_cases hd : p = .dies
  · subst hd
    exact (completeCmd_dies s g q c h.1).trans (changes_of hstore .dies hp)
  · have hlater : p.same (entryStore s g r c) (completeCmd s g q r c) := within_same hrest (by simp_all)
    have hfirst := changes_of hstore p hp
    cases p <;> exact hlater.trans hfirst

end Sys2Proof.Machine

/-! Doorbells: the ring's tail and the descriptors latched (R179, R184, R545). -/

namespace Sys2Proof.Machine

variable (s : State)

theorem tailAddr_page (g : Nat) {x : Nat} (h : x < 8) : tailAddr g x / 0x1000 = pnSeq g := by unfold tailAddr; omega

@[simp] theorem ringLog2_disarm (pn g x : Nat) : ringLog2 (disarm s pn) g x = ringLog2 s g x :=
  ringLog2_congr (disarm_reg s pn) g x

@[simp] theorem ignoreWrite_core (reason init addr v g : Nat) : (ignoreWrite s reason init addr v).core g = s.core g :=
  capture_core s _ _ g

@[simp] theorem ignoreWrite_reg (reason init addr v j k : Nat) : (ignoreWrite s reason init addr v).reg j k = s.reg j k :=
  capture_reg s _ _ j k

/-- The ring that a doorbell leaves: its tail moved, the descriptors of the records newly covered latched. -/
def rungRing (g x : Nat) (tail : BitVec 16) : Ring → Ring := fun r =>
  let n := (tail - ((s.core g).ring x).head).toNat
  let old := (((s.core g).ring x).tail - ((s.core g).ring x).head).toNat
  { (if ringPlaced s g x then latchFrom s g x (r.head.toNat + old) (n - old) r else r) with tail := tail }

theorem execDoorbell_served {s : State} {init g x : Nat} (hx : x < 8) (h : Served s init (tailAddr g x) true) (v : Word) :
    execDoorbell init g x v false s = .next (ringTail (disarm s (pnSeq g)) init g x v.toNat) := by
  rw [execDoorbell, ctlWrite_served h, tailAddr_page g hx]

section
variable {s} {g x v : Nat}

/-- A tail at most the ring's size past the head is taken. -/
theorem ringTail_taken (init : Nat) (h : (BitVec.ofNat 16 v - ((s.core g).ring x).head).toNat ≤ 2 ^ ringLog2 s g x) :
    ringTail s init g x v = s.modRing g x (rungRing s g x (BitVec.ofNat 16 v)) := by
  simp only [ringTail, if_neg h.not_gt]
  rfl

theorem ringTail_past (init : Nat) (h : 2 ^ ringLog2 s g x < (BitVec.ofNat 16 v - ((s.core g).ring x).head).toNat) :
    ringTail s init g x v = ignoreWrite s 7 init (tailAddr g x) v := by
  simp only [ringTail, if_pos h]

end

/-- Settles O15: the served write goes on at the SEQ page, and takes the tail or is ignored, by how far past the head it lies. -/
theorem doorbellMovesTail : Obligations.DoorbellMovesTail := by
  unfold Obligations.DoorbellMovesTail
  intro s init core ctx value _ hctx hserved ring tail n old s0 latched
  have hring : (s0.core core).ring ctx = ring := by rw [disarm_core]
  have hlog : ringLog2 s0 core ctx = ringLog2 s core ctx := ringLog2_disarm s _ core ctx
  have hrun := execDoorbell_served hctx hserved value
  have hdisarmed := within_disarm (S := (· ∈ [Piece.pages, .cores])) at0 s (pnSeq core) (within_refl _ s)
  by_cases hn : n ≤ 2 ^ ringLog2 s core ctx
  · rw [ringTail_taken init (by rw [hlog, hring]; exact hn)] at hrun
    refine ⟨_, hrun, changes_of (within_State_modRing at1 _ _ _ _ hdisarmed), fun k hk => disarm_page_ne s _ k hk,
      fun off => disarm_reg s _ _ off, fun g hg => ?_, fun _ => ?_, fun hpast => absurd hn hpast.not_ge⟩
    · rw [State.modRing, State.core_modCore_ne _ _ _ _ hg, disarm_core]
    · rw [State.modRing, State.core_modCore]
      simp only [rungRing, disarm_core]
      rfl
  · have hpast : 2 ^ ringLog2 s core ctx < n := Nat.lt_of_not_ge hn
    rw [ringTail_past init (by rw [hlog, hring]; exact hpast)] at hrun
    refine ⟨_, hrun, changes_of (within_ignoreWrite at0 _ _ _ _ _ hdisarmed), fun k hk => ?_,
      fun off => by rw [ignoreWrite_reg, disarm_reg], fun g _ => by rw [ignoreWrite_core, disarm_core],
      fun hle => absurd hle hn, fun _ => ⟨by rw [ignoreWrite_core, disarm_core], ?_⟩⟩
    · rw [ignoreWrite_page_ne _ _ _ _ _ _ (by rwa [tailAddr_page core hctx]), disarm_page_ne s _ k hk]
    · have haddr : tailAddr core ctx / 0x1000 * 0x1000 + tailAddr core ctx % 0x1000 = tailAddr core ctx := by omega
      have hpage := ignoreWrite_page s0 7 init (tailAddr core ctx) value.toNat
      rw [haddr, tailAddr_page core hctx] at hpage
      rw [hpage, disarm_capture]
      rfl

end Sys2Proof.Machine

/-! The commands that act as their ring dispatches them: NOP, SIGNAL, WAIT and its timeout, FENCE (R185, R198–R200). -/

namespace Sys2Proof.Machine

variable (s : State)

/-! ### A record that completes where it stands -/

theorem completes_completeActing (g : Nat) (c : CmdRec) (e : Completion) : Completes s (completeActing s g c e) g c e :=
  (completes_completeCmd _ g none c e).of_eq rfl (fun _ _ => rfl) (fun _ => rfl) rfl
    (by rw [State.ring_modRing]) fun h => h

/-- The record acts in its ring no more. -/
theorem completeActing_acting (g : Nat) (c : CmdRec) (e : Completion) :
    ∀ k ∈ (((completeActing s g c e).core g).ring c.ctx).acting, k.idx ≠ c.idx := by
  intro k hk
  obtain ⟨v, hv, hidx⟩ := completeCmd_acting _ hk
  rw [State.ring_modRing] at hv
  simpa [hidx] using (List.mem_filter.1 hv).2

theorem changes_modRing (g x : Nat) (f : Ring → Ring) : Changes Finishing s (s.modRing g x f) :=
  changes_of (within_State_modRing at2 s g x f (within_refl _ s))

theorem changes_completeActing {g : Nat} {c : CmdRec} (e : Completion) (h : EntryPlaced s g c) :
    Changes Finishing s (completeActing s g c e) :=
  (changes_modRing s g c.ctx _).trans (changes_completeCmd _ none e h)

theorem changes_completeHold {g : Nat} {c : CmdRec} (e : Completion) (h : EntryPlaced s g c) :
    Changes Finishing s (completeHold s g c e) :=
  (changes_modRing s g c.ctx _).trans (changes_completeCmd _ none e h)

/-- A completion stands where the ring then changes in what is no list of outstanding records. -/
theorem Completes.modRing {s t : State} {g : Nat} {c : CmdRec} {e : Completion} (h : Completes s t g c e) (f : Ring → Ring)
    (hf : ∀ r, (f r).outstanding = r.outstanding) : Completes s (t.modRing g c.ctx f) g c e where
  entry := h.entry
  frame := h.frame
  ring := by rw [State.ring_modRing, hf]; exact h.ring
  counted := h.counted
  failures := h.failures

/-! ### The commands -/

section
variable {s} {g x : Nat} {c : CmdRec}

theorem depsOf_of_not_waiting (h : depsOf c ≠ .waiting) : depsOf c = if c.depFailed then .failed else .met := by
  unfold depsOf at h ⊢
  split at h
  · exact absurd rfl h
  · next hd => rw [if_neg hd]

theorem execNop_acts (hact : actingRec s g x opNop = some c) (hd : depsOf c ≠ .waiting) :
    execNop g x s = .next (completeActing s g c { status := if c.depFailed then stDepFailed else stOk }) := by
  have hdeps := depsOf_of_not_waiting hd
  cases hf : c.depFailed <;> simp only [hf, Bool.false_eq_true, if_true, if_false] at hdeps ⊢ <;>
    simp only [execNop, hact, hdeps, stOk]

theorem execFence_acts (hold : holdingRec s g x opFence = some c) (he : earlierDone s g c = true) :
    execFence g x s = .next (completeHold s g c {}) := by
  simp only [execFence, hold, he, if_true]

section
variable (hold : holdingRec s g x opWait = some c) (hd : depsOf c = .met)
include hold hd

theorem execWait_reads (hb : badUnit s (semKey s ((partOfCore s g).getD 4) x (bits (c.w 4) 7 0)) 4 = none) :
    execWait g x s = .next (if waitHolds s ((partOfCore s g).getD 4) c then completeHold s g c {} else s) := by
  simp only [execWait, hold, hd, hb]

theorem execWaitTimeout_passes (hw : waitHolds s ((partOfCore s g).getD 4) c = false) (h0 : c.w 6 ≠ 0)
    (hle : c.w 6 ≤ ((s.core g).ring x).waited) :
    execWaitTimeout g x s =
      .next ((completeHold s g c { status := stTimeout }).modRing g x fun r => { r with stopped := true }) := by
  simp only [execWaitTimeout, hold]
  rw [if_pos ⟨h0, hle, hd, hw⟩]

end

/-- A plain semaphore takes its value, modulo 2^32. -/
theorem setSem_plain {p n : Nat} (h : PlainStore s (semKey s p x n) 4) (v : Nat) :
    setSem s p x n v = (memWrite s (semKey s p x n) (leBytes 4 (v % 2 ^ 32)), none) :=
  memStore_plain _ _ (by rwa [leBytes_length])

/-- What a SIGNAL leaves its semaphore: the sum with its value, or the value (R198). -/
def signalValue (s : State) (p x : Nat) (c : CmdRec) : Nat :=
  if bits (c.w 4) 9 8 = 0 then (semValue s p x (bits (c.w 4) 7 0) + c.w 5) % 2 ^ 32 else c.w 5 % 2 ^ 32

theorem execSignal_acts (hact : actingRec s g x opSignal = some c) (he : earlierDone s g c = true)
    (hp : PlainStore s (semKey s ((partOfCore s g).getD 4) x (bits (c.w 4) 7 0)) 4)
    (hb : badUnit s (semKey s ((partOfCore s g).getD 4) x (bits (c.w 4) 7 0)) 4 = none) :
    execSignal g x s = .next (completeActing (memWrite s (semKey s ((partOfCore s g).getD 4) x (bits (c.w 4) 7 0))
      (leBytes 4 (signalValue s ((partOfCore s g).getD 4) x c))) g c {}) := by
  by_cases hadd : bits (c.w 4) 9 8 = 0 <;>
    simp only [execSignal, hact, he, hadd, if_true, if_false, addSem, setSem_plain hp, hb, Option.or, signalValue]

end

/-- Settles O17: each command, its condition met, completes its record where it acts or holds the ring. -/
theorem ringCommandsComplete : Obligations.RingCommandsComplete := by
  unfold Obligations.RingCommandsComplete
  rintro s core _ c rfl p framed waits
  refine ⟨fun hact hd => ?nop, fun hold he => ?fence, fun ⟨hold, hd, hb⟩ hw => ?wait, fun ⟨hold, hd, hb⟩ hw => ?waits,
    fun ⟨hold, hd, _⟩ hw h0 hle => ?timeout⟩
  case nop =>
    exact ⟨_, execNop_acts hact hd, completes_completeActing s core c _, changes_completeActing s _⟩
  case fence =>
    exact ⟨_, execFence_acts hold he, completes_completeHold s core c _, completeHold_hold s core c _,
      changes_completeHold s _⟩
  case wait =>
    exact ⟨_, (execWait_reads hold hd hb).trans (congrArg _ (if_pos hw)), completes_completeHold s core c _,
      completeHold_hold s core c _,
      changes_completeHold s _⟩
  case waits =>
    exact (execWait_reads hold hd hb).trans (congrArg _ (if_neg (by rw [hw]; exact Bool.false_ne_true)))
  case timeout =>
    refine ⟨_, execWaitTimeout_passes hold hd hw h0 hle, (completes_completeHold s core c _).modRing _ fun _ => rfl, ?_, ?_,
      fun h => (changes_completeHold s _ h).trans (changes_modRing _ _ _ _)⟩
    · rw [State.ring_modRing]
      exact completeHold_hold s core c _
    · rw [State.ring_modRing]

/-- Settles O18: the semaphore is written, and the record completes on the memory that holds it. -/
theorem signalWritesSemaphore : Obligations.SignalWritesSemaphore := by
  unfold Obligations.SignalWritesSemaphore
  rintro s core _ c rfl hact he p key v hplain hbad
  have hwrite : Changes Finishing s (memWrite s key (leBytes 4 v)) :=
    changes_of (within_memWrite at0 _ _ _ (within_refl _ s))
  exact ⟨_, execSignal_acts hact he hplain hbad, completes_completeActing _ core c {},
    fun hplaced => hwrite.trans (changes_completeActing _ {} hplaced), completeActing_acting _ core c {}⟩

end Sys2Proof.Machine

/-! Tiles that land, and write-backs that are acknowledged (R187, R202, R374). -/

namespace Sys2Proof.Machine

variable (s : State)

/-- The oldest landing tile of a core is resident. -/
def tileLanded (g : Nat) (rest : List (Nat × Nat)) : State :=
  (s.modCore g fun c => { c with landing := rest }).count (pnLs g) 0 1

theorem tileLanded_core (g : Nat) (rest : List (Nat × Nat)) :
    (tileLanded s g rest).core g = { s.core g with landing := rest } := by
  rw [tileLanded, State.count_core, State.core_modCore]

theorem tileLanded_core_ne {g k : Nat} (rest : List (Nat × Nat)) (h : k ≠ g) : (tileLanded s g rest).core k = s.core k := by
  rw [tileLanded, State.count_core, State.core_modCore_ne _ _ _ _ h]

theorem tileLanded_counter (g : Nat) (rest : List (Nat × Nat)) :
    (tileLanded s g rest).counter (pnLs g) 0 = s.counter (pnLs g) 0 + 1 := by
  rw [tileLanded, State.counter_count_same, State.modCore_counter]
  rfl

theorem tileLanded_page_ne (g : Nat) (rest : List (Nat × Nat)) {k : Nat} (h : k ≠ pnLs g) :
    (tileLanded s g rest).page k = s.page k := by
  rw [tileLanded, State.page_count_ne _ _ _ _ _ h, State.modCore_page]

/-- No gather group that is called to issue waits for the tile. -/
theorem execTileResident_lands {s : State} {g : Nat} {x : Nat × Nat} {rest : List (Nat × Nat)}
    (hl : (s.core g).landing = x :: rest) (hg : (s.core g).gather.any GatherGroup.due = false) :
    execTileResident g s = .next (tileLanded s g rest) := by
  have hgate : ((tileLanded s g rest).core g).gather.any GatherGroup.due = false := by rw [tileLanded_core]; exact hg
  have hretry : retryGather (tileLanded s g rest) g = tileLanded s g rest := by
    rw [retryGather, if_neg (by rw [hgate]; exact Bool.false_ne_true)]
  simp only [execTileResident, hl]
  exact congrArg Host.Outcome.next hretry

/-- The oldest committed command of a queue is in flight no more. -/
def flightEnded (g : Nat) (q : QueueId) : State :=
  s.modCore g fun c => { c with inflight := eraseFirst (fun k => k.queue == q) c.inflight }

theorem flightEnded_core (g : Nat) (q : QueueId) : (flightEnded s g q).core g =
    { s.core g with inflight := eraseFirst (fun k => k.queue == q) (s.core g).inflight } := State.core_modCore _ _ _

/-- What the completion entry of a command in flight says: what it committed with. -/
def InFlight.completion (f : InFlight) : Completion :=
  { status := f.status.toNat, summary := f.summary.toNat, rowEmpty := f.rowEmpty, detail := f.detail.toNat, tiles := f.tiles,
    endAt := f.endAt + 1 }

theorem execWritebackAck_last {s : State} {g : Nat} {q : QueueId} {f : InFlight} (hf : oldestFlight s g q = some f)
    (h0 : f.linkWait = 0) :
    execWritebackAck g q s = .next (completeCmd (flightEnded s g q) g (some q) f.cmd f.completion) := by
  simp only [execWritebackAck, hf, h0, ne_eq, not_true, if_false, flightEnded, InFlight.completion]

/-- Settles O20: the tile leaves those that land; the command leaves those in flight and completes. -/
theorem tilesLandAndWriteBacksEnd : Obligations.TilesLandAndWriteBacksEnd := by
  unfold Obligations.TilesLandAndWriteBacksEnd
  intro s core q
  refine ⟨fun x rest hl hg => ?lands, fun f hf h0 => ?ends⟩
  case lands =>
    exact ⟨_, execTileResident_lands hl hg,
      changes_of (within_State_count at0 _ _ _ _ (within_State_modCore at1 _ _ _ (within_refl _ s))),
      tileLanded_core s core rest, fun g hg => tileLanded_core_ne s rest hg, tileLanded_counter s core rest,
      fun k hk => tileLanded_page_ne s core rest hk⟩
  case ends =>
    have hleaves : Changes Finishing s (flightEnded s core q) := changes_of (within_State_modCore at2 _ _ _ (within_refl _ s))
    have hdone := completes_completeCmd (flightEnded s core q) core (some q) f.cmd f.completion
    refine ⟨_, execWritebackAck_last hf h0, fun hplaced => hleaves.trans (changes_completeCmd _ _ _ hplaced), ?_,
      hdone.of_eq rfl (fun _ _ => rfl) (fun _ => rfl) rfl (by rw [flightEnded_core]; rfl) fun h => h⟩
    rw [completeCmd_inflight, flightEnded_core]

end Sys2Proof.Machine

/-! Contexts that are commanded, and jobs that end (R204, R463, R465, R474). -/

namespace Sys2Proof.Machine

variable (s : State)

theorem State.modCtx_ctx (p x : Nat) (f : Ctx → Ctx) : ((s.modCtx p x f).part p).ctx x = f ((s.part p).ctx x) := by
  rw [State.modCtx, State.part_modPart]
  exact mget_mset_same _ _ _ _

theorem State.modCtx_ctx_ne (p : Nat) {x y : Nat} (f : Ctx → Ctx) (h : y ≠ x) :
    ((s.modCtx p x f).part p).ctx y = (s.part p).ctx y := by
  rw [State.modCtx, State.part_modPart]
  exact mget_mset_ne _ _ _ h

theorem ctxCmdAddr_page (p : Nat) : ctxCmdAddr p / 0x1000 = pnPart p := by unfold ctxCmdAddr; omega

/-- A write that a PART page ignores changes the page alone. -/
theorem onlyPage_ignoreWrite {pn addr : Nat} (h : addr / 0x1000 = pn) (reason init v : Nat) :
    OnlyPage pn s (ignoreWrite (disarm s pn) reason init addr v) :=
  ⟨changes_of (within_ignoreWrite at0 _ _ _ _ _ (within_disarm at0 _ _ (within_refl _ s))),
    fun k hk => by rw [ignoreWrite_page_ne _ _ _ _ _ _ (h ▸ hk), disarm_page_ne s pn k hk]⟩

/-! ### CTX_CMD -/

section
variable {s} {init p x : Nat}

/-- An action on a context in use takes place with the page's key disarmed. -/
theorem ctxCmd_acts (h : Served s init (ctxCmdAddr p) true) (hu : ((s.part p).ctx x).phase ≠ .free) (value : Nat)
    (act : State → State) :
    (ctlWrite s init (ctxCmdAddr p) value false fun t => ctxAction t init p x value act) = act (disarm s (pnPart p)) := by
  rw [ctlWrite_served h, ctxCmdAddr_page, ctxAction, disarm_part, if_neg hu]

/-- For a FREE context it is ignored. -/
theorem ctxCmd_ignored (h : Served s init (ctxCmdAddr p) true) (hf : ((s.part p).ctx x).phase = .free) (value : Nat)
    (act : State → State) :
    OnlyPage (pnPart p) s (ctlWrite s init (ctxCmdAddr p) value false fun t => ctxAction t init p x value act) := by
  rw [ctlWrite_served h, ctxCmdAddr_page, ctxAction, disarm_part, if_pos hf]
  exact onlyPage_ignoreWrite s (ctxCmdAddr_page p) _ _ _

end

theorem coresOfPart_disarm (pn p : Nat) : coresOfPart (disarm s pn) p = coresOfPart s p := by
  simp only [coresOfPart, quadsOf, regN_disarm]

theorem doResume_part (p x : Nat) : (doResume s p x).part p = (s.modCtx p x fun c => { c with phase := .runnable }).part p := by
  have h : (doResume s p x).parts = (s.modCtx p x fun c => { c with phase := .runnable }).parts :=
    (within_foldl (S := (· ∈ [Piece.cores])) _ _ _ (fun _ _ ht => within_State_modRing at0 _ _ _ _ ht)
      (within_refl _ _)).parts (by decide)
  rw [State.part, h]
  rfl

/-- Dispatch goes on from the context's ring on every core of the partition. -/
theorem doResume_ring (p x : Nat) {g : Nat} (hg : g ∈ coresOfPart s p) :
    ((doResume s p x).core g).ring x = { (s.core g).ring x with stopped := false } := by
  have hcore : (doResume s p x).core g = (s.core g).setRing x { (s.core g).ring x with stopped := false } :=
    (foldl_modCore_core _ (fun c => c.setRing x { c.ring x with stopped := false }) _ (coresOfPart_nodup s p) g).trans
      (if_pos hg)
  rw [hcore, Core.ring_setRing]

/-- A discarded context is RUNNABLE, its step not failed and its evaluation windows gone. -/
theorem doDiscard_ctx (p x : Nat) : ∃ c : Ctx,
    ((doDiscard s p x).part p).ctx x = { c with phase := .runnable, stepFailed := false, evalWins := [] } := by
  rw [doDiscard, State.modCtx_ctx, discardCtx, State.modCtx_ctx]
  exact ⟨_, rfl⟩

/-! ### END -/

/-- The jobs that a partition has admitted, and its contexts. -/
def Part.admitted (v : Part) : List Job × SMap Ctx := (v.jobs, v.ctxs)

theorem changeCycle_admitted (t : State) (p : Nat) : ((changeCycle s t p).part p).admitted = (t.part p).admitted := by
  rw [changeCycle, State.part_modPart]
  split <;> rfl

theorem switchIn_admitted (p : Nat) (x : Option Nat) : ((switchIn s p x).part p).admitted = (s.part p).admitted := by
  have h : (switchIn s p x).parts = (s.modPart p fun v => { v with cur := x }).parts :=
    (within_foldl (S := (· ∈ [Piece.cores])) _ _ _ (fun _ _ ht => within_State_modCore at0 _ _ _ ht)
      (within_refl _ _)).parts (by decide)
  have hpart : (switchIn s p x).part p = (s.modPart p fun v => { v with cur := x }).part p := by
    rw [State.part, h]
    rfl
  rw [hpart, State.part_modPart]
  rfl

theorem endTraining_part (p : Nat) : (endTraining s).part p = s.part p := by
  have h : (endTraining s).parts = s.parts :=
    (within_endTraining (S := (· ∈ [Piece.dies, .bell, .sched])) at0 at1 at2 s (within_refl _ s)).parts (by decide)
  rw [State.part, h]
  rfl

/-- What ends with a job but for its contexts: it leaves its partition, which keeps the others. -/
theorem endOf_admitted (p : Nat) (j : Job) : ((endOf s p j).part p).admitted =
    let v := ((maskCtxs j.ctxMask.toNat).foldl (fun (t : State) x => endCtx t p x) s).part p
    (v.jobs.filter fun k => k.ctxMask != j.ctxMask, v.ctxs) := by
  unfold endOf
  extract_lets s1 s2 s3 s4
  have h2 : (s2.part p).admitted = ((s1.part p).jobs.filter fun k => k.ctxMask != j.ctxMask, (s1.part p).ctxs) := by
    simp only [s2, State.part_modPart, Part.admitted]
  have h3 : (s3.part p).admitted = (s2.part p).admitted := changeCycle_admitted s s2 p
  have h4 : (s4.part p).admitted = (s3.part p).admitted := by
    unfold s4
    split
    · exact switchIn_admitted s3 p none
    · rfl
  have h5 : ((if j.training = true then endTraining s4 else s4).part p).admitted = (s4.part p).admitted := by
    split
    · rw [endTraining_part]
    · rfl
  exact h5.trans (h4.trans (h3.trans h2))

theorem endOf_jobs (p : Nat) (j : Job) : ∀ k ∈ ((endOf s p j).part p).jobs, k.ctxMask ≠ j.ctxMask := by
  intro k hk
  have hjobs := congrArg Prod.fst (endOf_admitted s p j)
  rw [show ((endOf s p j).part p).jobs = _ from hjobs] at hk
  simpa using (List.mem_filter.1 hk).2

theorem endCtx_ctx (p x : Nat) : ((endCtx s p x).part p).ctx x = {} := by
  rw [endCtx, State.part_modPart, Part.ctx, mget_mset_same]

/-- The context of a job of one context is FREE. -/
theorem endOf_ctx (p : Nat) {j : Job} {x : Nat} (h : maskCtxs j.ctxMask.toNat = [x]) :
    ((endOf s p j).part p).ctx x = {} := by
  have hctxs := congrArg Prod.snd (endOf_admitted s p j)
  rw [h] at hctxs
  rw [Part.ctx, show ((endOf s p j).part p).ctxs = _ from hctxs]
  exact endCtx_ctx s p x

theorem find?_mask (mask : BitVec 8) (l : List Job) :
    (l.find? fun j => j.ctxMask.toNat == mask.toNat) = l.find? fun j => j.ctxMask == mask := by
  congr 1
  funext j
  exact Bool.eq_iff_iff.2 (by simp only [beq_iff_eq, BitVec.toNat_inj])

section
variable {s} {init p : Nat} (h : Served s init (jobCmdAddr p) true) {mask : BitVec 8}
include h

/-- END names the job of its mask. -/
theorem execEndJob_served : execEndJob ⟨init, false⟩ p mask s =
    .next (jobEnd (disarm s (pnPart p)) init p mask.toNat (2 + 16 * mask.toNat)) := by
  rw [execEndJob, ctlWrite_served h, jobCmdAddr_page]

theorem execEndJob_none (hj : ((s.part p).jobs.find? fun j => j.ctxMask == mask) = none) : execEndJob ⟨init, false⟩ p mask s =
    .next (ignoreWrite (disarm s (pnPart p)) 7 init (jobCmdAddr p) (2 + 16 * mask.toNat)) := by
  simp only [execEndJob_served h, jobEnd, disarm_part, find?_mask, hj]

theorem execEndJob_some {j : Job} (hj : ((s.part p).jobs.find? fun j => j.ctxMask == mask) = some j) :
    execEndJob ⟨init, false⟩ p mask s = .next (endOf (disarm s (pnPart p)) p j) := by
  simp only [execEndJob_served h, jobEnd, disarm_part, find?_mask, hj]

end

/-- Settles O50: each command goes on at the PART page, for a context in use or a job admitted, and is else ignored. -/
theorem contextsCommanded : Obligations.ContextsCommanded := by
  unfold Obligations.ContextsCommanded
  intro s init part ctx mask _ _ c others
  have hdisarmed {S : Piece → Prop} (hp : S .pages) : Within S s (disarm s (pnPart part)) :=
    within_disarm hp s _ (within_refl _ s)
  refine ⟨fun hs hu => ⟨?suspend, ?resume, ?discard⟩, fun hs hf i hi => ?free, fun hs hnone => ?noJob,
    fun j hs hj hm => ?endJob⟩
  case suspend =>
    refine ⟨_, congrArg Host.Outcome.next (ctxCmd_acts hs hu _ fun t => doSuspend t part ctx),
      changes_of (within_State_modCtx at1 _ _ _ _ (hdisarmed at0)), fun x hx => ?_, ?_⟩
    · rw [doSuspend, State.modCtx_ctx_ne _ _ _ hx, disarm_part]
    · rw [doSuspend, State.modCtx_ctx, disarm_part]
  case resume =>
    refine ⟨_, congrArg Host.Outcome.next (ctxCmd_acts hs hu _ fun t => doResume t part ctx),
      changes_of (within_doResume at1 at2 _ _ _ (hdisarmed at0)), fun x hx => ?_, ?_, fun g hg => ?_⟩
    · rw [doResume_part, State.modCtx_ctx_ne _ _ _ hx, disarm_part]
    · rw [doResume_part, State.modCtx_ctx, disarm_part]
    · rw [doResume_ring _ _ _ (by rwa [coresOfPart_disarm]), disarm_core]
  case discard =>
    obtain ⟨k, hk⟩ := doDiscard_ctx (disarm s (pnPart part)) part ctx
    refine ⟨_, congrArg Host.Outcome.next (ctxCmd_acts hs hu _ fun t => doDiscard t part ctx), ?_⟩
    rw [hk]
    exact ⟨rfl, rfl, rfl⟩
  case free =>
    have hignored (value : Nat) (act : State → State) := ctxCmd_ignored hs hf value act
    simp only [List.mem_cons, List.not_mem_nil, or_false] at hi
    obtain rfl | rfl | rfl := hi <;> exact ⟨_, rfl, hignored _ _⟩
  case noJob =>
    exact ⟨_, execEndJob_none hs hnone, onlyPage_ignoreWrite s (jobCmdAddr_page part) _ _ _⟩
  case endJob =>
    have hmask : j.ctxMask = mask := by simpa using List.find?_some hj
    subst hmask
    exact ⟨_, execEndJob_some hs hj, endOf_jobs _ part j, by rw [endOf_ctx _ part hm]⟩

end Sys2Proof.Machine

/-! The check of a record rests on no counter (R184, R194). -/

namespace Sys2Proof.Machine

/-! Each equation below is of the functions: what they read is the same on both states, and none is run. -/

section
variable {s t : State} (h : ReadsAlike s t)
include h

/-! ### Grants, windows and places -/

theorem ReadsAlike.partOfCore : partOfCore t = partOfCore s := funext (partOfCore_congr h.regs)

theorem ReadsAlike.jobOf : jobOf t = jobOf s := by
  delta Machine.jobOf
  rw [h.part]

theorem ReadsAlike.granaryEntry : granaryEntry t = granaryEntry s := by
  delta Machine.granaryEntry
  rw [h.jobOf]

theorem ReadsAlike.hubGrant : hubGrant t = hubGrant s := by
  delta Machine.hubGrant
  rw [h.regN]

theorem ReadsAlike.inHubGrant : inHubGrant t = inHubGrant s := by
  delta Machine.inHubGrant
  rw [h.hubGrant]

theorem ReadsAlike.sealWindows : sealWindows t = sealWindows s := by
  delta Machine.sealWindows outsideAll isSealed
  rw [h.part, h.hubGrant, h.regN]

theorem ReadsAlike.inScratch : inScratch t = inScratch s := by
  delta Machine.inScratch
  rw [h.part]

theorem ReadsAlike.inStage : inStage t = inStage s := by
  delta Machine.inStage
  rw [h.part]

theorem ReadsAlike.granted : granted t = granted s := by
  delta Machine.granted inGrants inFootprint inFrozenBank inIntake inRelease inOwnLent
  rw [h.inStage, h.inScratch, h.partOfCore, h.inHubGrant, h.sealWindows, h.hbmRegion, h.granaryEntry, h.jobOf, h.hubGrant, h.part]

theorem ReadsAlike.spansGranted : spansGranted t = spansGranted s := by
  delta Machine.spansGranted
  rw [h.granted]

theorem ReadsAlike.checkPtr : checkPtr t = checkPtr s := by
  delta Machine.checkPtr
  rw [h.granted]

/-- Whether a store is plain rests besides on the units with errors. -/
theorem ReadsAlike.plainStore (hc : cleanTier t = cleanTier s) : PlainStore t = PlainStore s := by
  delta PlainStore plainSpan lockedBlocks meetsRelease ctxPage State.regAddr anySealed isSealed
  rw [hc, h.hbmStale, h.burstKey, h.part, h.regN, h.sealWindows]

theorem ReadsAlike.ringArea : ringArea t = ringArea s := by
  delta Machine.ringArea
  rw [h.inHubGrant, h.partOfCore]

theorem ReadsAlike.entryPlaced (hc : cleanTier t = cleanTier s) : EntryPlaced t = EntryPlaced s := by
  delta EntryPlaced cplKey cplBase ringLog2 State.regAddr
  rw [h.plainStore hc, h.ringArea, h.regN]

/-! ### Words, operands and outputs -/

theorem ReadsAlike.viewWords : viewWords t = viewWords s := by
  delta Machine.viewWords viewNat viewBytes
  rw [h.viewByte]

theorem ReadsAlike.readSeq : readSeq t = readSeq s := by
  delta Machine.readSeq
  rw [h.viewWords]

theorem ReadsAlike.checkArrayOperand : checkArrayOperand t = checkArrayOperand s := by
  delta Machine.checkArrayOperand stagedOrSlab
  rw [h.inStage, h.granted]

theorem ReadsAlike.checkOutput : checkOutput t = checkOutput s := by
  delta Machine.checkOutput
  rw [h.granted, h.spansGranted]

theorem ReadsAlike.floorCheck : floorCheck t = floorCheck s := by
  delta Machine.floorCheck belowFloor
  rw [h.regN]

end

/-- Two states have the same of all that the check of a record reads: what operands are read from, the cores, and the units that
cannot be read (R184, R372). -/
structure ChecksAlike (s t : State) : Prop extends ReadsAlike s t where
  cores   : t.cores = s.cores
  badUnit : badUnit t = badUnit s

section
variable {s t : State} (h : ChecksAlike s t)
include h

/-! ### Reading what pointers name -/

theorem ChecksAlike.fetchAt : fetchAt t = fetchAt s := by
  delta Machine.fetchAt ptrKey
  rw [h.checkPtr, h.keyOf, h.badUnit, h.viewWords]

theorem ChecksAlike.fetchDescs : fetchDescs t = fetchDescs s := by
  delta Machine.fetchDescs fetchDesc
  rw [h.fetchAt]

theorem ChecksAlike.fetchList : fetchList t = fetchList s := by
  delta Machine.fetchList checkSeq seqPlaceBad
  rw [h.fetchAt, h.badUnit, h.keyOf, h.readSeq, h.granted]

theorem ChecksAlike.fetchDeckleData (w : Who) (l : List Deckle) (ds : List (Nat × List Word)) :
    fetchDeckleData t w l ds = fetchDeckleData s w l ds := by
  induction l generalizing ds with
  | nil => rfl
  | cons d r ih =>
    have hrest : Machine.fetchDeckleData t w r = Machine.fetchDeckleData s w r := funext ih
    rw [Machine.fetchDeckleData, Machine.fetchDeckleData, h.fetchAt, hrest]

theorem ChecksAlike.fetchDeckles : fetchDeckles t = fetchDeckles s := by
  have hdata : Machine.fetchDeckleData t = Machine.fetchDeckleData s := by
    funext w l ds
    exact h.fetchDeckleData w l ds
  delta Machine.fetchDeckles
  rw [h.fetchAt, hdata]

theorem ChecksAlike.fetchDecodeDeckles : fetchDecodeDeckles t = fetchDecodeDeckles s := by
  delta Machine.fetchDecodeDeckles
  rw [h.fetchAt]

theorem ChecksAlike.fetchEntry : fetchEntry t = fetchEntry s := by
  delta Machine.fetchEntry fetchEntryDesc fetchCoef fetchOnce
  rw [h.fetchAt, h.inScratch, h.granted, h.checkPtr]

/-! ### The rotary table of the core -/

theorem ChecksAlike.rotOf : rotOf t = rotOf s := by
  delta Machine.rotOf State.core
  rw [h.cores]

theorem ChecksAlike.rotTooWide : rotTooWide t = rotTooWide s := by
  delta Machine.rotTooWide
  rw [h.rotOf]

/-! ### The checks by opcode -/

theorem ChecksAlike.fetchMatmul : fetchMatmul t = fetchMatmul s := by
  delta Machine.fetchMatmul matReasons
  rw [h.fetchDescs, h.fetchAt, h.checkArrayOperand, h.checkOutput]

theorem ChecksAlike.fetchAccRead : fetchAccRead t = fetchAccRead s := by
  delta Machine.fetchAccRead accReadReasons
  rw [h.fetchDescs, h.checkOutput]

theorem ChecksAlike.fetchReduceX : fetchReduceX t = fetchReduceX s := by
  delta Machine.fetchReduceX reduceReasons
  rw [h.fetchDescs, h.fetchAt, h.granted, h.checkOutput]

theorem ChecksAlike.fetchAttnFwd : fetchAttnFwd t = fetchAttnFwd s := by
  delta Machine.fetchAttnFwd attnFwdReasons
  rw [h.fetchDescs, h.fetchDeckles, h.checkArrayOperand, h.rotTooWide, h.checkPtr, h.granted, h.checkOutput, h.rotOf,
    h.floorCheck]

theorem ChecksAlike.fetchAttnBwd : fetchAttnBwd t = fetchAttnBwd s := by
  delta Machine.fetchAttnBwd attnBwdReasons
  rw [h.fetchDescs, h.fetchDeckles, h.checkArrayOperand, h.rotTooWide, h.checkPtr, h.checkOutput, h.rotOf, h.floorCheck]

theorem ChecksAlike.fetchAttnDecode : fetchAttnDecode t = fetchAttnDecode s := by
  delta Machine.fetchAttnDecode decodeReasons
  rw [h.fetchDescs, h.fetchList, h.checkArrayOperand, h.rotTooWide, h.readSeq, h.keyOf, h.checkOutput, h.checkPtr,
    h.fetchDecodeDeckles]

theorem ChecksAlike.fetchCouch : fetchCouch t = fetchCouch s := by
  delta Machine.fetchCouch couchReasons
  rw [h.fetchDescs, h.spansGranted, h.fetchList, h.readSeq, h.keyOf]

theorem ChecksAlike.fetchConv : fetchConv t = fetchConv s := by
  delta Machine.fetchConv convReasons
  rw [h.fetchDescs, h.fetchAt, h.checkArrayOperand, h.checkOutput]

theorem ChecksAlike.fetchVec : fetchVec t = fetchVec s := by
  delta Machine.fetchVec vecReasons checkVecTensor
  rw [h.fetchDescs, h.inScratch, h.fetchAt, h.granted]

theorem ChecksAlike.fetchUpdate : fetchUpdate t = fetchUpdate s := by
  delta Machine.fetchUpdate
  rw [h.jobOf, h.fetchDescs, h.fetchAt, h.fetchEntry, h.granted, h.spansGranted]

theorem ChecksAlike.fetchMover : fetchMover t = fetchMover s := by
  delta Machine.fetchMover moverReasons releaseReasons releaseDst releaseWindows
  rw [h.checkPtr, h.fetchDescs, h.sealWindows, h.spansGranted, h.inHubGrant]

/-- A record is checked alike on both states. -/
theorem ChecksAlike.checkRecord : checkRecord t = checkRecord s := by
  delta Machine.checkRecord
  rw [h.fetchMatmul, h.fetchAccRead, h.fetchReduceX, h.fetchAttnFwd, h.fetchAttnBwd, h.fetchAttnDecode, h.fetchCouch, h.fetchConv,
    h.fetchVec, h.fetchUpdate, h.fetchMover]

end

end Sys2Proof.Machine

/-! Records fetched and dispatched, where no unit of memory has an error (R180, R181, R194, R196, R267). -/

namespace Sys2Proof.Machine

/-! ### Reads that meet no error -/

/-- From `s` to `t` nothing has changed but counters of the SLAB pages, which count what is read (R543). -/
structure SlabsCount (s t : State) : Prop where
  rest  : Changes [.pages] s t
  regs  : ∀ pn off, t.reg pn off = s.reg pn off
  pages : ∀ pn, (∀ d, pn ≠ pnSlab d) → t.page pn = s.page pn

theorem SlabsCount.refl (s : State) : SlabsCount s s := ⟨changes_of (within_refl _ s), fun _ _ => rfl, fun _ _ => rfl⟩

theorem slabsCount_slabTraffic (s : State) (a n : Nat) (write vertical : Bool) :
    SlabsCount s (slabTraffic s a n write vertical) where
  rest := changes_slabTraffic s a n write vertical
  regs := (coreWorks_slabTraffic (g := 0) s a n write vertical).regs
  pages pn h := by
    unfold slabTraffic
    split
    · extract_lets slab
      rw [State.page_count_ne _ _ _ _ _ (h _), State.page_count_ne _ _ _ _ _ (h _)]
    · rfl

section
variable {s t u : State} (h : SlabsCount s t)
include h

theorem SlabsCount.trans (k : SlabsCount t u) : SlabsCount s u where
  rest := h.rest.trans k.rest
  regs pn off := (k.regs pn off).trans (h.regs pn off)
  pages pn hp := (k.pages pn hp).trans (h.pages pn hp)

theorem SlabsCount.core (g : Nat) : t.core g = s.core g := congrArg (mget Core.init · g) (h.rest .cores (by decide))

theorem SlabsCount.noErrors (hn : NoErrors s) : NoErrors t :=
  hn.of_eq (h.rest .bad (by decide)) (h.rest .softBad (by decide)) (h.rest .hbmErr (by decide)) (h.rest .dies (by decide))

theorem SlabsCount.counter {pn : Nat} (hp : ∀ d, pn ≠ pnSlab d) (k : Nat) : t.counter pn k = s.counter pn k := by
  rw [State.counter, h.pages pn hp]
  rfl

theorem SlabsCount.readsAlike : ReadsAlike s t :=
  ⟨h.regs, h.rest .mem (by decide), h.rest .burstKey (by decide), h.rest .hbmStale (by decide), h.rest .parts (by decide)⟩

/-- A ring that changes alike on both. -/
theorem SlabsCount.modRing (g x : Nat) (f : Ring → Ring) : SlabsCount (s.modRing g x f) (t.modRing g x f) where
  rest p hp := by
    have hcores : t.cores = s.cores := h.rest .cores (by decide)
    cases p
    case cores => simp only [Piece.same, State.modRing, State.modCore, State.setCore, h.core, hcores]
    all_goals exact h.rest _ hp
  regs := h.regs
  pages := h.pages

end

theorem NoErrors.badUnit {s : State} (hn : NoErrors s) (a n : Nat) : badUnit s a n = none := by
  rw [Machine.badUnit, if_pos (hn.cleanTier _)]

theorem NoErrors.modRing {s : State} (hn : NoErrors s) (g x : Nat) (f : Ring → Ring) : NoErrors (s.modRing g x f) := hn

/-- Reads that meet no error are counted, and change nothing else. -/
theorem slabsCount_readSpans {s : State} (hn : NoErrors s) (vertical : Bool) (spans : List (Nat × Nat)) :
    SlabsCount s (readSpans s vertical spans) := by
  unfold readSpans
  induction spans generalizing s with
  | nil => exact .refl s
  | cons e r ih =>
    rw [List.foldl_cons, correctSpan_none (hn.cleanTier _)]
    have hread := slabsCount_slabTraffic s e.1 e.2 false vertical
    exact hread.trans (ih (hread.noErrors hn))

theorem SlabsCount.checksAlike {s t : State} (h : SlabsCount s t) (hn : NoErrors s) : ChecksAlike s t where
  toReadsAlike := h.readsAlike
  cores := h.rest .cores (by decide)
  badUnit := by
    funext a n
    rw [(h.noErrors hn).badUnit, hn.badUnit]

theorem NoErrors.cleanTier_eq {s t : State} (ht : NoErrors t) (hs : NoErrors s) : Machine.cleanTier t = Machine.cleanTier s := by
  funext k
  rw [ht.cleanTier, hs.cleanTier]

theorem pnSeq_ne_pnSlab (g d : Nat) : pnSeq g ≠ pnSlab d := by unfold pnSeq pnCore pnSlab pnDie; omega

/-! ### The record that is fetched -/

/-- The next record of a ring, as it is fetched. -/
def nextRecord (s : State) (g x : Nat) : CmdRec :=
  let r := (s.core g).ring x
  let i := r.fetched.toNat
  resolveDeps r { ctx := x, idx := i, words := viewWords s (recordKey s g x i) 16, latched := mget [] r.latched i }

/-- A record but for its dependences. -/
def CmdRec.bare (c : CmdRec) : CmdRec := { c with deps := [], depFailed := false }

/-- Dependences are all that resolving them changes of a record. -/
theorem resolveDeps_bare (r : Ring) (c : CmdRec) : (resolveDeps r c).bare = c.bare := by
  unfold resolveDeps
  generalize [c.dep0, c.dep1] = l
  induction l generalizing c with
  | nil => rfl
  | cons t l ih =>
    rw [List.foldl_cons, ih]
    split
    · rfl
    · split <;> rfl

section
variable (s : State) (g x : Nat)

theorem nextRecord_ctx : (nextRecord s g x).ctx = x := congrArg CmdRec.ctx (resolveDeps_bare _ _)

theorem nextRecord_idx : (nextRecord s g x).idx = ((s.core g).ring x).fetched.toNat :=
  congrArg CmdRec.idx (resolveDeps_bare _ _)

theorem nextRecord_recompute : (nextRecord s g x).recompute = none := congrArg CmdRec.recompute (resolveDeps_bare _ _)

end

theorem mayDispatch_hold {s : State} {g x : Nat} (h : mayDispatch s g x = true) : ((s.core g).ring x).hold = none := by
  unfold mayDispatch at h
  rw [Bool.and_eq_true] at h
  exact Option.isNone_iff_eq_none.1 h.2

/-- The state on which the next record of a ring is checked: its words read, itself counted as fetched. -/
def enrolled (s : State) (g x : Nat) : State :=
  (readSpans s false [(recordKey s g x ((s.core g).ring x).fetched.toNat, 64)]).modRing g x (enroll (nextRecord s g x))

/-- Where dispatch from the ring goes on and the record's queue has room, it is checked and dispatched. -/
theorem execRecordFetch_next {s : State} {g x : Nat} (hr : recomputeNext s g x = none) (hm : mayDispatch s g x = true)
    (hw : ringWaits s g x = true) (hp : ringPlaced s g x = true) (hn : NoErrors s)
    (hq : queueRoom s g (nextRecord s g x) = true) :
    execRecordFetch g x s = .next (dispatchChecked (enrolled s g x) g (nextRecord s g x)) := by
  have hgo : (queueRoom s g (nextRecord s g x) &&
      ((nextRecord s g x).queue?.isSome || ((s.core g).ring x).hold.isNone)) = true := by
    rw [hq, mayDispatch_hold hm, Option.isNone_none, Bool.or_true, Bool.and_true]
  have hfetch : fetchRecord s g x ((s.core g).ring x).fetched.toNat (recordKey s g x ((s.core g).ring x).fetched.toNat) none id =
      if (queueRoom s g (nextRecord s g x) && ((nextRecord s g x).queue?.isSome || ((s.core g).ring x).hold.isNone)) = true then
        dispatchChecked (enrolled s g x) g (nextRecord s g x)
      else s := by
    rw [fetchRecord, hn.badUnit]
    rfl
  rw [execRecordFetch, hr]
  simp only [hm, hw, hp, Bool.and_self, if_true]
  rw [hfetch, if_pos hgo]

/-! ### A checked record -/

/-- From `s` to `t`, record `c` of core `g` counts as dispatched, and nothing else has changed but the counters of the SLAB pages
and the jobs. -/
structure Enrolled (s t : State) (g : Nat) (c : CmdRec) : Prop where
  rest   : Changes [.pages, .cores, .parts] s t
  pages  : ∀ pn, (∀ d, pn ≠ pnSlab d) → t.page pn = s.page pn
  core   : t.core g = (s.core g).setRing c.ctx (enroll c ((s.core g).ring c.ctx))
  others : ∀ k, k ≠ g → t.core k = s.core k

theorem enrolled_modRing (s : State) (g : Nat) (c : CmdRec) : Enrolled s (s.modRing g c.ctx (enroll c)) g c where
  rest := changes_of (within_State_modRing at1 _ _ _ _ (within_refl _ s))
  pages _ _ := rfl
  core := State.core_modCore _ _ _
  others _ hk := State.core_modCore_ne _ _ _ _ hk

section
variable {s t u : State} {g : Nat} {c : CmdRec} (h : Enrolled s t g c)
include h

theorem Enrolled.slabs (k : SlabsCount t u) : Enrolled s u g c where
  rest := h.rest.trans (fun p hp => k.rest p fun hm => hp (List.mem_singleton.1 hm ▸ at0))
  pages pn hp := (k.pages pn hp).trans (h.pages pn hp)
  core := (k.core g).trans h.core
  others j hj := (k.core j).trans (h.others j hj)

theorem Enrolled.noteBanks (w : Who) (r : CmdRec) : Enrolled s (noteBanks t w r) g c where
  rest := h.rest.trans (changes_of (within_noteBanks at2 _ _ _ (within_refl _ t)))
  pages := h.pages
  core := h.core
  others := h.others

theorem Enrolled.ring : (t.core g).ring c.ctx = enroll c ((s.core g).ring c.ctx) := by
  rw [h.core, Core.ring_setRing]

theorem Enrolled.gather : (t.core g).gather = (s.core g).gather := by rw [h.core]; rfl

theorem Enrolled.queue (q : QueueId) : (t.core g).queue q = (s.core g).queue q := by
  rw [h.core]
  cases q <;> rfl

end

end Sys2Proof.Machine

/-! Records whose check passes: where they go (R180, R181, R196). -/

namespace Sys2Proof.Machine

/-! ### Dispatch where no gather group is open -/

/-- A record that acts at dispatch acts in its ring, or holds it from bell count `now` on. -/
def Ring.take (c : CmdRec) (now : Long) (r : Ring) : Ring :=
  if c.opcode = opNop ∨ c.opcode = opSignal then { r with acting := r.acting ++ [c] }
  else { r with hold := some c, waited := 0, holdAt := now, boundaryAt := none, released := false }

section
variable {s : State} {g : Nat} {c : CmdRec} (hg : (s.core g).gather = none)
include hg

theorem arrivalCloses_none : (if arrivalCloses s g c then closeGather s g else s) = s := by
  rw [closeGather_eq_self s hg, ite_self]

theorem dispatchTo_queue {q : QueueId} (hq : c.queue? = some q) :
    dispatchTo s g c = s.modCore g fun k => k.setQueue q (k.queue q ++ [c]) := by
  simp only [dispatchTo, arrivalCloses_none hg, hq]

theorem dispatchTo_ring (hq : c.queue? = none) :
    dispatchTo s g c = (s.modRing g c.ctx (Ring.take c s.bell.count)).count (pnSeq g) 3 1 := by
  simp only [dispatchTo, arrivalCloses_none hg, hq]
  rfl

end

/-- Taking a record, a ring keeps its counts and the records outstanding. -/
theorem Ring.take_counts (c : CmdRec) (now : Long) (r : Ring) :
    (r.take c now).fetched = r.fetched ∧ (r.take c now).outstanding = r.outstanding := by
  unfold Ring.take
  split <;> exact ⟨rfl, rfl⟩

theorem Ring.take_acting {c : CmdRec} (now : Long) (r : Ring) (h : c.opcode = opNop ∨ c.opcode = opSignal) :
    (r.take c now).acting = r.acting ++ [c] := by
  rw [Ring.take, if_pos h]

theorem Ring.take_hold {c : CmdRec} (now : Long) (r : Ring) (hn : c.opcode ≠ opNop) (hs : c.opcode ≠ opSignal) :
    (r.take c now).hold = some c := by
  rw [Ring.take, if_neg fun h => h.elim hn hs]

/-! ### What is left -/

/-- From `s` to `t`, record `c` of core `g` has been dispatched: it is counted as fetched in its ring and is outstanding, and no
other core has changed. -/
structure Dispatched (s t : State) (g : Nat) (c : CmdRec) : Prop where
  rest        : Changes [.pages, .cores, .parts] s t
  others      : ∀ k, k ≠ g → t.core k = s.core k
  fetched     : ((t.core g).ring c.ctx).fetched = ((s.core g).ring c.ctx).fetched + 1
  outstanding : ((t.core g).ring c.ctx).outstanding = ((s.core g).ring c.ctx).outstanding ++ [c.idx]

theorem enroll_counts {c : CmdRec} (h : c.recompute = none) (r : Ring) :
    (enroll c r).fetched = r.fetched + 1 ∧ (enroll c r).outstanding = r.outstanding ++ [c.idx] := by
  simp only [enroll, h, Option.isNone_none, if_true, and_self]

section
variable {s t : State} {g : Nat} {c : CmdRec} (h : Enrolled s t g c)
include h

theorem Enrolled.taken_ring (d : CmdRec) (now : Long) :
    (((t.modRing g c.ctx (Ring.take d now)).count (pnSeq g) 3 1).core g).ring c.ctx =
      (enroll c ((s.core g).ring c.ctx)).take d now := by
  rw [State.count_core, State.ring_modRing, h.ring]

variable (hr : c.recompute = none)
include hr

/-- The record at the end of a queue. -/
theorem Enrolled.dispatched_queue (q : QueueId) (l : List CmdRec) :
    Dispatched s (t.modCore g fun k => k.setQueue q (k.queue q ++ l)) g c := by
  have hring : ((t.modCore g fun k => k.setQueue q (k.queue q ++ l)).core g).ring c.ctx = enroll c ((s.core g).ring c.ctx) := by
    rw [State.core_modCore, ← h.ring]
    cases q <;> rfl
  obtain ⟨hf, ho⟩ := enroll_counts hr ((s.core g).ring c.ctx)
  exact ⟨h.rest.trans (changes_of (within_State_modCore at1 _ _ _ (within_refl _ t))),
    fun k hk => (State.core_modCore_ne _ _ _ _ hk).trans (h.others k hk), by rw [hring, hf], by rw [hring, ho]⟩

/-- The record in its ring. -/
theorem Enrolled.dispatched_ring (d : CmdRec) (now : Long) :
    Dispatched s ((t.modRing g c.ctx (Ring.take d now)).count (pnSeq g) 3 1) g c := by
  have hring := h.taken_ring d now
  obtain ⟨hf, ho⟩ := enroll_counts hr ((s.core g).ring c.ctx)
  obtain ⟨htf, hto⟩ := (enroll c ((s.core g).ring c.ctx)).take_counts d now
  exact ⟨h.rest.trans (changes_of (within_State_count at0 _ _ _ _ (within_State_modRing at1 _ _ _ _ (within_refl _ t)))),
    fun k hk => by rw [State.count_core, State.modRing, State.core_modCore_ne _ _ _ _ hk, h.others k hk],
    by rw [hring, htf, hf], by rw [hring, hto, ho]⟩

end

/-! ### The check passed -/

theorem slabsCount_readFor {s : State} (hn : NoErrors s) (w : Who) (ds : List (Nat × List Word)) (c : CmdRec) :
    SlabsCount s (readFor s w ds c) := slabsCount_readSpans hn false _

/-- Who a record is checked for, with what its doorbell has latched (R184). -/
def checkWho (s : State) (g : Nat) (c : CmdRec) : Who := { whoOf s g c.ctx with latched := c.latched }

/-- The state from which a checked record is dispatched. -/
def checkedState (s : State) (w : Who) (ds : List (Nat × List Word)) (c : CmdRec) : State :=
  if c.opcode = opUpdateP1 ∨ c.opcode = opUpdateP2 then noteBanks (readFor s w ds c) w (c.withDescs ds) else readFor s w ds c

theorem dispatchChecked_ok {s : State} {g : Nat} {c : CmdRec} {ds : List (Nat × List Word)}
    (h : checkRecord s (checkWho s g c) c = .ok ds) :
    dispatchChecked s g c = dispatchTo (checkedState s (checkWho s g c) ds c) g (c.withDescs ds) := by
  unfold checkWho at h
  simp only [dispatchChecked, h]
  rfl

theorem Enrolled.checkedState {s t : State} {g : Nat} {c : CmdRec} (h : Enrolled s t g c) (hn : NoErrors t) (w : Who)
    (ds : List (Nat × List Word)) : Enrolled s (checkedState t w ds c) g c := by
  have hread := h.slabs (slabsCount_readFor hn w ds c)
  unfold Machine.checkedState
  split
  · exact hread.noteBanks w (c.withDescs ds)
  · exact hread

/-- A record that goes to no queue names no banks. -/
theorem checkedState_of_queue_none {s : State} {c : CmdRec} (hq : c.queue? = none) (w : Who) (ds : List (Nat × List Word)) :
    checkedState s w ds c = readFor s w ds c := by
  refine if_neg fun hop => ?_
  unfold CmdRec.queue? at hq
  rcases hop with hop | hop <;> rw [hop] at hq <;> exact absurd hq (by decide)

section
variable {s t : State} {g : Nat} {c : CmdRec} {ds : List (Nat × List Word)} (h : Enrolled s t g c) (hn : NoErrors t)
  (hg : (s.core g).gather = none) (hr : c.recompute = none) (hok : checkRecord t (checkWho t g c) c = .ok ds)
include h hn hg hr hok

/-- A checked record of a queue joins its end. -/
theorem Enrolled.dispatchChecked_queue {q : QueueId} (hq : c.queue? = some q) :
    Dispatched s (dispatchChecked t g c) g c ∧
      (∀ pn, (∀ d, pn ≠ pnSlab d) → (dispatchChecked t g c).page pn = s.page pn) ∧
      ((dispatchChecked t g c).core g).queue q = (s.core g).queue q ++ [c.withDescs ds] := by
  have hat := h.checkedState hn (checkWho t g c) ds
  rw [dispatchChecked_ok hok, dispatchTo_queue (c := c.withDescs ds) (hat.gather.trans hg) hq]
  refine ⟨hat.dispatched_queue hr q [c.withDescs ds], hat.pages, ?_⟩
  rw [State.core_modCore, ← hat.queue q]
  cases q <;> rfl

/-- A checked record of no queue is taken by its ring, and counted (R545). -/
theorem Enrolled.dispatchChecked_ring (hq : c.queue? = none) :
    Dispatched s (dispatchChecked t g c) g c ∧ (dispatchChecked t g c).parts = t.parts ∧
      (dispatchChecked t g c).counter (pnSeq g) 3 = s.counter (pnSeq g) 3 + 1 ∧
      ∃ now, ((dispatchChecked t g c).core g).ring c.ctx = (enroll c ((s.core g).ring c.ctx)).take (c.withDescs ds) now := by
  have hat := h.checkedState hn (checkWho t g c) ds
  have hparts := (slabsCount_readFor hn (checkWho t g c) ds c).rest .parts (by decide)
  rw [dispatchChecked_ok hok, dispatchTo_ring (c := c.withDescs ds) (hat.gather.trans hg) hq]
  rw [checkedState_of_queue_none hq] at hat ⊢
  refine ⟨hat.dispatched_ring hr (c.withDescs ds) _, hparts, ?_, _, hat.taken_ring (c.withDescs ds) _⟩
  rw [State.counter_count_same, State.modRing_counter, State.counter, hat.pages _ (pnSeq_ne_pnSlab g)]
  rfl

end

end Sys2Proof.Machine

/-! Records that their check refuses, and what a decode group takes notice of (R181, R194, R267). -/

namespace Sys2Proof.Machine

/-! ### The record that is refused -/

/-- The trap of a record refused at dispatch (R194, R207). -/
def refuseTrap (s : State) (g : Nat) (c : CmdRec) (reason ptr : Nat) : State :=
  raiseTrap s (pnDieCtlOf g)
    { code := trapDescriptor, level := 1, part := partOfCore s g, ctx := some c.ctx, cmdId := c.cmdId,
      detail := fields [(0, reason), (8, ptr)] }

section
variable (s : State) (g : Nat) (c : CmdRec) (reason ptr : Nat)

theorem refuseCmd_dispatch : refuseCmd s g none c reason ptr =
    completeCmd (refuseTrap s g c reason ptr) g none c { status := stDescriptor, detail := reason } := rfl

theorem refuseTrap_core (k : Nat) : (refuseTrap s g c reason ptr).core k = s.core k := raiseTrap_core s _ _ k

/-- The trap waits for the crier, for the ring of the core's partition. -/
theorem refuseCmd_queued : ∃ tr : Trap, (refuseCmd s g none c reason ptr).crier.pending = s.crier.pending ++ [tr] ∧
    tr.rings = [(partOfCore s g).getD 4] := by
  rw [refuseCmd_dispatch, completeCmd_traps]
  exact raiseTrap_queued s _ _

theorem refuseCmd_fetched :
    (((refuseCmd s g none c reason ptr).core g).ring c.ctx).fetched = ((s.core g).ring c.ctx).fetched := by
  rw [refuseCmd_dispatch, completeCmd_fetched, refuseTrap_core]

theorem refuseCmd_outstanding : (((refuseCmd s g none c reason ptr).core g).ring c.ctx).outstanding =
    ((s.core g).ring c.ctx).outstanding.erase c.idx := by
  rw [refuseCmd_dispatch, completeCmd_outstanding, refuseTrap_core]

end

theorem pnCnt_ne_pnSlab (g d : Nat) : pnCnt g ≠ pnSlab d := (pnSlab_ne_pnCnt d g).symm

theorem ReadsAlike.trans {s t u : State} (h : ReadsAlike s t) (k : ReadsAlike t u) : ReadsAlike s u :=
  ⟨fun pn off => (k.regs pn off).trans (h.regs pn off), k.mem.trans h.mem, k.burstKey.trans h.burstKey,
    k.hbmStale.trans h.hbmStale, k.parts.trans h.parts⟩

theorem readsAlike_raiseTrap (s : State) (pn : Nat) (v : TrapInfo) : ReadsAlike s (raiseTrap s pn v) :=
  ⟨raiseTrap_reg s pn v, raiseTrap_mem s pn v, raiseTrap_burstKey s pn v, raiseTrap_hbmStale s pn v, raiseTrap_parts s pn v⟩

/-- A refused record completes; what has been read for it is no matter. -/
theorem completes_refuseCmd {s u : State} (h : SlabsCount s u) (hn : NoErrors s) (g : Nat) (c : CmdRec) (reason ptr : Nat) :
    Completes s (refuseCmd u g none c reason ptr) g c { status := stDescriptor, detail := reason } := by
  have halike : ReadsAlike s (refuseTrap u g c reason ptr) := h.readsAlike.trans (readsAlike_raiseTrap u _ _)
  have hcount (k : Nat) : (refuseTrap u g c reason ptr).counter (pnCnt g) k = s.counter (pnCnt g) k :=
    (raiseTrap_counter u _ _ _ k (by simp)).trans (h.counter (pnCnt_ne_pnSlab g) k)
  have hbell : (refuseTrap u g c reason ptr).bell = s.bell := (raiseTrap_bell u _ _).trans (h.rest .bell (by decide))
  have hclean : NoErrors (refuseTrap u g c reason ptr) := (coreWorks_raiseTrap (g := g) u _ _).clean (h.noErrors hn)
  rw [refuseCmd_dispatch]
  refine (completes_completeCmd _ g none c _).of_eq halike.mem halike.regs hcount hbell ?_ fun hp => ?_
  · rw [refuseTrap_core, h.core]
  · rwa [halike.entryPlaced (hclean.cleanTier_eq hn)]

/-! ### What a decode group keeps -/

/-- From `s` to `t` no register word and no command ring has changed, and memory without errors is still without. -/
structure RingsStay (s t : State) : Prop where
  regs  : ∀ pn off, t.reg pn off = s.reg pn off
  clean : NoErrors s → NoErrors t
  ring  : ∀ k x, (t.core k).ring x = (s.core k).ring x

theorem RingsStay.refl {s : State} : RingsStay s s := ⟨fun _ _ => rfl, id, fun _ _ => rfl⟩

theorem RingsStay.trans {s t u : State} (h : RingsStay s t) (k : RingsStay t u) : RingsStay s u :=
  ⟨fun pn off => (k.regs pn off).trans (h.regs pn off), fun hn => k.clean (h.clean hn),
    fun j x => (k.ring j x).trans (h.ring j x)⟩

theorem CoreWorks.ringsStay {s t : State} {g : Nat} (h : CoreWorks g s t) : RingsStay s t where
  regs := h.regs
  clean := h.clean
  ring k x := by
    by_cases hk : k = g
    · subst hk; rw [h.own]; rfl
    · rw [h.others k hk]

theorem ringsStay_modCore (s : State) (g : Nat) (f : Core → Core) (hf : ∀ c, (f c).rings = c.rings) :
    RingsStay s (s.modCore g f) where
  regs _ _ := rfl
  clean h := h
  ring k x := by
    by_cases hk : k = g
    · subst hk; rw [State.core_modCore, Core.ring, hf]; rfl
    · rw [State.core_modCore_ne _ _ _ _ hk]

/-- A command that commits leaves its queue and joins those in flight. -/
theorem ringsStay_commitRun {run : Run} (hn : NoErrors run.s) (g : Nat) (q : QueueId) (c : CmdRec) (w : Who)
    (end_ reserved : Nat) : RingsStay run.s (commitRun g q c w run end_ reserved) := by
  unfold commitRun
  extract_lets st s1 s2 sent status s3 s4
  obtain ⟨hst, hnone⟩ : StoresAll g run.s st := storesAll_memStoresBy hn _ _ _
  have h1 : RingsStay run.s s1 :=
    (hst.count _ _ _).ringsStay.trans (ringsStay_modCore _ _ _ fun c => by cases q <;> rfl)
  have hs2 : s2 = s1 := by simp only [s2, hnone]
  have hsent : CoreWorks g s1 sent.1 := hs2 ▸ coreWorks_sendWrites s2 _ _ _
  have h3 : CoreWorks g s1 s3 := hsent.trans (.ite (coreWorks_lostTrap _ _ _ _) .refl)
  have h4 : CoreWorks g s1 s4 := h3.trans (.ite .refl (coreWorks_countOpen _ _ _))
  exact (h1.trans h4.ringsStay).trans (ringsStay_modCore _ _ _ fun _ => rfl)

/-- The members that wait for a lead commit, each on its core. -/
theorem ringsStay_releaseMembers {s : State} (hn : NoErrors s) (ws : List Word) (ps : List DecodePartial) (lead status : Nat) :
    RingsStay s (releaseMembers s ws ps lead status) := by
  unfold releaseMembers
  generalize ((listMembers ws).filter fun c => c != lead) = l
  induction l generalizing s with
  | nil => exact .refl
  | cons m l ih =>
    rw [List.foldl_cons]
    have hstep (t : State) (ht : RingsStay s t) := ht.trans (ih (ht.clean hn))
    refine hstep _ ?_
    split
    · exact .refl
    · split
      · extract_lets d keys
        have hfreed : RingsStay s (s.modCore m fun k => { k with side := (k.side.freeAll keys).settle }) :=
          ringsStay_modCore s m _ fun _ => rfl
        refine hfreed.trans ?_
        exact ringsStay_commitRun (run := { s := _, status := status, summary := sentSeen ps ws m }) (hfreed.clean hn) _ _ _ _ _ _
      · exact .refl

theorem ringsStay_decodeFailed {s : State} (hn : NoErrors s) (g : Nat) (ws : List Word) : RingsStay s (decodeFailed s g ws) := by
  unfold decodeFailed
  split
  · exact .refl
  · unfold dropGroup
    extract_lets ps
    have hdropped : RingsStay s (s.modCore g fun c => { c with partials := c.partials.filter fun p => p.listKey != ws }) :=
      ringsStay_modCore s g _ fun _ => rfl
    exact hdropped.trans (ringsStay_releaseMembers (hdropped.clean hn) _ _ _ _)
  · exact ringsStay_modCore s _ _ fun _ => rfl

theorem ringsStay_decodeChecked {s : State} (hn : NoErrors s) (g : Nat) (c : CmdRec) : RingsStay s (decodeChecked s g c) := by
  unfold decodeChecked
  extract_lets w
  split
  · exact .refl
  · split
    · extract_lets n
      split
      · exact ringsStay_decodeFailed hn g _
      · exact .refl
    · exact .refl

theorem decodeChecked_of_ne {s : State} {g : Nat} {c : CmdRec} (h : c.opcode ≠ opAttnDecode) : decodeChecked s g c = s :=
  if_pos h

theorem dispatchChecked_refuse {s : State} {g : Nat} {c : CmdRec} {reason ptr : Nat}
    (h : checkRecord s (checkWho s g c) c = .refuse reason ptr) :
    dispatchChecked s g c = refuseCmd (decodeChecked s g c) g none c reason ptr := by
  unfold checkWho at h
  simp only [dispatchChecked, h]

section
variable {s t : State} {g : Nat} {c : CmdRec} {reason ptr : Nat} (h : SlabsCount s t) (hn : NoErrors s)
  (hc : checkRecord t (checkWho t g c) c = .refuse reason ptr)
include h hn hc

/-- A record refused leaves its ring, which counts on, and raises its trap. -/
theorem SlabsCount.dispatchChecked_refuse :
    (((dispatchChecked t g c).core g).ring c.ctx).fetched = ((s.core g).ring c.ctx).fetched ∧
    (((dispatchChecked t g c).core g).ring c.ctx).outstanding = ((s.core g).ring c.ctx).outstanding.erase c.idx ∧
    ∃ tr ∈ (dispatchChecked t g c).crier.pending, tr.rings = [(partOfCore s g).getD 4] := by
  have hstay := ringsStay_decodeChecked (h.noErrors hn) g c
  obtain ⟨tr, htr, hrings⟩ := refuseCmd_queued (decodeChecked t g c) g c reason ptr
  rw [Machine.dispatchChecked_refuse hc, refuseCmd_fetched, refuseCmd_outstanding, hstay.ring, h.core]
  refine ⟨rfl, rfl, tr, ?_, ?_⟩
  · rw [htr]
    exact List.mem_append_right _ List.mem_cons_self
  · rw [hrings, partOfCore_congr hstay.regs, partOfCore_congr h.regs]

/-- One that is no decode member completes besides, and its trap is the only one. -/
theorem SlabsCount.dispatchChecked_refuse_alone (hop : c.opcode ≠ opAttnDecode) :
    Completes s (dispatchChecked t g c) g c { status := stDescriptor, detail := reason } ∧
    ∃ tr, (dispatchChecked t g c).crier.pending = s.crier.pending ++ [tr] ∧ tr.rings = [(partOfCore s g).getD 4] := by
  obtain ⟨tr, htr, hrings⟩ := refuseCmd_queued t g c reason ptr
  rw [Machine.dispatchChecked_refuse hc, decodeChecked_of_ne hop]
  refine ⟨completes_refuseCmd h hn g c reason ptr, tr, ?_, ?_⟩
  · rw [htr, h.rest .crier (by decide)]
  · rw [hrings, partOfCore_congr h.regs]

end

end Sys2Proof.Machine

/-! The next record of a ring: how the obligation on its dispatch stands. -/

namespace Sys2Proof.Machine

section
variable {s : State} {g x : Nat} (hn : NoErrors s)
include hn

theorem slabsCount_enrolled : SlabsCount (s.modRing g x (enroll (nextRecord s g x))) (enrolled s g x) :=
  (slabsCount_readSpans hn false _).modRing g x _

theorem enrolled_enrolled : Enrolled s (enrolled s g x) g (nextRecord s g x) := by
  have h := enrolled_modRing s g (nextRecord s g x)
  rw [nextRecord_ctx] at h
  exact h.slabs (slabsCount_enrolled hn)

/-- The record is checked as it would be before it has been read. -/
theorem checkRecord_enrolled :
    checkRecord (enrolled s g x) (checkWho (enrolled s g x) g (nextRecord s g x)) (nextRecord s g x) =
      let u := s.modRing g x (enroll (nextRecord s g x))
      checkRecord u { whoOf u g x with latched := (nextRecord s g x).latched } (nextRecord s g x) := by
  have halike := (slabsCount_enrolled (g := g) (x := x) hn).checksAlike (hn.modRing g x _)
  rw [halike.checkRecord, checkWho, halike.whoOf, nextRecord_ctx]

end

/-- Settles O16: the fetch comes down to the check; a checked record joins its queue or its ring, a refused one completes. -/
theorem recordDispatched : Obligations.RecordDispatched := by
  unfold Obligations.RecordDispatched
  intro s core ctx hr hm hw hp hgather hn ring i c s1 w left hroom
  have hctx : c.ctx = ctx := nextRecord_ctx s core ctx
  have hidx : c.idx = i := nextRecord_idx s core ctx
  have hown : c.recompute = none := nextRecord_recompute s core ctx
  obtain ⟨hfetched, houtstanding⟩ := enroll_counts hown ring
  have hrun : exec (.recordFetch core ctx) s = .next (dispatchChecked (enrolled s core ctx) core c) :=
    execRecordFetch_next hr hm hw hp hn hroom
  have hcheck : checkRecord (enrolled s core ctx) (checkWho (enrolled s core ctx) core c) c = checkRecord s1 w c :=
    checkRecord_enrolled hn
  have hslabs : SlabsCount s1 (enrolled s core ctx) := slabsCount_enrolled hn
  have hat : Enrolled s (enrolled s core ctx) core c := enrolled_enrolled hn
  have hclean : NoErrors s1 := hn.modRing core ctx _
  have hleft {t : State} (h : Dispatched s t core c) : left t := by
    obtain ⟨hrest, hothers, hf, ho⟩ := h
    rw [hctx] at hf ho
    exact ⟨hrest, hothers, hf, ho.trans (by rw [hidx])⟩
  refine ⟨fun ds hok => ⟨fun q hq => ?queue, fun hq => ?ring⟩, fun reason ptr hrefused => ?refused⟩
  case queue =>
    obtain ⟨hdone, hpages, hqueue⟩ :=
      hat.dispatchChecked_queue (hslabs.noErrors hclean) hgather hown (hcheck.trans hok) hq
    exact ⟨_, hrun, hleft hdone, hpages, hqueue⟩
  case ring =>
    obtain ⟨hdone, hparts, hcount, now, htaken⟩ :=
      hat.dispatchChecked_ring (hslabs.noErrors hclean) hgather hown (hcheck.trans hok) hq
    rw [hctx] at htaken
    refine ⟨_, hrun, hleft hdone, hparts.trans (hslabs.rest .parts (by decide)), hcount, fun hop => ?_, fun hnop hsig => ?_⟩
    · rw [htaken, Ring.take_acting (c := c.withDescs ds) _ _ hop]
      rfl
    · rw [htaken, Ring.take_hold (c := c.withDescs ds) _ _ hnop hsig]
  case refused =>
    obtain ⟨hf, ho, htrap⟩ := hslabs.dispatchChecked_refuse hclean (hcheck.trans hrefused)
    rw [hctx, State.ring_modRing] at hf ho
    exact ⟨_, hrun, hf.trans hfetched, hslabs.dispatchChecked_refuse_alone hclean (hcheck.trans hrefused),
      fun _ => ⟨ho.trans (by rw [houtstanding, hidx]), htrap⟩⟩

end Sys2Proof.Machine

/-! The step boundary: what the toll is decided by and what the decision shows, and the operations that leave it (R333, R334,
R360). -/

namespace Sys2Proof.Machine

/-! ### The view of the toll -/

/-- What the step boundary decides by and what it shows: the bank map's select, the epoch, the result shown, the result held,
whether a toll is under way, what the SCHED page counts, and to what the dies are armed. -/
structure TollView where
  mapSel : Bool
  epoch  : Long
  shown  : BitVec 2
  held   : Option TollResult
  seen   : Bool
  counts : Nat → Long
  armed  : Nat → Option (Long × Nat × Nat)

def State.tollView (s : State) : TollView where
  mapSel := s.sched.mapSel
  epoch  := s.sched.epoch
  shown  := s.sched.tollResult
  held   := s.sched.held
  seen   := s.sched.tollSeen
  counts := s.counter pnSched
  armed d := (s.die d).armed

variable (s : State)

/-- Steps one after another, each of which leaves a view as it was. -/
theorem foldl_view {α β γ : Type} (view : α → γ) {f : α → β → α} (hf : ∀ a b, view (f a b) = view a) (l : List β)
    (a : α) : view (l.foldl f a) = view a :=
  List.foldlRecOn l f (motive := fun b => view b = view a) rfl fun b hb x _ => (hf b x).trans hb

theorem tollView_foldl {β : Type} {f : State → β → State} (hf : ∀ t b, (f t b).tollView = t.tollView) (l : List β) :
    (l.foldl f s).tollView = s.tollView := foldl_view _ hf l s

theorem tollView_ite {c : Prop} [Decidable c] {t u : State} (ht : t.tollView = s.tollView) (hu : u.tollView = s.tollView) :
    (if c then t else u).tollView = s.tollView := by
  split <;> assumption

theorem tollView_elim {α : Type} (o : Option α) {f : α → State} (hf : ∀ x, (f x).tollView = s.tollView) :
    (o.elim s f).tollView = s.tollView := by
  cases o with
  | none => rfl
  | some x => exact hf x

/-! ### Pages other than SCHED -/

@[simp] theorem pnDie_ne_pnSched (d k : Nat) : pnDie d k ≠ pnSched := by unfold pnDie pnSched; omega
@[simp] theorem pnCore_ne_pnSched (g k : Nat) : pnCore g k ≠ pnSched := by unfold pnCore pnSched; omega
@[simp] theorem pnPart_ne_pnSched (p : Nat) : pnPart p ≠ pnSched := by unfold pnPart pnSched; omega
@[simp] theorem halfPage_ne_pnSched (h : Nat) : halfPage h ≠ pnSched := by unfold halfPage pnLink pnSched; omega
@[simp] theorem pnAlm_ne_pnSched (d : Nat) : pnAlm d ≠ pnSched := pnDie_ne_pnSched _ _
@[simp] theorem pnHbmc_ne_pnSched (d k : Nat) : pnHbmc d k ≠ pnSched := pnDie_ne_pnSched _ _
@[simp] theorem pnSlab_ne_pnSched (d : Nat) : pnSlab d ≠ pnSched := pnDie_ne_pnSched _ _
@[simp] theorem pnSeq_ne_pnSched (g : Nat) : pnSeq g ≠ pnSched := pnCore_ne_pnSched _ _
@[simp] theorem pnArray_ne_pnSched (g : Nat) : pnArray g ≠ pnSched := pnCore_ne_pnSched _ _
@[simp] theorem pnAccum_ne_pnSched (g : Nat) : pnAccum g ≠ pnSched := pnCore_ne_pnSched _ _
@[simp] theorem pnFeed_ne_pnSched (g : Nat) : pnFeed g ≠ pnSched := pnCore_ne_pnSched _ _
@[simp] theorem pnLs_ne_pnSched (g : Nat) : pnLs g ≠ pnSched := pnCore_ne_pnSched _ _
@[simp] theorem pnCnt_ne_pnSched (g : Nat) : pnCnt g ≠ pnSched := pnCore_ne_pnSched _ _
@[simp] theorem pnCrier_ne_pnSched : pnCrier ≠ pnSched := by decide

/-! ### The state's operations -/

variable {s} in
/-- A change of pages that leaves what the SCHED page counts. -/
theorem tollView_of_counters {t : State} (hs : t.sched = s.sched) (hd : t.dies = s.dies)
    (hc : ∀ k, t.counter pnSched k = s.counter pnSched k) : t.tollView = s.tollView := by
  have hcounts : t.counter pnSched = s.counter pnSched := funext hc
  unfold State.tollView State.die
  rw [hs, hd, hcounts]

@[simp] theorem tollView_count {pn : Nat} (h : pn ≠ pnSched) (k n : Nat) : (s.count pn k n).tollView = s.tollView :=
  tollView_of_counters rfl rfl fun _ => State.counter_count_page _ _ _ _ _ _ h.symm

@[simp] theorem tollView_countOpen {pn : Nat} (h : pn ≠ pnSched) (k : Nat) : (s.countOpen pn k).tollView = s.tollView :=
  tollView_count (drawFree s).2 h k _

@[simp] theorem tollView_modPage (pn : Nat) {f : Page → Page} (hf : ∀ p, (f p).counters = p.counters) :
    (s.modPage pn f).tollView = s.tollView := by
  refine tollView_of_counters rfl rfl fun k => ?_
  unfold State.counter
  by_cases h : pnSched = pn
  · subst h; rw [State.page_modPage, hf]
  · rw [State.page_modPage_ne _ _ _ _ h]

@[simp] theorem tollView_setReg (pn off : Nat) (w : Word) : (s.setReg pn off w).tollView = s.tollView :=
  tollView_modPage s pn fun _ => rfl

@[simp] theorem tollView_capture (pn r : Nat) : (capture s pn r).tollView = s.tollView := tollView_modPage s pn fun _ => rfl

@[simp] theorem tollView_setEvent (pn b : Nat) : (setEvent s pn b).tollView = s.tollView :=
  tollView_of_counters (setEvent_sched s pn b) (setEvent_dies s pn b) (setEvent_counter s pn b pnSched)

@[simp] theorem tollView_raiseTrap (pn : Nat) (t : TrapInfo) : (raiseTrap s pn t).tollView = s.tollView :=
  tollView_of_counters (raiseTrap_sched s pn t) (raiseTrap_dies s pn t) fun k =>
    raiseTrap_counter s pn t pnSched k fun g _ hg => absurd hg.symm (pnCnt_ne_pnSched g)

@[simp] theorem tollView_modDie (d : Nat) {f : Die → Die} (hf : ∀ v, (f v).armed = v.armed) :
    (s.modDie d f).tollView = s.tollView := by
  have harmed : (fun k => ((s.modDie d f).die k).armed) = fun k => (s.die k).armed := by
    funext k
    by_cases h : k = d
    · subst h; rw [State.die_modDie, hf]
    · rw [State.die_modDie_ne _ _ _ _ h]
  unfold State.tollView
  rw [harmed]
  rfl

@[simp] theorem tollView_modHbmc (d k : Nat) (f : Hbmc → Hbmc) : (s.modHbmc d k f).tollView = s.tollView :=
  tollView_modDie s d fun _ => by unfold Die.setHbmc; split <;> rfl

@[simp] theorem tollView_modCore (g : Nat) (f : Core → Core) : (s.modCore g f).tollView = s.tollView := rfl
@[simp] theorem tollView_setCore (g : Nat) (c : Core) : (s.setCore g c).tollView = s.tollView := rfl
@[simp] theorem tollView_modPart (p : Nat) (f : Part → Part) : (s.modPart p f).tollView = s.tollView := rfl
@[simp] theorem tollView_modCtx (p x : Nat) (f : Ctx → Ctx) : (s.modCtx p x f).tollView = s.tollView := rfl
@[simp] theorem tollView_modRing (g x : Nat) (f : Ring → Ring) : (s.modRing g x f).tollView = s.tollView := rfl
@[simp] theorem tollView_memWrite (a : Nat) (bs : List Byte) : (memWrite s a bs).tollView = s.tollView := rfl

@[simp] theorem tollView_failStep (p x : Nat) : (failStep s p x).tollView = s.tollView := by
  unfold failStep
  extract_lets s1 late
  split <;> rfl

@[simp] theorem tollView_refuseAccess (reason init : Nat) (write : Bool) (addr data : Nat) :
    (refuseAccess s reason init write addr data).tollView = s.tollView := by
  unfold refuseAccess
  split
  · simp
  · rfl

/-! ### Memory (R372, R407–R411) -/

@[simp] theorem tollView_freshBurst (d : Nat) : (freshBurst s d).tollView = s.tollView := rfl
@[simp] theorem tollView_setBurstKey (b k : Nat) : (setBurstKey s b k).tollView = s.tollView := rfl

@[simp] theorem tollView_queueRepair (d : Nat) (hard : Bool) : (queueRepair s d hard).tollView = s.tollView := by
  unfold queueRepair
  extract_lets n die k h row q s1
  have h1 : s1.tollView = s.tollView := by simp [s1]
  split
  · rfl
  · split
    · exact tollView_ite s ((tollView_count _ (pnHbmc_ne_pnSched die k) _ _).trans h1) h1
    · simp

@[simp] theorem tollView_correctUnit (u : Nat) : (correctUnit s u).tollView = s.tollView := by
  unfold correctUnit
  extract_lets s1 t d n die k row ces s2 s3 th
  have h1 : s1.tollView = s.tollView := rfl
  have h3 : s3.tollView = s.tollView := by simp [s3, s2]
  split
  · exact tollView_ite s ((tollView_queueRepair s3 d false).trans h3) h3
  · split
    · split <;> simp [h1]
    · simp [h1]

@[simp] theorem tollView_correctSpan (a n : Nat) : (correctSpan s a n).tollView = s.tollView :=
  tollView_ite s rfl (tollView_foldl s tollView_correctUnit _)

@[simp] theorem tollView_slabTraffic (a n : Nat) (write vertical : Bool) :
    (slabTraffic s a n write vertical).tollView = s.tollView := by
  unfold slabTraffic
  split
  · simp
  · rfl

@[simp] theorem tollView_readSpans (vertical : Bool) (spans : List (Nat × Nat)) :
    (readSpans s vertical spans).tollView = s.tollView := tollView_foldl s (fun t e => by simp) spans

@[simp] theorem tollView_noteBad (u : Nat) : (noteBad s u).tollView = s.tollView := by
  unfold noteBad
  split
  · simp
  · split <;> simp

@[simp] theorem tollView_noteOthers (spans : List (Nat × Nat)) (u : Nat) : (noteOthers s spans u).tollView = s.tollView :=
  tollView_foldl s (fun t _ => tollView_ite t rfl (tollView_foldl t tollView_noteBad _)) spans

@[simp] theorem tollView_raiseBad (p : Nat) (x : Option Nat) (cmdId u : Nat) (tile : Nat × Nat) :
    (raiseBad s p x cmdId u tile).tollView = s.tollView := by
  unfold raiseBad
  simp

@[simp] theorem tollView_raiseBadIn (p : Nat) (x : Option Nat) (cmdId u : Nat) (spans : List (Nat × Nat)) (tile : Nat × Nat) :
    (raiseBadIn s p x cmdId u spans tile).tollView = s.tollView := by
  unfold raiseBadIn
  simp

@[simp] theorem tollView_joinBad (first u : Option Nat) : (joinBad s first u).1.tollView = s.tollView := by
  unfold joinBad
  split
  · exact tollView_ite s rfl (tollView_noteBad s _)
  · rfl

@[simp] theorem tollView_storePiece (a : Nat) (bs : List Byte) : (storePiece s a bs).1.tollView = s.tollView := by
  unfold storePiece
  extract_lets u full s1 s2 b cur s3
  have h1 : s1.tollView = s.tollView := tollView_ite s (tollView_correctUnit s u) rfl
  have h2 : s2.tollView = s.tollView := tollView_ite s ((tollView_freshBurst s1 _).trans h1) h1
  have h3 : s3.tollView = s.tollView := by
    refine tollView_ite s h2 ?_
    rw [tollView_memWrite, tollView_setBurstKey, h2]
  clear_value s3 s2
  split
  · rfl
  · split
    · exact h3
    · exact h2

/-- Stores one after the other, the first unit that could not be written carried along. -/
theorem tollView_foldl_joinBad {β : Type} {f : State × Option Nat → β → State × Option Nat}
    (hf : ∀ a b, (f a b).1.tollView = a.1.tollView) (l : List β) (u : Option Nat) :
    (l.foldl f (s, u)).1.tollView = s.tollView := foldl_view (fun a => a.1.tollView) hf l (s, u)

@[simp] theorem tollView_storeUnits (a : Nat) (bs : List Byte) : (storeUnits s a bs).1.tollView = s.tollView := by
  unfold storeUnits
  split
  · rfl
  · exact tollView_foldl_joinBad s (fun v e => by simp) _ none

@[simp] theorem tollView_memStore (a : Nat) (bs : List Byte) : (memStore s a bs).1.tollView = s.tollView := by
  unfold memStore
  extract_lets locked shut s1 s2
  clear_value locked
  have h1 : s1.tollView = s.tollView := by
    cases locked with
    | nil => rfl
    | cons e r => exact tollView_capture s _ _
  have h2 : s2.tollView = s.tollView := tollView_ite s ((tollView_refuseAccess s1 _ _ _ _ _).trans h1) h1
  split
  · exact tollView_storeUnits s a bs
  · refine (tollView_foldl_joinBad s2 (fun v k => ?_) _ none).trans h2
    extract_lets lo hi r
    split
    · rfl
    · exact (tollView_joinBad _ _ _).trans (tollView_storeUnits _ _ _)

@[simp] theorem tollView_memStores (vertical : Bool) (ws : List (Nat × List Byte)) :
    (memStores s vertical ws).1.tollView = s.tollView := tollView_foldl_joinBad s (fun v e => by simp) ws none

@[simp] theorem tollView_setTags (tag : Nat) (ws : List (Nat × List Byte)) : (setTags s tag ws).tollView = s.tollView := by
  refine tollView_ite s (tollView_foldl s (fun t e => ?_) ws) rfl
  split
  · exact tollView_foldl t (fun v u => by split <;> rfl) _
  · rfl

@[simp] theorem tollView_memStoresBy (tag : Nat) (own : Option Nat) (ws : List (Nat × List Byte)) :
    (memStoresBy s tag own ws).1.tollView = s.tollView := by
  unfold memStoresBy
  simp

end Sys2Proof.Machine

/-! Records that complete, and gather groups that run, leave the toll (R187, R189, R107–R109). -/

namespace Sys2Proof.Machine

variable (s : State)

/-! ### Completion (R187, R189) -/

@[simp] theorem tollView_writeEntry (g : Nat) (r : CmdRec) (bs : List Byte) : (writeEntry s g r bs).tollView = s.tollView :=
  tollView_ite s (tollView_memStores s _ _) rfl

@[simp] theorem tollView_advanceHeads (g : Nat) : (advanceHeads s g).tollView = s.tollView := rfl

@[simp] theorem tollView_completeCmd (g : Nat) (q : Option QueueId) (r : CmdRec) (c : Completion) :
    (completeCmd s g q r c).tollView = s.tollView := by
  unfold completeCmd
  extract_lets fails s1 own s2 s3 s4 s5 s6 s7
  have h1 : s1.tollView = s.tollView := by
    unfold s1
    split
    · rfl
    · exact tollView_writeEntry _ _ _ _
  have h3 : s3.tollView = s2.tollView := by
    unfold s3
    split
    · exact tollView_count s2 (pnSeq_ne_pnSched g) _ _
    · exact tollView_count s2 (pnSeq_ne_pnSched g) _ _
    · exact tollView_count s2 (pnSeq_ne_pnSched g) _ _
    · rfl
  have h4 : s4.tollView = s3.tollView := tollView_count s3 (pnCnt_ne_pnSched g) _ _
  have h5 : s5.tollView = s4.tollView := tollView_ite s4 (tollView_count s4 (pnCnt_ne_pnSched g) _ _) rfl
  have h6 : s6.tollView = s5.tollView := by
    unfold s6
    split
    · exact tollView_failStep s5 _ _
    · rfl
  have h7 : s7.tollView = s6.tollView := by
    unfold s7
    split
    · exact tollView_modDie s6 _ fun _ => rfl
    · rfl
  calc (advanceHeads s7 g).tollView
    _ = s2.tollView := by rw [tollView_advanceHeads, h7, h6, h5, h4, h3]
    _ = s.tollView := h1

@[simp] theorem tollView_refuseCmd (g : Nat) (q : Option QueueId) (r : CmdRec) (reason pointer : Nat) :
    (refuseCmd s g q r reason pointer).tollView = s.tollView := by
  unfold refuseCmd
  simp

@[simp] theorem tollView_popQueue (g : Nat) (q : QueueId) : (popQueue s g q).tollView = s.tollView := rfl

@[simp] theorem tollView_completeFront (g : Nat) (q : QueueId) (r : CmdRec) (c : Completion) :
    (completeFront s g q r c).tollView = s.tollView := tollView_completeCmd (popQueue s g q) _ _ _ _

@[simp] theorem tollView_refuseFront (g : Nat) (q : QueueId) (r : CmdRec) (reason : Nat) :
    (refuseFront s g q r reason).tollView = s.tollView := tollView_refuseCmd (popQueue s g q) _ _ _ _ _

@[simp] theorem tollView_failBad (g : Nat) (q : QueueId) (r : CmdRec) (u : Nat) (spans : List (Nat × Nat)) :
    (failBad s g q r u spans).tollView = s.tollView := by
  unfold failBad
  simp

/-! ### Messages that leave (R430, R432–R436) -/

@[simp] theorem tollView_sendFlit (h c vc : Nat) : (sendFlit s h c vc).tollView = s.tollView := by
  unfold sendFlit
  extract_lets p v way s1
  have h1 : s1.tollView = s.tollView := tollView_count s (halfPage_ne_pnSched h) 0 1
  split
  · exact h1
  · split
    · rfl
    · exact tollView_ite s h1 h1

@[simp] theorem tollView_pumpFlits (h n : Nat) : (pumpFlits h n s).tollView = s.tollView := by
  induction n generalizing s with
  | zero => rfl
  | succ n ih =>
    unfold pumpFlits
    split
    · rfl
    · split
      · rfl
      · rw [ih, tollView_sendFlit]; rfl

@[simp] theorem tollView_pumpCtx (c : Nat) : (pumpCtx s c).tollView = s.tollView := by
  unfold pumpCtx
  split
  · rfl
  · exact tollView_pumpFlits s _ _

variable {s} in
theorem tollView_sendMsg {t : State} {c key : Nat} {m : OutMsg} {w : Waiter} (h : sendMsg s c m key w = some t) :
    t.tollView = s.tollView := by
  unfold sendMsg at h
  extract_lets p asks tag n u at h
  split at h
  · cases h
    exact tollView_pumpCtx (s.setPeer c _) c
  · cases h

@[simp] theorem tollView_sendMsg_getD (c key : Nat) (m : OutMsg) (w : Waiter) :
    ((sendMsg s c m key w).getD s).tollView = s.tollView := by
  cases h : sendMsg s c m key w with
  | none => rfl
  | some t => exact tollView_sendMsg h

@[simp] theorem tollView_sendAll (c : Nat) (w : Waiter) (ms : List (OutMsg × Nat)) :
    (sendAll c w ms s).1.tollView = s.tollView := by
  refine foldl_view (fun a : State × Nat × Bool => a.1.tollView) (fun a m => ?_) ms (s, 0, true)
  split
  · split
    · next h => exact tollView_sendMsg h
    · rfl
  · rfl

@[simp] theorem tollView_sendWrites (w : Who) (wt : Waiter) (runs : List (Nat × List Byte)) :
    (sendWrites s w wt runs).1.tollView = s.tollView := by
  refine foldl_view (fun a : State × Nat × Bool => a.1.tollView) (fun a e => ?_) runs (s, 0, true)
  split
  · rfl
  · exact tollView_sendAll _ _ _ _

@[simp] theorem tollView_lostTrap (w : Who) (cmdId : Nat) (as : List Nat) : (lostTrap s w cmdId as).tollView = s.tollView := by
  unfold lostTrap
  split
  · rfl
  · extract_lets rank
    split
    · exact tollView_ite s rfl (tollView_raiseTrap s _ _)
    · exact tollView_raiseTrap s _ _

/-! ### Passes and readouts (R96, R115, R119, R134) -/

@[simp] theorem tollView_countPass (g : Nat) (q : PassReq) (load : Bool) (exposed busy : Nat) :
    (countPass s g q load exposed busy).tollView = s.tollView := by
  unfold countPass
  simp

@[simp] theorem tollView_countStaged (g n : Nat) : (countStaged s g n).tollView = s.tollView := by
  unfold countStaged
  extract_lets s1
  have h1 : s1.tollView = s.tollView := by simp [s1]
  exact tollView_ite s h1 (by simp [h1])

@[simp] theorem tollView_countLoad (g : Nat) (q : PassReq) (load : Bool) : (countLoad s g q load).tollView = s.tollView := by
  unfold countLoad
  extract_lets s1
  have h1 : s1.tollView = s.tollView := by simp [s1]
  exact tollView_ite s (by simp [h1]) h1

@[simp] theorem tollView_enterPasses (g issue dep : Nat) (qs : List PassReq) :
    (enterPasses g issue dep qs s).1.tollView = s.tollView := by
  refine foldl_view (fun a : State × List Entered => a.1.tollView) (fun a q => ?_) qs (s, [])
  simp

@[simp] theorem tollView_enterTiles (g issue dep : Nat) (reqs : List (List PassReq)) :
    (enterTiles g issue dep reqs s).1.tollView = s.tollView :=
  foldl_view (fun a : State × List (List Entered) => a.1.tollView) (fun a qs => by simp) reqs (s, [])

@[simp] theorem tollView_addDeposits (w : Who) (r : CmdRec) (side : Bool) (tile : Nat × Nat) (n : Nat) :
    (addDeposits s w r side tile n).tollView = s.tollView := tollView_ite s (tollView_raiseTrap _ _ _) rfl

@[simp] theorem tollView_noteNans (w : Who) (r : CmdRec) (side already : Bool) (l : List NanAt) :
    (noteNans s w r side already l).tollView = s.tollView := by
  unfold noteNans
  split
  · rfl
  · extract_lets s1
    have h1 : s1.tollView = s.tollView := by simp [s1]
    exact tollView_ite s h1 ((tollView_raiseTrap s1 _ _).trans h1)

@[simp] theorem tollView_noteOverflows (w : Who) (r : CmdRec) (side already : Bool) (tile : Nat × Nat) (l : List (Nat × Nat)) :
    (noteOverflows s w r side already tile l).tollView = s.tollView := by
  unfold noteOverflows
  split
  · rfl
  · extract_lets s1
    have h1 : s1.tollView = s.tollView := by simp [s1]
    exact tollView_ite s h1 ((tollView_raiseTrap s1 _ _).trans h1)

section
variable (a : Run)

@[simp] theorem tollView_put (p : Planes) (rc : RoundCtx) (es : List OutElem) : (a.put p rc es).s.tollView = a.s.tollView := rfl

@[simp] theorem tollView_putXc (w : Who) (key depcnt : Nat) (qs : List Slot) :
    (a.putXc w key depcnt qs).s.tollView = a.s.tollView := tollView_count a.s (pnAccum_ne_pnSched w.core) _ _

@[simp] theorem tollView_readSlots (w : Who) (r : CmdRec) (side keep : Bool) (tile : Nat × Nat) (ks : List (Nat × Nat × Nat)) :
    (readSlots a w r side keep tile ks).1.s.tollView = a.s.tollView :=
  tollView_ite a.s (tollView_noteOverflows a.s _ _ _ _ _ _) (tollView_noteOverflows a.s _ _ _ _ _ _)

@[simp] theorem tollView_takeSlotsXc (w : Who) (r : CmdRec) (side keep : Bool) (tile : Nat × Nat)
    (ks : List (Nat × Nat × Option Nat)) : (takeSlotsXc a w r side keep tile ks).1.s.tollView = a.s.tollView :=
  tollView_ite a.s (tollView_noteOverflows a.s _ _ _ _ _ _) (tollView_noteOverflows a.s _ _ _ _ _ _)

@[simp] theorem tollView_readSlotsXc (w : Who) (r : CmdRec) (side keep : Bool) (tile : Nat × Nat) (key : Nat)
    (ks : List (Nat × Nat × Option Nat)) : (readSlotsXc a w r side keep tile key ks).s.tollView = a.s.tollView := by
  unfold readSlotsXc
  simp

@[simp] theorem tollView_runTile (w : Mat) (isT : Bool) (c : MatCmd) (sc : Val) (y : Option Planes) (ms : List Nat)
    (t : MatTile) (first : Bool) (es : List Entered) (starts : List (List Nat)) (d xcKey : Nat) :
    (runTile w isT c sc y ms t first es starts d xcKey a).s.tollView = a.s.tollView := by
  unfold runTile
  extract_lets side gr core r0 tile begun rowStep passStep keys start passed mid nans counted s2 src r2 keep rd done
  have hstart : start.s.tollView = a.s.tollView := tollView_ite a.s rfl rfl
  have hrow (x) (e : Nat × Nat) : (rowStep x e).1.s.tollView = x.1.s.tollView := by
    unfold rowStep
    extract_lets dep src r1 rd rd'
    split
    · exact tollView_takeSlotsXc r1 _ _ _ _ _ _
    · exact tollView_readSlots r1 _ _ _ _ _ _
  have hmid : mid.1.s.tollView = start.s.tollView := by
    unfold mid
    split
    · exact foldl_view (fun x : Run × List OutElem × List Slot × List NanAt => x.1.s.tollView) hrow _ (start, [], [], [])
    · exact foldl_view (f := passStep) (fun x => x.1.s.tollView) (fun _ _ => rfl) _ (start, [])
  have hcounted : counted.tollView = mid.1.s.tollView :=
    tollView_ite mid.1.s (tollView_foldl mid.1.s (fun x e => tollView_addDeposits x _ _ _ _ _) es) rfl
  have hr2 : r2.s.tollView = a.s.tollView := by
    show (noteNans counted _ _ _ _ _).tollView = _
    rw [tollView_noteNans, hcounted, hmid, hstart]
  split
  · exact hr2
  · refine Eq.trans ?_ hr2
    show done.s.tollView = r2.s.tollView
    unfold done
    split
    · rfl
    · extract_lets rc
      split
      · split
        · exact tollView_putXc r2 _ _ _ _
        · exact tollView_readSlotsXc r2 _ _ _ _ _ _ _
      · split
        · rfl
        · exact tollView_readSlots r2 _ _ _ _ _ _

end

/-! ### Commands of the array and gather groups (R89, R107–R109) -/

@[simp] theorem tollView_runMatTiles (g : Nat) (isT : Bool) (wm : Mat) (d : Nat) (tes : List (MatTile × List Entered)) (i : Nat)
    (c : MatCmd) : (runMatTiles g isT wm d tes i c s).1.s.tollView = s.tollView := by
  unfold runMatTiles
  extract_lets r keep keys sc e1 e2 y init out
  refine foldl_view (fun x : Run × Nat × Nat => x.1.s.tollView) (fun x te => ?_) tes (init, 0, 0)
  split
  · rfl
  · extract_lets mine ms starts
    split
    · rfl
    · exact tollView_runTile x.1 _ _ _ _ _ _ _ _ _ _ _ _

@[simp] theorem tollView_commitRun (g : Nat) (q : QueueId) (r : CmdRec) (w : Who) (a : Run) (end_ reserved : Nat) :
    (commitRun g q r w a end_ reserved).tollView = a.s.tollView := by
  unfold commitRun
  extract_lets st s1 s2 sent status s3 s4
  have h1 : s1.tollView = a.s.tollView := by simp [s1, st]
  have h2 : s2.tollView = s1.tollView := by
    unfold s2
    split
    · exact tollView_ite s1 rfl (tollView_raiseBad s1 _ _ _ _ _)
    · rfl
  have hsent : sent.1.tollView = s2.tollView := tollView_sendWrites s2 _ _ _
  have h3 : s3.tollView = sent.1.tollView := tollView_ite sent.1 (tollView_lostTrap sent.1 _ _ _) rfl
  have h4 : s4.tollView = s3.tollView := tollView_ite s3 rfl (tollView_countOpen s3 (pnLs_ne_pnSched g) 3)
  rw [tollView_modCore, h4, h3, hsent, h2, h1]

@[simp] theorem tollView_haltCmd (g : Nat) (q : QueueId) (r : CmdRec) (w : Who) (a : Run) (side : Bool) (end_ reserved : Nat) :
    (haltCmd g q r w a side end_ reserved).tollView = a.s.tollView := tollView_commitRun g q r w _ end_ reserved

@[simp] theorem tollView_runMatCmd (g : Nat) (isT : Bool) (wm : Mat) (d end_ : Nat) (tes : List (MatTile × List Entered))
    (stop : Option MatStop) (i : Nat) (c : MatCmd) : (runMatCmd g isT wm d end_ tes stop i c s).tollView = s.tollView := by
  unfold runMatCmd
  extract_lets r run s1
  have hrun : run.s.tollView = s.tollView := tollView_runMatTiles s g isT wm d tes i c
  refine tollView_ite s ((tollView_haltCmd g _ _ _ _ _ _ _).trans hrun) ?_
  split
  · exact (tollView_commitRun g _ _ _ _ _ _).trans hrun
  · extract_lets s2
    have h2 : s2.tollView = s1.tollView := tollView_raiseBadIn s1 _ _ _ _ _ _
    exact ((tollView_commitRun g _ _ _ _ _ _).trans h2).trans hrun

@[simp] theorem tollView_runMatmul (g : Nat) (isT : Bool) (target : Option Nat) (cmds : List CmdRec) :
    (runMatmul s g isT target cmds).tollView = s.tollView := by
  unfold runMatmul
  extract_lets e all why good lead plan stops tiles xt wt d reqs issue dep dry ran ent s1 end_
  have h1 : s1.tollView = s.tollView := by simp [s1, ent]
  refine (foldl_view (fun a : State × List (MatCmd × Nat) => a.1.tollView) (fun a c => ?_) why (s1, plan.cs.zipIdx)).trans h1
  split
  · exact tollView_refuseFront a.1 _ _ _ _
  · split
    · rfl
    · split
      · exact tollView_ite a.1 (tollView_failBad a.1 _ _ _ _ _) (tollView_runMatCmd a.1 _ _ _ _ _ _ _ _ _)
      · exact tollView_runMatCmd a.1 _ _ _ _ _ _ _ _ _

@[simp] theorem tollView_closeGather (g : Nat) : (closeGather s g).tollView = s.tollView := by
  unfold closeGather issueGather
  split
  · rfl
  · exact tollView_ite s rfl (tollView_runMatmul _ _ _ _ _)

@[simp] theorem tollView_closeGathers (p : Nat) : (closeGathers s p).tollView = s.tollView :=
  tollView_foldl s tollView_closeGather _

end Sys2Proof.Machine

/-! Almanac entries and boundaries leave the toll but for its decision, and what the step boundary makes of the decision
(R333, R334, R353, R357, R360). -/

namespace Sys2Proof.Machine

variable (s : State)

/-! ### Almanac entries (R350, R354, R357, R358) -/

@[simp] theorem tollView_setRing (d k : Nat) (f : Die → AlmRing) :
    (s.modDie d fun v => v.setRing k (f v)).tollView = s.tollView :=
  tollView_modDie s d fun _ => rfl

@[simp] theorem tollView_modEntry (d k pos : Nat) (f : Entry → Entry) : (modEntry s d k pos f).tollView = s.tollView :=
  tollView_setRing s d k _

@[simp] theorem tollView_signalDone (k : Nat) (e : Entry) : (signalDone s k e).tollView = s.tollView := by
  unfold signalDone addSem setSem
  extract_lets p x a
  have ha : a.1.tollView = s.tollView := tollView_memStore s _ _
  split
  · exact ha
  · simp

@[simp] theorem tollView_closeEntry (d k : Nat) (e : Entry) : (closeEntry s d k e).tollView = s.tollView := by
  unfold closeEntry
  simp

@[simp] theorem tollView_failedEntry (d k : Nat) (e : Entry) : (failedEntry s d k e).tollView = s.tollView := by
  unfold failedEntry
  simp

@[simp] theorem tollView_readEntry (d k : Nat) : (readEntry s d k).tollView = s.tollView := by
  unfold readEntry
  extract_lets r i a here e s1 reason s2
  have h1 : s1.tollView = s.tollView := tollView_setRing s d k _
  have h2 : s2.tollView = s.tollView := (tollView_readSpans s1 _ _).trans h1
  refine tollView_ite s (by simp [refusedEntry, h1]) ?_
  split
  · simp [badEntry, h1]
  · refine tollView_ite s (by simp [refusedEntry, h2]) (tollView_ite s ?_ h2)
    simp [skipWindow, h2]

@[simp] theorem tollView_passEntries (d k : Nat) : (passEntries s d k).tollView = s.tollView := tollView_setRing s d k _

@[simp] theorem tollView_runRing (d k n : Nat) : (runRing d k n s).tollView = s.tollView := by
  induction n generalizing s with
  | zero => exact tollView_passEntries s d k
  | succ n ih =>
    unfold runRing
    extract_lets s1
    have h1 : s1.tollView = s.tollView := tollView_passEntries s d k
    exact tollView_ite s (by rw [ih, tollView_readEntry, h1]) h1

@[simp] theorem tollView_settleRing (d k : Nat) : (settleRing s d k).tollView = s.tollView := tollView_runRing s d k _

@[simp] theorem tollView_finishEntry (d k : Nat) (e : Entry) : (finishEntry s d k e).tollView = s.tollView := by
  unfold finishEntry
  simp

@[simp] theorem tollView_fire (d k : Nat) (e : Entry) : (fire s d k e).tollView = s.tollView := by
  unfold fire
  extract_lets s1
  have h1 : s1.tollView = s.tollView := by simp [s1]
  exact tollView_ite s (by simp [h1]) (by simp [h1])

@[simp] theorem tollView_noteMiss (d k : Nat) (e : Entry) (deadline : Nat) (always : Bool) :
    (noteMiss s d k e deadline always).tollView = s.tollView := by
  unfold noteMiss
  extract_lets pn s1 off s2 s3
  have h2 : s2.tollView = s.tollView := by simp [s2, s1, pn]
  have h3 : s3.tollView = s.tollView := tollView_ite s ((tollView_raiseTrap s2 _ _).trans h2) h2
  exact (tollView_setEvent s3 _ _).trans h3

/-! ### Values that take effect at a boundary (R13, R16, R406) -/

@[simp] theorem tollView_dropShadow (pn off : Nat) : (dropShadow s pn off).tollView = s.tollView :=
  tollView_modPage s pn fun _ => rfl

@[simp] theorem tollView_latchIn (pn off : Nat) (w : Word) : (latchIn s pn off w).tollView = s.tollView := by
  unfold latchIn
  simp

@[simp] theorem tollView_applyWord (e : Nat × Nat) : (applyWord s e).tollView = s.tollView := by
  unfold applyWord
  split
  · rfl
  · exact tollView_latchIn s _ _ _

@[simp] theorem tollView_recordLatchRefusal (pn off v : Nat) : (recordLatchRefusal s pn off v).tollView = s.tollView :=
  tollView_capture s _ _

@[simp] theorem tollView_applyTithe (p : Nat) : (applyTithe s p).tollView = s.tollView := by
  unfold applyTithe
  extract_lets pn
  split
  · rfl
  · exact tollView_ite s (tollView_latchIn s _ _ _) (by simp)

@[simp] theorem tollView_applyAddress (off : Nat) (valid : Nat → Bool) : (applyAddress s off valid).tollView = s.tollView := by
  unfold applyAddress
  extract_lets lo hi l h s1
  have h1 : s1.tollView = s.tollView := by simp [s1]
  refine tollView_ite s rfl (tollView_ite s (by simp) ?_)
  exact (tollView_setEvent _ _ _).trans (tollView_ite s (by simp [h1]) (by simp [h1]))

@[simp] theorem tollView_applyRot (g : Nat) : (applyRot s g).tollView = s.tollView := by
  unfold applyRot
  extract_lets pn s1 s2 ctl
  have h1 : s1.tollView = s.tollView := tollView_applyWord s _
  have h2 : s2.tollView = s.tollView := by
    unfold s2
    split
    · exact h1
    · exact tollView_ite s (by simp [h1]) (by simp [h1])
  exact tollView_ite s rfl h2

@[simp] theorem tollView_applyBoundary (p : Option Nat) (dev : Bool) : (applyBoundary s p dev).tollView = s.tollView := by
  unfold applyBoundary
  extract_lets todo s1 s2 rots s3
  have h1 : s1.tollView = s.tollView := tollView_ite s (tollView_foldl s tollView_applyTithe _) rfl
  have h2 : s2.tollView = s.tollView := tollView_ite s (by simp [h1]) h1
  have h3 : s3.tollView = s2.tollView := tollView_foldl s2 tollView_applyRot _
  rw [tollView_foldl s3 tollView_applyWord, h3, h2]

/-! ### The schedule and the candidate map (R311, R322, R323) -/

@[simp] theorem tollView_schedBad (u : Nat) : (schedBad s u).tollView = s.tollView := tollView_raiseTrap s _ _

@[simp] theorem tollView_evalRecord (key n k : Nat) : (evalRecord key n s k).tollView = s.tollView := tollView_ite s rfl rfl

@[simp] theorem tollView_evalSchedule : (evalSchedule s).tollView = s.tollView := by
  unfold evalSchedule
  extract_lets a s1
  have h1 : s1.tollView = s.tollView := by
    unfold s1
    split <;> simp
  exact tollView_ite s ((tollView_foldl s1 (tollView_evalRecord · a _) _).trans h1) rfl

@[simp] theorem tollView_copyMapWord (acc : State × Option Nat) (i : Nat) : (copyMapWord acc i).1.tollView = acc.1.tollView := by
  unfold copyMapWord
  extract_lets src dst s1
  split
  · rfl
  · exact (tollView_memStore s1 _ _).trans (tollView_correctSpan acc.1 _ _)

theorem tollView_copyMapWords (l : List Nat) (u : Option Nat) : (l.foldl copyMapWord (s, u)).1.tollView = s.tollView :=
  tollView_foldl_joinBad s tollView_copyMapWord l u

/-- The words copied stand for any result: at the list itself the kernel would run the copy. -/
@[simp] theorem tollView_copyMap : (copyMap s).1.tollView = s.tollView := by
  unfold copyMap
  have hr := tollView_copyMapWords s (List.range 1024) none
  generalize (List.range 1024).foldl copyMapWord (s, none) = r at hr ⊢
  obtain ⟨t, u⟩ := r
  cases u with
  | none => exact hr
  | some u => exact (tollView_schedBad t u).trans hr

/-! ### What the step leaves (R108, R189, R311, R334, R348, R490) -/

@[simp] theorem tollView_endTollEntry (boundary : Nat) : (endTollEntry s boundary).tollView = s.tollView := by
  unfold endTollEntry
  split
  · rfl
  · split
    · rfl
    · extract_lets s1
      have h1 : s1.tollView = s.tollView := tollView_ite s (tollView_noteMiss s _ _ _ _ _) rfl
      exact tollView_ite s h1 ((tollView_finishEntry s1 _ _ _).trans h1)

@[simp] theorem tollView_clearFailed (p : Nat) : (clearFailed s p).tollView = s.tollView := tollView_modPart s p _
@[simp] theorem tollView_clearReleased (p : Nat) : (clearReleased s p).tollView = s.tollView := tollView_modPart s p _

@[simp] theorem tollView_releaseRings (p : Nat) (here : Long → Bool) : (releaseRings s p here).tollView = s.tollView :=
  tollView_foldl s (fun t g => tollView_modCore t g _) _

@[simp] theorem tollView_retime : (retime s).tollView = s.tollView := tollView_ite s rfl rfl

@[simp] theorem tollView_beginStep (late : List (Nat × Nat)) (mapBad : Bool) :
    (beginStep s late mapBad).tollView = s.tollView := by
  unfold beginStep
  extract_lets s1
  have h1 : s1.tollView = s.tollView := by
    unfold s1
    split
    · exact tollView_clearFailed s _
    · rfl
  exact (tollView_foldl s1 (fun (t : State) (e : Nat × Nat) => tollView_modCtx t e.1 e.2 _) _).trans h1

@[simp] theorem tollView_suspendTraining : (suspendTraining s).tollView = s.tollView := by
  unfold suspendTraining
  split
  · rfl
  · exact tollView_foldl s (fun t j => tollView_foldl t (fun u x => by split <;> rfl) _) _

/-! ### The decision (R333, R334) -/

/-- The counter of the SCHED page that counts a result (R338). -/
def TollResult.counter : TollResult → Nat
  | .commit => 0
  | .fail => 1
  | .split => 2

/-- The toll's result, where it is held; else FAIL (R334). -/
def TollView.result (v : TollView) : TollResult := v.held.getD .fail

/-- What the decision makes of a view: COMMIT turns the map and moves the epoch on; every result is shown and counted. -/
def TollView.decided (v : TollView) : TollView :=
  { v with
    mapSel := v.mapSel != decide (v.result = .commit)
    epoch  := v.epoch + if v.result = .commit then 1 else 0
    shown  := BitVec.ofNat 2 (tollCode v.result)
    counts := fun k => v.counts k + if k = v.result.counter then 1 else 0 }

/-- The toll is over. -/
def TollView.over (v : TollView) : TollView := { v with held := none, seen := false }

/-- A die is armed no longer. -/
def TollView.disarmed (v : TollView) (d : Nat) : TollView := { v with armed := fun k => if k = d then none else v.armed k }

/-- A counter of the SCHED page moves on by one. -/
theorem tollView_count_sched (k : Nat) :
    (s.count pnSched k 1).tollView =
      { s.tollView with counts := fun j => s.tollView.counts j + if j = k then 1 else 0 } := by
  have hcounts : (s.count pnSched k 1).counter pnSched = fun j => s.counter pnSched j + if j = k then 1 else 0 := by
    funext j
    rw [counter_count]
    by_cases hj : j = k <;> simp [hj]
  unfold State.tollView
  rw [hcounts]
  rfl

theorem tollView_decideToll : (decideToll s).tollView = s.tollView.decided := by
  unfold decideToll
  extract_lets late result src s1 s2
  have hmap : (if result = .commit then !s.sched.mapSel else s.sched.mapSel) =
      (s.sched.mapSel != decide (result = .commit)) := by
    split <;> simp [*]
  have hepoch : (if result = .commit then s.sched.epoch + 1 else s.sched.epoch) =
      s.sched.epoch + if result = .commit then 1 else 0 := by
    split <;> simp
  have h1 : s1.tollView = { s.tollView.decided with counts := s.tollView.counts } :=
    congrArg₂ (fun m e => { s1.tollView with mapSel := m, epoch := e }) hmap hepoch
  have hcounted (r : TollResult) (h : result = r) : (s1.count pnSched r.counter 1).tollView = s.tollView.decided := by
    rw [tollView_count_sched, h1, ← h]
    rfl
  have h2 : s2.tollView = s.tollView.decided := by
    clear_value s1 result
    cases result with
    | commit => exact hcounted .commit rfl
    | fail => exact (tollView_setEvent _ _ _).trans (hcounted .fail rfl)
    | split => exact ((tollView_suspendTraining _).trans (tollView_setEvent _ _ _)).trans (hcounted .split rfl)
  exact (tollView_ite s2 (tollView_setEvent s2 _ _) rfl).trans h2

theorem tollView_clearToll : (clearToll s).tollView = s.tollView.over := rfl

theorem tollView_disarmDie (d : Nat) :
    (s.modDie d fun v => { v with armed := none }).tollView = s.tollView.disarmed d := by
  have harmed : (fun k => ((s.modDie d fun v => { v with armed := none }).die k).armed) =
      fun k => if k = d then none else (s.die k).armed := by
    funext k
    by_cases h : k = d
    · subst h; rw [State.die_modDie, if_pos rfl]
    · rw [State.die_modDie_ne _ _ _ _ h, if_neg h]
  unfold State.tollView
  rw [harmed]
  rfl

/-- The step boundary decides, ends the toll and disarms the die; nothing else of it meets the view. -/
theorem tollView_stepBoundary (d k pos time : Nat) :
    (stepBoundary s d k pos time).tollView = (s.tollView.decided.over).disarmed d := by
  unfold stepBoundary
  extract_lets p s0 late s1 s2 s3 s4 s5 s6
  have h0 : s0.tollView = s.tollView := tollView_elim s p (tollView_closeGathers s)
  have h1 : s1.1.tollView = s.tollView.decided := by
    rw [tollView_copyMap, tollView_decideToll, tollView_endTollEntry, h0]
  clear_value s1
  have h2 : s2.tollView = s.tollView.decided := by
    rw [tollView_evalSchedule, tollView_applyBoundary, h1]
  have h3 : s3.tollView = s.tollView.decided.over := by
    rw [tollView_beginStep, tollView_clearToll, h2]
  have h4 : s4.tollView = s3.tollView := tollView_foldl s3 tollView_clearReleased _
  have h5 : s5.tollView = s4.tollView := tollView_elim s4 p fun q => tollView_releaseRings s4 q _
  have h6 : s6.tollView = s.tollView.decided.over.disarmed d := by
    rw [tollView_disarmDie, h5, h4, h3]
  split
  · rw [tollView_retime, h6]
  · rw [tollView_finishEntry, tollView_retime, tollView_fire, h6]

theorem execStepBoundary_due {s : State} {p die ring pos : Nat} {at_ : Long} (hp : trainingPart s = some p)
    (hd : leadDie s p = some die) (ha : (s.die die).armed = some (at_, ring, pos)) (hdue : boundaryDue s ring at_.toNat = true) :
    execStepBoundary s = .next (stepBoundary s die ring pos at_.toNat) := by
  simp [execStepBoundary, hp, hd, ha, hdue]

/-- Settles O28: what the step boundary leaves is the decision on the result held, with the toll over and the die disarmed. -/
theorem stepBoundaryDecides : Obligations.StepBoundaryDecides := by
  unfold Obligations.StepBoundaryDecides
  intro s p die ring pos at_ hp hd ha hdue result
  have hview := tollView_stepBoundary s die ring pos at_.toNat
  generalize hs : stepBoundary s die ring pos at_.toNat = t at hview
  have hcount (k : Nat) : t.counter pnSched k = s.counter pnSched k + if k = result.counter then 1 else 0 :=
    congrFun (congrArg TollView.counts hview) k
  refine ⟨t, (execStepBoundary_due hp hd ha hdue).trans (congrArg _ hs), congrArg TollView.mapSel hview,
    congrArg TollView.epoch hview, congrArg TollView.shown hview, congrArg TollView.held hview, congrArg TollView.seen hview,
    ?_, ?_, ?_, ?_⟩
  · rw [hcount]; cases result <;> rfl
  · rw [hcount]; cases result <;> rfl
  · rw [hcount]; cases result <;> rfl
  · exact (congrFun (congrArg TollView.armed hview) die).trans (if_pos rfl)

end Sys2Proof.Machine

/-! Messages taken in their order: the state in which they have their effect, and the messages of collectives and of the toll
(R332, R335, R434–R439, R443, R447). -/

namespace Sys2Proof.Machine

variable (s : State)

/-! ### What sending leaves of the contexts (R430, R434) -/

/-- What each context expects next, and its phase. -/
def State.expects (c : Nat) : BitVec 24 × PeerPhase := ((s.peer c).recvSeq, (s.peer c).phase)

variable {s} in
theorem NextMsg.of_expects {t u : State} {c : Nat} (h : NextMsg s t c) (hu : u.expects = t.expects) : NextMsg s u c := by
  obtain ⟨hr, hp⟩ := h
  obtain ⟨er, ep⟩ := Prod.ext_iff.1 (congrFun hu c)
  exact ⟨er.trans hr, ep.trans hp⟩

variable {s} in
theorem expects_of_links {t : State} (h : t.links = s.links) : t.expects = s.expects := by
  unfold State.expects State.peer
  rw [h]

variable {s} in
theorem Pumped.expects {t : State} (h : Pumped s t) : t.expects = s.expects :=
  funext fun c => Prod.ext (h.peers c).recvSeq (h.peers c).phase

/-- A context's record changes in what is sent alone. -/
theorem expects_setPeer (c : Nat) {p : Peer} (hr : p.recvSeq = (s.peer c).recvSeq) (hp : p.phase = (s.peer c).phase) :
    (s.setPeer c p).expects = s.expects := by
  funext k
  unfold State.expects
  by_cases h : k = c
  · subst h; rw [State.peer_setPeer, hr, hp]
  · rw [State.peer_setPeer_ne _ _ _ _ h]

/-- A message handed to a context leaves what the contexts expect, and the requests under way. -/
theorem sendMsg_getD_links (c key : Nat) (m : OutMsg) (w : Waiter) :
    ((sendMsg s c m key w).getD s).expects = s.expects ∧ ((sendMsg s c m key w).getD s).links.reqs = s.links.reqs := by
  unfold sendMsg
  extract_lets p asks tag n v
  split
  · have hpumped := pumped_pumpCtx (s.setPeer c { p with
      sendSeq := p.sendSeq + 1, unacked := p.unacked ++ [v], asked := if asks then p.asked ++ [v] else p.asked }) c
    exact ⟨hpumped.expects.trans (expects_setPeer s c rfl rfl), hpumped.reqs⟩
  · exact ⟨rfl, rfl⟩

/-! ### The message that is next (R434–R439) -/

/-- The state in which a message that is taken has its effect: its flits have left the receive buffer, and its context expects
the message after it. -/
def received (op : MsgOp) (m : LinkMsg) : State :=
  (takeFlits s m.port (s.peer m.ctx) op.vc (arrivedFlits (s.peer m.ctx) m)).setPeer m.ctx
    { s.peer m.ctx with recvSeq := (s.peer m.ctx).recvSeq + 1 }

theorem takeFlits_peer (h : Nat) (p : Peer) (vc n c : Nat) : (takeFlits s h p vc n).peer c = s.peer c := by
  unfold takeFlits
  split <;> rfl

section
variable (op : MsgOp) (m : LinkMsg)

theorem changes_received : Changes [.out, .pages, .links] s (received s op m) :=
  changes_of (within_State_setPeer at2 _ _ _ (within_takeFlits at0 at1 at2 _ _ _ _ _ (within_refl _ s)))

theorem received_peer :
    (received s op m).peer m.ctx = { s.peer m.ctx with recvSeq := (s.peer m.ctx).recvSeq + 1 } := State.peer_setPeer _ _ _

theorem nextMsg_received : NextMsg s (received s op m) m.ctx := by
  unfold NextMsg
  rw [received_peer]
  exact ⟨rfl, rfl⟩

theorem received_reqs : (received s op m).links.reqs = s.links.reqs := by
  unfold received takeFlits
  split <;> rfl

theorem received_early : (received s op m).links.early = s.links.early := by
  unfold received takeFlits
  split <;> rfl

theorem received_sched : (received s op m).sched = s.sched := changes_received s op m .sched (by decide)

theorem received_part (p : Nat) : (received s op m).part p = s.part p := by
  have hparts : (received s op m).parts = s.parts := changes_received s op m .parts (by decide)
  unfold State.part
  rw [hparts]

theorem received_trainingJob : trainingJob (received s op m) = trainingJob s := by
  unfold trainingJob trainingPart
  simp only [received_part]

variable {s op m}

/-- A message that is next comes to its effect. -/
theorem arriveMsg_taken (h : Taken s op m) :
    arriveMsg s op m =
      takeMsg (takeFlits s m.port (s.peer m.ctx) op.vc (arrivedFlits (s.peer m.ctx) m)) m.ctx op m := by
  obtain ⟨hphase, htag, hlevel, hseq, hparked, hpark⟩ := h
  have hparks : ∀ h p vc n, parks (takeFlits s h p vc n) m.ctx op m = parks s m.ctx op m := by
    intro h p vc n
    unfold takeFlits
    split <;> rfl
  have hparkedFor : ∀ h p vc n, parkedFor (takeFlits s h p vc n) m.ctx = parkedFor s m.ctx := by
    intro h p vc n
    unfold takeFlits
    split <;> rfl
  have hsealed : ((s.peer m.ctx).sealedCtx && !m.tagOk) = false := by
    cases hs : (s.peer m.ctx).sealedCtx with
    | false => rfl
    | true => rw [htag hs]; rfl
  unfold arriveMsg
  simp [takeFlits_peer, hphase, hsealed, hlevel, hseq, hparks, hpark, hparkedFor, hparked]

/-- It is acknowledged once it has an effect that neither waits nor is refused. -/
theorem arriveMsg_acked (h : Taken s op m) {t : State} (ht : effectOf (received s op m) m.ctx op m = { s := t }) :
    arriveMsg s op m = sendCtl t m.ctx (.ack m.mseq m.reqTag) := by
  rw [arriveMsg_taken h]
  unfold takeMsg
  rw [takeFlits_peer]
  exact congrArg (fun e : Effect => if e.later then e.s else match e.nak with
    | some k => sendCtl e.s m.ctx (.nak m.mseq k m.reqTag)
    | none => sendCtl e.s m.ctx (.ack m.mseq m.reqTag)) ht

end

variable {s} in
/-- What such a message's command leaves, once its effect `t` is known. -/
theorem exec_acked {op : MsgOp} {m : LinkMsg} {i : Instr} (hi : exec i s = .next (arriveMsg s op m))
    (h : Taken s op m) {t : State} (ht : effectOf (received s op m) m.ctx op m = { s := t }) (hexpects : t.expects = (received s op m).expects) :
    exec i s = .next (sendCtl t m.ctx (.ack m.mseq m.reqTag)) ∧ NextMsg s t m.ctx :=
  ⟨hi.trans (congrArg _ (arriveMsg_acked h ht)), (nextMsg_received s op m).of_expects hexpects⟩

variable {s} in
theorem Changes.setLinks {L : List Piece} {t : State} (h : Changes L s t) (hl : .links ∈ L) (l : Links) :
    Changes L s { t with links := l } :=
  h.trans (changes_of { within_refl (· ∈ L) t with links := keep_of hl })

variable {s} in
theorem Changes.setSched {L : List Piece} {t : State} (h : Changes L s t) (hl : .sched ∈ L) (l : Sched) :
    Changes L s { t with sched := l } :=
  h.trans (changes_of { within_refl (· ∈ L) t with sched := keep_of hl })

variable {s} in
theorem Changes.mono {L M : List Piece} {t : State} (h : Changes L s t) (hm : ∀ p ∈ L, p ∈ M) : Changes M s t :=
  fun p hp => h p fun hl => hp (hm p hl)

/-! ### COLLECTIVE (R443, R444) -/

theorem effectOf_collective {s t : State} {m : LinkMsg}
    (h : arriveColl (received s .collective m) (s.peer m.ctx).part (s.peer m.ctx).jobCtx (s.peer m.ctx).rank m = t) :
    effectOf (received s .collective m) m.ctx .collective m = { s := t } := by
  unfold effectOf
  rw [received_peer, ← h]
  rfl

/-- A message without a record waits for it. -/
theorem arriveColl_early {s : State} {p x : Nat} {m : LinkMsg} (h : collFor s p x m = none) (rank : Nat) :
    arriveColl s p x rank m = { s with links := { s.links with early := s.links.early ++ [m] } } := by
  simp only [arriveColl, h]

theorem arriveColl_posted {s : State} {p x : Nat} {m : LinkMsg} {r : LinkReq} (h : collFor s p x m = some r) (rank : Nat) :
    arriveColl s p x rank m = takeColl s p r.pos rank m := by
  simp only [arriveColl, h]

theorem reqOf_of_reqs {s t : State} (h : t.links.reqs = s.links.reqs) (p pos : Nat) : reqOf t p pos = reqOf s p pos := by
  unfold reqOf State.reqRing
  rw [h]

theorem collFor_of_reqs {s t : State} (h : t.links.reqs = s.links.reqs) (p x : Nat) (m : LinkMsg) :
    collFor t p x m = collFor s p x m := by
  unfold collFor State.reqRing
  rw [h]

/-- A request that is changed but for its place in its ring is found there. -/
theorem reqOf_modReq (p pos : Nat) {f : LinkReq → LinkReq} (hf : ∀ r, (f r).pos = r.pos) :
    reqOf (modReq s p pos f) p pos = (reqOf s p pos).map f := by
  have hfound : ((fun r : LinkReq => r.pos == pos) ∘ fun r => if r.pos = pos then f r else r) = fun r => r.pos == pos := by
    funext r
    by_cases h : r.pos = pos <;> simp [h, hf]
  unfold reqOf modReq State.modReqRing State.reqRing
  rw [mget_mset_same, List.find?_map, hfound]
  cases h : (mget {} s.links.reqs p).inFlight.find? fun r => r.pos == pos with
  | none => rfl
  | some r =>
    have hpos : r.pos = pos := by simpa using List.find?_some h
    simp [hpos]

theorem failStep_links (p x : Nat) : (failStep s p x).links = s.links := by
  unfold failStep
  extract_lets s1 late
  split <;> rfl

theorem failStep_stepFailed (p x : Nat) : (((failStep s p x).part p).ctx x).stepFailed = true := by
  have hctx : (((s.modCtx p x fun c => { c with stepFailed := true }).part p).ctx x).stepFailed = true := by
    rw [State.modCtx_ctx]
  unfold failStep
  extract_lets s1 late
  split <;> exact hctx

/-- The first failure of a request stands in its record, and fails its context's step (R188, R189). -/
theorem failReq_fails {s : State} {p pos : Nat} {r : LinkReq} (hr : reqOf s p pos = some r) (hopen : r.finished = false)
    (status reason : Nat) :
    reqOf (failReq s p pos status reason) p pos =
        some { r with finished := true, waiting := 0, status := BitVec.ofNat 8 status } ∧
      (((failReq s p pos status reason).part p).ctx r.jobCtx).stepFailed = true ∧
      (failReq s p pos status reason).expects = s.expects := by
  unfold failReq
  simp only [hr, hopen, Bool.false_eq_true, if_false]
  set s1 := modReq s p pos fun r => { r with finished := true, waiting := 0, status := BitVec.ofNat 8 status } with hs1
  have hmarked : reqOf s1 p pos = some { r with finished := true, waiting := 0, status := BitVec.ofNat 8 status } := by
    rw [hs1, reqOf_modReq s p pos, hr]
    · rfl
    · exact fun _ => rfl
  have hlinks : (failStep s1 p r.jobCtx).links = s1.links := failStep_links s1 p r.jobCtx
  have hreq : reqOf (failStep s1 p r.jobCtx) p pos =
      some { r with finished := true, waiting := 0, status := BitVec.ofNat 8 status } :=
    (reqOf_of_reqs (congrArg Links.reqs hlinks) p pos).trans hmarked
  have hexpects : (failStep s1 p r.jobCtx).expects = s.expects := (expects_of_links hlinks).trans rfl
  split
  · refine ⟨(reqOf_of_reqs (congrArg Links.reqs (raiseTrap_links _ _ _)) p pos).trans hreq, ?_,
      (expects_of_links (raiseTrap_links _ _ _)).trans hexpects⟩
    rw [raiseTrap_part]
    exact failStep_stepFailed s1 p r.jobCtx
  · exact ⟨hreq, failStep_stepFailed s1 p r.jobCtx, hexpects⟩

/-- The failure marks to the other members leave what the contexts expect, and the requests under way. -/
theorem sendMarks_links (p : Nat) (c : Coll) (r : LinkReq) (status : Nat) :
    (sendMarks s p c r status).expects = s.expects ∧ (sendMarks s p c r status).links.reqs = s.links.reqs := by
  refine Prod.ext_iff.1 (foldl_view (fun t : State => (t.expects, t.links.reqs)) (fun t rank => ?_) c.ranks s)
  split
  · rfl
  · split
    · rfl
    · exact Prod.ext_iff.2 (sendMsg_getD_links t _ _ _ _)

/-- A collective that fails here stands failed, and the step of its context with it (R188, R189, R443). -/
theorem failColl_fails {s : State} {p : Nat} {r : LinkReq} (hr : reqOf s p r.pos = some r) (hopen : r.finished = false)
    (c : Coll) (status reason : Nat) :
    reqOf (failColl s p c r status reason) p r.pos =
        some { r with finished := true, waiting := 0, status := BitVec.ofNat 8 status } ∧
      (((failColl s p c r status reason).part p).ctx r.jobCtx).stepFailed = true ∧
      (failColl s p c r status reason).expects = s.expects := by
  obtain ⟨hexpects, hreqs⟩ := sendMarks_links s p c r status
  obtain ⟨hreq, hfailed, hkept⟩ := failReq_fails ((reqOf_of_reqs hreqs p r.pos).trans hr) hopen status reason
  exact ⟨hreq, hfailed, hkept.trans hexpects⟩

/-- A message whose header is not its record's fails the record with DESCRIPTOR_INVALID (R443). -/
theorem takeColl_header {s : State} {p : Nat} {r : LinkReq} {j : Job} {m : LinkMsg} (hr : reqOf s p r.pos = some r)
    (hj : jobOf s p r.jobCtx = some j) (hopen : r.finished = false) (hm : m.reqTag.toNat % 2 ^ 48 ≠ collHeader r 0)
    (rank : Nat) : takeColl s p r.pos rank m = failColl s p (collOf j r) r stDescriptor 0x04 := by
  simp only [takeColl, hr, hj, hopen, Bool.false_eq_true, if_false, if_pos hm]

/-! ### VOTE and RESULT (R332, R335, R353) -/

@[simp] theorem tollView_sendToll (p : Nat) (j : Job) (rank : Nat) (op : MsgOp) (bs : List Byte) :
    (sendToll s p j rank op bs).tollView = s.tollView := by
  unfold sendToll
  split
  · rfl
  · exact tollView_sendMsg_getD s _ _ _ _

theorem expects_sendToll (p : Nat) (j : Job) (rank : Nat) (op : MsgOp) (bs : List Byte) :
    (sendToll s p j rank op bs).expects = s.expects := by
  unfold sendToll
  split
  · rfl
  · exact (sendMsg_getD_links s _ _ _ _).1

theorem finishEntry_links (d k : Nat) (e : Entry) : (finishEntry s d k e).links = s.links :=
  (within_finishEntry (S := (· ≠ Piece.links)) (by decide) (by decide) (by decide) (by decide) (by decide) (by decide)
    (by decide) (by decide) (by decide) (by decide) (by decide) s d k e (within_refl _ s)).links (not_not.2 rfl)

/-- The result is held; the children are told and the TOLL entry completes, which leaves it held. -/
theorem holdResult_held (p : Nat) (j : Job) (r : TollResult) :
    (holdResult s p j r).sched.held = some r ∧ (holdResult s p j r).expects = s.expects := by
  unfold holdResult
  extract_lets n src s1 s2
  have h2 : (s2.tollView, s2.expects) = (s1.tollView, s1.expects) := by
    refine foldl_view (fun t : State => (t.tollView, t.expects)) (fun t l => ?_) _ s1
    split
    · exact Prod.ext (tollView_sendToll t _ _ _ _ _) (expects_sendToll t _ _ _ _ _)
    · rfl
  obtain ⟨hview, hexpects⟩ := Prod.ext_iff.1 h2
  have hheld : s2.sched.held = some r := congrArg TollView.held hview
  have hsame : s2.sched.held = some r ∧ s2.expects = s.expects := ⟨hheld, hexpects⟩
  split
  · exact hsame
  · split
    · split
      · exact hsame
      · exact ⟨(congrArg TollView.held (tollView_finishEntry s2 _ _ _)).trans hheld,
          (expects_of_links (finishEntry_links s2 _ _ _)).trans hexpects⟩
    · exact hsame

theorem effectOf_vote {s t : State} {m : LinkMsg} (hrank : (s.peer m.ctx).rankValid = true)
    (h : arriveVote (received s .vote m) (s.peer m.ctx).rank (voteOf m.data) = t) :
    effectOf (received s .vote m) m.ctx .vote m = { s := t } := by
  unfold effectOf
  rw [received_peer, ← h]
  exact congrArg (fun u : State => ({ s := u } : Effect)) (if_pos hrank)

theorem effectOf_result {s t : State} {m : LinkMsg} (hrank : (s.peer m.ctx).rankValid = true)
    (h : arriveResult (received s .result m) (resultOf (ofLe (m.data.take 1))) = t) :
    effectOf (received s .result m) m.ctx .result m = { s := t } := by
  unfold effectOf
  rw [received_peer, ← h]
  exact congrArg (fun u : State => ({ s := u } : Effect)) (if_pos hrank)

theorem arriveVote_held {s : State} {p : Nat} {j : Job} (hj : trainingJob s = some (p, j)) (hself : s.sched.selfTimed = false)
    (rank : Nat) (v : Vote) :
    arriveVote s rank v = { s with sched := { s.sched with childVotes := mput s.sched.childVotes rank v } } := by
  simp only [arriveVote, hj, hself, Bool.false_and, Bool.false_eq_true, if_false]

theorem arriveResult_awaited {s : State} {p : Nat} {j : Job} (hj : trainingJob s = some (p, j)) (hseen : s.sched.tollSeen = true)
    (hheld : s.sched.held = none) (r : TollResult) : arriveResult s r = holdResult s p j r := by
  simp only [arriveResult, hj, hseen, hheld, Option.isNone_none, Bool.and_true, if_true]

theorem arriveResult_late {s : State} {p : Nat} {j : Job} (hj : trainingJob s = some (p, j)) (hheld : s.sched.held ≠ none)
    (r : TollResult) : arriveResult s r = s := by
  have hnone : s.sched.held.isNone = false := Option.isNone_eq_false_iff.2 (Option.isSome_iff_ne_none.2 hheld)
  simp only [arriveResult, hj, hnone, Bool.and_false, Bool.false_eq_true, if_false]

/-- Settles O39: a message that is taken has its effect in the state `received`, which differs from the one before in what the
links hold alone. -/
theorem collectivesAndVotesArrive : Obligations.CollectivesAndVotesArrive := by
  unfold Obligations.CollectivesAndVotesArrive
  intro s m p acked
  refine ⟨fun ht hnone => ?early, fun r j ht hfor hr hj hopen hheader => ?header, fun q j hj hrank =>
    ⟨fun ht hself => ?vote, fun ht hseen hheld => ?result, fun ht hheld => ?late⟩⟩
  case early =>
    have hwaits := arriveColl_early ((collFor_of_reqs (received_reqs s .collective m) _ _ m).trans hnone) p.rank
    refine ⟨_, exec_acked rfl ht (effectOf_collective hwaits) rfl, ?_, ?_⟩
    · exact (changes_received s .collective m).setLinks (by decide) _
    · exact congrArg (· ++ [m]) (received_early s .collective m)
  case header =>
    have hreqs := received_reqs s .collective m
    have hr' : reqOf (received s .collective m) p.part r.pos = some r := (reqOf_of_reqs hreqs _ _).trans hr
    have hj' : jobOf (received s .collective m) p.part r.jobCtx = some j := by
      unfold jobOf
      rw [received_part]
      exact hj
    have hfails := (arriveColl_posted ((collFor_of_reqs hreqs _ _ m).trans hfor) p.rank).trans
      (takeColl_header hr' hj' hopen hheader p.rank)
    obtain ⟨hreq, hstep, hexpects⟩ := failColl_fails hr' hopen (collOf j r) stDescriptor 0x04
    exact ⟨_, _, exec_acked rfl ht (effectOf_collective hfails) hexpects, hreq, rfl, rfl, hstep⟩
  case vote =>
    have hvote := arriveVote_held ((received_trainingJob s .vote m).trans hj)
      ((congrArg Sched.selfTimed (received_sched s .vote m)).trans hself) p.rank (voteOf m.data)
    refine ⟨_, exec_acked rfl ht (effectOf_vote hrank hvote) rfl, ?_, ?_⟩
    · exact ((changes_received s .vote m).mono (by decide)).setSched (by decide) _
    · rw [received_sched]
  case result =>
    have hsched := received_sched s .result m
    have hresult := arriveResult_awaited ((received_trainingJob s .result m).trans hj)
      ((congrArg Sched.tollSeen hsched).trans hseen) ((congrArg Sched.held hsched).trans hheld) (resultOf (ofLe (m.data.take 1)))
    obtain ⟨hheld', hexpects⟩ := holdResult_held (received s .result m) q j (resultOf (ofLe (m.data.take 1)))
    exact ⟨_, exec_acked rfl ht (effectOf_result hrank hresult) hexpects, hheld'⟩
  case late =>
    have hlate := arriveResult_late ((received_trainingJob s .result m).trans hj)
      (fun h => hheld ((congrArg Sched.held (received_sched s .result m)).symm.trans h)) (resultOf (ofLe (m.data.take 1)))
    exact ⟨_, exec_acked rfl ht (effectOf_result hrank hlate) rfl, changes_received s .result m⟩

end Sys2Proof.Machine

/-! Failures of the reference (R345–R347). -/

namespace Sys2Proof.Machine

variable (s : State)

/-! ### Operations of the pages and of the bell -/

theorem onlyPage_count (pn k n : Nat) : OnlyPage pn s (s.count pn k n) :=
  ⟨changes_of (within_State_count at0 _ _ _ _ (within_refl _ s)), fun _ hj => State.page_count_ne s pn k n _ hj⟩

/-- A trap of no core is counted nowhere. -/
theorem raiseTrap_counter_noCore (pn : Nat) {t : TrapInfo} (h : t.core = none) (j k : Nat) :
    (raiseTrap s pn t).counter j k = s.counter j k :=
  raiseTrap_counter s pn t j k fun g hg => by rw [h] at hg; cases hg

@[simp] theorem raiseAlert_bell (b : Nat) : (raiseAlert s b).bell = s.bell := setEvent_bell _ _ _

@[simp] theorem raiseAlert_alert (b : Nat) : (raiseAlert s b).power.alert = s.power.alert ||| BitVec.ofNat 8 (2 ^ b) :=
  congrArg Power.alert (setEvent_power _ _ _)

@[simp] theorem raiseAlert_counter (b pn k : Nat) : (raiseAlert s b).counter pn k = s.counter pn k :=
  setEvent_counter _ _ _ _ _

@[simp] theorem raiseAlert_traps (b : Nat) : (raiseAlert s b).crier.pending = s.crier.pending := setEvent_traps _ _ _

/-- The bell unit replaced. -/
def State.setBell (b : Bell) : State := { s with bell := b }

@[simp] theorem State.setBell_bell (b : Bell) : (s.setBell b).bell = b := rfl
@[simp] theorem State.setBell_counter (b : Bell) (pn k : Nat) : (s.setBell b).counter pn k = s.counter pn k := rfl
@[simp] theorem State.setBell_power (b : Bell) : (s.setBell b).power = s.power := rfl
@[simp] theorem State.setBell_crier (b : Bell) : (s.setBell b).crier = s.crier := rfl

theorem changes_setBell (b : Bell) : Changes [.bell] s (s.setBell b) :=
  changes_of { within_refl (· ∈ [Piece.bell]) s with bell := keep_of at0 }

/-! ### The almanacs run by themselves (R349, R362) -/

/-- Of `enterSelfTimed`, what the events of the dies leave. -/
theorem enterSelfTimed_view {γ : Type} (view : State → γ) (hview : ∀ (t : State) d, view (setEvent t (pnAlm d) 3) = view t) :
    view (enterSelfTimed s) = view { s with
      bell := { s.bell with selfTimed := true, relocked := false },
      dies := s.dies.map fun d => (d.1, { d.2 with armed := d.2.armed.filter fun a => decide (a.1 ≤ s.bell.count) }) } :=
  foldl_view view hview _ _

@[simp] theorem enterSelfTimed_bell : (enterSelfTimed s).bell = { s.bell with selfTimed := true, relocked := false } :=
  enterSelfTimed_view s State.bell fun t _ => setEvent_bell t _ _

@[simp] theorem enterSelfTimed_power : (enterSelfTimed s).power = s.power :=
  enterSelfTimed_view s State.power fun t _ => setEvent_power t _ _

@[simp] theorem enterSelfTimed_counter (pn k : Nat) : (enterSelfTimed s).counter pn k = s.counter pn k :=
  enterSelfTimed_view s (State.counter · pn k) fun t _ => setEvent_counter t _ _ _ _

@[simp] theorem enterSelfTimed_traps : (enterSelfTimed s).crier.pending = s.crier.pending :=
  enterSelfTimed_view s (fun t => t.crier.pending) fun t _ => setEvent_traps t _ _

/-! ### The bell runs on in holdover (R346, R347) -/

/-- From `s` to `t` the bell has lost its reference for a cause: it is unlocked and in holdover, with the trap and the alert. -/
def BellLost (s t : State) (code : Nat) : Prop :=
  Changes [.pages, .dies, .bell, .crier, .power] s t ∧ t.bell.locked = false ∧ t.bell.holdover = true ∧
    t.bell.selfTimed = true ∧ t.bell.cause = BitVec.ofNat 2 code ∧ t.bell.count = s.bell.count ∧
    t.power.alert = s.power.alert ||| 0x40 ∧ t.counter pnBell 0 = s.counter pnBell 0 + 1 ∧
    ∃ tr, t.crier.pending = s.crier.pending ++ [tr] ∧ tr.rings = [4, 0, 1, 2, 3]

variable {s} in
theorem unlock_locked (h : s.bell.locked = true) (cause : Nat) (ppm : BitVec 16) :
    unlock s cause ppm = raiseTrap (raiseAlert (setEvent (((enterSelfTimed s).setBell { (enterSelfTimed s).bell with
        locked := false, holdover := true, goodWindows := 0, pauseLeft := 0, cause := BitVec.ofNat 2 cause }).count pnBell 0 1)
      pnBell 0) 6) pnBell { code := trapBellUnlock, level := 2, detail := fields [(0, cause), (16, ppm.toNat)] } :=
  if_neg (by rw [h]; exact Bool.false_ne_true)

theorem unlock_of_unlocked {s : State} (h : s.bell.locked = false) (cause : Nat) (ppm : BitVec 16) :
    unlock s cause ppm = s := if_pos (by rw [h]; rfl)

/-- A locked unit, as it has measured, whose reference has failed. -/
theorem unlock_lost {b : Bell} (hlocked : b.locked = true) (hcount : b.count = s.bell.count) (cause : Nat) (ppm : BitVec 16) :
    BellLost s (unlock (s.setBell b) cause ppm) cause := by
  have hchanges := ((changes_setBell s b).mono (by decide)).trans
    (changes_of (within_unlock (S := (· ∈ [Piece.pages, .dies, .bell, .crier, .power])) at0 at1 at2 at3 at4 _ cause ppm
      (within_refl _ (s.setBell b))))
  refine ⟨hchanges, ?_⟩
  rw [unlock_locked (s := s.setBell b) hlocked]
  refine ⟨by simp, by simp, by simp, by simp, by simpa using hcount, by simp, ?_, _,
    (congrArg Crier.pending (raiseTrap_crier _ _ _)).trans (congrArg (· ++ _) ?_), rfl⟩
  · rw [raiseTrap_counter_noCore _ _ rfl]
    simp [counter_count]
  · simp [setEvent_traps]

/-! ### The commands -/

section
variable {s} {ppm : Int}

/-- Without power or in reset nothing is measured (R501, R509). -/
theorem measures_iff : (s.power.modRst || !domOn s bootDomain) = false ↔
    s.power.modRst = false ∧ domOn s bootDomain = true := by simp

theorem execMeasurementWindow_good (hruns : s.power.modRst = false ∧ domOn s bootDomain = true)
    (hlo : -200 ≤ ppm) (hhi : ppm ≤ 200) : execMeasurementWindow ppm s =
      .next (s.setBell { s.bell with ppm := BitVec.ofInt 16 ppm, goodWindows := s.bell.goodWindows + 1 }) := by
  simp only [execMeasurementWindow, measures_iff.2 hruns, hlo, hhi, decide_true, Bool.and_self, if_true, Bool.false_eq_true,
    if_false]
  rfl

theorem execMeasurementWindow_beyond (hruns : s.power.modRst = false ∧ domOn s bootDomain = true)
    (hbeyond : ppm < -200 ∨ 200 < ppm) : execMeasurementWindow ppm s =
      .next (unlock (s.setBell { s.bell with ppm := BitVec.ofInt 16 ppm, goodWindows := 0 }) 2 (BitVec.ofInt 16 ppm)) := by
  have hgood : (decide (-200 ≤ ppm) && decide (ppm ≤ 200)) = false := by
    simp only [Bool.and_eq_false_iff, decide_eq_false_iff_not]
    omega
  simp only [execMeasurementWindow, measures_iff.2 hruns, hgood, Bool.false_eq_true, if_false]
  rfl

theorem execGlitch_runs (hruns : s.power.modRst = false ∧ domOn s bootDomain = true) :
    execGlitch s = .next (s.count pnBell 3 1) :=
  congrArg _ (if_neg (by rw [measures_iff.2 hruns]; exact Bool.false_ne_true))

theorem execBellUnlock_locked (h : s.bell.locked = true) (cause : RefFault) (ppm : Int) :
    ∃ w, execBellUnlock cause ppm s = .next (unlock (s.setBell { s.bell with ppm := w }) (causeCode cause) w) :=
  ⟨_, congrArg _ (if_pos h)⟩

end

/-- Settles O33: each measurement by whether it is within 200 ppm and whether the unit is locked; what fails the reference of
a locked unit is `unlock`. -/
theorem referenceFails : Obligations.ReferenceFails := by
  unfold Obligations.ReferenceFails
  intro s cause ppm runs lost
  refine ⟨fun hruns hlo hhi => ?good, fun hruns hbeyond hlocked => ?beyond, fun hruns hbeyond hlocked => ?unlocked,
    fun hlocked => ?fault, fun hlocked => ?ignored, fun hruns => ?glitch, fun hoff => ?off⟩
  case good => exact ⟨_, execMeasurementWindow_good hruns hlo hhi, changes_setBell s _, rfl⟩
  case beyond =>
    exact ⟨_, execMeasurementWindow_beyond hruns hbeyond,
      unlock_lost s (b := { s.bell with ppm := BitVec.ofInt 16 ppm, goodWindows := 0 }) hlocked rfl 2 _⟩
  case unlocked =>
    refine ⟨_, (execMeasurementWindow_beyond hruns hbeyond).trans (congrArg _ (unlock_of_unlocked ?_ _ _)),
      changes_setBell s _, rfl⟩
    exact hlocked
  case fault =>
    obtain ⟨w, hexec⟩ := execBellUnlock_locked hlocked cause ppm
    exact ⟨_, hexec, unlock_lost s (b := { s.bell with ppm := w }) hlocked rfl _ _⟩
  case ignored => exact congrArg _ (if_neg (by rw [hlocked]; exact Bool.false_ne_true))
  case glitch =>
    exact ⟨_, execGlitch_runs hruns, onlyPage_count s pnBell 3 1, State.counter_count_same s pnBell 3 1⟩
  case off =>
    have hstands : (s.power.modRst || !domOn s bootDomain) = true := by
      rw [← Bool.not_eq_false, measures_iff]
      exact hoff
    exact ⟨congrArg _ (if_pos hstands), congrArg _ (if_pos hstands)⟩

end Sys2Proof.Machine

/-! Misses of almanac entries, and the arming of a BOUNDARY (R349, R358, R361). -/

namespace Sys2Proof.Machine

variable (s : State)

/-! ### A miss (R358) -/

@[simp] theorem State.counter_setReg (pn off : Nat) (w : Word) (j k : Nat) : (s.setReg pn off w).counter j k = s.counter j k := by
  by_cases h : j = pn
  · subst h; simp only [State.counter, State.setReg, State.page_modPage]
  · simp only [State.counter, State.page_setReg_ne s pn off j w h]

@[simp] theorem State.evtStatus_setReg (pn off : Nat) (w : Word) (j : Nat) :
    ((s.setReg pn off w).page j).evtStatus = (s.page j).evtStatus := by
  by_cases h : j = pn
  · subst h; simp only [State.setReg, State.page_modPage]
  · rw [State.page_setReg_ne s pn off j w h]

section
variable (d k : Nat) (e : Entry) (deadline : Nat) (always : Bool)

theorem changes_noteMiss : Changes [.pages, .crier] s (noteMiss s d k e deadline always) :=
  changes_of (within_noteMiss at0 at1 _ _ _ _ _ _ (within_refl _ s))

@[simp] theorem noteMiss_die (j : Nat) : (noteMiss s d k e deadline always).die j = s.die j :=
  congrArg (mget Die.init · j) (changes_noteMiss s d k e deadline always .dies (by decide))

theorem noteMiss_counter (pn j : Nat) : (noteMiss s d k e deadline always).counter pn j = (s.count (pnAlm d) 1 1).counter pn j := by
  unfold noteMiss
  extract_lets alm s1 off s2 s3
  have h2 : s2.counter pn j = s1.counter pn j := State.counter_setReg _ _ _ _ _ _
  have h3 : s3.counter pn j = s2.counter pn j := by
    unfold s3
    split
    · exact raiseTrap_counter_noCore _ _ rfl _ _
    · rfl
  rw [setEvent_counter, h3, h2]

theorem noteMiss_evtStatus :
    ((noteMiss s d k e deadline always).page (pnAlm d)).evtStatus = (s.page (pnAlm d)).evtStatus ||| 1 := by
  unfold noteMiss
  extract_lets alm s1 off s2 s3
  have h3 : (s3.page alm).evtStatus = (s.page alm).evtStatus := by
    unfold s3
    split <;> simp [s2, s1]
  rw [setEvent_page, h3]
  rfl

/-- The first miss since software cleared MISS raises DEADLINE_MISS. -/
theorem noteMiss_queued (h : (s.page (pnAlm d)).evtStatus.getLsbD 0 = false) :
    ∃ tr : Trap, (noteMiss s d k e deadline always).crier.pending = s.crier.pending ++ [tr] ∧ tr.rings = [ringPart k] := by
  unfold noteMiss
  extract_lets alm s1 off s2 s3
  have hraises : (always || !(s.page alm).evtStatus.getLsbD 0) = true := by rw [h]; exact Bool.or_true _
  rw [setEvent_traps, show s3 = _ from if_pos hraises]
  exact raiseTrap_queued s2 alm _

end

/-! ### The arming of a BOUNDARY (R361) -/

/-- A die is armed to a time, for an entry of a ring. -/
def armDie (d : Nat) (at_ k pos : Nat) : State := s.modDie d fun v => { v with armed := some (BitVec.ofNat 64 at_, k, pos) }

theorem armDie_die (d at_ k pos : Nat) : (armDie s d at_ k pos).die d = { s.die d with armed := some (BitVec.ofNat 64 at_, k, pos) } :=
  State.die_modDie _ _ _

theorem armDie_die_ne {d j : Nat} (at_ k pos : Nat) (h : j ≠ d) : (armDie s d at_ k pos).die j = s.die j :=
  State.die_modDie_ne _ _ _ _ h

theorem changes_armDie (d at_ k pos : Nat) : Changes [.dies] s (armDie s d at_ k pos) :=
  changes_of (within_State_modDie at0 _ _ _ (within_refl _ s))

/-- A BOUNDARY that is armed late is a miss, with BOUNDARY_LATE. -/
def armLate (d k : Nat) (e : Entry) : State :=
  setEvent (noteMiss (armDie s d (s.bell.count.toNat + 256) k e.pos) d k e e.deadline false) (pnAlm d) 2

theorem changes_armLate (d k : Nat) (e : Entry) : Changes [.pages, .dies, .crier] s (armLate s d k e) :=
  (((changes_armDie s d _ k e.pos).mono (by decide)).trans ((changes_noteMiss _ d k e e.deadline false).mono (by decide))).trans
    (changes_of (within_setEvent at0 at2 _ _ _ (within_refl _ _)))

theorem armLate_die (d k j : Nat) (e : Entry) :
    (armLate s d k e).die j = (armDie s d (s.bell.count.toNat + 256) k e.pos).die j := by
  unfold armLate
  rw [setEvent_die, noteMiss_die]

theorem armLate_counter (d k : Nat) (e : Entry) :
    (armLate s d k e).counter (pnAlm d) 1 = s.counter (pnAlm d) 1 + 1 := by
  unfold armLate
  rw [setEvent_counter, noteMiss_counter]
  exact State.counter_count_same _ _ _ _

theorem armLate_evtStatus (d k : Nat) (e : Entry) :
    ((armLate s d k e).page (pnAlm d)).evtStatus = (s.page (pnAlm d)).evtStatus ||| 5 := by
  unfold armLate
  rw [setEvent_page, noteMiss_evtStatus, BitVec.or_assoc]
  rfl

section
variable {s} {d k : Nat} {e : Entry} (he : armable s d k = some e) (ha : (s.die d).armed = none)
include he ha

theorem execBoundaryArm_selfTimed (hself : ringSelfTimed s k = true) :
    execBoundaryArm d k s = .next (armDie s d (s.bell.count.toNat + 1) k e.pos) := by
  simp only [execBoundaryArm, he, ha, hself, if_true]
  rfl

theorem execBoundaryArm_timely (hself : ringSelfTimed s k = false) (ht : s.bell.count.toNat + 256 ≤ e.time) :
    execBoundaryArm d k s = .next (armDie s d e.time k e.pos) := by
  simp only [execBoundaryArm, he, ha, hself, ht, if_true, Bool.false_eq_true, if_false]
  rfl

theorem execBoundaryArm_late (hself : ringSelfTimed s k = false) (ht : ¬ s.bell.count.toNat + 256 ≤ e.time) :
    execBoundaryArm d k s = .next (armLate s d k e) := by
  simp only [execBoundaryArm, he, ha, hself, ht, Bool.false_eq_true, if_false]
  rfl

end

/-- Settles O27: by whether the ring is self-timed, and whether the entry's time is 256 ticks away. -/
theorem boundaryArmed : Obligations.BoundaryArmed := by
  unfold Obligations.BoundaryArmed
  intro s die ring e he ha now self_
  by_cases hself : ringSelfTimed s ring = true
  · refine ⟨_, execBoundaryArm_selfTimed he ha hself, (changes_armDie s die _ _ _).mono (by decide),
      fun j => armDie_die_ne s _ _ _, ?_, fun _ => ⟨rfl, rfl⟩, fun h => absurd (hself.symm.trans h) (by decide)⟩
    simp only [armDie_die, self_, hself, if_true, now]
  · have hself' : ringSelfTimed s ring = false := by simpa using hself
    by_cases ht : s.bell.count.toNat + 256 ≤ e.time
    · refine ⟨_, execBoundaryArm_timely he ha hself' ht, (changes_armDie s die _ _ _).mono (by decide),
        fun j => armDie_die_ne s _ _ _, ?_, fun _ => ⟨rfl, rfl⟩, fun _ h => absurd ht (Nat.not_le.2 h)⟩
      simp only [armDie_die, self_, hself', ht, if_true, Bool.false_eq_true, if_false, now]
    · refine ⟨_, execBoundaryArm_late he ha hself' ht, changes_armLate s die ring e,
        fun j h => (armLate_die s die ring j e).trans (armDie_die_ne s _ _ _ h), ?_, fun h => ?_,
        fun _ _ => ⟨armLate_counter s die ring e, armLate_evtStatus s die ring e⟩⟩
      · rw [armLate_die, armDie_die]
        simp only [self_, hself', ht, Bool.false_eq_true, if_false, now]
      · exact absurd h (by simp [self_, hself', now, ht])

end Sys2Proof.Machine

/-! What reading and storing of memory rests on, besides the bytes' own places (R190, R372, R397, R416, R461). -/

namespace Sys2Proof.Machine

/-! ### The views -/

/-- A context but for whether its step has failed. -/
def Ctx.held (c : Ctx) : Ctx := { c with stepFailed := false }

/-- What the bytes that are read rest on, and where they lie: memory with the keys of its bursts, jobs, sealed partitions,
contexts, and the register words but those of the almanac rings and their like. -/
structure ReadView where
  regs        : Nat → Nat → Word
  mem         : List Host.Cell
  burstKey    : SMap Nat
  hbmStale    : List (Nat × Nat × Nat)
  jobs        : Nat → List Job
  sealedParts : Nat → Option SealedPart
  ctxs        : Nat → Nat → Ctx

def State.reads (s : State) : ReadView where
  regs pn off   := if off < 0x200 ∨ pn = pnSeal then s.reg pn off else 0
  mem           := s.mem
  burstKey      := s.burstKey
  hbmStale      := s.hbmStale
  jobs p        := (s.part p).jobs
  sealedParts p := (s.part p).sealedPart
  ctxs p x      := ((s.part p).ctx x).held

/-- The units with errors, and the HBM controllers (R372, R395, R407). -/
structure ErrorView where
  bad     : List Nat
  softBad : List Nat
  hbmErr  : SMap (BitVec 36)
  hbmc    : Nat → Nat → Hbmc

def State.errors (s : State) : ErrorView where
  bad     := s.bad
  softBad := s.softBad
  hbmErr  := s.hbmErr
  hbmc    := s.hbmc

/-- All that reads and stores rest on. -/
def State.storage (s : State) : ReadView × ErrorView := (s.reads, s.errors)

section
variable {s t : State}

theorem reads_of_storage (h : t.storage = s.storage) : t.reads = s.reads := congrArg Prod.fst h
theorem errors_of_storage (h : t.storage = s.storage) : t.errors = s.errors := congrArg Prod.snd h

/-! ### Reads that rest on the view -/

section
variable (h : t.reads = s.reads)
include h

theorem reg_of_reads {pn off : Nat} (ho : off < 0x200 ∨ pn = pnSeal) : t.reg pn off = s.reg pn off := by
  have hregs := congrFun (congrFun (congrArg ReadView.regs h) pn) off
  simpa only [State.reads, if_pos ho] using hregs

theorem regN_of_reads {pn off : Nat} (ho : off < 0x200 ∨ pn = pnSeal := by omega) : t.regN pn off = s.regN pn off :=
  congrArg BitVec.toNat (reg_of_reads h ho)

theorem jobs_of_reads (p : Nat) : (t.part p).jobs = (s.part p).jobs := congrFun (congrArg ReadView.jobs h) p

theorem sealedPart_of_reads (p : Nat) : (t.part p).sealedPart = (s.part p).sealedPart :=
  congrFun (congrArg ReadView.sealedParts h) p

theorem ctx_of_reads (p x : Nat) : ∃ b, (t.part p).ctx x = { (s.part p).ctx x with stepFailed := b } := by
  have hctx : ((t.part p).ctx x).held = ((s.part p).ctx x).held := congrFun (congrFun (congrArg ReadView.ctxs h) p) x
  exact ⟨((t.part p).ctx x).stepFailed, congrArg (fun c : Ctx => { c with stepFailed := ((t.part p).ctx x).stepFailed }) hctx⟩

theorem memByte_of_reads : memByte t = memByte s := by
  funext a
  exact congrArg (fun v : ReadView => mget 0 v.mem a) h

theorem trainingPart_of_reads : trainingPart t = trainingPart s := by
  unfold trainingPart
  simp only [jobs_of_reads h]

theorem jobOf_of_reads : jobOf t = jobOf s := by
  funext p x
  unfold jobOf
  rw [jobs_of_reads h]

theorem isSealed_of_reads : isSealed t = isSealed s := by
  funext p
  unfold isSealed
  rw [sealedPart_of_reads h]

theorem quadsOf_of_reads : quadsOf t = quadsOf s := funext fun _ => regN_of_reads h

theorem partOfCore_of_reads : partOfCore t = partOfCore s := by
  delta partOfCore partOfQuad
  rw [quadsOf_of_reads h]

theorem hubGrant_of_reads : hubGrant t = hubGrant s := by
  funext p
  unfold hubGrant
  rw [regN_of_reads h, regN_of_reads h]

theorem hbmRegion_of_reads : hbmRegion t = hbmRegion s := by
  funext p
  unfold hbmRegion
  rw [regN_of_reads h, regN_of_reads h]

theorem sealWindows_of_reads : sealWindows t = sealWindows s := by
  have hregs : t.regN pnSeal = s.regN pnSeal := funext fun _ => regN_of_reads h (.inr rfl)
  delta sealWindows outsideAll
  rw [isSealed_of_reads h, hubGrant_of_reads h, hregs]

theorem ctxPage_of_reads : ctxPage t = ctxPage s := by
  funext p x
  unfold ctxPage State.regAddr
  rw [regN_of_reads h, regN_of_reads h]

/-! #### Grants and places -/

theorem granaryEntry_of_reads : granaryEntry t = granaryEntry s := by
  delta granaryEntry
  rw [jobOf_of_reads h]

theorem inStage_of_reads : inStage t = inStage s := by
  funext w off n
  obtain ⟨b, hb⟩ := ctx_of_reads h w.part w.ctx
  unfold inStage
  rw [hb]

theorem inScratch_of_reads : inScratch t = inScratch s := by
  funext w off n
  obtain ⟨b, hb⟩ := ctx_of_reads h w.part w.ctx
  unfold inScratch
  rw [hb]

theorem inFrozenBank_of_reads : inFrozenBank t = inFrozenBank s := by
  funext w a n
  obtain ⟨b, hb⟩ := ctx_of_reads h w.part w.ctx
  unfold inFrozenBank
  rw [hb, jobOf_of_reads h]

theorem inHubGrant_of_reads : inHubGrant t = inHubGrant s := by
  delta inHubGrant
  rw [hubGrant_of_reads h]

theorem inOwnLent_of_reads : inOwnLent t = inOwnLent s := by
  funext p a n
  unfold inOwnLent
  rw [jobs_of_reads h]

theorem inGrants_of_reads : inGrants t = inGrants s := by
  delta inGrants inIntake inRelease
  rw [inStage_of_reads h, inScratch_of_reads h, partOfCore_of_reads h, inHubGrant_of_reads h, sealWindows_of_reads h,
    hbmRegion_of_reads h, granaryEntry_of_reads h, inOwnLent_of_reads h]

theorem granted_of_reads : granted t = granted s := by
  delta granted inFootprint
  rw [inGrants_of_reads h, inFrozenBank_of_reads h, jobOf_of_reads h, inHubGrant_of_reads h, hubGrant_of_reads h]

theorem keyOf_of_reads : keyOf t = keyOf s := by
  delta keyOf
  rw [hbmRegion_of_reads h, granaryEntry_of_reads h, jobOf_of_reads h]

theorem entryGranted_of_reads : entryGranted t = entryGranted s := by
  delta entryGranted
  rw [granted_of_reads h, partOfCore_of_reads h, inScratch_of_reads h, inStage_of_reads h]

theorem entryKey_of_reads : entryKey t = entryKey s := by
  delta entryKey
  rw [keyOf_of_reads h]

/-! #### Bytes -/

/-- Shown of the functions, as for `ReadsAlike`: at an address the kernel would run the search among the regions. -/
theorem hbmKey_of_reads : hbmKey t = hbmKey s := by
  have hsealed : (fun p => (t.part p).sealedPart.elim 0 SealedPart.keyId) = fun p => (s.part p).sealedPart.elim 0 SealedPart.keyId :=
    funext fun p => by rw [sealedPart_of_reads h]
  delta hbmKey
  rw [hsealed, hbmRegion_of_reads h]

theorem storedKey_of_reads : storedKey t = storedKey s := by
  funext b
  exact congrArg (fun v : ReadView => mget
    (((v.hbmStale.find? fun e => decide (e.1 ≤ b) && decide (b < e.2.1)).map fun e => e.2.2).getD 0) v.burstKey b) h

theorem viewByte_of_reads : viewByte t = viewByte s := by
  delta viewByte rawBurst memRead
  rw [storedKey_of_reads h, hbmKey_of_reads h, memByte_of_reads h]

theorem viewBytes_of_reads : viewBytes t = viewBytes s := by
  delta viewBytes
  rw [viewByte_of_reads h]

theorem viewWords_of_reads : viewWords t = viewWords s := by
  delta viewWords viewNat
  rw [viewBytes_of_reads h]

theorem semKey_of_reads : semKey t = semKey s := by
  delta semKey
  rw [ctxPage_of_reads h]

theorem semValue_of_reads : semValue t = semValue s := by
  delta semValue viewNat
  rw [viewBytes_of_reads h, semKey_of_reads h]

theorem gateMet_of_reads : gateMet t = gateMet s := by
  delta gateMet
  rw [semValue_of_reads h]

/-! ### Stores -/

theorem lockedBlocks_of_reads : lockedBlocks t = lockedBlocks s := by
  have hphase (p x : Nat) : ((t.part p).ctx x).phase = ((s.part p).ctx x).phase := by
    obtain ⟨b, hb⟩ := ctx_of_reads h p x
    rw [hb]
  funext a n
  unfold lockedBlocks
  simp only [hphase, ctxPage_of_reads h]

theorem meetsRelease_of_reads : meetsRelease t = meetsRelease s := by
  delta meetsRelease anySealed
  rw [isSealed_of_reads h, sealWindows_of_reads h]

/-- A plain store stays plain, where no unit of its tier has come to have an error. -/
theorem plainStore_of_reads {a n : Nat} (hclean : cleanTier s (tierOf a) = true → cleanTier t (tierOf a) = true)
    (hplain : PlainStore s a n) : PlainStore t a n := by
  have hstale : t.hbmStale = s.hbmStale := congrArg ReadView.hbmStale h
  have hkeys : t.burstKey = s.burstKey := congrArg ReadView.burstKey h
  obtain ⟨hspan, hblocks⟩ := hplain
  unfold PlainStore
  rw [lockedBlocks_of_reads h, meetsRelease_of_reads h]
  refine ⟨?_, hblocks⟩
  unfold plainSpan anySealed at hspan ⊢
  rw [isSealed_of_reads h, hstale, hkeys]
  obtain ⟨hc, hrest⟩ := Bool.and_eq_true_iff.1 hspan
  exact Bool.and_eq_true_iff.2 ⟨hclean hc, hrest⟩

end

/-! ### Units with errors -/

theorem cleanTier_of_errors (h : t.errors = s.errors) : cleanTier t = cleanTier s := by
  have hbad : t.bad = s.bad := congrArg ErrorView.bad h
  have hsoft : t.softBad = s.softBad := congrArg ErrorView.softBad h
  have herr : t.hbmErr = s.hbmErr := congrArg ErrorView.hbmErr h
  have hc : t.hbmc = s.hbmc := congrArg ErrorView.hbmc h
  delta cleanTier noneFailed
  rw [hbad, hsoft, herr, hc]

theorem badUnit_of_errors (h : t.errors = s.errors) : badUnit t = badUnit s := by
  have hbad : t.bad = s.bad := congrArg ErrorView.bad h
  have herr : t.hbmErr = s.hbmErr := congrArg ErrorView.hbmErr h
  have hc : t.hbmc = s.hbmc := congrArg ErrorView.hbmc h
  delta badUnit unitBad hbmChFailed burstState hbmBurst hbmPlace healthyPcs slotTable pcExcluded noneExcluded
  rw [cleanTier_of_errors h, hbad, herr, hc]

/-- A span of a tier without errors can be read. -/
theorem badUnit_of_cleanTier {a : Nat} (h : cleanTier s (tierOf a) = true) (n : Nat) : badUnit s a n = none := if_pos h

theorem PlainStore.cleanTier {a n : Nat} (h : PlainStore s a n) : cleanTier s (tierOf a) = true :=
  (Bool.and_eq_true_iff.1 h.1).1

theorem plainStore_of_storage (h : t.storage = s.storage) {a n : Nat} (hplain : PlainStore s a n) : PlainStore t a n :=
  plainStore_of_reads (reads_of_storage h) (by rw [cleanTier_of_errors (errors_of_storage h)]; exact id) hplain

end

end Sys2Proof.Machine

/-! The operations of the almanac that leave what reading and storing rest on (R350, R354, R357, R358, R543). -/

namespace Sys2Proof.Machine

variable (s : State)

/-! ### Operations of the state -/

/-- The parts that reading and storing do not rest on. -/
abbrev Elsewhere : List Piece :=
  [.queue, .free, .out, .tags, .pages, .cores, .d2d, .bell, .sched, .crier, .links, .sealU, .power, .boot, .flash, .fuses, .hosts]

section
variable {s} {t : State}

theorem reads_of_changes (h : Changes (.softBad :: .dies :: Elsewhere) s t)
    (hregs : ∀ pn off, off < 0x200 ∨ pn = pnSeal → t.reg pn off = s.reg pn off) : t.reads = s.reads := by
  have hmem : t.mem = s.mem := h .mem (by decide)
  have hkeys : t.burstKey = s.burstKey := h .burstKey (by decide)
  have hstale : t.hbmStale = s.hbmStale := h .hbmStale (by decide)
  have hparts : t.parts = s.parts := h .parts (by decide)
  have hwords : (fun pn off => if off < 0x200 ∨ pn = pnSeal then t.reg pn off else 0) =
      fun pn off => if off < 0x200 ∨ pn = pnSeal then s.reg pn off else 0 := by
    funext pn off
    split
    · exact hregs pn off ‹_›
    · rfl
  unfold State.reads State.part
  rw [hmem, hkeys, hstale, hparts, hwords]

theorem errors_of_changes (h : Changes Elsewhere s t) : t.errors = s.errors := by
  have hbad : t.bad = s.bad := h .bad (by decide)
  have hsoft : t.softBad = s.softBad := h .softBad (by decide)
  have herr : t.hbmErr = s.hbmErr := h .hbmErr (by decide)
  have hdies : t.dies = s.dies := h .dies (by decide)
  have hhbmc : t.hbmc = s.hbmc := by
    delta State.hbmc State.die
    rw [hdies]
  unfold State.errors
  rw [hbad, hsoft, herr, hhbmc]

theorem storage_of_changes (h : Changes Elsewhere s t)
    (hregs : ∀ pn off, off < 0x200 ∨ pn = pnSeal → t.reg pn off = s.reg pn off) : t.storage = s.storage :=
  Prod.ext (reads_of_changes (h.mono (by decide)) hregs) (errors_of_changes h)

end

@[simp] theorem storage_count (pn k n : Nat) : (s.count pn k n).storage = s.storage :=
  storage_of_changes ((onlyPage_count s pn k n).1.mono (by decide)) fun _ _ _ => State.reg_count _ _ _ _ _ _

@[simp] theorem storage_setEvent (pn b : Nat) : (setEvent s pn b).storage = s.storage :=
  storage_of_changes
    ((changes_of (within_setEvent (S := (· ∈ [Piece.pages, .crier])) at0 at1 _ _ _ (within_refl _ s))).mono (by decide))
    fun _ _ _ => setEvent_reg _ _ _ _ _

@[simp] theorem storage_raiseTrap (pn : Nat) (v : TrapInfo) : (raiseTrap s pn v).storage = s.storage :=
  storage_of_changes
    ((changes_of (within_raiseTrap (S := (· ∈ [Piece.pages, .crier])) at0 at1 _ _ _ (within_refl _ s))).mono (by decide))
    fun _ _ _ => raiseTrap_reg _ _ _ _ _

@[simp] theorem storage_disarm (pn : Nat) : (disarm s pn).storage = s.storage :=
  storage_of_changes ((onlyPage_disarm s pn).1.mono (by decide)) fun _ _ _ => disarm_reg _ _ _ _

@[simp] theorem storage_setPeer (c : Nat) (p : Peer) : (s.setPeer c p).storage = s.storage := rfl

@[simp] theorem storage_setBell (b : Bell) : (s.setBell b).storage = s.storage := rfl

@[simp] theorem storage_stopTransfer (d k pos : Nat) : (stopTransfer s d k pos).storage = s.storage := rfl

/-- A die that changes in its almanac alone. -/
theorem storage_modDie (d : Nat) {f : Die → Die} (h0 : ∀ v, (f v).hbm0 = v.hbm0) (h1 : ∀ v, (f v).hbm1 = v.hbm1) :
    (s.modDie d f).storage = s.storage := by
  have hhbmc : (s.modDie d f).hbmc = s.hbmc := by
    funext j k
    unfold State.hbmc
    by_cases h : j = d
    · subst h
      rw [State.die_modDie]
      unfold Die.hbmc
      rw [h0, h1]
    · rw [State.die_modDie_ne _ _ _ _ h]
  refine Prod.ext rfl ?_
  unfold State.storage State.errors
  rw [hhbmc]
  rfl

@[simp] theorem storage_setRing (d k : Nat) (f : Die → AlmRing) : (s.modDie d fun v => v.setRing k (f v)).storage = s.storage :=
  storage_modDie s d (fun _ => rfl) fun _ => rfl

@[simp] theorem storage_modEntry (d k pos : Nat) (f : Entry → Entry) : (modEntry s d k pos f).storage = s.storage :=
  storage_setRing s d k _

@[simp] theorem storage_slabTraffic (a n : Nat) (write vertical : Bool) : (slabTraffic s a n write vertical).storage = s.storage := by
  unfold slabTraffic
  split <;> simp

theorem failStep_part (p x q : Nat) : ∃ l, (failStep s p x).part q = { s.part q with ctxs := l } := by
  have hctx : ∃ l, (s.modCtx p x fun c => { c with stepFailed := true }).part q = { s.part q with ctxs := l } := by
    by_cases h : q = p
    · subst h; exact ⟨_, State.part_modPart _ _ _⟩
    · exact ⟨_, State.part_modPart_ne _ _ _ _ h⟩
  unfold failStep
  extract_lets s1 late
  split <;> exact hctx

/-- A context whose step fails is held as it was. -/
@[simp] theorem storage_failStep (p x : Nat) : (failStep s p x).storage = s.storage := by
  have hchanges : Changes [.sched, .parts] s (failStep s p x) := changes_of (within_failStep at0 at1 _ _ _ (within_refl _ s))
  have hpages : (failStep s p x).pages = s.pages := hchanges .pages (by decide)
  have hdies : (failStep s p x).dies = s.dies := hchanges .dies (by decide)
  have hjobs : (fun q => ((failStep s p x).part q).jobs) = fun q => (s.part q).jobs := by
    funext q
    obtain ⟨l, hl⟩ := failStep_part s p x q
    rw [hl]
  have hsealed : (fun q => ((failStep s p x).part q).sealedPart) = fun q => (s.part q).sealedPart := by
    funext q
    obtain ⟨l, hl⟩ := failStep_part s p x q
    rw [hl]
  have hctxs : (fun q y => (((failStep s p x).part q).ctx y).held) = fun q y => ((s.part q).ctx y).held := by
    funext q y
    rw [ctx_failStep]
    split <;> rfl
  have hregs : (failStep s p x).reg = s.reg := by
    delta State.reg State.page
    rw [hpages]
  have hhbmc : (failStep s p x).hbmc = s.hbmc := by
    delta State.hbmc State.die
    rw [hdies]
  refine Prod.ext ?_ ?_
  · unfold State.storage State.reads
    rw [hregs, hjobs, hsealed, hctxs, hchanges .mem (by decide), hchanges .burstKey (by decide), hchanges .hbmStale (by decide)]
  · unfold State.storage State.errors
    rw [hhbmc, hchanges .bad (by decide), hchanges .softBad (by decide), hchanges .hbmErr (by decide)]

/-! ### The almanac's own operations -/

theorem reg_setReg_other {pn off j o : Nat} (w : Word) (h : j ≠ pn ∨ o ≠ off) : (s.setReg pn off w).reg j o = s.reg j o := by
  by_cases hj : j = pn
  · subst hj
    exact State.reg_setReg_ne s _ _ _ w (h.resolve_left (· rfl))
  · unfold State.reg
    rw [State.page_setReg_ne s pn off j w hj]

/-- The count of misses in an almanac ring's block is no word that reading rests on. -/
theorem noteMiss_reg (d k : Nat) (e : Entry) (deadline : Nat) (always : Bool) {pn off : Nat}
    (h : pn ≠ pnAlm d ∨ off ≠ almReg k 0x18) : (noteMiss s d k e deadline always).reg pn off = s.reg pn off := by
  unfold noteMiss
  extract_lets alm s1 o s2 s3
  have h2 : s2.reg pn off = s.reg pn off := (reg_setReg_other s1 _ h).trans (State.reg_count _ _ _ _ _ _)
  have h3 : s3.reg pn off = s2.reg pn off := by
    unfold s3
    split
    · exact raiseTrap_reg _ _ _ _ _
    · rfl
  rw [setEvent_reg, h3, h2]

@[simp] theorem storage_noteMiss (d k : Nat) (e : Entry) (deadline : Nat) (always : Bool) :
    (noteMiss s d k e deadline always).storage = s.storage :=
  storage_of_changes ((changes_noteMiss s d k e deadline always).mono (by decide)) fun pn off h =>
    noteMiss_reg s d k e deadline always (by unfold pnSeal at h; unfold pnAlm pnDie almReg; omega)

@[simp] theorem storage_fire (d k : Nat) (e : Entry) : (fire s d k e).storage = s.storage := by
  unfold fire
  extract_lets s1
  split <;> simp [s1]

@[simp] theorem storage_countWait (d k : Nat) (e : Entry) : (countWait s d k e).storage = s.storage := by
  unfold countWait
  split <;> simp

/-- The 256-byte units of hub SRAM that take a tag are no matter (R488). -/
theorem changes_setTags (tag : Nat) (ws : List (Nat × List Byte)) : Changes [.tags] s (setTags s tag ws) :=
  changes_of (within_setTags at0 _ _ _ (within_refl _ s))

theorem reg_of_pages {s t : State} (h : t.pages = s.pages) (pn off : Nat) : t.reg pn off = s.reg pn off := by
  unfold State.reg State.page
  rw [h]

@[simp] theorem storage_setTags (tag : Nat) (ws : List (Nat × List Byte)) : (setTags s tag ws).storage = s.storage :=
  storage_of_changes ((changes_setTags s tag ws).mono (by decide)) fun _ _ _ =>
    reg_of_pages (changes_setTags s tag ws .pages (by decide)) _ _

end Sys2Proof.Machine

/-! The ends of an almanac entry: what is left of it, of its ring and of memory (R354, R357). -/

namespace Sys2Proof.Machine

variable {s t : State}

/-! ### The ring's entries -/

theorem Die.ring_setRing (v : Die) (k : Nat) (r : AlmRing) : (v.setRing k r).ring k = r := mget_mset_same _ _ _ _

theorem ring_modDie (s : State) (d k : Nat) (f : Die → AlmRing) : ((s.modDie d fun v => v.setRing k (f v)).die d).ring k = f (s.die d) := by
  rw [State.die_modDie, Die.ring_setRing]

/-- The entries of a list that stand at a ring count, changed. -/
def atPos (pos : Nat) (f : Entry → Entry) (es : List Entry) : List Entry := es.map fun e => if e.pos = pos then f e else e

theorem ring_modEntry (s : State) (d k pos : Nat) (f : Entry → Entry) : ((modEntry s d k pos f).die d).ring k =
    { (s.die d).ring k with entries := atPos pos f ((s.die d).ring k).entries } :=
  ring_modDie s d k _

/-- Two changes of the entries at a ring count are one. -/
theorem atPos_atPos {pos : Nat} {f g : Entry → Entry} (hf : ∀ e, (f e).pos = e.pos) (es : List Entry) :
    atPos pos g (atPos pos f es) = atPos pos (fun e => g (f e)) es := by
  unfold atPos
  rw [List.map_map]
  refine List.map_congr_left fun e _ => ?_
  by_cases h : e.pos = pos
  · simp [h, hf]
  · simp [h]

/-! ### DONE_SEM (R198, R357) -/

theorem signalDone_signals {k : Nat} {e : Entry} (h : Signals s k e) : signalDone s k e = signalled s k e := by
  obtain ⟨hplain, hunit⟩ := h
  have hadd : addSem s (ringPart k) (ringCtx k) e.doneSem 1 = (signalled s k e, none) := setSem_plain hplain _
  unfold signalDone
  simp only [hadd, show badUnit s (semKey s (ringPart k) (ringCtx k) e.doneSem) 4 = none from hunit, Option.or_none]

theorem doneKey_of_reads (h : t.reads = s.reads) (k : Nat) (e : Entry) : doneKey t k e = doneKey s k e := by
  unfold doneKey
  rw [semKey_of_reads h]

theorem signals_of_reads (h : t.reads = s.reads) {k : Nat} {e : Entry}
    (hclean : cleanTier s (tierOf (doneKey s k e)) = true → cleanTier t (tierOf (doneKey s k e)) = true) (hs : Signals s k e) :
    Signals t k e := by
  have hplain := plainStore_of_reads h hclean hs.1
  unfold Signals
  rw [doneKey_of_reads h]
  exact ⟨hplain, badUnit_of_cleanTier hplain.cleanTier 4⟩

theorem signals_of_storage (h : t.storage = s.storage) {k : Nat} {e : Entry} (hs : Signals s k e) : Signals t k e :=
  signals_of_reads (reads_of_storage h) (by rw [cleanTier_of_errors (errors_of_storage h)]; exact id) hs

theorem signalled_of_reads (h : t.reads = s.reads) (k : Nat) (e : Entry) : (signalled t k e).mem = (signalled s k e).mem := by
  have hmem : t.mem = s.mem := congrArg ReadView.mem h
  unfold signalled memWrite
  rw [doneKey_of_reads h, semValue_of_reads h, hmem]

/-! ### The end of an entry (R357) -/

/-- An entry is marked done. -/
def markDone (s : State) (d k pos : Nat) : State := modEntry s d k pos fun v => { v with phase := .done, list := none }

theorem closeEntry_signals {d k : Nat} {e : Entry} (h : Signals s k e) :
    closeEntry s d k e = signalled (markDone s d k e.pos) k e :=
  signalDone_signals (signals_of_storage (storage_modEntry s d k e.pos _) h)

section
variable {d k : Nat} {e : Entry} (h : Signals s k e)
include h

theorem closeEntry_pages : (closeEntry s d k e).pages = s.pages := by rw [closeEntry_signals h]; rfl
theorem closeEntry_bell : (closeEntry s d k e).bell = s.bell := by rw [closeEntry_signals h]; rfl
theorem closeEntry_parts : (closeEntry s d k e).parts = s.parts := by rw [closeEntry_signals h]; rfl

theorem closeEntry_counter (pn j : Nat) : (closeEntry s d k e).counter pn j = s.counter pn j := by
  rw [closeEntry_signals h]; rfl

theorem closeEntry_mem : (closeEntry s d k e).mem = (signalled s k e).mem := by
  rw [closeEntry_signals h]
  exact signalled_of_reads (reads_of_storage (storage_modEntry s d k e.pos _)) k e

theorem ring_closeEntry : ((closeEntry s d k e).die d).ring k =
    { (s.die d).ring k with entries := atPos e.pos (fun v => { v with phase := .done, list := none }) ((s.die d).ring k).entries } := by
  rw [closeEntry_signals h]
  exact ring_modEntry s d k e.pos _

end

/-- An entry that is done, with what else changes of it. -/
def doneAs (f : Entry → Entry) (v : Entry) : Entry := { f v with phase := .done, list := none }

/-- An entry ends, from a state that has done the rest of it. -/
theorem entryEnds_of_done {d k : Nat} {e : Entry} {f : Entry → Entry} (hreads : t.reads = s.reads) (hsignals : Signals t k e)
    (hentries : atPos e.pos (doneAs id) ((t.die d).ring k).entries = atPos e.pos (doneAs f) ((s.die d).ring k).entries) :
    EntryEnds s (closeEntry t d k e) d k e f where
  entries := (congrArg AlmRing.entries (ring_closeEntry hsignals)).trans hentries
  mem a := by
    unfold memByte
    rw [closeEntry_mem hsignals, signalled_of_reads hreads]

theorem entryEnds_closeEntry {d k : Nat} {e : Entry} {f : Entry → Entry} (hpos : ∀ v, (f v).pos = v.pos)
    (hreads : t.reads = s.reads) (hsignals : Signals t k e)
    (hentries : ((t.die d).ring k).entries = atPos e.pos f ((s.die d).ring k).entries) :
    EntryEnds s (closeEntry t d k e) d k e f :=
  entryEnds_of_done hreads hsignals (by rw [hentries, atPos_atPos hpos]; rfl)

/-! ### A failure (R357) -/

section
variable (s)

/-- A failure is counted, raises ENTRY_FAIL and fails the step, before the entry is done. -/
def noteFailed (d k : Nat) (e : Entry) : State :=
  setEvent ((failStep (modEntry s d k e.pos fun v => { v with failed := true }) (ringPart k) (ringCtx k)).count (pnAlm d) 6 1) (pnAlm d) 1

theorem failedEntry_eq (d k : Nat) (e : Entry) : failedEntry s d k e = closeEntry (noteFailed s d k e) d k e := rfl

@[simp] theorem storage_noteFailed (d k : Nat) (e : Entry) : (noteFailed s d k e).storage = s.storage := by
  unfold noteFailed
  simp

theorem failStep_pages (p x : Nat) : (failStep s p x).pages = s.pages :=
  (changes_of (within_failStep (S := (· ∈ [Piece.sched, .parts])) at0 at1 _ _ _ (within_refl _ s)) : Changes _ _ _) .pages (by decide)

theorem failStep_die (p x j : Nat) : (failStep s p x).die j = s.die j :=
  congrArg (mget Die.init · j)
    ((changes_of (within_failStep (S := (· ∈ [Piece.sched, .parts])) at0 at1 _ _ _ (within_refl _ s)) : Changes _ _ _) .dies (by decide))

theorem noteFailed_counter (d k j : Nat) (e : Entry) (pn : Nat) :
    (noteFailed s d k e).counter pn j = (s.count (pnAlm d) 6 1).counter pn j := by
  have hcounter : (failStep (modEntry s d k e.pos fun v => { v with failed := true }) (ringPart k) (ringCtx k)).counter = s.counter := by
    delta State.counter State.page
    rw [failStep_pages]
    rfl
  unfold noteFailed
  rw [setEvent_counter, counter_count, counter_count, hcounter]

theorem noteFailed_evtStatus (d k : Nat) (e : Entry) :
    ((noteFailed s d k e).page (pnAlm d)).evtStatus = (s.page (pnAlm d)).evtStatus ||| 2 := by
  have hpage : (failStep (modEntry s d k e.pos fun v => { v with failed := true }) (ringPart k) (ringCtx k)).page = s.page := by
    delta State.page
    rw [failStep_pages]
    rfl
  unfold noteFailed
  rw [setEvent_page, State.count, State.page_modPage, hpage]
  rfl

theorem noteFailed_stepFailed (d k : Nat) (e : Entry) :
    (((noteFailed s d k e).part (ringPart k)).ctx (ringCtx k)).stepFailed = true := by
  have hparts : (noteFailed s d k e).parts = (failStep (modEntry s d k e.pos fun v => { v with failed := true }) (ringPart k) (ringCtx k)).parts := by
    unfold noteFailed
    exact ((changes_of (within_setEvent (S := (· ∈ [Piece.pages, .crier])) at0 at1 _ _ _ (within_refl _ _)) : Changes _ _ _) .parts (by decide)).trans rfl
  have hpart : (noteFailed s d k e).part = (failStep (modEntry s d k e.pos fun v => { v with failed := true }) (ringPart k) (ringCtx k)).part := by
    delta State.part
    rw [hparts]
  rw [hpart]
  exact failStep_stepFailed _ _ _

theorem ring_noteFailed (d k : Nat) (e : Entry) : ((noteFailed s d k e).die d).ring k =
    { (s.die d).ring k with entries := atPos e.pos (fun v => { v with failed := true }) ((s.die d).ring k).entries } := by
  unfold noteFailed
  rw [setEvent_die]
  exact (congrArg (Die.ring · k) (failStep_die _ _ _ _)).trans (ring_modEntry s d k e.pos _)

end

/-- An entry fails, from a state that has done what precedes its failure. -/
theorem entryFails_of_done {d k : Nat} {e : Entry} (hreads : t.reads = s.reads) (hsignals : Signals t k e)
    (hentries : atPos e.pos (doneAs fun v => { v with failed := true }) ((t.die d).ring k).entries =
      atPos e.pos (doneAs fun v => { v with failed := true }) ((s.die d).ring k).entries)
    (hcount : t.counter (pnAlm d) 6 = s.counter (pnAlm d) 6)
    (hevent : (t.page (pnAlm d)).evtStatus = (s.page (pnAlm d)).evtStatus) :
    EntryFails s (failedEntry t d k e) d k e := by
  have hnote : Signals (noteFailed t d k e) k e := signals_of_storage (storage_noteFailed t d k e) hsignals
  have hpages := closeEntry_pages (d := d) hnote
  rw [failedEntry_eq]
  refine ⟨entryEnds_of_done ((reads_of_storage (storage_noteFailed t d k e)).trans hreads) hnote ?_, ?_, ?_, ?_⟩
  · rw [ring_noteFailed]
    exact (atPos_atPos (f := fun v => { v with failed := true }) (g := doneAs id) (fun _ => rfl) _).trans hentries
  · rw [closeEntry_counter hnote, noteFailed_counter, State.counter_count_same, hcount]
    rfl
  · have hpage : (closeEntry (noteFailed t d k e) d k e).page = (noteFailed t d k e).page := by
      delta State.page
      rw [hpages]
    rw [hpage, noteFailed_evtStatus, hevent]
  · have hpart : (closeEntry (noteFailed t d k e) d k e).part = (noteFailed t d k e).part := by
      delta State.part
      rw [closeEntry_parts hnote]
    rw [hpart]
    exact noteFailed_stepFailed t d k e

theorem entryFails_failedEntry {d k : Nat} {e : Entry} (hreads : t.reads = s.reads) (hsignals : Signals t k e)
    (hentries : ((t.die d).ring k).entries = ((s.die d).ring k).entries)
    (hcount : t.counter (pnAlm d) 6 = s.counter (pnAlm d) 6)
    (hevent : (t.page (pnAlm d)).evtStatus = (s.page (pnAlm d)).evtStatus) :
    EntryFails s (failedEntry t d k e) d k e :=
  entryFails_of_done hreads hsignals (by rw [hentries]) hcount hevent

/-! ### Firing (R354) -/

theorem ring_fire (s : State) (d k : Nat) (e : Entry) : ((fire s d k e).die d).ring k =
    { (s.die d).ring k with entries := atPos e.pos (fun v => { v with phase := .inFlight }) ((s.die d).ring k).entries } := by
  unfold fire
  extract_lets s1
  split <;> exact ring_modEntry s d k e.pos _

theorem fire_counter (s : State) (d k : Nat) (e : Entry) {j : Nat} (h7 : j ≠ 7) (h8 : j ≠ 8) :
    (fire s d k e).counter (pnAlm d) j = (s.count (pnAlm d) 0 1).counter (pnAlm d) j := by
  unfold fire
  extract_lets s1
  split
  · exact State.counter_count_ne _ _ _ _ _ h8
  · exact State.counter_count_ne _ _ _ _ _ h7

theorem changes_fire (s : State) (d k : Nat) (e : Entry) : Changes [.pages, .dies] s (fire s d k e) :=
  changes_of (within_fire at0 at1 _ _ _ _ (within_refl _ s))

theorem fired_fire (s : State) (d k : Nat) (e : Entry) : Fired s (fire s d k e) d k e :=
  ⟨ring_fire s d k e, (fire_counter s d k e (by decide) (by decide)).trans (State.counter_count_same _ _ _ _)⟩

/-- An entry that has fired is done as one that has not. -/
theorem done_fire (s : State) (d k : Nat) (e : Entry) {f : Entry → Entry}
    (h : ∀ v : Entry, doneAs f { v with phase := .inFlight } = doneAs f v) :
    atPos e.pos (doneAs f) (((fire s d k e).die d).ring k).entries = atPos e.pos (doneAs f) ((s.die d).ring k).entries := by
  rw [ring_fire]
  refine (atPos_atPos (f := fun v => { v with phase := .inFlight }) (g := doneAs f) (fun _ => rfl) _).trans ?_
  simp only [h]

theorem fire_evtStatus (s : State) (d k pn : Nat) (e : Entry) :
    ((fire s d k e).page pn).evtStatus = (s.page pn).evtStatus := by
  unfold fire
  extract_lets s1
  split <;> simp [s1] <;> rfl

end Sys2Proof.Machine

/-! What the reads of memory leave of the almanac and of memory (R350, R372, R407, R411). -/

namespace Sys2Proof.Machine

/-! ### The almanacs' rings and pages -/

/-- The almanac rings and their register pages. -/
structure AlmanacView where
  rings : Nat → SMap AlmRing
  pages : Nat → Page

def State.almanac (s : State) : AlmanacView where
  rings d := (s.die d).rings
  pages d := s.page (pnAlm d)

variable {s t : State}

section
variable (h : t.almanac = s.almanac)
include h

theorem rings_of_almanac (d : Nat) : (t.die d).rings = (s.die d).rings := congrFun (congrArg AlmanacView.rings h) d

theorem page_of_almanac (d : Nat) : t.page (pnAlm d) = s.page (pnAlm d) := congrFun (congrArg AlmanacView.pages h) d

theorem ring_of_almanac (d k : Nat) : (t.die d).ring k = (s.die d).ring k := by
  unfold Die.ring
  rw [rings_of_almanac h]

theorem counter_of_almanac (d j : Nat) : t.counter (pnAlm d) j = s.counter (pnAlm d) j := by
  unfold State.counter
  rw [page_of_almanac h]

theorem evtStatus_of_almanac (d : Nat) : (t.page (pnAlm d)).evtStatus = (s.page (pnAlm d)).evtStatus := by
  rw [page_of_almanac h]

end

theorem almanac_of_changes {pieces : List Piece} (h : Changes pieces s t) (hpages : Piece.pages ∉ pieces)
    (hdies : Piece.dies ∉ pieces) : t.almanac = s.almanac := by
  unfold State.almanac State.die State.page
  rw [h .pages hpages, h .dies hdies]

/-- A page that is no almanac's. -/
def OffAlmanac (pn : Nat) : Prop := ∀ d, pnAlm d ≠ pn

theorem offAlmanac_of_low {pn : Nat} (h : pn < 0x1000) : OffAlmanac pn := fun d => by unfold pnAlm pnDie; omega
theorem offAlmanac_hbmc (die n : Nat) : OffAlmanac (pnHbmc die (n % 2)) := fun d => by unfold pnAlm pnHbmc pnDie; omega
theorem offAlmanac_ls (g : Nat) : OffAlmanac (pnLs g) := fun d => by unfold pnAlm pnLs pnDie pnCore; omega
theorem offAlmanac_slab (j : Nat) : OffAlmanac (pnSlab j) := fun d => by unfold pnAlm pnSlab pnDie; omega
theorem offAlmanac_half (h : Nat) : OffAlmanac (halfPage h) := fun d => by unfold pnAlm halfPage pnLink pnDie; omega

theorem almanac_of_pages (hdies : t.dies = s.dies) (hpages : ∀ d, t.page (pnAlm d) = s.page (pnAlm d)) : t.almanac = s.almanac := by
  unfold State.almanac State.die
  rw [hdies, funext hpages]

theorem almanac_count (s : State) {pn : Nat} (h : OffAlmanac pn) (k n : Nat) : (s.count pn k n).almanac = s.almanac :=
  almanac_of_pages rfl fun d => State.page_count_ne s pn k n _ (h d)

theorem almanac_setEvent (s : State) {pn : Nat} (h : OffAlmanac pn) (b : Nat) : (setEvent s pn b).almanac = s.almanac :=
  almanac_of_pages
    ((changes_of (within_setEvent (S := (· ∈ [Piece.pages, .crier])) at0 at1 _ _ _ (within_refl _ s)) : Changes _ _ _) .dies (by decide))
    fun d => setEvent_page_ne s pn b _ (h d)

theorem almanac_modDie (s : State) (d : Nat) {f : Die → Die} (h : (f (s.die d)).rings = (s.die d).rings) :
    (s.modDie d f).almanac = s.almanac := by
  have hrings : (fun j => ((s.modDie d f).die j).rings) = fun j => (s.die j).rings := by
    funext j
    by_cases hj : j = d
    · subst hj; rw [State.die_modDie, h]
    · rw [State.die_modDie_ne _ _ _ _ hj]
  unfold State.almanac
  rw [hrings]
  rfl

/-! ### The upkeep of memory (R372, R411) -/

/-- What the corrections of errors leave: all that reading rests on but for the errors that they correct, and the almanacs. -/
structure UpkeepView where
  reads    : ReadView
  almanac  : AlmanacView
  bad      : List Nat
  hbmErr   : SMap (BitVec 36)
  chFailed : Nat → Nat → Word

def State.upkeep (s : State) : UpkeepView := ⟨s.reads, s.almanac, s.bad, s.hbmErr, fun d k => (s.hbmc d k).chFailed⟩

theorem upkeep_eq {s t : State} (hst : t.storage = s.storage) (ha : t.almanac = s.almanac) : t.upkeep = s.upkeep := by
  have herr := errors_of_storage hst
  have hbad : t.bad = s.bad := congrArg ErrorView.bad herr
  have hhbm : t.hbmErr = s.hbmErr := congrArg ErrorView.hbmErr herr
  have hc : t.hbmc = s.hbmc := congrArg ErrorView.hbmc herr
  unfold State.upkeep
  rw [reads_of_storage hst, ha, hbad, hhbm, hc]

theorem upkeep_count (s : State) {pn : Nat} (h : OffAlmanac pn) (k n : Nat) : (s.count pn k n).upkeep = s.upkeep :=
  upkeep_eq (storage_count s pn k n) (almanac_count s h k n)

theorem upkeep_setEvent (s : State) {pn : Nat} (h : OffAlmanac pn) (b : Nat) : (setEvent s pn b).upkeep = s.upkeep :=
  upkeep_eq (storage_setEvent s pn b) (almanac_setEvent s h b)

theorem Die.hbmc_setHbmc_chFailed (v : Die) (k i : Nat) {h : Hbmc} (hf : h.chFailed = (v.hbmc k).chFailed) :
    ((v.setHbmc k h).hbmc i).chFailed = (v.hbmc i).chFailed := by
  unfold Die.setHbmc Die.hbmc at *
  split_ifs at * <;> simp_all

theorem Die.rings_setHbmc (v : Die) (k : Nat) (h : Hbmc) : (v.setHbmc k h).rings = v.rings := by
  unfold Die.setHbmc
  split <;> rfl

theorem upkeep_modHbmc (s : State) (d k : Nat) {f : Hbmc → Hbmc} (hf : ∀ h, (f h).chFailed = h.chFailed) :
    (s.modHbmc d k f).upkeep = s.upkeep := by
  have hch : (fun j i => ((s.modHbmc d k f).hbmc j i).chFailed) = fun j i => (s.hbmc j i).chFailed := by
    funext j i
    unfold State.modHbmc State.hbmc
    by_cases hj : j = d
    · subst hj
      rw [State.die_modDie, Die.hbmc_setHbmc_chFailed _ _ _ (hf _)]
    · rw [State.die_modDie_ne _ _ _ _ hj]
  have ha : (s.modHbmc d k f).almanac = s.almanac := almanac_modDie s d (Die.rings_setHbmc _ _ _)
  unfold State.upkeep
  rw [hch, ha]
  rfl

theorem upkeep_ite {c : Prop} [Decidable c] {t u : State} (ht : t.upkeep = s.upkeep) (hu : u.upkeep = s.upkeep) :
    (if c then t else u).upkeep = s.upkeep := by
  split <;> assumption

theorem upkeep_queueRepair (s : State) (d : Nat) (hard : Bool) : (queueRepair s d hard).upkeep = s.upkeep := by
  unfold queueRepair
  extract_lets n die k h row q s1
  have hpage : OffAlmanac (pnHbmc die k) := offAlmanac_hbmc die (n / 64)
  have h1 : s1.upkeep = s.upkeep := (upkeep_setEvent _ hpage 5).trans (upkeep_modHbmc s die k fun _ => rfl)
  split
  · rfl
  · split
    · exact upkeep_ite ((upkeep_count _ hpage 6 1).trans h1) h1
    · exact (upkeep_setEvent _ hpage 6).trans (upkeep_modHbmc s die k fun _ => rfl)

theorem upkeep_correctUnit (s : State) (u : Nat) : (correctUnit s u).upkeep = s.upkeep := by
  unfold correctUnit
  extract_lets s1 t d n die k row ces s2 s3 th
  have hpage : OffAlmanac (pnHbmc die k) := offAlmanac_hbmc die (n / 64)
  have h1 : s1.upkeep = s.upkeep := rfl
  have h2 : s2.upkeep = s.upkeep := by
    refine upkeep_modHbmc s die k ?_
    exact fun _ => rfl
  have h3 : s3.upkeep = s.upkeep := ((upkeep_setEvent _ hpage 0).trans (upkeep_count _ hpage 0 1)).trans h2
  split
  · exact upkeep_ite ((upkeep_queueRepair s3 d false).trans h3) h3
  · split
    · split
      · next p hp =>
        have hlow : p < 4 := List.mem_range.1 (List.mem_of_find?_eq_some hp)
        exact upkeep_count s1 (offAlmanac_of_low (by unfold pnPart; omega)) 11 1
      · exact h1
    · exact upkeep_count s1 (offAlmanac_ls _) 6 1

theorem upkeep_correctSpan (s : State) (a n : Nat) : (correctSpan s a n).upkeep = s.upkeep :=
  upkeep_ite rfl (foldl_view State.upkeep upkeep_correctUnit _ s)

theorem almanac_slabTraffic (s : State) (a n : Nat) (write vertical : Bool) :
    (slabTraffic s a n write vertical).almanac = s.almanac := by
  unfold slabTraffic
  split
  · exact (almanac_count _ (offAlmanac_slab _) _ _).trans (almanac_count s (offAlmanac_slab _) _ _)
  · rfl

theorem upkeep_readSpans (s : State) (vertical : Bool) (spans : List (Nat × Nat)) :
    (readSpans s vertical spans).upkeep = s.upkeep := by
  unfold readSpans
  refine foldl_view State.upkeep (fun t e => ?_) spans s
  exact (upkeep_eq (storage_slabTraffic _ _ _ _ _) (almanac_slabTraffic _ _ _ _ _)).trans (upkeep_correctSpan t e.1 e.2)

/-! ### No errors come by reading -/

theorem softBad_nil_of_changes {pieces : List Piece} (h : Changes pieces s t) (hp : Piece.softBad ∉ pieces) (hs : s.softBad = []) :
    t.softBad = [] := (h .softBad hp).trans hs

theorem softBad_nil_queueRepair (d : Nat) (hard : Bool) (hs : s.softBad = []) : (queueRepair s d hard).softBad = [] :=
  softBad_nil_of_changes (changes_of (within_queueRepair (S := (· ∈ [Piece.pages, .dies, .crier, .flash])) at0 at1 at2 at3 _ _ _
    (within_refl _ s))) (by decide) hs

theorem softBad_nil_correctUnit (u : Nat) (hs : s.softBad = []) : (correctUnit s u).softBad = [] := by
  unfold correctUnit
  extract_lets s1 t d n die k row ces s2 s3 th
  have h1 : s1.softBad = [] := by
    show s.softBad.erase u = []
    rw [hs]
    rfl
  have h2 : s2.softBad = [] := hs
  have h3 : s3.softBad = [] := softBad_nil_of_changes
    (changes_of (within_setEvent (S := (· ∈ [Piece.pages, .crier])) at0 at1 _ _ _ (within_refl _ _))) (by decide)
    (show (s2.count (pnHbmc die k) 0 1).softBad = [] from h2)
  split
  · split
    · exact softBad_nil_queueRepair d false h3
    · exact h3
  · split
    · split
      · exact h1
      · exact h1
    · exact h1

theorem softBad_nil_correctSpan (a n : Nat) (hs : s.softBad = []) : (correctSpan s a n).softBad = [] := by
  unfold correctSpan
  split
  · exact hs
  · exact List.foldlRecOn _ _ (motive := fun t : State => t.softBad = []) hs fun t ht u _ => softBad_nil_correctUnit u ht

theorem softBad_nil_readSpans (vertical : Bool) (spans : List (Nat × Nat)) (hs : s.softBad = []) :
    (readSpans s vertical spans).softBad = [] :=
  List.foldlRecOn _ _ (motive := fun t : State => t.softBad = []) hs fun t ht e _ =>
    softBad_nil_of_changes (changes_slabTraffic _ _ _ _ _) (by decide) (softBad_nil_correctSpan e.1 e.2 ht)

/-- A tier without errors has none after a read. -/
theorem cleanTier_readSpans (vertical : Bool) (spans : List (Nat × Nat)) {tier : Nat} (h : cleanTier s tier = true) :
    cleanTier (readSpans s vertical spans) tier = true := by
  have hup := upkeep_readSpans s vertical spans
  have hbad : (readSpans s vertical spans).bad = s.bad := congrArg UpkeepView.bad hup
  have herr : (readSpans s vertical spans).hbmErr = s.hbmErr := congrArg UpkeepView.hbmErr hup
  have hfailed (d k : Nat) : ((readSpans s vertical spans).hbmc d k).chFailed = (s.hbmc d k).chFailed :=
    congrFun (congrFun (congrArg UpkeepView.chFailed hup) d) k
  unfold cleanTier noneFailed at h ⊢
  rw [hbad, herr]
  simp only [hfailed]
  split at h
  · next ht => rw [if_pos ht, h]
  · next ht =>
    obtain ⟨hb, hsoft⟩ := Bool.and_eq_true_iff.1 h
    have hnil := softBad_nil_readSpans vertical spans (List.isEmpty_iff.1 hsoft)
    rw [if_neg ht, hnil, hb]
    rfl

theorem reads_readSpans (vertical : Bool) (spans : List (Nat × Nat)) : (readSpans s vertical spans).reads = s.reads :=
  congrArg UpkeepView.reads (upkeep_readSpans s vertical spans)

theorem almanac_readSpans (vertical : Bool) (spans : List (Nat × Nat)) : (readSpans s vertical spans).almanac = s.almanac :=
  congrArg UpkeepView.almanac (upkeep_readSpans s vertical spans)

theorem plainStore_readSpans (vertical : Bool) (spans : List (Nat × Nat)) {a n : Nat} (h : PlainStore s a n) :
    PlainStore (readSpans s vertical spans) a n :=
  plainStore_of_reads (reads_readSpans vertical spans) (cleanTier_readSpans vertical spans) h

theorem signals_readSpans (vertical : Bool) (spans : List (Nat × Nat)) {k : Nat} {e : Entry} (h : Signals s k e) :
    Signals (readSpans s vertical spans) k e :=
  signals_of_reads (reads_readSpans vertical spans) (cleanTier_readSpans vertical spans) h

end Sys2Proof.Machine

/-! The copies of almanac entries, and their failures (R353, R357, R358). -/

namespace Sys2Proof.Machine

variable {s t : State}

/-! ### Bytes that land -/

/-- Bytes are stored at a place that needs no rule of its own, and lose the tags of its units. -/
def landBytes (s : State) (a : Nat) (bs : List Byte) : State :=
  setTags (memWrite (slabTraffic s a bs.length true false) a bs) 0 [(a, bs)]

theorem memStores_plain {a : Nat} {bs : List Byte} (h : PlainStore s a bs.length) (vertical : Bool) :
    memStores s vertical [(a, bs)] = (memWrite (slabTraffic s a bs.length true vertical) a bs, none) := by
  have hstore := memStore_plain a bs (plainStore_of_storage (storage_slabTraffic s a bs.length true vertical) h)
  simp only [memStores, List.foldl_cons, List.foldl_nil, hstore]
  rfl

theorem reads_memWrite_congr (h : t.reads = s.reads) (a : Nat) (bs : List Byte) : (memWrite t a bs).reads = (memWrite s a bs).reads :=
  congrArg (fun v : ReadView => { v with mem := memSplice v.mem a bs }) h

theorem reads_landBytes (s : State) (a : Nat) (bs : List Byte) : (landBytes s a bs).reads = (memWrite s a bs).reads :=
  (reads_of_storage (storage_setTags _ 0 _)).trans
    (reads_memWrite_congr (reads_of_storage (storage_slabTraffic s a bs.length true false)) a bs)

theorem errors_landBytes (s : State) (a : Nat) (bs : List Byte) : (landBytes s a bs).errors = s.errors :=
  have hmem : (memWrite (slabTraffic s a bs.length true false) a bs).errors = (slabTraffic s a bs.length true false).errors := rfl
  (errors_of_storage (storage_setTags _ 0 _)).trans (hmem.trans (errors_of_storage (storage_slabTraffic s a bs.length true false)))

theorem almanac_memWrite (s : State) (a : Nat) (bs : List Byte) : (memWrite s a bs).almanac = s.almanac := rfl

theorem almanac_landBytes (s : State) (a : Nat) (bs : List Byte) : (landBytes s a bs).almanac = s.almanac :=
  (almanac_of_changes (changes_setTags _ 0 _) (by decide) (by decide)).trans
    ((almanac_memWrite _ a bs).trans (almanac_slabTraffic s a bs.length true false))

/-- A place is plain for a store whatever memory holds. -/
theorem plainStore_memWrite {b n : Nat} (a : Nat) (bs : List Byte) (h : PlainStore s b n) : PlainStore (memWrite s a bs) b n := h

theorem signals_memWrite {k : Nat} {e : Entry} (a : Nat) (bs : List Byte) (h : Signals s k e) : Signals (memWrite s a bs) k e :=
  ⟨plainStore_memWrite a bs h.1, badUnit_of_cleanTier (plainStore_memWrite a bs h.1).cleanTier 4⟩

theorem signals_landBytes {k : Nat} {e : Entry} (a : Nat) (bs : List Byte) (h : Signals s k e) : Signals (landBytes s a bs) k e :=
  signals_of_storage (Prod.ext (reads_landBytes s a bs) (errors_landBytes s a bs)) (signals_memWrite a bs h)

/-- The bytes of a copy land here, and the entry is done. -/
theorem putCopy_plain {d k : Nat} {e : Entry} {bs : List Byte} (hhere : keyRemote (entryKey s d k e.target) = false)
    (hplain : PlainStore s (entryKey s d k e.target) bs.length) :
    putCopy s d k e bs = settleRing (closeEntry (landBytes s (entryKey s d k e.target) bs) d k e) d k := by
  unfold putCopy
  simp only [hhere, Bool.false_eq_true, if_false, memStores_plain hplain]
  rfl

/-! ### The ways of a transfer -/

theorem viewBytes_length (a n : Nat) : (viewBytes s a n).length = n := by
  unfold viewBytes
  rw [List.length_map, List.length_range]

section
variable {d k pos : Nat} {e : Entry} (he : entryOf s d k pos = some e)
include he

theorem execEntryComplete_failed (hphase : e.phase = .inFlight) (hmoves : movesData e.action = true) :
    execEntryComplete d k pos false s = .next (failEntry (stopTransfer s d k pos) d k e) := by
  unfold execEntryComplete
  simp [he, hphase, hmoves]

theorem execEntryComplete_copies (hphase : e.phase = .inFlight) (hact : e.action = actPrefetch ∨ e.action = actCheckpoint)
    (hcopying : e.copying = none) (hmissed : e.missed = false) (hruns : ringRuns s k = true) :
    execEntryComplete d k pos true s = .next (runCopy s d k e e.source) := by
  have hmoves : movesData e.action = true := by rcases hact with h | h <;> rw [h] <;> decide
  unfold execEntryComplete
  simp [he, hphase, hmoves, hcopying, hmissed, hruns, hact]

theorem execWaitLimitExpiry_expired (hmoves : movesData e.action = true) (hphase : e.phase ≠ .done) (hmissed : e.missed = true)
    (hfallback : e.fallback = fbWait ∨ e.fallback = fbLocalCopy) (htimed : ringSelfTimed s k = false)
    (hpast : e.deadline + s.regN (pnAlm d) 0x100 ≤ s.bell.count.toNat) :
    execWaitLimitExpiry d k pos s = .next (failEntry (countWait (stopTransfer s d k pos) d k e) d k e) := by
  unfold execWaitLimitExpiry
  simp [he, hphase, hmoves, hmissed, hfallback, htimed, hpast]

end

theorem runCopy_here {d k : Nat} {e : Entry} {source : Nat} (hmoved : e.moved = false)
    (hsrc : keyRemote (entryKey s d k source) = false) (hunit : badUnit s (entryKey s d k source) e.bytes = none) :
    runCopy s d k e source = putCopy (readSpans s false [(entryKey s d k source, e.bytes)]) d k e
      (viewBytes s (entryKey s d k source) e.bytes) := by
  unfold runCopy
  simp [hmoved, hsrc, hunit]

/-! ### The wait of an entry past its time (R368) -/

theorem die_countWait (d k : Nat) (e : Entry) (j : Nat) : (countWait s d k e).die j = s.die j := by
  unfold countWait
  split <;> rfl

theorem counter_countWait (d k : Nat) (e : Entry) {j : Nat} (h : j ≠ 7) :
    (countWait s d k e).counter (pnAlm d) j = s.counter (pnAlm d) j := by
  unfold countWait
  split
  · exact State.counter_count_ne _ _ _ _ _ h
  · rfl

theorem evtStatus_countWait (d k : Nat) (e : Entry) (pn : Nat) :
    ((countWait s d k e).page pn).evtStatus = (s.page pn).evtStatus := by
  unfold countWait
  split
  · exact State.evtStatus_count _ _ _ _ _
  · rfl

/-- Settles O24: the copy of `runCopy_here`, and the failures of a stopped transfer. -/
theorem copiesLandOrFail : Obligations.CopiesLandOrFail := by
  unfold Obligations.CopiesLandOrFail
  intro s die ring pos e he hsignals src dst
  have hstop : Signals (stopTransfer s die ring pos) ring e := signals_of_storage (storage_stopTransfer s die ring pos) hsignals
  refine ⟨fun hphase hact hcopying hmoved hmissed hruns hsrc hdst hunit hplain => ?_, fun hphase hmoves => ?_,
    fun hmoves hphase hmissed hfallback htimed hpast => ?_⟩
  · let read := readSpans s false [(src, e.bytes)]
    have hkey : entryKey read die ring e.target = dst := by
      show entryKey read die ring e.target = entryKey s die ring e.target
      rw [entryKey_of_reads (reads_readSpans false _)]
    have hput : PlainStore read dst (viewBytes s src e.bytes).length := by
      rw [viewBytes_length]
      exact plainStore_readSpans false _ hplain
    refine ⟨closeEntry (landBytes read dst (viewBytes s src e.bytes)) die ring e, ?_, ?_⟩
    · show execEntryComplete die ring pos true s = _
      rw [execEntryComplete_copies he hphase hact hcopying hmissed hruns, runCopy_here hmoved hsrc hunit,
        putCopy_plain (by rw [hkey]; exact hdst) (by rw [hkey]; exact hput), hkey]
    · refine entryEnds_closeEntry (fun _ => rfl) ?_ (signals_landBytes _ _ (signals_readSpans false _ hsignals)) ?_
      · exact (reads_landBytes read dst _).trans (reads_memWrite_congr (reads_readSpans false _) _ _)
      · rw [ring_of_almanac ((almanac_landBytes read dst _).trans (almanac_readSpans false _))]
        unfold atPos
        simp
  · exact ⟨_, execEntryComplete_failed he hphase hmoves,
      entryFails_failedEntry (reads_of_storage (storage_stopTransfer s die ring pos)) hstop rfl rfl rfl⟩
  · refine ⟨_, execWaitLimitExpiry_expired he hmoves hphase hmissed hfallback htimed hpast, entryFails_failedEntry ?_ ?_ ?_ ?_ ?_⟩
    · exact reads_of_storage ((storage_countWait _ die ring e).trans (storage_stopTransfer s die ring pos))
    · exact signals_of_storage (storage_countWait _ die ring e) hstop
    · rw [die_countWait]; rfl
    · exact counter_countWait die ring e (by decide)
    · exact evtStatus_countWait die ring e _

end Sys2Proof.Machine

/-! Deadlines that are missed, and the fallback that recomputes (R358, R359). -/

namespace Sys2Proof.Machine

variable {s : State} {d k pos : Nat} {e : Entry}

/-! ### The entry after its miss -/

/-- The miss is noted, and the entry marked. -/
def markMissed (s : State) (d k : Nat) (e : Entry) : State :=
  modEntry (noteMiss s d k e e.deadline false) d k e.pos fun v => { v with missed := true }

@[simp] theorem storage_markMissed : (markMissed s d k e).storage = s.storage := by
  unfold markMissed
  simp

theorem changes_markMissed : Changes [.pages, .dies, .crier] s (markMissed s d k e) :=
  ((changes_noteMiss s d k e e.deadline false).mono (by decide)).trans
    (changes_of (within_modEntry at1 _ _ _ _ _ (within_refl _ _)))

theorem ring_markMissed : ((markMissed s d k e).die d).ring k =
    { (s.die d).ring k with entries := atPos e.pos (fun v => { v with missed := true }) ((s.die d).ring k).entries } := by
  unfold markMissed
  rw [ring_modEntry, noteMiss_die]

theorem markMissed_counter (j : Nat) :
    (markMissed s d k e).counter (pnAlm d) j = (s.count (pnAlm d) 1 1).counter (pnAlm d) j :=
  noteMiss_counter s d k e e.deadline false _ _

theorem markMissed_evtStatus : ((markMissed s d k e).page (pnAlm d)).evtStatus = (s.page (pnAlm d)).evtStatus ||| 1 :=
  noteMiss_evtStatus s d k e e.deadline false

/-- The entry falls back: its transfer is stopped, and its waiting counted. -/
def fallBack (s : State) (d k : Nat) (e : Entry) : State :=
  countWait (stopTransfer (markMissed s d k e) d k e.pos) d k e

@[simp] theorem storage_fallBack : (fallBack s d k e).storage = s.storage := by
  unfold fallBack
  simp

theorem ring_fallBack : ((fallBack s d k e).die d).ring k =
    { (s.die d).ring k with entries := atPos e.pos (fun v => { v with missed := true }) ((s.die d).ring k).entries } :=
  (congrArg (Die.ring · k) (die_countWait (s := stopTransfer (markMissed s d k e) d k e.pos) d k e d)).trans ring_markMissed

theorem fallBack_counter {j : Nat} (h : j ≠ 7) :
    (fallBack s d k e).counter (pnAlm d) j = (s.count (pnAlm d) 1 1).counter (pnAlm d) j :=
  (counter_countWait d k e h).trans (markMissed_counter j)

theorem changes_countWait : Changes [.pages] s (countWait s d k e) :=
  changes_of (within_countWait at0 _ _ _ _ (within_refl _ s))

theorem changes_fallBack : Changes [.softBad, .pages, .dies, .crier, .links, .flash] s (fallBack s d k e) :=
  (changes_markMissed.mono (by decide)).trans
    (((changes_of (within_stopTransfer (S := (· ∈ [Piece.links])) at0 _ _ _ _ (within_refl _ _)) : Changes _ _ _).mono (by decide)).trans
      (changes_countWait.mono (by decide)))

/-- Where the fallback record lies is not moved by a miss. -/
theorem fallbackKey_fallBack : fallbackKey (fallBack s d k e) d k e = fallbackKey s d k e := by
  have hreg (off : Nat) (h : off ≠ almReg k 0x18) : (fallBack s d k e).reg (pnAlm d) off = s.reg (pnAlm d) off := by
    have hwait (u : State) : (countWait u d k e).reg (pnAlm d) off = u.reg (pnAlm d) off := by
      unfold countWait
      split
      · exact State.reg_count _ _ _ _ _ _
      · rfl
    exact (hwait _).trans (noteMiss_reg s d k e e.deadline false (.inr h))
  unfold fallbackKey State.regAddr State.regN
  rw [hreg _ (by unfold almReg; omega), hreg _ (by unfold almReg; omega)]

/-! ### The ways of a miss (R358) -/

theorem missDeadline_unmoved (h : movesData e.action = false) : missDeadline s d k e = markMissed s d k e := by
  unfold missDeadline markMissed
  simp [h]

theorem missDeadline_waits (h : movesData e.action = true) (hf : e.fallback = fbWait) :
    missDeadline s d k e = (markMissed s d k e).count (pnAlm d) 2 1 := by
  unfold missDeadline markMissed
  simp [h, hf]

theorem missDeadline_skips (h : movesData e.action = true) (hf : e.fallback = fbSkip) :
    missDeadline s d k e = settleRing (closeEntry ((fallBack s d k e).count (pnAlm d) 5 1) d k e) d k := by
  unfold missDeadline
  simp only [h, hf]
  rfl

theorem missDeadline_recomputes (h : movesData e.action = true) (hf : e.fallback = fbRecompute) :
    missDeadline s d k e = runFallback (fallBack s d k e) d k e := by
  unfold missDeadline
  simp only [h, hf]
  rfl

theorem execDeadlineMiss_missed (he : entryOf s d k pos = some e) (hdl : hasDeadline e = true) (hphase : e.phase ≠ .done)
    (hmissed : e.missed = false) (htimed : ringSelfTimed s k = false) (hpast : e.deadline < s.bell.count.toNat) :
    execDeadlineMiss d k pos s = .next (missDeadline s d k e) := by
  unfold execDeadlineMiss
  simp [he, hdl, hphase, hmissed, htimed, hpast]

/-! ### A RECOMPUTE (R359) -/

/-- What a RECOMPUTE leaves of its entry. -/
def recomputing (list core n : Nat) (v : Entry) : Entry :=
  { v with phase := .inFlight, missed := true, moved := false, unslotted := v.unslotted || v.phase == .waiting,
           list := some (list, core, n), recompute := n }

/-- A RECOMPUTE begins, under a fallback record of `n` commands from `list` on, for a core. -/
def startRecompute (s : State) (d k : Nat) (e : Entry) (key list core n : Nat) : State :=
  (modEntry (readSpans s false [(key, 16)]) d k e.pos (recomputing list core n)).count (pnAlm d) 3 1

/-- The record that a RECOMPUTE takes is sound, and so is its list: by its place, its words, and the bounds of its list. -/
structure RecordSound (s : State) (d k at_ : Nat) (ws : List Word) : Prop where
  tier   : tierOf at_ ≠ 4
  place  : granted s (entryWho d k) false at_ 16 = true
  unit   : badUnit s (keyOf s (entryWho d k) at_) 16 = none
  high   : bits (wordAt ws 1) 31 24 = 0
  upper  : bits (wordAt ws 2) 31 12 = 0
  last   : wordAt ws 3 = 0
  some_  : bits (wordAt ws 2) 11 0 ≠ 0
  align  : (wordAt ws 0 + 2 ^ 32 * bits (wordAt ws 1) 15 0) % 64 = 0
  within : tierOf (wordAt ws 0 + 2 ^ 32 * bits (wordAt ws 1) 15 0) = 1 ∨ tierOf (wordAt ws 0 + 2 ^ 32 * bits (wordAt ws 1) 15 0) = 2
  list   : granted s (entryWho d k) false (wordAt ws 0 + 2 ^ 32 * bits (wordAt ws 1) 15 0) (64 * bits (wordAt ws 2) 11 0) = true
  die    : bits (wordAt ws 1) 23 16 / 40 = d
  part   : partOfCore s (bits (wordAt ws 1) 23 16) = some (entryWho d k).part

theorem runFallback_recompute (hf : e.fallback = fbRecompute)
    (h : RecordSound s d k (fallbackKey s d k e) (viewWords s (keyOf s (entryWho d k) (fallbackKey s d k e)) 4)) :
    runFallback s d k e =
      let ws := viewWords s (keyOf s (entryWho d k) (fallbackKey s d k e)) 4
      startRecompute s d k e (keyOf s (entryWho d k) (fallbackKey s d k e)) (wordAt ws 0 + 2 ^ 32 * bits (wordAt ws 1) 15 0)
        (bits (wordAt ws 1) 23 16) (bits (wordAt ws 2) 11 0) := by
  obtain ⟨htier, hplace, hunit, hhigh, hupper, hlast, hsome, halign, hwithin, hlist, hdie, hpart⟩ := h
  have hplaced : ¬ (tierOf (fallbackKey s d k e) = 4 ∨ (!granted s (entryWho d k) false (fallbackKey s d k e) 16) = true) := by
    simp [htier, hplace]
  unfold runFallback
  extract_lets a w ws addr core count start
  rw [if_neg hplaced]
  rw [show badUnit s (keyOf s w a) 16 = none from hunit]
  dsimp only
  rw [if_neg (by rw [hhigh, hupper, hlast]; decide), if_pos hf, if_neg hsome, if_neg]
  · unfold start
    rw [if_pos hf]
    rfl
  · have hgrant : granted s w false addr (64 * count) = true := hlist
    have hcore : core / 40 = d := hdie
    have howner : partOfCore s core = some w.part := hpart
    have hround : addr % 64 = 0 := halign
    have hat : ¬ (tierOf addr ≠ 1 ∧ tierOf addr ≠ 2) := fun h => hwithin.elim h.1 h.2
    rw [hgrant, hcore, howner, hround]
    simp only [hat]
    simp

theorem recordSound_of_storage {t : State} (h : t.storage = s.storage) {at_ : Nat} {ws : List Word} (hs : RecordSound s d k at_ ws) :
    RecordSound t d k at_ ws := by
  have hreads := reads_of_storage h
  obtain ⟨htier, hplace, hunit, hhigh, hupper, hlast, hsome, halign, hwithin, hlist, hdie, hpart⟩ := hs
  refine ⟨htier, ?_, ?_, hhigh, hupper, hlast, hsome, halign, hwithin, ?_, hdie, ?_⟩
  · rwa [granted_of_reads hreads]
  · rwa [badUnit_of_errors (errors_of_storage h), keyOf_of_reads hreads]
  · rwa [granted_of_reads hreads]
  · rwa [partOfCore_of_reads hreads]

theorem missDeadline_recompute (hmoves : movesData e.action = true) (hf : e.fallback = fbRecompute)
    (h : RecordSound s d k (fallbackKey s d k e) (viewWords s (keyOf s (entryWho d k) (fallbackKey s d k e)) 4)) :
    missDeadline s d k e =
      let ws := viewWords s (keyOf s (entryWho d k) (fallbackKey s d k e)) 4
      startRecompute (fallBack s d k e) d k e (keyOf s (entryWho d k) (fallbackKey s d k e))
        (wordAt ws 0 + 2 ^ 32 * bits (wordAt ws 1) 15 0) (bits (wordAt ws 1) 23 16) (bits (wordAt ws 2) 11 0) := by
  have hreads : (fallBack s d k e).reads = s.reads := reads_of_storage storage_fallBack
  have hkey : keyOf (fallBack s d k e) = keyOf s := keyOf_of_reads hreads
  have hwords : viewWords (fallBack s d k e) = viewWords s := viewWords_of_reads hreads
  rw [missDeadline_recomputes hmoves hf, runFallback_recompute hf]
  · rw [fallbackKey_fallBack, hkey, hwords]
  · rw [fallbackKey_fallBack, hkey, hwords]
    exact recordSound_of_storage storage_fallBack h

section
variable {key list core n : Nat}

theorem changes_startRecompute : Changes [.softBad, .pages, .dies, .crier, .links, .flash] s (startRecompute s d k e key list core n) :=
  changes_of (within_State_count at1 _ _ _ _ (within_modEntry at2 _ _ _ _ _ (within_readSpans at0 at1 at2 at3 at5 _ _ _ (within_refl _ s))))

theorem startRecompute_counter :
    (startRecompute s d k e key list core n).counter (pnAlm d) 3 = s.counter (pnAlm d) 3 + 1 := by
  unfold startRecompute
  rw [State.counter_count_same]
  exact congrArg (· + 1) (counter_of_almanac (almanac_readSpans false [(key, 16)]) d 3)

theorem ring_startRecompute : ((startRecompute s d k e key list core n).die d).ring k =
    { (s.die d).ring k with entries := atPos e.pos (recomputing list core n) ((s.die d).ring k).entries } := by
  refine (ring_modEntry (readSpans s false [(key, 16)]) d k e.pos (recomputing list core n)).trans ?_
  rw [ring_of_almanac (almanac_readSpans false [(key, 16)])]

end

/-- Settles O25: by whether the entry moves data, and by its fallback. -/
theorem deadlineMissed : Obligations.DeadlineMissed := by
  unfold Obligations.DeadlineMissed
  intro s die ring pos e he hdl hphase hmissed htimed hpast moves who at_ ws list core n
  have hexec : execDeadlineMiss die ring pos s = .next (missDeadline s die ring e) :=
    execDeadlineMiss_missed he hdl hphase hmissed htimed hpast
  have hone : (s.count (pnAlm die) 1 1).counter (pnAlm die) 1 = s.counter (pnAlm die) 1 + 1 := State.counter_count_same _ _ _ _
  have hother {j : Nat} (h : j ≠ 1) : (s.count (pnAlm die) 1 1).counter (pnAlm die) j = s.counter (pnAlm die) j :=
    State.counter_count_ne _ _ _ _ _ h
  refine ⟨fun hwaits => ?_, fun hmoves hf hsignals => ?_, fun hmoves hf htier hplace hunit hhigh hupper hlast hsome halign hwithin
    hlist hdie hpart => ?_⟩
  · by_cases hmoves : movesData e.action = true
    · have hf : e.fallback = fbWait := hwaits.resolve_left (absurd hmoves)
      refine ⟨(markMissed s die ring e).count (pnAlm die) 2 1, hexec.trans (congrArg _ (missDeadline_waits hmoves hf)),
        changes_markMissed.trans ((onlyPage_count _ _ _ _).1.mono (by decide)),
        congrArg AlmRing.entries ring_markMissed, ?_, ?_, ?_, ?_⟩
      · rw [State.counter_count_ne _ _ _ _ _ (by decide), markMissed_counter, hone]
      · rw [State.counter_count_same, markMissed_counter, hother (by decide), if_pos hmoves]
        rfl
      · rw [State.evtStatus_count, markMissed_evtStatus]
      · exact noteMiss_queued s die ring e e.deadline false
    · have hnot : movesData e.action = false := by simpa using hmoves
      refine ⟨markMissed s die ring e, hexec.trans (congrArg _ (missDeadline_unmoved hnot)), changes_markMissed,
        congrArg AlmRing.entries ring_markMissed, ?_, ?_, markMissed_evtStatus, noteMiss_queued s die ring e e.deadline false⟩
      · rw [markMissed_counter, hone]
      · rw [markMissed_counter, hother (by decide), if_neg hmoves]
        exact (BitVec.add_zero _).symm
  · have hsig : Signals ((fallBack s die ring e).count (pnAlm die) 5 1) ring e := signals_of_storage (by simp) hsignals
    refine ⟨closeEntry ((fallBack s die ring e).count (pnAlm die) 5 1) die ring e,
      hexec.trans (congrArg _ (missDeadline_skips hmoves hf)),
      entryEnds_closeEntry (fun _ => rfl) (reads_of_storage (by simp)) hsig (congrArg AlmRing.entries ring_fallBack), ?_, ?_⟩
    · rw [closeEntry_counter hsig, State.counter_count_ne _ _ _ _ _ (by decide), fallBack_counter (by decide), hone]
    · rw [closeEntry_counter hsig, State.counter_count_same, fallBack_counter (by decide), hother (by decide)]
      rfl
  · have hsound : RecordSound s die ring at_ ws :=
      ⟨htier, hplace, hunit, hhigh, hupper, hlast, hsome, halign, hwithin, hlist, hdie, hpart⟩
    refine ⟨_, hexec.trans (congrArg _ (missDeadline_recompute hmoves hf hsound)),
      changes_fallBack.trans changes_startRecompute, ?_, ?_⟩
    · rw [startRecompute_counter, fallBack_counter (by decide), hother (by decide)]
    · rw [ring_startRecompute, ring_fallBack]
      exact atPos_atPos (pos := e.pos) (f := fun v => { v with missed := true }) (g := recomputing list core n) (fun _ => rfl) _

end Sys2Proof.Machine

/-! What flits and messages leave of the almanac and of memory, and the entries that send and receive (R353, R434, R441). -/

namespace Sys2Proof.Machine

variable {s t : State}

/-! ### Flits -/

/-- What reading, storing and the almanacs rest on. -/
def State.still (s : State) : (ReadView × ErrorView) × AlmanacView := (s.storage, s.almanac)

section
variable (h : t.still = s.still)
include h
theorem storage_of_still : t.storage = s.storage := congrArg Prod.fst h
theorem reads_of_still : t.reads = s.reads := reads_of_storage (storage_of_still h)
theorem almanac_of_still : t.almanac = s.almanac := congrArg Prod.snd h
theorem signals_of_still {k : Nat} {e : Entry} (hs : Signals s k e) : Signals t k e := signals_of_storage (storage_of_still h) hs
theorem ring_of_still (d k : Nat) : (t.die d).ring k = (s.die d).ring k := ring_of_almanac (almanac_of_still h) d k
theorem counter_of_still (d j : Nat) : t.counter (pnAlm d) j = s.counter (pnAlm d) j := counter_of_almanac (almanac_of_still h) d j
theorem evtStatus_of_still (d : Nat) : (t.page (pnAlm d)).evtStatus = (s.page (pnAlm d)).evtStatus :=
  evtStatus_of_almanac (almanac_of_still h) d
end

theorem still_setHalf (s : State) (h : Nat) (v : Half) : (s.setHalf h v).still = s.still := rfl

theorem still_count (s : State) {pn : Nat} (h : OffAlmanac pn) (k n : Nat) : (s.count pn k n).still = s.still :=
  Prod.ext (storage_count s pn k n) (almanac_count s h k n)

theorem still_sendFlit (s : State) (h c vc : Nat) : (sendFlit s h c vc).still = s.still := by
  unfold sendFlit
  extract_lets p v way s1
  have h1 : s1.still = s.still := (still_setHalf _ _ _).trans (still_count s (offAlmanac_half h) 0 1)
  split
  · exact h1
  · split
    · rfl
    · extract_lets s2
      have h2 : s2.still = s.still := h1
      split <;> exact h2

theorem still_pumpFlits (h n : Nat) (s : State) : (pumpFlits h n s).still = s.still := by
  induction n generalizing s with
  | zero => rfl
  | succ n ih =>
    unfold pumpFlits
    split
    · rfl
    · split
      · rfl
      · exact (ih _).trans (still_sendFlit _ _ _ _)

theorem still_pumpPort (s : State) (h : Nat) : (pumpPort s h).still = s.still := still_pumpFlits _ _ _

theorem still_pumpCtx (s : State) (c : Nat) : (pumpCtx s c).still = s.still := by
  unfold pumpCtx
  split
  · rfl
  · exact still_pumpPort _ _

theorem still_sendMsg {c key : Nat} {m : OutMsg} {w : Waiter} (h : sendMsg s c m key w = some t) : t.still = s.still := by
  unfold sendMsg at h
  extract_lets p asks tag n u at h
  split at h
  · obtain rfl := Option.some.inj h
    exact still_pumpCtx _ _
  · exact absurd h (by simp)

theorem sendMsg_none {c key : Nat} {m : OutMsg} {w : Waiter} (h : (s.peer c).phase ≠ .ready) : sendMsg s c m key w = none := if_neg h

/-! ### Entries that fail as they fire -/

/-- An entry that fires, and fails. -/
theorem entryFails_fire {d k : Nat} {e : Entry} (h : Signals s k e) : EntryFails s (failedEntry (fire s d k e) d k e) d k e :=
  entryFails_of_done (reads_of_storage (storage_fire s d k e)) (signals_of_storage (storage_fire s d k e) h)
    (done_fire s d k e fun _ => rfl)
    ((fire_counter s d k e (by decide) (by decide)).trans (State.counter_count_ne _ _ _ _ _ (by decide)))
    (fire_evtStatus s d k _ e)

/-- The trap that a refused entry raises. -/
def refusal (k reason : Nat) : TrapInfo :=
  { code := trapDescriptor, level := 1, part := some (ringPart k), ctx := some (ringCtx k), detail := fields [(0, reason)] }

theorem refusedEntry_eq (s : State) (d k reason : Nat) (e : Entry) :
    refusedEntry s d k reason e = failedEntry (raiseTrap s (pnAlm d) (refusal k reason)) d k e := rfl

/-- An entry that fires, and is refused. -/
theorem entryFails_refused_fire {d k reason : Nat} {e : Entry} (h : Signals s k e) :
    EntryFails s (refusedEntry (fire s d k e) d k reason e) d k e := by
  have hst : (raiseTrap (fire s d k e) (pnAlm d) (refusal k reason)).storage = s.storage :=
    (storage_raiseTrap _ _ _).trans (storage_fire s d k e)
  rw [refusedEntry_eq]
  refine entryFails_of_done (reads_of_storage hst) (signals_of_storage hst h) ?_ ?_ ?_
  · rw [raiseTrap_die]
    exact done_fire s d k e fun _ => rfl
  · rw [raiseTrap_counter_noCore _ _ rfl, fire_counter s d k e (by decide) (by decide)]
    exact State.counter_count_ne _ _ _ _ _ (by decide)
  · rw [raiseTrap_evtStatus, fire_evtStatus]

/-! ### SEND and RECV_EXPECT (R353, R441) -/

/-- The TILE_RTS of an entry. -/
def rtsOf (e : Entry) : OutMsg := { ctx := e.target, op := .tileRts, mseq := 0, operand := BitVec.ofNat 64 e.bytes }

theorem fire_links (s : State) (d k : Nat) (e : Entry) : (fire s d k e).links = s.links :=
  changes_fire s d k e .links (by decide)

theorem fire_peer (s : State) (d k : Nat) (e : Entry) (c : Nat) : (fire s d k e).peer c = s.peer c := by
  unfold State.peer
  rw [fire_links]

section
variable {d k : Nat} {e : Entry}

theorem execSend_ok (he : firing s d k actSend true = some e) (hok : entryCtxOk s k e.target = true) :
    execSend d k s = .next ((sendMsg (fire s d k e) e.target (rtsOf e) 0 (.entry d k e.pos)).getD (failEntry (fire s d k e) d k e)) := by
  unfold execSend
  simp only [he, hok, Bool.not_true, Bool.false_eq_true, if_false]
  generalize hsent : sendMsg (fire s d k e) e.target (rtsOf e) 0 (.entry d k e.pos) = sent
  unfold rtsOf at hsent
  rw [hsent]
  cases sent <;> rfl

theorem execSend_refused (he : firing s d k actSend true = some e) (hok : entryCtxOk s k e.target = false) :
    execSend d k s = .next (refuseEntry (fire s d k e) d k 0x03 e) := by
  unfold execSend
  simp only [he, hok, Bool.not_false, if_true]

theorem execRecvExpect_refused (he : firing s d k actRecv true = some e) (hok : entryCtxOk s k e.source = false) :
    execRecvExpect d k s = .next (refuseEntry (fire s d k e) d k 0x03 e) := by
  unfold execRecvExpect
  simp only [he, hok, Bool.not_false, if_true]

/-- The reception that an entry arms. -/
def recvOf (d k : Nat) (e : Entry) : Recv := { die := d, ring := k, pos := e.pos, ctx := e.source, target := e.target, size := e.bytes }

/-- A reception is armed. -/
def armRecv (s : State) (r : Recv) : State := { s with links := { s.links with recvs := s.links.recvs ++ [r] } }

theorem matchRts_none {c : Nat} (h : (s.links.rtsWaits.find? fun r => r.ctx == c) = none) : matchRts s c = s := by
  unfold matchRts
  rw [h]

theorem execRecvExpect_arms (he : firing s d k actRecv true = some e) (hok : entryCtxOk s k e.source = true)
    (hphase : (s.peer e.source).phase ≠ .error) (hrts : (s.links.rtsWaits.find? fun r => r.ctx == e.source) = none) :
    execRecvExpect d k s = .next (armRecv (fire s d k e) (recvOf d k e)) := by
  have hmatch : matchRts (armRecv (fire s d k e) (recvOf d k e)) e.source = armRecv (fire s d k e) (recvOf d k e) :=
    matchRts_none ((congrArg (fun l : Links => l.rtsWaits.find? fun r => r.ctx == e.source) (fire_links s d k e)).trans hrts)
  unfold execRecvExpect
  simp only [he, hok, hphase, Bool.not_true, Bool.false_eq_true, if_false]
  exact congrArg _ hmatch

theorem entryCtxOk_of_ready {c : Nat} (hready : (s.peer c).phase = .ready) (hpart : (s.peer c).part = ringPart k) :
    entryCtxOk s k c = true := by
  unfold entryCtxOk ctxOwner
  simp [hready, hpart]

end

/-- Settles O26: a SEND by whether its context is of the partition and READY, a RECV_EXPECT by whether its is. -/
theorem sendAndReceiveArm : Obligations.SendAndReceiveArm := by
  unfold Obligations.SendAndReceiveArm
  intro s die ring e
  refine ⟨fun he hready hpart => ?_, fun he hlost hsignals => ?_, fun he hok hsignals => ?_, fun he hphase hok hrts => ?_⟩
  · obtain ⟨t, hsent, -, hseq, -, -, -, -, -, u, hu, hwaiter, -, hmsg⟩ := sendMsg_some (s := fire s die ring e) (c := e.target)
      (by rw [fire_peer]; exact hready) (rtsOf e) 0 (.entry die ring e.pos)
    rw [fire_peer] at hseq hmsg
    have hstill := still_sendMsg hsent
    refine ⟨t, u, (execSend_ok he (entryCtxOk_of_ready hready hpart)).trans (by rw [hsent]; rfl), ⟨?_, ?_⟩, hseq, hu, ?_, ?_, ?_, hwaiter⟩
    · rw [ring_of_still hstill]
      exact ring_fire s die ring e
    · rw [counter_of_still hstill]
      exact (fired_fire s die ring e).counted
    · rw [hmsg]; rfl
    · rw [hmsg]
    · rw [hmsg]; rfl
  · by_cases hok : entryCtxOk s ring e.target = true
    · have hready : (s.peer e.target).phase ≠ .ready := hlost.resolve_right fun h => absurd (hok.symm.trans h) (by decide)
      have hnone := sendMsg_none (s := fire s die ring e) (key := 0) (m := rtsOf e) (w := .entry die ring e.pos)
        (by rw [fire_peer]; exact hready)
      exact ⟨_, (execSend_ok he hok).trans (by rw [hnone]; rfl), entryFails_fire hsignals⟩
    · exact ⟨_, execSend_refused he (by simpa using hok), entryFails_refused_fire hsignals⟩
  · exact ⟨_, execRecvExpect_refused he hok, entryFails_refused_fire hsignals⟩
  · refine ⟨_, execRecvExpect_arms he hok hphase hrts, ?_, ?_, ?_⟩
    · exact Changes.setLinks ((changes_fire s die ring e).mono (by decide)) (by decide) _
    · exact ⟨ring_fire s die ring e, (fired_fire s die ring e).counted⟩
    · exact congrArg (fun l : Links => { l with recvs := l.recvs ++ [recvOf die ring e] }) (fire_links s die ring e)

end Sys2Proof.Machine

/-! Entries that fire (R353, R354). A lender's context that another context of the same number hides is found by `lenderCtxs`
and not by `State.peer`: no bytes are asked for there, and the entry fails as it fires. -/

namespace Sys2Proof.Machine

theorem execPrefetch_fires {s : State} {d k : Nat} {e : Entry} (he : firing s d k actPrefetch true = some e) :
    execPrefetch d k s = .next (startCopy (fire s d k e) d k e e.source) := by
  unfold execPrefetch
  rw [he]

/-! ### A hidden lender -/

/-- A PREFETCH of 256 bytes from offset 0 of granary handle 0. -/
def farPrefetch : Entry := { pos := 0, words := [0, 0, 0, 0, 0x10000, 0, 0x2000, 0x40000000] }

/-- A job of two devices in which rank 1 lends 64 KiB of slab under handle 0. -/
def borrowingJob : Job :=
  { jobId := 1, training := true, level := 2, ctxMask := 1, evalMask := 0, mapping := List.replicate 8 0x10000,
    devlist := List.replicate 2 { deviceId := 0, node := 0, slot := 0 }, granary := [[1, 1, 0, 0x1000, 1, 0, 0, 0]], rank := 0,
    pendingAt := 0 }

/-- A READY context of partition 0 to rank 1. -/
def lenderPeer : Peer :=
  { phase := .ready, words := (List.range 16).map fun k => if k = 0 then 0x200 else if k = 4 then 0x8001 else 0 }

/-- Context 7 is listed twice: closed, and then READY to the lender. -/
def hiddenLender : State where
  parts := [(0, { cur := some 0, jobs := [borrowingJob] })]
  dies := [(0, { rings := [(0, { entries := [farPrefetch] })] })]
  links := { peers := [(7, {}), (7, lenderPeer)] }

theorem hiddenLender_fires : firing hiddenLender 0 0 actPrefetch true = some farPrefetch := by decide +kernel

theorem hiddenLender_remote : keyRemote (entryKey hiddenLender 0 0 farPrefetch.source) = true := by decide +kernel

theorem hiddenLender_lends : lenderCtxs hiddenLender (entryWho 0 0) farPrefetch.source ≠ [] := by decide +kernel

/-- The entry has failed and is passed. -/
theorem hiddenLender_passed :
    (((startCopy (fire hiddenLender 0 0 farPrefetch) 0 0 farPrefetch farPrefetch.source).die 0).ring 0).entries = [] := by
  decide +kernel

/-- Refutes O23: `hiddenLender` has a READY context to the lender, and its PREFETCH is not in flight but has failed. -/
theorem not_entriesFire : ¬ Obligations.EntriesFire := by
  unfold Obligations.EntriesFire
  intro h
  obtain ⟨-, -, hfar, -, -⟩ := h hiddenLender 0 0 farPrefetch
  obtain ⟨t, ht, -, hring, -⟩ := hfar hiddenLender_fires hiddenLender_remote hiddenLender_lends
  obtain rfl : startCopy (fire hiddenLender 0 0 farPrefetch) 0 0 farPrefetch farPrefetch.source = t :=
    Host.Outcome.next.inj ((execPrefetch_fires hiddenLender_fires).symm.trans ht)
  have hentries := congrArg AlmRing.entries hring
  rw [hiddenLender_passed] at hentries
  exact absurd hentries (by decide)

end Sys2Proof.Machine

/-! Tile transfers: a TILE_RTS and its reception, and the bytes of TILE_DATA (R353, R441). -/

namespace Sys2Proof.Machine

variable {s : State}

/-! ### The state in which a message has its effect -/

theorem still_takeFlits (s : State) (h : Nat) (p : Peer) (vc n : Nat) : (takeFlits s h p vc n).still = s.still := by
  unfold takeFlits
  split
  · rfl
  · exact still_count s (offAlmanac_half h) 1 n

theorem still_received (s : State) (op : MsgOp) (m : LinkMsg) : (received s op m).still = s.still := still_takeFlits _ _ _ _ _

theorem received_recvs (s : State) (op : MsgOp) (m : LinkMsg) : (received s op m).links.recvs = s.links.recvs := by
  unfold received takeFlits
  split <;> rfl

theorem received_rtsWaits (s : State) (op : MsgOp) (m : LinkMsg) : (received s op m).links.rtsWaits = s.links.rtsWaits := by
  unfold received takeFlits
  split <;> rfl

theorem received_ctl (s : State) (op : MsgOp) (m : LinkMsg) : ((received s op m).peer m.ctx).ctl = (s.peer m.ctx).ctl := by
  rw [received_peer]

/-- The receptions, and the TILE_RTS that wait, replaced. -/
def State.setTiles (s : State) (recvs : List Recv) (waits : List RtsWait) : State :=
  { s with links := { s.links with recvs := recvs, rtsWaits := waits } }

theorem still_setTiles (s : State) (recvs : List Recv) (waits : List RtsWait) : (s.setTiles recvs waits).still = s.still := rfl
theorem expects_setTiles (s : State) (recvs : List Recv) (waits : List RtsWait) : (s.setTiles recvs waits).expects = s.expects := rfl

theorem nextMsg_setTiles (op : MsgOp) (m : LinkMsg) (recvs : List Recv) (waits : List RtsWait) :
    NextMsg s ((received s op m).setTiles recvs waits) m.ctx :=
  (nextMsg_received s op m).of_expects (expects_setTiles _ recvs waits)

theorem changes_setTiles (op : MsgOp) (m : LinkMsg) (recvs : List Recv) (waits : List RtsWait) :
    Changes [.out, .pages, .links] s ((received s op m).setTiles recvs waits) :=
  (changes_received s op m).setLinks (by decide) _

/-! ### TILE_RTS -/

/-- The TILE_RTS that a message is, as it waits. -/
def rtsWait (m : LinkMsg) : RtsWait := { ctx := m.ctx, mseq := m.mseq, tag := m.reqTag, size := m.operand.toNat }

/-- A TILE_RTS that is next joins those that wait, and may meet its reception. -/
theorem exec_tileRts {m : LinkMsg} (h : Taken s .tileRts m) : exec (.tileRts m) s = .next
    (matchRts ((received s .tileRts m).setTiles s.links.recvs (s.links.rtsWaits ++ [rtsWait m])) m.ctx) := by
  have heffect : effectOf (received s .tileRts m) m.ctx .tileRts m =
      { s := matchRts ((received s .tileRts m).setTiles s.links.recvs (s.links.rtsWaits ++ [rtsWait m])) m.ctx, later := true } := by
    rw [← received_recvs s .tileRts m, ← received_rtsWaits s .tileRts m]
    rfl
  refine congrArg Host.Outcome.next ((arriveMsg_taken h).trans ?_)
  unfold takeMsg
  rw [takeFlits_peer]
  exact congrArg (fun e : Effect => if e.later then e.s else match e.nak with
    | some k => sendCtl e.s m.ctx (.nak m.mseq k m.reqTag)
    | none => sendCtl e.s m.ctx (.ack m.mseq m.reqTag)) heffect

section
variable {waits : List RtsWait} {w : RtsWait} {p : RtsWait → Bool} (hnone : ∀ v ∈ waits, p v = false) (hw : p w = true)
include hnone hw

theorem find?_append_of_none : (waits ++ [w]).find? p = some w := by
  rw [List.find?_append, List.find?_eq_none.2 fun v hv => by rw [hnone v hv]; decide]
  simp [hw]

theorem eraseFirst_append_of_none : eraseFirst p (waits ++ [w]) = waits := by
  induction waits with
  | nil => simp [eraseFirst, hw]
  | cons v vs ih =>
    rw [List.cons_append, eraseFirst, hnone v List.mem_cons_self]
    simp only [Bool.false_eq_true, if_false]
    rw [ih fun u hu => hnone u (List.mem_cons_of_mem _ hu)]

end

/-- No reception of a context waits for a TILE_RTS. -/
theorem matchRts_unmet {c : Nat} (h : (s.links.recvs.find? fun r => r.ctx == c && r.matched.isNone) = none) : matchRts s c = s := by
  unfold matchRts
  rw [h]
  cases s.links.rtsWaits.find? fun r => r.ctx == c <;> rfl

/-- The receptions of an entry. -/
def Recv.isOf (r v : Recv) : Bool := v.die == r.die && v.ring == r.ring && v.pos == r.pos

theorem Recv.isOf_self (r : Recv) : r.isOf r = true := by simp [Recv.isOf]

/-- A reception has met a transfer of a size. -/
def Recv.met (r : Recv) (size : Nat) (v : Recv) : Recv := if r.isOf v then { v with matched := some size } else v

/-- A reception meets a TILE_RTS of its own size: it is answered. -/
theorem matchRts_met {c : Nat} {q : RtsWait} {r : Recv} (hq : (s.links.rtsWaits.find? fun r => r.ctx == c) = some q)
    (hr : (s.links.recvs.find? fun r => r.ctx == c && r.matched.isNone) = some r) (hsize : q.size = r.size) :
    matchRts s c = sendCtl (s.setTiles (s.links.recvs.map (r.met r.size)) (eraseFirst (fun v => v.ctx == c) s.links.rtsWaits)) c
      (.ack q.mseq q.tag) := by
  unfold matchRts
  rw [hq, hr]
  simp only [hsize, ne_eq, not_true_eq_false, decide_false, Bool.or_false, Bool.false_and, Bool.false_eq_true, if_false]
  rfl

/-! ### TILE_DATA -/

/-- The receptions that are left after bytes have landed: the reception with their sum, or without it after the last of them. -/
def recvsLeft (l : List Recv) (r : Recv) (total : Nat) (ends : Bool) : List Recv :=
  if ends then l.filter fun v => !r.isOf v else l.map fun v => if r.isOf v then { v with landed := total } else v

section
variable {c : Nat} {m : LinkMsg} {r : Recv} {e : Entry}
  (hr : (s.links.recvs.find? fun r => r.ctx == c && r.matched.isSome) = some r) (hdead : r.dead = false)
  (he : entryOf s r.die r.ring r.pos = some e)
include hr hdead he

theorem effTile_unread (hsub : m.subop ≠ 0) : effTile s c m =
    failEntry (stopTransfer (s.setTiles (recvsLeft s.links.recvs r 0 true) s.links.rtsWaits) r.die r.ring r.pos) r.die r.ring e := by
  unfold effTile
  rw [hr]
  dsimp -zeta only
  extract_lets size bs total same left links s1 key st s2
  have hleft : left = recvsLeft s.links.recvs r 0 true := if_pos (.inr hsub)
  have hs1 : s1 = s.setTiles (recvsLeft s.links.recvs r 0 true) s.links.rtsWaits := by rw [← hleft]; rfl
  rw [show entryOf s1 r.die r.ring r.pos = some e from he, ← hs1]
  dsimp only
  rw [if_neg (by rw [hdead]; decide), if_pos hsub]

/-- Bytes of the transfer land, and the last of them end the entry. -/
theorem effTile_lands {n : Nat} {bs : List Byte} (hsub : m.subop = 0) (hn : n = r.matched.getD 0)
    (hbs : bs = m.data.take (n - r.landed))
    (hplain : PlainStore s (entryKey s r.die r.ring (r.target + r.landed)) bs.length) :
    effTile s c m =
      let ends := decide (n ≤ r.landed + bs.length)
      let t := landBytes (s.setTiles (recvsLeft s.links.recvs r (r.landed + bs.length) ends) s.links.rtsWaits)
        (entryKey s r.die r.ring (r.target + r.landed)) bs
      if ends then finishEntry t r.die r.ring e else t := by
  subst hn hbs
  unfold effTile
  rw [hr]
  dsimp -zeta only
  extract_lets size bs total same left links s1 key st s2 ends t
  have hleft : left = recvsLeft s.links.recvs r total ends := by
    unfold left ends recvsLeft
    simp only [hsub, ne_eq, not_true_eq_false, or_false, decide_eq_true_eq]
    rfl
  have hs1 : s1 = s.setTiles (recvsLeft s.links.recvs r total ends) s.links.rtsWaits := by rw [← hleft]; rfl
  have hkey : key = entryKey s r.die r.ring (r.target + r.landed) := by
    unfold key
    rw [entryKey_of_reads (reads_of_still (show s1.still = s.still from rfl))]
  have hst : st = (memWrite (slabTraffic s1 key bs.length true false) key bs, none) :=
    memStores_plain (by rw [hkey]; exact hplain) false
  have hs2 : s2 = t := by
    unfold s2
    rw [hst, hkey, hs1]
    rfl
  rw [show entryOf s1 r.die r.ring r.pos = some e from he, hs2, hst]
  simp only [hdead, hsub, ne_eq, not_true_eq_false, if_false, Bool.false_eq_true, ends, decide_eq_true_eq]
  rfl

end

/-! ### What lands, and what is left -/

/-- A reception that stays has the bytes counted. -/
theorem mem_recvsLeft {l : List Recv} {r : Recv} {p : Recv → Bool} (h : l.find? p = some r) (total : Nat) :
    { r with landed := total } ∈ recvsLeft l r total false := by
  have hmem : r ∈ l := List.mem_of_find?_eq_some h
  unfold recvsLeft
  rw [if_neg (by decide)]
  exact List.mem_map.2 ⟨r, hmem, if_pos r.isOf_self⟩

theorem changes_landBytes (s : State) (a : Nat) (bs : List Byte) : Changes [.mem, .tags, .pages] s (landBytes s a bs) :=
  ((changes_slabTraffic _ a bs.length true false).mono (by decide)).trans
    (((changes_of (within_memWrite (S := (· ∈ [Piece.mem])) at0 _ _ _ (within_refl _ _)) : Changes _ _ _).mono (by decide)).trans
      ((changes_setTags _ 0 _).mono (by decide)))

theorem landBytes_links (s : State) (a : Nat) (bs : List Byte) : (landBytes s a bs).links = s.links :=
  changes_landBytes s a bs .links (by decide)

theorem landBytes_mem (s : State) (a : Nat) (bs : List Byte) : (landBytes s a bs).mem = (memWrite s a bs).mem :=
  congrArg ReadView.mem (reads_landBytes s a bs)

theorem still_stopTransfer (s : State) (d k pos : Nat) : (stopTransfer s d k pos).still = s.still := rfl

section
variable {m : LinkMsg} {r : Recv} {e : Entry} (htaken : Taken s .tileData m)
  (hr : (s.links.recvs.find? fun r => r.ctx == m.ctx && r.matched.isSome) = some r) (hdead : r.dead = false)
  (he : entryOf s r.die r.ring r.pos = some e)

include htaken in
/-- TILE_DATA that is next is acknowledged. -/
theorem exec_tileData {t : State} (h : effTile (received s .tileData m) m.ctx m = t) :
    exec (.tileData m) s = .next (sendCtl t m.ctx (.ack m.mseq m.reqTag)) :=
  congrArg Host.Outcome.next (arriveMsg_acked htaken (congrArg (fun u : State => ({ s := u } : Effect)) h))

include hr in
theorem recv_received : ((received s .tileData m).links.recvs.find? fun r => r.ctx == m.ctx && r.matched.isSome) = some r := by
  rw [received_recvs]
  exact hr

include he in
theorem entryOf_received : entryOf (received s .tileData m) r.die r.ring r.pos = some e := by
  unfold entryOf
  rw [ring_of_still (still_received s .tileData m)]
  exact he

/-- The receptions after `total` bytes have landed, in the state of the message's effect. -/
def landedState (s : State) (m : LinkMsg) (r : Recv) (total : Nat) (ends : Bool) : State :=
  (received s .tileData m).setTiles (recvsLeft s.links.recvs r total ends) s.links.rtsWaits

theorem still_landedState (m : LinkMsg) (r : Recv) (total : Nat) (ends : Bool) : (landedState s m r total ends).still = s.still :=
  (still_setTiles _ _ _).trans (still_received s .tileData m)

include htaken hr hdead he

theorem exec_tileData_unread (hsub : m.subop ≠ 0) : exec (.tileData m) s = .next (sendCtl
    (failEntry (stopTransfer (landedState s m r 0 true) r.die r.ring r.pos) r.die r.ring e) m.ctx (.ack m.mseq m.reqTag)) := by
  refine exec_tileData htaken ?_
  rw [effTile_unread (recv_received hr) hdead (entryOf_received he) hsub, received_recvs, received_rtsWaits]
  rfl

theorem exec_tileData_lands {key : Nat} {bs : List Byte} (hsub : m.subop = 0)
    (hkey : key = entryKey s r.die r.ring (r.target + r.landed)) (hbs : bs = m.data.take (r.matched.getD 0 - r.landed))
    (hplain : PlainStore s key bs.length) : exec (.tileData m) s = .next (sendCtl
      (let ends := decide (r.matched.getD 0 ≤ r.landed + bs.length)
       let t := landBytes (landedState s m r (r.landed + bs.length) ends) key bs
       if ends then finishEntry t r.die r.ring e else t) m.ctx (.ack m.mseq m.reqTag)) := by
  have hstill := still_received s .tileData m
  have hkey0 : entryKey (received s .tileData m) r.die r.ring (r.target + r.landed) = key := by
    rw [entryKey_of_reads (reads_of_still hstill), hkey]
  refine exec_tileData htaken ?_
  rw [effTile_lands (recv_received hr) hdead (entryOf_received he) hsub rfl hbs
    (by rw [hkey0]; exact plainStore_of_storage (storage_of_still hstill) hplain), hkey0, received_recvs, received_rtsWaits]
  rfl

end

/-- Settles O38: a TILE_RTS by whether its reception is armed, and TILE_DATA by whether it could be read and is the last. -/
theorem tilesTransferred : Obligations.TilesTransferred := by
  unfold Obligations.TilesTransferred
  intro s m acked
  refine ⟨fun htaken hwaits => ⟨fun hunmet => ?_, fun r hr hsize => ?_⟩, ?_⟩
  · exact ⟨_, (exec_tileRts htaken).trans (congrArg _ (matchRts_unmet hunmet)), changes_setTiles .tileRts m _ _,
      nextMsg_setTiles .tileRts m _ _, received_ctl s .tileRts m, rfl⟩
  · have hnone : ∀ v ∈ s.links.rtsWaits, (v.ctx == m.ctx) = false := fun v hv => by simpa using hwaits v hv
    have hself : ((rtsWait m).ctx == m.ctx) = true := beq_self_eq_true _
    have hmet := matchRts_met (s := (received s .tileRts m).setTiles s.links.recvs (s.links.rtsWaits ++ [rtsWait m]))
      (find?_append_of_none hnone hself) hr hsize.symm
    exact ⟨_, (exec_tileRts htaken).trans (congrArg _ hmet), changes_setTiles .tileRts m _ _, nextMsg_setTiles .tileRts m _ _,
      eraseFirst_append_of_none hnone hself, List.mem_map.2 ⟨r, List.mem_of_find?_eq_some hr, if_pos r.isOf_self⟩⟩
  · intro r e htaken hr hdead he bs key
    have hlands (hsub : m.subop = 0) (hplain : PlainStore s key bs.length) :=
      exec_tileData_lands htaken hr hdead he hsub rfl rfl hplain
    refine ⟨fun hsub hsignals => ?_, fun hsub hplain hmore => ?_, fun hsub hplain hlast hsignals => ?_⟩
    · have hstill : (stopTransfer (landedState s m r 0 true) r.die r.ring r.pos).still = s.still :=
        (still_stopTransfer _ _ _ _).trans (still_landedState m r 0 true)
      exact ⟨_, exec_tileData_unread htaken hr hdead he hsub, entryFails_failedEntry (reads_of_still hstill)
        (signals_of_still hstill hsignals) (congrArg AlmRing.entries (ring_of_still hstill _ _)) (counter_of_still hstill _ _)
        (evtStatus_of_still hstill _)⟩
    · have hends : decide (r.matched.getD 0 ≤ r.landed + bs.length) = false := decide_eq_false (Nat.not_le.2 hmore)
      refine ⟨landBytes (landedState s m r (r.landed + bs.length) false) key bs, ?_, ?_, ?_, ?_, fun a => ?_⟩
      · refine (hlands hsub hplain).trans ?_
        rw [hends]
        rfl
      · exact ((changes_setTiles .tileData m _ _).mono (by decide)).trans ((changes_landBytes _ key bs).mono (by decide))
      · exact (nextMsg_setTiles .tileData m _ _).of_expects (expects_of_links (landBytes_links _ key bs))
      · rw [landBytes_links]
        exact mem_recvsLeft hr _
      · unfold memByte
        rw [landBytes_mem]
        exact congrArg (fun v : ReadView => mget 0 v.mem a)
          (reads_memWrite_congr (reads_of_still (still_landedState m r (r.landed + bs.length) false)) key bs)
    · have hends : decide (r.matched.getD 0 ≤ r.landed + bs.length) = true := decide_eq_true hlast
      have hstill := still_landedState (s := s) m r (r.landed + bs.length) true
      refine ⟨closeEntry (landBytes (landedState s m r (r.landed + bs.length) true) key bs) r.die r.ring e, ?_, ?_⟩
      · refine (hlands hsub hplain).trans ?_
        rw [hends]
        rfl
      · refine entryEnds_closeEntry (fun _ => rfl) ?_ (signals_landBytes key bs (signals_of_still hstill hsignals)) ?_
        · exact (reads_landBytes _ key bs).trans (reads_memWrite_congr (reads_of_still hstill) key bs)
        · rw [ring_of_almanac (almanac_landBytes _ key bs), ring_of_still hstill]
          unfold atPos
          simp

end Sys2Proof.Machine

/-! Rings that go on: passing, reading, and the write of TAIL (R350, R351, R364). -/

namespace Sys2Proof.Machine

variable {s t : State} {d k : Nat}

/-! ### Passing -/

@[simp] theorem storage_passEntries (s : State) (d k : Nat) : (passEntries s d k).storage = s.storage := storage_setRing s d k _

theorem changes_passEntries (s : State) (d k : Nat) : Changes [.dies] s (passEntries s d k) :=
  changes_of (within_State_modDie at0 _ _ _ (within_refl _ s))

/-- The entries of a ring that are done at its front. -/
def AlmRing.donePrefix (r : AlmRing) : Nat := (r.entries.takeWhile fun e => e.phase == .done).length

theorem ring_passEntries (s : State) (d k : Nat) : ((passEntries s d k).die d).ring k =
    { (s.die d).ring k with head := ((s.die d).ring k).head + BitVec.ofNat 17 ((s.die d).ring k).donePrefix,
                            entries := ((s.die d).ring k).entries.drop ((s.die d).ring k).donePrefix } :=
  ring_modDie s d k _

/-- A ring without an entry that is done at its front stays as it is. -/
theorem ring_passEntries_of_waiting (h : ((s.die d).ring k).donePrefix = 0) :
    ((passEntries s d k).die d).ring k = (s.die d).ring k := by
  rw [ring_passEntries, h]
  simp

theorem donePrefix_of_nil {r : AlmRing} (h : r.entries = []) : r.donePrefix = 0 := by
  unfold AlmRing.donePrefix
  rw [h]
  rfl

/-- A ring whose one entry is done is empty after it. -/
theorem entries_passEntries_of_done {e : Entry} (h : ((s.die d).ring k).entries = [e]) (hdone : e.phase = .done) :
    (((passEntries s d k).die d).ring k).entries = [] := by
  rw [ring_passEntries]
  unfold AlmRing.donePrefix
  rw [h]
  simp [hdone]

/-! ### A ring that has nothing to read, and one that has one entry -/

theorem readsOn_caughtUp (h : ((s.die d).ring k).fetched = ((s.die d).ring k).tail) : readsOn s d k = false := by
  unfold readsOn
  simp [h]

theorem readsOn_off (h : almOn s d k = false) : readsOn s d k = false := by
  unfold readsOn
  simp [h]

theorem readsOn_passEntries_caughtUp (h : ((s.die d).ring k).fetched = ((s.die d).ring k).tail) :
    readsOn (passEntries s d k) d k = false :=
  readsOn_caughtUp (by rw [ring_passEntries]; exact h)

theorem settleRing_idle (h : readsOn (passEntries s d k) d k = false) : settleRing s d k = passEntries s d k := by
  unfold settleRing runRing
  simp [h]

theorem settleRing_one (h : readsOn (passEntries s d k) d k = true)
    (hend : readsOn (passEntries (readEntry (passEntries s d k) d k) d k) d k = false) :
    settleRing s d k = passEntries (readEntry (passEntries s d k) d k) d k := by
  have hrest (n : Nat) : runRing d k n (readEntry (passEntries s d k) d k) = passEntries (readEntry (passEntries s d k) d k) d k := by
    cases n with
    | zero => rfl
    | succ n => simp [runRing, hend]
  unfold settleRing
  extract_lets r
  rw [runRing, if_pos h, hrest]

/-! ### What settles a gate, and what checks an entry (R351, R364) -/

section
variable (hreads : t.reads = s.reads) (hbell : t.bell = s.bell)
include hreads hbell

theorem ringSelfTimed_of_reads : ringSelfTimed t = ringSelfTimed s := by
  funext k
  unfold ringSelfTimed
  rw [hbell, trainingPart_of_reads hreads]

theorem sampleGate_of_reads : sampleGate t = sampleGate s := by
  funext k e
  unfold sampleGate
  rw [hbell, ringSelfTimed_of_reads hreads hbell, gateMet_of_reads hreads]

end

theorem checkEntry_of_reads (h : t.reads = s.reads) : checkEntry t = checkEntry s := by
  delta checkEntry checkPlaces ringLevel ofTraining leadDie ownsOnDie
  rw [jobOf_of_reads h, entryGranted_of_reads h, quadsOf_of_reads h]

theorem sampleGate_words (s : State) (k : Nat) (e : Entry) : (sampleGate s k e).words = e.words := by
  unfold sampleGate
  split <;> rfl

theorem sampleGate_phase (s : State) (k : Nat) (e : Entry) : (sampleGate s k e).phase = e.phase := by
  unfold sampleGate
  split <;> rfl

/-! ### One entry that is read and accepted (R351) -/

/-- The entry that a ring reads next. -/
def entryRead (s : State) (d k : Nat) : Entry :=
  let r := (s.die d).ring k
  sampleGate s k
    { pos := r.fetched.toNat, words := viewWords s (s.regAddr (pnAlm d) (almReg k 0) + 32 * (r.fetched.toNat % 2 ^ almLog2 s d k)) 8 }

/-- A ring with an entry that has been read. -/
def AlmRing.withEntry (r : AlmRing) (e : Entry) : AlmRing :=
  { r with fetched := r.fetched + 1, entries := r.entries ++ [e], lastTime := BitVec.ofNat 64 e.time }

/-- The entry is read: it joins its ring, and its bytes are traffic of the slab. -/
def joinEntry (s : State) (d k : Nat) (e : Entry) : State :=
  slabTraffic (s.modDie d fun v => v.setRing k (((s.die d).ring k).withEntry e))
    (s.regAddr (pnAlm d) (almReg k 0) + 32 * (((s.die d).ring k).fetched.toNat % 2 ^ almLog2 s d k)) 32 false false

theorem viewWords_length (s : State) (a n : Nat) : (viewWords s a n).length = n := by
  unfold viewWords
  rw [List.length_map, List.length_range]

theorem readEntry_accepted {key : Nat}
    (hkey : key = s.regAddr (pnAlm d) (almReg k 0) + 32 * (((s.die d).ring k).fetched.toNat % 2 ^ almLog2 s d k))
    (htier : tierOf key = 1) (hdie : bits key 43 36 / 40 = d) (hgrant : inGrants s (entryWho d k) false key 32 = true)
    (hbad : s.bad = []) (hsoft : s.softBad = [])
    (hcheck : checkEntry s d k ((s.die d).ring k).lastTime.toNat (entryRead s d k) = 0) :
    readEntry s d k = if isSkipped (entryRead s d k) then skipWindow (joinEntry s d k (entryRead s d k)) d k (entryRead s d k)
      else joinEntry s d k (entryRead s d k) := by
  have hclean : cleanTier s (tierOf key) = true := by
    unfold cleanTier
    rw [htier, hbad, hsoft]
    rfl
  have hunit : badUnit s key 32 = none := badUnit_of_cleanTier hclean 32
  have hwords : (entryRead s d k).words.isEmpty = false := by
    have hlen : (entryRead s d k).words.length = 8 := by
      unfold entryRead
      rw [sampleGate_words, viewWords_length]
    cases hw : (entryRead s d k).words with
    | nil => rw [hw] at hlen; cases hlen
    | cons w ws => rfl
  unfold readEntry
  extract_lets r i a here e s1 reason s2
  have ha : a = key := hkey.symm
  have hhere : here = true := by
    unfold here
    rw [ha, htier, hdie, hgrant]
    simp
  have he : e = entryRead s d k := by
    unfold e entryRead
    rw [hhere, ha, hunit]
    simp [hkey, r, i]
  have hs2 : s2 = joinEntry s d k (entryRead s d k) := by
    have hs1 : s1.errors = s.errors := errors_of_storage (storage_setRing s d k _)
    have hnone : correctSpan s1 a 32 = s1 := correctSpan_none (by rw [ha, cleanTier_of_errors hs1]; exact hclean) 32
    unfold s2 readSpans joinEntry
    simp only [List.foldl_cons, List.foldl_nil, hnone]
    unfold s1
    rw [he, hwords]
    rfl
  have hreason : reason = 0 := by
    unfold reason
    rw [he]
    exact hcheck
  rw [hhere, ha, hunit]
  dsimp only
  rw [hreason, hs2, he]
  simp

end Sys2Proof.Machine

/-! The write of an almanac ring's TAIL (R350, R351, R364, R368). -/

namespace Sys2Proof.Machine

variable {s : State} {d k : Nat}

/-- A ring under a tail that is written. -/
def AlmRing.upTo (r : AlmRing) (tail : BitVec 17) : AlmRing := { r with tail := tail }

/-- The state with the tail of a ring written. -/
def tailWritten (s : State) (d k : Nat) (tail : BitVec 17) : State :=
  (disarm s (pnAlm d)).modDie d fun v => v.setRing k (((s.die d).ring k).upTo tail)

section
variable (s d k) (tail : BitVec 17)

theorem storage_tailWritten : (tailWritten s d k tail).storage = s.storage :=
  (storage_setRing _ d k _).trans (storage_disarm s _)

theorem changes_tailWritten : Changes [.pages, .dies] s (tailWritten s d k tail) :=
  changes_of (within_State_modDie at1 _ _ _ (within_disarm at0 _ _ (within_refl _ s)))

theorem ring_tailWritten : ((tailWritten s d k tail).die d).ring k = ((s.die d).ring k).upTo tail := ring_modDie _ d k _

theorem reg_tailWritten (pn off : Nat) : (tailWritten s d k tail).reg pn off = s.reg pn off := disarm_reg s _ pn off

theorem counter_tailWritten (pn j : Nat) : (tailWritten s d k tail).counter pn j = s.counter pn j := disarm_counter s _ pn j

end

/-! ### The write -/

theorem almTailAddr_page (h : k < 32) : almTailAddr d k / 0x1000 = pnAlm d := by
  unfold almTailAddr almReg
  omega

theorem almLog2_of_reg {t : State} (h : t.reg (pnAlm d) = s.reg (pnAlm d)) : almLog2 t d k = almLog2 s d k := by
  unfold almLog2 State.regN
  rw [h]

theorem almOn_of_reg {t : State} (h : t.reg (pnAlm d) = s.reg (pnAlm d)) : almOn t d k = almOn s d k := by
  unfold almOn State.regN
  rw [h]

theorem almLog2_disarm (pn : Nat) : almLog2 (disarm s pn) d k = almLog2 s d k :=
  almLog2_of_reg (funext fun _ => disarm_reg _ _ _ _)

section
variable {init : Nat} {value : Word} (hk : k < 32) (h : Served s init (almTailAddr d k) true)
include hk h

theorem exec_almanacTailWrite : exec (.almanacTailWrite ⟨init, false⟩ d k value) s =
    .next (almTail (disarm s (pnAlm d)) init d k value.toNat) := by
  refine congrArg Host.Outcome.next ((ctlWrite_served h _ _).trans ?_)
  rw [almTailAddr_page hk]

theorem exec_almanacTailWrite_ignored
    (hfar : 2 ^ almLog2 s d k < (BitVec.ofNat 17 value.toNat - ((s.die d).ring k).head).toNat) :
    exec (.almanacTailWrite ⟨init, false⟩ d k value) s =
      .next (ignoreWrite (disarm s (pnAlm d)) 7 init (almTailAddr d k) value.toNat) := by
  refine (exec_almanacTailWrite hk h).trans (congrArg _ ?_)
  unfold almTail
  rw [almLog2_disarm, disarm_die]
  exact if_pos hfar

theorem exec_almanacTailWrite_taken
    (hnear : (BitVec.ofNat 17 value.toNat - ((s.die d).ring k).head).toNat ≤ 2 ^ almLog2 s d k) :
    exec (.almanacTailWrite ⟨init, false⟩ d k value) s =
      .next (settleRing (tailWritten s d k (BitVec.ofNat 17 value.toNat)) d k) := by
  refine (exec_almanacTailWrite hk h).trans (congrArg _ ?_)
  unfold almTail
  rw [almLog2_disarm, disarm_die]
  refine (if_neg (Nat.not_lt.2 hnear)).trans ?_
  unfold tailWritten AlmRing.upTo State.modDie
  rw [disarm_die]

omit h in
/-- The record of a write that is ignored stands in the ring's page (R531). -/
theorem capture_ignored (reason v : Nat) :
    ((ignoreWrite (disarm s (pnAlm d)) reason init (almTailAddr d k) v).page (pnAlm d)).capture =
      some ((s.page (pnAlm d)).capture.getD (BitVec.ofNat 512 (accessRecord s reason init true (almTailAddr d k) v))) := by
  have hpage := ignoreWrite_page (s := disarm s (pnAlm d)) reason init (almTailAddr d k) v
  rw [almTailAddr_page hk] at hpage
  have haddr : pnAlm d * 0x1000 + almTailAddr d k % 0x1000 = almTailAddr d k := by
    unfold almTailAddr almReg
    omega
  have hrecord : accessRecord (disarm s (pnAlm d)) reason init true (almTailAddr d k) v =
      accessRecord s reason init true (almTailAddr d k) v := rfl
  rw [hpage]
  simp only [disarm_capture, haddr, hrecord]

end

/-! ### The ring goes on -/

/-- A ring without entries, as it passes. -/
theorem ring_passed_tailWritten (tail : BitVec 17) (hnil : ((s.die d).ring k).entries = []) :
    ((passEntries (tailWritten s d k tail) d k).die d).ring k = ((s.die d).ring k).upTo tail := by
  have hring := ring_tailWritten s d k tail
  rw [ring_passEntries_of_waiting (donePrefix_of_nil (by rw [hring]; exact hnil)), hring]

/-- A ring whose one entry ends is empty after it. -/
theorem entries_closed_of_one {e : Entry} (hsignals : Signals s k e) (hone : ((s.die d).ring k).entries = [e]) :
    (((passEntries (closeEntry s d k e) d k).die d).ring k).entries = [] := by
  refine entries_passEntries_of_done (e := { e with phase := .done, list := none }) ?_ rfl
  rw [ring_closeEntry hsignals, hone]
  simp [atPos]

theorem changes_joinEntry (s : State) (d k : Nat) (e : Entry) : Changes [.pages, .dies] s (joinEntry s d k e) :=
  changes_of (within_slabTraffic at0 _ _ _ _ _ (within_State_modDie at1 _ _ _ (within_refl _ s)))

theorem storage_joinEntry (s : State) (d k : Nat) (e : Entry) : (joinEntry s d k e).storage = s.storage :=
  (storage_slabTraffic _ _ _ _ _).trans (storage_setRing s d k _)

theorem ring_joinEntry (s : State) (d k : Nat) (e : Entry) : ((joinEntry s d k e).die d).ring k = ((s.die d).ring k).withEntry e :=
  (ring_of_almanac (almanac_slabTraffic _ _ _ _ _) d k).trans (ring_modDie s d k _)

theorem counter_joinEntry (s : State) (d k j : Nat) (e : Entry) : (joinEntry s d k e).counter (pnAlm d) j = s.counter (pnAlm d) j :=
  counter_of_almanac (almanac_slabTraffic _ _ _ _ _) d j

theorem counter_passEntries (s : State) (d k pn j : Nat) : (passEntries s d k).counter pn j = s.counter pn j := by
  have hpages : (passEntries s d k).pages = s.pages := changes_passEntries s d k .pages (by decide)
  unfold State.counter State.page
  rw [hpages]

theorem reg_passEntries (s : State) (d k pn : Nat) : (passEntries s d k).reg pn = s.reg pn := funext fun off =>
  reg_of_pages (changes_passEntries s d k .pages (by decide)) pn off

/-- A ring with one entry to read, and none before it. -/
structure OneToRead (s : State) (d k : Nat) : Prop where
  none_  : ((s.die d).ring k).entries = []
  on     : almOn s d k = true
  one    : ((s.die d).ring k).fetched + 1 = ((s.die d).ring k).tail

section
variable (h : OneToRead s d k)
include h

theorem OneToRead.ring_passed : ((passEntries s d k).die d).ring k = (s.die d).ring k :=
  ring_passEntries_of_waiting (donePrefix_of_nil h.none_)

theorem OneToRead.readsOn_passed : readsOn (passEntries s d k) d k = true := by
  have hlog : 1 ≤ 2 ^ almLog2 s d k := Nat.one_le_two_pow
  have hdiff : (((s.die d).ring k).tail - ((s.die d).ring k).fetched).toNat = 1 := by
    rw [← h.one]
    have := ((s.die d).ring k).fetched.isLt
    bv_omega
  have hne : ((s.die d).ring k).fetched ≠ ((s.die d).ring k).tail := by
    intro heq
    rw [heq, BitVec.sub_self] at hdiff
    cases hdiff
  unfold readsOn
  dsimp only
  rw [h.ring_passed, almOn_of_reg (reg_passEntries s d k _), almLog2_of_reg (reg_passEntries s d k _), hdiff, h.on, h.none_]
  simp [hne, hlog]

theorem OneToRead.ring_joined (e : Entry) : ((joinEntry (passEntries s d k) d k e).die d).ring k = ((s.die d).ring k).withEntry e := by
  rw [ring_joinEntry, h.ring_passed]

theorem OneToRead.entries_joined (e : Entry) : (((s.die d).ring k).withEntry e).entries = [e] := by
  rw [AlmRing.withEntry, h.none_]
  rfl

/-- The entry that is read waits in its ring. -/
theorem OneToRead.settleRing_waits {e : Entry} (hread : readEntry (passEntries s d k) d k = joinEntry (passEntries s d k) d k e)
    (hphase : e.phase = .waiting) :
    Changes [.pages, .dies] s (settleRing s d k) ∧ ((settleRing s d k).die d).ring k = ((s.die d).ring k).withEntry e := by
  have hring := h.ring_joined e
  have hend : readsOn (passEntries (joinEntry (passEntries s d k) d k e) d k) d k = false :=
    readsOn_passEntries_caughtUp (by rw [hring]; exact h.one)
  have hkept : (((s.die d).ring k).withEntry e).donePrefix = 0 := by
    unfold AlmRing.donePrefix
    rw [h.entries_joined]
    simp [hphase]
  rw [settleRing_one h.readsOn_passed (by rw [hread]; exact hend), hread]
  refine ⟨?_, by rw [ring_passEntries_of_waiting (by rw [hring]; exact hkept), hring]⟩
  exact ((changes_passEntries s d k).mono (by decide)).trans
    ((changes_joinEntry _ d k e).trans ((changes_passEntries _ d k).mono (by decide)))

/-- A window that is read too late, its gate not met, is skipped and passed. -/
theorem OneToRead.settleRing_skips {e : Entry}
    (hread : readEntry (passEntries s d k) d k = skipWindow (joinEntry (passEntries s d k) d k e) d k e) (hsignals : Signals s k e) :
    (((settleRing s d k).die d).ring k).entries = [] ∧
      (settleRing s d k).counter (pnAlm d) 5 = s.counter (pnAlm d) 5 + 1 ∧ (settleRing s d k).mem = (signalled s k e).mem := by
  have hstorage : ((joinEntry (passEntries s d k) d k e).count (pnAlm d) 5 1).storage = s.storage :=
    (storage_count _ _ _ _).trans ((storage_joinEntry _ d k e).trans (storage_passEntries s d k))
  have hsig := signals_of_storage hstorage hsignals
  have hjoined : (((joinEntry (passEntries s d k) d k e).count (pnAlm d) 5 1).die d).ring k = ((s.die d).ring k).withEntry e :=
    h.ring_joined e
  have hclosed := ring_closeEntry (d := d) hsig
  rw [hjoined] at hclosed
  have hend := readsOn_passEntries_caughtUp (s := closeEntry ((joinEntry (passEntries s d k) d k e).count (pnAlm d) 5 1) d k e)
    (d := d) (k := k) (by rw [hclosed]; exact h.one)
  rw [settleRing_one h.readsOn_passed (by rw [hread]; exact hend), hread]
  refine ⟨entries_closed_of_one hsig (by rw [hjoined]; exact h.entries_joined e), ?_, ?_⟩
  · rw [counter_passEntries, skipWindow, closeEntry_counter hsig, State.counter_count_same, counter_joinEntry, counter_passEntries]
    rfl
  · rw [changes_passEntries _ d k .mem (by decide), skipWindow, closeEntry_mem hsig, signalled_of_reads (reads_of_storage hstorage)]

end

/-! ### The entry at the tail that is written -/

section
variable {tail : BitVec 17}

theorem oneToRead_tailWritten (hnil : ((s.die d).ring k).entries = []) (hon : almOn s d k = true)
    (hone : ((s.die d).ring k).fetched + 1 = tail) : OneToRead (tailWritten s d k tail) d k := by
  have hring := ring_tailWritten s d k tail
  refine ⟨?_, ?_, ?_⟩
  · rw [hring]; exact hnil
  · rw [almOn_of_reg (funext fun off => reg_tailWritten s d k tail _ off), hon]
  · rw [hring]; exact hone

/-- Where the next entry of a ring lies. -/
def entryKeyOf (s : State) (d k : Nat) : Nat :=
  s.regAddr (pnAlm d) (almReg k 0) + 32 * (((s.die d).ring k).fetched.toNat % 2 ^ almLog2 s d k)

/-- The entry that a ring reads is the one at that place, as it stands before it passes. -/
theorem entryRead_passed (h : OneToRead s d k) : entryRead (passEntries s d k) d k =
    sampleGate s k { pos := ((s.die d).ring k).fetched.toNat, words := viewWords s (entryKeyOf s d k) 8 } := by
  have hreads : (passEntries s d k).reads = s.reads := reads_of_storage (storage_passEntries s d k)
  have hbell : (passEntries s d k).bell = s.bell := changes_passEntries s d k .bell (by decide)
  unfold entryRead entryKeyOf
  rw [h.ring_passed, sampleGate_of_reads hreads hbell, viewWords_of_reads hreads, almLog2_of_reg (reg_passEntries s d k _)]
  unfold State.regAddr State.regN
  rw [reg_passEntries]

theorem readEntry_passed (h : OneToRead s d k) {e : Entry} (he : e = entryRead (passEntries s d k) d k)
    (htier : tierOf (entryKeyOf s d k) = 1) (hown : bits (entryKeyOf s d k) 43 36 / 40 = d)
    (hgrant : inGrants s (entryWho d k) false (entryKeyOf s d k) 32 = true) (hbad : s.bad = []) (hsoft : s.softBad = [])
    (hcheck : checkEntry s d k ((s.die d).ring k).lastTime.toNat e = 0) : readEntry (passEntries s d k) d k =
      if isSkipped e then skipWindow (joinEntry (passEntries s d k) d k e) d k e else joinEntry (passEntries s d k) d k e := by
  have hreads : (passEntries s d k).reads = s.reads := reads_of_storage (storage_passEntries s d k)
  rw [he]
  refine readEntry_accepted (key := entryKeyOf s d k) ?_ htier hown (by rw [inGrants_of_reads hreads]; exact hgrant)
    ((changes_passEntries s d k .bad (by decide)).trans hbad) ((changes_passEntries s d k .softBad (by decide)).trans hsoft) ?_
  · unfold entryKeyOf State.regAddr State.regN
    rw [h.ring_passed, almLog2_of_reg (reg_passEntries s d k _), reg_passEntries]
  · rw [← he, checkEntry_of_reads hreads, h.ring_passed]
    exact hcheck

theorem entryKeyOf_tailWritten : entryKeyOf (tailWritten s d k tail) d k = entryKeyOf s d k := by
  have hreg : (tailWritten s d k tail).reg (pnAlm d) = s.reg (pnAlm d) := funext fun off => reg_tailWritten s d k tail _ off
  unfold entryKeyOf State.regAddr State.regN
  rw [almLog2_of_reg hreg, hreg, ring_tailWritten]
  rfl

end

/-- Settles O22: by how far TAIL lies past HEAD, and by whether the ring has an entry to read. -/
theorem almanacTailMoves : Obligations.AlmanacTailMoves := by
  unfold Obligations.AlmanacTailMoves
  intro s init die ring value hdie hring hserved r tail s1 key e
  have hstorage : s1.storage = s.storage := storage_tailWritten s die ring tail
  have hs1 : (s1.die die).ring ring = r.upTo tail := ring_tailWritten s die ring tail
  refine ⟨fun hfar => ?_, fun hnear => ?_, fun hnear hnil hidle => ?_,
    fun hnear hnil hon hone htier hown hgrant hbad hsoft hcheck => ?_⟩
  · exact ⟨_, exec_almanacTailWrite_ignored hring hserved hfar, onlyPage_ignoreWrite s (almTailAddr_page hring) _ _ _,
      capture_ignored hring 7 value.toNat⟩
  · exact exec_almanacTailWrite_taken hring hserved hnear
  · have hpassed := ring_passed_tailWritten tail hnil
    have hstops : readsOn (passEntries (tailWritten s die ring tail) die ring) die ring = false := by
      rcases hidle with hoff | hfetched
      · refine readsOn_off ((almOn_of_reg ?_).trans hoff)
        exact (reg_passEntries _ die ring _).trans (funext fun off => reg_tailWritten s die ring tail _ off)
      · exact readsOn_caughtUp (by rw [hpassed]; exact hfetched)
    exact ⟨_, (exec_almanacTailWrite_taken hring hserved hnear).trans (congrArg _ (settleRing_idle hstops)),
      (changes_tailWritten s die ring tail).trans ((changes_passEntries _ die ring).mono (by decide)), hpassed⟩
  · have hkey : entryKeyOf s1 die ring = key := entryKeyOf_tailWritten
    have hread1 : OneToRead s1 die ring := oneToRead_tailWritten hnil hon hone
    have he : e = entryRead (passEntries s1 die ring) die ring := by
      rw [entryRead_passed hread1, hkey, hs1]
      rfl
    have hread := readEntry_passed hread1 he (by rw [hkey]; exact htier) (by rw [hkey]; exact hown) (by rw [hkey]; exact hgrant)
      ((congrArg ErrorView.bad (errors_of_storage hstorage)).trans hbad)
      ((congrArg ErrorView.softBad (errors_of_storage hstorage)).trans hsoft) (by rw [hs1]; exact hcheck)
    refine ⟨_, exec_almanacTailWrite_taken hring hserved hnear, fun hkeeps => ?_, fun hskips hsignals => ?_⟩
    · obtain ⟨hchanges, hjoined⟩ := hread1.settleRing_waits
        (hread.trans (if_neg (by rw [hkeeps]; decide))) (sampleGate_phase _ _ _)
      refine ⟨(changes_tailWritten s die ring tail).trans hchanges, hjoined.trans ?_⟩
      rw [hs1, AlmRing.withEntry, AlmRing.upTo, hone, hnil]
      rfl
    · obtain ⟨hentries, hcount, hmem⟩ := hread1.settleRing_skips
        (hread.trans (if_pos hskips)) (signals_of_storage hstorage hsignals)
      refine ⟨hentries, hcount.trans (congrArg (· + 1) (counter_tailWritten s die ring tail _ 5)), fun a => ?_⟩
      exact congrArg (mget 0 · a) (hmem.trans (signalled_of_reads (reads_of_storage hstorage) ring e))

end Sys2Proof.Machine

/-! The gates that are settled, and a bell tick (R341, R348, R364, R446). -/

namespace Sys2Proof.Machine

variable {s t : State}

/-! ### The gates of the windows whose time has come (R364, R365) -/

/-- The gates are settled, in every ring. -/
def settleGates (s : State) : State :=
  { s with dies := s.dies.map fun d => (d.1, { d.2 with rings := d.2.rings.map fun r =>
      (r.1, { r.2 with entries := r.2.entries.map (sampleGate s r.1) }) }) }

/-- The windows that are then skipped, with die and ring. -/
def skippedBy (s : State) (dies : SMap Die) : List (Nat × Nat × Entry) :=
  dies.flatMap fun d => d.2.rings.flatMap fun r =>
    ((r.2.entries.map (sampleGate s r.1)).filter isSkipped).map fun e => (d.1, r.1, e)

theorem sampleGates_eq (s : State) : sampleGates s = (skippedBy s s.dies).foldl
    (fun (t : State) e => settleRing (skipWindow t e.1 e.2.1 e.2.2) e.1 e.2.1) (settleGates s) := by
  unfold sampleGates skippedBy
  simp only [List.flatMap_map]
  rfl

theorem changes_settleGates (s : State) : Changes [.dies] s (settleGates s) :=
  changes_of { within_refl (· ∈ [Piece.dies]) s with dies := keep_of at0 }

/-- A ring whose gates are settled. -/
def AlmRing.settled (s : State) (k : Nat) (r : AlmRing) : AlmRing := { r with entries := r.entries.map (sampleGate s k) }

/-- A die whose rings' gates are settled. -/
def Die.settled (s : State) (v : Die) : Die := { v with rings := v.rings.map fun r => (r.1, r.2.settled s r.1) }

theorem die_settleGates (s : State) (d : Nat) : (settleGates s).die d = (s.die d).settled s :=
  mget_map_val (fun _ => Die.settled s) Die.init s.dies d rfl

theorem ring_settleGates (s : State) (d k : Nat) : ((settleGates s).die d).ring k =
    ((s.die d).ring k).settled s k := by
  rw [die_settleGates]
  exact mget_map_val (AlmRing.settled s) {} (s.die d).rings k rfl

theorem storage_settleGates (s : State) : (settleGates s).storage = s.storage := by
  have hhbmc : (settleGates s).hbmc = s.hbmc := by
    funext d k
    unfold State.hbmc
    rw [die_settleGates]
    rfl
  refine Prod.ext rfl ?_
  unfold State.storage State.errors
  rw [hhbmc]
  rfl

theorem counter_settleGates (s : State) (pn j : Nat) : (settleGates s).counter pn j = s.counter pn j := rfl

theorem sampleGates_none (h : skippedBy s s.dies = []) : sampleGates s = settleGates s := by
  rw [sampleGates_eq, h]
  rfl

theorem sampleGates_one {d k : Nat} {e : Entry} (h : skippedBy s s.dies = [(d, k, e)]) :
    sampleGates s = settleRing (skipWindow (settleGates s) d k e) d k := by
  rw [sampleGates_eq, h]
  rfl

/-- The one window that is skipped is its ring's one entry: the ring is empty after it. -/
theorem sampleGates_skips {d k : Nat} {e : Entry} (h : skippedBy s s.dies = [(d, k, e)])
    (hone : ((s.die d).ring k).entries.map (sampleGate s k) = [e])
    (hread : ((s.die d).ring k).fetched = ((s.die d).ring k).tail) (hsignals : Signals s k e) :
    (sampleGates s).bell = s.bell ∧ (((sampleGates s).die d).ring k).entries = [] ∧
      (sampleGates s).counter (pnAlm d) 5 = s.counter (pnAlm d) 5 + 1 ∧ (sampleGates s).mem = (signalled s k e).mem := by
  have hstorage : ((settleGates s).count (pnAlm d) 5 1).storage = s.storage :=
    (storage_count _ _ _ _).trans (storage_settleGates s)
  have hsig := signals_of_storage hstorage hsignals
  have hring : (((settleGates s).count (pnAlm d) 5 1).die d).ring k =
      ((s.die d).ring k).settled s k := ring_settleGates s d k
  have hclosed := ring_closeEntry (d := d) hsig
  have hend := readsOn_passEntries_caughtUp (s := closeEntry ((settleGates s).count (pnAlm d) 5 1) d k e) (d := d) (k := k)
    (by rw [hclosed, hring]; exact hread)
  rw [sampleGates_one h, skipWindow, settleRing_idle hend]
  refine ⟨?_, entries_closed_of_one hsig (by rw [hring]; exact hone), ?_, ?_⟩
  · exact (changes_passEntries _ d k .bell (by decide)).trans (closeEntry_bell hsig)
  · rw [counter_passEntries, closeEntry_counter hsig, State.counter_count_same, counter_settleGates]
    rfl
  · rw [changes_passEntries _ d k .mem (by decide), closeEntry_mem hsig, signalled_of_reads (reads_of_storage hstorage)]

/-! ### BELL flits (R446) -/

theorem halfPage_ne_pnBell (h : Nat) : pnBell ≠ halfPage h := by unfold pnBell halfPage pnLink; omega

theorem still_sendBells (s : State) : (sendBells s).still = s.still := by
  unfold sendBells
  refine foldl_view State.still (fun t h => ?_) _ s
  exact still_count t (offAlmanac_half h) 0 1

theorem counter_sendBells (s : State) (j : Nat) : (sendBells s).counter pnBell j = s.counter pnBell j := by
  unfold sendBells
  refine foldl_view (State.counter · pnBell j) (fun t h => ?_) _ s
  exact State.counter_count_page t _ _ _ _ _ (halfPage_ne_pnBell h)

theorem changes_sendBells (s : State) : Changes [.out, .pages, .links] s (sendBells s) :=
  changes_of (within_sendBells at0 at1 at2 _ (within_refl _ s))

/-- At a mark the count is sent. -/
def atMark (s : State) (n : Nat) : State := if n % 2 ^ 24 = 0 then sendBells s else s

theorem still_atMark (s : State) (n : Nat) : (atMark s n).still = s.still := by
  unfold atMark
  split
  · exact still_sendBells s
  · rfl

theorem counter_atMark (s : State) (n j : Nat) : (atMark s n).counter pnBell j = s.counter pnBell j := by
  unfold atMark
  split
  · exact counter_sendBells s j
  · rfl

theorem changes_atMark (s : State) (n : Nat) : Changes [.out, .pages, .links] s (atMark s n) := by
  unfold atMark
  split
  · exact changes_sendBells s
  · exact fun p hp => by cases p <;> rfl

/-! ### What a tick counts beside the bell (R198, R419, R514, R537) -/

/-- The counters of a tick that do not hang on the bell. -/
def countTick (s : State) : State := tickHolds (tickPower s)

theorem changes_countTick (s : State) : Changes [.pages, .power, .boot] s (countTick s) :=
  changes_of (within_tickHolds at0 _ (within_tickPower at0 at1 at2 _ (within_refl _ s)))

theorem countTick_view {γ : Type} (view : State → γ)
    (hcount : ∀ (t : State) pn k, OffAlmanac pn → pn ≠ pnBell → view (t.count pn k 1) = view t)
    (hpower : ∀ (t : State) p, view { t with power := p } = view t) (hboot : ∀ (t : State) b, view { t with boot := b } = view t)
    (s : State) : view (countTick s) = view s := by
  have hpwr (t : State) (k : Nat) : view (t.count pnPwr k 1) = view t :=
    hcount t pnPwr k (offAlmanac_of_low (by decide)) (by decide)
  have hp : view (tickPower s) = view s := by
    unfold tickPower
    extract_lets s1 s2 power s3
    have h1 : view s1 = view s := by
      unfold s1
      split
      · rfl
      · exact hpwr s 2
    have h2 : view s2 = view s := by
      unfold s2
      split
      · exact (hpwr s1 3).trans h1
      · exact h1
    have h3 : view s3 = view s := by
      unfold s3
      split
      · exact (hpwr _ 4).trans ((hpower s2 _).trans h2)
      · exact h2
    exact (hboot s3 _).trans h3
  refine Eq.trans ?_ hp
  unfold countTick tickHolds
  refine foldl_view view (fun t k => ?_) _ (tickPower s)
  exact hcount t _ 4 (offAlmanac_hbmc _ _) (by unfold pnHbmc pnDie pnBell; omega)

theorem still_countTick (s : State) : (countTick s).still = s.still :=
  countTick_view State.still (fun t _ k h _ => still_count t h k 1) (fun _ _ => rfl) (fun _ _ => rfl) s

theorem counter_countTick (s : State) (j : Nat) : (countTick s).counter pnBell j = s.counter pnBell j :=
  countTick_view (State.counter · pnBell j) (fun t _ _ _ h => State.counter_count_page t _ _ _ _ _ (Ne.symm h)) (fun _ _ => rfl)
    (fun _ _ => rfl) s

theorem boot_countTick (s : State) : (countTick s).boot =
    { s.boot with burnLeft := s.boot.burnLeft - 1, watchdog := s.boot.watchdog + (if s.boot.bootOk then 0 else 1) } := by
  have hholds : (countTick s).boot = (tickPower s).boot := by
    unfold countTick tickHolds
    refine foldl_view State.boot (fun t k => ?_) _ _
    rfl
  rw [hholds]
  unfold tickPower
  extract_lets s1 s2 power s3
  have h1 : s1.boot = s.boot := by unfold s1; split <;> rfl
  have h2 : s2.boot = s.boot := by unfold s2; split <;> exact h1
  have h3 : s3.boot = s.boot := by unfold s3; split <;> exact h2
  refine (congrArg (fun b : Boot => { b with
    burnLeft := b.burnLeft - 1, watchdog := if s.boot.bootOk then b.watchdog else b.watchdog + 1 }) h3).trans ?_
  cases s.boot.bootOk <;> rfl

end Sys2Proof.Machine

/-! A bell tick (R198, R341, R348, R364). -/

namespace Sys2Proof.Machine

variable {s : State}

/-! ### A tick of the waits (R198) -/

/-- A ring of a core after a tick: a WAIT that holds it has waited a tick more while its context is switched in. -/
def Ring.ticked (c : Core) (x : Nat) (r : Ring) : Ring :=
  match r.hold with
  | some h => if h.opcode = opWait ∧ c.cur = some x ∧ c.incoming.isNone then { r with waited := r.waited + 1 } else r
  | none => r

/-- A core after a tick. -/
def Core.ticked (c : Core) : Core := { c with rings := c.rings.map fun r => (r.1, r.2.ticked c r.1) }

theorem core_tickWaits (s : State) (g : Nat) : (tickWaits s).core g = (s.core g).ticked :=
  mget_map_val (fun _ => Core.ticked) Core.init s.cores g rfl

theorem Ring.ticked_waits {c : Core} {x : Nat} {r : Ring} {h : CmdRec} (hhold : r.hold = some h) (hwait : h.opcode = opWait)
    (hcur : c.cur = some x) (hin : c.incoming = none) : (r.ticked c x).waited = r.waited + 1 := by
  unfold Ring.ticked
  rw [hhold]
  simp [hwait, hcur, hin]

theorem changes_tickWaits (s : State) : Changes [.cores] s (tickWaits s) := changes_of (within_tickWaits at0 _ (within_refl _ s))

theorem still_tickWaits (s : State) : (tickWaits s).still = s.still := rfl

/-! ### A tick of the count (R341) -/

/-- The bell after a tick that it counts. -/
def Bell.next (b : Bell) : Bell := { b with count := b.count + 1, ticks := b.ticks + 1 }

/-- The bell and the waits count a tick, before the gates are settled. -/
def countBell (t : State) : State :=
  tickWaits (if t.bell.holdover then (t.setBell t.bell.next).count pnBell 4 1 else t.setBell t.bell.next)

theorem bell_countTick (s : State) : (countTick s).bell = s.bell := changes_countTick s .bell (by decide)

/-- A tick is counted, before the gates are settled. -/
def tickCounted (s : State) : State := countBell (countTick s)

theorem tickCounted_eq (s : State) : tickCounted s = tickWaits
    (if s.bell.holdover then ((countTick s).setBell s.bell.next).count pnBell 4 1 else (countTick s).setBell s.bell.next) := by
  unfold tickCounted countBell
  rw [bell_countTick]

/-- The bell runs: its domain is on, and not held in reset (R501, R509). -/
def bellRuns (s : State) : Prop := domOn s bootDomain = true ∧ (s.power.modRst = false ∨ s.power.shutdown = true)

theorem execBellTick_stands (h : ¬ bellRuns s) : execBellTick s = .next s := by
  have hstands : (!domOn s bootDomain || (s.power.modRst && !s.power.shutdown)) = true := by
    unfold bellRuns at h
    cases hd : domOn s bootDomain <;> cases hm : s.power.modRst <;> cases hs : s.power.shutdown <;> simp_all
  unfold execBellTick
  simp only [hstands, if_true]

section
variable (hruns : bellRuns s)
include hruns

theorem bellRuns_guard : (!domOn s bootDomain || (s.power.modRst && !s.power.shutdown)) = false := by
  obtain ⟨hdom, hreset⟩ := hruns
  rw [hdom]
  rcases hreset with h | h <;> simp [h]

theorem execBellTick_pauses (hpause : s.bell.pauseLeft ≠ 0) : execBellTick s = .next
    (((countTick s).setBell { s.bell with pauseLeft := s.bell.pauseLeft - 1, ticks := s.bell.ticks + 1 }).count pnBell 5 1) := by
  have hbell : (tickHolds (tickPower s)).bell = s.bell := bell_countTick s
  unfold execBellTick
  simp only [bellRuns_guard hruns, Bool.false_eq_true, if_false, hbell, hpause, ne_eq, not_false_eq_true, if_true]
  rfl

theorem execBellTick_counts (hpause : s.bell.pauseLeft = 0) :
    execBellTick s = .next (atMark (sampleGates (tickCounted s)) (s.bell.count + 1).toNat) := by
  unfold execBellTick
  extract_lets t
  have hbell : t.bell = s.bell := bell_countTick s
  rw [if_neg (by rw [bellRuns_guard hruns]; decide), if_neg (by rw [hbell, hpause]; decide), ← bell_countTick s]
  rfl

end

section
variable (s)

theorem tickCounted_view {γ : Type} (view : State → γ) (hwaits : ∀ t, view (tickWaits t) = view t)
    (hcount : ∀ t : State, view (t.count pnBell 4 1) = view t) :
    view (tickCounted s) = view ((countTick s).setBell s.bell.next) := by
  rw [tickCounted_eq, hwaits]
  split
  · exact hcount _
  · rfl

theorem still_tickCounted : (tickCounted s).still = s.still :=
  (tickCounted_view s State.still still_tickWaits fun t => still_count t (offAlmanac_of_low (by decide)) 4 1).trans (still_countTick s)

theorem bell_tickCounted : (tickCounted s).bell = s.bell.next := tickCounted_view s State.bell (fun _ => rfl) fun _ => rfl

theorem boot_tickCounted : (tickCounted s).boot = (countTick s).boot := tickCounted_view s State.boot (fun _ => rfl) fun _ => rfl

theorem changes_tickCounted : Changes [.pages, .cores, .bell, .power, .boot] s (tickCounted s) := by
  have hset : Changes [.pages, .cores, .bell, .power, .boot] s ((countTick s).setBell s.bell.next) :=
    ((changes_countTick s).mono (by decide)).trans ((changes_setBell _ _).mono (by decide))
  rw [tickCounted_eq]
  refine Changes.trans ?_ ((changes_tickWaits _).mono (by decide))
  split
  · exact hset.trans ((onlyPage_count _ _ _ _).1.mono (by decide))
  · exact hset

theorem counter_tickCounted : (tickCounted s).counter pnBell 4 = s.counter pnBell 4 + (if s.bell.holdover then 1 else 0) := by
  have hset : ((countTick s).setBell s.bell.next).counter pnBell 4 = s.counter pnBell 4 := counter_countTick s 4
  rw [tickCounted_eq]
  split
  · exact (State.counter_count_same _ _ _ _).trans (congrArg (· + 1) hset)
  · exact hset.trans (BitVec.add_zero _).symm

theorem core_tickCounted (g : Nat) : (tickCounted s).core g = (s.core g).ticked := by
  have hcores : (if s.bell.holdover then ((countTick s).setBell s.bell.next).count pnBell 4 1
      else (countTick s).setBell s.bell.next : State).core g = s.core g := by
    have hcount : (countTick s).cores = s.cores := changes_countTick s .cores (by decide)
    have hcore : (countTick s).core g = s.core g := by
      unfold State.core
      rw [hcount]
    split <;> exact hcore
  rw [tickCounted_eq, core_tickWaits, hcores]

theorem sampleGate_tickCounted : sampleGate (tickCounted s) = sampleGate (s.setBell s.bell.next) :=
  sampleGate_of_reads (reads_of_still (still_tickCounted s)) (bell_tickCounted s)

theorem skippedBy_tickCounted : skippedBy (tickCounted s) (tickCounted s).dies = skippedBy (s.setBell s.bell.next) s.dies := by
  have hdies : (tickCounted s).dies = s.dies := changes_tickCounted s .dies (by decide)
  unfold skippedBy
  rw [sampleGate_tickCounted, hdies]

end

/-- Settles O31: by whether the bell runs and pauses, and by the windows that are skipped. -/
theorem bellCounts : Obligations.BellCounts := by
  unfold Obligations.BellCounts
  intro s runs now settled skipped
  have hskipped : skipped = skippedBy (tickCounted s) (tickCounted s).dies := (skippedBy_tickCounted s).symm
  have hsettled (d k : Nat) : (((tickCounted s).die d).ring k).entries.map (sampleGate (tickCounted s) k) = settled d k := by
    rw [sampleGate_tickCounted, ring_of_still (still_tickCounted s)]
    rfl
  refine ⟨execBellTick_stands, fun hruns hpause => ?_, fun hruns hpause hnone => ?_,
    fun die ring e hruns hpause hone hring hread hsignals => ?_⟩
  · refine ⟨_, execBellTick_pauses hruns hpause, ?_, rfl, ?_⟩
    · exact ((changes_countTick s).mono (by decide)).trans
        (((changes_setBell _ _).mono (by decide)).trans ((onlyPage_count _ _ _ _).1.mono (by decide)))
    · exact (State.counter_count_same _ _ _ _).trans (congrArg (· + 1) (counter_countTick s 5))
  · have hgates := sampleGates_none (s := tickCounted s) (hskipped.symm.trans hnone)
    have hsettle := changes_settleGates (tickCounted s)
    have hmark := changes_atMark (settleGates (tickCounted s)) (s.bell.count + 1).toNat
    have hticked := changes_tickCounted s
    refine ⟨_, (execBellTick_counts hruns hpause).trans (by rw [hgates]), ?_, ?_, fun d k => ?_, fun hoff => ⟨?_, ?_⟩, ?_, ?_,
      fun g x c hhold hwait hcur hin => ?_⟩
    · exact (hticked.mono (by decide)).trans ((hsettle.mono (by decide)).trans (hmark.mono (by decide)))
    · exact (hmark .bell (by decide)).trans ((hsettle .bell (by decide)).trans (bell_tickCounted s))
    · rw [ring_of_still (still_atMark _ _), ring_settleGates]
      exact hsettled d k
    · rw [atMark, if_neg hoff, hsettle .out (by decide), hticked .out (by decide)]
    · rw [atMark, if_neg hoff, hsettle .links (by decide), hticked .links (by decide)]
    · exact (counter_atMark _ _ _).trans (counter_tickCounted s)
    · exact (hmark .boot (by decide)).trans ((hsettle .boot (by decide)).trans ((boot_tickCounted s).trans (boot_countTick s)))
    · have hcores : (atMark (settleGates (tickCounted s)) (s.bell.count + 1).toNat).core g = (s.core g).ticked := by
        refine Eq.trans ?_ (core_tickCounted s g)
        unfold State.core
        rw [hmark .cores (by decide), hsettle .cores (by decide)]
      have hring : ((s.core g).ticked).ring x = ((s.core g).ring x).ticked (s.core g) x :=
        mget_map_val (Ring.ticked (s.core g)) {} (s.core g).rings x rfl
      rw [hcores, hring]
      exact Ring.ticked_waits hhold hwait hcur hin
  · have hstill := still_tickCounted s
    have hmark := still_atMark (sampleGates (tickCounted s)) (s.bell.count + 1).toNat
    obtain ⟨hbell, hentries, hcount, hmem⟩ := sampleGates_skips (s := tickCounted s) (hskipped.symm.trans hone)
      ((hsettled die ring).trans hring) (by rw [ring_of_still hstill]; exact hread) (signals_of_still hstill hsignals)
    refine ⟨_, execBellTick_counts hruns hpause, ?_, ?_, ?_, fun a => ?_⟩
    · exact (changes_atMark _ _ .bell (by decide)).trans (hbell.trans (bell_tickCounted s))
    · rw [ring_of_still hmark, hentries]
    · rw [counter_of_still hmark, hcount, counter_of_still hstill]
    · have hmarked := congrArg ReadView.mem (reads_of_still hmark)
      exact congrArg (mget 0 · a) (hmarked.trans (hmem.trans (signalled_of_reads (reads_of_still hstill) ring e)))

end Sys2Proof.Machine

/-! Epoch marks (R343, R345, R348). -/

namespace Sys2Proof.Machine

variable {s : State}

/-! ### The count takes a value (R341, R348) -/

/-- The bell with its count set, no pause left. -/
def Bell.at_ (b : Bell) (v : Nat) : Bell := { b with count := BitVec.ofNat 64 v, pauseLeft := 0 }

theorem setCount_forward {v : Nat} (h : s.bell.count.toNat ≤ v) :
    setCount s v = atMark (sampleGates (s.setBell (s.bell.at_ v))) v := if_pos h

/-- No window is skipped where no gate is found not met. -/
theorem skippedBy_nil {dies : SMap Die}
    (h : ∀ d ∈ dies, ∀ r ∈ d.2.rings, ∀ e ∈ r.2.entries, isSkipped (sampleGate s r.1 e) = false) :
    skippedBy s dies = [] := by
  refine List.flatMap_eq_nil_iff.2 fun d hd => List.flatMap_eq_nil_iff.2 fun r hr => ?_
  rw [List.map_eq_nil_iff, List.filter_eq_nil_iff]
  intro v hv
  obtain ⟨e, he, rfl⟩ := List.mem_map.1 hv
  rw [h d hd r hr e he]
  decide

/-! ### The first lock (R343) -/

/-- The count at a first mark: the epoch number that is loaded, 2^24 ticks each. -/
def firstCount (s : State) : Nat := (s.regN pnBell 0x108 + 2 ^ 32 * bits (s.regN pnBell 0x10C) 7 0) * 2 ^ 24 % 2 ^ 64

/-- The bell locks to the reference. -/
def Bell.lock (b : Bell) : Bell := { b with locked := true, holdover := false, everLocked := true }

theorem lockAt_first (hfirst : s.bell.everLocked = false) :
    lockAt s 0 = afterLock ((setCount s (firstCount s)).setBell (setCount s (firstCount s)).bell.lock) := by
  unfold lockAt
  extract_lets first epoch near s1 s2
  have hf : first = true := by unfold first; rw [hfirst]; rfl
  have hs1 : s1 = setCount s (firstCount s) := by
    unfold s1 firstCount
    rw [if_pos hf, Nat.add_zero]
  rw [if_pos hf, ← hs1]
  rfl

theorem afterLock_untrained (h : trainingPart s = none) : afterLock s = s.setBell { s.bell with selfTimed := false } := by
  unfold afterLock
  rw [h]
  rfl

/-! ### A mark -/

section
variable (hen : bellEn s = true)
include hen

theorem takeMark_unlocked (hlocked : s.bell.locked = false) (hgood : 2 ≤ s.bell.goodWindows) : takeMark s 0 = lockAt s 0 := by
  unfold takeMark
  simp [hen, hlocked, hgood]

theorem takeMark_early (hlocked : s.bell.locked = false) (hgood : s.bell.goodWindows < 2) : takeMark s 0 = s := by
  unfold takeMark
  simp [hen, hlocked, Nat.not_le.2 hgood]

theorem takeMark_on (hlocked : s.bell.locked = true) (hon : s.bell.count.toNat % 2 ^ 24 = 0) : takeMark s 0 = s := by
  unfold takeMark
  simp only [hen, hlocked, hon]
  rfl

theorem takeMark_off (hlocked : s.bell.locked = true) (hoff : s.bell.count.toNat % 2 ^ 24 ≠ 0) :
    takeMark s 0 = s.count pnBell 2 1 := by
  unfold takeMark
  rw [if_neg (by rw [hen]; decide), if_pos hlocked, if_neg (by rw [Nat.zero_mod]; exact hoff)]

end

theorem exec_epochMark (hsrc : bellSrcPort s = false) : exec (.epochMark true) s = .next (takeMark s 0) := by
  show execEpochMark true s = _
  unfold execEpochMark
  rw [hsrc]
  rfl

theorem exec_epochMark_missing (hlocked : s.bell.locked = true) : exec (.epochMark false) s = .next (s.count pnBell 2 1) := by
  show execEpochMark false s = _
  unfold execEpochMark
  rw [hlocked]
  rfl

/-- An unlocked bell that has never been locked locks at a mark. -/
theorem takeMark_locks (hen : bellEn s = true) {v : Nat} (hv : firstCount s = v) (hlocked : s.bell.locked = false)
    (hgood : 2 ≤ s.bell.goodWindows) (hfirst : s.bell.everLocked = false) (hforward : s.bell.count.toNat ≤ v)
    (htrain : trainingPart s = none) (hnone : skippedBy (s.setBell (s.bell.at_ v)) s.dies = []) :
    Changes [.out, .pages, .dies, .bell, .links] s (takeMark s 0) ∧
      (takeMark s 0).bell = { s.bell with
        count := BitVec.ofNat 64 v, pauseLeft := 0, locked := true, holdover := false, everLocked := true, selfTimed := false } := by
  have hset : setCount s v = atMark (settleGates (s.setBell (s.bell.at_ v))) v := by
    rw [setCount_forward hforward, sampleGates_none hnone]
  have hsettle := changes_settleGates (s.setBell (s.bell.at_ v))
  have hmark := changes_atMark (settleGates (s.setBell (s.bell.at_ v))) v
  have hbell : (setCount s v).bell = s.bell.at_ v := by
    rw [hset, hmark .bell (by decide), hsettle .bell (by decide), State.setBell_bell]
  have hreads : ((setCount s v).setBell (setCount s v).bell.lock).reads = s.reads := by
    refine (reads_of_storage (storage_setBell _ _)).trans ?_
    rw [hset, reads_of_still (still_atMark _ _), reads_of_storage (storage_settleGates _)]
    exact reads_of_storage (storage_setBell _ _)
  rw [takeMark_unlocked hen hlocked hgood, lockAt_first hfirst, hv,
    afterLock_untrained ((trainingPart_of_reads hreads).trans htrain)]
  refine ⟨?_, by rw [State.setBell_bell, State.setBell_bell, hbell]; rfl⟩
  have hcount : Changes [.out, .pages, .dies, .bell, .links] s (setCount s v) := by
    rw [hset]
    exact ((changes_setBell s _).mono (by decide)).trans ((hsettle.mono (by decide)).trans (hmark.mono (by decide)))
  exact hcount.trans (((changes_setBell _ _).mono (by decide)).trans ((changes_setBell _ _).mono (by decide)))

/-- Settles O32: by whether the bell is locked, and by its count. -/
theorem epochMarksLock : Obligations.EpochMarksLock := by
  unfold Obligations.EpochMarksLock
  intro s hen hsrc epoch now
  have hmissed : (s.count pnBell 2 1).counter pnBell 2 = s.counter pnBell 2 + 1 := State.counter_count_same _ _ _ _
  refine ⟨fun hlocked hgood hfirst hforward htrain hnone => ?_, fun hlocked hgood => ?_, fun hlocked hoff => ?_,
    fun hlocked hon => ?_, fun hlocked => ?_⟩
  · have hcount : firstCount s = epoch * 2 ^ 24 % 2 ^ 64 := rfl
    obtain ⟨hchanges, hbell⟩ := takeMark_locks hen hcount hlocked hgood hfirst hforward htrain (skippedBy_nil hnone)
    exact ⟨_, exec_epochMark hsrc, hchanges, hbell⟩
  · rw [exec_epochMark hsrc, takeMark_early hen hlocked hgood]
  · exact ⟨_, (exec_epochMark hsrc).trans (congrArg _ (takeMark_off hen hlocked hoff)), onlyPage_count s _ _ _, hmissed⟩
  · rw [exec_epochMark hsrc, takeMark_on hen hlocked hon]
  · exact ⟨_, exec_epochMark_missing hlocked, onlyPage_count s _ _ _, hmissed⟩

end Sys2Proof.Machine

/-! Retraining of HBM channels (R408, R413–R415). -/

namespace Sys2Proof.Machine

variable {s : State}

/-! ### An HBM controller of a die -/

@[simp] theorem Die.hbmc_setHbmc_same (v : Die) (k : Nat) (h : Hbmc) : (v.setHbmc k h).hbmc k = h := by
  unfold Die.setHbmc Die.hbmc
  split <;> rfl

theorem Die.retrainOpen_setHbmc (v : Die) (k : Nat) (h : Hbmc) : (v.setHbmc k h).retrainOpen = v.retrainOpen := by
  unfold Die.setHbmc
  split <;> rfl

section
variable (s) (d k : Nat)

@[simp] theorem State.hbmc_modHbmc_same (f : Hbmc → Hbmc) : (s.modHbmc d k f).hbmc d k = f (s.hbmc d k) := by
  rw [State.hbmc, State.modHbmc, State.die_modDie, Die.hbmc_setHbmc_same, State.hbmc]

@[simp] theorem State.retrainOpen_modHbmc (f : Hbmc → Hbmc) :
    ((s.modHbmc d k f).die d).retrainOpen = (s.die d).retrainOpen := by
  rw [State.modHbmc, State.die_modDie, Die.retrainOpen_setHbmc]

@[simp] theorem State.page_modHbmc (f : Hbmc → Hbmc) (pn : Nat) : (s.modHbmc d k f).page pn = s.page pn := rfl

@[simp] theorem State.counter_modHbmc (f : Hbmc → Hbmc) (pn j : Nat) : (s.modHbmc d k f).counter pn j = s.counter pn j := rfl

theorem changes_modHbmc (f : Hbmc → Hbmc) : Changes [.dies] s (s.modHbmc d k f) :=
  changes_of (within_State_modHbmc at0 _ _ _ _ (within_refl _ s))

@[simp] theorem setEvent_hbmc (pn b : Nat) : (setEvent s pn b).hbmc d k = s.hbmc d k :=
  congrArg (Die.hbmc · k) (setEvent_die s pn b d)

@[simp] theorem State.hbmc_count (pn j n : Nat) : (s.count pn j n).hbmc d k = s.hbmc d k := rfl

@[simp] theorem State.hbmc_setReg (pn off : Nat) (w : Word) : (s.setReg pn off w).hbmc d k = s.hbmc d k := rfl

end

/-! ### What starts (R413, R414) -/

section
variable {d k : Nat} (hidle : (s.hbmc d k).retraining = none)
include hidle

theorem startRetrain_triggered {c : Nat} {rest : List Nat} (hwait : (s.hbmc d k).trigWait = c :: rest) :
    startRetrain s d k = s.modHbmc d k fun v => { v with retraining := some (c, true), trigWait := rest } := by
  simp only [startRetrain, hidle, hwait, Option.isSome_none, Bool.false_eq_true, if_false]

/-- Nothing waits and no window is open. -/
theorem startRetrain_nothing (hwait : (s.hbmc d k).trigWait = []) (hopen : (s.die d).retrainOpen = []) :
    startRetrain s d k = s := by
  simp only [startRetrain, hidle, hwait, hopen, Option.isSome_none, List.isEmpty_nil, Bool.not_true, Bool.false_eq_true,
    if_false]

end

/-! ### An interface error (R414) -/

/-- A controller's record of the errors of a channel is `l`. -/
def Hbmc.withErrors (h : Hbmc) (c : Nat) (l : List Nat) : Hbmc := { h with errors := mset [] h.errors c l }

/-- The errors of a channel in the last 2^16 bt, with the one now (R414). -/
def recentErrors (s : State) (d k c : Nat) : List Nat :=
  (mget [] (s.hbmc d k).errors c).filter (fun t => decide (s.bell.ticks < t + 2 ^ 16)) ++ [s.bell.ticks]

/-- A channel's errors have made the threshold: they count anew (log 144), with the counter and the event of a trigger. -/
def thresholdMet (s : State) (d k c : Nat) : State :=
  setEvent ((s.modHbmc d k (Hbmc.withErrors · c [])).count (pnHbmc d k) 3 1) (pnHbmc d k) 2

theorem thresholdMet_hbmc (s : State) (d k c : Nat) : (thresholdMet s d k c).hbmc d k = (s.hbmc d k).withErrors c [] := by
  simp [thresholdMet]

theorem thresholdMet_counter (s : State) (d k c : Nat) :
    (thresholdMet s d k c).counter (pnHbmc d k) 3 = s.counter (pnHbmc d k) 3 + 1 := by
  rw [thresholdMet, setEvent_counter, State.counter_count_same, State.counter_modHbmc]
  rfl

theorem thresholdMet_evtStatus (s : State) (d k c : Nat) :
    ((thresholdMet s d k c).page (pnHbmc d k)).evtStatus = (s.page (pnHbmc d k)).evtStatus ||| 4 := by
  rw [thresholdMet, setEvent_page, State.evtStatus_count, State.page_modHbmc]
  rfl

theorem changes_thresholdMet (s : State) (d k c : Nat) : Changes [.pages, .dies, .crier] s (thresholdMet s d k c) :=
  changes_of (within_setEvent at0 at2 _ _ _ (within_State_count at0 _ _ _ _
    (within_State_modHbmc at1 _ _ _ _ (within_refl _ s))))

section
variable {d k c : Nat} (hready : (s.hbmc d k).ready = true) (hin : (s.hbmc d k).chExcluded.getLsbD c = false)
include hready hin

theorem exec_hbmRetrainTrigger_below (hfew : (recentErrors s d k c).length < trigThresh s d k) :
    exec (.hbmRetrainTrigger d k c) s = .next (s.modHbmc d k (Hbmc.withErrors · c (recentErrors s d k c))) := by
  show execHbmRetrainTrigger d k c s = _
  unfold recentErrors at *
  simp only [execHbmRetrainTrigger, hready, hin, hfew, Bool.not_true, Bool.or_false, Bool.false_eq_true, if_false, if_true]
  rfl

/-- A controller that retrains nothing starts the triggered channel at once. -/
theorem exec_hbmRetrainTrigger_starts (hidle : (s.hbmc d k).retraining = none) (hwait : (s.hbmc d k).trigWait = [])
    (hmany : trigThresh s d k ≤ (recentErrors s d k c).length) :
    exec (.hbmRetrainTrigger d k c) s = .next (startRetrain
      ((thresholdMet s d k c).modHbmc d k fun v => { v with trigWait := v.trigWait ++ [c] }) d k) := by
  show execHbmRetrainTrigger d k c s = _
  have hfew := Nat.not_lt.2 hmany
  unfold recentErrors at hfew
  simp only [execHbmRetrainTrigger, hready, hin, hfew, hidle, hwait, Bool.not_true, Bool.or_false, Bool.false_eq_true, if_false,
    Option.map_none, reduceCtorEq, List.contains_nil, or_self]
  rfl

/-- RETRAIN_DUE of a channel whose time has come (R413). -/
theorem exec_retrainDue (hdue : s.regN (pnHbmc d k) 0x108 ≤ s.bell.ticks - mget 0 (s.hbmc d k).lastRetrain c) :
    exec (.retrainDue d k c) s = .next (setEvent s (pnHbmc d k) 3) := by
  show execRetrainDue d k c s = _
  simp only [execRetrainDue, hready, hin, hdue, Bool.not_false, Bool.and_self, decide_true, if_true]

end

/-! ### The end of a retraining (R408, R413, R415) -/

/-- Channel `c` is under way no more; one that was not triggered moves the round on. -/
def Hbmc.endRetrain (h : Hbmc) (c : Nat) (triggered : Bool) : Hbmc :=
  { h with retraining := none, nextCh := if triggered then h.nextCh else (c + 1) % 32 }

/-- Channel `c` is retrained at tick `now`, with the marked pins of its two pseudo-channels. -/
def Hbmc.retrained (h : Hbmc) (c : Nat) (p0 p1 : List Nat) (now : Nat) : Hbmc :=
  { h with pins := mset [] (mset [] h.pins (2 * c) p0) (2 * c + 1) p1, lastRetrain := mset 0 h.lastRetrain c now }

/-- Channel `c` has failed. -/
def Hbmc.failCh (h : Hbmc) (c : Nat) : Hbmc := { h with chFailed := h.chFailed ||| BitVec.ofNat 32 (2 ^ c) }

/-- A retraining fails its channel: it came late, or a pseudo-channel has more than two pins marked. -/
def retrainFails (inTime : Bool) (p0 p1 : List Nat) : Bool := !inTime || decide (2 < p0.length) || decide (2 < p1.length)

theorem retrainFails_iff {inTime : Bool} {p0 p1 : List Nat} :
    retrainFails inTime p0 p1 = true ↔ inTime = false ∨ 2 < p0.length ∨ 2 < p1.length := by
  simp [retrainFails, or_assoc]

/-- What the end of a retraining of channel `c` leaves of the channel. -/
def settleChannel (s : State) (d k c : Nat) (fails : Bool) (p0 p1 : List Nat) : State :=
  if fails then failChannel s d k c else s.modHbmc d k (Hbmc.retrained · c p0 p1 s.bell.ticks)

/-- A retraining that was not triggered is counted. -/
def countRound (s : State) (d k : Nat) (triggered : Bool) : State := if triggered then s else s.count (pnHbmc d k) 2 1

/-- The retraining of channel `c` is over, and nothing has started since. -/
def retrainOver (s : State) (d k c : Nat) (triggered fails : Bool) (p0 p1 : List Nat) : State :=
  countRound (settleChannel (s.modHbmc d k (Hbmc.endRetrain · c triggered)) d k c fails p0 p1) d k triggered

theorem failChannel_hbmc (s : State) (d k c : Nat) : (failChannel s d k c).hbmc d k = (s.hbmc d k).failCh c := by
  simp [failChannel, Hbmc.failCh]

theorem failChannel_counter (s : State) (d k c pn j : Nat) : (failChannel s d k c).counter pn j = s.counter pn j := by
  simp [failChannel]

theorem failChannel_retrainOpen (s : State) (d k c : Nat) : ((failChannel s d k c).die d).retrainOpen = (s.die d).retrainOpen := by
  rw [failChannel, setEvent_die, State.setReg_die, State.retrainOpen_modHbmc]

theorem failChannel_evtStatus (s : State) (d k c : Nat) :
    ((failChannel s d k c).page (pnHbmc d k)).evtStatus = (s.page (pnHbmc d k)).evtStatus ||| 16 := by
  rw [failChannel, setEvent_page, State.evtStatus_setReg, State.page_modHbmc]
  rfl

section
variable (s) (d k c : Nat) (fails triggered : Bool) (p0 p1 : List Nat)

theorem settleChannel_failed : settleChannel s d k c true p0 p1 = failChannel s d k c := if_pos rfl

theorem settleChannel_passed :
    settleChannel s d k c false p0 p1 = s.modHbmc d k (Hbmc.retrained · c p0 p1 s.bell.ticks) := if_neg Bool.false_ne_true

theorem settleChannel_hbmc : (settleChannel s d k c fails p0 p1).hbmc d k =
    if fails then (s.hbmc d k).failCh c else (s.hbmc d k).retrained c p0 p1 s.bell.ticks := by
  cases fails
  case true => rw [settleChannel_failed, failChannel_hbmc, if_pos rfl]
  case false => rw [settleChannel_passed, State.hbmc_modHbmc_same, if_neg Bool.false_ne_true]

theorem settleChannel_counter (pn j : Nat) : (settleChannel s d k c fails p0 p1).counter pn j = s.counter pn j := by
  cases fails
  case true => rw [settleChannel_failed, failChannel_counter]
  case false => rw [settleChannel_passed, State.counter_modHbmc]

theorem settleChannel_retrainOpen : ((settleChannel s d k c fails p0 p1).die d).retrainOpen = (s.die d).retrainOpen := by
  cases fails
  case true => rw [settleChannel_failed, failChannel_retrainOpen]
  case false => rw [settleChannel_passed, State.retrainOpen_modHbmc]

theorem countRound_die (j : Nat) : (countRound s d k triggered).die j = s.die j := by
  unfold countRound
  split <;> rfl

theorem countRound_evtStatus (pn : Nat) : ((countRound s d k triggered).page pn).evtStatus = (s.page pn).evtStatus := by
  unfold countRound
  split
  · rfl
  · exact State.evtStatus_count _ _ _ _ _

theorem countRound_counter : (countRound s d k triggered).counter (pnHbmc d k) 2 =
    s.counter (pnHbmc d k) 2 + (if triggered then 0 else 1) := by
  cases triggered
  case true => exact (BitVec.add_zero _).symm
  case false => exact State.counter_count_same _ _ _ _

theorem retrainOver_hbmc : (retrainOver s d k c triggered fails p0 p1).hbmc d k =
    if fails then ((s.hbmc d k).endRetrain c triggered).failCh c
    else ((s.hbmc d k).endRetrain c triggered).retrained c p0 p1 s.bell.ticks := by
  rw [retrainOver, State.hbmc, countRound_die, ← State.hbmc, settleChannel_hbmc, State.hbmc_modHbmc_same]
  rfl

theorem retrainOver_counter : (retrainOver s d k c triggered fails p0 p1).counter (pnHbmc d k) 2 =
    s.counter (pnHbmc d k) 2 + (if triggered then 0 else 1) := by
  rw [retrainOver, countRound_counter, settleChannel_counter, State.counter_modHbmc]

theorem retrainOver_retrainOpen : ((retrainOver s d k c triggered fails p0 p1).die d).retrainOpen = (s.die d).retrainOpen := by
  rw [retrainOver, countRound_die, settleChannel_retrainOpen, State.retrainOpen_modHbmc]

theorem retrainOver_failed_evtStatus : ((retrainOver s d k c triggered true p0 p1).page (pnHbmc d k)).evtStatus =
    (s.page (pnHbmc d k)).evtStatus ||| 16 := by
  rw [retrainOver, countRound_evtStatus, settleChannel_failed, failChannel_evtStatus, State.page_modHbmc]

/-- A retraining that ends is under way no more; what waits still waits, and only a retraining of the round moves it on. -/
theorem retrainOver_order : let h := (retrainOver s d k c triggered fails p0 p1).hbmc d k
    h.retraining = none ∧ h.trigWait = (s.hbmc d k).trigWait ∧
      h.nextCh = if triggered then (s.hbmc d k).nextCh else (c + 1) % 32 := by
  rw [retrainOver_hbmc]
  cases fails <;> exact ⟨rfl, rfl, rfl⟩

theorem retrainOver_passed : let h := (retrainOver s d k c triggered false p0 p1).hbmc d k
    h.chFailed = (s.hbmc d k).chFailed ∧ mget [] h.pins (2 * c) = p0 ∧ mget [] h.pins (2 * c + 1) = p1 ∧
      mget 0 h.lastRetrain c = s.bell.ticks := by
  rw [retrainOver_hbmc]
  refine ⟨rfl, ?_, mget_mset_same _ _ _ _, mget_mset_same _ _ _ _⟩
  exact (mget_mset_ne _ _ _ (by omega)).trans (mget_mset_same _ _ _ _)

theorem retrainOver_chFailed : ((retrainOver s d k c triggered true p0 p1).hbmc d k).chFailed =
    (s.hbmc d k).chFailed ||| BitVec.ofNat 32 (2 ^ c) := by
  rw [retrainOver_hbmc]
  rfl

end

/-- The retraining that ends is over, and what waits starts. -/
theorem exec_hbmRetrainEnd {d k c : Nat} {triggered : Bool} (hrun : (s.hbmc d k).retraining = some (c, triggered))
    (inTime : Bool) (pins0 pins1 : List Nat) :
    let p0 := pinsAfter (s.hbmc d k) (2 * c) pins0
    let p1 := pinsAfter (s.hbmc d k) (2 * c + 1) pins1
    exec (.hbmRetrainEnd d k inTime pins0 pins1) s =
      .next (startRetrain (retrainOver s d k c triggered (retrainFails inTime p0 p1) p0 p1) d k) := by
  show execHbmRetrainEnd d k inTime pins0 pins1 s = _
  simp only [execHbmRetrainEnd, hrun]
  rfl

/-- The end of a retraining with nothing that waits and no window open. -/
theorem exec_hbmRetrainEnd_last {d k c : Nat} {triggered : Bool} (hrun : (s.hbmc d k).retraining = some (c, triggered))
    (hwait : (s.hbmc d k).trigWait = []) (hopen : (s.die d).retrainOpen = []) (inTime : Bool) (pins0 pins1 : List Nat) :
    let p0 := pinsAfter (s.hbmc d k) (2 * c) pins0
    let p1 := pinsAfter (s.hbmc d k) (2 * c + 1) pins1
    exec (.hbmRetrainEnd d k inTime pins0 pins1) s =
      .next (retrainOver s d k c triggered (retrainFails inTime p0 p1) p0 p1) := by
  intro p0 p1
  obtain ⟨hnone, hkept, -⟩ := retrainOver_order s d k c (retrainFails inTime p0 p1) triggered p0 p1
  rw [exec_hbmRetrainEnd hrun, startRetrain_nothing hnone (hkept.trans hwait)
    ((retrainOver_retrainOpen _ _ _ _ _ _ _ _).trans hopen)]

/-- Settles O48: an error by whether it makes the threshold, a retraining's end by whether its channel fails, and the event of a
channel that is due. -/
theorem channelsRetrain : Obligations.ChannelsRetrain := by
  unfold Obligations.ChannelsRetrain
  intro s die ctl channel inTime pins0 pins1 _ _ _ h pn near counted
  refine ⟨fun hready hin hfew => ?_, fun hready hin hidle hwait hmany => ?_, fun triggered hrun hwait hopen => ?_,
    fun hready hin hdue => ?_⟩
  · exact ⟨_, exec_hbmRetrainTrigger_below hready hin hfew, changes_modHbmc s die ctl _, State.hbmc_modHbmc_same s die ctl _⟩
  · have hmet := thresholdMet_hbmc s die ctl channel
    refine ⟨_, exec_hbmRetrainTrigger_starts hready hin hidle hwait hmany, ?_⟩
    rw [startRetrain_triggered (c := channel) (rest := [])]
    · refine ⟨?_, ?_, thresholdMet_counter s die ctl channel, thresholdMet_evtStatus s die ctl channel⟩
      · exact (changes_thresholdMet s die ctl channel).trans
          (((changes_modHbmc _ _ _ _).trans (changes_modHbmc _ _ _ _)).mono (by decide))
      · rw [State.hbmc_modHbmc_same, State.hbmc_modHbmc_same, hmet, ← hwait]
        rfl
    · rw [State.hbmc_modHbmc_same, hmet]
      exact hidle
    · rw [State.hbmc_modHbmc_same, hmet]
      exact congrArg (· ++ [channel]) hwait
  · intro p0 p1
    have hexec := exec_hbmRetrainEnd_last hrun hwait hopen inTime pins0 pins1
    obtain ⟨hnone, -, hnext⟩ := retrainOver_order s die ctl channel (retrainFails inTime p0 p1) triggered p0 p1
    refine ⟨_, hexec, changes_of (within_execHbmRetrainEnd at0 at1 at2 _ _ _ _ _ s (within_refl _ s) _ hexec), hnone,
      retrainOver_counter _ _ _ _ _ _ _ _, hnext, fun htime h0 h1 => ?_, fun hfail => ?_⟩
    · have hpass : retrainFails inTime p0 p1 = false := Bool.eq_false_iff.2 fun hfail => by
        obtain hlate | hmany | hmany := retrainFails_iff.1 hfail
        · exact Bool.false_ne_true (hlate.symm.trans htime)
        · exact Nat.not_lt.2 h0 hmany
        · exact Nat.not_lt.2 h1 hmany
      rw [hpass]
      exact retrainOver_passed s die ctl channel triggered p0 p1
    · rw [retrainFails_iff.2 hfail]
      exact ⟨retrainOver_chFailed s die ctl channel triggered p0 p1,
        retrainOver_failed_evtStatus s die ctl channel triggered p0 p1⟩
  · refine ⟨_, exec_retrainDue hready hin hdue, changes_of (within_setEvent at0 at1 _ _ _ (within_refl _ s)), ?_⟩
    rw [setEvent_page]
    rfl

end Sys2Proof.Machine

/-! What sending leaves of the half-ports, of the registers, and of the control flits that wait (R430–R434). -/

namespace Sys2Proof.Machine

variable {s t : State}

/-! ### Flit by flit -/

section
variable {P : State → Prop}
  (hflit : ∀ (t : State) share h c vc, P t → P (sendFlit (t.modHalf h fun v => { v with share := share }) h c vc))
include hflit

/-- What each flit keeps, a half-port that sends keeps. -/
theorem pumpFlits_keeps (h n : Nat) (hs : P s) : P (pumpFlits h n s) := by
  induction n generalizing s with
  | zero => exact hs
  | succ n ih =>
    unfold pumpFlits
    split
    · exact hs
    · split
      · exact hs
      · exact ih (hflit _ _ _ _ _ hs)

theorem pumpPort_keeps (h : Nat) (hs : P s) : P (pumpPort s h) := pumpFlits_keeps hflit h _ hs

theorem pumpCtx_keeps (c : Nat) (hs : P s) : P (pumpCtx s c) := by
  unfold pumpCtx
  split
  · exact hs
  · exact pumpPort_keeps hflit _ hs

theorem pumpAll_keeps (hs : P s) : P (pumpAll s) :=
  List.foldlRecOn _ _ (motive := P) hs fun _ ht h _ => pumpPort_keeps hflit h ht

end

/-! ### The half-ports and the registers -/

theorem peer_modHalf (s : State) (h c : Nat) (f : Half → Half) : (s.modHalf h f).peer c = s.peer c := rfl

/-- A half-port but for its turns, its LSEQ and its credits. -/
def Half.steady (v : Half) : Half := { v with turn := [], share := [], txSeq := 0, credits := [] }

/-- The half-ports but for what sending moves, the register words, and the fuses. -/
def State.ports (s : State) : (Nat → Half) × (Nat → Nat → Word) × Fuses := (fun h => (s.half h).steady, s.reg, s.fuses)

theorem half_setHalf_ite (s : State) (h k : Nat) (v : Half) : (s.setHalf h v).half k = if k = h then v else s.half k :=
  mget_mset _ _ _ _ _

theorem ports_setHalf (s : State) (h : Nat) {v : Half} (hv : v.steady = (s.half h).steady) : (s.setHalf h v).ports = s.ports := by
  refine Prod.ext (funext fun k => ?_) rfl
  show ((s.setHalf h v).half k).steady = (s.half k).steady
  rw [half_setHalf_ite]
  split
  · next hk => rw [hk, hv]
  · rfl

theorem ports_count (s : State) (pn k n : Nat) : (s.count pn k n).ports = s.ports :=
  Prod.ext rfl (Prod.ext (funext fun j => funext fun off => State.reg_count s pn k n j off) rfl)

theorem ports_sendFlit (s : State) (h c vc : Nat) : (sendFlit s h c vc).ports = s.ports := by
  unfold sendFlit
  extract_lets p v way s1
  have h1 : s1.ports = s.ports := by
    refine (ports_setHalf _ h ?_).trans (ports_count s _ _ _)
    exact rfl
  split
  · exact h1
  · split
    · rfl
    · split <;> exact h1

theorem ports_flit (s : State) (share : SMap Nat) (h c vc : Nat) :
    (sendFlit (s.modHalf h fun v => { v with share := share }) h c vc).ports = s.ports :=
  (ports_sendFlit _ _ _ _).trans (ports_setHalf s h rfl)

theorem ports_pumpAll (s : State) : (pumpAll s).ports = s.ports :=
  pumpAll_keeps (P := fun t => t.ports = s.ports) (fun t share h c vc ht => (ports_flit t share h c vc).trans ht) rfl

theorem pumped_pumpAll (s : State) : Pumped s (pumpAll s) :=
  List.foldlRecOn _ _ (motive := Pumped s) (Pumped.refl s) fun _ ht h _ => ht.trans (pumped_pumpPort _ h)

theorem steady_of_ports (h : t.ports = s.ports) (k : Nat) : (t.half k).steady = (s.half k).steady := congrFun (congrArg Prod.fst h) k

/-! ### Control flits -/

/-- A flit that leaves is a control flit of its context, or leaves every control flit waiting. -/
theorem sendFlit_control (s : State) (h c vc : Nat) :
    (∃ f lseq, f.vc = vc ∧ (sendFlit s h c vc).out = s.out ++ [f.output c (wayOf s h (s.peer c) vc lseq)] ∧
      ∀ k, ((sendFlit s h c vc).peer k).ctl = if k = c then (s.peer c).ctl.erase f else (s.peer k).ctl) ∨
    ((∃ l, (sendFlit s h c vc).out = s.out ++ l) ∧ ∀ k, ((sendFlit s h c vc).peer k).ctl = (s.peer k).ctl) := by
  unfold sendFlit
  extract_lets p v way s1
  split
  · next f hf =>
    refine .inl ⟨f, v.txSeq, by simpa using List.find?_some hf, rfl, fun k => ?_⟩
    rw [State.emit_peer]
    by_cases hk : k = c
    · subst hk
      rw [State.peer_setPeer, if_pos rfl]
    · rw [State.peer_setPeer_ne _ _ _ _ hk, if_neg hk]
      rfl
  · refine .inr ?_
    split
    · exact ⟨⟨[], (List.append_nil _).symm⟩, fun _ => rfl⟩
    · next u _ =>
      extract_lets s2
      have hctl (k : Nat) : (s2.peer k).ctl = (s.peer k).ctl := by
        by_cases hk : k = c
        · subst hk
          exact (congrArg Peer.ctl (State.peer_setPeer s1 k _)).trans rfl
        · exact congrArg Peer.ctl (State.peer_setPeer_ne s1 _ _ _ hk)
      split
      · exact ⟨⟨_, rfl⟩, hctl⟩
      · exact ⟨⟨[], (List.append_nil _).symm⟩, hctl⟩

/-- Since `u`, a control flit of a context waits or has left. -/
def CtlHeld (u : State) (c : Nat) (f : CtlFlit) (t : State) : Prop :=
  ∃ l, t.out = u.out ++ l ∧ (f ∈ (t.peer c).ctl ∨ ∃ way, f.output c way ∈ l)

theorem ctlHeld_flit {u : State} {c : Nat} {f : CtlFlit} (t : State) (share : SMap Nat) (h k vc : Nat) (ht : CtlHeld u c f t) :
    CtlHeld u c f (sendFlit (t.modHalf h fun v => { v with share := share }) h k vc) := by
  obtain ⟨l, hl, hf⟩ := ht
  rcases sendFlit_control (t.modHalf h fun v => { v with share := share }) h k vc with ⟨g, lseq, -, hout, hctl⟩ | ⟨⟨m, hout⟩, hctl⟩
  · refine ⟨l ++ [g.output k _], hout.trans (by rw [State.modHalf_out, hl, List.append_assoc]), ?_⟩
    rw [hctl, peer_modHalf]
    rcases hf with hf | ⟨way, hway⟩
    · split
      · next hk =>
        subst hk
        by_cases hg : f = g
        · subst hg
          exact .inr ⟨_, List.mem_append_right _ (List.mem_singleton.2 rfl)⟩
        · exact .inl ((List.mem_erase_of_ne hg).2 hf)
      · exact .inl hf
    · exact .inr ⟨way, List.mem_append_left _ hway⟩
  · refine ⟨l ++ m, hout.trans (by rw [State.modHalf_out, hl, List.append_assoc]), ?_⟩
    rw [hctl, peer_modHalf]
    exact hf.imp_right fun ⟨way, hway⟩ => ⟨way, List.mem_append_left _ hway⟩

/-- A context with one more control flit. -/
theorem alike_ctl (p : Peer) (l : List CtlFlit) : p.Alike { p with ctl := l } := ⟨rfl, rfl⟩

theorem pumped_sendCtl (s : State) (c : Nat) (f : CtlFlit) : Pumped s (sendCtl s c f) :=
  (pumped_alike (alike_ctl _ _)).trans (pumped_pumpCtx _ c)

theorem ctlHeld_sendCtl (s : State) (c : Nat) (f : CtlFlit) : CtlHeld s c f (sendCtl s c f) := by
  refine pumpCtx_keeps (P := CtlHeld s c f) ctlHeld_flit c ⟨[], (List.append_nil _).symm, .inl ?_⟩
  unfold State.modPeer
  rw [State.peer_setPeer]
  exact List.mem_append_right _ (List.mem_singleton.2 rfl)

end Sys2Proof.Machine

/-! Messages that arrive: discarded, parked, answered as duplicates or out of their order, or taken (R434, R435, R437, R439, R470). -/

namespace Sys2Proof.Machine

section
variable (s : State) (op : MsgOp) (m : LinkMsg)

/-- The state after the flits of a message have left the receive buffer. -/
def flitsIn : State := takeFlits s m.port (s.peer m.ctx) op.vc (arrivedFlits (s.peer m.ctx) m)

theorem flitsIn_peer (c : Nat) : (flitsIn s op m).peer c = s.peer c := takeFlits_peer _ _ _ _ _ _

theorem changes_flitsIn : Changes [.out, .pages, .links] s (flitsIn s op m) :=
  changes_of (within_takeFlits at0 at1 at2 _ _ _ _ _ (within_refl _ s))

theorem flitsIn_part (p : Nat) : (flitsIn s op m).part p = s.part p :=
  congrArg (mget _ · p) (changes_flitsIn s op m .parts (by decide))

theorem flitsIn_parkedFor (c : Nat) : parkedFor (flitsIn s op m) c = parkedFor s c := by
  unfold parkedFor
  rw [flitsIn_peer, flitsIn_part]

theorem flitsIn_parks : parks (flitsIn s op m) m.ctx op m = parks s m.ctx op m := by
  unfold parks peerOut
  simp only [flitsIn_peer, flitsIn_part, flitsIn_parkedFor]

theorem flitsIn_rtsWaits : (flitsIn s op m).links.rtsWaits = s.links.rtsWaits := by
  unfold flitsIn takeFlits
  split <;> rfl

theorem flitsIn_fabric (h : (s.peer m.ctx).fabric = true) : flitsIn s op m = s := if_pos h

/-- What DIRECT mode leaves of the flits: they are counted, LACK covers them, and an IDLE flit returns their credits. -/
theorem flitsIn_direct (h : (s.peer m.ctx).fabric = false) :
    let n := arrivedFlits (s.peer m.ctx) m
    flitsIn s op m = ((s.count (halfPage m.port) 1 n).modHalf m.port fun v => { v with rxSeq := v.rxSeq + BitVec.ofNat 12 n }).emit
      (.idleFlit m.port ((s.half m.port).rxSeq + BitVec.ofNat 12 n) (s.peer m.ctx).part op.vc n) := by
  unfold flitsIn takeFlits
  rw [if_neg (by rw [h]; decide)]
  simp only [State.half_modHalf, State.count_half]

end

/-- A message of a READY context, at its level and with its tag good where one is needed (R434, R437, R448). -/
structure Sound (s : State) (m : LinkMsg) : Prop where
  phase : (s.peer m.ctx).phase = .ready
  tag   : (s.peer m.ctx).sealedCtx = true → m.tagOk = true
  level : m.level.toNat = (s.peer m.ctx).level

section
variable {s : State} {op : MsgOp} {m : LinkMsg}

theorem exec_arrival (h : op ≠ .openMsg) : exec (arrival op m) s = .next (arriveMsg s op m) := by
  cases op with
  | openMsg => exact absurd rfl h
  | _ => rfl

theorem arriveMsg_unready (h : (s.peer m.ctx).phase ≠ .ready) : arriveMsg s op m = flitsIn s op m := by
  unfold arriveMsg
  dsimp only
  rw [takeFlits_peer]
  exact if_pos h

theorem arriveMsg_badTag (hphase : (s.peer m.ctx).phase = .ready) (hsealed : (s.peer m.ctx).sealedCtx = true)
    (htag : m.tagOk = false) : arriveMsg s op m = tagFailure (flitsIn s op m) m.ctx := by
  unfold arriveMsg
  simp [takeFlits_peer, hphase, hsealed, htag]
  rfl

theorem arriveMsg_otherLevel (hphase : (s.peer m.ctx).phase = .ready) (hsealed : (s.peer m.ctx).sealedCtx = false)
    (hlevel : m.level.toNat ≠ (s.peer m.ctx).level) : arriveMsg s op m = (flitsIn s op m).count pnLinkCtx 3 1 := by
  unfold arriveMsg
  simp [takeFlits_peer, hphase, hsealed, hlevel]
  rfl

/-- A sound message is discarded by a full park buffer, or taken by its place in the order. -/
theorem arriveMsg_sound (h : Sound s m) : arriveMsg s op m =
    let s1 := flitsIn s op m
    let ahead := (m.mseq - (s.peer m.ctx).recvSeq).toNat
    if parks s m.ctx op m && (s.part (s.peer m.ctx).part).parkFull then s1.count (pnPart (s.peer m.ctx).part) 5 (arrivedFlits (s.peer m.ctx) m)
    else if 2 ^ 23 ≤ ahead then
      (if s.links.rtsWaits.any fun r => r.ctx == m.ctx && r.mseq == m.mseq then s1 else sendCtl s1 m.ctx (.ack m.mseq m.reqTag))
    else if ahead < parkedFor s m.ctx then s1
    else if ahead ≠ parkedFor s m.ctx then
      sendCtl s1 m.ctx (.nak ((s.peer m.ctx).recvSeq + BitVec.ofNat 24 (parkedFor s m.ctx)) .resend m.reqTag)
    else if parkedFor s m.ctx ≠ 0 || parks s m.ctx op m then park s1 m.ctx op m
    else takeMsg s1 m.ctx op m := by
  have hsealed : ((s.peer m.ctx).sealedCtx && !m.tagOk) = false := by
    cases hs : (s.peer m.ctx).sealedCtx with
    | false => rfl
    | true => rw [h.tag hs]; rfl
  have htaken : takeFlits s m.port (s.peer m.ctx) op.vc (arrivedFlits (s.peer m.ctx) m) = flitsIn s op m := rfl
  unfold arriveMsg discardFlits
  simp only [htaken, flitsIn_peer, flitsIn_part, flitsIn_parkedFor, flitsIn_parks, flitsIn_rtsWaits, h.phase, h.level,
    hsealed, ne_eq, not_true_eq_false, Bool.false_eq_true, if_false]

theorem arriveMsg_full (h : Sound s m) (hparks : parks s m.ctx op m = true) (hfull : (s.part (s.peer m.ctx).part).parkFull = true) :
    arriveMsg s op m = (flitsIn s op m).count (pnPart (s.peer m.ctx).part) 5 (arrivedFlits (s.peer m.ctx) m) := by
  rw [arriveMsg_sound h]
  exact if_pos (by rw [hparks, hfull]; rfl)

section
variable (hroom : ¬ (parks s m.ctx op m = true ∧ (s.part (s.peer m.ctx).part).parkFull = true))
include hroom

theorem arriveMsg_duplicate (h : Sound s m) (hold : 2 ^ 23 ≤ (m.mseq - (s.peer m.ctx).recvSeq).toNat)
    (hrts : ∀ r ∈ s.links.rtsWaits, r.ctx = m.ctx → r.mseq ≠ m.mseq) :
    arriveMsg s op m = sendCtl (flitsIn s op m) m.ctx (.ack m.mseq m.reqTag) := by
  have hnone : (s.links.rtsWaits.any fun r => r.ctx == m.ctx && r.mseq == m.mseq) = false := by
    simpa using hrts
  rw [arriveMsg_sound h]
  dsimp only
  rw [if_neg (by rwa [Bool.and_eq_true]), if_pos hold, if_neg (by rw [hnone]; decide)]

theorem arriveMsg_ahead (h : Sound s m) (hnew : (m.mseq - (s.peer m.ctx).recvSeq).toNat < 2 ^ 23)
    (hahead : parkedFor s m.ctx < (m.mseq - (s.peer m.ctx).recvSeq).toNat) : arriveMsg s op m = sendCtl (flitsIn s op m) m.ctx
      (.nak ((s.peer m.ctx).recvSeq + BitVec.ofNat 24 (parkedFor s m.ctx)) .resend m.reqTag) := by
  rw [arriveMsg_sound h]
  dsimp only
  rw [if_neg (by rwa [Bool.and_eq_true]), if_neg (Nat.not_le.2 hnew), if_neg (Nat.not_lt.2 (Nat.le_of_lt hahead)),
    if_pos (Nat.ne_of_gt hahead)]

end

end

/-- Few tags have failed: the failure is counted, and the context stays READY for the same message. -/
theorem tagFailure_few {s : State} {c : Nat}
    (h : ((s.peer c).tagFails.filter fun t => decide (s.bell.count.toNat ≤ t.toNat + (s.peer c).timeout)).length < 3) :
    Changes [.pages, .links] s (tagFailure s c) ∧ (tagFailure s c).counter pnLinkCtx 1 = s.counter pnLinkCtx 1 + 1 ∧
      (tagFailure s c).expects = s.expects := by
  have heq : tagFailure s c = (s.count pnLinkCtx 1 1).setPeer c { s.peer c with tagFails :=
      ((s.peer c).tagFails.filter fun t => decide (s.bell.count.toNat ≤ t.toNat + (s.peer c).timeout)) ++ [s.bell.count] } :=
    if_neg (Nat.not_le.2 h)
  rw [heq]
  exact ⟨changes_of (within_State_setPeer at1 _ _ _ (within_State_count at0 _ _ _ _ (within_refl _ s))),
    State.counter_count_same _ _ _ _, expects_setPeer (s.count pnLinkCtx 1 1) c rfl rfl⟩

/-- Settles O34: a message by the first of the conditions under which it has no effect; a control flit waits or leaves. -/
theorem messagesKeepOrder : Obligations.MessagesKeepOrder := by
  unfold Obligations.MessagesKeepOrder
  intro s op m hop p n s1 ahead due good full
  have hexec : exec (arrival op m) s = .next (arriveMsg s op m) := exec_arrival hop
  have hsound : good → Sound s m := fun ⟨hphase, htag, hlevel⟩ => ⟨hphase, htag, hlevel⟩
  refine ⟨fun hf => flitsIn_fabric s op m hf, fun hf => ⟨changes_flitsIn s op m, flitsIn_peer s op m _, ?_, ?_, ?_⟩,
    fun h => hexec.trans (congrArg _ (arriveMsg_unready h)), fun hphase hsealed htag hfew => ?_,
    fun hphase hsealed hlevel => hexec.trans (congrArg _ (arriveMsg_otherLevel hphase hsealed hlevel)),
    fun hg ⟨hparks, hfull⟩ => hexec.trans (congrArg _ (arriveMsg_full (hsound hg) hparks hfull)),
    fun hg hroom => ⟨fun hold hrts => hexec.trans (congrArg _ (arriveMsg_duplicate hroom (hsound hg) hold hrts)),
      fun hnew hahead => hexec.trans (congrArg _ (arriveMsg_ahead hroom (hsound hg) hnew hahead))⟩, fun u c f => ?_⟩
  · rw [show s1 = _ from flitsIn_direct s op m hf]
    exact State.counter_count_same _ _ _ _
  · rw [show s1 = _ from flitsIn_direct s op m hf]
    rw [State.emit_half, State.half_modHalf]
    rfl
  · rw [show s1 = _ from flitsIn_direct s op m hf]
    simp only [State.emit_half, State.half_modHalf]
    rfl
  · have hpeer : s1.peer m.ctx = p := flitsIn_peer s op m _
    have hbell : s1.bell = s.bell := changes_flitsIn s op m .bell (by decide)
    have hfew1 : ((s1.peer m.ctx).tagFails.filter fun t => decide (s1.bell.count.toNat ≤ t.toNat + (s1.peer m.ctx).timeout)).length < 3 := by
      rw [hpeer, hbell]
      exact hfew
    obtain ⟨hchanges, hcount, hexpects⟩ := tagFailure_few hfew1
    have hctx : (tagFailure s1 m.ctx).expects m.ctx = (p.recvSeq, p.phase) := by
      rw [hexpects, State.expects, hpeer]
    exact ⟨_, hexec.trans (congrArg _ (arriveMsg_badTag hphase hsealed htag)), hchanges, hcount, congrArg Prod.fst hctx,
      (congrArg Prod.snd hctx).trans hphase⟩
  · have hsent := pumped_sendCtl u c f
    exact ⟨hsent.rest, fun k => ⟨(hsent.peers k).recvSeq, (hsent.peers k).phase, (hsent.peers k).msgs⟩, ctlHeld_sendCtl u c f⟩

end Sys2Proof.Machine

/-! WRITE, READ and ATOMIC of a peer: within the grants they have their effect, else they are refused (R385, R386, R440, R448). -/

namespace Sys2Proof.Machine

/-! ### Where an access goes, and how a message is refused -/

theorem linkTarget_of_reads {s t : State} (h : t.reads = s.reads) : linkTarget t = linkTarget s := by
  delta linkTarget lentHere linkGranted
  rw [granaryEntry_of_reads h, jobOf_of_reads h, partOfCore_of_reads h, inHubGrant_of_reads h, hbmRegion_of_reads h,
    keyOf_of_reads h, inOwnLent_of_reads h]

theorem storage_received (s : State) (op : MsgOp) (m : LinkMsg) : (received s op m).storage = s.storage :=
  storage_of_still (still_received s op m)

theorem reads_received (s : State) (op : MsgOp) (m : LinkMsg) : (received s op m).reads = s.reads :=
  reads_of_storage (storage_received s op m)

theorem linkTarget_received (s : State) (op : MsgOp) (m : LinkMsg) : linkTarget (received s op m) = linkTarget s :=
  linkTarget_of_reads (reads_received s op m)

theorem badUnit_received (s : State) (op : MsgOp) (m : LinkMsg) : badUnit (received s op m) = badUnit s :=
  badUnit_of_errors (errors_of_storage (storage_received s op m))

/-- A counter of another number stays, of whatever page. -/
theorem counter_count_number (s : State) (pn k n j : Nat) {i : Nat} (h : i ≠ k) : (s.count pn k n).counter j i = s.counter j i := by
  by_cases hj : j = pn
  · subst hj; exact State.counter_count_ne _ _ _ _ _ h
  · exact State.counter_count_page _ _ _ _ _ _ hj

theorem counter_received (s : State) (op : MsgOp) (m : LinkMsg) (pn : Nat) {k : Nat} (h : k ≠ 1) :
    (received s op m).counter pn k = s.counter pn k := by
  unfold received takeFlits
  split
  · rfl
  · exact counter_count_number s _ _ _ _ h

section
variable {s : State} {op : MsgOp} {m : LinkMsg}

/-- A message that is next is answered as its effect says. -/
theorem arriveMsg_refused (h : Taken s op m) {t : State} {k : NakKind}
    (ht : effectOf (received s op m) m.ctx op m = { s := t, nak := some k }) :
    arriveMsg s op m = sendCtl t m.ctx (.nak m.mseq k m.reqTag) := by
  rw [arriveMsg_taken h]
  unfold takeMsg
  rw [takeFlits_peer]
  exact congrArg (fun e : Effect => if e.later then e.s else match e.nak with
    | some k => sendCtl e.s m.ctx (.nak m.mseq k m.reqTag)
    | none => sendCtl e.s m.ctx (.ack m.mseq m.reqTag)) ht

theorem exec_nak {i : Instr} (hi : exec i s = .next (arriveMsg s op m)) (h : Taken s op m) {t : State} {k : NakKind}
    (ht : effectOf (received s op m) m.ctx op m = { s := t, nak := some k }) (hexpects : t.expects = (received s op m).expects) :
    exec i s = .next (sendCtl t m.ctx (.nak m.mseq k m.reqTag)) ∧ NextMsg s t m.ctx :=
  ⟨hi.trans (congrArg _ (arriveMsg_refused h ht)), (nextMsg_received s op m).of_expects hexpects⟩

/-- The context of a message in the state of its effect. -/
def takenPeer (s : State) (m : LinkMsg) : Peer := { s.peer m.ctx with recvSeq := (s.peer m.ctx).recvSeq + 1 }

theorem received_ready (h : Taken s op m) : ((received s op m).peer m.ctx).phase = .ready := by
  rw [received_peer]
  exact h.1

theorem received_sendSeq : ((received s op m).peer m.ctx).sendSeq = (s.peer m.ctx).sendSeq := by rw [received_peer]

end

/-! ### Accesses to lent regions (R386, R393) -/

section
variable (s : State) (p : Peer) (a n : Nat)

theorem changes_countLent : Changes [.free, .pages] s (countLent s p a n) :=
  changes_of (within_countLent at0 at1 s p a n (within_refl _ s))

theorem storage_countLent : (countLent s p a n).storage = s.storage := by
  unfold countLent
  split
  · refine (storage_of_changes (t := (s.count (pnPart p.part) 8 n).countOpen (pnPart p.part) 10)
      (changes_of (within_State_countOpen (S := (· ∈ Elsewhere)) (by decide) (by decide) _ _ _ (within_refl _ _))) ?_).trans
      (storage_count s _ _ _)
    intro pn off _
    exact State.reg_count _ _ _ _ _ _
  · rfl

theorem counter_countLent_served :
    (countLent s p a n).counter (pnPart p.part) 8 = s.counter (pnPart p.part) 8 + (if isLent a then BitVec.ofNat 64 n else 0) := by
  unfold countLent
  split
  · refine Eq.trans ?_ (State.counter_count_same s (pnPart p.part) 8 n)
    exact counter_count_number _ _ _ _ _ (by decide)
  · exact (BitVec.add_zero _).symm

theorem changes_refusedEffect : Changes [.pages] s (refusedEffect s p a n).s := by
  unfold refusedEffect
  exact changes_of (within_ite _ _ _ (within_State_count at0 _ _ _ _ (within_refl _ s)) (within_refl _ s))

theorem counter_refusedEffect : (refusedEffect s p a n).s.counter (pnPart p.part) 9 =
    s.counter (pnPart p.part) 9 + (if isLent a || inOwnLent s p.part a n then 1 else 0) := by
  unfold refusedEffect
  dsimp only
  split
  · exact State.counter_count_same _ _ _ _
  · exact (BitVec.add_zero _).symm

end

theorem counter_landBytes (s : State) (a : Nat) (bs : List Byte) {pn : Nat} (h : ∀ d, pn ≠ pnSlab d) (k : Nat) :
    (landBytes s a bs).counter pn k = s.counter pn k := by
  have htags : (landBytes s a bs).pages = (slabTraffic s a bs.length true false).pages := changes_setTags _ 0 _ .pages (by decide)
  have hpage : (landBytes s a bs).counter pn k = (slabTraffic s a bs.length true false).counter pn k := by
    unfold State.counter State.page
    rw [htags]
  exact hpage.trans ((slabsCount_slabTraffic s a bs.length true false).counter h k)

theorem pnPart_ne_pnSlab (p : Peer) (d : Nat) : pnPart p.part ≠ pnSlab d := by
  have hpart : p.part < 4 := Nat.mod_lt _ (by decide)
  unfold pnPart pnSlab pnDie
  omega

/-! ### WRITE -/

section
variable {s : State} {m : LinkMsg}

theorem effectOf_write : effectOf (received s .write m) m.ctx .write m = effWrite (received s .write m) (takenPeer s m) m := by
  unfold effectOf
  rw [received_peer]
  rfl

variable {p : Peer}

theorem effWrite_none (h : linkTarget s (peerWho p) m.address.toNat m.data.length = none) :
    effWrite s p m = refusedEffect s p m.address.toNat m.data.length := by
  simp only [effWrite, h]

theorem effWrite_plain {key : Nat} (h : linkTarget s (peerWho p) m.address.toNat m.data.length = some key)
    (hplain : PlainStore s key m.data.length) :
    effWrite s p m = { s := landBytes (countLent s p m.address.toNat m.data.length) key m.data } := by
  have hstore := memStores_plain (plainStore_of_storage (storage_countLent s p m.address.toNat m.data.length) hplain) false
  simp only [effWrite, h, hstore]
  rfl

theorem effWrite_unwritten {key v : Nat} (h : linkTarget s (peerWho p) m.address.toNat m.data.length = some key)
    (hv : (memStores (countLent s p m.address.toNat m.data.length) false [(key, m.data)]).2 = some v) :
    ∃ t, effWrite s p m = { s := t, nak := some .unwritten } ∧ t.links = s.links := by
  simp only [effWrite, h, hv]
  refine ⟨_, rfl, (within_peerBad (S := (· ≠ Piece.links)) ?_ ?_ ?_ ?_ _ _ _ (within_setTags ?_ _ _ _
    (within_memStores ?_ ?_ ?_ ?_ ?_ ?_ ?_ ?_ ?_ _ _ _ (within_countLent ?_ ?_ _ _ _ _ (within_refl _ s))))).links (not_not.2 rfl)⟩
  all_goals decide

end

/-- A WRITE's target and its place, in the state of its effect. -/
theorem memByte_landed {s t : State} (h : t.reads = s.reads) (a : Nat) (bs : List Byte) (b : Nat) :
    memByte (landBytes t a bs) b = memByte (memWrite s a bs) b :=
  congrFun (memByte_of_reads ((reads_landBytes t a bs).trans (reads_memWrite_congr h a bs))) b

/-- Settles O35: a WRITE by its target: granted and written, granted and not written by memory, or not granted. -/
theorem writeMessageStores : Obligations.WriteMessageStores := by
  unfold Obligations.WriteMessageStores
  intro s m htaken p a n s1
  have hs1 : s1 = received s .write m := rfl
  have hreads := reads_received s .write m
  have htarget : linkTarget s1 (peerWho (takenPeer s m)) a n = linkTarget s (peerWho p) a n := by
    rw [hs1, linkTarget_received]
    rfl
  have hexec : exec (.write m) s = .next (arriveMsg s .write m) := rfl
  refine ⟨fun key hkey hplain => ?_, fun key v hkey hv => ?_, fun hnone => ?_⟩
  · have heffect := effectOf_write.trans (effWrite_plain (htarget.trans hkey)
      (plainStore_of_storage (storage_received s .write m) hplain))
    obtain ⟨hnext, hmsg⟩ := exec_acked hexec htaken heffect (expects_of_links (landBytes_links _ _ _ |>.trans
      (changes_countLent s1 (takenPeer s m) a n .links (by decide))))
    refine ⟨_, hnext, ?_, hmsg, memByte_landed ((reads_of_storage (storage_countLent s1 (takenPeer s m) a n)).trans hreads) key m.data, ?_⟩
    · exact ((changes_received s .write m).mono (by decide)).trans
        (((changes_countLent s1 (takenPeer s m) a n).mono (by decide)).trans ((changes_landBytes _ key m.data).mono (by decide)))
    · refine (counter_landBytes _ key m.data (pnPart_ne_pnSlab p) 8).trans
        ((counter_countLent_served s1 (takenPeer s m) a n).trans ?_)
      rw [hs1, counter_received s .write m _ (by decide)]
      rfl
  · obtain ⟨t, ht, hlinks⟩ := effWrite_unwritten (htarget.trans hkey) hv
    exact ⟨t, exec_nak hexec htaken (effectOf_write.trans ht) (expects_of_links hlinks)⟩
  · have heffect := effectOf_write.trans (effWrite_none (htarget.trans hnone))
    have hchanges := changes_refusedEffect s1 (takenPeer s m) a n
    obtain ⟨hnext, hmsg⟩ := exec_nak hexec htaken heffect (expects_of_links (hchanges .links (by decide)))
    refine ⟨_, hnext, (changes_received s .write m).trans (hchanges.mono (by decide)), hmsg, ?_⟩
    refine (counter_refusedEffect s1 (takenPeer s m) a n).trans ?_
    rw [hs1, counter_received s .write m _ (by decide), inOwnLent_of_reads hreads]
    rfl

end Sys2Proof.Machine

/-! READ and ATOMIC: what they answer, and with what effect (R440, R448). -/

namespace Sys2Proof.Machine

/-! ### The answer -/

theorem Sends.of_sendSeq {s t u : State} {c : Nat} {f : OutMsg → Prop} (h : Sends t u c f)
    (hseq : (t.peer c).sendSeq = (s.peer c).sendSeq) : Sends s u c f := by
  unfold Sends at *
  rwa [hseq] at h

theorem Sends.imp {s t : State} {c : Nat} {f g : OutMsg → Prop} (h : Sends s t c f) (hfg : ∀ m, f m → g m) : Sends s t c g := by
  obtain ⟨hseq, u, hu, hmseq, hf⟩ := h
  exact ⟨hseq, u, hu, hmseq, hfg _ hf⟩

theorem peer_of_links {s t : State} (h : t.links = s.links) (c : Nat) : t.peer c = s.peer c := by
  unfold State.peer
  rw [h]

/-! ### Reads, and units that cannot be read -/

theorem changes_readSpans (s : State) (vertical : Bool) (spans : List (Nat × Nat)) :
    Changes [.softBad, .pages, .dies, .crier, .flash] s (readSpans s vertical spans) :=
  changes_of (within_readSpans at0 at1 at2 at3 at4 _ _ _ (within_refl _ s))

theorem readSpans_links (s : State) (vertical : Bool) (spans : List (Nat × Nat)) : (readSpans s vertical spans).links = s.links :=
  changes_readSpans s vertical spans .links (by decide)

theorem changes_unread (s : State) (spans : List (Nat × Nat)) (p : Peer) (u : Nat) :
    Changes [.pages, .dies, .crier, .flash] s (peerBad (noteOthers s spans u) p u) :=
  changes_of (within_peerBad at0 at1 at2 at3 _ p u (within_noteOthers at0 at1 at2 at3 _ spans u (within_refl _ s)))

/-! ### The message of an answer -/

/-- The answer of a READ or an ATOMIC. -/
def answerMsg (c : Nat) (op : MsgOp) (m : LinkMsg) (failed : Bool) (old : Nat) (bs : List Byte) : OutMsg :=
  { ctx := c, op := op, mseq := 0, subop := if failed then 1 else 0, operand := BitVec.ofNat 64 old, reqTag := m.reqTag, data := bs }

section
variable {s : State} {c : Nat} (m : LinkMsg) (failed : Bool) (old : Nat) (bs : List Byte)

theorem changes_answer (s : State) (c : Nat) (op : MsgOp) : Changes [.out, .pages, .links] s (answer s c op m failed old bs) :=
  changes_of (within_answer at0 at1 at2 _ _ _ _ _ _ _ (within_refl _ s))

theorem expects_answer (s : State) (c : Nat) (op : MsgOp) : (answer s c op m failed old bs).expects = s.expects :=
  (sendMsg_getD_links s c 0 (answerMsg c op m failed old bs) .nobody).1

/-- A READY context sends the answer, under the tag of what asked. -/
theorem sends_answer (hready : (s.peer c).phase = .ready) {op : MsgOp} (hop : (op == .read || op == .atomic) = false) :
    Sends s (answer s c op m failed old bs) c fun v => v.op = op ∧ v.reqTag = m.reqTag ∧
      v.subop = (if failed then 1 else 0) ∧ v.operand = BitVec.ofNat 64 old ∧ v.data = bs := by
  obtain ⟨t, ht, -, hseq, -, -, -, -, -, u, hu, -, -, hmsg⟩ := sendMsg_some hready (answerMsg c op m failed old bs) 0 .nobody
  have hanswer : answer s c op m failed old bs = t := by
    unfold answer
    unfold answerMsg at ht
    rw [ht]
    rfl
  have htag : u.msg.reqTag = m.reqTag := by
    rw [hmsg]
    exact if_neg (by rw [show (answerMsg c op m failed old bs).op = op from rfl, hop]; decide)
  rw [hanswer]
  exact ⟨hseq, u, hu, by rw [hmsg], by rw [hmsg]; rfl, htag, by rw [hmsg]; rfl, by rw [hmsg]; rfl, by rw [hmsg]; rfl⟩

end

/-! ### READ -/

section
variable {s : State} {m : LinkMsg}

theorem effectOf_read : effectOf (received s .read m) m.ctx .read m = effRead (received s .read m) m.ctx (takenPeer s m) m := by
  unfold effectOf
  rw [received_peer]
  rfl

theorem effectOf_atomic :
    effectOf (received s .atomic m) m.ctx .atomic m = effAtomic (received s .atomic m) m.ctx (takenPeer s m) m := by
  unfold effectOf
  rw [received_peer]
  rfl

variable {p : Peer} {c n : Nat}

theorem effRead_refused (hn : n = bits m.operand.toNat 16 0)
    (h : 65536 < n ∨ linkTarget s (peerWho p) m.address.toNat n = none) :
    effRead s c p m = refusedEffect s p m.address.toNat n := by
  subst hn
  have hnone : (if 65536 < bits m.operand.toNat 16 0 then none
      else linkTarget s (peerWho p) m.address.toNat (bits m.operand.toNat 16 0)) = none := by
    split
    · rfl
    · exact h.resolve_left ‹_›
  simp only [effRead, hnone]

section
variable {key : Nat} (hn : n = bits m.operand.toNat 16 0) (hlen : n ≤ 65536)
  (h : linkTarget s (peerWho p) m.address.toNat n = some key)
include hn hlen h

theorem effRead_good (hunit : badUnit s key n = none) : effRead s c p m =
    { s := answer (readSpans (countLent s p m.address.toNat n) false [(key, n)]) c .readResp m false 0 (viewBytes s key n) } := by
  subst hn
  simp only [effRead, if_neg (Nat.not_lt.2 hlen), h, hunit]

theorem effRead_bad {u : Nat} (hunit : badUnit s key n = some u) : effRead s c p m =
    { s := answer (peerBad (noteOthers s [(key, n)] u) p u) c .readResp m true 0 [] } := by
  subst hn
  simp only [effRead, if_neg (Nat.not_lt.2 hlen), h, hunit]

end

/-! ### ATOMIC -/

/-- An ATOMIC that its receiver serves: aligned, in slab or hub SRAM, granted, and of an operation of its context's level. -/
structure AtomicServed (s : State) (p : Peer) (m : LinkMsg) : Prop where
  aligned : m.address.toNat % 8 = 0
  tier    : tierOf m.address.toNat = 1 ∨ tierOf m.address.toNat = 2
  granted : (linkTarget s (peerWho p) m.address.toNat 8).isSome = true
  subop   : m.subop.toNat ≤ atomicTop p

theorem atomic_refused_iff : (m.address.toNat % 8 ≠ 0 ∨ (tierOf m.address.toNat ≠ 1 ∧ tierOf m.address.toNat ≠ 2) ∨
    (linkTarget s (peerWho p) m.address.toNat 8).isNone ∨ atomicTop p < m.subop.toNat) ↔ ¬ AtomicServed s p m := by
  constructor
  · rintro h ⟨h1, h2, h3, h4⟩
    rw [Option.isNone_iff_eq_none, ← Option.not_isSome_iff_eq_none] at h
    rcases h with h | h | h | h
    · exact h h1
    · exact h2.elim h.1 h.2
    · exact h h3
    · exact Nat.not_lt.2 h4 h
  · intro h
    by_contra hno
    rw [Option.isNone_iff_eq_none, ← Option.not_isSome_iff_eq_none] at hno
    exact h ⟨by omega, by omega, by tauto, by omega⟩

theorem effAtomic_refused (h : ¬ AtomicServed s p m) : effAtomic s c p m = refusedEffect s p m.address.toNat 8 :=
  if_pos (atomic_refused_iff.2 h)

theorem effAtomic_served (h : AtomicServed s p m) (hunit : badUnit s m.address.toNat 8 = none)
    (hplain : PlainStore s m.address.toNat 8) : effAtomic s c p m =
    let old := viewNat s m.address.toNat 8
    let bs := leBytes 8 (atomicNew m.subop.toNat old m.operand.toNat m.operand2.toNat)
    { s := answer (landBytes (readSpans s false [(m.address.toNat, 8)]) m.address.toNat bs) c .atomicResp m false old [] } := by
  unfold effAtomic
  dsimp only
  rw [if_neg (fun hno => atomic_refused_iff.1 hno h), hunit, memStores_plain]
  · rfl
  · rw [leBytes_length]
    exact plainStore_readSpans false _ hplain

end

/-! ### The obligation -/

section
variable {s t : State} {op : MsgOp} {m : LinkMsg}

/-- What is read between arrival and answer leaves memory and the contexts. -/
theorem answers_of_changes {L : List Piece} (h : Changes L (received s op m) t) (hmem : Piece.mem ∉ L) (hlinks : Piece.links ∉ L) :
    t.mem = s.mem ∧ t.links = (received s op m).links :=
  ⟨(h .mem hmem).trans (changes_received s op m .mem (by decide)), h .links hlinks⟩

/-- A message that is taken and answered: it is acknowledged, and its answer sent. -/
theorem exec_answered {i : Instr} (hi : exec i s = .next (arriveMsg s op m)) (h : Taken s op m) {failed : Bool} {old : Nat}
    {bs : List Byte} {aop : MsgOp} (haop : (aop == .read || aop == .atomic) = false)
    (heffect : effectOf (received s op m) m.ctx op m = { s := answer t m.ctx aop m failed old bs })
    (hlinks : t.links = (received s op m).links) :
    (exec i s = .next (sendCtl (answer t m.ctx aop m failed old bs) m.ctx (.ack m.mseq m.reqTag)) ∧
      NextMsg s (answer t m.ctx aop m failed old bs) m.ctx) ∧
    Sends s (answer t m.ctx aop m failed old bs) m.ctx fun v => v.op = aop ∧ v.reqTag = m.reqTag ∧
      v.subop = (if failed then 1 else 0) ∧ v.operand = BitVec.ofNat 64 old ∧ v.data = bs := by
  have hpeer : t.peer m.ctx = (received s op m).peer m.ctx := peer_of_links hlinks m.ctx
  refine ⟨exec_acked hi h heffect ((expects_answer m failed old bs t m.ctx aop).trans (expects_of_links hlinks)), ?_⟩
  exact (sends_answer m failed old bs (by rw [hpeer]; exact received_ready h) haop).of_sendSeq (by rw [hpeer]; exact received_sendSeq)

/-- A message that is taken and whose access is refused. -/
theorem exec_refused {i : Instr} (hi : exec i s = .next (arriveMsg s op m)) (h : Taken s op m) {n : Nat}
    (heffect : effectOf (received s op m) m.ctx op m = refusedEffect (received s op m) (takenPeer s m) m.address.toNat n) :
    ∃ u, exec i s = .next (sendCtl u m.ctx (.nak m.mseq .refused m.reqTag)) ∧ Changes [.out, .pages, .links] s u ∧ NextMsg s u m.ctx := by
  have hchanges := changes_refusedEffect (received s op m) (takenPeer s m) m.address.toNat n
  obtain ⟨hnext, hmsg⟩ := exec_nak hi h heffect (expects_of_links (hchanges .links (by decide)))
  exact ⟨_, hnext, (changes_received s op m).trans (hchanges.mono (by decide)), hmsg⟩

end

/-- Settles O36: a READ by its target and its units, an ATOMIC by whether it is served. -/
theorem readsAndAtomicsAnswered : Obligations.ReadsAndAtomicsAnswered := by
  unfold Obligations.ReadsAndAtomicsAnswered
  intro s m p a n target old inside acked refused
  have hread : exec (.read m) s = .next (arriveMsg s .read m) := rfl
  have hatomic : exec (.atomic m) s = .next (arriveMsg s .atomic m) := rfl
  have htarget (k : Nat) (op : MsgOp) : linkTarget (received s op m) (peerWho (takenPeer s m)) a k = linkTarget s (peerWho p) a k := by
    rw [linkTarget_received]
    rfl
  have hserved : AtomicServed (received s .atomic m) (takenPeer s m) m ↔ inside := by
    have hgrant := htarget 8 .atomic
    constructor
    · rintro ⟨h1, h2, h3, h4⟩
      exact ⟨h1, h2, by rw [← hgrant]; exact h3, h4⟩
    · rintro ⟨h1, h2, h3, h4⟩
      exact ⟨h1, h2, by rw [← hgrant] at h3; exact h3, h4⟩
  refine ⟨fun key htaken hlen hkey hunit => ?_, fun key b htaken hlen hkey hunit => ?_, fun htaken hno => ?_,
    fun htaken hin hunit hplain => ?_, fun htaken hout => ?_⟩
  · have heffect := effectOf_read.trans (effRead_good (c := m.ctx) rfl hlen ((htarget n .read).trans hkey)
      ((congrFun (congrFun (badUnit_received s .read m) key) n).trans hunit))
    obtain ⟨hmem, hlinks⟩ := answers_of_changes (L := [.free, .softBad, .pages, .dies, .crier, .flash])
      (((changes_countLent (received s .read m) (takenPeer s m) a n).mono (by decide)).trans
        ((changes_readSpans _ false [(key, n)]).mono (by decide))) (by decide) (by decide)
    obtain ⟨hacked, hsends⟩ := exec_answered hread htaken rfl heffect hlinks
    exact ⟨_, hacked, (changes_answer m _ _ _ _ _ _ .mem (by decide)).trans hmem, hsends.imp fun v ⟨hop, htag, hsub, _, hdata⟩ =>
      ⟨hop, htag, hsub, hdata.trans (congrFun (congrFun (viewBytes_of_reads (reads_received s .read m)) key) n)⟩⟩
  · have heffect := effectOf_read.trans (effRead_bad (c := m.ctx) rfl hlen ((htarget n .read).trans hkey)
      ((congrFun (congrFun (badUnit_received s .read m) key) n).trans hunit))
    obtain ⟨hmem, hlinks⟩ := answers_of_changes (changes_unread (received s .read m) [(key, n)] (takenPeer s m) b) (by decide) (by decide)
    obtain ⟨hacked, hsends⟩ := exec_answered hread htaken rfl heffect hlinks
    exact ⟨_, hacked, (changes_answer m _ _ _ _ _ _ .mem (by decide)).trans hmem,
      hsends.imp fun v ⟨hop, htag, hsub, _, _⟩ => ⟨hop, htag, hsub⟩⟩
  · exact exec_refused hread htaken (effectOf_read.trans (effRead_refused rfl (hno.imp_right (htarget n .read).trans)))
  · have hreads := reads_received s .atomic m
    have heffect := effectOf_atomic.trans (effAtomic_served (c := m.ctx) (hserved.2 hin)
      ((congrFun (congrFun (badUnit_received s .atomic m) a) 8).trans hunit)
      (plainStore_of_storage (storage_received s .atomic m) hplain))
    have hold : viewNat (received s .atomic m) a 8 = old := by
      unfold viewNat
      rw [viewBytes_of_reads hreads]
      rfl
    dsimp only at heffect
    rw [hold] at heffect
    have hspans := reads_readSpans (s := received s .atomic m) false [(a, 8)]
    obtain ⟨hacked, hsends⟩ := exec_answered hatomic htaken rfl heffect ((landBytes_links _ _ _).trans
      (readSpans_links _ _ _))
    refine ⟨_, hacked, fun b => ?_, hsends.imp fun v ⟨hop, htag, hsub, hoperand, _⟩ => ⟨hop, htag, hsub, hoperand⟩⟩
    refine Eq.trans ?_ (memByte_landed (hspans.trans hreads) a _ b)
    exact congrArg (mget 0 · b) (changes_answer m _ _ _ _ _ _ .mem (by decide))
  · exact exec_refused hatomic htaken (effectOf_atomic.trans (effAtomic_refused fun h => hout (hserved.1 h)))

end Sys2Proof.Machine

/-! Answers: the bytes of a READ and the old value of an ATOMIC go to what asked for them (R385, R440, R442). -/

namespace Sys2Proof.Machine

/-- A message that an answer of an operation is for. -/
def answersTo (op : MsgOp) (m : LinkMsg) (u : Unacked) : Bool := u.msg.op == op && u.msg.reqTag == m.reqTag

/-- What asked for an answer asks no more. -/
def withdraw (s : State) (c : Nat) (op : MsgOp) (m : LinkMsg) : State :=
  s.setPeer c { s.peer c with asked := (s.peer c).asked.filter fun v => !answersTo op m v }

section
variable (s : State) (c : Nat) (op : MsgOp) (m : LinkMsg)

theorem expects_withdraw : (withdraw s c op m).expects = s.expects := expects_setPeer s c rfl rfl

theorem changes_withdraw : Changes [.links] s (withdraw s c op m) :=
  changes_of (within_State_setPeer at0 _ _ _ (within_refl _ s))

end

/-- An answer that has come to its effect: the state in which its place takes it. -/
def answered (s : State) (aop op : MsgOp) (m : LinkMsg) : State := withdraw (received s aop m) m.ctx op m

section
variable {s : State} {aop op : MsgOp} {m : LinkMsg}

theorem changes_answered : Changes [.out, .pages, .links] s (answered s aop op m) :=
  (changes_received s aop m).trans ((changes_withdraw _ _ _ _).mono (by decide))

theorem expects_answered : (answered s aop op m).expects = (received s aop m).expects := expects_withdraw _ _ _ _

theorem storage_answered : (answered s aop op m).storage = s.storage := storage_received s aop m

theorem reads_answered : (answered s aop op m).reads = s.reads := reads_received s aop m

theorem answered_core (g : Nat) : (answered s aop op m).core g = s.core g :=
  congrArg (mget Core.init · g) (changes_answered .cores (by decide))

theorem answered_frontOfMq (g idx : Nat) : frontOfMq (answered s aop op m) g idx = frontOfMq s g idx := by
  unfold frontOfMq
  rw [answered_core]

theorem answered_entryOf (d k pos : Nat) : entryOf (answered s aop op m) d k pos = entryOf s d k pos := by
  unfold entryOf
  rw [show (answered s aop op m).die d = s.die d from congrArg (mget _ · d) (changes_answered .dies (by decide))]

theorem answered_reqOf (q pos : Nat) : reqOf (answered s aop op m) q pos = reqOf s q pos :=
  reqOf_of_reqs (received_reqs s aop m) q pos

end

/-! ### What waits for an answer -/

/-- The bytes of an answer. -/
def answerBytes (op : MsgOp) (m : LinkMsg) : List Byte := if op = .read then m.data else leBytes 8 m.operand.toNat

section
variable {s : State} {c : Nat} {p : Peer} {op : MsgOp} {m : LinkMsg} {u : Unacked} (hu : p.asked.find? (answersTo op m) = some u)
  (hsub : m.subop = 0)
include hu hsub

theorem effAnswer_command {g idx : Nat} {q : QueueId} (hw : u.waiter = .command g q idx) :
    effAnswer s c p op m = { s := readAnswered (withdraw s c op m) g idx u.key false (answerBytes op m) } := by
  unfold answersTo at hu
  simp only [effAnswer, hu, hw, hsub, ne_eq, not_true_eq_false, decide_false]
  rfl

theorem effAnswer_entry {d k pos : Nat} {e : Entry} (hw : u.waiter = .entry d k pos) (he : entryOf (withdraw s c op m) d k pos = some e) :
    effAnswer s c p op m = { s := memWrite (withdraw s c op m) u.key (answerBytes op m) } := by
  have hsome : (entryOf (withdraw s c op m) d k pos).isSome = true := by rw [he]; rfl
  unfold answersTo at hu
  unfold withdraw answersTo at hsome
  simp only [effAnswer, hu, hw, hsub, ne_eq, not_true_eq_false, if_false, hsome, if_true]
  rfl

theorem effAnswer_request {q pos : Nat} (hw : u.waiter = .request q pos) :
    effAnswer s c p op m = { s := requestAnswered (withdraw s c op m) q pos u.key false (answerBytes op m) } := by
  unfold answersTo at hu
  simp only [effAnswer, hu, hw, hsub, ne_eq, not_true_eq_false, decide_false]
  rfl

end

theorem expects_memWrite (s : State) (a : Nat) (bs : List Byte) : (memWrite s a bs).expects = s.expects :=
  expects_of_links (rfl : (memWrite s a bs).links = s.links)

theorem expects_modCore (s : State) (g : Nat) (f : Core → Core) : (s.modCore g f).expects = s.expects :=
  expects_of_links (rfl : (s.modCore g f).links = s.links)

/-- A command that waits for further answers keeps the bytes of this one. -/
theorem readAnswered_more {s : State} {g idx n : Nat} {r : CmdRec} (hreads : (s.core g).reads = some (n + 2))
    (hr : frontOfMq s g idx = some r) (key : Nat) (bs : List Byte) : readAnswered s g idx key false bs =
      (memWrite s key bs).modCore g fun c => { c with reads := some (n + 1) } := by
  unfold readAnswered
  simp only [hreads, hr, Bool.false_eq_true, if_false]
  rw [if_neg (by omega)]
  rfl

/-- The bytes of a request are stored where nothing about their place needs a rule. -/
theorem reqStore_plain {s : State} {key : Nat} {bs : List Byte} (h : PlainStore s key bs.length) (p : Nat) (r : LinkReq) :
    reqStore s p r key bs = landBytes s key bs := by
  unfold reqStore
  rw [memStores_plain h]
  rfl

theorem expects_modReq (s : State) (p pos : Nat) (f : LinkReq → LinkReq) : (modReq s p pos f).expects = s.expects := rfl

theorem mem_modReq (s : State) (p pos : Nat) (f : LinkReq → LinkReq) : (modReq s p pos f).mem = s.mem := rfl

theorem reqArrived_last {s : State} {p pos : Nat} {r : LinkReq} (hr : reqOf s p pos = some r) (hcoll : r.isCollective = false)
    (hwaiting : r.waiting = 1) (hsent : r.sent = reqSegments r) : reqArrived s p pos =
      endReq (modReq s p pos fun r => { r with waiting := r.waiting - 1 }) p pos := by
  have hmod := reqOf_modReq s p pos (f := fun r => { r with waiting := r.waiting - 1 }) fun _ => rfl
  have hdone : (!r.isCollective && r.waiting - 1 == 0 && r.sent == reqSegments r) = true := by
    rw [hcoll, hwaiting, ← hsent]
    simp
  unfold reqArrived
  dsimp only
  rw [hmod, hr]
  exact if_pos hdone

/-- The last message that a transfer waits for ends it. -/
theorem reqArrived_ends {s : State} {p pos : Nat} {r : LinkReq} (hr : reqOf s p pos = some r) (hcoll : r.isCollective = false)
    (hwaiting : r.waiting = 1) (hsent : r.sent = reqSegments r) :
    reqOf (reqArrived s p pos) p pos = some { r with finished := true, waiting := 0 } ∧
      (reqArrived s p pos).expects = s.expects ∧ (reqArrived s p pos).mem = s.mem := by
  rw [reqArrived_last hr hcoll hwaiting hsent]
  unfold endReq
  refine ⟨?_, (expects_modReq _ _ _ _).trans (expects_modReq s _ _ _), (mem_modReq _ _ _ _).trans (mem_modReq s _ _ _)⟩
  rw [reqOf_modReq, reqOf_modReq, hr]
  · rfl
  · exact fun _ => rfl
  · exact fun _ => rfl

theorem requestAnswered_open {s : State} {p pos : Nat} {r : LinkReq} (hr : reqOf s p pos = some r) (hopen : r.finished = false)
    (key : Nat) (bs : List Byte) : requestAnswered s p pos key false bs = reqArrived (reqStore s p r key bs) p pos := by
  unfold requestAnswered
  simp only [hr, hopen, Bool.false_eq_true, if_false]

theorem effectOf_readResp (s : State) (m : LinkMsg) :
    effectOf (received s .readResp m) m.ctx .readResp m = effAnswer (received s .readResp m) m.ctx (takenPeer s m) .read m := by
  unfold effectOf
  rw [received_peer]
  rfl

theorem effectOf_atomicResp (s : State) (m : LinkMsg) :
    effectOf (received s .atomicResp m) m.ctx .atomicResp m = effAnswer (received s .atomicResp m) m.ctx (takenPeer s m) .atomic m := by
  unfold effectOf
  rw [received_peer]
  rfl

/-- Settles O37: an answer by who waits for it. -/
theorem answersTaken : Obligations.AnswersTaken := by
  unfold Obligations.AnswersTaken
  intro s m u hsub acked
  have hread : exec (.readResp m) s = .next (arriveMsg s .readResp m) := rfl
  have hatomic : exec (.atomicResp m) s = .next (arriveMsg s .atomicResp m) := rfl
  refine ⟨fun htaken hu => ⟨fun g q idx n r hw hreads hr => ?_, fun d k pos e hw he => ?_⟩,
    fun htaken hu q pos r hw hr hopen hwaiting hsent hkind hplain => ?_⟩
  · have hmore := readAnswered_more (s := answered s .readResp .read m) (by rw [answered_core]; exact hreads)
      (by rw [answered_frontOfMq]; exact hr) u.key m.data
    have heffect := (effectOf_readResp s m).trans ((effAnswer_command (s := received s .readResp m) (c := m.ctx) hu hsub hw).trans
      (congrArg (fun t : State => ({ s := t } : Effect)) hmore))
    have hexpects := (expects_modCore (memWrite (answered s .readResp .read m) u.key m.data) g fun c => { c with reads := some (n + 1) }).trans
      ((expects_memWrite _ u.key m.data).trans expects_answered)
    refine ⟨_, exec_acked hread htaken heffect hexpects, ?_, ?_, fun a => ?_⟩
    · exact (changes_answered.mono (by decide)).trans (changes_of (within_State_modCore (by decide) _ _ _
        (within_memWrite (by decide) _ _ _ (within_refl _ _))))
    · rw [State.core_modCore]
    · exact congrFun (memByte_of_reads (reads_memWrite_congr reads_answered u.key m.data)) a
  · have heffect := (effectOf_readResp s m).trans (effAnswer_entry (s := received s .readResp m) (c := m.ctx) hu hsub hw
      ((answered_entryOf d k pos).trans he))
    have hexpects := (expects_memWrite (answered s .readResp .read m) u.key m.data).trans expects_answered
    refine ⟨_, exec_acked hread htaken heffect hexpects, ?_, fun a => ?_⟩
    · exact (changes_answered.mono (by decide)).trans (changes_of (within_memWrite (by decide) _ _ _ (within_refl _ _)))
    · exact congrFun (memByte_of_reads (reads_memWrite_congr reads_answered u.key m.data)) a
  · set bs := leBytes 8 m.operand.toNat with hbs
    have hr1 : reqOf (answered s .atomicResp .atomic m) q pos = some r := (answered_reqOf q pos).trans hr
    have hplain1 : PlainStore (answered s .atomicResp .atomic m) u.key bs.length := by
      rw [hbs, leBytes_length]
      exact plainStore_of_storage storage_answered hplain
    have hr2 : reqOf (landBytes (answered s .atomicResp .atomic m) u.key bs) q pos = some r :=
      (reqOf_of_reqs (congrArg Links.reqs (landBytes_links _ _ _)) q pos).trans hr1
    obtain ⟨hends, hexpects, hmem⟩ := reqArrived_ends hr2 (by unfold LinkReq.isCollective; rw [hkind]; decide) hwaiting
      (hsent.trans (by unfold reqSegments; rw [if_pos hkind]))
    have hrequest := (requestAnswered_open hr1 hopen u.key bs).trans (congrArg (reqArrived · q pos) (reqStore_plain hplain1 q r))
    have heffect := (effectOf_atomicResp s m).trans ((effAnswer_request (s := received s .atomicResp m) (c := m.ctx) hu hsub hw).trans
      (congrArg (fun t : State => ({ s := t } : Effect)) hrequest))
    have hlanded := (expects_of_links (landBytes_links (answered s .atomicResp .atomic m) u.key bs)).trans expects_answered
    exact ⟨_, _, exec_acked hatomic htaken heffect (hexpects.trans hlanded), hends, rfl, rfl, fun a =>
      (congrArg (mget 0 · a) hmem).trans (memByte_landed reads_answered u.key bs a)⟩

end Sys2Proof.Machine

/-! Ports: the flits, the pauses and the codewords of a half-port, and what a source that fails leaves (R342, R423–R433, R446, R451). -/

namespace Sys2Proof.Machine

variable {s : State}

/-! ### The pages of the half-ports -/

theorem halfPage_ne_bell (h : Nat) : halfPage h ≠ pnBell := by unfold halfPage pnLink pnBell; omega
theorem halfPage_ne_pwr (h : Nat) : halfPage h ≠ pnPwr := by unfold halfPage pnLink pnPwr; omega

/-- What a failed reference leaves of a half-port: the links, the outputs, and the words and the events of its page. -/
def State.portView (s : State) (h : Nat) : Links × List Output × (Nat → Word) × Word :=
  (s.links, s.out, s.reg (halfPage h), ((s.page (halfPage h)).evtStatus))

section
variable (s : State) (h : Nat)

theorem portView_setEvent {pn : Nat} (hne : halfPage h ≠ pn) (b : Nat) : (setEvent s pn b).portView h = s.portView h := by
  unfold State.portView State.reg
  rw [setEvent_page_ne s pn b _ hne, setEvent_links, setEvent_out]

theorem portView_raiseTrap (pn : Nat) (r : TrapInfo) : (raiseTrap s pn r).portView h = s.portView h := by
  unfold State.portView
  rw [raiseTrap_links, raiseTrap_out, raiseTrap_evtStatus, funext fun k => raiseTrap_reg s pn r (halfPage h) k]

theorem portView_enterSelfTimed : (enterSelfTimed s).portView h = s.portView h :=
  enterSelfTimed_view s (State.portView · h) fun t d => portView_setEvent t h (offAlmanac_half h d).symm 3

theorem portView_unlock (cause : Nat) (ppm : BitVec 16) : (unlock s cause ppm).portView h = s.portView h := by
  by_cases hl : s.bell.locked = true
  · rw [unlock_locked hl, portView_raiseTrap]
    refine (portView_setEvent _ h (halfPage_ne_pwr h) 6).trans ((portView_setEvent _ h (halfPage_ne_bell h) 0).trans ?_)
    have hcount (t : State) : (t.count pnBell 0 1).portView h = t.portView h := by
      unfold State.portView State.reg
      rw [State.page_count_ne t pnBell 0 1 _ (halfPage_ne_bell h)]
      rfl
    exact (hcount _).trans (portView_enterSelfTimed s h)
  · rw [unlock_of_unlocked (Bool.eq_false_iff.2 hl)]

theorem portView_checkBellSource : (checkBellSource s).portView h = s.portView h := by
  unfold checkBellSource
  split
  · exact portView_unlock s h 0 _
  · rfl

theorem checkBellSource_links : (checkBellSource s).links = s.links := congrArg Prod.fst (portView_checkBellSource s 0)

theorem checkBellSource_half (k : Nat) : (checkBellSource s).half k = s.half k := by
  unfold State.half
  rw [checkBellSource_links]

theorem checkBellSource_out : (checkBellSource s).out = s.out :=
  congrArg (fun v => v.2.1) (portView_checkBellSource s 0)

theorem checkBellSource_reg (k : Nat) : (checkBellSource s).reg (halfPage h) k = s.reg (halfPage h) k :=
  congrFun (congrArg (fun v => v.2.2.1) (portView_checkBellSource s h)) k

theorem checkBellSource_evtStatus : ((checkBellSource s).page (halfPage h)).evtStatus = (s.page (halfPage h)).evtStatus :=
  congrArg (fun v => v.2.2.2) (portView_checkBellSource s h)

theorem changes_checkBellSource : Changes [.pages, .dies, .bell, .crier, .power] s (checkBellSource s) :=
  changes_of (within_checkBellSource at0 at1 at2 at3 at4 _ (within_refl _ s))

end

/-- Without a port as its source the reference does not depend on ports. -/
theorem checkBellSource_external (h : bellSrcPort s = false) : checkBellSource s = s := by
  unfold checkBellSource
  rw [h]
  rfl

/-- The source is a port whose flits are not valid: the reference has stopped. -/
theorem checkBellSource_invalid {h : Nat} (hsource : bellSource s = some h) (hinvalid : (s.half h).bellRxValid = false) :
    checkBellSource s = unlock s 0 s.bell.ppm := by
  have hport : bellSrcPort s = true := by
    unfold bellSource at hsource
    by_contra hno
    rw [Bool.not_eq_true] at hno
    simp [hno] at hsource
  unfold checkBellSource
  rw [hport, hsource]
  simp [hinvalid]

theorem unlock_bell (hlocked : s.bell.locked = true) (cause : Nat) (ppm : BitVec 16) :
    (unlock s cause ppm).bell.locked = false ∧ (unlock s cause ppm).bell.holdover = true ∧
      (unlock s cause ppm).bell.cause = BitVec.ofNat 2 cause := by
  obtain ⟨-, h1, h2, -, h3, -⟩ := unlock_lost s (b := s.bell) hlocked rfl cause ppm
  exact ⟨h1, h2, h3⟩

/-! ### Half-ports -/

theorem changes_modHalf (s : State) (h : Nat) (f : Half → Half) : Changes [.links] s (s.modHalf h f) :=
  changes_of (within_State_modHalf at0 _ _ _ (within_refl _ s))

theorem changes_emit (s : State) (o : Output) : Changes [.out] s (s.emit o) :=
  changes_of (within_State_emit at0 _ _ (within_refl _ s))

/-- From `s` to `t` nothing changes but the counters and the words of one half-port. -/
structure AtPort (h : Nat) (s t : State) : Prop where
  changes : Changes [.pages, .links] s t
  others : ∀ k, k ≠ h → t.half k = s.half k

theorem AtPort.trans {h : Nat} {t u : State} (a : AtPort h s t) (b : AtPort h t u) : AtPort h s u :=
  ⟨a.changes.trans b.changes, fun k hk => (b.others k hk).trans (a.others k hk)⟩

theorem atPort_count (s : State) (h pn k n : Nat) : AtPort h s (s.count pn k n) :=
  ⟨(onlyPage_count s pn k n).1.mono (by decide), fun _ _ => rfl⟩

theorem atPort_modHalf (s : State) (h : Nat) (f : Half → Half) : AtPort h s (s.modHalf h f) :=
  ⟨(changes_modHalf s h f).mono (by decide), fun k hk => State.half_modHalf_ne s h k f hk⟩

theorem atPort_takeOwn (s : State) (h : Nat) : AtPort h s (takeOwn s h) :=
  (atPort_count s h _ _ _).trans (atPort_modHalf _ h _)

theorem takeOwn_half (h : Nat) (hdirect : halfFabric s h = false) :
    (takeOwn s h).half h = { s.half h with rxSeq := (s.half h).rxSeq + 1 } := by
  unfold takeOwn
  rw [State.half_modHalf, hdirect]
  rfl

theorem takeOwn_reg (s : State) (h pn k : Nat) : (takeOwn s h).reg pn k = s.reg pn k := State.reg_count s _ _ _ _ _

theorem bellSource_congr {t : State} (h : ∀ pn off, t.reg pn off = s.reg pn off) : bellSource t = bellSource s := by
  unfold bellSource bellSrcPort bellCtl portSplit State.regN
  simp only [h]

theorem bellSrcPort_congr {t : State} (h : ∀ pn off, t.reg pn off = s.reg pn off) : bellSrcPort t = bellSrcPort s := by
  unfold bellSrcPort bellCtl State.regN
  rw [h]

/-- What sending does not move of a half-port. -/
theorem half_pumpAll {γ : Type} (s : State) (h : Nat) (f : Half → γ) (hf : ∀ v : Half, f v.steady = f v) :
    f ((pumpAll s).half h) = f (s.half h) := by
  rw [← hf, steady_of_ports (ports_pumpAll s), hf]

/-! ### LACK and LNAK -/

/-- A half-port after LACK and LNAK of a flit. -/
def Half.lacked (v : Half) (lack : BitVec 12) (lnak : Bool) : Half :=
  { v with
    lackRx := if (lack - v.lackRx).toNat ≤ v.replaying then lack else v.lackRx
    replayRun := if lnak then
        (if (if (lack - v.lackRx).toNat ≤ v.replaying then lack else v.lackRx) = v.lackRx then v.replayRun + 1 else 1)
      else 0 }

section
variable (s : State) (h : Nat) (lack : BitVec 12) (lnak : Bool)

theorem takeLack_eq : takeLack s h lack lnak = if lnak then
    ((s.setHalf h ((s.half h).lacked lack lnak)).count (halfPage h) 4 1).emit (.linkReplay h)
      else s.setHalf h ((s.half h).lacked lack lnak) := rfl

theorem takeLack_half : (takeLack s h lack lnak).half h = (s.half h).lacked lack lnak := by
  rw [takeLack_eq]
  split
  · rw [State.emit_half, State.count_half, State.half_setHalf]
  · exact State.half_setHalf s h _

theorem takeLack_half_ne {k : Nat} (hk : k ≠ h) : (takeLack s h lack lnak).half k = s.half k := by
  rw [takeLack_eq]
  split
  · rw [State.emit_half, State.count_half, State.half_setHalf_ne _ _ _ _ hk]
  · exact State.half_setHalf_ne s h k _ hk

theorem takeLack_out : (takeLack s h lack lnak).out = s.out ++ if lnak then [.linkReplay h] else [] := by
  cases lnak
  · exact (List.append_nil _).symm
  · rfl

theorem takeLack_counter {k : Nat} (hk : k ≠ 4) : (takeLack s h lack lnak).counter (halfPage h) k = s.counter (halfPage h) k := by
  cases lnak
  · rfl
  · exact State.counter_count_ne _ (halfPage h) 4 k 1 hk

theorem takeLack_replays : (takeLack s h lack lnak).counter (halfPage h) 4 =
    s.counter (halfPage h) 4 + if lnak then 1 else 0 := by
  cases lnak
  · exact (BitVec.add_zero _).symm
  · exact State.counter_count_same _ (halfPage h) 4 1

theorem changes_takeLack : Changes [.out, .pages, .links] s (takeLack s h lack lnak) :=
  changes_of (within_takeLack at0 at1 at2 _ _ _ _ (within_refl _ s))

end

/-! ### Flits of the device itself -/

/-- A flit of the device itself that is no message has been taken: what it carries of LACK and LNAK has its effect. -/
structure OwnTaken (h : Nat) (lnak : Bool) (s t : State) : Prop where
  changes : Changes [.out, .pages, .links] s t
  others : ∀ k, k ≠ h → t.half k = s.half k
  out : t.out = s.out ++ if lnak then [.linkReplay h] else []
  flits : t.counter (halfPage h) 1 = s.counter (halfPage h) 1 + 1
  replays : t.counter (halfPage h) 4 = s.counter (halfPage h) 4 + if lnak then 1 else 0

/-- A flit that is counted has its LACK and its LNAK taken. -/
theorem ownTaken_takeLack {h : Nat} {t : State} (ht : AtPort h s t) (hout : t.out = s.out)
    (hcount : ∀ k, t.counter (halfPage h) k = (s.count (halfPage h) 1 1).counter (halfPage h) k) (lack : BitVec 12) (lnak : Bool) :
    OwnTaken h lnak s (takeLack t h lack lnak) where
  changes := (ht.changes.mono (by decide)).trans (changes_takeLack t h lack lnak)
  others k hk := (takeLack_half_ne t h lack lnak hk).trans (ht.others k hk)
  out := by rw [takeLack_out, hout]
  flits := (takeLack_counter t h lack lnak (by decide)).trans ((hcount 1).trans (State.counter_count_same s (halfPage h) 1 1))
  replays := by rw [takeLack_replays, hcount, State.counter_count_ne s _ _ _ _ (by decide)]

theorem OwnTaken.modHalf {h : Nat} {lnak : Bool} {t : State} (ht : OwnTaken h lnak s t) (f : Half → Half) :
    OwnTaken h lnak s (t.modHalf h f) where
  changes := ht.changes.trans ((changes_modHalf t h f).mono (by decide))
  others k hk := (State.half_modHalf_ne t h k f hk).trans (ht.others k hk)
  out := ht.out
  flits := ht.flits
  replays := ht.replays

theorem halfUp_iff (s : State) (h : Nat) : halfUp s h = true ↔ (s.half h).state = .up ∧ halfFabric s h = false := by
  unfold halfUp
  simp

theorem execLinkCtl_up {h : Nat} (hup : halfUp s h = true) (lack : BitVec 12) (lnak : Bool) : execLinkCtl h lack lnak s =
    .next (pumpPort (takeLack ((takeOwn s h).modHalf h fun v => { v with lnak := false }) h lack lnak) h) :=
  congrArg _ (if_pos hup)

theorem ownTaken_linkCtl (s : State) (h : Nat) (lack : BitVec 12) (lnak : Bool) :
    OwnTaken h lnak s (takeLack ((takeOwn s h).modHalf h fun v => { v with lnak := false }) h lack lnak) :=
  ownTaken_takeLack ((atPort_takeOwn s h).trans (atPort_modHalf _ h _)) rfl (fun _ => rfl) lack lnak

theorem ownTaken_idle (s : State) (h : Nat) (lack : BitVec 12) (lnak : Bool) :
    OwnTaken h lnak s (takeLack (s.count (halfPage h) 1 1) h lack lnak) :=
  ownTaken_takeLack (atPort_count s h _ _ _) rfl (fun _ => rfl) lack lnak

/-! ### The bell of a half-port -/

theorem bellSource_takeOwn (s : State) (h : Nat) : bellSource (takeOwn s h) = bellSource s :=
  bellSource_congr (takeOwn_reg s h)

theorem execBell_guard {h : Nat} (hup : halfUp s h = true) :
    ¬(halfFabric s h || !((s.half h).state == .up || (s.half h).state == .negotiateFailed)) = true := by
  obtain ⟨hstate, hfabric⟩ := (halfUp_iff s h).1 hup
  simp [hstate, hfabric]

theorem execBell_locked {h : Nat} (hup : halfUp s h = true) (hsource : bellSource s ≠ some h) (count : Long) :
    execBell h count true s = .next ((takeOwn s h).modHalf h fun v => { v with bellRxValid := true, bellRx := some count }) := by
  rw [← bellSource_takeOwn s h] at hsource
  unfold execBell
  rw [if_neg (execBell_guard hup)]
  exact congrArg Host.Outcome.next (if_neg hsource)

theorem execBell_unlocked {h : Nat} (hup : halfUp s h = true) (count : Long) :
    execBell h count false s = .next (checkBellSource ((takeOwn s h).modHalf h fun v => { v with bellRxValid := false })) := by
  unfold execBell
  rw [if_neg (execBell_guard hup)]
  rfl

/-- What a BELL flit makes of its half-port, whose LSEQ it moves. -/
theorem takeOwn_modHalf {h : Nat} (hup : halfUp s h = true) (f : Half → Half) :
    ((takeOwn s h).modHalf h f).half h = f { s.half h with rxSeq := (s.half h).rxSeq + 1 } := by
  rw [State.half_modHalf, takeOwn_half h ((halfUp_iff s h).1 hup).2]

/-! ### Frames -/

theorem execFrame_fabric {f : LinkFrame} (hup : (s.half f.port).state = .up) (hfabric : halfFabric s f.port = true) :
    execFrame f s = .next (
      if f.fcsOk = true ∧ f.etherType.toNat = bits (s.regN (halfPage f.port) 0x100) 15 0 ∧ f.dest = halfMac s f.port then
        (s.count (halfPage f.port) 1 f.flits.length).count (halfPage f.port) 6 (droppedFlits s f)
      else s.count (halfPage f.port) 7 1) := by
  unfold execFrame
  rw [if_neg (by simp [hup, hfabric])]
  refine congrArg _ ?_
  by_cases hgood : f.fcsOk = true ∧ f.etherType.toNat = bits (s.regN (halfPage f.port) 0x100) 15 0 ∧ f.dest = halfMac s f.port
  · rw [if_pos hgood]
    obtain ⟨hfcs, htype, hdest⟩ := hgood
    exact if_neg (by simp [hfcs, htype, hdest])
  · rw [if_neg hgood]
    refine if_pos ?_
    simp only [Bool.or_eq_true, Bool.not_eq_true', decide_eq_true_eq, bne_iff_ne, ne_eq]
    by_contra hbad
    simp only [not_or, not_not, Bool.not_eq_false] at hbad
    exact hgood ⟨hbad.1.1, hbad.1.2, hbad.2⟩

/-- Settles O43: each flit by its own command, in a half-port that is up. -/
theorem flitsTaken : Obligations.FlitsTaken := by
  unfold Obligations.FlitsTaken
  intro s port lack lnak vc part n prio f count v other upTo run taken
  refine ⟨fun hup => ⟨⟨_, execLinkCtl_up hup lack lnak, ?ctl⟩, _, congrArg Host.Outcome.next (if_pos hup), ?idle⟩,
    fun hup => ⟨_, congrArg Host.Outcome.next (if_pos hup), ?replay⟩, fun hdown => ⟨?_, ?_, ?_⟩, ?codeword, fun hup hfabric => ?frame,
    fun hfabric => ?pause, ?expiry, fun hfabric hstate hsource => ⟨?locked, fun hext => ?unlocked⟩,
    fun hfabric hstate hsource hlocked => ?stopped⟩
  case ctl =>
    have h := ownTaken_linkCtl s port lack lnak
    refine ⟨h.changes, h.others, ?_, h.out, h.flits, h.replays⟩
    rw [takeLack_half, takeOwn_modHalf hup]
    rfl
  case idle =>
    have h := (ownTaken_idle s port lack lnak).modHalf fun v =>
      { v with credits := mset 0 v.credits (part % 4 * 4 + vc % 4) (mget 0 v.credits (part % 4 * 4 + vc % 4) + n % 1024) }
    refine ⟨h.changes, h.others, ?_, h.out, h.flits, h.replays⟩
    rw [State.half_modHalf, takeLack_half]
    rfl
  case replay =>
    refine ⟨((changes_modHalf s port _).mono (by decide)).trans ((changes_emit _ _).mono (by decide)),
      fun k hk => (State.emit_half _ _ k).trans (State.half_modHalf_ne s port k _ hk), ?_, rfl⟩
    rw [State.emit_half, State.half_modHalf]
  case codeword =>
    refine ⟨_, rfl, ?_⟩
    have h := (atPort_modHalf s port fun _ => { v with
      codewords := v.codewords.filter (fun t => decide (s.bell.count.toNat < t.toNat + 2 ^ 16)) ++ [s.bell.count]
      retrainDue := v.retrainDue || decide (retrainThresh s port ≤
        (v.codewords.filter (fun t => decide (s.bell.count.toNat < t.toNat + 2 ^ 16)) ++ [s.bell.count]).length) }).trans
      (atPort_count _ port (halfPage port) 3 1)
    exact ⟨h.changes, h.others, State.counter_count_same _ _ _ _, State.half_setHalf s port _⟩
  case frame =>
    intro good
    have hne (k : Nat) (hk : k ≠ 6) := State.counter_count_ne (s.count (halfPage f.port) 1 f.flits.length) (halfPage f.port) 6 k
      (droppedFlits s f) hk
    refine ⟨_, execFrame_fabric hup hfabric, ?_, fun hbad => ?_, fun hgood => ?_⟩
    · split
      · exact ⟨(onlyPage_count s _ _ _).1.trans (onlyPage_count _ _ _ _).1, fun j hj =>
          (State.page_count_ne _ _ _ _ _ hj).trans (State.page_count_ne _ _ _ _ _ hj)⟩
      · exact onlyPage_count s _ _ _
    · rw [if_neg hbad]
      exact State.counter_count_same s _ _ _
    · rw [if_pos hgood, State.counter_count_same, hne 1 (by decide), State.counter_count_same,
        State.counter_count_ne _ _ _ _ _ (by decide)]
      exact ⟨rfl, rfl⟩
  case pause =>
    refine ⟨_, congrArg Host.Outcome.next (if_pos hfabric), changes_modHalf s port _, (atPort_modHalf s port _).others, ?_⟩
    rw [State.half_modHalf]
    by_cases hc : (s.half port).paused.contains prio = true
    · simp only [hc, if_true]
    · simp only [hc, Bool.false_eq_true, if_false]
      simp
  case expiry =>
    refine ⟨_, rfl, ((changes_modHalf s port _).mono (by decide)).trans (pumped_pumpAll _).rest, ?_⟩
    rw [half_pumpAll _ port Half.paused fun _ => rfl, State.half_modHalf]
  case locked =>
    have hup := (halfUp_iff s port).2 ⟨hstate, hfabric⟩
    refine ⟨_, execBell_locked hup hsource count, ?_⟩
    have h := (atPort_takeOwn s port).trans (atPort_modHalf _ port fun v => { v with bellRxValid := true, bellRx := some count })
    exact ⟨h.changes, h.others, takeOwn_modHalf hup _⟩
  case unlocked =>
    have hup := (halfUp_iff s port).2 ⟨hstate, hfabric⟩
    have hext' := (bellSrcPort_congr (takeOwn_reg s port)).trans hext
    refine ⟨_, (execBell_unlocked hup count).trans (congrArg _ (checkBellSource_external hext')), ?_⟩
    have h := (atPort_takeOwn s port).trans (atPort_modHalf _ port fun v => { v with bellRxValid := false })
    exact ⟨h.changes, h.others, takeOwn_modHalf hup _⟩
  case stopped =>
    have hup := (halfUp_iff s port).2 ⟨hstate, hfabric⟩
    have hsource' := (bellSource_takeOwn s port).trans hsource
    refine ⟨_, (execBell_unlocked hup count).trans (congrArg _ (checkBellSource_invalid
      (s := (takeOwn s port).modHalf port fun v => { v with bellRxValid := false }) hsource' ?_)), unlock_bell ?_ 0 _⟩
    · rw [takeOwn_modHalf hup]
    · exact hlocked
  all_goals exact congrArg Host.Outcome.next (if_neg (by rw [hdown]; exact Bool.false_ne_true))

end Sys2Proof.Machine

/-! Retraining of a half-port (R423, R451, R452). -/

namespace Sys2Proof.Machine

variable {s : State} {h : Nat}

theorem changes_setHalf (s : State) (h : Nat) (v : Half) : Changes [.links] s (s.setHalf h v) :=
  changes_of (within_State_setHalf at0 _ _ _ (within_refl _ s))

theorem changes_setEvent (s : State) (pn b : Nat) : Changes [.pages, .crier] s (setEvent s pn b) :=
  changes_of (within_setEvent at0 at1 _ _ _ (within_refl _ s))

/-- A half-port that begins to retrain. -/
def Half.retrains (v : Half) : Half := { v with state := .retraining, codewords := [], retrainDue := false, replayRun := 0 }

theorem execLinkRetrain_direct (hup : (s.half h).state = .up) (hwants : wantsRetrain s h = true) (hdirect : halfFabric s h = false) :
    execLinkRetrain h s = .next (setEvent ((s.modHalf h Half.retrains).count (halfPage h) 5 1) (halfPage h) 1) := by
  unfold execLinkRetrain
  rw [if_pos (by simp [hup, hwants])]
  exact congrArg Host.Outcome.next (if_neg (by rw [hdirect]; exact Bool.false_ne_true))

theorem execLinkRetrain_unwanted (hwants : wantsRetrain s h = false) : execLinkRetrain h s = .next s :=
  congrArg Host.Outcome.next (if_neg (by simp [hwants]))

section
variable (hv : (s.half h).state = .retraining)
include hv

theorem execLinkRetrainDone_resumes :
    execLinkRetrainDone h true s = .next (pumpAll (s.setHalf h { s.half h with state := .up, failedRetrains := 0 })) := by
  unfold execLinkRetrainDone
  dsimp only
  rw [if_neg (by rw [hv]; decide), if_neg (not_not.2 hv), if_pos rfl]

theorem execLinkRetrainDone_fails (hfew : (s.half h).failedRetrains < 2) : execLinkRetrainDone h false s =
    .next ((s.setHalf h { s.half h with failedRetrains := (s.half h).failedRetrains + 1 }).count (halfPage h) 5 1) := by
  unfold execLinkRetrainDone
  dsimp only
  rw [if_neg (by rw [hv]; decide), if_neg (not_not.2 hv), if_neg Bool.false_ne_true, if_neg (Nat.not_le.2 hfew)]

theorem execLinkRetrainDone_down (hmany : 2 ≤ (s.half h).failedRetrains) : execLinkRetrainDone h false s =
    .next (checkBellSource (setEvent
      (s.setHalf h { s.half h with state := .down, failedRetrains := 0, bellRxValid := false }) (halfPage h) 0)) := by
  unfold execLinkRetrainDone
  dsimp only
  rw [if_neg (by rw [hv]; decide), if_neg (not_not.2 hv), if_neg Bool.false_ne_true, if_pos hmany]

end

/-- Settles O44: the start of a retraining, and its end by how it went and how often it has failed. -/
theorem portsRetrain : Obligations.PortsRetrain := by
  unfold Obligations.PortsRetrain
  intro s port v pn
  refine ⟨fun hup hwants hdirect => ⟨_, execLinkRetrain_direct hup hwants hdirect, ?starts⟩,
    fun _ hwants => execLinkRetrain_unwanted hwants, fun hv => ⟨_, execLinkRetrainDone_resumes hv, ?resumes⟩,
    fun hv hfew => ⟨_, execLinkRetrainDone_fails hv hfew, ?fails⟩,
    fun hv hmany => ⟨_, execLinkRetrainDone_down hv hmany, ?down⟩⟩
  case starts =>
    refine ⟨?_, ?_, ?_, ?_⟩
    · exact ((changes_modHalf s port _).mono (by decide)).trans (((onlyPage_count _ pn 5 1).1.mono (by decide)).trans
        ((changes_setEvent _ pn 1).mono (by decide)))
    · rw [setEvent_half, State.count_half, State.half_modHalf]
      rfl
    · rw [setEvent_counter, State.counter_count_same]
      rfl
    · rw [evtStatus_setEvent, if_pos rfl, State.evtStatus_count]
      rfl
  case resumes =>
    refine ⟨((changes_setHalf s port _).mono (by decide)).trans (pumped_pumpAll _).rest, ?_, ?_⟩
    · rw [half_pumpAll _ port Half.state fun _ => rfl, State.half_setHalf]
    · rw [half_pumpAll _ port Half.failedRetrains fun _ => rfl, State.half_setHalf]
  case fails =>
    exact ⟨((changes_setHalf s port _).mono (by decide)).trans ((onlyPage_count _ pn 5 1).1.mono (by decide)),
      State.half_setHalf s port _⟩
  case down =>
    refine ⟨?_, ?_, ?_⟩
    · exact ((changes_setHalf s port _).mono (by decide)).trans (((changes_setEvent _ pn 0).mono (by decide)).trans
        ((changes_checkBellSource _).mono (by decide)))
    · rw [checkBellSource_half, setEvent_half, State.half_setHalf]
    · rw [checkBellSource_evtStatus, evtStatus_setEvent, if_pos rfl]
      rfl

end Sys2Proof.Machine

/-! Training of a port and the negotiation of its level (R423, R448, R449, R453). -/

namespace Sys2Proof.Machine

variable {s : State}

/-! ### What the other half-port of a port leaves -/

/-- From `s` to `t` a half-port keeps its state and its delay, its page its words and the event LINK_DOWN, and what was sent stays. -/
structure PortKept (h : Nat) (s t : State) : Prop where
  state : (t.half h).state = (s.half h).state
  delay : (t.half h).delay = (s.half h).delay
  reg : ∀ k, t.reg (halfPage h) k = s.reg (halfPage h) k
  out : ∃ l, t.out = s.out ++ l
  down : (s.page (halfPage h)).evtStatus.getLsbD 0 = true → (t.page (halfPage h)).evtStatus.getLsbD 0 = true

section
variable {h : Nat} {t u : State}

theorem PortKept.trans (a : PortKept h s t) (b : PortKept h t u) : PortKept h s u where
  state := b.state.trans a.state
  delay := b.delay.trans a.delay
  reg k := (b.reg k).trans (a.reg k)
  out := by
    obtain ⟨l, hl⟩ := a.out
    obtain ⟨m, hm⟩ := b.out
    exact ⟨l ++ m, by rw [hm, hl, List.append_assoc]⟩
  down hd := b.down (a.down hd)

/-- What keeps the page and the outputs. -/
theorem portKept_of_halves (hhalf : (t.half h).state = (s.half h).state ∧ (t.half h).delay = (s.half h).delay)
    (hpages : t.pages = s.pages) (hout : t.out = s.out) : PortKept h s t where
  state := hhalf.1
  delay := hhalf.2
  reg k := by unfold State.reg State.page; rw [hpages]
  out := ⟨[], by rw [hout, List.append_nil]⟩
  down hd := by unfold State.page; rw [hpages]; exact hd

theorem PortKept.refl (h : Nat) (s : State) : PortKept h s s := portKept_of_halves ⟨rfl, rfl⟩ rfl rfl

theorem portKept_setHalf {k : Nat} (hk : h ≠ k) (v : Half) : PortKept h s (s.setHalf k v) :=
  portKept_of_halves (by rw [State.half_setHalf_ne _ _ _ _ hk]; exact ⟨rfl, rfl⟩) rfl rfl

theorem portKept_modHalf {k : Nat} {f : Half → Half} (hf : ∀ v, (f v).state = v.state ∧ (f v).delay = v.delay) :
    PortKept h s (s.modHalf k f) := by
  refine portKept_of_halves ?_ rfl rfl
  by_cases hk : h = k
  · rw [hk, State.half_modHalf]
    exact hf _
  · rw [State.half_modHalf_ne _ _ _ _ hk]
    exact ⟨rfl, rfl⟩

theorem portKept_count (pn k n : Nat) : PortKept h s (s.count pn k n) where
  state := rfl
  delay := rfl
  reg j := State.reg_count s pn k n _ j
  out := ⟨[], (List.append_nil _).symm⟩
  down hd := by rw [State.evtStatus_count]; exact hd

theorem portKept_emit (o : Output) : PortKept h s (s.emit o) :=
  { PortKept.refl h s with out := ⟨[o], rfl⟩ }

theorem portKept_setEvent (pn b : Nat) : PortKept h s (setEvent s pn b) where
  state := by rw [setEvent_half]
  delay := by rw [setEvent_half]
  reg k := setEvent_reg s pn b _ k
  out := ⟨[], by rw [setEvent_out, List.append_nil]⟩
  down hd := by
    rw [evtStatus_setEvent]
    split
    · rw [BitVec.getLsbD_or, hd, Bool.true_or]
    · exact hd

theorem portKept_checkBellSource : PortKept h s (checkBellSource s) where
  state := by rw [checkBellSource_half]
  delay := by rw [checkBellSource_half]
  reg := checkBellSource_reg s h
  out := ⟨[], by rw [checkBellSource_out, List.append_nil]⟩
  down hd := by rw [checkBellSource_evtStatus]; exact hd

theorem portKept_trainHalf {k : Nat} (hk : h ≠ k) (ok : Bool) (delay : Word) (credits : List Nat) :
    PortKept h s (trainHalf s k ok delay credits) := by
  unfold trainHalf
  dsimp only
  split
  · exact (portKept_setHalf hk _).trans ((portKept_count _ _ _).trans (portKept_emit _))
  · exact (portKept_setHalf hk _).trans (portKept_setEvent _ _)

theorem portKept_enableHalf {k : Nat} (hk : h ≠ k) (was is : Bool) (report : Option (Bool × Word × List Nat)) :
    PortKept h s (enableHalf s k was is report) := by
  unfold enableHalf
  split
  · exact PortKept.refl h s
  · split
    · exact portKept_setHalf hk _
    · extract_lets n s1
      have h1 : PortKept h s s1 := portKept_modHalf fun _ => ⟨rfl, rfl⟩
      split
      · exact h1.trans (portKept_trainHalf hk _ _ _)
      · exact h1.trans (portKept_setHalf hk _)

end

/-! ### A half-port trains -/

theorem enableHalf_rises (s : State) (h : Nat) (ok : Bool) (delay : Word) (credits : List Nat) :
    enableHalf s h false true (some (ok, delay, credits)) = trainHalf
      (s.modHalf (2 * (h / 2)) fun v => { v with credRejected := !(poolsFit s (h / 2)) }) h ok delay credits := rfl

theorem trainHalf_trained (s : State) (h : Nat) (delay : Word) (credits : List Nat) :
    ((trainHalf s h true delay credits).half h).state = .negotiating ∧ ((trainHalf s h true delay credits).half h).delay = delay ∧
      (trainHalf s h true delay credits).out = s.out ++ [.negotiate h 2 3] := by
  unfold trainHalf
  dsimp only
  rw [if_pos rfl, State.emit_half, State.count_half, State.half_setHalf]
  exact ⟨rfl, rfl, rfl⟩

theorem trainHalf_failed (s : State) (h : Nat) (delay : Word) (credits : List Nat) :
    ((trainHalf s h false delay credits).half h).state = .down ∧
      ((trainHalf s h false delay credits).page (halfPage h)).evtStatus.getLsbD 0 = true := by
  unfold trainHalf
  dsimp only
  rw [if_neg Bool.false_ne_true, setEvent_half, State.half_setHalf, evtStatus_setEvent, if_pos rfl, BitVec.getLsbD_or]
  exact ⟨rfl, by simp⟩

theorem trainHalf_reg (s : State) (h : Nat) (ok : Bool) (delay : Word) (credits : List Nat) (j k : Nat) :
    (trainHalf s h ok delay credits).reg j k = s.reg j k := by
  unfold trainHalf
  dsimp only
  split
  · exact State.reg_count _ _ _ _ _ _
  · exact setEvent_reg _ _ _ _ _

/-! ### The write of LINK.CTL -/

theorem linkCtlAddr_page (n : Nat) : linkCtlAddr n / 0x1000 = pnLink n := by unfold linkCtlAddr; omega

theorem halfPage_even (n : Nat) : halfPage (2 * n) = pnLink n := by unfold halfPage; rw [Nat.mul_div_cancel_left n (by decide)]

theorem ofNat_land_toNat (w : Word) : BitVec.ofNat 32 (Nat.land w.toNat 0xFF003F) = w &&& 0xFF003F :=
  BitVec.eq_of_toNat_eq (by
    rw [BitVec.toNat_ofNat, BitVec.toNat_and]
    exact Nat.mod_eq_of_lt (lt_of_le_of_lt Nat.and_le_left w.isLt))

/-- The LPn.A half-port of a port is being enabled: its page has its word, and it trains. -/
def enabledA (s : State) (n : Nat) (value : Word) (r : TrainReport) : State :=
  enableHalf (s.setReg (pnLink n) 0x010 (value &&& 0xFF003F)) (2 * n) false true (some (r.okA, r.delay, r.credits))

theorem enabledA_reg (s : State) (n : Nat) (value : Word) (r : TrainReport) :
    (enabledA s n value r).reg (pnLink n) 0x010 = value &&& 0xFF003F := by
  unfold enabledA
  rw [enableHalf_rises, trainHalf_reg, State.modHalf_reg, State.reg_setReg_same]

theorem enabledA_trained (s : State) (n : Nat) (value : Word) {r : TrainReport} (hok : r.okA = true) :
    ((enabledA s n value r).half (2 * n)).state = .negotiating ∧ ((enabledA s n value r).half (2 * n)).delay = r.delay ∧
      (enabledA s n value r).out = s.out ++ [.negotiate (2 * n) 2 3] := by
  unfold enabledA
  rw [enableHalf_rises, hok]
  exact trainHalf_trained _ _ _ _

theorem enabledA_failed (s : State) (n : Nat) (value : Word) {r : TrainReport} (hok : r.okA = false) :
    ((enabledA s n value r).half (2 * n)).state = .down ∧
      ((enabledA s n value r).page (halfPage (2 * n))).evtStatus.getLsbD 0 = true := by
  unfold enabledA
  rw [enableHalf_rises, hok]
  exact trainHalf_failed _ _ _ _

/-- A write that enables LPn.A trains it; what it does to LPn.B comes after. -/
theorem writeLinkCtl_enables {n : Nat} {value : Word} (hfree : ctlLocked (s.regN (pnLink n) 0x010) value.toNat = false)
    (hwas : (s.regN (pnLink n) 0x010).testBit 0 = false) (his : value.getLsbD 0 = true) (init : Nat) (r : TrainReport) :
    PortKept (2 * n) (enabledA s n value r) (writeLinkCtl s init n value.toNat (some (r.okA, r.delay, r.credits))
      (some (r.okB, r.delay, r.credits))) := by
  have hnew : (Nat.land value.toNat 0xFF003F).testBit 0 = true := by
    show (value.toNat &&& 0xFF003F).testBit 0 = true
    rw [Nat.testBit_and, show value.toNat.testBit 0 = true from his]
    rfl
  unfold writeLinkCtl
  dsimp only
  rw [hfree, if_neg Bool.false_ne_true, hwas, hnew, ofNat_land_toNat]
  exact (portKept_enableHalf (by omega) _ _ _).trans portKept_checkBellSource

theorem execPortTraining_served {init n : Nat} (hserved : Served s init (linkCtlAddr n) true) (value : Word) (r : TrainReport) :
    execPortTraining ⟨init, false⟩ n value r s = .next (writeLinkCtl (disarm s (pnLink n)) init n value.toNat
      (some (r.okA, r.delay, r.credits)) (some (r.okB, r.delay, r.credits))) :=
  congrArg _ ((ctlWrite_served hserved _ _).trans (by rw [linkCtlAddr_page]))

/-! ### The level -/

section
variable {h : Nat} (hstate : (s.half h).state = .negotiating)
include hstate

theorem execNegotiate_agrees {low high : Nat} (hlevel : max 2 low ≤ min 3 high) : execNegotiate h low high s =
    .next (pumpAll ((takeOwn s h).modHalf h fun v => { v with state := .up, level := min 3 high })) := by
  unfold execNegotiate
  rw [if_neg (not_not.2 hstate)]
  exact congrArg Host.Outcome.next (if_pos hlevel)

theorem execNegotiate_fails {low high : Nat} (hlevel : min 3 high < max 2 low) : execNegotiate h low high s =
    .next (setEvent (setEvent ((takeOwn s h).modHalf h fun v => { v with state := .negotiateFailed }) (halfPage h) 2)
      (halfPage h) 0) := by
  unfold execNegotiate
  rw [if_neg (not_not.2 hstate)]
  exact congrArg Host.Outcome.next (if_neg (Nat.not_le.2 hlevel))

end

theorem takeOwn_evtStatus (s : State) (h j : Nat) : ((takeOwn s h).page j).evtStatus = (s.page j).evtStatus :=
  State.evtStatus_count s _ _ _ _

/-- Settles O42: the write by whether a locked field changes and whether training succeeds, and the level by what both ends have. -/
theorem portsTrain : Obligations.PortsTrain := by
  unfold Obligations.PortsTrain
  intro s init port low high value report _ old
  refine ⟨fun hserved hlocked => ⟨_, (execPortTraining_served hserved value report).trans
      (congrArg Host.Outcome.next (if_pos (by rw [regN_disarm]; exact hlocked))), ?ignored⟩,
    fun hserved hfree hwas his => ⟨_, execPortTraining_served hserved value report, ?_⟩,
    fun h hstate => ⟨fun hlevel => ⟨_, execNegotiate_agrees hstate hlevel, ?agrees⟩,
      fun hlevel => ⟨_, execNegotiate_fails hstate hlevel, ?fails⟩⟩, fun h hstate => congrArg Host.Outcome.next (if_pos hstate)⟩
  case ignored =>
    refine ⟨onlyPage_ignoreWrite s (linkCtlAddr_page port) 6 init value.toNat, ?_, ?_⟩
    · rw [ignoreWrite_reg, disarm_reg]
    · have hpage := ignoreWrite_page (disarm s (pnLink port)) 6 init (linkCtlAddr port) value.toNat
      rw [linkCtlAddr_page, ← linkCtlAddr_page port, Nat.div_add_mod'] at hpage
      rw [← linkCtlAddr_page port, hpage]
      dsimp only
      rw [disarm_capture]
      rfl
  case agrees =>
    refine ⟨?_, ?_, ?_⟩
    · exact (((atPort_takeOwn s h).trans (atPort_modHalf _ h _)).changes.mono (by decide)).trans (pumped_pumpAll _).rest
    · rw [half_pumpAll _ h Half.state fun _ => rfl, State.half_modHalf]
    · rw [half_pumpAll _ h Half.level fun _ => rfl, State.half_modHalf]
  case fails =>
    refine ⟨?_, ?_, ?_⟩
    · exact (((atPort_takeOwn s h).trans (atPort_modHalf _ h _)).changes.mono (by decide)).trans
        (((changes_setEvent _ _ 2).mono (by decide)).trans ((changes_setEvent _ _ 0).mono (by decide)))
    · rw [setEvent_half, setEvent_half, State.half_modHalf]
    · rw [evtStatus_setEvent, if_pos rfl, evtStatus_setEvent, if_pos rfl, State.modHalf_page, takeOwn_evtStatus, BitVec.or_assoc]
      rfl
  have hkept := writeLinkCtl_enables (s := disarm s (pnLink port)) (by rw [regN_disarm]; exact hfree)
    (by rw [regN_disarm]; exact hwas) his init report
  refine ⟨changes_of (within_writeLinkCtl at0 at1 at2 at3 at4 at5 at6 _ _ _ _ _ _ (within_disarm at1 _ _ (within_refl _ s))), ?_,
    fun hok => ?trained, fun hok => ?failed⟩
  · have hreg := hkept.reg 0x010
    rw [halfPage_even, enabledA_reg] at hreg
    exact hreg
  case trained =>
    obtain ⟨hstate, hdelay, hout⟩ := enabledA_trained (disarm s (pnLink port)) port value hok
    obtain ⟨l, hl⟩ := hkept.out
    refine ⟨hkept.state.trans hstate, hkept.delay.trans hdelay, .negotiate (2 * port) 2 3 :: l, ?_, List.mem_cons_self⟩
    rw [hl, hout, disarm_out, List.append_assoc]
    rfl
  case failed =>
    obtain ⟨hstate, hdown⟩ := enabledA_failed (disarm s (pnLink port)) port value hok
    have hraised := hkept.down hdown
    rw [halfPage_even] at hraised
    exact ⟨hkept.state.trans hstate, hraised⟩

end Sys2Proof.Machine

/-! The opening and the closing of peer contexts (R436, R437, R486). -/

namespace Sys2Proof.Machine

variable {s : State}

/-! ### What an error that is corrected leaves -/

/-- A span is read: its errors are corrected. -/
theorem changes_correctSpan (s : State) (a n : Nat) : Changes [.softBad, .pages, .dies, .crier, .flash] s (correctSpan s a n) :=
  changes_of (within_correctSpan at0 at1 at2 at3 at4 _ _ _ (within_refl _ s))

theorem reads_correctSpan (s : State) (a n : Nat) : (correctSpan s a n).reads = s.reads :=
  congrArg UpkeepView.reads (upkeep_correctSpan s a n)

theorem correctSpan_links (s : State) (a n : Nat) : (correctSpan s a n).links = s.links := changes_correctSpan s a n .links (by decide)

/-! ### Why an OPEN is refused -/

theorem servingPorts_congr {t : State} (hpower : t.power = s.power) (hlinks : t.links = s.links) (p : Peer) :
    servingPorts t p = servingPorts s p := by
  have hhalf (h : Nat) : t.half h = s.half h := congrArg (fun l : Links => mget _ l.halves h) hlinks
  unfold servingPorts upPorts domOn
  simp only [hhalf, hpower]

theorem openRefusal_congr {t : State} (hreads : t.reads = s.reads) (hpower : t.power = s.power) (hlinks : t.links = s.links)
    (p : Peer) : openRefusal t p = openRefusal s p := by
  have hmode : modeMatches t p = modeMatches s p := by
    unfold modeMatches
    simp only [regN_of_reads hreads (off := 0x010) (.inl (by decide))]
  unfold openRefusal
  rw [isSealed_of_reads hreads, sealedPart_of_reads hreads, hmode, servingPorts_congr hpower hlinks]

/-! ### The OPEN waits or has left -/

/-- How an OPEN leaves on a context with these words. -/
def OpenWay (u : State) (p : Peer) (w : Way) : Prop :=
  w.remote = p.remote ∧ w.level = p.level ∧ w.frame = if p.fabric then some (frameHeader u w.port p 3) else none

section
variable {t : State} (hreg : ∀ pn off, off < 0x200 → t.reg pn off = s.reg pn off) (hfuses : t.fuses = s.fuses)
include hreg hfuses

theorem frameHeader_congr (h : Nat) {p q : Peer} (hwords : q.words = p.words) (vc : Nat) :
    frameHeader t h q vc = frameHeader s h p vc := by
  unfold frameHeader halfMac Peer.w State.regN
  rw [hfuses, hwords, hreg _ _ (by decide), hreg _ _ (by decide)]

theorem openWay_congr {p : Peer} {w : Way} (hw : OpenWay t p w) : OpenWay s p w := by
  obtain ⟨hremote, hlevel, hframe⟩ := hw
  exact ⟨hremote, hlevel, hframe.trans (by rw [frameHeader_congr hreg hfuses _ rfl])⟩

theorem openWay_wayOf {p q : Peer} (hwords : q.words = p.words) (h : Nat) (lseq : BitVec 12) :
    OpenWay s p (wayOf t h q 3 lseq) := by
  have hfabric : q.fabric = p.fabric := by unfold Peer.fabric Peer.w; rw [hwords]
  refine ⟨?_, ?_, ?_⟩
  · show q.remote = p.remote
    unfold Peer.remote Peer.w
    rw [hwords]
  · show q.level = p.level
    unfold Peer.level Peer.w
    rw [hwords]
  · show (if q.fabric then some (frameHeader t h q 3) else none) = _
    rw [hfabric, frameHeader_congr hreg hfuses h hwords]
    rfl

end

/-- Since `u`, a context with these words holds its OPEN, or its OPEN has left. -/
structure OpenHeld (u : State) (c : Nat) (p : Peer) (f : OutMsg) (t : State) : Prop where
  ports : t.ports = u.ports
  words : (t.peer c).words = p.words
  sent : ∃ l, t.out = u.out ++ l ∧
    ((t.peer c).ctl = [.opening f] ∨ ((t.peer c).ctl = [] ∧ ∃ w, .linkMsg f w ∈ l ∧ OpenWay u p w))

theorem reg_of_ports {s t : State} (h : t.ports = s.ports) : t.reg = s.reg := congrArg (fun v => v.2.1) h

theorem fuses_of_ports {s t : State} (h : t.ports = s.ports) : t.fuses = s.fuses := congrArg (fun v => v.2.2) h

theorem openHeld_flit {u : State} {c : Nat} {p : Peer} {f : OutMsg} (t : State) (share : SMap Nat) (h k vc : Nat)
    (ht : OpenHeld u c p f t) : OpenHeld u c p f (sendFlit (t.modHalf h fun v => { v with share := share }) h k vc) := by
  set t1 := t.modHalf h fun v => { v with share := share } with ht1
  have hports := (ports_flit t share h k vc).trans ht.ports
  have hwords := (((pumped_sendFlit t1 h k vc).peers c).words).trans ht.words
  obtain ⟨l, hl, hctl⟩ := ht.sent
  have hout : t1.out = u.out ++ l := hl
  have hports1 : t1.ports = u.ports := (ports_setHalf t h (v := { t.half h with share := share }) rfl).trans ht.ports
  have hctl1 : (t1.peer c).ctl = (t.peer c).ctl := rfl
  rcases sendFlit_control t1 h k vc with ⟨g, lseq, hvc, hg, hleft⟩ | ⟨⟨m, hm⟩, hleft⟩
  · refine ⟨hports, hwords, l ++ [g.output k (wayOf t1 h (t1.peer k) vc lseq)], by rw [hg, hout, List.append_assoc], ?_⟩
    rw [hleft c]
    by_cases hk : c = k
    · subst hk
      rw [if_pos rfl, hctl1]
      rcases hctl with hwaits | ⟨hempty, w, hw, hway⟩
      · rw [hwaits]
        by_cases hfg : CtlFlit.opening f = g
        · subst hfg
          refine .inr ⟨by simp, _, List.mem_append_right _ (List.mem_singleton.2 rfl), ?_⟩
          rw [← hvc]
          exact openWay_wayOf (t := t1) (fun pn off _ => congrFun (congrFun (reg_of_ports hports1) pn) off) (fuses_of_ports hports1)
            ht.words h lseq
        · exact .inl (List.erase_of_not_mem (by simpa using fun hgf : g = _ => hfg hgf.symm))
      · rw [hempty]
        exact .inr ⟨rfl, w, List.mem_append_left _ hw, hway⟩
    · rw [if_neg hk, hctl1]
      exact hctl.imp_right fun ⟨hempty, w, hw, hway⟩ => ⟨hempty, w, List.mem_append_left _ hw, hway⟩
  · refine ⟨hports, hwords, l ++ m, by rw [hm, hout, List.append_assoc], ?_⟩
    rw [hleft c, hctl1]
    exact hctl.imp_right fun ⟨hempty, w, hw, hway⟩ => ⟨hempty, w, List.mem_append_left _ hw, hway⟩

/-- A context that holds its OPEN alone sends it as soon as its port takes it. -/
theorem openHeld_pumpCtx {c : Nat} {p : Peer} {f : OutMsg} (hwords : (s.peer c).words = p.words) (hctl : (s.peer c).ctl = [.opening f]) :
    OpenHeld s c p f (pumpCtx s c) :=
  pumpCtx_keeps openHeld_flit c ⟨rfl, hwords, [], (List.append_nil _).symm, .inl hctl⟩

/-! ### Both OPENs -/

/-- A context that is not sealed becomes READY. -/
def Peer.joined (p : Peer) : Peer := { p with
  phase := .ready, peerOpen := none, sendSeq := 0, recvSeq := 0, unacked := [], asked := [], tagFails := [], hello := none,
  keys := none }

section
variable {c : Nat}

theorem joinPeers_alone (h : (s.peer c).peerOpen = none) : joinPeers s c = s := by
  unfold joinPeers
  dsimp only
  split
  · next m _ hm => rw [h] at hm; cases hm
  · rfl

theorem joinPeers_early (h : (s.peer c).phase ≠ .opening) : joinPeers s c = s := by
  unfold joinPeers
  dsimp only
  split
  · next hphase _ => exact absurd hphase h
  · rfl

variable {m : LinkMsg} (hphase : (s.peer c).phase = .opening) (hm : (s.peer c).peerOpen = some m)
include hphase hm

theorem joinPeers_level (hlevel : m.level.toNat ≠ (s.peer c).level) :
    joinPeers s c = (s.setPeer c { s.peer c with peerOpen := none }).count pnLinkCtx 3 1 := by
  unfold joinPeers
  simp only [hphase, hm]
  rw [if_pos hlevel]

theorem joinPeers_ready (hlevel : m.level.toNat = (s.peer c).level) (hopen : (s.peer c).sealedCtx = false) :
    (joinPeers s c).peer c = (s.peer c).joined := by
  have hrefusal : helloRefusal s c (s.peer c) m = 0 := if_pos (by rw [hopen]; rfl)
  unfold joinPeers
  simp only [hphase, hm]
  rw [if_neg (not_not.2 hlevel), if_neg (not_not.2 hrefusal), hopen, if_neg Bool.false_ne_true]
  exact State.peer_setPeer s c (s.peer c).joined

end

theorem execOpenMsg_eq {c : Nat} {m : LinkMsg} (hc : m.ctx = c) : execOpenMsg m s = .next
    (joinPeers ((takeFlits s m.port (s.peer c) 3 1).setPeer c { s.peer c with peerOpen := some m }) c) := by
  subst hc
  unfold execOpenMsg
  dsimp only
  rw [takeFlits_peer]

theorem changes_openMsg (s : State) (c : Nat) (m : LinkMsg) : Changes [.out, .pages, .links] s
    (joinPeers ((takeFlits s m.port (s.peer c) 3 1).setPeer c { s.peer c with peerOpen := some m }) c) :=
  changes_of (within_joinPeers at1 at2 _ _ (within_State_setPeer at2 _ _ _ (within_takeFlits at0 at1 at2 _ _ _ _ _ (within_refl _ s))))

/-! ### OPEN and CLOSE -/

theorem openCtx_open {c : Nat} (h : (s.peer c).phase ≠ .closed) : openCtx s c = s := if_pos h

/-- The key exchange of a context that opens: its ephemeral secret, and what its OPEN carries. -/
def openHello (s : State) (c : Nat) (p : Peer) : Option (BitVec 256 × List Byte) :=
  let eph := BitVec.ofNat 256 (ofLe (entropy (drawKey s).1 32))
  if p.sealedCtx then some (eph, helloBytes s c p eph) else none

/-- The OPEN of a context. -/
def openFlit (s : State) (c : Nat) (p : Peer) : OutMsg :=
  { ctx := c, op := .openMsg, mseq := 0, data := ((openHello s c p).map Prod.snd).getD [] }

theorem openFlit_unsealed {p : Peer} (h : p.sealedCtx = false) (s : State) (c : Nat) : (openFlit s c p).data = [] := by
  unfold openFlit openHello
  rw [h]
  rfl

/-- The context that an OPEN makes, in the state in which its record has been read. -/
def opening (s : State) (c : Nat) (p : Peer) : Peer := { p with
  phase := .opening, reason := 0, port := (servingPorts s p)[c % (servingPorts s p).length]?.getD 0, hello := openHello s c p,
  ctl := [.opening (openFlit s c p)] }

/-- The state in which an OPENING context takes its place: the record read, and the ephemeral secret drawn. -/
def recordRead (s : State) (c : Nat) (p : Peer) : State :=
  let s1 := correctSpan s (ctxTableKey s c) 64
  if p.sealedCtx then (drawKey s1).2 else s1

theorem changes_recordRead (s : State) (c : Nat) (p : Peer) :
    Changes [.softBad, .pages, .dies, .crier, .sealU, .flash] s (recordRead s c p) := by
  have hread := within_correctSpan (S := (· ∈ [Piece.softBad, .pages, .dies, .crier, .sealU, .flash])) at0 at1 at2 at3 at5 s
    (ctxTableKey s c) 64 (within_refl _ s)
  unfold recordRead
  dsimp only
  split
  · exact changes_of (within_drawKey at4 _ hread)
  · exact changes_of hread

theorem reads_recordRead (s : State) (c : Nat) (p : Peer) : (recordRead s c p).reads = s.reads := by
  unfold recordRead
  dsimp only
  split
  · exact reads_correctSpan s _ 64
  · exact reads_correctSpan s _ 64

section
variable {c : Nat} (hclosed : (s.peer c).phase = .closed) (htier : tierOf (ctxTableKey s c) = 2)
  (hbits : bits (ctxTableKey s c) 43 26 = 0) (hgood : badUnit s (ctxTableKey s c) 64 = none)

include htier hbits hgood in
theorem record_reads :
    (tierOf (ctxTableKey s c) == 2 && bits (ctxTableKey s c) 43 26 == 0 && (badUnit s (ctxTableKey s c) 64).isNone) = true := by
  simp [htier, hbits, hgood]

include hclosed htier hbits hgood

theorem openCtx_eq :
    let s1 := correctSpan s (ctxTableKey s c) 64
    let p : Peer := { s.peer c with words := ctxRecord s c }
    openCtx s c = if openRefusal s p ≠ 0 then s1.setPeer c { p with reason := BitVec.ofNat 4 (openRefusal s p) }
      else joinPeers (pumpCtx ((recordRead s c p).setPeer c (opening s1 c p)) c) c := by
  intro s1 p
  have hsame : openRefusal s1 p = openRefusal s p := openRefusal_congr (reads_correctSpan s _ 64)
    (changes_correctSpan s _ 64 .power (by decide)) (correctSpan_links s _ 64) p
  rw [← hsame]
  unfold openCtx
  dsimp only
  rw [if_neg (not_not.2 hclosed), record_reads htier hbits hgood]
  simp only [if_true]
  rfl

theorem openCtx_refused (hrefused : openRefusal s { s.peer c with words := ctxRecord s c } ≠ 0) :
    (openCtx s c).out = s.out ∧ (openCtx s c).peer c = { s.peer c with
      words := ctxRecord s c, reason := BitVec.ofNat 4 (openRefusal s { s.peer c with words := ctxRecord s c }) } := by
  rw [openCtx_eq hclosed htier hbits hgood, if_pos hrefused]
  exact ⟨changes_correctSpan s _ 64 .out (by decide), State.peer_setPeer _ _ _⟩

/-- A context that its check passes is OPENING, and its OPEN waits or has left. -/
theorem openCtx_opens (hfree : openRefusal s { s.peer c with words := ctxRecord s c } = 0) (hnone : (s.peer c).peerOpen = none) :
    let p : Peer := { s.peer c with words := ctxRecord s c }
    let f := openFlit (correctSpan s (ctxTableKey s c) 64) c p
    ((openCtx s c).peer c).phase = .opening ∧ ((openCtx s c).peer c).reason = 0 ∧ ((openCtx s c).peer c).words = p.words ∧
      ∃ l, (openCtx s c).out = s.out ++ l ∧ (((openCtx s c).peer c).ctl = [.opening f] ∨
        (((openCtx s c).peer c).ctl = [] ∧ ∃ w, .linkMsg f w ∈ l ∧ OpenWay s p w)) := by
  intro p f
  set q := opening (correctSpan s (ctxTableKey s c) 64) c p with hq
  set v := (recordRead s c p).setPeer c q with hv
  have hpeer : v.peer c = q := State.peer_setPeer _ _ _
  have hlike := (pumped_pumpCtx v c).peers c
  rw [hpeer] at hlike
  have hresult : openCtx s c = pumpCtx v c := (openCtx_eq hclosed htier hbits hgood).trans
    ((if_neg (not_not.2 hfree)).trans (joinPeers_alone (hlike.peerOpen.trans hnone)))
  have hheld : OpenHeld v c p f (pumpCtx v c) := openHeld_pumpCtx (by rw [hpeer]; rfl) (by rw [hpeer]; rfl)
  obtain ⟨l, hl, hctl⟩ := hheld.sent
  have hout : v.out = s.out := changes_recordRead s c p .out (by decide)
  have hreg (pn off : Nat) (ho : off < 0x200) : v.reg pn off = s.reg pn off :=
    (State.setPeer_reg _ _ _ _ _).trans (reg_of_reads (reads_recordRead s c p) (.inl ho))
  have hfuses : v.fuses = s.fuses := changes_recordRead s c p .fuses (by decide)
  rw [hresult]
  exact ⟨hlike.phase, hlike.reason, hlike.words, l, by rw [hl, hout], hctl.imp_right fun ⟨hempty, w, hw, hway⟩ =>
    ⟨hempty, w, hw, openWay_congr hreg hfuses hway⟩⟩

end

theorem ctxTableKey_disarm (pn c : Nat) : ctxTableKey (disarm s pn) c = ctxTableKey s c := by
  unfold ctxTableKey State.regAddr
  rw [regN_disarm, regN_disarm]

theorem failWaiters_nobody {l : List Unacked} (h : ∀ u ∈ l, u.waiter = .nobody) (s : State) (status reason : Nat) (closed : Option Nat) :
    l.foldl (fun (t : State) u => failWaiter t u status reason closed) s = s := by
  refine List.foldlRecOn _ _ (motive := (· = s)) rfl fun t ht u hu => ?_
  unfold failWaiter
  rw [h u hu]
  exact ht

theorem Peer.open_subset (p : Peer) : ∀ u ∈ p.open_, u ∈ p.unacked ++ p.asked := by
  intro u hu
  unfold Peer.open_ at hu
  rcases List.mem_append.1 hu with h | h
  · exact List.mem_append_left _ h
  · exact List.mem_append_right _ (List.mem_filter.1 h).1

theorem endContext_nobody {c : Nat} (h : ∀ u ∈ (s.peer c).unacked ++ (s.peer c).asked, u.waiter = .nobody) (phase : PeerPhase) :
    endContext s c phase = s.setPeer c { s.peer c with
      phase := phase, unacked := [], ctl := [], asked := [], hello := none, keys := none, tagFails := [] } :=
  failWaiters_nobody (fun v hv => h v (Peer.open_subset _ v hv)) _ _ _ _

/-- Settles O40: OPEN by the context's phase and by what its check says, the peer's OPEN by the phase and the level, and CLOSE. -/
theorem peerContextsOpenAndClose : Obligations.PeerContextsOpenAndClose := by
  unfold Obligations.PeerContextsOpenAndClose
  intro s init ctx m _ s0 old p key
  have hopen (h : Served s init linkCmdAddr true) : exec (.ctxOpen ⟨init, false⟩ ctx) s = .next (openCtx s0 ctx) :=
    congrArg _ (ctlWrite_served h _ _)
  have hkey : ctxTableKey s0 ctx = key := ctxTableKey_disarm pnLinkCtx ctx
  have hbad (h : badUnit s key 64 = none) : badUnit s0 (ctxTableKey s0 ctx) 64 = none := by
    rw [hkey, badUnit_of_errors (errors_of_storage (storage_disarm s pnLinkCtx))]
    exact h
  have hclose (h : Served s init linkCmdAddr true) : exec (.ctxClose ⟨init, false⟩ ctx) s = .next (endContext s0 ctx .closed) :=
    congrArg _ (ctlWrite_served h _ _)
  have harrives (hc : m.ctx = ctx) : exec (.openMsg m) s = .next
      (joinPeers ((takeFlits s m.port old 3 1).setPeer ctx { old with peerOpen := some m }) ctx) := execOpenMsg_eq hc
  set u := (takeFlits s m.port old 3 1).setPeer ctx { old with peerOpen := some m } with hu
  have hpeer : u.peer ctx = { old with peerOpen := some m } := State.peer_setPeer _ _ _
  refine ⟨fun hserved hclosed htier hbits hgood => ⟨_, hopen hserved, ?checked, fun hrefused => ?refused, fun hfree hnone => ?opens⟩,
    fun hserved hphase => ⟨_, hopen hserved, ?again⟩,
    fun hc hphase hlevel hunsealed => ⟨_, harrives hc, changes_openMsg s ctx m, ?ready⟩,
    fun hc hphase hlevel => ⟨_, harrives hc, changes_openMsg s ctx m, ?other⟩,
    fun hc hphase => ⟨_, harrives hc, changes_openMsg s ctx m, ?early⟩, fun hserved hnobody => ⟨_, hclose hserved, ?close⟩⟩
  case again =>
    rw [openCtx_open (s := s0) hphase]
    exact onlyPage_disarm s pnLinkCtx
  case ready =>
    rw [joinPeers_ready (s := u) (by rw [hpeer]; exact hphase) (by rw [hpeer]) (by rw [hpeer]; exact hlevel)
      (by rw [hpeer]; exact hunsealed)]
    exact ⟨rfl, rfl, rfl, rfl⟩
  case other =>
    rw [joinPeers_level (s := u) (by rw [hpeer]; exact hphase) (by rw [hpeer]) (by rw [hpeer]; exact hlevel), hpeer,
      State.counter_count_same, State.count_peer, State.peer_setPeer]
    exact ⟨rfl, rfl⟩
  case early =>
    rw [joinPeers_early (s := u) (by rw [hpeer, hphase]; decide), hpeer]
  case close =>
    rw [endContext_nobody (s := s0) hnobody]
    exact ⟨changes_of (within_State_setPeer at1 _ _ _ (within_disarm at0 _ _ (within_refl _ s))), State.peer_setPeer _ _ _⟩
  case checked =>
    exact changes_of (within_openCtx at0 at1 at2 at3 at4 at5 at6 at7 _ _ (within_disarm at2 _ _ (within_refl _ s)))
  case refused =>
    exact openCtx_refused (s := s0) hclosed (by rw [hkey]; exact htier) (by rw [hkey]; exact hbits) (hbad hgood) hrefused
  case opens =>
    obtain ⟨hphase, hreason, hwords, l, hl, hctl⟩ := openCtx_opens (s := s0) hclosed (by rw [hkey]; exact htier)
      (by rw [hkey]; exact hbits) (hbad hgood) hfree hnone
    exact ⟨hphase, hreason, hwords, _, l, hl, rfl, rfl, fun hunsealed => openFlit_unsealed hunsealed _ _, hctl⟩

end Sys2Proof.Machine

/-! The next record of a link request ring, and the requests that fail (R442, R455, R561). -/

namespace Sys2Proof.Machine

variable {s : State} {p : Nat}

/-! ### The place of a ring -/

/-- A ring in the hub SRAM stays in it: a byte of a record lies in tier 2. -/
theorem tierOf_reqKey (hplaced : reqPlaced s p = true) (pos : Nat) {d : Nat} (hd : d < 64) : tierOf (reqKey s p pos + d) = 2 := by
  unfold reqPlaced inHubGrant hubSize at hplaced
  simp only [Bool.and_eq_true, beq_iff_eq, decide_eq_true_eq] at hplaced
  obtain ⟨⟨⟨htier, hbits⟩, -⟩, ⟨-, -⟩, hend⟩ := hplaced
  have hslot : pos % 2 ^ reqLog2 s p < 2 ^ reqLog2 s p := Nat.mod_lt _ (Nat.two_pow_pos _)
  unfold reqKey
  unfold tierOf bits at *
  simp only [Nat.shiftRight_eq_div_pow] at *
  generalize s.regAddr pnLinkCtx (reqReg p 0) = a at *
  generalize 2 ^ reqLog2 s p = n at *
  generalize pos % n = i at *
  omega

theorem reqKey_aligned (hplaced : reqPlaced s p = true) (pos : Nat) : reqKey s p pos % 8 = 0 := by
  unfold reqPlaced at hplaced
  simp only [Bool.and_eq_true, beq_iff_eq] at hplaced
  obtain ⟨⟨-, haligned⟩, -⟩ := hplaced
  unfold reqKey
  omega

/-- Without correctable errors in SRAM a read of SRAM corrects nothing. -/
theorem correctSpan_sram {a n : Nat} (hsoft : s.softBad = []) (htier : ∀ u ∈ eccUnits a n, tierOf u ≠ 3) : correctSpan s a n = s := by
  have hnone : (eccUnits a n).filter (unitSoft s) = [] := by
    refine List.filter_eq_nil_iff.2 fun u hu => ?_
    unfold unitSoft
    rw [if_neg (htier u hu), hsoft]
    simp
  unfold correctSpan
  rw [hnone]
  exact ite_self s

theorem correctSpan_record (hplaced : reqPlaced s p = true) (hsoft : s.softBad = []) (pos : Nat) :
    correctSpan s (reqKey s p pos) 64 = s := by
  refine correctSpan_sram hsoft fun u hu => ?_
  have hunit : eccUnit (reqKey s p pos) = 8 := if_neg (by
    rw [show tierOf (reqKey s p pos) = 2 from tierOf_reqKey hplaced pos (d := 0) (by decide)]; decide)
  have haligned := reqKey_aligned hplaced pos
  unfold eccUnits at hu
  simp only [hunit, haligned] at hu
  rw [if_neg (by decide)] at hu
  obtain ⟨k, hk, rfl⟩ := List.mem_map.1 hu
  rw [Nat.sub_zero, tierOf_reqKey hplaced pos (by have := List.mem_range.1 hk; omega)]
  decide

/-! ### The next record -/

/-- A ring that has nothing in flight has a record to start, which can be read. -/
structure NextRecord (s : State) (p : Nat) : Prop where
  waits : (s.reqRing p).started ≠ (s.reqRing p).tail
  idle : (s.reqRing p).inFlight = []
  inside : ((s.reqRing p).tail - (s.reqRing p).started).toNat ≤ 2 ^ reqLog2 s p
  placed : reqPlaced s p = true
  good : badUnit s (reqKey s p (s.reqRing p).started.toNat) 64 = none
  clean : s.softBad = []

/-- The request of the next record. -/
def nextReq (s : State) (p : Nat) : LinkReq :=
  { pos := (s.reqRing p).started.toNat, words := viewWords s (reqKey s p (s.reqRing p).started.toNat) 16 }

/-- The next record has started. -/
def took (s : State) (p : Nat) : State :=
  s.modReqRing p fun v => { v with started := v.started + 1, inFlight := v.inFlight ++ [nextReq s p] }

theorem took_ring (s : State) (p : Nat) : (took s p).reqRing p = { s.reqRing p with
    started := (s.reqRing p).started + 1, inFlight := (s.reqRing p).inFlight ++ [nextReq s p] } :=
  mget_mset_same _ _ _ _

theorem reqOf_took (h : NextRecord s p) : reqOf (took s p) p (nextReq s p).pos = some (nextReq s p) := by
  unfold reqOf
  rw [took_ring, h.idle]
  exact List.find?_cons_of_pos (beq_self_eq_true _)

/-- The reason to refuse a record, or 0. -/
def checkReq (s : State) (p : Nat) (r : LinkReq) : Nat := if r.isCollective then checkColl s p r else checkTransfer s p r

/-- What starts the next record. -/
theorem runRequests_next (h : NextRecord s p) (kind : Nat) : runRequests s p kind =
    if reqReserved (nextReq s p) then failReq (took s p) p (nextReq s p).pos stDescriptor 0x01
    else if (nextReq s p).kind ≠ kind then s
    else if checkReq s p (nextReq s p) ≠ 0 then failReq (took s p) p (nextReq s p).pos stDescriptor (checkReq s p (nextReq s p))
    else if (nextReq s p).isCollective then postColl (took s p) p (nextReq s p)
    else pushReq (took s p) p (nextReq s p).pos := by
  have hgoes : ((s.reqRing p).started == (s.reqRing p).tail || !(reqPlaced s p) || decide (64 ≤ (s.reqRing p).inFlight.length) ||
      decide (2 ^ reqLog2 s p < ((s.reqRing p).tail - (s.reqRing p).started).toNat)) = false := by
    simp only [Bool.or_eq_false_iff, beq_eq_false_iff_ne, ne_eq, Bool.not_eq_false', decide_eq_false_iff_not]
    exact ⟨⟨⟨h.waits, h.placed⟩, by rw [h.idle]; decide⟩, Nat.not_lt.2 h.inside⟩
  have hread : correctSpan (took s p) (reqKey s p (s.reqRing p).started.toNat) 64 = took s p :=
    correctSpan_record (s := took s p) h.placed h.clean _
  have hstart : runRequests s p kind = startReq s p kind := by
    unfold runRequests
    rw [h.idle]
    rfl
  rw [hstart]
  unfold startReq
  simp only [hgoes, h.good, Bool.false_eq_true, if_false]
  change (if reqReserved (nextReq s p) then failReq (took s p) p (nextReq s p).pos stDescriptor 0x01
    else if (nextReq s p).kind ≠ kind then s
    else if checkReq s p (nextReq s p) ≠ 0 then
      failReq (correctSpan (took s p) (reqKey s p (s.reqRing p).started.toNat) 64) p (nextReq s p).pos stDescriptor
        (checkReq s p (nextReq s p))
    else if (nextReq s p).isCollective then
      postColl (correctSpan (took s p) (reqKey s p (s.reqRing p).started.toNat) 64) p (nextReq s p)
    else pushReq (correctSpan (took s p) (reqKey s p (s.reqRing p).started.toNat) 64) p (nextReq s p).pos) = _
  rw [hread]

/-! ### Requests that fail (R188, R189) -/

theorem failStep_crier (s : State) (p x : Nat) : (failStep s p x).crier = s.crier := by
  unfold failStep
  extract_lets s1 late
  split <;> rfl

/-- A request that fails with DESCRIPTOR_INVALID raises a trap of its partition. -/
theorem failReq_traps {pos : Nat} {r : LinkReq} (hr : reqOf s p pos = some r) (hopen : r.finished = false) (reason : Nat) :
    ∃ tr : Trap, (failReq s p pos stDescriptor reason).crier.pending = s.crier.pending ++ [tr] ∧ tr.rings = [p] := by
  unfold failReq
  simp only [hr, hopen, Bool.false_eq_true, if_false, if_true]
  obtain ⟨tr, hpending, hrings⟩ := raiseTrap_queued (failStep (modReq s p pos fun r => { r with
    finished := true, waiting := 0, status := BitVec.ofNat 8 stDescriptor }) p r.jobCtx) pnLinkCtx
    { code := trapDescriptor, level := 2, part := some p, ctx := some r.jobCtx, detail := fields [(0, reason)] }
  refine ⟨tr, hpending.trans ?_, hrings⟩
  rw [failStep_crier]
  rfl

/-- A next record that its check refuses. -/
theorem runRequests_refused (h : NextRecord s p) {kind : Nat} (hrefused : reqReserved (nextReq s p) = true ∨
    (reqReserved (nextReq s p) = false ∧ (nextReq s p).kind = kind ∧ checkReq s p (nextReq s p) ≠ 0)) :
    ∃ reason, runRequests s p kind = failReq (took s p) p (nextReq s p).pos stDescriptor reason := by
  rw [runRequests_next h]
  rcases hrefused with hreserved | ⟨hreserved, hkind, hcheck⟩
  · exact ⟨_, if_pos hreserved⟩
  · rw [hreserved, if_neg Bool.false_ne_true, if_neg (not_not.2 hkind), if_pos hcheck]
    exact ⟨_, rfl⟩

end Sys2Proof.Machine

/-! Transfers: the first segment of a WRITE or a READ, and the message of an ATOMIC (R440, R442). -/

namespace Sys2Proof.Machine

variable {s : State} {p pos : Nat} {r : LinkReq}

theorem State.reqRing_modReqRing (s : State) (p : Nat) (f : ReqRing → ReqRing) : (s.modReqRing p f).reqRing p = f (s.reqRing p) :=
  mget_mset_same _ _ _ _

theorem modReq_started (s : State) (p pos : Nat) (f : LinkReq → LinkReq) :
    ((modReq s p pos f).reqRing p).started = (s.reqRing p).started := by
  unfold modReq
  rw [State.reqRing_modReqRing]

theorem reqRing_of_reqs {t : State} (h : t.links.reqs = s.links.reqs) (p : Nat) : t.reqRing p = s.reqRing p := by
  unfold State.reqRing
  rw [h]

/-! ### The message of a request -/

/-- A message of a request that its context takes: the request waits for one more, and the message is among those sent. -/
theorem reqSend_sends {c : Nat} (hready : (s.peer c).phase = .ready) (hr : reqOf s p pos = some r) (m : OutMsg) (key : Nat) :
    reqOf (reqSend s p pos c m key) p pos = some { r with waiting := r.waiting + 1 } ∧
      ((reqSend s p pos c m key).reqRing p).started = (s.reqRing p).started ∧
      Sends s (reqSend s p pos c m key) c fun u => u.op = m.op ∧ u.subop = m.subop ∧ u.address = m.address ∧
        u.operand = m.operand ∧ u.data = m.data := by
  obtain ⟨t, hsent, -, hseq, -, -, -, -, hreqs, u, hu, -, -, hmsg⟩ := sendMsg_some hready m key (.request p pos)
  unfold reqSend
  rw [hsent]
  refine ⟨?_, ?_, hseq, u, hu, ?_, ?_⟩
  · dsimp only
    rw [reqOf_modReq, reqOf_of_reqs hreqs, hr]
    · rfl
    · exact fun _ => rfl
  · exact (modReq_started t p pos _).trans (congrArg ReqRing.started (reqRing_of_reqs hreqs p))
  · rw [hmsg]
  · rw [hmsg]
    exact ⟨rfl, rfl, rfl, rfl, rfl⟩

/-- A request whose segment has begun. -/
theorem reqOf_begun (hr : reqOf s p pos = some r) (hsent : r.sent = 0) :
    reqOf (modReq s p pos fun q => { q with sent := q.sent + 1 }) p pos = some { r with sent := 1 } := by
  rw [reqOf_modReq, hr, Option.map_some, hsent]
  exact fun _ => rfl

/-! ### Segments -/

theorem segment_goes (hopen : r.finished = false) (hsent : r.sent = 0) (hseg : segOpen s p r 0 = true) (hsome : r.length ≠ 0) :
    (r.finished || decide (r.length ≤ 65536 * r.sent) || !(segOpen s p r r.sent)) = false := by
  rw [hsent, hopen, hseg]
  simp [hsome]

section
variable (hr : reqOf s p pos = some r)
include hr

theorem pushWrite_sent (hsent : r.length ≤ 65536 * r.sent) (n : Nat) : pushWrite p pos n s = s := by
  cases n with
  | zero => rfl
  | succ n =>
    unfold pushWrite
    simp only [hr, hsent, decide_true, Bool.or_true, Bool.true_or, if_true]

theorem pushRead_sent (hsent : r.length ≤ 65536 * r.sent) (n : Nat) : pushRead p pos n s = s := by
  cases n with
  | zero => rfl
  | succ n =>
    unfold pushRead
    simp only [hr, hsent, decide_true, Bool.or_true, Bool.true_or, if_true]

variable (hopen : r.finished = false) (hsent : r.sent = 0) (hseg : segOpen s p r 0 = true)
include hopen hsent hseg

theorem pushAtomic_first : pushAtomic s p pos = reqSend (modReq s p pos fun q => { q with sent := 1 }) p pos r.ctx
    { ctx := r.ctx, op := .atomic, mseq := 0, subop := r.atomicOp, address := BitVec.ofNat 48 r.remoteAt,
      operand := BitVec.ofNat 64 (longAt r.words 7), operand2 := BitVec.ofNat 64 (longAt r.words 9) }
    (keyOf s (reqWho p r) r.localAt) := by
  unfold pushAtomic
  simp only [hr, hopen, hsent, hseg]
  rfl

variable (hsome : r.length ≠ 0) (hone : r.length ≤ 65536)
include hsome hone

theorem pushRead_first (n : Nat) : pushRead p pos (n + 1) s = pushRead p pos n (reqSend
    (modReq s p pos fun q => { q with sent := q.sent + 1 }) p pos r.ctx
    { ctx := r.ctx, op := .read, mseq := 0, address := BitVec.ofNat 48 r.remoteAt, operand := BitVec.ofNat 64 r.length }
    (keyOf s (reqWho p r) r.localAt)) := by
  rw [pushRead]
  simp only [hr, segment_goes hopen hsent hseg hsome, Bool.false_eq_true, if_false]
  rw [hsent, Nat.mul_zero, Nat.sub_zero, Nat.min_eq_right hone, Nat.add_zero, Nat.add_zero]

theorem pushWrite_first (hgood : badUnit s (keyOf s (reqWho p r) r.localAt) r.length = none) (n : Nat) :
    pushWrite p pos (n + 1) s = pushWrite p pos n (reqSend
      (readSpans (modReq s p pos fun q => { q with sent := q.sent + 1 }) false [(keyOf s (reqWho p r) r.localAt, r.length)]) p pos r.ctx
      { ctx := r.ctx, op := .write, mseq := 0, address := BitVec.ofNat 48 r.remoteAt,
        data := viewBytes s (keyOf s (reqWho p r) r.localAt) r.length } 0) := by
  have hlength : min 65536 (r.length - 65536 * r.sent) = r.length := by rw [hsent]; omega
  rw [pushWrite]
  simp only [hr, segment_goes hopen hsent hseg hsome, Bool.false_eq_true, if_false]
  rw [hlength, hsent, Nat.mul_zero, Nat.add_zero, Nat.add_zero, hgood]

end

/-! ### A transfer starts -/

theorem pushReq_write (hr : reqOf s p pos = some r) (hkind : r.kind = kindWrite) :
    pushReq s p pos = pushWrite p pos (reqSegments r + 1) s := by
  unfold pushReq
  simp only [hr, hkind, if_true]

theorem pushReq_read (hr : reqOf s p pos = some r) (hkind : r.kind = kindRead) :
    pushReq s p pos = pushRead p pos (reqSegments r + 1) s := by
  unfold pushReq
  simp only [hr, hkind, if_true]
  exact if_neg (by decide)

theorem pushReq_atomic (hr : reqOf s p pos = some r) (hkind : r.kind = kindAtomic) : pushReq s p pos = pushAtomic s p pos := by
  unfold pushReq
  simp only [hr, hkind, if_true]
  exact (if_neg (by decide)).trans (if_neg (by decide))

/-- A WRITE or a READ that its check passes has bytes. -/
theorem length_of_checkTransfer (hkind : r.kind ≠ kindAtomic) (hcheck : checkTransfer s p r = 0) : r.length ≠ 0 := by
  intro hzero
  unfold checkTransfer at hcheck
  simp only [hkind, hzero, if_false, true_or, if_true] at hcheck
  cases hcheck

theorem isCollective_false {kind : Nat} (hkind : r.kind = kind) (hlow : kind < 4) : r.isCollective = false := by
  unfold LinkReq.isCollective
  rw [hkind]
  exact decide_eq_false (by omega)

theorem storage_setLinks (s : State) (l : Links) : ({ s with links := l } : State).storage = s.storage := rfl

theorem storage_took (s : State) (p : Nat) : (took s p).storage = s.storage := storage_setLinks s _

theorem reads_took (s : State) (p : Nat) : (took s p).reads = s.reads := reads_of_storage (storage_took s p)

theorem segOpen_took (s : State) (p k : Nat) (r : LinkReq) : segOpen (took s p) p r k = segOpen s p r k := by
  unfold segOpen
  rw [semValue_of_reads (reads_took s p)]

/-- The first message of a record that has begun. -/
theorem reqSend_first {u : State} (hring : (u.reqRing p).started = ((took s p).reqRing p).started)
    (hreq : reqOf u p (nextReq s p).pos = some { nextReq s p with sent := 1 })
    (hpeer : ∀ c, u.peer c = s.peer c) {c : Nat} (hready : (s.peer c).phase = .ready) (m : OutMsg) (key : Nat) :
    ((reqSend u p (nextReq s p).pos c m key).reqRing p).started = (s.reqRing p).started + 1 ∧
      reqOf (reqSend u p (nextReq s p).pos c m key) p (nextReq s p).pos = some { nextReq s p with sent := 1, waiting := 1 } ∧
      Sends s (reqSend u p (nextReq s p).pos c m key) c fun v => v.op = m.op ∧ v.subop = m.subop ∧ v.address = m.address ∧
        v.operand = m.operand ∧ v.data = m.data := by
  obtain ⟨hwaits, hstarted, hsends⟩ := reqSend_sends (by rw [hpeer]; exact hready) hreq m key
  exact ⟨hstarted.trans (hring.trans (by rw [took_ring])), hwaits, hsends.of_sendSeq (by rw [hpeer])⟩

section
variable (h : NextRecord s p)
include h

/-- The next record is a transfer that its check passes. -/
theorem runRequests_starts {kind : Nat} (hlow : kind < 4) (hreserved : reqReserved (nextReq s p) = false)
    (hkind : (nextReq s p).kind = kind) (hcheck : checkTransfer s p (nextReq s p) = 0) :
    runRequests s p kind = pushReq (took s p) p (nextReq s p).pos := by
  have hcoll := isCollective_false hkind hlow
  have hpasses : checkReq s p (nextReq s p) = 0 := (if_neg (by rw [hcoll]; decide)).trans hcheck
  rw [runRequests_next h, hreserved, if_neg Bool.false_ne_true, if_neg (not_not.2 hkind), if_neg (not_not.2 hpasses), hcoll,
    if_neg Bool.false_ne_true]

variable (hreserved : reqReserved (nextReq s p) = false) (hcheck : checkTransfer s p (nextReq s p) = 0)
  (hseg : segOpen s p (nextReq s p) 0 = true)
include hreserved hcheck hseg

theorem runRequests_write (hkind : (nextReq s p).kind = kindWrite) (hone : (nextReq s p).length ≤ 65536)
    (hready : (s.peer (nextReq s p).ctx).phase = .ready)
    (hgood : badUnit s (keyOf s (reqWho p (nextReq s p)) (nextReq s p).localAt) (nextReq s p).length = none) :
    let t := runRequests s p kindWrite
    (t.reqRing p).started = (s.reqRing p).started + 1 ∧
      reqOf t p (nextReq s p).pos = some { nextReq s p with sent := 1, waiting := 1 } ∧
      Sends s t (nextReq s p).ctx fun m => m.op = .write ∧ m.address = BitVec.ofNat 48 (nextReq s p).remoteAt ∧
        m.data = viewBytes s (keyOf s (reqWho p (nextReq s p)) (nextReq s p).localAt) (nextReq s p).length := by
  have htook := reqOf_took h
  have hsome := length_of_checkTransfer (by rw [hkind]; decide) hcheck
  have hlinks := readSpans_links (modReq (took s p) p (nextReq s p).pos fun q => { q with sent := q.sent + 1 }) false
    [(keyOf s (reqWho p (nextReq s p)) (nextReq s p).localAt, (nextReq s p).length)]
  have hreqs := congrArg Links.reqs hlinks
  obtain ⟨hstarted, hreq, hsends⟩ := reqSend_first ((congrArg ReqRing.started (reqRing_of_reqs hreqs p)).trans (modReq_started _ _ _ _))
    ((reqOf_of_reqs hreqs _ _).trans (reqOf_begun htook rfl)) (fun c => peer_of_links hlinks c) hready
    { ctx := (nextReq s p).ctx, op := .write, mseq := 0, address := BitVec.ofNat 48 (nextReq s p).remoteAt,
      data := viewBytes s (keyOf s (reqWho p (nextReq s p)) (nextReq s p).localAt) (nextReq s p).length } 0
  have hpush := pushWrite_first htook rfl rfl (by rw [segOpen_took]; exact hseg) hsome hone
    (by rw [badUnit_of_errors (errors_of_storage (storage_took s p)), keyOf_of_reads (reads_took s p)]; exact hgood)
    (reqSegments (nextReq s p))
  rw [keyOf_of_reads (reads_took s p), viewBytes_of_reads (reads_took s p), pushWrite_sent hreq (hone.trans_eq (Nat.mul_one _).symm),
    ← pushReq_write htook hkind, ← runRequests_starts h (by decide) hreserved hkind hcheck] at hpush
  intro t
  rw [show t = _ from hpush]
  exact ⟨hstarted, hreq, hsends.imp fun m ⟨hop, _, haddress, _, hdata⟩ => ⟨hop, haddress, hdata⟩⟩

theorem runRequests_read (hkind : (nextReq s p).kind = kindRead) (hone : (nextReq s p).length ≤ 65536)
    (hready : (s.peer (nextReq s p).ctx).phase = .ready) :
    let t := runRequests s p kindRead
    (t.reqRing p).started = (s.reqRing p).started + 1 ∧
      reqOf t p (nextReq s p).pos = some { nextReq s p with sent := 1, waiting := 1 } ∧
      Sends s t (nextReq s p).ctx fun m => m.op = .read ∧ m.address = BitVec.ofNat 48 (nextReq s p).remoteAt ∧
        m.operand = BitVec.ofNat 64 (nextReq s p).length := by
  have htook := reqOf_took h
  have hsome := length_of_checkTransfer (by rw [hkind]; decide) hcheck
  obtain ⟨hstarted, hreq, hsends⟩ := reqSend_first (modReq_started _ _ _ fun q => { q with sent := q.sent + 1 }) (reqOf_begun htook rfl) (fun _ => rfl) hready
    { ctx := (nextReq s p).ctx, op := .read, mseq := 0, address := BitVec.ofNat 48 (nextReq s p).remoteAt,
      operand := BitVec.ofNat 64 (nextReq s p).length } (keyOf s (reqWho p (nextReq s p)) (nextReq s p).localAt)
  have hpush := pushRead_first htook rfl rfl (by rw [segOpen_took]; exact hseg) hsome hone (reqSegments (nextReq s p))
  rw [keyOf_of_reads (reads_took s p), pushRead_sent hreq (hone.trans_eq (Nat.mul_one _).symm),
    ← pushReq_read htook hkind, ← runRequests_starts h (by decide) hreserved hkind hcheck] at hpush
  intro t
  rw [show t = _ from hpush]
  exact ⟨hstarted, hreq, hsends.imp fun m ⟨hop, _, haddress, hoperand, _⟩ => ⟨hop, haddress, hoperand⟩⟩

theorem runRequests_atomic (hkind : (nextReq s p).kind = kindAtomic) (hready : (s.peer (nextReq s p).ctx).phase = .ready) :
    let t := runRequests s p kindAtomic
    (t.reqRing p).started = (s.reqRing p).started + 1 ∧
      reqOf t p (nextReq s p).pos = some { nextReq s p with sent := 1, waiting := 1 } ∧
      Sends s t (nextReq s p).ctx fun m => m.op = .atomic ∧ m.address = BitVec.ofNat 48 (nextReq s p).remoteAt ∧
        m.subop = (nextReq s p).atomicOp := by
  have htook := reqOf_took h
  have hbegun : reqOf (modReq (took s p) p (nextReq s p).pos fun q => { q with sent := 1 }) p (nextReq s p).pos =
      some { nextReq s p with sent := 1 } := by
    rw [reqOf_modReq, htook]
    · rfl
    · exact fun _ => rfl
  have hpush := pushAtomic_first htook rfl rfl (by rw [segOpen_took]; exact hseg)
  rw [← pushReq_atomic htook hkind, ← runRequests_starts h (by decide) hreserved hkind hcheck] at hpush
  intro t
  rw [show t = _ from hpush]
  obtain ⟨hstarted, hreq, hsends⟩ := reqSend_first (modReq_started _ _ _ _) hbegun (fun _ => rfl) hready
    { ctx := (nextReq s p).ctx, op := .atomic, mseq := 0, subop := (nextReq s p).atomicOp,
      address := BitVec.ofNat 48 (nextReq s p).remoteAt, operand := BitVec.ofNat 64 (longAt (nextReq s p).words 7),
      operand2 := BitVec.ofNat 64 (longAt (nextReq s p).words 9) } (keyOf (took s p) (reqWho p (nextReq s p)) (nextReq s p).localAt)
  exact ⟨hstarted, hreq, hsends.imp fun m ⟨hop, hsubop, haddress, _, _⟩ => ⟨hop, haddress, hsubop⟩⟩

end

/-! ### The tail of a ring -/

theorem reqLog2_disarm (s : State) (pn p : Nat) : reqLog2 (disarm s pn) p = reqLog2 s p := by
  unfold reqLog2
  rw [regN_disarm]

theorem reqTail_inside (init : Nat) {value : Nat}
    (h : (BitVec.ofNat 13 value - (s.reqRing p).head).toNat ≤ 2 ^ reqLog2 s p) :
    reqTail s init p value = s.modReqRing p fun v => { v with tail := BitVec.ofNat 13 value } := if_neg (Nat.not_lt.2 h)

theorem reqTail_beyond (init : Nat) {value : Nat}
    (h : 2 ^ reqLog2 s p < (BitVec.ofNat 13 value - (s.reqRing p).head).toNat) :
    reqTail s init p value = ignoreWrite s 7 init (reqTailAddr p) value := if_pos h

theorem refused_of_check {kind : Nat} (hlow : kind < 4)
    (h : reqReserved (nextReq s p) = true ∨ ((nextReq s p).kind = kind ∧ checkTransfer s p (nextReq s p) ≠ 0)) :
    reqReserved (nextReq s p) = true ∨
      (reqReserved (nextReq s p) = false ∧ (nextReq s p).kind = kind ∧ checkReq s p (nextReq s p) ≠ 0) := by
  rcases Bool.eq_false_or_eq_true (reqReserved (nextReq s p)) with hreserved | hreserved
  · exact .inl hreserved
  · obtain ⟨hkind, hcheck⟩ := h.resolve_left (by rw [hreserved]; decide)
    refine .inr ⟨hreserved, hkind, ?_⟩
    unfold checkReq
    rw [isCollective_false hkind hlow]
    exact hcheck

/-- Settles O46: the tail by whether it is inside the ring, the next record by its kind and what its check says. -/
theorem requestsStart : Obligations.RequestsStart := by
  unfold Obligations.RequestsStart
  intro s init part value _ v tail key r next starts sent
  have hnext (h : next) : NextRecord s part := by
    obtain ⟨hwaits, hidle, hinside, hplaced, hgood, hclean⟩ := h
    exact ⟨hwaits, hidle, hinside, hplaced, hgood, hclean⟩
  refine ⟨fun hserved => ⟨_, congrArg Host.Outcome.next (ctlWrite_served hserved _ _), ?tail⟩, fun hstarts hkind hone hgood => ?write,
    fun hstarts hkind hone => ?read, fun hstarts hkind => ?atomic, fun h e he hrefused => ?refused⟩
  case write =>
    obtain ⟨h, hreserved, hcheck, hseg, hready⟩ := hstarts
    obtain ⟨hstarted, hreq, hsends⟩ := runRequests_write (hnext h) hreserved hcheck hseg hkind hone hready hgood
    exact ⟨_, rfl, ⟨hstarted, hreq⟩, hsends⟩
  case read =>
    obtain ⟨h, hreserved, hcheck, hseg, hready⟩ := hstarts
    obtain ⟨hstarted, hreq, hsends⟩ := runRequests_read (hnext h) hreserved hcheck hseg hkind hone hready
    exact ⟨_, rfl, ⟨hstarted, hreq⟩, hsends⟩
  case atomic =>
    obtain ⟨h, hreserved, hcheck, hseg, hready⟩ := hstarts
    obtain ⟨hstarted, hreq, hsends⟩ := runRequests_atomic (hnext h) hreserved hcheck hseg hkind hready
    exact ⟨_, rfl, ⟨hstarted, hreq⟩, hsends⟩
  case refused =>
    have htook := reqOf_took (hnext h)
    have hexec : exec e.1 s = .next (runRequests s part e.2) ∧ e.2 < 4 := by
      simp only [List.mem_cons, List.not_mem_nil, or_false] at he
      rcases he with rfl | rfl | rfl
      · exact ⟨rfl, (by decide : kindWrite < 4)⟩
      · exact ⟨rfl, (by decide : kindRead < 4)⟩
      · exact ⟨rfl, (by decide : kindAtomic < 4)⟩
    obtain ⟨reason, hruns⟩ := runRequests_refused (hnext h) (refused_of_check hexec.2 hrefused)
    obtain ⟨hreq, hstep, -⟩ := failReq_fails htook rfl stDescriptor reason
    exact ⟨_, _, hexec.1.trans (congrArg _ hruns), hreq, rfl, rfl, hstep, failReq_traps htook rfl reason⟩
  case tail =>
    refine ⟨?_, fun hinside => ?_, fun hbeyond => ?_⟩
    · exact changes_of (within_reqTail (by decide) (by decide) _ _ _ _ (within_disarm (by decide) _ _ (within_refl _ s)))
    · rw [reqTail_inside (s := disarm s _) init (by rw [reqLog2_disarm]; exact hinside)]
      exact State.reqRing_modReqRing _ part _
    · rw [reqTail_beyond (s := disarm s _) init (by rw [reqLog2_disarm]; exact hbeyond)]
      rfl

end Sys2Proof.Machine

/-! What the progress of a collective leaves of the records in flight: their place, their words and their number (R442–R444). -/

namespace Sys2Proof.Machine

variable {s t : State} {p : Nat}

/-- What a collective's record keeps while it is in flight. -/
def LinkReq.post (r : LinkReq) : Nat × List Word × Nat := (r.pos, r.words, r.number)

/-- The records that a ring has started, and the numbers taken by the groups. -/
def State.posts (s : State) (p : Nat) : BitVec 13 × List (Nat × List Word × Nat) × SMap Nat :=
  ((s.reqRing p).started, (s.reqRing p).inFlight.map LinkReq.post, s.links.collCount)

theorem posts_of_links (h : t.links = s.links) : t.posts p = s.posts p := by
  unfold State.posts State.reqRing
  rw [h]

theorem posts_of_reqs (hreqs : t.links.reqs = s.links.reqs) (hcolls : t.links.collCount = s.links.collCount) : t.posts p = s.posts p := by
  unfold State.posts State.reqRing
  rw [hreqs, hcolls]

/-- What changes no link changes no record. -/
theorem posts_of_within (h : Within (· ≠ Piece.links) s t) : t.posts p = s.posts p := posts_of_links (h.links (not_not.2 rfl))

section
variable (s)

theorem posts_modReq (pos : Nat) {f : LinkReq → LinkReq} (hf : ∀ r, (f r).post = r.post) : (modReq s p pos f).posts p = s.posts p := by
  unfold State.posts modReq
  rw [State.reqRing_modReqRing, List.map_map]
  refine Prod.ext rfl (Prod.ext (List.map_congr_left fun r _ => ?_) rfl)
  show (if r.pos = pos then f r else r).post = r.post
  split
  · exact hf r
  · rfl

theorem posts_endReq (pos : Nat) : (endReq s p pos).posts p = s.posts p := posts_modReq s pos (by intro; rfl)

theorem posts_failReq (pos status reason : Nat) : (failReq s p pos status reason).posts p = s.posts p := by
  unfold failReq
  split
  · rfl
  · split
    · rfl
    · next r _ _ =>
      extract_lets s1 s2
      have h2 : s2.posts p = s.posts p := (posts_of_links (failStep_links _ _ _)).trans (posts_modReq s pos (by intro; rfl))
      split
      · exact (posts_of_links (raiseTrap_links _ _ _)).trans h2
      · exact h2

/-! ### Messages -/

theorem posts_sendMsg (c key : Nat) (m : OutMsg) (w : Waiter) : ((sendMsg s c m key w).getD s).posts p = s.posts p := by
  unfold sendMsg
  extract_lets q asks tag n v
  split
  · have hpumped := pumped_pumpCtx (s.setPeer c { q with
      sendSeq := q.sendSeq + 1, unacked := q.unacked ++ [v], asked := if asks then q.asked ++ [v] else q.asked }) c
    exact posts_of_reqs hpumped.reqs hpumped.colls
  · rfl

theorem posts_reqSend (pos c key : Nat) (m : OutMsg) : (reqSend s p pos c m key).posts p = s.posts p := by
  have hsent := posts_sendMsg s (p := p) c key m (.request p pos)
  unfold reqSend
  split
  · next t ht =>
    rw [ht] at hsent
    exact (posts_modReq t pos (by intro; rfl)).trans hsent
  · exact posts_failReq s pos _ _

theorem posts_sendColl (r : LinkReq) (rank level k mark : Nat) (bs : List Byte) :
    (sendColl s p r rank level k mark bs).posts p = s.posts p := by
  unfold sendColl
  extract_lets cs
  split
  · exact posts_failReq s _ _ _
  · exact foldl_view (State.posts · p) (fun t e => posts_reqSend t _ _ _ _) _ s

theorem posts_sendMarks (c : Coll) (r : LinkReq) (status : Nat) : (sendMarks s p c r status).posts p = s.posts p := by
  refine foldl_view (State.posts · p) (fun t rank => ?_) c.ranks s
  split
  · rfl
  · split
    · rfl
    · exact posts_sendMsg t _ _ _ _

theorem posts_failColl (c : Coll) (r : LinkReq) (status reason : Nat) : (failColl s p c r status reason).posts p = s.posts p :=
  (posts_failReq _ _ _ _).trans (posts_sendMarks s c r status)

/-! ### The source and its segments -/

theorem posts_readSpans (vertical : Bool) (spans : List (Nat × Nat)) : (readSpans s vertical spans).posts p = s.posts p :=
  posts_of_links (readSpans_links s vertical spans)

theorem posts_startSegment (c : Coll) (pos k : Nat) : (startSegment p c pos s k).posts p = s.posts p := by
  unfold startSegment
  split
  · rfl
  · split
    · rfl
    · extract_lets spans key s1
      split
      · refine (posts_failColl _ _ _ _ _).trans (posts_of_within ?_)
        exact within_raiseBadIn (by decide) (by decide) (by decide) (by decide) _ _ _ _ _ _ _ (within_refl _ s)
      · have h1 : s1.posts p = s.posts p := posts_readSpans s _ _
        split
        · exact (posts_failColl s1 _ _ _ _).trans h1
        · exact (posts_modReq s1 pos (by intro; rfl)).trans h1

theorem posts_climbSegment (c : Coll) (pos k : Nat) : (climbSegment s p c pos k).posts p = s.posts p := by
  refine foldl_view (State.posts · p) (fun t l => ?_) _ s
  split
  · rfl
  · split
    · rfl
    · refine foldl_view (State.posts · p) (fun u b => ?_) _ t
      split
      · rfl
      · split
        · rfl
        · exact (posts_sendColl _ _ _ _ _ _ _).trans (posts_modReq u pos (by intro; rfl))

/-! ### Results -/

theorem posts_noteLength (r : LinkReq) (d : Nat) : (noteLength s p r d).posts p = s.posts p := by
  unfold noteLength
  split
  · exact posts_of_links (raiseTrap_links _ _ _)
  · rfl

theorem posts_sendRange (c : Coll) (pos : Nat) (e : Nat × List Byte) : (sendRange p c pos s e).posts p = s.posts p := by
  unfold sendRange
  split
  · rfl
  · split
    · rfl
    · extract_lets s1
      refine (foldl_view (State.posts · p) (fun t rank => ?_) c.ranks s1).trans (posts_modReq s pos (by intro; rfl))
      split
      · rfl
      · exact posts_sendColl t _ _ _ _ _ _

theorem posts_sendRanges (c : Coll) (pos : Nat) : (sendRanges s p c pos).posts p = s.posts p := by
  unfold sendRanges
  split
  · rfl
  · split
    · rfl
    · refine (foldl_view (State.posts · p) (fun t e => posts_sendRange t c pos e) _ _).trans ?_
      split
      · exact posts_noteLength s _ _
      · rfl

theorem posts_reqStore (r : LinkReq) (key : Nat) (bs : List Byte) : (reqStore s p r key bs).posts p = s.posts p := by
  have hstored : Within (· ≠ Piece.links) s (setTags (memStores s false [(key, bs)]).1 0 [(key, bs)]) :=
    within_setTags (by decide) _ _ _ (within_memStores (by decide) (by decide) (by decide) (by decide) (by decide) (by decide)
      (by decide) (by decide) (by decide) _ _ _ (within_refl _ s))
  unfold reqStore
  extract_lets st s1
  split
  · refine (posts_failReq _ _ _ _).trans (posts_of_within ?_)
    exact within_raiseBad (by decide) (by decide) (by decide) (by decide) _ _ _ _ _ _ hstored
  · exact posts_of_within hstored

/-- What ends a collective whose messages are acknowledged. -/
theorem posts_finishColl (c : Coll) (pos : Nat) : (finishColl s p c pos).posts p = s.posts p := by
  unfold finishColl
  split
  · rfl
  · next r _ =>
    extract_lets dest done
    have hdone (t : State) : (done t).posts p = t.posts p := by
      unfold done
      split
      · split
        · exact posts_endReq t pos
        · rfl
      · rfl
    split
    · rfl
    · split
      · split
        · rfl
        · split
          · exact hdone s
          · exact (hdone _).trans ((posts_reqStore _ _ _ _).trans (posts_noteLength s _ _))
      · split
        · split
          · rfl
          · exact (hdone _).trans (posts_reqStore s _ _ _)
        · split
          · rfl
          · exact (hdone _).trans (posts_reqStore s _ _ _)

/-! ### The progress of a collective -/

theorem posts_pushColl (pos : Nat) : (pushColl s p pos).posts p = s.posts p := by
  unfold pushColl
  split
  · rfl
  · split
    · rfl
    · next r _ j _ =>
      extract_lets c s1 s2
      split
      · rfl
      · have h1 : s1.posts p = s.posts p := foldl_view (State.posts · p) (fun t k => posts_startSegment t c pos k) _ s
        have h2 : s2.posts p = s.posts p := by
          unfold s2
          split
          · exact h1
          · exact (foldl_view (State.posts · p) (fun t k => posts_climbSegment t c pos k) _ s1).trans h1
        exact (posts_finishColl _ _ _).trans ((posts_sendRanges _ _ _).trans h2)

theorem posts_takeColl (pos rank : Nat) (m : LinkMsg) : (takeColl s p pos rank m).posts p = s.posts p := by
  unfold takeColl
  split
  · rfl
  · split
    · rfl
    · extract_lets c mark seg r1 s1 n
      split
      · rfl
      · split
        · exact posts_failColl s _ _ _ _
        · split
          · split
            · exact posts_failReq s _ _ _
            · exact posts_failReq s _ _ _
          · have h1 : s1.posts p = s.posts p := posts_modReq s pos (by intro; rfl)
            exact (posts_pushColl _ _).trans h1

end

end Sys2Proof.Machine

/-! Collectives that are posted, and requests that complete (R442–R444). -/

namespace Sys2Proof.Machine

variable {s : State} {p : Nat}

/-! ### A collective is posted (R443) -/

/-- The group of a record, among those of the device. -/
def groupKey (p : Nat) (r : LinkReq) : Nat := p * 64 + r.jobCtx * 8 + r.group

/-- A record has taken the next number of its group. -/
def numbered (s : State) (p : Nat) (r : LinkReq) : State :=
  modReq { s with links := { s.links with
      collCount := mset 0 s.links.collCount (groupKey p r) (mget 0 s.links.collCount (groupKey p r) + 1) } } p r.pos
    fun v => { v with number := mget 0 s.links.collCount (groupKey p r) % 2 ^ 32 }

/-- What came early for a collective changes neither its number nor its words. -/
theorem posts_postColl (s : State) (p : Nat) (r : LinkReq) : (postColl s p r).posts p = (numbered s p r).posts p := by
  unfold postColl
  extract_lets key n links s1 mine early links1 s2
  refine (posts_pushColl _ _).trans ((foldl_view (State.posts · p) (fun t m => posts_takeColl t _ _ _) early s2).trans ?_)
  exact posts_of_reqs rfl rfl

theorem modReqRing_collCount (s : State) (p : Nat) (f : ReqRing → ReqRing) :
    (s.modReqRing p f).links.collCount = s.links.collCount := rfl

theorem took_collCount (s : State) (p : Nat) : (took s p).links.collCount = s.links.collCount := modReqRing_collCount s p _

theorem posts_numbered (h : NextRecord s p) : (numbered (took s p) p (nextReq s p)).posts p =
    ((s.reqRing p).started + 1,
      [((nextReq s p).pos, (nextReq s p).words, mget 0 s.links.collCount (groupKey p (nextReq s p)) % 2 ^ 32)],
      mset 0 s.links.collCount (groupKey p (nextReq s p)) (mget 0 s.links.collCount (groupKey p (nextReq s p)) + 1)) := by
  have hring (l : SMap Nat) : ({ took s p with links := { (took s p).links with collCount := l } } : State).reqRing p =
      { s.reqRing p with started := (s.reqRing p).started + 1, inFlight := [nextReq s p] } := by
    refine (took_ring s p).trans ?_
    rw [h.idle]
    rfl
  unfold numbered State.posts modReq
  rw [State.reqRing_modReqRing, hring]
  simp only [List.map_cons, List.map_nil, if_true, LinkReq.post, took_collCount]
  rfl

/-- A collective that its check passes is posted, with its words and its number. -/
theorem posted_of_posts {t : State} {k : BitVec 13} {r : LinkReq} {number : Nat} {colls : SMap Nat}
    (h : t.posts p = (k, [(r.pos, r.words, number)], colls)) :
    ∃ r', (t.reqRing p).started = k ∧ reqOf t p r.pos = some r' ∧ r'.words = r.words ∧ r'.number = number ∧
      t.links.collCount = colls := by
  obtain ⟨hstarted, hrest⟩ := Prod.ext_iff.1 h
  obtain ⟨hflight, hcolls⟩ := Prod.ext_iff.1 hrest
  obtain ⟨r', hone, hpost⟩ := List.map_eq_singleton_iff.1 hflight
  unfold LinkReq.post at hpost
  simp only [Prod.mk.injEq] at hpost
  obtain ⟨hpos, hwords, hnumber⟩ := hpost
  refine ⟨r', hstarted, ?_, hwords, hnumber, hcolls⟩
  unfold reqOf
  rw [hone]
  exact List.find?_cons_of_pos (by rw [hpos]; exact beq_self_eq_true _)

/-- The next record is a collective that its check passes. -/
theorem runRequests_posts (h : NextRecord s p) (hreserved : reqReserved (nextReq s p) = false)
    (hcoll : (nextReq s p).isCollective = true) (hcheck : checkColl s p (nextReq s p) = 0) :
    runRequests s p (nextReq s p).kind = postColl (took s p) p (nextReq s p) := by
  have hpasses : checkReq s p (nextReq s p) = 0 := (if_pos hcoll).trans hcheck
  rw [runRequests_next h, hreserved, if_neg Bool.false_ne_true, if_neg (not_not.2 rfl), if_neg (not_not.2 hpasses), if_pos hcoll]

/-- A collective that is refused leaves the groups their numbers. -/
theorem failReq_collCount (s : State) (p pos status reason : Nat) :
    (failReq s p pos status reason).links.collCount = s.links.collCount := congrArg (fun v => v.2.2) (posts_failReq s pos status reason)

/-- The command of the link engine for a collective. -/
def collCommand (part : Nat) (r : LinkReq) : Instr :=
  if r.kind = kindReduce then .reduceScatter part else if r.kind = kindGather then .allGather part else .allReduce part

/-- A collective that is not reserved is of one of three kinds. -/
theorem kind_of_collective {r : LinkReq} (hreserved : reqReserved r = false) (hcoll : r.isCollective = true) :
    r.kind = kindReduce ∨ r.kind = kindGather ∨ r.kind = kindAllReduce := by
  have hkinds : [0, 1, 2, 4, 5, 6].contains r.kind = true := by
    by_contra hother
    rw [Bool.not_eq_true] at hother
    unfold reqReserved at hreserved
    simp only [hother, Bool.not_false, Bool.true_or] at hreserved
    exact absurd hreserved (by decide)
  have hhigh : 4 ≤ r.kind := of_decide_eq_true hcoll
  simp only [List.contains_iff_mem, List.mem_cons, List.not_mem_nil, or_false] at hkinds
  unfold kindReduce kindGather kindAllReduce
  omega

theorem exec_collCommand {r : LinkReq} (hreserved : reqReserved r = false) (hcoll : r.isCollective = true) (s : State) (part : Nat) :
    exec (collCommand part r) s = .next (runRequests s part r.kind) := by
  unfold collCommand
  rcases kind_of_collective hreserved hcoll with hkind | hkind | hkind
  · rw [if_pos hkind, hkind]
    rfl
  · rw [if_neg (by rw [hkind]; decide), if_pos hkind, hkind]
    rfl
  · rw [if_neg (by rw [hkind]; decide), if_neg (by rw [hkind]; decide), hkind]
    rfl

/-! ### A request completes (R442) -/

/-- Bytes that lie in no slab are stored where nothing about their place needs a rule. -/
theorem memStores_hub {s : State} {a : Nat} {bs : List Byte} (h : PlainStore s a bs.length) (htier : tierOf a = 2) :
    memStores s false [(a, bs)] = (memWrite s a bs, none) := by
  rw [memStores_plain h]
  unfold slabTraffic
  rw [if_neg (by rw [htier]; omega)]

/-- A request leaves its ring: HEAD passes what is done. -/
def ReqRing.completes (v : ReqRing) (pos : Nat) : ReqRing :=
  let done := v.done ++ [pos]
  let n := ((List.range 4096).takeWhile fun k => done.contains ((v.head.toNat + k) % 2 ^ 13)).length
  { v with
    inFlight := v.inFlight.filter (fun q => q.pos != pos), head := v.head + BitVec.ofNat 13 n,
    done := done.filter fun d => !((List.range n).map fun k => (v.head.toNat + k) % 2 ^ 13).contains d }

theorem memByte_modReqRing (s : State) (p : Nat) (f : ReqRing → ReqRing) (a : Nat) : memByte (s.modReqRing p f) a = memByte s a := rfl

theorem reqRing_modReqRing_ne (s : State) (f : ReqRing → ReqRing) {k : Nat} (hk : k ≠ p) : (s.modReqRing p f).reqRing k = s.reqRing k :=
  mget_mset_ne _ _ _ hk

theorem reqRing_memWrite (s : State) (a : Nat) (bs : List Byte) (p : Nat) : (memWrite s a bs).reqRing p = s.reqRing p := rfl

/-- The status of a request is written, and its semaphore gets 1. -/
def statusWritten (s : State) (part pos : Nat) (q : LinkReq) : State :=
  memWrite s (reqKey s part pos + 52) (leBytes 4 (q.status.toNat + 256))

theorem execLinkReqComplete_finished {part pos : Nat} {q : LinkReq} (hplaced : reqPlaced s part = true)
    (hq : reqOf s part pos = some q) (hfinished : q.finished = true) (hstatus : PlainStore s (reqKey s part pos + 52) 4)
    (hsem : PlainStore s (semKey s part q.jobCtx (bits (q.w 11) 15 8)) 4) :
    execLinkReqComplete part pos s = .next ((memWrite (statusWritten s part pos q) (semKey s part q.jobCtx (bits (q.w 11) 15 8))
      (leBytes 4 ((semValue (statusWritten s part pos q) part q.jobCtx (bits (q.w 11) 15 8) + 1) % 2 ^ 32))).modReqRing part
        (ReqRing.completes · pos)) := by
  have hstores := memStores_hub (bs := leBytes 4 (q.status.toNat + 256)) (by rw [leBytes_length]; exact hstatus)
    (tierOf_reqKey hplaced pos (by decide))
  have hadds := setSem_plain (s := statusWritten s part pos q) (x := q.jobCtx) (n := bits (q.w 11) 15 8)
    (plainStore_memWrite _ _ hsem) (semValue (statusWritten s part pos q) part q.jobCtx (bits (q.w 11) 15 8) + 1)
  unfold execLinkReqComplete
  simp only [hq, hfinished, hplaced, if_true, hstores]
  unfold addSem
  rw [show memWrite s (reqKey s part pos + 52) (leBytes 4 (q.status.toNat + 256)) = statusWritten s part pos q from rfl, hadds]
  rfl

/-- Settles O47: the next record of the ring by what its check says, and a finished request by what it writes. -/
theorem collectivesPostAndComplete : Obligations.CollectivesPostAndComplete := by
  unfold Obligations.CollectivesPostAndComplete
  intro s part v key r group command
  refine ⟨fun hwaits hidle hinside hplaced hgood hclean hreserved hcoll => ?_, fun pos q hplaced hq hfinished hstatus hsem =>
    ⟨_, execLinkReqComplete_finished hplaced hq hfinished hstatus hsem, ?_, ?_, fun k hk => ?_, fun a => memByte_modReqRing _ part _ a⟩⟩
  · have h : NextRecord s part := ⟨hwaits, hidle, hinside, hplaced, hgood, hclean⟩
    have hexec : exec command s = .next (runRequests s part r.kind) := exec_collCommand hreserved hcoll s part
    refine ⟨fun hcheck => ?_, fun hcheck => ?_⟩
    · obtain ⟨r', hstarted, hr', hwords, hnumber, hcolls⟩ :=
        posted_of_posts ((posts_postColl (took s part) part r).trans (posts_numbered h))
      refine ⟨_, r', hexec.trans (congrArg _ (runRequests_posts h hreserved hcoll hcheck)), hstarted, hr', hwords, hnumber, ?_⟩
      exact (congrArg (mget 0 · group) hcolls).trans (mget_mset_same _ _ _ _)
    · obtain ⟨reason, hruns⟩ := runRequests_refused h (.inr ⟨hreserved, rfl, by
        unfold checkReq
        rw [if_pos (show (nextReq s part).isCollective = true from hcoll)]
        exact hcheck⟩)
      obtain ⟨hreq, -, -⟩ := failReq_fails (reqOf_took h) rfl stDescriptor reason
      exact ⟨_, _, hexec.trans (congrArg _ hruns), hreq, rfl, rfl, (failReq_collCount _ _ _ _ _).trans (took_collCount s part)⟩
  · exact changes_of (within_State_modReqRing (by decide) _ _ _ (within_memWrite (by decide) _ _ _ (within_memWrite (by decide) _ _ _
      (within_refl _ s))))
  · unfold reqOf
    rw [State.reqRing_modReqRing]
    refine List.find?_eq_none.2 fun x hx => ?_
    have hleft := (List.mem_filter.1 hx).2
    simpa using hleft
  · rw [reqRing_modReqRing_ne _ _ hk, reqRing_memWrite, statusWritten, reqRing_memWrite]

end Sys2Proof.Machine

/-! The admission of a job: pending, admitted or refused (R459, R460). -/

namespace Sys2Proof.Machine

variable {s t : State}

theorem part_of_parts (h : t.parts = s.parts) (q : Nat) : t.part q = s.part q := congrArg (fun l => mget Part.init l q) h

/-! ### REFUSED -/

/-- What a refused admission leaves on its partition: its reason, nothing pending, the event, the jobs as they were. -/
structure JobRefused (s : State) (p reason : Nat) (t : State) : Prop where
  admission : (t.part p).admission = .refused
  reason : (t.part p).admitReason = BitVec.ofNat 8 reason
  pending : (t.part p).pendingJob = none
  event : (t.page (pnPart p)).evtStatus = (s.page (pnPart p)).evtStatus ||| 1
  jobs : (t.part p).jobs = (s.part p).jobs

/-- A refusal without a unit that could not be read. -/
theorem jobRefused_refuseJob (s : State) (p reason : Nat) : JobRefused s p reason (refuseJob s p reason none) where
  admission := by rw [refuseJob, setEvent_part, State.part_modPart]
  reason := by rw [refuseJob, setEvent_part, State.part_modPart]
  pending := by rw [refuseJob, setEvent_part, State.part_modPart]
  event := by rw [refuseJob, setEvent_page, State.modPart_page]; rfl
  jobs := by rw [refuseJob, setEvent_part, State.part_modPart]

theorem JobRefused.of_disarm {p reason pn : Nat} (h : JobRefused (disarm s pn) p reason t) : JobRefused s p reason t :=
  { h with event := h.event.trans (by rw [disarm_evtStatus]), jobs := h.jobs.trans (by rw [disarm_part]) }

/-! ### ADMIT -/

theorem readSpans_append (s : State) (vertical : Bool) (k l : List (Nat × Nat)) :
    readSpans (readSpans s vertical k) vertical l = readSpans s vertical (k ++ l) := List.foldl_append.symm

/-- The address of the admission record, its words, the mapping it names, and this device's place in the device list. -/
def admKey (s : State) (p : Nat) : Nat := s.regAddr (pnPart p) 0x120
def admRecord (s : State) (p : Nat) : List Word := viewWords s (admKey s p) 16
def admMapped (s : State) (p : Nat) : Reading × MapRec × List DevEntry := readMapping s p (admRecord s p)
def listedAt (s : State) (l : List DevEntry) : Option Nat := l.findIdx? fun e => e.deviceId == s.fuses.deviceId
def admGranary (s : State) (p : Nat) : Reading × List (List Word) :=
  readGranary s p (admMapped s p).2.1.ranks (listedAt s (admMapped s p).2.2)
def admBlocks (s : State) (p : Nat) : Reading × List (Nat × Ctx) := readBlocks s p (admRecord s p) (admMapped s p).2.1.seed

/-- The device's own checks accept the record and what it names (R460). -/
structure AdmAccepted (s : State) (p : Nat) : Prop where
  quads : quadsOf s p ≠ 0
  full : s.boot.minimal = false
  hub : (hubGrant s p).2 ≠ 0
  placed : partArea s p (admKey s p) 64 64 = true
  good : badUnit s (admKey s p) 64 = none
  record : checkAdmission s p (admRecord s p) = 0
  mapping : (admMapped s p).1.reason = 0
  granary : (admGranary s p).1.reason = 0
  blocks : (admBlocks s p).1.reason = 0
  unsealed : sealedBad s p (admRecord s p) (admMapped s p).2.2 = false

/-- The record and what it names are read. -/
def admRead (s : State) (p : Nat) : State :=
  readSpans s false ([(admKey s p, 64)] ++ (admMapped s p).1.spans ++ (admGranary s p).1.spans ++ (admBlocks s p).1.spans)

/-- The job that an accepted record describes, for a device of this rank. -/
def offeredJob (s : State) (p rank : Nat) : Job where
  jobId := BitVec.ofNat 32 (wordAt (admRecord s p) 1)
  training := admTraining (admRecord s p)
  level := admLevel (admRecord s p)
  ctxMask := BitVec.ofNat 8 (admMask (admRecord s p))
  evalMask := BitVec.ofNat 8 (admEval (admRecord s p))
  mapping := (admMapped s p).2.1.words
  devlist := (admMapped s p).2.2
  granary := (admGranary s p).2
  rank := rank
  pendingAt := s.bell.count

/-- A partition whose admission becomes PENDING with the job and the contexts of its control blocks. -/
def Part.pends (v : Part) (j : Job) (blocks : List (Nat × Ctx)) : Part :=
  { v with
    pendingJob := some j, admission := .pending, admitReason := 0,
    ctxs := blocks.foldl (fun c e => mset {} c e.1 e.2) v.ctxs }

theorem admitStart_unready {p : Nat} (h : quadsOf s p = 0 ∨ s.boot.minimal = true) : admitStart s p = refuseJob s p 9 none := by
  unfold admitStart
  exact if_pos (h.imp_right .inr)

theorem admitStart_accepted {p : Nat} (h : AdmAccepted s p) :
    let k := rankOf (admRead s p) (admMapped s p).2.2
    admitStart s p = k.2.modPart p (·.pends (offeredJob s p k.1) (admBlocks s p).2) := by
  obtain ⟨hquads, hfull, hhub, hplaced, hgood, hrecord, hmapping, hgranary, hblocks, hunsealed⟩ := h
  have hready : ¬ (quadsOf s p = 0 ∨ (hubGrant s p).2 = 0 ∨ s.boot.minimal = true) := by simp [hquads, hhub, hfull]
  simp only [admRecord, admMapped, admKey, admGranary, admBlocks, listedAt]
    at hplaced hgood hrecord hmapping hgranary hblocks hunsealed
  unfold admitStart
  simp only [if_neg hready, hplaced, hgood, hrecord, hmapping, hgranary, hblocks, hunsealed, readSpans_append, ne_eq,
    not_true_eq_false, if_false, Bool.not_true, Bool.false_eq_true]
  rfl

theorem rankOf_listed {l : List DevEntry} {k : Nat} (h : listedAt s l = some k) : rankOf s l = (k, s) := by
  unfold listedAt at h
  rw [rankOf, h]

theorem rankOf_part (s : State) (l : List DevEntry) (p : Nat) : (rankOf s l).2.part p = s.part p :=
  part_of_parts ((within_rankOf (S := (· ∈ [Piece.free])) at0 s l (within_refl _ s)).parts (by decide)) p

theorem admRead_part (s : State) (p q : Nat) : (admRead s p).part q = s.part q :=
  part_of_parts (changes_readSpans s false _ .parts (by decide)) q

theorem listedAt_admRead (s : State) (p : Nat) (l : List DevEntry) : listedAt (admRead s p) l = listedAt s l := by
  have h : (admRead s p).fuses = s.fuses := changes_readSpans s false _ .fuses (by decide)
  rw [listedAt, h]
  rfl

/-- An accepted record's job is pending, this device's rank in it its place in the list. -/
theorem admitStart_pends {p : Nat} (h : AdmAccepted s p) : ∃ rank,
    (admitStart s p).part p = (s.part p).pends (offeredJob s p rank) (admBlocks s p).2 ∧
      ∀ k, listedAt s (admMapped s p).2.2 = some k → rank = k := by
  refine ⟨(rankOf (admRead s p) (admMapped s p).2.2).1, ?_, fun k hk => ?_⟩
  · rw [admitStart_accepted h, State.part_modPart, rankOf_part, admRead_part]
  · rw [rankOf_listed ((listedAt_admRead s p _).trans hk)]

theorem execAdmitJob_served {init p : Nat} (h : Served s init (jobCmdAddr p) true) :
    execAdmitJob ⟨init, false⟩ p s = .next (jobAdmit (disarm s (pnPart p)) init p 1) := by
  rw [execAdmitJob, ctlWrite_served h, jobCmdAddr_page]

theorem execAdmitJob_ignored {init p : Nat} (h : Served s init (jobCmdAddr p) true) (hp : (s.part p).admission = .pending) :
    execAdmitJob ⟨init, false⟩ p s = .next (ignoreWrite (disarm s (pnPart p)) 6 init (jobCmdAddr p) 1) := by
  rw [execAdmitJob_served h, jobAdmit, disarm_part, if_pos hp]

theorem execAdmitJob_starts {init p : Nat} (h : Served s init (jobCmdAddr p) true) (hp : (s.part p).admission ≠ .pending) :
    execAdmitJob ⟨init, false⟩ p s = .next (admitStart (disarm s (pnPart p)) p) := by
  rw [execAdmitJob_served h, jobAdmit, disarm_part, if_neg hp]

/-! ### ADMITTED -/

theorem changeCycle_part (s t : State) (p : Nat) : ∃ cycle ends,
    (changeCycle s t p).part p = { t.part p with cycle := cycle, cycleEnds := ends } := by
  rw [changeCycle, State.part_modPart]
  split
  · exact ⟨_, _, rfl⟩
  · exact ⟨_, _, rfl⟩

theorem switchIn_part (s : State) (p : Nat) (x : Option Nat) : (switchIn s p x).part p = { s.part p with cur := x } := by
  have h : (switchIn s p x).parts = (s.modPart p fun v => { v with cur := x }).parts :=
    (within_foldl (S := (· ∈ [Piece.cores])) _ _ _ (fun _ _ ht => within_State_modCore at0 _ _ _ ht)
      (within_refl _ _)).parts (by decide)
  rw [part_of_parts h, State.part_modPart]

/-- The contexts of a job become RUNNABLE. -/
def runnableCtxs (j : Job) (xs : List Nat) (m : SMap Ctx) : SMap Ctx :=
  xs.foldl (fun c x => mset {} c x { mget {} c x with phase := .runnable, isEval := j.evalMask.getLsbD x }) m

theorem runnableCtxs_runnable (j : Job) (xs : List Nat) (m : SMap Ctx) (x : Nat)
    (h : x ∈ xs ∨ (mget {} m x).phase = .runnable) : (mget {} (runnableCtxs j xs m) x).phase = .runnable := by
  induction xs generalizing m with
  | nil => exact h.resolve_left List.not_mem_nil
  | cons y r ih =>
    refine ih _ ?_
    rw [mget_mset]
    split
    · exact .inr rfl
    · next hy => exact h.imp_left fun hm => (List.mem_cons.1 hm).resolve_left hy

theorem mem_maskCtxs {m : BitVec 8} {x : Nat} : x ∈ maskCtxs m.toNat ↔ x < 8 ∧ m.getLsbD x = true := by
  rw [maskCtxs, List.mem_filter, List.mem_range, BitVec.testBit_toNat]

theorem clearSems_part (s : State) (p x q : Nat) : (clearSems s p x).part q = s.part q :=
  part_of_parts ((within_clearSems (S := (· ∈ [.mem, .bad, .softBad, .hbmErr, .burstKey, .pages, .dies, .crier, .flash]))
    at0 at1 at2 at3 at4 at5 at6 at7 at8 s p x (within_refl _ s)).parts (by decide)) q

theorem foldl_clearSems_part (s : State) (p q : Nat) (xs : List Nat) :
    (xs.foldl (fun (t : State) x => clearSems t p x) s).part q = s.part q :=
  List.foldlRecOn xs _ (motive := fun t : State => t.part q = s.part q) rfl fun t ht x _ => (clearSems_part t p x q).trans ht

/-- A partition that admits a job: but for the slice cycle and the current context, which may be chosen anew. -/
theorem admitDone_part (s : State) (p : Nat) (j : Job) : ∃ cycle ends cur, (admitDone s p j).part p = { s.part p with
    cycle := cycle, cycleEnds := ends, cur := cur,
    jobs := (s.part p).jobs ++ [j], pendingJob := none, admission := .admitted, admitReason := 0,
    ctxs := runnableCtxs j (maskCtxs j.ctxMask.toNat) (s.part p).ctxs } := by
  unfold admitDone
  extract_lets xs s1 s2 s3
  obtain ⟨cycle, ends, h2⟩ := changeCycle_part s (s1.modPart p fun v => { v with
    jobs := v.jobs ++ [j], pendingJob := none, admission := .admitted, admitReason := 0, ctxs := runnableCtxs j xs v.ctxs }) p
  rw [State.part_modPart, show s1.part p = s.part p from foldl_clearSems_part s p p xs] at h2
  have h3 : ∃ cur, s3.part p = { s2.part p with cur := cur } := by
    unfold s3
    split
    · exact ⟨_, switchIn_part _ _ _⟩
    · exact ⟨_, rfl⟩
  obtain ⟨cur, h3⟩ := h3
  exact ⟨cycle, ends, cur, by rw [setEvent_part, h3, show s2.part p = _ from h2]⟩

/-! ### The digests, or their absence -/

section
variable {p : Nat} {j : Job} (h : (s.part p).pendingJob = some j)
include h

theorem execAdmitDigestDone_pending (allMatch : Bool) : execAdmitDigestDone p allMatch s =
    .next (if allMatch then admitDone s p j else refuseJob s p 0x0A none) := by
  simp only [execAdmitDigestDone, h]

theorem execAdmitTimeout_pending : execAdmitTimeout p s =
    .next (if j.pendingAt.toNat + 156250000 ≤ s.bell.count.toNat then refuseJob s p 0x0A none else s) := by
  simp only [execAdmitTimeout, h]

end

/-- Settles O49: ADMIT by the state of the admission and the device's own checks, a pending admission by what ends it. -/
theorem jobsAdmitted : Obligations.JobsAdmitted := by
  unfold Obligations.JobsAdmitted
  intro s init part _ s0 at_ ws m listed refused
  have hrefused {t : State} {reason : Nat} (h : JobRefused s part reason t) : refused t reason :=
    ⟨h.admission, h.reason, h.pending, h.event, h.jobs⟩
  have hdisarmed {S : Piece → Prop} (hp : S .pages) : Within S s s0 := within_disarm hp s _ (within_refl _ s)
  have hreads : s0.reads = s.reads := reads_of_storage (storage_disarm s (pnPart part))
  refine ⟨fun hs hp => ?ignored, fun hs hp hno => ?unready, fun hs hp hq hfull hhub hplaced hgood hrecord hmapping hgranary
    hblocks hunsealed => ?pends, fun j hj => ⟨?differ, fun hlate => ?late, fun hsoon => ?soon, ?admitted⟩⟩
  case ignored =>
    exact ⟨_, execAdmitJob_ignored hs hp, onlyPage_ignoreWrite s (jobCmdAddr_page part) _ _ _⟩
  case unready =>
    have hno0 : quadsOf s0 part = 0 ∨ s0.boot.minimal = true := by rwa [quadsOf_of_reads hreads]
    refine ⟨_, (execAdmitJob_starts hs hp).trans (congrArg _ (admitStart_unready hno0)),
      changes_of (within_refuseJob at0 at1 at2 _ _ _ _ (hdisarmed at0)), hrefused (jobRefused_refuseJob s0 part 9).of_disarm⟩
  case pends =>
    have hat : at_ = admKey s0 part := by simp only [at_, s0, admKey, State.regAddr, regN_disarm]
    clear_value at_
    subst hat
    rw [← quadsOf_of_reads hreads] at hq
    rw [← hubGrant_of_reads hreads] at hhub
    obtain ⟨rank, hpart, hrank⟩ := admitStart_pends (s := s0) (p := part)
      ⟨hq, hfull, hhub, hplaced, hgood, hrecord, hmapping, hgranary, hblocks, hunsealed⟩
    refine ⟨_, offeredJob s0 part rank, execAdmitJob_starts hs hp,
      changes_of (within_admitStart at0 at1 at2 at3 at4 at5 at6 _ _ (hdisarmed at2)), ?_, ?_, ?_, rfl, rfl, rfl, rfl, rfl,
      hrank⟩
    · rw [hpart]; rfl
    · rw [hpart]; rfl
    · rw [hpart, disarm_part]; rfl
  case differ =>
    exact ⟨_, execAdmitDigestDone_pending hj false, hrefused (jobRefused_refuseJob s part 0x0A)⟩
  case late =>
    exact ⟨_, (execAdmitTimeout_pending hj).trans (congrArg _ (if_pos hlate)), hrefused (jobRefused_refuseJob s part 0x0A)⟩
  case soon =>
    exact (execAdmitTimeout_pending hj).trans (congrArg _ (if_neg (Nat.not_le.2 hsoon)))
  case admitted =>
    obtain ⟨cycle, ends, cur, hpart⟩ := admitDone_part s part j
    refine ⟨_, execAdmitDigestDone_pending hj true, ?_⟩
    rw [if_pos rfl, hpart]
    exact ⟨rfl, rfl, rfl, fun x hx hm => runnableCtxs_runnable j _ _ x (.inl (mem_maskCtxs.2 ⟨hx, hm⟩))⟩

end Sys2Proof.Machine

/-! What every step keeps: the canonical form of memory, and what the fuses hold (R476, R536, R537). -/

namespace Sys2Proof.Machine

variable {c : Instr} {s t : State}

/-- What every step keeps, from one state to the next. -/
def InvariantsKept (s t : State) : Prop := (MemOk s → MemOk t) ∧ FusesKept s.fuses t.fuses

theorem invariantsKept_of_within {S : Piece → Prop} (h : Within S s t) : InvariantsKept s t := ⟨h.form, h.fuse⟩

theorem invariantsKept_refl (s : State) : InvariantsKept s s := invariantsKept_of_within (within_refl (fun _ => True) s)

/-- Where neither memory nor the fuses may change, there is nothing to keep. -/
theorem invariantsKept_of_changes {L : List Piece} (h : Changes L s t) (hm : .mem ∉ L) (hf : .fuses ∉ L) :
    InvariantsKept s t := by
  have hmem : t.mem = s.mem := h .mem hm
  have hfuses : t.fuses = s.fuses := h .fuses hf
  exact ⟨fun ok => by rwa [MemOk, hmem], hfuses ▸ fusesKept_refl _⟩

/-- The law of an operation, with every part allowed to change, gives what its command keeps. -/
theorem exec_keeps_of_within (h : Within (fun _ => True) s s → ∀ t, exec c s = .next t → Within (fun _ => True) s t) :
    ∀ t, exec c s = .next t → InvariantsKept s t :=
  fun t e => invariantsKept_of_within (h (within_refl _ s) t e)

/-- A command that writes neither memory nor the fuses keeps both by what it touches. -/
theorem exec_keeps_of_touches (h : .mem ∉ touches c ∧ .fuses ∉ touches c) :
    ∀ t, exec c s = .next t → InvariantsKept s t :=
  fun t e => invariantsKept_of_changes (Laws.Touches.holds c s t e) h.1 h.2

/-- Each command that writes memory or the fuses keeps the invariants by the law of its operation, the others by what they
touch. -/
theorem exec_invariantsKept (c : Instr) (s : State) : ∀ t, exec c s = .next t → InvariantsKept s t := by
  match c with
  | .heldWriteRelease .. => exact exec_keeps_of_within (by apply within_execHeldWriteRelease <;> trivial)
  | .recordFetch .. => exact exec_keeps_of_within (by apply within_execRecordFetch <;> trivial)
  | .nop .. => exact exec_keeps_of_within (by apply within_execNop <;> trivial)
  | .matmul .. => exact exec_keeps_of_within (by apply within_execMatmul <;> trivial)
  | .gatherHoldExpiry .. => exact exec_keeps_of_within (by apply within_execGatherHoldExpiry <;> trivial)
  | .matmulT .. => exact exec_keeps_of_within (by apply within_execMatmulT <;> trivial)
  | .accRead .. => exact exec_keeps_of_within (by apply within_execAccRead <;> trivial)
  | .reduceX .. => exact exec_keeps_of_within (by apply within_execReduceX <;> trivial)
  | .attnFwd .. => exact exec_keeps_of_within (by apply within_execAttnFwd <;> trivial)
  | .attnBwd .. => exact exec_keeps_of_within (by apply within_execAttnBwd <;> trivial)
  | .attnDecode .. => exact exec_keeps_of_within (by apply within_execAttnDecode <;> trivial)
  | .couch .. => exact exec_keeps_of_within (by apply within_execCouch <;> trivial)
  | .conv .. => exact exec_keeps_of_within (by apply within_execConv <;> trivial)
  | .vec .. => exact exec_keeps_of_within (by apply within_execVec <;> trivial)
  | .vecProg .. => exact exec_keeps_of_within (by apply within_execVecProg <;> trivial)
  | .updateP1 .. => exact exec_keeps_of_within (by apply within_execUpdateP1 <;> trivial)
  | .updateP2 .. => exact exec_keeps_of_within (by apply within_execUpdateP2 <;> trivial)
  | .move .. => exact exec_keeps_of_within (by apply within_execMove <;> trivial)
  | .gather .. => exact exec_keeps_of_within (by apply within_execGather <;> trivial)
  | .scatter .. => exact exec_keeps_of_within (by apply within_execScatter <;> trivial)
  | .signal .. => exact exec_keeps_of_within (by apply within_execSignal <;> trivial)
  | .wait .. => exact exec_keeps_of_within (by apply within_execWait <;> trivial)
  | .waitTimeout .. => exact exec_keeps_of_within (by apply within_execWaitTimeout <;> trivial)
  | .fence .. => exact exec_keeps_of_within (by apply within_execFence <;> trivial)
  | .boundary .. => exact exec_keeps_of_within (by apply within_execBoundary <;> trivial)
  | .tileResident .. => exact exec_keeps_of_within (by apply within_execTileResident <;> trivial)
  | .writebackAck .. => exact exec_keeps_of_within (by apply within_execWritebackAck <;> trivial)
  | .trapRecord .. => exact exec_keeps_of_within (by apply within_execTrapRecord <;> trivial)
  | .almanacTailWrite .. => exact exec_keeps_of_within (by apply within_execAlmanacTailWrite <;> trivial)
  | .prefetch .. => exact exec_keeps_of_within (by apply within_execPrefetch <;> trivial)
  | .send .. => exact exec_keeps_of_within (by apply within_execSend <;> trivial)
  | .recvExpect .. => exact exec_keeps_of_within (by apply within_execRecvExpect <;> trivial)
  | .stepBoundary .. => exact exec_keeps_of_within (by apply within_execStepBoundary <;> trivial)
  | .toll .. => exact exec_keeps_of_within (by apply within_execToll <;> trivial)
  | .tollLevelDeadline .. => exact exec_keeps_of_within (by apply within_execTollLevelDeadline <;> trivial)
  | .evalWindowClose .. => exact exec_keeps_of_within (by apply within_execEvalWindowClose <;> trivial)
  | .retrainWindowClose .. => exact exec_keeps_of_within (by apply within_execRetrainWindowClose <;> trivial)
  | .checkpoint .. => exact exec_keeps_of_within (by apply within_execCheckpoint <;> trivial)
  | .wake .. => exact exec_keeps_of_within (by apply within_execWake <;> trivial)
  | .entryComplete .. => exact exec_keeps_of_within (by apply within_execEntryComplete <;> trivial)
  | .deadlineMiss .. => exact exec_keeps_of_within (by apply within_execDeadlineMiss <;> trivial)
  | .waitLimitExpiry .. => exact exec_keeps_of_within (by apply within_execWaitLimitExpiry <;> trivial)
  | .bellTick .. => exact exec_keeps_of_within (by apply within_execBellTick <;> trivial)
  | .epochMark .. => exact exec_keeps_of_within (by apply within_execEpochMark <;> trivial)
  | .write .. => exact exec_keeps_of_within (by apply within_execWrite <;> trivial)
  | .read .. => exact exec_keeps_of_within (by apply within_execRead <;> trivial)
  | .readResp .. => exact exec_keeps_of_within (by apply within_execReadResp <;> trivial)
  | .atomic .. => exact exec_keeps_of_within (by apply within_execAtomic <;> trivial)
  | .atomicResp .. => exact exec_keeps_of_within (by apply within_execAtomicResp <;> trivial)
  | .tileRts .. => exact exec_keeps_of_within (by apply within_execTileRts <;> trivial)
  | .tileData .. => exact exec_keeps_of_within (by apply within_execTileData <;> trivial)
  | .collective .. => exact exec_keeps_of_within (by apply within_execCollective <;> trivial)
  | .vote .. => exact exec_keeps_of_within (by apply within_execVote <;> trivial)
  | .result .. => exact exec_keeps_of_within (by apply within_execResult <;> trivial)
  | .msgAck .. => exact exec_keeps_of_within (by apply within_execMsgAck <;> trivial)
  | .msgNak .. => exact exec_keeps_of_within (by apply within_execMsgNak <;> trivial)
  | .bell .. => exact exec_keeps_of_within (by apply within_execBell <;> trivial)
  | .contextTimeout .. => exact exec_keeps_of_within (by apply within_execContextTimeout <;> trivial)
  | .ctxClose .. => exact exec_keeps_of_within (by apply within_execCtxClose <;> trivial)
  | .linkReqWrite .. => exact exec_keeps_of_within (by apply within_execLinkReqWrite <;> trivial)
  | .linkReqRead .. => exact exec_keeps_of_within (by apply within_execLinkReqRead <;> trivial)
  | .linkReqAtomic .. => exact exec_keeps_of_within (by apply within_execLinkReqAtomic <;> trivial)
  | .reduceScatter .. => exact exec_keeps_of_within (by apply within_execReduceScatter <;> trivial)
  | .allGather .. => exact exec_keeps_of_within (by apply within_execAllGather <;> trivial)
  | .allReduce .. => exact exec_keeps_of_within (by apply within_execAllReduce <;> trivial)
  | .linkReqComplete .. => exact exec_keeps_of_within (by apply within_execLinkReqComplete <;> trivial)
  | .admitDigestDone .. => exact exec_keeps_of_within (by apply within_execAdmitDigestDone <;> trivial)
  | .endJob .. => exact exec_keeps_of_within (by apply within_execEndJob <;> trivial)
  | .discard .. => exact exec_keeps_of_within (by apply within_execDiscard <;> trivial)
  | .sliceStart .. => exact exec_keeps_of_within (by apply within_execSliceStart <;> trivial)
  | .tileKill .. => exact exec_keeps_of_within (by apply within_execTileKill <;> trivial)
  | .saveRestore .. => exact exec_keeps_of_within (by apply within_execSaveRestore <;> trivial)
  | .seal .. => exact exec_keeps_of_within (by apply within_execSeal <;> trivial)
  | .unseal .. => exact exec_keeps_of_within (by apply within_execUnseal <;> trivial)
  | .load .. => exact exec_keeps_of_within (by apply within_execLoad <;> trivial)
  | .attest .. => exact exec_keeps_of_within (by apply within_execAttest <;> trivial)
  | .pwrEnAssert .. => exact exec_keeps_of_within (by apply within_execPwrEnAssert <;> trivial)
  | .pwrEnDeassert .. => exact exec_keeps_of_within (by apply within_execPwrEnDeassert <;> trivial)
  | .undervoltage .. => exact exec_keeps_of_within (by apply within_execUndervoltage <;> trivial)
  | .overvoltage .. => exact exec_keeps_of_within (by apply within_execOvervoltage <;> trivial)
  | .modRstNAssert .. => exact exec_keeps_of_within (by apply within_execModRstNAssert <;> trivial)
  | .thermalShutdown .. => exact exec_keeps_of_within (by apply within_execThermalShutdown <;> trivial)
  | .heldResetRelease .. => exact exec_keeps_of_within (by apply within_execHeldResetRelease <;> trivial)
  | .warmReset .. => exact exec_keeps_of_within (by apply within_execWarmReset <;> trivial)
  | .dieReset .. => exact exec_keeps_of_within (by apply within_execDieReset <;> trivial)
  | .coreReset .. => exact exec_keeps_of_within (by apply within_execCoreReset <;> trivial)
  | .bootRom .. => exact exec_keeps_of_within (by apply within_execBootRom <;> trivial)
  | .stage1 .. => exact exec_keeps_of_within (by apply within_execStage1 <;> trivial)
  | .stage2 .. => exact exec_keeps_of_within (by apply within_execStage2 <;> trivial)
  | .startWatchdogExpiry .. => exact exec_keeps_of_within (by apply within_execStartWatchdogExpiry <;> trivial)
  | .raevoReset .. => exact exec_keeps_of_within (by apply within_execRaevoReset <;> trivial)
  | .registerAccessFrame .. => exact exec_keeps_of_within (by apply within_execRegisterAccessFrame <;> trivial)
  | .expertKey .. => exact exec_keeps_of_within (by apply within_execExpertKey <;> trivial)
  | .expertLock .. => exact exec_keeps_of_within (by apply within_execExpertLock <;> trivial)
  | .evtStatusWrite .. => exact exec_keeps_of_within (by apply within_execEvtStatusWrite <;> trivial)
  | .evtForce .. => exact exec_keeps_of_within (by apply within_execEvtForce <;> trivial)
  | .shadowDiscard .. => exact exec_keeps_of_within (by apply within_execShadowDiscard <;> trivial)
  | .opkeyBurn .. => exact exec_keeps_of_within (by apply within_execOpkeyBurn <;> trivial)
  | .registerWrite .. => exact exec_keeps_of_within (by apply within_execRegisterWrite <;> trivial)
  | .supplyValid .. => exact exec_keeps_of_within (by apply within_execSupplyValid <;> trivial)
  | .doorbell .. | .partitionBoundary .. | .boundaryArm .. | .evalWindow .. | .retrainWindow .. | .measurementWindow ..
  | .bellUnlock .. | .glitch .. | .openMsg .. | .negotiate .. | .linkCtl .. | .idle .. | .linkReplay ..
  | .fecUncorrectable .. | .frame .. | .priorityPause .. | .priorityPauseExpiry .. | .retransmit .. | .linkRetrain ..
  | .linkRetrainDone .. | .portTraining .. | .ctxOpen .. | .linkReqTailWrite .. | .d2dReplay .. | .hbmRetrainTrigger ..
  | .hbmRetrainEnd .. | .retrainDue .. | .admitJob .. | .admitTimeout .. | .jobCmdBoundary .. | .suspend .. | .resume ..
  | .drainCut .. | .domainRegulation .. | .modRstNRelease .. | .throttleNAssert .. | .throttleNDeassert ..
  | .throttleLong .. | .droopSag .. | .droopDeep .. | .droopRecover .. | .droopHoldEnd .. | .capPeriod ..
  | .fastLimit .. | .supplyWarn .. | .resetComplete .. | .bootOk .. | .info .. | .readFlash .. | .writeSlot ..
  | .commitSlot .. | .clearCounter .. | .deviceId .. | .state .. | .supply .. | .temps .. | .alertCause ..
  | .alertClear .. | .clocks .. | .fail .. | .cap .. | .alertResponse .. | .smbusTimeout .. | .rcRead ..
  | .counterLowRead .. =>
    exact exec_keeps_of_touches (by simp [touches])

/-- The block idles on an empty queue. -/
theorem step_of_pending_nil (h : s.pending = []) : step s = .next s := by rw [step, h]

/-- Else the command at the front has its effect. -/
theorem step_of_pending_cons {rest : List Instr} (h : s.pending = c :: rest) :
    step s = exec c { s with pending := rest } := by rw [step, h]

/-- Settles O2: an empty queue leaves the state as it is, and the command at the front keeps the invariants. -/
theorem stepKeepsInvariants : Obligations.StepKeepsInvariants := by
  unfold Obligations.StepKeepsInvariants
  intro s t e
  cases hp : s.pending with
  | nil =>
    obtain rfl : s = t := Host.Outcome.next.inj ((step_of_pending_nil hp).symm.trans e)
    exact invariantsKept_refl s
  | cons c rest => exact exec_invariantsKept c { s with pending := rest } t ((step_of_pending_cons hp).symm.trans e)

end Sys2Proof.Machine

/-! The step, and the common words of a page: EVT_STATUS, PAGE_MODE, PAGE_SHADOW and EXPERT_KEY (R526, R528, R529, R532, R535). -/

namespace Sys2Proof.Machine

variable (s : State)

/-- Settles O1: the law of the step on a queue that is not empty. -/
theorem stepRunsFront : Obligations.StepRunsFront := by
  unfold Obligations.StepRunsFront
  intro c s rest h
  exact step_of_pending_cons h

/-! ### What the common words do to their page -/

/-- What a write of EVT_STATUS leaves of a page. -/
def Page.clearEvents (p : Page) (value : Word) : Page :=
  { p with evtStatus := p.evtStatus &&& ~~~value,
           capture := if p.evtStatus &&& ~~~value = 0 then none else p.capture }

theorem writeEvents_eq (pn : Nat) (value : Word) :
    writeEvents s pn value.toNat = s.modPage pn fun p => p.clearEvents value := by
  simp only [writeEvents, ofNat_toNat_word]
  rfl

/-- PAGE_MODE leaves the page unlocked only with bit 0 set (R526). -/
theorem writeMode_page (pn : Nat) (value : Word) :
    (writeMode s pn value.toNat).page pn = { s.page pn with expertEn := (s.page pn).expertEn && value.getLsbD 0 } := by
  unfold writeMode
  rw [show value.toNat.testBit 0 = value.getLsbD 0 from rfl]
  cases value.getLsbD 0 <;> simp

theorem writeMode_page_ne (pn v : Nat) {k : Nat} (h : k ≠ pn) : (writeMode s pn v).page k = s.page k := by
  unfold writeMode
  split
  · rfl
  · exact State.page_modPage_ne _ _ _ _ h

/-- DISCARD drops the shadow of a page that has one (R535). -/
theorem writeShadow_page (pn ty : Nat) (value : Word) :
    (writeShadow s pn ty value.toNat).page pn =
      { s.page pn with shadow := if hasShadow ty && value.getLsbD 1 then [] else (s.page pn).shadow } := by
  unfold writeShadow
  rw [show value.toNat.testBit 1 = value.getLsbD 1 from rfl]
  split
  · rw [State.page_modPage]
  · rfl

theorem writeShadow_page_ne (pn ty v : Nat) {k : Nat} (h : k ≠ pn) : (writeShadow s pn ty v).page k = s.page k := by
  unfold writeShadow
  split
  · exact State.page_modPage_ne _ _ _ _ h
  · rfl

/-- What a write of EXPERT_KEY leaves of a page, `free` if the page is of no sealed partition (R483, R528). -/
def Page.takeKey (p : Page) (free : Bool) (armed : Option Nat) (init : Nat) (value : Word) : Page :=
  { p with
    expertEn := p.expertEn || (free && decide (armed = some init) && decide (value = 0x95#32)),
    keyArmed := if free && decide (value = 0x6A#32) then some init else p.keyArmed }

theorem writeKey_page (armed : Option Nat) (init pn : Nat) (value : Word) :
    (writeKey s armed init pn value.toNat).page pn = (s.page pn).takeKey (!sealedPage s pn) armed init value := by
  have h95 : value.toNat = 0x95 ↔ value = 0x95#32 := by rw [BitVec.toNat_eq]; rfl
  have h6A : value.toNat = 0x6A ↔ value = 0x6A#32 := by rw [BitVec.toNat_eq]; rfl
  simp only [writeKey, h95, h6A]
  split
  · next hsealed => simp [Page.takeKey, hsealed]
  · next hfree =>
    split
    · next hkey => simp [Page.takeKey, hfree, hkey]
    · next hkey =>
      split
      · next harm => simp [Page.takeKey, hfree, harm]
      · next harm =>
        have hno : (decide (armed = some init) && decide (value = 0x95#32)) = false := by
          rw [← Bool.decide_and, decide_eq_false hkey]
        simp [Page.takeKey, hfree, harm, hno]

theorem writeKey_page_ne (armed : Option Nat) (init pn v : Nat) {k : Nat} (h : k ≠ pn) :
    (writeKey s armed init pn v).page k = s.page k := by
  unfold writeKey
  split
  · rfl
  · split
    · exact State.page_modPage_ne _ _ _ _ h
    · split
      · exact State.page_modPage_ne _ _ _ _ h
      · rfl

/-! ### The writes -/

/-- A write at a page of an access that has disarmed its key changes that page alone, if the write does. -/
theorem onlyPage_after_disarm {pn : Nat} {t : State} (h : Within (· ∈ [Piece.pages]) (disarm s pn) t)
    (hne : ∀ k, k ≠ pn → t.page k = (disarm s pn).page k) : OnlyPage pn s t :=
  ⟨(changes_of (within_disarm at0 s pn (within_refl _ s))).trans (changes_of h),
    fun k hk => (hne k hk).trans (disarm_page_ne s pn k hk)⟩

/-- Settles O6: each write goes on at its page, with the key disarmed, as the law of its word says. -/
theorem commonWordsWritten : Obligations.CommonWordsWritten := by
  unfold Obligations.CommonWordsWritten
  intro s init page value i hpage pn p left
  refine ⟨fun hserved => ?_, fun hserved => ?_, fun hserved => ?_⟩
  · refine ⟨_, congrArg Host.Outcome.next ((regWrite_word (by decide) hserved value.toNat).trans
      ((writeAt_events _ hpage _ _ _).trans (writeEvents_eq _ _ _))), onlyPage_disarm_modPage s pn _, ?_⟩
    rw [State.page_modPage, disarm_page]
    rfl
  · refine ⟨_, congrArg Host.Outcome.next ((regWrite_word (by decide) hserved value.toNat).trans (writeAt_mode _ hpage _ _ _)),
      onlyPage_after_disarm s (within_writeMode at0 _ _ _ (within_refl _ _)) fun k hk => writeMode_page_ne _ _ _ hk, ?_⟩
    rw [writeMode_page, disarm_page]
  · refine ⟨_, congrArg Host.Outcome.next ((regWrite_word (by decide) hserved value.toNat).trans (writeAt_shadow _ hpage _ _ _)),
      onlyPage_after_disarm s (within_writeShadow at0 _ _ _ _ (within_refl _ _)) fun k hk => writeShadow_page_ne _ _ _ _ hk, ?_⟩
    rw [writeShadow_page, disarm_page]

/-- Settles O7: the key is written with the key that was armed before the access. -/
theorem expertKeyWritten : Obligations.ExpertKeyWritten := by
  unfold Obligations.ExpertKeyWritten
  intro s init page value hserved pn p free
  obtain ⟨i, hi⟩ := page_of_served hserved
  rw [pageWordAddr_page _ _ (by decide)] at hi
  refine ⟨_, congrArg Host.Outcome.next ((regWrite_word (by decide) hserved value.toNat).trans (writeAt_key _ hi _ _ _)),
    onlyPage_after_disarm s (within_writeKey at0 _ _ _ _ _ (within_refl _ _)) fun k hk => writeKey_page_ne _ _ _ _ _ hk, ?_⟩
  rw [writeKey_page, disarm_page, sealedPage_disarm]
  rfl

end Sys2Proof.Machine

/-! The burn of the operator key (R536, R537). -/

namespace Sys2Proof.Machine

/-- A served write of OPKEY_BURN, with the expert registers of the FUSE page unlocked, is the burn. -/
theorem regWrite_opkeyBurn {s : State} {init : Nat} (h : Served s init (pnFuse * 0x1000 + 0x840) true)
    (he : (s.page pnFuse).expertEn = true) (v : Nat) :
    regWrite s init 4 (pnFuse * 0x1000 + 0x840) v false = burnKey (disarm s pnFuse) init v := by
  have hexp : ((disarm s pnFuse).page pnFuse).expertEn = true := by rw [disarm_page]; exact he
  rw [regWrite_served h]
  exact writeAt_eq_pageWrite (disarm s pnFuse) (i := { ty := ptFuse, inst := 0 }) rfl _ _ _ (.inl (by decide)) (by decide)
    fun _ => hexp

/-- The upper half of a word, as the number that a field of it is. -/
theorem bits_upper_iff (value : Word) (k : BitVec 16) : bits value.toNat 31 16 = k.toNat ↔ value.extractLsb' 16 16 = k := by
  rw [BitVec.toNat_eq, BitVec.extractLsb'_toNat]
  rfl

@[simp] theorem anySealed_disarm (s : State) (pn : Nat) : anySealed (disarm s pn) = anySealed s := rfl

/-- Settles O9: the condition of the burn is the one stated, and a burn without it is ignored. -/
theorem operatorKeyBurnt : Obligations.OperatorKeyBurnt := by
  unfold Obligations.OperatorKeyBurnt
  intro s init value hserved hexpert ok
  have hrun := regWrite_opkeyBurn hserved hexpert value.toNat
  have hcond : (init = 0 ∧ value.toNat.testBit 0 = true ∧ bits value.toNat 31 16 = 0x0F5E ∧
      (disarm s pnFuse).fuses.opKey.isNone = true ∧ anySealed (disarm s pnFuse) = false) ↔ ok := by
    rw [Option.isNone_iff_eq_none, disarm_fuses, anySealed_disarm]
    exact and_congr_right fun _ => and_congr_right fun _ => and_congr_left fun _ => bits_upper_iff value 0x0F5E#16
  refine ⟨_, congrArg Host.Outcome.next hrun, changes_of (within_burnKey at0 at1 at2 _ _ _
    (within_disarm at0 s pnFuse (within_refl _ s))), ?_⟩
  unfold burnKey
  by_cases hok : ok
  · rw [if_pos (hcond.2 hok), if_pos hok]
    refine ⟨by rw [disarm_boot], fun _ => ?_, fun h => absurd hok h⟩
    simp only [disarm_fuses, regN_disarm]
  · rw [if_neg (mt hcond.1 hok), if_neg hok]
    refine ⟨rfl, fun h => absurd h hok, fun _ => ⟨rfl, ?_⟩⟩
    have h := ignoreWrite_page (disarm s pnFuse) 6 init (pnFuse * 0x1000 + 0x840) value.toNat
    rw [show (pnFuse * 0x1000 + 0x840) / 0x1000 = pnFuse from rfl] at h
    rw [h, disarm_capture]
    rfl

end Sys2Proof.Machine

/-! Reads that latch a high word, take a latched one, or clear the count of dropped records (R12, R534, R539). -/

namespace Sys2Proof.Machine

variable {s : State} {init addr : Nat}

/-- A served read is answered with what its page reads, and disarms the page's key. -/
theorem ctlRead_served (h : Served s init addr false) :
    ctlRead s init 4 addr =
      (disarm (readAt s init (addr / 0x1000) (addr % 0x1000)).1 (addr / 0x1000)).emit
        (.readData init (BitVec.ofNat 32 addr) (BitVec.ofNat 32 (readAt s init (addr / 0x1000) (addr % 0x1000)).2)) := by
  obtain ⟨hctl, hfree, hreason⟩ := h
  simp [ctlRead, answerRead, serveRead, hctl, hfree, hreason]

/-! ### Counters -/

section
variable {pn k : Nat} {i : PageId} (hpage : page? pn = some i) (hk : k < counterCount i.ty)
include hpage hk

/-- Both halves of a counter are read as its 64-bit register. -/
theorem readAt_counter {off : Nat} (hoff : off = 0x080 + 8 * k ∨ off = 0x084 + 8 * k) :
    readAt s init pn off = readWide s init pn i (0x080 + 8 * k) off := by
  have hcount : counterCount i.ty ≤ 16 := counterCount_le i.ty
  have hcommon : commonWord? s pn i off = none := by
    unfold commonWord?
    rw [if_neg (by omega), if_neg (by omega), if_neg (by omega), if_neg (by omega), if_neg (by omega), if_neg (by omega),
      if_neg (by omega), if_neg (by omega), if_neg (by omega)]
  have hwide : wideBase? i.ty off = some (0x080 + 8 * k) := by
    unfold wideBase?
    rw [if_pos (by omega)]
    congr 1
    omega
  simp only [readAt, hpage, hcommon, hwide]
  exact if_neg fun h => by omega

end

/-- A page's counter as it stands when it is read: moved on if only time shows what it counts (log 68). -/
def readyCounter (s : State) (pn : Nat) (i : PageId) (k : Nat) : State :=
  if openCounter s i k then s.countOpen pn k else s

theorem wideValue_counter (s : State) (pn : Nat) (i : PageId) {k : Nat} (hk : k < counterCount i.ty) :
    wideValue s pn i (0x080 + 8 * k) = (readyCounter s pn i k, (readyCounter s pn i k).counter pn k) := by
  have hcount : counterCount i.ty ≤ 16 := counterCount_le i.ty
  unfold wideValue
  rw [if_neg (by omega), if_neg (by omega), show (0x080 + 8 * k - 0x080) / 8 = k by omega]
  rfl

theorem within_readyCounter {S : Piece → Prop} (hf : S .free) (hp : S .pages) (s : State) (pn : Nat) (i : PageId) (k : Nat) :
    Within S s (readyCounter s pn i k) := by
  unfold readyCounter
  split
  · exact within_State_countOpen hf hp _ _ _ (within_refl _ s)
  · exact within_refl _ s

theorem readyCounter_counter_ne (s : State) (pn : Nat) (i : PageId) {k j : Nat} (h : j ≠ k) :
    (readyCounter s pn i k).counter pn j = s.counter pn j := by
  unfold readyCounter
  split
  · exact State.counter_count_ne _ _ _ _ _ h
  · rfl

theorem readyCounter_reg (s : State) (pn : Nat) (i : PageId) (k j off : Nat) :
    (readyCounter s pn i k).reg j off = s.reg j off := by
  unfold readyCounter
  split
  · exact State.reg_count _ _ _ _ _ _
  · rfl

theorem readyCounter_page_ne (s : State) (pn : Nat) (i : PageId) (k : Nat) {j : Nat} (h : j ≠ pn) :
    (readyCounter s pn i k).page j = s.page j := by
  unfold readyCounter
  split
  · exact State.page_count_ne _ _ _ _ _ h
  · rfl

/-- The latches of a page replaced. -/
def latched (s : State) (pn : Nat) (f : SMap Word → SMap Word) : State := s.modPage pn fun p => { p with latches := f p.latches }

@[simp] theorem latched_counter (s : State) (pn : Nat) (f : SMap Word → SMap Word) (j k : Nat) :
    (latched s pn f).counter j k = s.counter j k := by
  by_cases h : j = pn
  · subst h; simp only [State.counter, latched, State.page_modPage]
  · simp only [State.counter, latched, State.page_modPage_ne _ _ _ _ h]

@[simp] theorem latched_reg (s : State) (pn : Nat) (f : SMap Word → SMap Word) (j off : Nat) :
    (latched s pn f).reg j off = s.reg j off := by
  by_cases h : j = pn
  · subst h; simp only [State.reg, latched, State.page_modPage]
  · simp only [State.reg, latched, State.page_modPage_ne _ _ _ _ h]

theorem latched_latches (s : State) (pn : Nat) (f : SMap Word → SMap Word) :
    ((disarm (latched s pn f) pn).page pn).latches = f (s.page pn).latches := by
  rw [disarm_page, latched, State.page_modPage]

theorem within_latched {S : Piece → Prop} {z : State} (hp : S .pages) (pn : Nat) (f : SMap Word → SMap Word) (h : Within S z s) :
    Within S z (latched s pn f) := within_State_modPage hp _ _ _ h

/-- The low word of a counter latches the high word for the initiator (R534). -/
theorem readWide_low (s : State) (init pn : Nat) (i : PageId) {k : Nat} (hk : k < counterCount i.ty) :
    readWide s init pn i (0x080 + 8 * k) (0x080 + 8 * k) =
      (latched (readyCounter s pn i k) pn
          (mput · (latchKey init (0x080 + 8 * k)) (((readyCounter s pn i k).counter pn k).extractLsb' 32 32)),
        ((readyCounter s pn i k).counter pn k).toNat % 2 ^ 32) := by
  simp only [readWide, if_true, wideValue_counter s pn i hk]
  rw [latched]
  congr 3
  funext p
  congr 2
  apply BitVec.eq_of_toNat_eq
  rw [BitVec.toNat_ofNat, BitVec.extractLsb'_toNat, Nat.shiftRight_eq_div_pow]

/-- The high word is the latched one, which is taken. -/
theorem readWide_high (i : PageId) {pn k : Nat} {w : Word}
    (hw : mget? (s.page pn).latches (latchKey init (0x080 + 8 * k)) = some w) :
    readWide s init pn i (0x080 + 8 * k) (0x084 + 8 * k) =
      (latched s pn (merase · (latchKey init (0x080 + 8 * k))), w.toNat) := by
  unfold readWide
  rw [if_neg (by omega), hw]
  rfl

/-! ### The count of dropped records -/

/-- The place of DROPPED of ring `r` in the CRIER page. -/
def droppedOff (r : Nat) : Nat := 0x210 + r * 0x20

/-- DROPPED is read from the crier's ring, whose count starts again (R539). -/
theorem readAt_dropped (s : State) (init : Nat) {r : Nat} (hr : r < 5) :
    readAt s init pnCrier (droppedOff r) =
      (s.setCrierRing r { s.crierRing r with dropped := 0 }, (s.crierRing r).dropped.toNat) := by
  unfold droppedOff
  interval_cases r <;> rfl

/-- A read of the low half of counter `k` leaves a state in which it stands as it was read, its high word latched. -/
def lowRead (s : State) (init pn : Nat) (i : PageId) (k : Nat) : State :=
  disarm (latched (readyCounter s pn i k) pn
    (mput · (latchKey init (0x080 + 8 * k)) (((readyCounter s pn i k).counter pn k).extractLsb' 32 32))) pn

theorem lowRead_counter (s : State) (init pn : Nat) (i : PageId) (k j : Nat) :
    (lowRead s init pn i k).counter pn j = (readyCounter s pn i k).counter pn j := by
  rw [lowRead, disarm_counter, latched_counter]

theorem within_lowRead {S : Piece → Prop} (hf : S .free) (hp : S .pages) (s : State) (init pn : Nat) (i : PageId) (k : Nat) :
    Within S s (lowRead s init pn i k) :=
  within_disarm hp _ _ (within_latched hp _ _ (within_readyCounter hf hp s pn i k))

theorem lowRead_page_ne (s : State) (init pn : Nat) (i : PageId) (k : Nat) {j : Nat} (h : j ≠ pn) :
    (lowRead s init pn i k).page j = s.page j := by
  rw [lowRead, disarm_page_ne _ _ _ h, latched, State.page_modPage_ne _ _ _ _ h, readyCounter_page_ne s pn i k h]

theorem ctlRead_low {low : Nat} {pn k : Nat} {i : PageId} (hpage : page? pn = some i) (hk : k < counterCount i.ty)
    (hlow : low = pn * 0x1000 + 0x080 + 8 * k) (h : Served s init low false) :
    ctlRead s init 4 low = (lowRead s init pn i k).emit
      (.readData init (BitVec.ofNat 32 low) (((lowRead s init pn i k).counter pn k).setWidth 32)) := by
  have hcount := counterCount_le i.ty
  have hword : BitVec.ofNat 32 (((readyCounter s pn i k).counter pn k).toNat % 2 ^ 32) =
      ((readyCounter s pn i k).counter pn k).setWidth 32 :=
    BitVec.eq_of_toNat_eq (by rw [BitVec.toNat_ofNat, Nat.mod_mod, BitVec.toNat_setWidth])
  rw [ctlRead_served h, show low / 0x1000 = pn by omega, show low % 0x1000 = 0x080 + 8 * k by omega,
    readAt_counter hpage hk (.inl rfl), readWide_low s init pn i hk, lowRead_counter, ← hword]
  rfl

theorem ctlRead_high {high : Nat} {pn k : Nat} {i : PageId} {w : Word} (hpage : page? pn = some i) (hk : k < counterCount i.ty)
    (hhigh : high = pn * 0x1000 + 0x084 + 8 * k) (h : Served s init high false)
    (hw : mget? (s.page pn).latches (latchKey init (0x080 + 8 * k)) = some w) :
    ctlRead s init 4 high = (disarm (latched s pn (merase · (latchKey init (0x080 + 8 * k)))) pn).emit
      (.readData init (BitVec.ofNat 32 high) w) := by
  have hcount := counterCount_le i.ty
  rw [ctlRead_served h, show high / 0x1000 = pn by omega, show high % 0x1000 = 0x084 + 8 * k by omega,
    readAt_counter hpage hk (.inr rfl), readWide_high i hw, ofNat_toNat_word]

theorem ctlRead_dropped {r : Nat} (hr : r < 5) (h : Served s init (pnCrier * 0x1000 + droppedOff r) false) :
    ctlRead s init 4 (pnCrier * 0x1000 + droppedOff r) =
      (disarm (s.setCrierRing r { s.crierRing r with dropped := 0 }) pnCrier).emit
        (.readData init (BitVec.ofNat 32 (pnCrier * 0x1000 + droppedOff r)) (s.crierRing r).dropped) := by
  have hoff : droppedOff r < 0x1000 := by unfold droppedOff; omega
  rw [ctlRead_served h, show (pnCrier * 0x1000 + droppedOff r) / 0x1000 = pnCrier by omega,
    show (pnCrier * 0x1000 + droppedOff r) % 0x1000 = droppedOff r by omega, readAt_dropped s init hr, ofNat_toNat_word]

/-- Settles O13: a read is served at its page; the halves of a counter and DROPPED are read as their laws say. -/
theorem counterHalvesRead : Obligations.CounterHalvesRead := by
  unfold Obligations.CounterHalvesRead
  intro s init pn k low high i w hpage _ islatched
  refine ⟨fun ⟨hk, hlow, _⟩ hserved => ?_, fun ⟨hk, hlow, hhigh⟩ hserved hw => ?_, fun r hr hlow hserved => ?_⟩
  · have hrun := ctlRead_low hpage hk hlow hserved
    rw [ofNat_toNat_word] at hrun
    refine ⟨_, congrArg Host.Outcome.next hrun, changes_of (within_State_emit at2 _ _ (within_lowRead at0 at1 s init pn i k)),
      ?_, ?_, fun hopen => ?_, fun j hj => ?_, fun off => ?_, fun j hj => ?_⟩
    · have hout := (within_lowRead (S := (· ∈ [Piece.free, .pages])) at0 at1 s init pn i k).out (by decide)
      rw [State.emit_counter]
      exact congrArg (· ++ _) hout
    · rw [State.emit_page, State.emit_counter, lowRead_counter, lowRead, latched_latches, mget?_mput_same]
    · have hclosed : readyCounter s pn i k = s := if_neg (by rw [hopen]; exact Bool.false_ne_true)
      rw [State.emit_counter, lowRead_counter, hclosed]
      exact ⟨(congrArg State.free hclosed :), rfl⟩
    · rw [State.emit_counter, lowRead_counter, readyCounter_counter_ne s pn i hj]
    · rw [State.emit_reg, lowRead, disarm_reg, latched_reg, readyCounter_reg]
    · exact lowRead_page_ne s init pn i k hj
  · have hrun := ctlRead_high hpage hk (by omega) hserved hw
    rw [ofNat_toNat_word] at hrun
    refine ⟨_, congrArg Host.Outcome.next hrun, changes_of (within_State_emit at1 _ _ (within_disarm at0 _ _
      (within_latched at0 _ _ (within_refl _ s)))), rfl, ?_⟩
    rw [State.emit_page, latched_latches, mget?_merase_same]
  · have hplace : low.toNat = pnCrier * 0x1000 + droppedOff r := hlow.trans (Nat.add_assoc _ _ _)
    have hrun := ctlRead_dropped hr (hplace ▸ hserved)
    rw [← hplace, ofNat_toNat_word] at hrun
    refine ⟨_, congrArg Host.Outcome.next hrun, changes_of (within_State_emit at2 _ _ (within_disarm at0 _ _
      (within_State_setCrierRing at1 _ _ _ (within_refl _ s)))), rfl, State.crierRing_setCrierRing _ _ _,
      fun j hj => State.crierRing_setCrierRing_ne _ _ hj, fun pn off => ?_⟩
    rw [State.emit_reg, disarm_reg, State.setCrierRing_reg]

end Sys2Proof.Machine

/-! Resets of all the logic: what a power-on, a module and a warm reset leave (R493, R501, R508–R510). -/

namespace Sys2Proof.Machine

/-- The parts that the loading of the repair record and of the channel exclusions may change. -/
def Reloaded : List Piece := [.pages, .cores, .dies, .burstKey, .hbmStale]

theorem within_loadRepair_reloaded (s : State) : Within (· ∈ Reloaded) s (loadRepair s) :=
  within_loadRepair at0 at1 s (within_refl _ s)

theorem within_setExcluded_reloaded (s : State) (ws : List Word) : Within (· ∈ Reloaded) s (setExcluded s ws) :=
  within_setExcluded at3 at4 at0 at2 s ws (within_refl _ s)

section
variable {s t u : State}

/-- What is lost stays lost where only pages, cores and the exclusions of channels change after it. -/
theorem Lost.reloaded (h : Lost s t) (k : Within (· ∈ Reloaded) t u) : Lost s u where
  mem := (k.mem (by decide)).trans h.mem
  parts := (k.parts (by decide)).trans h.parts
  links := (k.links (by decide)).trans h.links
  boot := (k.boot (by decide)).trans h.boot
  bell := (k.bell (by decide)).trans h.bell
  flash := (k.flash (by decide)).trans h.flash
  fuses := (k.fuses (by decide)).trans h.fuses
  out := (k.out (by decide)).trans h.out

end

variable (s : State)

/-- What a reset of all the logic starts from, before the repair record is loaded. -/
def resetLogic (p : Power) : State :=
  { pending := s.pending, free := s.free, out := s.out, flash := s.flash, fuses := s.fuses, power := p,
    sealU := { keysDrawn := s.sealU.keysDrawn + 1, saveKey := s.sealU.keysDrawn + 1 } }

theorem bareState_eq (p : Power) : bareState s p = loadRepair (resetLogic s p) := rfl

theorem lost_bareState (p : Power) : Lost s (bareState s p) :=
  Lost.reloaded (t := resetLogic s p) ⟨rfl, rfl, rfl, rfl, rfl, rfl, rfl, rfl⟩ (within_loadRepair_reloaded _)

@[simp] theorem bareState_power (p : Power) : (bareState s p).power = p :=
  (within_loadRepair_reloaded (resetLogic s p)).power (by decide)

@[simp] theorem powerOn_power (volts : Nat) : (powerOn s volts).power =
    { pinsOf s.power with domains := bootOnly, strapDone := false, centivolts := BitVec.ofNat 16 volts } := bareState_power _ _

@[simp] theorem powerOff_power : (powerOff s).power =
    { pinsOf s.power with phase := .off, domains := 0, strapDone := false, shutdown := s.power.shutdown } := bareState_power _ _

theorem lost_moduleResetHbm : Lost s (moduleResetHbm s) := (lost_bareState s _).reloaded (within_setExcluded_reloaded _ _)

@[simp] theorem moduleResetHbm_power : (moduleResetHbm s).power = { pinsOf s.power with domains := bootOnly } :=
  ((within_setExcluded_reloaded _ _).power (by decide)).trans (bareState_power _ _)

/-- A reset takes place at once where no thermal shutdown holds it (R507). -/
theorem unlessHot_cool {s : State} (h : s.power.shutdown = false) (reset : State → State) : unlessHot s reset = reset s := by
  rw [unlessHot, h]
  rfl

end Sys2Proof.Machine

/-! PWR_EN, the supply, MOD_RST_N, and the domains that ramp (R42, R43, R496, R497, R499, R508, R509, R553). -/

namespace Sys2Proof.Machine

/-! ### The domains that ramp -/

/-- The bits of a sum of powers of two are the exponents, if none stands twice. -/
theorem testBit_sum_two_pow {l : List Nat} (h : l.Nodup) (k : Nat) : (l.map fun i => 2 ^ i).sum.testBit k = decide (k ∈ l) := by
  have hperm : l.toFinset.sort.Perm l := (Finset.sort_perm_toList _ _).trans (List.toFinset_toList h)
  rw [Bool.eq_iff_iff, decide_eq_true_iff, ← Nat.mem_bitIndices, ← (hperm.map _).sum_eq,
    Nat.bitIndices_sum_map_two_pow (Finset.sortedLT_sort _), hperm.mem_iff]

theorem nodup_rampingNow (s : State) : (rampingNow s).Nodup := (List.nodup_dedup _).sublist (List.take_sublist _ _)

/-- The domains that come into regulation: those that ramp whose supply is on. -/
def regulatedDomains (s : State) : BitVec 47 := BitVec.ofNat 47 ((((rampingNow s).filter (supplied s)).map fun k => 2 ^ k).sum)

/-- The state once the domains that ramp are in regulation and those after them ramp. -/
def regulated (s : State) : State :=
  ramp { s with power := { s.power with domains := s.power.domains ||| regulatedDomains s } } (rampingLater s)

theorem regulatedDomains_bit (s : State) {k : Nat} (hk : k < 47) :
    (regulatedDomains s).getLsbD k = ((rampingNow s).contains k && supplied s k) := by
  rw [regulatedDomains, BitVec.getLsbD_ofNat, testBit_sum_two_pow ((nodup_rampingNow s).filter _), decide_eq_true hk,
    Bool.true_and]
  simp [List.mem_filter]

theorem domOn_regulated (s : State) {k : Nat} (hk : k < 47) :
    domOn (regulated s) k = (domOn s k || ((rampingNow s).contains k && supplied s k)) := by
  rw [← regulatedDomains_bit s hk]
  exact BitVec.getLsbD_or

theorem execDomainRegulation_ramping {s : State} (h : s.power.ramping ≠ []) :
    execDomainRegulation s =
      .next (if s.boot.stage = 2 ∧ rampingLater s = [] then ramp (regulated s) (nextRank (regulated s)) else regulated s) :=
  congrArg Host.Outcome.next (if_neg (by simpa using h))

theorem nextRank_ramp (s : State) (l : List Nat) : nextRank (ramp s l) = nextRank s := rfl

/-! ### The module starts, stops or starts anew -/

section
variable {s t : State} {p : Power} {volts : Nat}

/-- What the power manager holds is no part of what is lost. -/
theorem Lost.of_power (h : Lost { s with power := p } t) : Lost s t :=
  ⟨h.mem, h.parts, h.links, h.boot, h.bell, h.flash, h.fuses, h.out⟩

theorem powerOn_starts (s : State) (p : Power) (volts : Nat) :
    Lost s (powerOn { s with power := p } volts) ∧ (powerOn { s with power := p } volts).power.phase = .on ∧
      (powerOn { s with power := p } volts).power.domains = bootOnly :=
  ⟨(lost_bareState _ _).of_power, by rw [powerOn_power]; rfl, by rw [powerOn_power]⟩

theorem powerOff_stops (s : State) (p : Power) :
    Lost s (powerOff { s with power := p }) ∧ (powerOff { s with power := p }).power.phase = .off ∧
      (powerOff { s with power := p }).power.domains = 0 :=
  ⟨(lost_bareState _ _).of_power, by rw [powerOff_power], by rw [powerOff_power]⟩

/-- An enabled module that is off starts with a good input. -/
theorem execPwrEnAssert_starts (hoff : s.power.phase = .off) (hgood : supplyGood volts = true) (hcool : s.power.shutdown = false) :
    execPwrEnAssert volts s =
      .next (powerOn { s with power := { s.power with pwrEn := true, centivolts := BitVec.ofNat 16 volts } } volts) :=
  congrArg Host.Outcome.next ((if_pos ⟨hoff, hgood⟩).trans (unlessHot_cool (by exact hcool) _))

theorem execPwrEnAssert_waits (hbad : supplyGood volts = false) :
    execPwrEnAssert volts s = .next { s with power := { s.power with pwrEn := true } } :=
  congrArg Host.Outcome.next (if_neg fun h => Bool.false_ne_true (hbad.symm.trans h.2))

theorem execSupplyValid_starts (hoff : s.power.phase = .off) (hen : s.power.pwrEn = true) (hgood : supplyGood volts = true)
    (hcool : s.power.shutdown = false) :
    execSupplyValid volts s =
      .next (powerOn { s with power := { s.power with centivolts := BitVec.ofNat 16 volts } } volts) :=
  congrArg Host.Outcome.next ((if_pos ⟨hoff, hen, hgood⟩).trans (unlessHot_cool (by exact hcool) _))

theorem execSupplyValid_waits (hbad : supplyGood volts = false) : execSupplyValid volts s = .next s :=
  congrArg Host.Outcome.next (if_neg fun h => Bool.false_ne_true (hbad.symm.trans h.2.2))

theorem powerDown_on (h : s.power.phase = .on) : powerDown s = powerOff s := if_pos h

theorem powerDown_off (h : s.power.phase = .off) : powerDown s = { s with power := { s.power with heldReset := false } } :=
  if_neg (by rw [h]; decide)

theorem execModRstNAssert_resets (hon : s.power.phase = .on) (hcool : s.power.shutdown = false) :
    execModRstNAssert s = .next (moduleResetHbm { s with power := { s.power with modRst := true } }) :=
  congrArg Host.Outcome.next ((if_neg (by rw [hon]; decide)).trans (unlessHot_cool (by exact hcool) _))

theorem execHeldResetRelease_idle (h : s.power.heldReset = false) : execHeldResetRelease s = .next s :=
  congrArg Host.Outcome.next (if_pos (by rw [h]; rfl))

section
variable (hheld : s.power.heldReset = true)
include hheld

theorem execHeldResetRelease_off (hoff : s.power.phase = .off) :
    execHeldResetRelease s = .next (if s.power.pwrEn && supplyGood s.power.centivolts.toNat then
      powerOn { s with power := { s.power with hot := false } } s.power.centivolts.toNat else s) :=
  congrArg Host.Outcome.next ((if_neg (by rw [hheld]; decide)).trans (if_pos hoff))

theorem execHeldResetRelease_on (hon : s.power.phase = .on) :
    execHeldResetRelease s = .next (if s.power.hot then s else moduleResetHbm s) :=
  congrArg Host.Outcome.next ((if_neg (by rw [hheld]; decide)).trans (if_neg (by rw [hon]; decide)))

end

end

theorem changes_power (s : State) (p : Power) : Changes [.power] s { s with power := p } := fun q hq => by
  cases q <;> first | rfl | exact absurd at0 hq

/-- Settles O53: each command is a power-on, a power-off, a module reset or nothing, by its condition; each of these leaves what
its law says. -/
theorem supplyStartsAndStops : Obligations.SupplyStartsAndStops := by
  unfold Obligations.SupplyStartsAndStops
  intro s volts on off runs
  refine ⟨?starts, ?bad, ?stops, ?reset, ?release, ?disabled, ?heldOff, ?heldOn, ?idle, ?ramp, ?none⟩
  case starts =>
    intro hoff hgood hcool
    refine ⟨⟨_, execPwrEnAssert_starts hoff hgood hcool, powerOn_starts s _ volts, by rw [powerOn_power]; rfl⟩, fun hen => ?_⟩
    exact ⟨_, execSupplyValid_starts hoff hen hgood hcool, powerOn_starts s _ volts⟩
  case bad =>
    intro _ hbad
    exact ⟨⟨_, execPwrEnAssert_waits hbad, changes_power s _, rfl⟩, execSupplyValid_waits hbad⟩
  case stops =>
    intro hon
    refine ⟨⟨_, congrArg Host.Outcome.next (powerDown_on hon), powerOff_stops s _, by rw [powerOff_power]; rfl⟩, ?_, ?_⟩
    all_goals exact ⟨_, congrArg Host.Outcome.next (powerDown_on hon), powerOff_stops s s.power⟩
  case reset =>
    intro hon hcool
    have hlost := lost_moduleResetHbm { s with power := { s.power with modRst := true } }
    refine ⟨_, execModRstNAssert_resets hon hcool, hlost.mem, hlost.parts, hlost.boot, hlost.flash, hlost.fuses, ?_, ?_⟩
    all_goals rw [moduleResetHbm_power]
    rfl
  case release => exact ⟨_, rfl, changes_power s _, rfl⟩
  case disabled =>
    intro hoff
    exact ⟨_, congrArg Host.Outcome.next (powerDown_off hoff), changes_power s _, rfl⟩
  case heldOff =>
    intro hheld hoff
    have hrun := execHeldResetRelease_off hheld hoff
    have hcond : (s.power.pwrEn && supplyGood s.power.centivolts.toNat) = true ↔ runs := Bool.and_eq_true _ _ ▸ Iff.rfl
    refine ⟨fun hruns => ?_, fun hno => ?_⟩
    · rw [if_pos (hcond.2 hruns)] at hrun
      exact ⟨_, hrun, powerOn_starts s _ _⟩
    · rwa [if_neg (mt hcond.1 hno)] at hrun
  case heldOn =>
    intro hheld hon
    have hrun := execHeldResetRelease_on hheld hon
    refine ⟨fun hhot => ?_, fun hcool => ?_⟩
    · rwa [if_pos hhot] at hrun
    · rw [hcool] at hrun
      have hlost := lost_moduleResetHbm s
      refine ⟨_, hrun, hlost.mem, hlost.parts, hlost.boot, hlost.flash, hlost.fuses, ?_, ?_, ?_⟩
      all_goals exact moduleResetHbm_power s ▸ rfl
  case idle => exact execHeldResetRelease_idle
  case ramp =>
    intro hramp
    refine ⟨_, execDomainRegulation_ramping hramp, ?_⟩
    split
    · exact ⟨changes_power s _, (nextRank_ramp (regulated s) _).symm, fun k hk => domOn_regulated s hk⟩
    · exact ⟨changes_power s _, rfl, fun k hk => domOn_regulated s hk⟩
  case none =>
    intro hnone
    exact congrArg Host.Outcome.next (if_pos (by rw [hnone]; rfl))

end Sys2Proof.Machine

/-! The writes of BOOT.RESET: warm, die and core resets (R38, R402, R507, R508, R511, R512, R519, R524). -/

namespace Sys2Proof.Machine

/-! ### A core is reset -/

/-- A memory key lies in a core's local store or slab. -/
def CoreOwns (g a : Nat) : Prop := tierOf a < 2 ∧ a < 2 ^ 45 ∧ bits a 43 36 = g

/-- A core holds no command, no accumulator slot and no ring. -/
structure Core.Emptied (c : Core) : Prop where
  aq : c.aq = []
  vq : c.vq = []
  mq : c.mq = []
  inflight : c.inflight = []
  bottom : c.bottom = {}
  side : c.side = {}
  rings : c.rings = []

variable (s : State)

theorem applyMap_core_same (g : Nat) (m : BitVec 260) :
    (applyMap s g m).core g = { s.core g with rowMap := if m = plainMap then none else some m } := by
  have h := (within_copyMapRegs (S := (· ∈ [Piece.pages])) at0 (s.modCore g fun c =>
    { c with rowMap := if m = plainMap then none else some m }) g m (within_refl _ _)).cores (by decide)
  rw [State.core, applyMap, h]
  exact State.core_modCore _ _ _

theorem applyMap_core_ne {g k : Nat} (m : BitVec 260) (h : k ≠ g) : (applyMap s g m).core k = s.core k := by
  have hc := (within_copyMapRegs (S := (· ∈ [Piece.pages])) at0 (s.modCore g fun c =>
    { c with rowMap := if m = plainMap then none else some m }) g m (within_refl _ _)).cores (by decide)
  rw [State.core, applyMap, hc]
  exact State.core_modCore_ne _ _ _ _ h

theorem resetCore_emptied (g : Nat) : ((resetCore s g).core g).Emptied := by
  rw [resetCore, applyMap_core_same, State.core_setCore]
  exact ⟨rfl, rfl, rfl, rfl, rfl, rfl, rfl⟩

theorem resetCore_core_ne {g k : Nat} (h : k ≠ g) : (resetCore s g).core k = s.core k := by
  rw [resetCore, applyMap_core_ne _ _ h, State.core_setCore_ne _ _ _ _ h]
  rfl

theorem memByte_clearMem (gone : Nat → Bool) (a : Nat) : memByte (clearMem s gone) a = if gone a then 0 else memByte s a := by
  rw [memByte, clearMem, mget, mget?_filter_key fun k => !gone k]
  cases gone a <;> rfl

theorem memByte_clearPages (gone : Nat → Bool) (a : Nat) : memByte (clearPages s gone) a = memByte s a := rfl
theorem clearPages_core (gone : Nat → Bool) (g : Nat) : (clearPages s gone).core g = s.core g := rfl
theorem clearPages_die (gone : Nat → Bool) (d : Nat) : (clearPages s gone).die d = s.die d := rfl

theorem memByte_applyMap (g : Nat) (m : BitVec 260) (a : Nat) : memByte (applyMap s g m) a = memByte s a := by
  have h := (within_applyMap (S := (· ∈ [Piece.pages, .cores])) at0 at1 s g m (within_refl _ s)).mem (by decide)
  rw [memByte, h, memByte]

theorem memByte_resetCore_own {g a : Nat} (h : CoreOwns g a) : memByte (resetCore s g) a = 0 := by
  obtain ⟨htier, hlow, hcore⟩ := h
  rw [resetCore, memByte_applyMap, memByte_setCore, memByte_clearPages, memByte_clearMem]
  refine if_pos ?_
  simp only [htier, hlow, hcore, decide_true, Bool.true_and, beq_self_eq_true]

theorem memByte_resetCore_other {g a : Nat} (h : ¬ CoreOwns g a) : memByte (resetCore s g) a = memByte s a := by
  rw [resetCore, memByte_applyMap, memByte_setCore, memByte_clearPages, memByte_clearMem]
  refine if_neg fun hgone => h ?_
  simpa [CoreOwns, and_assoc] using hgone

/-! ### Cores are reset one after another -/

/-- The cores of a list are reset. -/
def resetCores (l : List Nat) : State := l.foldl resetCore s

theorem resetCores_cons (j : Nat) (r : List Nat) : resetCores s (j :: r) = resetCores (resetCore s j) r := by
  simp only [resetCores, List.foldl_cons]

section
variable {s}

theorem resetCores_core_ne {l : List Nat} {g : Nat} (h : g ∉ l) : (resetCores s l).core g = s.core g := by
  induction l generalizing s with
  | nil => rfl
  | cons j r ih =>
    rw [resetCores_cons, ih fun hm => h (List.mem_cons_of_mem _ hm)]
    exact resetCore_core_ne s fun e => h (e ▸ List.mem_cons_self)

theorem resetCores_emptied {l : List Nat} {g : Nat} (h : g ∈ l ∨ (s.core g).Emptied) : ((resetCores s l).core g).Emptied := by
  induction l generalizing s with
  | nil => exact h.resolve_left (List.not_mem_nil)
  | cons j r ih =>
    rw [resetCores_cons]
    refine ih ?_
    by_cases hj : g = j
    · subst hj
      exact .inr (resetCore_emptied s g)
    · rw [resetCore_core_ne s hj]
      exact h.imp_left fun hm => (List.mem_cons.1 hm).resolve_left hj

theorem memByte_resetCores_own {l : List Nat} {a : Nat} (h : (∃ g ∈ l, CoreOwns g a) ∨ memByte s a = 0) :
    memByte (resetCores s l) a = 0 := by
  induction l generalizing s with
  | nil => exact h.resolve_left fun ⟨_, hm, _⟩ => List.not_mem_nil hm
  | cons j r ih =>
    rw [resetCores_cons]
    refine ih ?_
    by_cases hown : CoreOwns j a
    · exact .inr (memByte_resetCore_own s hown)
    · rw [memByte_resetCore_other s hown]
      refine h.imp_left fun ⟨g, hm, hg⟩ => ⟨g, (List.mem_cons.1 hm).resolve_left fun e => hown (e ▸ hg), hg⟩

theorem memByte_resetCores_other {l : List Nat} {a : Nat} (h : ∀ g ∈ l, ¬ CoreOwns g a) :
    memByte (resetCores s l) a = memByte s a := by
  induction l generalizing s with
  | nil => rfl
  | cons j r ih =>
    obtain ⟨hj, hr⟩ := List.forall_mem_cons.1 h
    rw [resetCores_cons, ih hr, memByte_resetCore_other s hj]

end

theorem resetCores_dies (l : List Nat) : (resetCores s l).dies = s.dies :=
  (within_foldl (S := (· ∈ [Piece.mem, .bad, .softBad, .pages, .cores])) resetCore l s
    (fun _ _ ht => within_resetCore at0 at1 at2 at3 at4 _ _ ht) (within_refl _ s)).dies (by decide)

/-! ### A die is reset -/

/-- The cores of a die. -/
def dieCores (d : Nat) : List Nat := (List.range 40).map (40 * d + ·)

theorem mem_dieCores {d g : Nat} : g ∈ dieCores d ↔ g / 40 = d := by
  simp only [dieCores, List.mem_map, List.mem_range]
  constructor
  · rintro ⟨c, hc, rfl⟩; omega
  · rintro rfl; exact ⟨g % 40, by omega, by omega⟩

/-- What a die reset leaves of the die itself. -/
def Die.fresh (v : Die) : Die :=
  { v with rings := [], armed := none, retrainOpen := [], dc0 := { running := v.dc0.running }, dc1 := { running := v.dc1.running } }

/-- The pages of a die's controllers and of its almanac sequencer. -/
def dieUnitPage (d pn : Nat) : Bool := pn == pnDieCtl d 0 || pn == pnDieCtl d 1 || pn == pnAlm d

theorem resetDie_eq (d : Nat) : resetDie s d =
    ((clearPages (resetCores s (dieCores d)) (dieUnitPage d)).modDie d Die.fresh).modPage (pnSlab d) fun p =>
      { p with counters := [] } := by
  rw [resetCores, dieCores, List.foldl_map]
  rfl

theorem resetDie_core (d g : Nat) : (resetDie s d).core g = (resetCores s (dieCores d)).core g := by
  rw [resetDie_eq, State.modPage_core, State.modDie_core, clearPages_core]

theorem memByte_resetDie (d a : Nat) : memByte (resetDie s d) a = memByte (resetCores s (dieCores d)) a := by
  rw [resetDie_eq, memByte_modPage, memByte_modDie, memByte_clearPages]

theorem resetDie_die (d : Nat) : (resetDie s d).die d = (s.die d).fresh := by
  rw [resetDie_eq, State.modPage_die, State.die_modDie, clearPages_die, State.die, resetCores_dies, State.die]

theorem resetDie_d2d (d : Nat) : (resetDie s d).d2d = s.d2d :=
  (within_resetDie (S := (· ∈ [Piece.mem, .bad, .softBad, .pages, .cores, .dies])) at0 at1 at2 at3 at4 at5 s d
    (within_refl _ s)).d2d (by decide)

/-! ### A warm reset -/

/-- The die-to-die ports that are down, after a warm reset (R38; log 119). -/
def downPorts (m : SMap D2d) : SMap D2d := (m.filter fun e => e.2.down).map fun e => (e.1, ({ down := true } : D2d))

theorem downPorts_down {m : SMap D2d} {k : Nat} (h : (mget D2d.init m k).down = true) :
    (mget D2d.init (downPorts m) k).down = true := by
  induction m with
  | nil => exact h
  | cons e r ih =>
    obtain ⟨j, v⟩ := e
    by_cases hj : j = k
    · have hv : v.down = true := by simpa [mget, mget?, hj] using h
      simp [downPorts, mget, mget?, hj, hv]
    · have hr : (mget D2d.init r k).down = true := by simpa [mget, mget?, hj] using h
      rw [← ih hr, downPorts, downPorts, List.filter_cons]
      split
      · simp [mget, mget?, hj]
      · rfl

/-- What a warm reset leaves before the controllers take their exclusions: all logic is lost, HBM and its errors, and that a port
is down, are not. -/
def warmLogic : State :=
  { bareState s { pinsOf s.power with domains := s.power.domains } with
    mem := s.mem.filter (fun e => tierOf e.1 == 3 && decide (e.1 < 2 ^ 48)), hbmErr := s.hbmErr, d2d := downPorts s.d2d,
    burstKey := s.burstKey, hbmStale := s.hbmStale }

theorem warmLogic_power : (warmLogic s).power = { pinsOf s.power with domains := s.power.domains } := bareState_power _ _

/-- The controllers of HBM keep their exclusions. -/
def keepExcluded (t : State) : State := (List.range 8).foldl (fun (q : State) k =>
  q.modHbmc (k / 2) (k % 2) fun h => { h with chExcluded := (s.hbmc (k / 2) (k % 2)).chExcluded }) t

theorem warmReset_eq : warmReset s = setExcluded (keepExcluded s (warmLogic s)) ((List.range 8).map (nextExcluded s)) := rfl

theorem within_warmReset_reloaded : Within (· ∈ Reloaded) (warmLogic s) (warmReset s) := by
  rw [warmReset_eq]
  refine within_setExcluded at3 at4 at0 at2 _ _ ?_
  exact within_foldl _ _ _ (fun _ _ ht => within_State_modHbmc at2 _ _ _ _ ht) (within_refl _ _)

theorem warmReset_mem : (warmReset s).mem = s.mem.filter fun e => tierOf e.1 == 3 && decide (e.1 < 2 ^ 48) :=
  (within_warmReset_reloaded s).mem (by decide)
theorem warmReset_hbmErr : (warmReset s).hbmErr = s.hbmErr := (within_warmReset_reloaded s).hbmErr (by decide)
theorem warmReset_d2d : (warmReset s).d2d = downPorts s.d2d := (within_warmReset_reloaded s).d2d (by decide)
theorem warmReset_parts : (warmReset s).parts = [] :=
  ((within_warmReset_reloaded s).parts (by decide)).trans (lost_bareState s _).parts
theorem warmReset_links : (warmReset s).links = {} :=
  ((within_warmReset_reloaded s).links (by decide)).trans (lost_bareState s _).links
theorem warmReset_boot : (warmReset s).boot = {} :=
  ((within_warmReset_reloaded s).boot (by decide)).trans (lost_bareState s _).boot
theorem warmReset_flash : (warmReset s).flash = s.flash :=
  ((within_warmReset_reloaded s).flash (by decide)).trans (lost_bareState s _).flash
theorem warmReset_fuses : (warmReset s).fuses = s.fuses :=
  ((within_warmReset_reloaded s).fuses (by decide)).trans (lost_bareState s _).fuses
theorem warmReset_power : (warmReset s).power = { pinsOf s.power with domains := s.power.domains } :=
  ((within_warmReset_reloaded s).power (by decide)).trans (warmLogic_power s)

/-! ### The write of BOOT.RESET -/

theorem bootResetAddr_page : bootResetAddr / 0x1000 = pnBoot := rfl

/-- No partition is sealed and no job admitted (R511). -/
def Idle : Prop := anySealed s = false ∧ anyJobAdmitted s = false

variable {s} in
theorem idle_disarm {pn : Nat} (h : Idle s) : Idle (disarm s pn) := h
variable {s} in
theorem idle_of_disarm {pn : Nat} (h : Idle (disarm s pn)) : Idle s := h

/-- A die or core reset is under way: the pages it clears are unreachable (R524), and THROTTLE_N is counted anew (R553). -/
def resetBegun (t : State) (pages : List Nat) : State :=
  { t with boot := { t.boot with resetBusy := true, resetPages := t.boot.resetPages ++ pages },
           power := { t.power with throttleBt := 0 } }

section
variable (t : State) (pages : List Nat)

theorem resetBegun_core (g : Nat) : (resetBegun t pages).core g = t.core g := rfl
theorem resetBegun_die (d : Nat) : (resetBegun t pages).die d = t.die d := rfl
theorem resetBegun_hbmc (d k : Nat) : (resetBegun t pages).hbmc d k = t.hbmc d k := rfl
theorem resetBegun_d2d : (resetBegun t pages).d2d = t.d2d := rfl
theorem memByte_resetBegun (a : Nat) : memByte (resetBegun t pages) a = memByte t a := rfl
theorem resetBegun_boot : (resetBegun t pages).boot =
    { t.boot with resetBusy := true, resetPages := t.boot.resetPages ++ pages } := rfl

end

section
variable {s} {init v : Nat}

theorem writeReset_unkeyed (h : bits v 31 16 ≠ resetKey) : writeReset s init v = ignoreWrite s 7 init bootResetAddr v := if_pos h

theorem softReset_idle (h : Idle s) (pages : List Nat) (f : State → State) :
    softReset s init v pages f = resetBegun (f s) pages :=
  if_neg (by rw [h.1, h.2]; decide)

theorem softReset_busy (h : ¬ Idle s) (pages : List Nat) (f : State → State) :
    softReset s init v pages f = ignoreWrite s 6 init bootResetAddr v := by
  refine if_pos ?_
  simp only [Idle, Bool.eq_false_iff] at h
  simp only [Bool.or_eq_true]
  tauto

section
variable (hkey : bits v 31 16 = resetKey)
include hkey

theorem writeReset_shutdown (h : s.power.shutdown = true) : writeReset s init v = ignoreWrite s 6 init bootResetAddr v :=
  (if_neg (not_not_intro hkey)).trans (if_pos h)

variable (hrun : s.power.shutdown = false)
include hrun

theorem writeReset_warm (h : bits v 3 0 = 1) : writeReset s init v = warmReset s := by
  simp [writeReset, hkey, hrun, h]

theorem writeReset_die (h : bits v 3 0 = 2) : writeReset s init v =
    softReset s init v (dieResetPages (bits v 5 4)) fun t => resetDie t (bits v 5 4) := by
  simp [writeReset, hkey, hrun, h]

theorem writeReset_core (h : bits v 3 0 = 3) (hc : bits v 11 6 < 40) : writeReset s init v =
    softReset s init v ((List.range 9).map (pnCore (40 * bits v 5 4 + bits v 11 6))) fun t =>
      resetCore t (40 * bits v 5 4 + bits v 11 6) := by
  simp [writeReset, hkey, hrun, h, hc]

end

end

/-- The three commands are one write. -/
theorem exec_reset {s : State} {init : Nat} {value : Word} (h : Served s init bootResetAddr true) :
    ∀ i ∈ [Instr.warmReset ⟨init, false⟩ value, .dieReset ⟨init, false⟩ value, .coreReset ⟨init, false⟩ value],
      exec i s = .next (writeReset (disarm s pnBoot) init value.toNat) := by
  have hrun : (.next (ctlWrite s init bootResetAddr value.toNat false fun t => writeReset t init value.toNat) : Out) =
      .next (writeReset (disarm s pnBoot) init value.toNat) :=
    congrArg Host.Outcome.next (ctlWrite_served h value.toNat fun t => writeReset t init value.toNat)
  simp only [List.forall_mem_cons]
  exact ⟨hrun, hrun, hrun, List.forall_mem_nil _⟩

/-- Settles O55: the write goes on at the BOOT page, and is the reset that its value names, or ignored. -/
theorem resetsReach : Obligations.ResetsReach := by
  unfold Obligations.ResetsReach
  intro s init value hserved keyed d c emptied own idle i hi
  have hexec := exec_reset hserved i hi
  have hkeyed : bits value.toNat 31 16 = resetKey ↔ keyed := bits_upper_iff value 0xA5C3#16
  have hempty {t : State} {g : Nat} (h : (t.core g).Emptied) : emptied t g :=
    ⟨h.aq, h.vq, h.mq, h.inflight, h.bottom, h.side, h.rings⟩
  refine ⟨?unkeyed, ?shutdown, ?warm, ?die, ?busy, ?core, ⟨_, rfl, ?_, rfl⟩⟩
  case unkeyed =>
    intro hno
    exact ⟨_, hexec.trans (congrArg _ (writeReset_unkeyed (mt hkeyed.1 hno))), onlyPage_ignoreWrite s bootResetAddr_page _ _ _⟩
  case shutdown =>
    intro hkey hdown
    rw [← disarm_power s pnBoot] at hdown
    exact ⟨_, hexec.trans (congrArg _ (writeReset_shutdown (hkeyed.2 hkey) hdown)), onlyPage_ignoreWrite s bootResetAddr_page _ _ _⟩
  case warm =>
    intro hkey hrun hkind
    rw [← disarm_power s pnBoot] at hrun
    refine ⟨_, hexec.trans (congrArg _ (writeReset_warm (hkeyed.2 hkey) hrun hkind)), warmReset_parts _, warmReset_links _,
      warmReset_boot _, warmReset_flash _, warmReset_fuses _, by rw [warmReset_power]; rfl, warmReset_mem _, warmReset_hbmErr _,
      fun k hdown => ?_⟩
    rw [d2dOf, warmReset_d2d]
    exact downPorts_down hdown
  case die =>
    intro hkey hrun hidle hkind
    rw [← disarm_power s pnBoot] at hrun
    have hwrite : writeReset (disarm s pnBoot) init value.toNat = resetBegun (resetDie (disarm s pnBoot) d) (dieResetPages d) := by
      rw [writeReset_die (hkeyed.2 hkey) hrun hkind, softReset_idle (idle_disarm hidle)]
    refine ⟨_, hexec.trans (congrArg _ hwrite),
      fun g hg => hempty ?_, fun g hg => ?_, ?_, fun a ⟨g, hg, hown⟩ => ?_, fun a ha => ?_, ?_, ?_, fun k => ?_⟩
    · rw [resetBegun_core, resetDie_core]
      exact resetCores_emptied (.inl (mem_dieCores.2 hg))
    · rw [resetBegun_core, resetDie_core, resetCores_core_ne (mt mem_dieCores.1 hg), disarm_core]
    · rw [resetBegun_die, resetDie_die]
      rfl
    · rw [memByte_resetBegun, memByte_resetDie]
      exact memByte_resetCores_own (.inl ⟨g, mem_dieCores.2 hg, hown⟩)
    · rw [memByte_resetBegun, memByte_resetDie, memByte_resetCores_other fun g hg => ha g (mem_dieCores.1 hg), memByte_disarm]
    · rw [resetBegun_boot]
    · rw [resetBegun_d2d, resetDie_d2d, disarm_d2d]
    · rw [resetBegun_hbmc, State.hbmc, resetDie_die, disarm_die]
      rfl
  case busy =>
    intro hkey hrun hbusy hkind
    rw [← disarm_power s pnBoot] at hrun
    have hignored : writeReset (disarm s pnBoot) init value.toNat = ignoreWrite (disarm s pnBoot) 6 init bootResetAddr value.toNat := by
      rcases hkind with hkind | ⟨hkind, hcore⟩
      · exact (writeReset_die (hkeyed.2 hkey) hrun hkind).trans (softReset_busy (mt idle_of_disarm hbusy) _ _)
      · exact (writeReset_core (hkeyed.2 hkey) hrun hkind hcore).trans (softReset_busy (mt idle_of_disarm hbusy) _ _)
    refine ⟨_, hexec.trans (congrArg _ hignored), onlyPage_ignoreWrite s bootResetAddr_page _ _ _, ?_⟩
    have h := ignoreWrite_page (disarm s pnBoot) 6 init bootResetAddr value.toNat
    rw [bootResetAddr_page] at h
    rw [h, disarm_capture]
    rfl
  case core =>
    intro hkey hrun hidle hkind hcore
    rw [← disarm_power s pnBoot] at hrun
    have hwrite : writeReset (disarm s pnBoot) init value.toNat =
        resetBegun (resetCore (disarm s pnBoot) c) ((List.range 9).map (pnCore c)) := by
      rw [writeReset_core (hkeyed.2 hkey) hrun hkind hcore, softReset_idle (idle_disarm hidle)]
    refine ⟨_, hexec.trans (congrArg _ hwrite),
      hempty ?_, fun g hg => ?_, fun a ha => ?_, fun a ha => ?_, ?_, ?_⟩
    · rw [resetBegun_core]
      exact resetCore_emptied _ _
    · rw [resetBegun_core, resetCore_core_ne _ hg, disarm_core]
    · rw [memByte_resetBegun]
      exact memByte_resetCore_own _ ha
    · rw [memByte_resetBegun, memByte_resetCore_other _ ha, memByte_disarm]
    · rw [resetBegun_boot]
    · rw [resetBegun_boot]
      exact List.mem_append_right _ (List.mem_map_of_mem (f := pnCore c) (List.mem_range.2 (Nat.zero_lt_succ 8)))
  exact fun q hq => by cases q <;> first | rfl | exact absurd at0 hq

end Sys2Proof.Machine

/-! Records in flash, each in two copies (R498, R513, R516). -/

namespace Sys2Proof.Machine

/-- The record written is the one read next: it goes to the copy not in force, under a higher sequence number. -/
theorem Copies.newest_write {α : Type} (c : Copies α) (v : α) : ((c.write v).newest.map Prod.snd) = some v := by
  obtain ⟨a, b⟩ := c
  cases a with
  | none => cases b <;> simp [Copies.write, Copies.newest]
  | some a =>
    cases b with
    | none => simp [Copies.write, Copies.newest]
    | some b =>
      by_cases h : a.1 < b.1
      · simp [Copies.write, Copies.newest, h, h.ne']
      · simp [Copies.write, Copies.newest, h]

@[simp] theorem Copies.read_write {α : Type} (c : Copies α) (v : α) : (c.write v).read = some v := c.newest_write v

variable (f : Flash)

@[simp] theorem Flash.bootRec_setBoot (g : BootRecord → BootRecord) : (f.setBoot g).bootRec = g f.bootRec := by
  simp [Flash.setBoot, Flash.bootRec]

@[simp] theorem Flash.failures_setBoot (g : BootRecord → BootRecord) : (f.setBoot g).failures = f.failures := rfl

@[simp] theorem Flash.failures_setFailures (l : List FailRec) : (f.setFailures l).failures = l := by
  simp [Flash.setFailures, Flash.failures]

end Sys2Proof.Machine

/-! The management port: register-access frames, and the Raevo requests of minimal mode (R517, R518, R538, R557, R558). -/

namespace Sys2Proof.Machine

/-! ### A frame has come -/

section
variable (s : State)

theorem mgmtFrame_power : (mgmtFrame s).power = { s.power with mgmtUp := true } := rfl

theorem mgmtFrame_counter (k : Nat) : (mgmtFrame s).counter pnMgmt k = s.counter pnMgmt k + (if k = 0 then 1 else 0) := by
  rw [mgmtFrame, counter_count]
  by_cases h : k = 0
  · rw [if_pos ⟨rfl, h⟩, if_pos h]
    rfl
  · rw [if_neg fun e => h e.2, if_neg h]
    exact (BitVec.add_zero _).symm

theorem mgmtFrame_page_ne {k : Nat} (h : k ≠ pnMgmt) : (mgmtFrame s).page k = s.page k := State.page_count_ne _ _ _ _ _ h

theorem within_mgmtFrame_self {S : Piece → Prop} (hp : S .pages) (hw : S .power) : Within S s (mgmtFrame s) :=
  within_mgmtFrame hp hw s (within_refl _ s)

/-- A frame is counted and discarded (R538). -/
def discarded : State := (mgmtFrame s).count pnMgmt 2 1

theorem within_discarded {S : Piece → Prop} (hp : S .pages) (hw : S .power) : Within S s (discarded s) :=
  within_State_count hp _ _ _ _ (within_mgmtFrame_self s hp hw)

theorem discarded_power : (discarded s).power = { s.power with mgmtUp := true } := rfl

theorem discarded_page_ne {k : Nat} (h : k ≠ pnMgmt) : (discarded s).page k = s.page k :=
  (State.page_count_ne _ _ _ _ _ h).trans (mgmtFrame_page_ne s h)

theorem discarded_received : (discarded s).counter pnMgmt 0 = s.counter pnMgmt 0 + 1 := by
  rw [discarded, State.counter_count_ne _ _ _ _ _ (by decide), mgmtFrame_counter, if_pos rfl]

theorem discarded_counted : (discarded s).counter pnMgmt 2 = s.counter pnMgmt 2 + 1 := by
  rw [discarded, State.counter_count_same, mgmtFrame_counter, if_neg (by decide)]
  exact congrArg (· + 1) (BitVec.add_zero _)

end

/-! ### Register-access frames (R557, R558) -/

/-- The frame is for this port, which takes register accesses. -/
def FrameTaken (s : State) (f : MgmtFrame) : Prop :=
  mgmtOn s = true ∧ s.boot.minimal = false ∧ f.fcsOk = true ∧ f.etherType = 0x88B7#16 ∧ f.dest = s.fuses.mgmtMac

/-- What the entries of a frame lead to: those of a good frame are performed in order. -/
def frameRun (s : State) (f : MgmtFrame) : FrameRun :=
  if frameGood f then f.entries.foldl runEntry { s := mgmtFrame s } else { s := mgmtFrame s, entries := f.entries }

section
variable {s : State} {f : MgmtFrame} (hctl : domOn s domCtl = true)
include hctl

theorem execRegisterAccessFrame_discards (h : ¬ FrameTaken s f) : execRegisterAccessFrame f s = .next (discarded s) := by
  have hcond : (!mgmtOn s || s.boot.minimal || !f.fcsOk || f.etherType != 0x88B7 || f.dest != s.fuses.mgmtMac) = true := by
    by_contra hno
    exact h (by simpa [FrameTaken, and_assoc] using hno)
  exact congrArg Host.Outcome.next ((if_neg (by rw [hctl]; decide)).trans (if_pos hcond))

theorem execRegisterAccessFrame_answers (h : FrameTaken s f) : execRegisterAccessFrame f s =
    .next (((frameRun s f).s.count pnMgmt 1 1).emit
      (.mgmtAnswer f.source f.seq (!frameGood f) (frameRun s f).entries (frameRun s f).marks)) := by
  obtain ⟨hon, hmin, hfcs, htype, hdest⟩ := h
  have hcond : (!mgmtOn s || s.boot.minimal || !f.fcsOk || f.etherType != 0x88B7 || f.dest != s.fuses.mgmtMac) ≠ true := by
    simp [hon, hmin, hfcs, htype, hdest]
  exact congrArg Host.Outcome.next ((if_neg (by rw [hctl]; decide)).trans (if_neg hcond))

end

theorem runEntry_entries (r : FrameRun) (e : AccessEntry) : ∃ w, (runEntry r e).entries = r.entries ++ [{ e with data := w }] := by
  unfold runEntry
  dsimp only
  split
  · exact ⟨e.data, rfl⟩
  · exact ⟨_, rfl⟩

theorem runEntry_marks (r : FrameRun) (e : AccessEntry) : ∃ b, (runEntry r e).marks = r.marks ++ [b] := by
  unfold runEntry
  dsimp only
  split <;> exact ⟨_, rfl⟩

/-- Every entry is answered under its address. -/
theorem foldl_runEntry_entries (l : List AccessEntry) (r : FrameRun) :
    (l.foldl runEntry r).entries.map (·.address) = r.entries.map (·.address) ++ l.map (·.address) := by
  induction l generalizing r with
  | nil => exact (List.append_nil _).symm
  | cons e l ih =>
    obtain ⟨w, hw⟩ := runEntry_entries r e
    rw [List.foldl_cons, ih, hw, List.map_append, List.append_assoc]
    rfl

/-- Every entry is marked. -/
theorem foldl_runEntry_marks (l : List AccessEntry) (r : FrameRun) :
    (l.foldl runEntry r).marks.length = r.marks.length + l.length := by
  induction l generalizing r with
  | nil => rfl
  | cons e l ih =>
    obtain ⟨b, hb⟩ := runEntry_marks r e
    rw [List.foldl_cons, ih, hb]
    simp only [List.length_append, List.length_cons, List.length_nil]
    omega

/-- Settles O14: a frame is discarded, or answered with what its entries have led to. -/
theorem managementFrameAnswered : Obligations.ManagementFrameAnswered := by
  unfold Obligations.ManagementFrameAnswered
  intro s f hctl taken
  refine ⟨fun hnot => ?_, fun htaken hbad => ?_, fun htaken hgood => ?_⟩
  · exact ⟨_, execRegisterAccessFrame_discards hctl hnot, changes_of (within_discarded s at0 at1), discarded_power s,
      fun k hk => discarded_page_ne s hk, discarded_received s, discarded_counted s⟩
  · have hrun := execRegisterAccessFrame_answers hctl htaken
    rw [frameRun, hbad] at hrun
    refine ⟨_, hrun, changes_of (within_State_emit at1 _ _ (within_State_count at0 _ _ _ _ (within_mgmtFrame_self s at0 at2))),
      rfl, fun k hk => (State.page_count_ne _ _ _ _ _ hk).trans (mgmtFrame_page_ne s hk), ?_, rfl⟩
    rw [State.emit_counter, State.counter_count_same]
    exact congrArg (· + 1) ((mgmtFrame_counter s 1).trans (BitVec.add_zero _))
  · have hrun := execRegisterAccessFrame_answers hctl htaken
    rw [hgood] at hrun
    have hfold : frameRun s f = f.entries.foldl runEntry { s := mgmtFrame s } := if_pos hgood
    have haddr := foldl_runEntry_entries f.entries { s := mgmtFrame s }
    have hmarks := foldl_runEntry_marks f.entries { s := mgmtFrame s }
    rw [← hfold] at haddr hmarks
    refine ⟨_, _, _, hrun, List.getLast?_concat, ?_, hmarks.trans (Nat.zero_add _), haddr⟩
    simpa using congrArg List.length haddr

/-! ### Raevo requests (R518) -/

/-- Raevo requests are served: the port is enabled, in minimal mode. -/
def RaevoOn (s : State) : Prop := mgmtOn s = true ∧ s.boot.minimal = true

section
variable {s : State} (hctl : domOn s domCtl = true) (op : Nat) (r : RaevoReq) (act : State → State × Nat × List Byte)
include hctl

theorem serveRaevo_on (h : RaevoOn s) : serveRaevo s op r act =
    ((act (mgmtFrame s)).1.count pnMgmt 1 1).emit
      (.raevoAnswer r.source op r.seq (BitVec.ofNat 8 (act (mgmtFrame s)).2.1) (act (mgmtFrame s)).2.2) := by
  obtain ⟨hon, hmin⟩ := h
  simp [serveRaevo, hctl, hon, hmin]

theorem serveRaevo_off (h : ¬ RaevoOn s) : serveRaevo s op r act = discarded s := by
  have hcond : (!mgmtOn s || !s.boot.minimal) = true := by
    by_contra hno
    exact h (by simpa [RaevoOn] using hno)
  exact (if_neg (by rw [hctl]; decide)).trans (if_pos hcond)

end

/-- The state in which a request has been answered that leaves this flash. -/
def raevoAnswered (s : State) (flash : Flash) (o : Output) : State := (({ mgmtFrame s with flash := flash } : State).count pnMgmt 1 1).emit o

/-- A request that came to the port: it is counted, and shows the link as up; nothing else changes but the parts listed. -/
def RaevoCame (L : List Piece) (s t : State) : Prop :=
  Changes (.pages :: .power :: L) s t ∧ t.power = { s.power with mgmtUp := true } ∧ t.counter pnMgmt 0 = s.counter pnMgmt 0 + 1

section
variable (s : State) (o : Output)

theorem raevoAnswered_received (flash : Flash) : (raevoAnswered s flash o).counter pnMgmt 0 = s.counter pnMgmt 0 + 1 := by
  rw [raevoAnswered, State.emit_counter, State.counter_count_ne _ _ _ _ _ (by decide)]
  exact mgmtFrame_counter s 0

/-- A request that leaves flash as it is. -/
theorem raevoCame_answered : RaevoCame [.out] s (raevoAnswered s s.flash o) :=
  ⟨changes_of (within_State_emit at2 _ _ (within_State_count at0 _ _ _ _ (within_mgmtFrame_self s at0 at1))), rfl,
    raevoAnswered_received s o s.flash⟩

/-- A request that writes flash. -/
theorem raevoCame_wrote (flash : Flash) : RaevoCame [.out, .flash] s (raevoAnswered s flash o) := by
  refine ⟨fun p hp => ?_, rfl, raevoAnswered_received s o flash⟩
  have h := changes_of (within_mgmtFrame_self s (S := (· ∈ [Piece.pages, .power])) at0 at1) p
  cases p <;> first | exact h (by decide) | exact absurd (by decide) hp

end

/-! ### Bytes written to flash -/

/-- A byte that is put reads as it was put, one elsewhere as before. -/
theorem mget?_foldl_mput (bs : List Byte) (o j : Nat) (m : SMap Byte) :
    mget? ((bs.zipIdx o).foldl (fun (m : SMap Byte) e => mput m e.2 e.1) m) j =
      if o ≤ j ∧ j < o + bs.length then some (bs.getD (j - o) 0) else mget? m j := by
  induction bs generalizing o m with
  | nil =>
    rw [if_neg (by rw [List.length_nil]; omega)]
    rfl
  | cons b r ih =>
    rw [List.zipIdx_cons, List.foldl_cons, ih, List.length_cons]
    by_cases hj : j = o
    · subst hj
      rw [if_neg (by omega), if_pos (by omega), mget?_mput_same, Nat.sub_self]
      rfl
    · rw [mget?_mput_ne m b hj]
      by_cases hin : o + 1 ≤ j ∧ j < o + 1 + r.length
      · rw [if_pos hin, if_pos (by omega), show j - o = (j - (o + 1)) + 1 by omega, List.getD_cons_succ]
      · rw [if_neg hin, if_neg (by omega)]

theorem flashByte_writeFlash (s : State) (o : Nat) (bs : List Byte) {k : Nat} (hk : k < bs.length) :
    flashByte (writeFlash s o bs) (o + k) = bs.getD k 0 := by
  rw [flashByte, writeFlash, mget?_foldl_mput, if_pos (by omega), Nat.add_sub_cancel_left]
  rfl

/-! ### The requests -/

section
variable {s : State} (hctl : domOn s domCtl = true)
include hctl

section
variable (hon : RaevoOn s) (r : RaevoReq)
include hon

theorem execInfo_on : execInfo r s = .next (raevoAnswered s s.flash (.raevoAnswer r.source 1 r.seq 0 (infoData s))) :=
  congrArg Host.Outcome.next (serveRaevo_on hctl 1 r _ hon)

theorem execReadFlash_on (hlen : r.length ≤ 1024) (hread : readable r.offset.toNat r.length = true) : execReadFlash r s =
    .next (raevoAnswered s s.flash (.raevoAnswer r.source 2 r.seq 0
      ((List.range r.length).map fun k => readableByte s (r.offset.toNat + k)))) := by
  rw [execReadFlash, serveRaevo_on hctl 2 r _ hon, if_pos ⟨hlen, hread⟩]
  rfl

theorem execReadFlash_long (hlen : 1024 < r.length) :
    execReadFlash r s = .next (raevoAnswered s s.flash (.raevoAnswer r.source 2 r.seq 1 [])) := by
  rw [execReadFlash, serveRaevo_on hctl 2 r _ hon, if_neg fun h => by omega]
  rfl

theorem execWriteSlot_long (data : List Byte) (hlen : 1024 < r.length) :
    execWriteSlot r data true s = .next (raevoAnswered s s.flash (.raevoAnswer r.source 3 r.seq 1 [])) := by
  rw [execWriteSlot, serveRaevo_on hctl 3 r _ hon]
  dsimp only
  rw [if_pos (.inl hlen)]
  rfl

theorem execWriteSlot_on {data : List Byte} (hlen : r.length ≤ 1024) (hslot : slotOffset r.offset + r.length ≤ slotSize)
    (hdata : data.length = r.length) : execWriteSlot r data true s =
      .next (raevoAnswered s (writeFlash s (slotBase r.offset + slotOffset r.offset) data).flash
        (.raevoAnswer r.source 3 r.seq 0 [])) := by
  rw [execWriteSlot, serveRaevo_on hctl 3 r _ hon]
  dsimp only
  rw [if_neg (by omega), if_pos rfl, ← hdata, List.take_length]
  rfl

theorem execCommitSlot_on : execCommitSlot r true s =
    .next (raevoAnswered s (s.flash.setBoot fun b => { b with prefSlot := slotOf r.offset })
      (.raevoAnswer r.source 4 r.seq 0 [])) :=
  congrArg Host.Outcome.next (serveRaevo_on hctl 4 r _ hon)

theorem execCommitSlot_unverified :
    execCommitSlot r false s = .next (raevoAnswered s s.flash (.raevoAnswer r.source 4 r.seq 3 [])) :=
  congrArg Host.Outcome.next (serveRaevo_on hctl 4 r _ hon)

theorem execClearCounter_on : execClearCounter r s =
    .next (raevoAnswered s (s.flash.setBoot fun b => { b with count := 0 }) (.raevoAnswer r.source 5 r.seq 0 [])) :=
  congrArg Host.Outcome.next (serveRaevo_on hctl 5 r _ hon)

/-- RESET is answered before the module is reset. -/
theorem execRaevoReset_on (hcool : s.power.shutdown = false) : execRaevoReset r s =
    .next (moduleResetHbm (raevoAnswered s s.flash (.raevoAnswer r.source 6 r.seq 0 []))) := by
  have hserve := serveRaevo_on hctl 6 r (fun t => (t, 0, [])) hon
  rw [execRaevoReset, hserve, if_pos (by rw [hon.1, hon.2]; rfl)]
  exact congrArg Host.Outcome.next (unlessHot_cool (by exact hcool) _)

end

/-- Without the responder every request is discarded. -/
theorem exec_raevo_off (hoff : ¬ RaevoOn s) (r : RaevoReq) (data : List Byte) :
    ∀ i ∈ [Instr.info r, .readFlash r, .writeSlot r data true, .commitSlot r true, .clearCounter r, .raevoReset r],
      exec i s = .next (discarded s) := by
  have hserve op act : (.next (serveRaevo s op r act) : Out) = .next (discarded s) :=
    congrArg Host.Outcome.next (serveRaevo_off hctl op r act hoff)
  have hreset : (.next (if mgmtOn s && s.boot.minimal then unlessHot (serveRaevo s 6 r fun t => (t, 0, [])) moduleResetHbm
      else serveRaevo s 6 r fun t => (t, 0, [])) : Out) = .next (discarded s) := by
    rw [if_neg (mt (Bool.and_eq_true _ _).mp hoff)]
    exact hserve 6 _
  simp only [List.forall_mem_cons]
  exact ⟨hserve _ _, hserve _ _, hserve _ _, hserve _ _, hserve _ _, hreset, List.forall_mem_nil _⟩

end

/-- Settles O57: a request is answered, with the flash that it leaves, or discarded. -/
theorem raevoServes : Obligations.RaevoServes := by
  unfold Obligations.RaevoServes
  intro s r data hctl served answers came
  refine ⟨fun hon => ⟨?info, ?read, ?long, ?write, ?commit, ?unverified, ?clear, ?reset⟩, fun hoff i hi => ?off⟩
  case info => exact ⟨_, execInfo_on hctl hon r, raevoCame_answered s _, rfl⟩
  case read =>
    intro hlen hread
    exact ⟨_, execReadFlash_on hctl hon r hlen hread, raevoCame_answered s _, rfl⟩
  case long =>
    intro hlen
    exact ⟨⟨_, execReadFlash_long hctl hon r hlen, raevoCame_answered s _, rfl⟩,
      _, execWriteSlot_long hctl hon r data hlen, raevoCame_answered s _, rfl⟩
  case write =>
    intro hlen hslot hdata
    exact ⟨_, execWriteSlot_on hctl hon r hlen hslot hdata, raevoCame_wrote s _ _, rfl,
      fun k hk => flashByte_writeFlash s _ data (hdata ▸ hk)⟩
  case commit =>
    exact ⟨_, execCommitSlot_on hctl hon r, raevoCame_wrote s _ _, rfl, Flash.bootRec_setBoot _ _, rfl, rfl, rfl, rfl⟩
  case unverified => exact ⟨_, execCommitSlot_unverified hctl hon r, raevoCame_answered s _, rfl⟩
  case clear => exact ⟨_, execClearCounter_on hctl hon r, raevoCame_wrote s _ _, rfl, Flash.bootRec_setBoot _ _⟩
  case reset =>
    intro hcool
    have hlost := lost_moduleResetHbm (raevoAnswered s s.flash (.raevoAnswer r.source 6 r.seq 0 []))
    exact ⟨_, execRaevoReset_on hctl hon r hcool, hlost.out, hlost.mem, hlost.parts, hlost.boot, hlost.flash,
      by rw [moduleResetHbm_power]⟩
  case off =>
    exact ⟨_, exec_raevo_off hctl hoff r data i hi, ⟨changes_of (within_discarded s at0 at1), discarded_power s,
      discarded_received s⟩, fun k hk => discarded_page_ne s hk, discarded_counted s⟩

end Sys2Proof.Machine

/-! SMBus: reads, the writes of the cap and of the alert word, and the alert response (R554–R556). -/

namespace Sys2Proof.Machine

variable {s : State}

/-! ### Transactions -/

theorem smbus_acts (hctl : domOn s domCtl = true) (act : State → State) : smbus s true act = act s := by
  rw [smbus, hctl]
  rfl

theorem smbus_nacks (hctl : domOn s domCtl = true) (act : State → State) : smbus s false act = s.emit .smbusNack := by
  rw [smbus, hctl]
  rfl

/-! ### The alert word -/

/-- A clear takes the bits written whose cause no longer holds. -/
theorem clearable_bit (s : State) (mask : Byte) {b : Nat} (hb : b < 8) :
    (clearable s mask).getLsbD b = (mask.getLsbD b && !causeHolds s b) := by
  rw [clearable, BitVec.getLsbD_ofNat, testBit_sum_two_pow (List.nodup_range.filter _), decide_eq_true hb, Bool.true_and]
  simp [List.mem_filter, hb]

/-- Settles O58: a transaction with a good code has its effect and answer, one with a bad code only a NACK. -/
theorem smbusAnswers : Obligations.SmbusAnswers := by
  unfold Obligations.SmbusAnswers
  intro s mask cap hctl own block reads
  have hacts (act : State → State) : (.next (smbus s true act) : Out) = .next (act s) := congrArg _ (smbus_acts hctl act)
  have hnacks (act : State → State) : (.next (smbus s false act) : Out) = .next (s.emit .smbusNack) :=
    congrArg _ (smbus_nacks hctl act)
  refine ⟨?reads, ?cap, ?clear, ⟨hnacks _, hnacks _⟩, ?alert, ?quiet, congrArg Host.Outcome.next (if_pos hctl)⟩
  case reads =>
    have hread (act : State → State) : (.next (smbus s true act) : Out) = .next (act s) ∧
        (.next (smbus s false act) : Out) = .next (s.emit .smbusNack) := ⟨hacts act, hnacks act⟩
    simp only [reads, List.forall_mem_cons]
    exact ⟨hread _, hread _, hread _, hread _, hread _, hread _, hread _, hread _, List.forall_mem_nil _⟩
  case cap =>
    refine ⟨_, hacts _, changes_of (within_State_emit at0 _ _ (within_State_setReg at1 _ _ _ _ (within_refl _ s))), ?_, rfl⟩
    rw [State.emit_reg, State.reg_setReg_same, clampCap]
  case clear =>
    refine ⟨_, hacts _, fun p hp => ?_, rfl, fun b hb => ?_⟩
    · cases p <;> first | rfl | exact absurd (by decide) hp
    · have hbit : (s.power.alert &&& ~~~(clearable s mask)).getLsbD b =
          (s.power.alert.getLsbD b && !(mask.getLsbD b && !causeHolds s b)) := by
        rw [BitVec.getLsbD_and, BitVec.getLsbD_not, clearable_bit s mask hb, decide_eq_true hb, Bool.true_and]
      exact hbit
  case alert =>
    intro halert
    have hcond : (domOn s domCtl && s.power.alert != 0) = true := by simpa [hctl] using halert
    exact ⟨_, (Config.freeLong s.free).toNat % 2, Nat.mod_lt _ (by decide), congrArg Host.Outcome.next (if_pos hcond),
      changes_of (within_State_emit at1 _ _ (within_drawFree at0 s (within_refl _ s))), rfl⟩
  case quiet =>
    intro hquiet
    exact congrArg Host.Outcome.next (if_neg (by simp [hquiet]))

end Sys2Proof.Machine

/-! The stages of a start: what each of them leaves (R39, R396, R401, R411, R423, R476–R478, R499, R513–R519). -/

namespace Sys2Proof.Machine

/-! ### A start that fails (R514, R516) -/

/-- The last record of the log in flash tells this failure. -/
def LatestFailure (s : State) (code : Nat) : Prop := ∃ f, s.flash.failures.getLast? = some f ∧ f.code = BitVec.ofNat 8 code

/-- The start has failed and begins anew. -/
def StartFailed (s : State) (code : Nat) : Prop := s.boot = {} ∧ s.parts = [] ∧ LatestFailure s code

section
variable (s : State) (code die detail : Nat)

/-- Of the log's ring of 16 the record that joins is the last. -/
theorem latestFailure_addFailure : LatestFailure (addFailure s code die detail) code := by
  have hlast (l : List FailRec) (r : FailRec) : ((l ++ [r]).drop ((l ++ [r]).length - 16)).getLast? = some r := by
    rw [List.getLast?_drop, if_neg (by simp), List.getLast?_concat]
  exact ⟨_, (congrArg List.getLast? (Flash.failures_setFailures _ _)).trans (hlast _ _), rfl⟩

theorem addFailure_flash_boot : (addFailure s code die detail).flash.boot = s.flash.boot := rfl

theorem failStart_flash : (failStart s code die detail).flash = (addFailure s code die detail).flash := warmReset_flash _

theorem startFailed_failStart : StartFailed (failStart s code die detail) code := by
  refine ⟨warmReset_boot _, warmReset_parts _, ?_⟩
  rw [LatestFailure, failStart_flash]
  exact latestFailure_addFailure s code die detail

theorem failStart_bootCount : (failStart s code die detail).flash.bootCount = s.flash.bootCount := by
  rw [failStart_flash]
  rfl

end

/-! ### The boot ROM begins a start -/

section
variable (s : State) (strap : BitVec 3)

/-- The straps, fuses and identity are sensed, and the image is chosen. -/
def sensed : State := { s with
  power := { s.power with strap := if s.power.strapDone then s.power.strap else strap, strapDone := true },
  sealU := { s.sealU with identity := true, privKey := identityPrivate s.fuses.secret },
  fuses := { s.fuses with
    identityKey := BitVec.ofNat 256 (ofLe (edPublic (leBytes 32 (identityPrivate s.fuses.secret).toNat))),
    deviceId := deviceIdOf (BitVec.ofNat 256 (ofLe (edPublic (leBytes 32 (identityPrivate s.fuses.secret).toNat)))) },
  boot := { s.boot with
    begun := true, startCount := s.flash.bootCount + 1, image := imageFor s s.flash.bootCount, opKey := s.fuses.opKey } }

/-- A boot record with no valid copy is recorded. -/
def sensedNoted : State := if s.flash.boot.read.isNone then addFailure (sensed s strap) failRecord 0xFF 0 else sensed s strap

theorem beginStart_eq : beginStart s strap =
    ramp { sensedNoted s strap with
      flash := (sensedNoted s strap).flash.setBoot fun b => { b with count := s.flash.bootCount + 1 } }
      (rankOff (sensedNoted s strap) 2) := rfl

/-- Noting the record writes the log only. -/
theorem sensedNoted_eq : sensedNoted s strap = { sensed s strap with flash := (sensedNoted s strap).flash } := by
  unfold sensedNoted
  split <;> rfl

theorem sensedNoted_flash_boot : (sensedNoted s strap).flash.boot = s.flash.boot := by
  unfold sensedNoted
  split <;> rfl

theorem sensedNoted_rankOff : rankOff (sensedNoted s strap) 2 = rankOff s 2 := by
  rw [sensedNoted_eq]
  rfl

theorem beginStart_power : (beginStart s strap).power = { (sensed s strap).power with ramping := rankOff s 2 } := by
  rw [beginStart_eq, sensedNoted_rankOff, sensedNoted_eq]
  rfl

theorem beginStart_boot : (beginStart s strap).boot = (sensed s strap).boot := by
  rw [beginStart_eq, sensedNoted_eq]
  rfl

theorem beginStart_fuses : (beginStart s strap).fuses = (sensed s strap).fuses := by
  rw [beginStart_eq, sensedNoted_eq]
  rfl

theorem beginStart_bootRec :
    (beginStart s strap).flash.bootRec = { s.flash.bootRec with count := s.flash.bootCount + 1 } := by
  have hrec : (sensedNoted s strap).flash.bootRec = s.flash.bootRec := by
    rw [Flash.bootRec, sensedNoted_flash_boot, Flash.bootRec]
  rw [beginStart_eq, ← hrec]
  exact Flash.bootRec_setBoot _ _

theorem beginStart_failures : (beginStart s strap).flash.failures = (sensedNoted s strap).flash.failures := rfl

theorem beginStart_failures_kept (h : s.flash.boot.read.isSome = true) :
    (beginStart s strap).flash.failures = s.flash.failures := by
  rw [beginStart_failures, sensedNoted, if_neg (by simpa using Option.isSome_iff_ne_none.1 h)]
  rfl

theorem beginStart_failure (h : s.flash.boot.read = none) : LatestFailure (beginStart s strap) failRecord := by
  rw [LatestFailure, beginStart_failures, sensedNoted, if_pos (by rw [h]; rfl)]
  exact latestFailure_addFailure _ _ _ _

theorem beginStart_rankOff : rankOff (beginStart s strap) 2 = rankOff s 2 := by
  have hdom k : domOn (beginStart s strap) k = domOn s k := by
    rw [domOn, beginStart_power]
    rfl
  simp only [rankOff, hdom]
  rfl

theorem beginStart_ready : romReady (beginStart s strap) = romReady s := by
  simp only [romReady, domOn, beginStart_power, beginStart_boot]
  rfl

theorem changes_beginStart : Changes [.power, .sealU, .fuses, .boot, .flash] s (beginStart s strap) :=
  changes_of (within_beginStart at1 at0 at3 at4 at2 s strap (within_refl _ s))

end

section
variable {s : State} (verified : Bool) (hash : BitVec 512) (strap : BitVec 3)

theorem execBootRom_unready (h : romReady s = false) : execBootRom verified hash strap s = .next s :=
  congrArg Host.Outcome.next (if_pos (by rw [h]; rfl))

section
variable (hready : romReady s = true)
include hready

theorem execBootRom_new (hnew : s.boot.begun = false) : execBootRom verified hash strap s =
    .next (if (rankOff s 2).isEmpty then finishRom (beginStart s strap) verified hash else beginStart s strap) := by
  rw [← beginStart_rankOff s strap]
  simp only [execBootRom, hready, hnew, Bool.not_true, Bool.false_eq_true, if_false]

theorem execBootRom_begun (hbegun : s.boot.begun = true) : execBootRom verified hash strap s =
    .next (if (rankOff s 2).isEmpty then finishRom s verified hash else s) := by
  simp only [execBootRom, hready, hbegun, Bool.not_true, Bool.false_eq_true, if_true, if_false]

theorem execBootRom_begins (hnew : s.boot.begun = false) (hoff : rankOff s 2 ≠ []) :
    execBootRom verified hash strap s = .next (beginStart s strap) :=
  (execBootRom_new verified hash strap hready hnew).trans (congrArg _ (if_neg (mt List.isEmpty_iff.1 hoff)))

theorem execBootRom_goes_on (hbegun : s.boot.begun = true) (hon : rankOff s 2 = []) :
    execBootRom verified hash strap s = .next (finishRom s verified hash) :=
  (execBootRom_begun verified hash strap hready hbegun).trans (congrArg _ (if_pos (List.isEmpty_iff.2 hon)))

/-- Where rank 2 is on already, the start goes on at once. -/
theorem execBootRom_begins_on (hnew : s.boot.begun = false) (hon : rankOff s 2 = []) :
    execBootRom verified hash strap s = execBootRom verified hash strap (beginStart s strap) := by
  rw [execBootRom_goes_on verified hash strap ((beginStart_ready s strap).trans hready) (by rw [beginStart_boot]; rfl)
    ((beginStart_rankOff s strap).trans hon)]
  exact (execBootRom_new verified hash strap hready hnew).trans (congrArg _ (if_pos (List.isEmpty_iff.2 hon)))

end

end

/-! ### The boot ROM goes on -/

section
variable {s : State} (hash : BitVec 512)

/-- Stage 1 is measured, and host core 0 released to run it. -/
def stageOneReleased (s : State) (hash : BitVec 512) : State := { copyStage1 s with
  boot := { s.boot with romDone := true, stage := 1, hostsOn := 1 }, sealU := { s.sealU with m0 := extend s.sealU.m0 hash } }

theorem finishRom_verified (h : s.boot.image ≠ 3) : finishRom s true hash = stageOneReleased s hash :=
  (if_neg h).trans (if_neg (by decide))

theorem finishRom_unverified (h : s.boot.image ≠ 3) : finishRom s false hash = failStart (copyStage1 s) failVerify 0xFF 0 :=
  (if_neg h).trans (if_pos rfl)

theorem finishRom_minimal (verified : Bool) (h : s.boot.image = 3) : finishRom s verified hash = enterMinimal s := if_pos h

theorem changes_stageOneReleased : Changes [.mem, .sealU, .boot] s (stageOneReleased s hash) := fun p hp => by
  cases p <;> first | rfl | exact absurd (by decide) hp

theorem enterMinimal_boot : (enterMinimal s).boot =
    { s.boot with romDone := true, minimal := true, image := 3, stage := 0, hostsOn := 1 } := setEvent_boot _ _ _

theorem enterMinimal_flash : (enterMinimal s).flash = s.flash := setEvent_flash _ _ _

theorem enterMinimal_alert : (enterMinimal s).power.alert = s.power.alert ||| 0x20 := raiseAlert_alert _ _

theorem enterMinimal_domains : (enterMinimal s).power.domains =
    s.power.domains &&& BitVec.ofNat 47 (2 ^ bootDomain + 2 ^ domCtl + 2 ^ domHubfab) :=
  congrArg Power.domains (setEvent_power _ _ _)

end

/-! ### Stage 1 -/

/-- A state with the parts that the end of a stage sets. Its laws hold for every value of them, so no measurement is computed
where they are used. -/
def staged (s : State) (p : Power) (b : Boot) (u : Seal) : State := { s with power := p, boot := b, sealU := u }

section
variable (s : State) (p : Power) (b : Boot) (u : Seal)

theorem changes_staged : Changes [.power, .boot, .sealU] s (staged s p b u) := fun q hq => by
  cases q <;> first | rfl | exact absurd (by decide) hq

theorem staged_flash : (staged s p b u).flash = s.flash := rfl

theorem ramp_staged (l : List Nat) : ramp (staged s p b u) l = staged s { p with ramping := l } b u := rfl

end

section
variable {s : State} (hash : BitVec 512) (hashes : List (BitVec 512))

/-- A repair record or a configuration with no valid copy is recorded. -/
def recordsNoted (s : State) : State :=
  if s.flash.repair.read.isNone || s.flash.config.read.isNone then addFailure s failRecord 0xFF 0 else s

/-- Stage 2 is entered: its image and the configuration are measured. -/
def stageTwoEntered (s : State) : State := staged s s.power { s.boot with stage := 2, certOk := true }
  { s.sealU with m1 := extend s.sealU.m1 hash, m3 := hashes.foldl extend s.sealU.m3 }

theorem changes_stageTwoEntered (l : List Nat) : Changes [.power, .boot, .sealU] s (ramp (stageTwoEntered hash hashes s) l) := by
  rw [stageTwoEntered, ramp_staged]
  exact changes_staged _ _ _ _

theorem latestFailure_stageTwoEntered {code : Nat} (h : LatestFailure s code) (l : List Nat) :
    LatestFailure (ramp (stageTwoEntered hash hashes s) l) code := by
  rwa [LatestFailure, stageTwoEntered, ramp_staged, staged_flash]

theorem recordsNoted_kept (hrepair : s.flash.repair.read.isSome = true) (hconfig : s.flash.config.read.isSome = true) :
    recordsNoted s = s := by
  refine if_neg ?_
  rw [Option.isNone_eq_false_iff.2 hrepair, Option.isNone_eq_false_iff.2 hconfig]
  decide

theorem latestFailure_recordsNoted (h : s.flash.repair.read = none ∨ s.flash.config.read = none) :
    LatestFailure (recordsNoted s) failRecord := by
  rw [recordsNoted, if_pos (by simpa using h)]
  exact latestFailure_addFailure _ _ _ _

variable (hstage : s.boot.stage = 1)
include hstage

theorem execStage1_passes : execStage1 true true hash hashes s = .next (ramp (stageTwoEntered hash hashes (recordsNoted s))
    (nextRank (stageTwoEntered hash hashes (recordsNoted s)))) :=
  congrArg Host.Outcome.next
    ((if_neg (not_not_intro hstage)).trans ((if_neg Bool.false_ne_true).trans (if_neg Bool.false_ne_true)))

theorem execStage1_uncertified :
    execStage1 false true hash hashes s = .next (failStart (recordsNoted s) failCert 0xFF 0) :=
  congrArg Host.Outcome.next ((if_neg (not_not_intro hstage)).trans (if_pos rfl))

theorem execStage1_unverified :
    execStage1 true false hash hashes s = .next (failStart (recordsNoted s) failVerify 0xFF 1) :=
  congrArg Host.Outcome.next ((if_neg (not_not_intro hstage)).trans ((if_neg Bool.false_ne_true).trans (if_pos rfl)))

end

/-! ### Stage 2 -/

section
variable {s : State} {r : Stage2Report}

/-- How many channels of HBM are excluded after the hard repairs of a report. -/
def excludedCount (s : State) (r : Stage2Report) : Nat := ((excludedAfter s (hardRepairs s.flash.hardRows r)).map onesOf).sum

variable (hready : stage2Ready s = true)
include hready

theorem execStage2_link {d p : Nat} (h : failedLink r = some (d, p)) : execStage2 r s = .next (failStart s failD2d d p) := by
  simp [execStage2, hready, h]

theorem execStage2_stack {k : Nat} (hlinks : failedLink r = none) (h : failedStack r = some k) :
    execStage2 r s = .next (failStart s failStack (k / 2) (k % 2)) := by
  simp [execStage2, hready, hlinks, h]

variable (hlinks : failedLink r = none) (hstacks : failedStack r = none)
include hlinks hstacks

theorem execStage2_excluded (h : 8 < excludedCount s r) :
    execStage2 r s = .next (failStart s failExcluded 0xFF (excludedCount s r)) := by
  rw [excludedCount] at h ⊢
  simp [execStage2, hready, hlinks, hstacks, h]

theorem execStage2_passes (hfew : excludedCount s r ≤ 8) (himages : r.imagesOk = true) : execStage2 r s =
    .next (bringUp s r (hardRepairs s.flash.hardRows r) (excludedAfter s (hardRepairs s.flash.hardRows r))) := by
  rw [excludedCount] at hfew
  simp [execStage2, hready, hlinks, hstacks, Nat.not_lt.2 hfew, himages]

end

/-! ### The module is brought up -/

section
variable (s : State)

/-- A controller that is ready stays so, where what is done to a controller leaves it ready. -/
theorem State.ready_modHbmc {f : Hbmc → Hbmc} (hf : ∀ h, (f h).ready = true) {d k j i : Nat}
    (h : (d = j ∧ k = i) ∨ (s.hbmc d k).ready = true) : ((s.modHbmc j i f).hbmc d k).ready = true := by
  by_cases hd : d = j
  · subst hd
    by_cases hk : k = i
    · subst hk
      rw [State.hbmc_modHbmc_same]
      exact hf _
    · have hready : ((s.die d).hbmc k).ready = true := h.resolve_left fun e => hk e.2
      rw [State.hbmc, State.modHbmc, State.die_modDie]
      unfold Die.setHbmc
      unfold Die.hbmc at hready ⊢
      split <;> split <;> simp_all
  · rw [State.hbmc, State.modHbmc, State.die_modDie_ne _ _ _ _ hd]
    exact h.resolve_left fun e => hd e.1

/-- Each controller of a list, numbered by die and stack, is ready once it is made so. -/
theorem ready_foldl_modHbmc (f : Nat → Hbmc → Hbmc) (hf : ∀ j h, (f j h).ready = true) (l : List Nat) {d k : Nat}
    (h : (∃ j ∈ l, d = j / 2 ∧ k = j % 2) ∨ (s.hbmc d k).ready = true) :
    ((l.foldl (fun (t : State) j => t.modHbmc (j / 2) (j % 2) (f j)) s).hbmc d k).ready = true := by
  induction l generalizing s with
  | nil => exact h.resolve_left fun ⟨_, hm, _⟩ => List.not_mem_nil hm
  | cons j l ih =>
    rw [List.foldl_cons]
    refine ih _ ?_
    by_cases hj : d = j / 2 ∧ k = j % 2
    · exact .inr (s.ready_modHbmc (hf j) (.inl hj))
    · refine h.imp (fun ⟨i, hm, hi⟩ => ⟨i, (List.mem_cons.1 hm).resolve_left fun e => hj (e ▸ hi), hi⟩)
        fun hr => s.ready_modHbmc (hf j) (.inr hr)

/-- One function applied to each die of a list without repeats. -/
theorem foldl_modDie_die (f : Die → Die) (l : List Nat) (hn : l.Nodup) (d : Nat) :
    (l.foldl (fun (t : State) j => t.modDie j f) s).die d = if d ∈ l then f (s.die d) else s.die d := by
  induction l generalizing s with
  | nil => simp
  | cons j l ih =>
    obtain ⟨hj, hl⟩ := List.nodup_cons.1 hn
    rw [List.foldl_cons, ih _ hl]
    by_cases h : d = j
    · subst h; simp [hj]
    · simp [h, State.die_modDie_ne s j d f h]

end

section
variable (s : State) (r : Stage2Report) (f : Repairs) (ex : List Word)

/-- A die in service. -/
def Die.inService (v : Die) : Die :=
  { v with dc0 := { v.dc0 with running := true }, dc1 := { v.dc1 with running := true }, slabReady := true }

theorem Die.hbmc_inService (v : Die) (k : Nat) : v.inService.hbmc k = v.hbmc k := rfl

theorem bringUpDies_die {d : Nat} (hd : d < 4) : (bringUpDies s).die d = (s.die d).inService := by
  have hports (t : State) (l : List Nat) :
      (l.foldl (fun (t : State) k => setD2d t k { trained := true, down := (d2dOf t k).down }) t).dies = t.dies :=
    (within_foldl (S := (· ∈ [Piece.d2d])) _ l t (fun _ _ ht => within_setD2d at0 _ _ _ ht) (within_refl _ t)).dies (by decide)
  rw [State.die, bringUpDies, hports]
  exact (foldl_modDie_die s Die.inService _ List.nodup_range d).trans (if_pos (List.mem_range.2 hd))

theorem bringUpHbm_ready {d k : Nat} (hd : d < 4) (hk : k < 2) : ((bringUpHbm s r f ex).hbmc d k).ready = true := by
  refine ready_foldl_modHbmc _ (fun j h => { h with
    ready := true, pprHard := BitVec.ofNat 16 (f.left.getD j 0), pprSoft := r.pprSoft.getD j 0 }) (fun _ _ => rfl) _
    (.inl ⟨2 * d + k, List.mem_range.2 (by omega), by omega, by omega⟩)

/-- The ports and the BELL page as stage 2 brings them up, on the state that holds the dies. -/
def linksBroughtUp (t : State) : State :=
  s.flash.settings.bell.foldl (fun (t : State) e => t.setReg pnBell e.1 e.2)
    (((List.range 12).filter (storedOn s)).foldl (bringUpPort r) t)

/-- All that stage 2 brings up; the bell runs. -/
def broughtUp : State :=
  let t := linksBroughtUp s r (bringUpDies (bringUpHbm s r f ex))
  t.setReg pnBell 0x010 (t.reg pnBell 0x010 ||| 1)

theorem bringUp_eq : bringUp s r f ex = { broughtUp s r f ex with
    boot := { (broughtUp s r f ex).boot with stage := 3, hostsOn := 0xFFFF },
    sealU := { (broughtUp s r f ex).sealU with m2 := r.imageHashes.foldl extend (broughtUp s r f ex).sealU.m2 } } := rfl

theorem within_linksBroughtUp {S : Piece → Prop} (hout : S .out) (hpages : S .pages) (hcrier : S .crier) (hlinks : S .links)
    {z t : State} (h : Within S z t) : Within S z (linksBroughtUp s r t) := by
  refine within_foldl _ _ _ (fun _ _ ht => within_State_setReg hpages _ _ _ _ ht) ?_
  exact within_foldl _ _ _ (fun _ _ ht => within_bringUpPort hout hpages hcrier hlinks _ _ _ ht) h

/-- Neither the start's state nor the measurements change before the end of stage 2. -/
theorem within_broughtUp :
    Within (· ∈ [Piece.out, .hbmErr, .burstKey, .hbmStale, .pages, .dies, .d2d, .crier, .links, .flash]) s (broughtUp s r f ex) := by
  refine within_State_setReg (by decide) _ _ _ _ (within_linksBroughtUp s r at0 (by decide) (by decide) (by decide) ?_)
  refine within_bringUpDies (by decide) (by decide) _ ?_
  exact within_bringUpHbm at1 at2 at3 (by decide) (by decide) (by decide) s r f ex (within_refl _ s)

theorem broughtUp_dies : (broughtUp s r f ex).dies = (bringUpDies (bringUpHbm s r f ex)).dies :=
  (within_State_setReg (S := (· ∈ [Piece.out, .pages, .crier, .links])) at1 _ _ _ _
    (within_linksBroughtUp s r at0 at1 at2 at3 (within_refl _ _))).dies (by decide)

theorem bringUp_boot : (bringUp s r f ex).boot = { s.boot with stage := 3, hostsOn := 0xFFFF } := by
  rw [bringUp_eq, (within_broughtUp s r f ex).boot (by decide)]

theorem bringUp_m2 : (bringUp s r f ex).sealU.m2 = r.imageHashes.foldl extend s.sealU.m2 := by
  rw [bringUp_eq, (within_broughtUp s r f ex).sealU (by decide)]

theorem bringUp_die {d : Nat} (hd : d < 4) : (bringUp s r f ex).die d = ((bringUpHbm s r f ex).die d).inService := by
  rw [← bringUpDies_die _ hd]
  exact congrArg (mget Die.init · d) (broughtUp_dies s r f ex)

theorem bringUp_ready {d k : Nat} (hd : d < 4) (hk : k < 2) : ((bringUp s r f ex).hbmc d k).ready = true := by
  rw [State.hbmc, bringUp_die s r f ex hd, Die.hbmc_inService]
  exact bringUpHbm_ready s r f ex hd hk

theorem bringUp_bellEn : bellEn (bringUp s r f ex) = true := by
  have hreg : (bringUp s r f ex).reg pnBell 0x010 =
      (linksBroughtUp s r (bringUpDies (bringUpHbm s r f ex))).reg pnBell 0x010 ||| 1 := State.reg_setReg_same _ _ _ _
  rw [bellEn, bellCtl, State.regN, hreg, BitVec.testBit_toNat, BitVec.getLsbD_or]
  exact Bool.or_true _

end

/-! ### The end of a start -/

section
variable {s : State}

theorem execBootOk_takes {init : Nat} {value : Word} (hserved : Served s init bootOkAddr true) (hbit : value.getLsbD 0 = true)
    (hnot : s.boot.bootOk = false) : execBootOk ⟨init, false⟩ value s = .next { disarm s pnBoot with
      boot := { s.boot with bootOk := true },
      flash := s.flash.setBoot fun b =>
        { b with count := 0, prefSlot := if s.boot.image.toNat < 2 then s.boot.image else b.prefSlot } } := by
  rw [← disarm_boot s pnBoot] at hnot ⊢
  rw [← disarm_flash s pnBoot]
  exact congrArg Host.Outcome.next ((ctlWrite_served hserved _ _).trans (if_pos ⟨hbit, hnot⟩))

theorem execStartWatchdogExpiry_fails (hon : s.power.phase = .on) (hnot : s.boot.bootOk = false)
    (hcool : s.power.shutdown = false) (hrst : s.power.modRst = false) (hlimit : watchdogLimit s ≤ s.boot.watchdog) :
    execStartWatchdogExpiry s = .next (failStart s failTimeout 0xFF 0) :=
  congrArg Host.Outcome.next (if_pos ⟨hon, hnot, hcool, hrst, hlimit⟩)

theorem execStartWatchdogExpiry_done (h : s.boot.bootOk = true) : execStartWatchdogExpiry s = .next s :=
  congrArg Host.Outcome.next (if_neg fun ⟨_, hnot, _⟩ => Bool.false_ne_true (hnot.symm.trans h))

theorem changes_disarm_boot (b : Boot) (fl : Flash) :
    Changes [.pages, .boot, .flash] s { disarm s pnBoot with boot := b, flash := fl } := fun p hp => by
  have h := changes_of (within_disarm (S := (· ∈ [Piece.pages])) at0 s pnBoot (within_refl _ s)) p
  cases p <;> first | exact h (by decide) | exact absurd (by decide) hp

end

/-- Settles O56: each command of a start has a law that names the state it leads to, and each such state its laws. -/
theorem startProceeds : Obligations.StartProceeds := by
  unfold Obligations.StartProceeds
  intro s init value hash strap hashes r latest failed reps few c image ready goesOn
  refine ⟨?begins, ?beginsOn, ?stageOne, ?minimal, ?unready, ?stageOneRuns, ?stageTwo, ?link, ?stack, ?excluded, ?bootOk, ?watchdog,
    execStartWatchdogExpiry_done⟩
  case begins =>
    intro verified hready hnew hoff
    refine ⟨_, execBootRom_begins verified hash strap hready hnew hoff, changes_beginStart s strap, ?_, beginStart_boot s strap,
      ?_, ?_, ?_, ?_, beginStart_failures_kept s strap, beginStart_failure s strap⟩
    · rw [beginStart_power]
    · rw [beginStart_fuses]
      rfl
    · rw [beginStart_fuses]
      rfl
    · exact congrArg BootRecord.count (beginStart_bootRec s strap)
    · exact (congrArg BootRecord.prefSlot (beginStart_bootRec s strap) :)
  case beginsOn => exact fun verified => execBootRom_begins_on verified hash strap
  case stageOne =>
    intro ⟨hready, hbegun, hon⟩ himage
    have hrun verified := execBootRom_goes_on verified hash strap hready hbegun hon
    refine ⟨⟨_, (hrun true).trans (congrArg _ (finishRom_verified hash himage)), changes_stageOneReleased hash, rfl, rfl⟩,
      ⟨_, (hrun false).trans (congrArg _ (finishRom_unverified hash himage)), startFailed_failStart _ _ _ _, ?_⟩⟩
    rw [failStart_bootCount]
    rfl
  case minimal =>
    intro verified ⟨hready, hbegun, hon⟩ himage
    exact ⟨_, (execBootRom_goes_on verified hash strap hready hbegun hon).trans
      (congrArg _ (finishRom_minimal hash verified himage)), enterMinimal_boot, enterMinimal_alert, enterMinimal_flash,
      enterMinimal_domains⟩
  case unready => exact fun verified => execBootRom_unready verified hash strap
  case stageOneRuns =>
    intro hstage
    refine ⟨fun hrepair hconfig => ?_, fun hnone => ?_, ?_, ?_⟩
    · have hrun := execStage1_passes hash hashes hstage
      rw [recordsNoted_kept hrepair hconfig] at hrun
      exact ⟨_, hrun, rfl, rfl, rfl, changes_stageTwoEntered hash hashes _⟩
    · exact ⟨_, execStage1_passes hash hashes hstage, rfl,
        latestFailure_stageTwoEntered hash hashes (latestFailure_recordsNoted hnone) _⟩
    · exact ⟨_, execStage1_uncertified hash hashes hstage, startFailed_failStart _ _ _ _⟩
    · exact ⟨_, execStage1_unverified hash hashes hstage, startFailed_failStart _ _ _ _⟩
  case stageTwo =>
    intro hready hlinks hstacks hfew himages
    refine ⟨_, execStage2_passes hready hlinks hstacks hfew himages, bringUp_boot _ _ _ _, bringUp_m2 _ _ _ _, fun d hd => ?_,
      bringUp_bellEn _ _ _ _⟩
    rw [bringUp_die _ _ _ _ hd]
    exact ⟨rfl, rfl, bringUp_ready _ _ _ _ hd Nat.two_pos, bringUp_ready _ _ _ _ hd Nat.one_lt_two⟩
  case link =>
    intro hready hlink
    obtain ⟨⟨d, p⟩, hsome⟩ := Option.ne_none_iff_exists'.1 hlink
    exact ⟨_, execStage2_link hready hsome, startFailed_failStart _ _ _ _⟩
  case stack =>
    intro hready hlinks hstack
    obtain ⟨k, hsome⟩ := Option.ne_none_iff_exists'.1 hstack
    exact ⟨_, execStage2_stack hready hlinks hsome, startFailed_failStart _ _ _ _⟩
  case excluded =>
    intro hready hlinks hstacks hmany
    exact ⟨_, execStage2_excluded hready hlinks hstacks (Nat.lt_of_not_le hmany), startFailed_failStart _ _ _ _⟩
  case bootOk =>
    intro hserved hbit hnot
    exact ⟨_, execBootOk_takes hserved hbit hnot, changes_disarm_boot _ _, rfl,
      congrArg BootRecord.count (Flash.bootRec_setBoot _ _), Flash.failures_setBoot _ _⟩
  case watchdog =>
    intro hon hnot hcool hrst hlimit
    exact ⟨_, execStartWatchdogExpiry_fails hon hnot hcool hrst hlimit, startFailed_failStart _ _ _ _⟩

end Sys2Proof.Machine
